-- ==== Sys2Proof/Word.lean ====
section
/-! DEFINITION. The word types of the Ustur Dunuk and the shapes of its sparse stores.
A sparse store is a list of (index, content) pairs with strictly rising indices; what an unlisted index
holds is said by the operation that reads it. -/

namespace Sys2Proof

/-- One byte. -/
abbrev Byte := BitVec 8
/-- A register, slot or quadword of 64 bits. -/
abbrev Word := BitVec 64
/-- A 32-bit register, or the bits of an FP32 number. -/
abbrev Word32 := BitVec 32
/-- Cores 0 to 1023 (R18). -/
abbrev CoreId := Fin 1024
/-- Guilds 0 to 31, and the Shale stacks above them (R18, R258). -/
abbrev GuildId := Fin 32
/-- Ilusk link ports 0 to 35 (R18). -/
abbrev LinkId := Fin 36
/-- Bedrock controllers 0 to 11 (R18). -/
abbrev CtlId := Fin 12
/-- Submission and completion rings 0 to 63 (R410). -/
abbrev RingId := Fin 64

/-- A sparse store of `α` by index. -/
abbrev Tab (α : Type) := List (Nat × α)
/-- A byte memory: strictly rising addresses, no listed byte equal to 0 (what an unlisted address reads as). -/
abbrev Mem := List (Nat × BitVec 8)

end Sys2Proof
end

