-- ==== Sys2Proof/Syntax.lean ====
section
/-! DEFINITION. The commands of the module: one constructor for each row of the operation table, with the operands the
outside world or the timing of the part supplies. `gap` is the number of cycles of the unit's island since its last step
(log 12). -/

namespace Sys2Proof

/-- What the start-up tests find (R430, Table 17.4): failing cores, slices, stacks as a whole, Bedrock controllers, link
ports, optical engines, and whether a part of the fabric or of the Counting House fails. -/
structure StartTests where
  cores : List CoreId
  slices : List (GuildId × Fin 16)
  stackList : List GuildId
  ctls : List CtlId
  ports : List LinkId
  engines : List (Fin 9)
  fabric : Bool
  house : Bool
  deriving DecidableEq, Repr

/-- What the planner measures at a window boundary (R432 to R435): the input energy in µJ, the predicted cost in µJ of raising
the fabric one point, and each guild's junction in m°C. -/
structure Measures where
  energy : Nat
  fabricCost : Nat
  temps : List Nat
  deriving DecidableEq, Repr

/-- Stores a failure left unreachable (R457): Shale, Bedrock, the context port of a live core. -/
structure LostStores where
  shale : Bool
  bedrock : Bool
  cores : Bool
  deriving DecidableEq, Repr

/-- An SPDM message (R453, R455): a measurement asked for, keys set (`some true`) or ended for the two IDE streams, or
any other message by its bytes. -/
structure SpdmMessage where
  measurement : Option (Fin 7)
  ioKeys : Option Bool
  memKeys : Option Bool
  other : List Byte
  deriving DecidableEq, Repr

/-- Where the master parameters and the two moments of a module's stage lie, each by the DVA of its entry 0. -/
structure Masters where
  w : BitVec 41
  m : BitVec 41
  v : BitVec 41
  deriving DecidableEq, Repr

/-- Another module of the job as this one reaches it: the DVA through which its collective area is written, and its live cores in
ascending order (R355, R360). -/
structure Mate where
  peer : BitVec 12
  base : BitVec 41
  cores : List CoreId
  deriving DecidableEq, Repr

/-- What the patterns of a job carry beside its plan (R352, R355, R365, R371; log 23): where the step's gradient, the
hyper-parameter row, the live and the staged master state and the working copy lie, the update with the formats of W, m and v
(FP16 or else BF16) and its rounding, the format of the working copy (FP32, BF16, FP16), the first line to which TOKENs are relayed, and the other modules. -/
structure Layout where
  gradient : BitVec 41
  hyper : BitVec 41
  home : Masters
  staging : Masters
  rule : Fin 3
  wHalf : Bool
  mHalf : Bool
  vHalf : Bool
  stochastic : Bool
  working : BitVec 41
  form : Fin 3
  relay : Fin 8192
  mates : List Mate
  deriving DecidableEq, Repr

/-- A move of the permute collective that leaves this module (R373, R375): the source core, its runs of bytes (from, to the
destination's staging, count), the flat blocks moved, the peer and core it goes to and, for a whole-core move, the DVA to which
the generator image goes. -/
structure Move where
  core : CoreId
  runs : List (BitVec 41 × BitVec 41 × Nat)
  first : BitVec 32
  blocks : BitVec 32
  peer : BitVec 12
  target : CoreId
  generators : Option (BitVec 41)
  deriving DecidableEq, Repr

/-- A move that arrives at this module: the destination core, the sender's peer identifier, slot and role, the flat blocks, the runs
of bytes (from staging, to the home pages, count), and where its generator image lies. -/
structure Arrival where
  core : CoreId
  peer : BitVec 12
  slot : Fin 64
  role : Fin 2
  first : BitVec 32
  blocks : BitVec 32
  runs : List (BitVec 41 × BitVec 41 × Nat)
  generators : Option (BitVec 41)
  deriving DecidableEq, Repr

/-- The commands. -/
inductive Instr where
  /-- POWER_ON (R428): The 54 V input and every regulator report good, which starts a cold reset. -/
  | powerOn
  /-- PERST_N_ASSERT (R502): PERST_n held asserted for 1 µs causes a cold reset, whatever is in progress (PERST_n has been low for `ns` ns). -/
  | perstNAssert (ns : Nat)
  /-- CXL_RESET (R428): A CXL Reset acts as a cold reset of the module. -/
  | cxlReset
  /-- START_UP (R429): The start-up sequence runs once PWR_OK is up and PERST_n is deasserted: firmware verified, units tested and fenced, stores zeroed, then READY or FAILED. -/
  | startUp (tests : StartTests)
  /-- POWER_LOSS (R501): Undervoltage, a regulator fault or overvoltage drops PWR_OK, stops every clock and removes the rails. -/
  | powerLoss
  /-- CXL_LINK_DOWN (R400): A hot reset or CXL link-down disables the rings and holds device-initiated CXL traffic (a hot reset, or else a link-down). -/
  | cxlLinkDown (hot : Bool)
  /-- CXL_LINK_UP (R400): The CXL link trains again and device-initiated traffic resumes. -/
  | cxlLinkUp
  /-- REFCLK_LOSS (R497): An absent or failed reference clock stops the HIF island and the host link. -/
  | refclkLoss
  /-- THERMAL_TRIP (R435): A sensor reading of 110 °C stops every core, fabric and bridge clock and sets FAILED (the sensor and its reading in m°C). -/
  | thermalTrip (sensor : Fin 32) (reading : Nat)
  /-- BRAKE (R436): Input current above 1.15 × cap ÷ 54 V halves every core island clock until the next window boundary (the input current in mA). -/
  | brake (current : Nat)
  /-- FW_WATCHDOG_EXPIRY (R424): A firmware service misses its report within 2^24 cycles and the device state becomes FAILED (row of Table 17.1). -/
  | fwWatchdogExpiry (service : Fin 6)
  /-- PLANNER_WINDOW (R432): At each window boundary the planner measures energy, updates the mirror, sets the budget and chooses operating points. -/
  | plannerWindow (m : Measures)
  /-- IDLE_ENTRY (R440): After an idle dwell the planner enters the deepest idle state allowed by the tolerable wake latency. -/
  | idleEntry
  /-- WAKE (R441): A doorbell, window access, link flit or far-end standby exit wakes the module from an idle state. -/
  | wake
  /-- ENERGY_RECORD (R439): The planner writes one energy record for an ended invocation to the report ring. -/
  | energyRecord (c : CoreId)
  /-- SQ_TAIL (R411): A doorbell write announces new submission entries to a submission ring. -/
  | sqTail (q : RingId) (v : Word32)
  /-- CQ_HEAD (R411): A doorbell write reports completions consumed from a completion ring. -/
  | cqHead (q : RingId) (v : Word32)
  /-- SQ_ENTRY_FETCH (R412): A submission entry is read whole from host memory and head advances. -/
  | sqEntryFetch (q : RingId)
  /-- NOP (R417): Host command that completes at once. -/
  | nop
  /-- TALLY_LOAD (R157): Host command that reads a source and writes Tally instruction or data memory of a core whose threads are all halted. -/
  | tallyLoad
  /-- THREAD_START (R129): Host command that starts a halted Tally thread at a given program counter. -/
  | threadStart
  /-- MAILBOX_WRITE (R417): Host command that writes CORE_MAILBOX and sets the mailbox bit of one or all cores. -/
  | mailboxWrite
  /-- CORE_RECOVER (R479): Host command that empties a frozen core's queues, faults its invocations, halts waiting threads and unfreezes it. -/
  | coreRecover
  /-- PLACE (R253): Host command that writes placement entries, invalidates cached copies and waits for old translations to finish. -/
  | place
  /-- PLACE_READ (R417): Host command that writes placement entries as held to host memory. -/
  | placeRead
  /-- SNAPSHOT (R380): Host command that requests a snapshot and waits for every live core to be quiescent. -/
  | snapshot
  /-- SNAPSHOT_CANCEL (R391): Host command that ends a snapshot in progress with reason CANCELLED. -/
  | snapshotCancel
  /-- RESTORE (R394): Host command that checks manifests and maps and restores pages and core contexts. -/
  | restore
  /-- ZEROISE (R457): Host command that clears every reachable store and resets tenant state (the highest sensor reading in m°C, and the stores a failure left unreachable). -/
  | zeroise (hottest : Nat) (lost : LostStores)
  /-- SET_POWER_CAP (R437): Host command that sets a new power cap, completing at the next window boundary. -/
  | setPowerCap
  /-- SET_WAKE_LATENCY (R437): Host command that sets the tolerable wake latency, taking effect at the next window boundary. -/
  | setWakeLatency
  /-- CQ_COMPLETION_WRITE (R413): A completion entry is written into its completion ring once the ring has room. -/
  | cqCompletionWrite (q : RingId)
  /-- CQ_INT_DELAY_EXPIRY (R420): The delay limit since the oldest unsignalled completion expires and the vector is sent. -/
  | cqIntDelayExpiry (q : RingId)
  /-- MSIX_VECTOR_UNMASK (R420): Unmasking a vector with its PBA bit set sends the pending interrupt. -/
  | msixVectorUnmask (v : Fin 65)
  /-- SQ_ENABLE (R410): Writing enable = 1 to a submission ring checks its set-up and enables it or sets cfg_err (the value written to HIF_SQ_CFG). -/
  | sqEnable (q : RingId) (v : Word32)
  /-- SQ_DISABLE (R416): Writing enable = 0 to a submission ring stops fetching and aborts unstarted commands. -/
  | sqDisable (q : RingId)
  /-- CQ_ENABLE (R410): Writing enable = 1 to a completion ring checks its set-up and enables it or sets cfg_err (the value written to HIF_CQ_CFG). -/
  | cqEnable (q : RingId) (v : Word32)
  /-- CQ_DISABLE (R416): Writing enable = 0 to a completion ring discards completions still bound for it. -/
  | cqDisable (q : RingId)
  /-- EVQ_ENABLE (R476): Writing enable = 1 to the event ring checks its set-up and enables it or sets cfg_err (the value written to HIF_EVQ_CFG). -/
  | evqEnable (v : Word32)
  /-- EVQ_DISABLE (R476): Writing enable = 0 to the event ring makes later records drop. -/
  | evqDisable
  /-- EV_PENDING_CLEAR (R474): A host W1C write to HIF_EV_PENDING clears event pending bits, losing to a same-cycle set. -/
  | evPendingClear (w : Fin 2) (v : Word)
  /-- EVENT_OCCURRENCE (R474): The events service takes one occurrence, counts it, writes a record when required and sets its pending bit. -/
  | eventOccurrence
  /-- HDM_WINDOW_READ (R404): A host CXL.mem read of the Bedrock window is translated by the placement table and answered (byte x of decoder 1, and whether the host takes the block with a cacheable state). -/
  | hdmWindowRead (x : BitVec 40) (cached : Bool)
  /-- HDM_WINDOW_WRITE (R404): A host CXL.mem write to the Bedrock window is translated and performed or discarded. -/
  | hdmWindowWrite (x : BitVec 40) (mask : BitVec 64) (data : BitVec 512) (mark : Bool)
  /-- STATUS_MIRROR_READ (R407): A host read of the status mirror is answered from on-die SRAM in the same transaction (byte x of decoder 0). -/
  | statusMirrorRead (x : BitVec 28)
  /-- HOST_SNOOP (R399): A host snoop is answered with RspIHitI. -/
  | hostSnoop
  /-- BIRSP (R405): The host's answer to a back-invalidation arrives, write-back data is performed and the filter entry dropped (the block answered for, and the data written back). -/
  | birsp (key : Nat) (wb : Option (BitVec 512))
  /-- IDE_CHECK_FAIL (R455): An IDE integrity check fails and the CXL link is handled as link-down. -/
  | ideCheckFail (io : Bool) (mem : Bool)
  /-- SPDM_REQUEST (R453): An SPDM request over DOE or MCTP is answered by the security service. -/
  | spdmRequest (req : SpdmMessage)
  /-- PLDM_FIRMWARE_UPDATE (R451): A PLDM firmware update writes the non-running slot and makes a verified image preferred. -/
  | pldmFirmwareUpdate (slotB : Bool) (image : List Byte)
  /-- I3C_ENTDAA (R498): The I3C target takes a dynamic address. -/
  | i3cEntdaa (addr : BitVec 7)
  /-- SEC_SVN_COMMIT (R452): Writing commit = 1 to SEC_SVN starts burning fuses up to the running svn. -/
  | secSvnCommit
  /-- SVN_FUSE_BURN_DONE (R490): Fuse burning ends and commit_busy clears. -/
  | svnFuseBurnDone
  /-- SEC_LOCK_WRITE (R448): Writing locked = 1 locks the access tables and computes the configuration digest. -/
  | secLockWrite (v : Word)
  /-- QUEUE_MODE_WRITE (R489): A host write of queue_mode in CORE_CFG requests a new queue mode. -/
  | queueModeWrite (c : CoreId) (v : Word32)
  /-- QUEUE_MODE_SWITCH (R121): The requested queue mode takes effect once the core's queues are empty and no invocation is queued or being split. -/
  | queueModeSwitch (c : CoreId)
  /-- GAU_SEL_WRITE (R463): A write of GAU_SEL selects a counter's event or mirror and clears the counter. -/
  | gauSelWrite (c : CoreId) (j : Fin 256) (v : Word32)
  /-- UNIT_COUNTER_CLEAR (R464): A host write to a unit counter sets it to 0. -/
  | unitCounterClear (u : Fin 256) (j : Fin 1024)
  /-- GAU_BW_PEAK_READ (R470): A read of GAU_BW_PEAK returns and clears the peak window value. -/
  | gauBwPeakRead (u : Fin 256) (j : Fin 256)
  /-- BW_WINDOW_END (R470): A bandwidth window of a unit ends and GAU_BW_LAST and GAU_BW_PEAK update. -/
  | bwWindowEnd (u : Fin 256)
  /-- REGISTER_WRITE (R484): A BAR0 write to a register with no row of its own updates its RW fields, and the update propagates to every copy (BAR0 address, 8-byte or 4-byte write, value). -/
  | registerWrite (a : BitVec 26) (wide : Bool) (v : Word)
  /-- LINK_ENABLE (R337): Setting LNK_CTRL.enable trains a link through TRAINING and CONFIG to ACTIVE or INCOMPATIBLE. -/
  | linkEnable (l : LinkId)
  /-- LINK_DISABLE (R339): Clearing LNK_CTRL.enable makes a link DISABLED and completes its requests with LINK_LOST. -/
  | linkDisable (l : LinkId)
  /-- LINK_FLIT_RECEIVE (R332): A flit arrives and is checked, accepted or discarded, acknowledged, credited, forwarded or delivered. -/
  | linkFlitReceive (l : LinkId) (gap : Nat) (flit : BitVec 2048) (corrected lost : Nat) (touched : Bool)
  /-- LINK_FLIT_TRANSMIT (R342): An egress port sends the oldest flit whose far-end pool has credit. -/
  | linkFlitTransmit (l : LinkId) (gap : Nat)
  /-- LINK_RETRAIN_DONE (R337): A link finishes retraining and resumes sending from the last ack. -/
  | linkRetrainDone (l : LinkId) (gap : Nat)
  /-- LINK_STANDBY_EXIT (R337): A held flit or far-end exit brings a link out of STANDBY. -/
  | linkStandbyExit (l : LinkId) (gap : Nat) (far : Bool)
  /-- LINK_RESPONSE_TIMEOUT (R340): A request without response for LNK_RESP_TIMEOUT cycles completes as LINK_LOST. -/
  | linkResponseTimeout (l : LinkId) (gap : Nat)
  /-- TAG_ISSUE (R289): A Carter or Drayman request takes a tag, is translated by the placement table and enters the fabric (inbound Carter (0) or outbound Carter (1) of core n, or Drayman (2) of guild n). -/
  | tagIssue (engine : Fin 3) (n : CoreId)
  /-- PLACEMENT_WALK (R252): A walker's table block read returns and its entries are installed in the caches. -/
  | placementWalk (half : Fin 2)
  /-- BLOCK_HOP_RECEIVE (R257): A block crossing an internal hop is verified and accepted or re-requested (access x crossing the hop of a port of unit u, leaving or entering, with the bits of the flit inverted on the way and the blocks already sent after it). -/
  | blockHopReceive (x : Nat) (u : Fin 256) (port : Fin 256) (leaving : Bool) (flips behind : Nat)
  /-- SHALE_ACCESS (R261): A Shale slice reads or writes a block with ECC correction and poison handling. -/
  | shaleAccess (x : Nat)
  /-- BEDROCK_READ (R266): A Bedrock controller reads a block and compares it with its stored check (access x, and the link-ECC corrections met). -/
  | bedrockRead (x : Nat) (corrected : Nat)
  /-- BEDROCK_WRITE (R266): A Bedrock controller writes a block, merging byte-masked writes, with its stored check. -/
  | bedrockWrite (x : Nat) (corrected : Nat)
  /-- BEDROCK_REFRESH (R267): A per-bank refresh falls due and is performed (the highest MR4 code reported). -/
  | bedrockRefresh (k : CtlId) (rate : Fin 32)
  /-- FABRIC_READ_DATA (R250): Read data arrives at its requester and is written where the data belongs. -/
  | fabricReadData (x : Nat)
  /-- WRITE_ACK (R283): A write acknowledgement arrives at its issuer, counting refusals. -/
  | writeAck (x : Nat)
  /-- MCAST_RESERVE (R316): A target guild grants a multicast or reduce reservation once its landing buffer or row buffer allows. -/
  | mcastReserve (b : Nat)
  /-- MCAST_GRANT (R315): A grant reaches the sender, which reserves the next target or sends the burst. -/
  | mcastGrant (b : Nat)
  /-- REDUCE_SLOT_ADD (R319): A slot flit enters a ledger adder and is added into its row buffer. -/
  | reduceSlotAdd (g : GuildId)
  /-- ROW_BUFFER_COMPLETE (R320): A row buffer with every contributor emits its summed slots and header and frees itself. -/
  | rowBufferComplete (g : GuildId) (set : Fin 256) (off : Nat)
  /-- ARRIVAL (R166): A write from outside the core is performed by the inbound Carter and counted against pending windows. -/
  | arrival (x : Nat)
  /-- WINDOW_IDLE (R172): A window idle for 2^k cycles is reported once. -/
  | windowIdle (c : CoreId) (j : Fin 32) (gap : Nat)
  /-- DRAYMAN_DESCRIPTOR_START (R292): A Drayman issue channel takes the oldest accepted descriptor and starts its copy. -/
  | draymanDescriptorStart (g : GuildId)
  /-- DRAYMAN_TOKEN (R295): After a PREFETCH's last write, the Drayman writes its completion token. -/
  | draymanToken (g : GuildId)
  /-- INVOCATION_BOUNDARY (R98): The Loom takes an invocation request and its captured slots become live. -/
  | invocationBoundary (c : CoreId)
  /-- LOOM_SPLIT_WORD (R80): The Loom reads and checks a control word and all its instances. -/
  | loomSplitWord (c : CoreId)
  /-- LOOM_ISSUE_INSTANCE (R120): The Loom issues one instance's micro-ops and markers once queues and scoreboard have room. -/
  | loomIssueInstance (c : CoreId) (gap : Nat)
  /-- MARKER (R110): A marker at the head of a queue waits for its notch or performs its bump. -/
  | marker (c : CoreId) (e : Fin 5) (gap : Nat)
  /-- MICROOP_COMPLETE (R110): A micro-op completes and its bumps take effect under the visibility rule. -/
  | microopComplete (c : CoreId) (e : Fin 5) (gap : Nat)
  /-- STALEMATE_FREEZE (R178): The stalemate count reaches STALEMATE_WINDOW and the core freezes. -/
  | stalemateFreeze (c : CoreId) (gap : Nat)
  /-- MATMUL (R41): The array adds the exact products of an A and B block into a ledger tile. -/
  | matmul (c : CoreId) (gap : Nat)
  /-- ROUND (R192): The drain rounds ledger rows, optionally with a fused operation, to an output format. -/
  | round (c : CoreId) (gap : Nat)
  /-- EXPORT (R89): The drain writes ledger entries exactly as a ledger image. -/
  | exportImage (c : CoreId) (gap : Nat)
  /-- MERGE (R90): The drain adds a ledger image exactly into ledger entries. -/
  | merge (c : CoreId) (gap : Nat)
  /-- TILECFG (R82): The vector unit writes a tile descriptor. -/
  | tilecfg (c : CoreId) (gap : Nat)
  /-- MOVE_IN (R189): Local-store bytes are copied into a TRF tile. -/
  | moveIn (c : CoreId) (gap : Nat)
  /-- MOVE_OUT (R189): TRF bytes are copied into the local store. -/
  | moveOut (c : CoreId) (gap : Nat)
  /-- CONVERT (R35): TRF elements are converted to another format. -/
  | convert (c : CoreId) (gap : Nat)
  /-- TRANSPOSE (R187): Rows of a tile become columns. -/
  | transpose (c : CoreId) (gap : Nat)
  /-- VEC_ADD (R183): Element-wise addition. -/
  | vecAdd (c : CoreId) (gap : Nat)
  /-- VEC_SUB (R183): Element-wise subtraction. -/
  | vecSub (c : CoreId) (gap : Nat)
  /-- VEC_MUL (R183): Element-wise multiplication. -/
  | vecMul (c : CoreId) (gap : Nat)
  /-- VEC_FMA (R183): Element-wise fused multiply-add. -/
  | vecFma (c : CoreId) (gap : Nat)
  /-- VEC_MIN (R183): Element-wise minimum. -/
  | vecMin (c : CoreId) (gap : Nat)
  /-- VEC_MAX (R183): Element-wise maximum. -/
  | vecMax (c : CoreId) (gap : Nat)
  /-- VEC_ABS (R183): Element-wise absolute value. -/
  | vecAbs (c : CoreId) (gap : Nat)
  /-- VEC_NEG (R183): Element-wise negation. -/
  | vecNeg (c : CoreId) (gap : Nat)
  /-- VEC_EXP (R186): Element-wise e^x. -/
  | vecExp (c : CoreId) (gap : Nat)
  /-- VEC_EXP2 (R186): Element-wise 2^x. -/
  | vecExp2 (c : CoreId) (gap : Nat)
  /-- VEC_LOG2 (R186): Element-wise log2. -/
  | vecLog2 (c : CoreId) (gap : Nat)
  /-- VEC_RECIP (R186): Element-wise reciprocal. -/
  | vecRecip (c : CoreId) (gap : Nat)
  /-- VEC_RSQRT (R186): Element-wise reciprocal square root. -/
  | vecRsqrt (c : CoreId) (gap : Nat)
  /-- VEC_TANH (R186): Element-wise tanh. -/
  | vecTanh (c : CoreId) (gap : Nat)
  /-- VEC_SIGMOID (R186): Element-wise sigmoid. -/
  | vecSigmoid (c : CoreId) (gap : Nat)
  /-- VEC_SIN (R186): Element-wise sine. -/
  | vecSin (c : CoreId) (gap : Nat)
  /-- VEC_COS (R186): Element-wise cosine. -/
  | vecCos (c : CoreId) (gap : Nat)
  /-- RCLEAR (R197): Clears row-reducer entries. -/
  | rclear (c : CoreId) (gap : Nat)
  /-- RSUM (R199): Adds row elements exactly into reducer ledgers. -/
  | rsum (c : CoreId) (gap : Nat)
  /-- RSUMSQ (R199): Adds squares, optionally centred, exactly into reducer ledgers. -/
  | rsumsq (c : CoreId) (gap : Nat)
  /-- RMAX (R199): Folds row elements into each entry's maximum. -/
  | rmax (c : CoreId) (gap : Nat)
  /-- ROUT (R200): Writes one result per reducer entry of the selected kind. -/
  | rout (c : CoreId) (gap : Nat)
  /-- RSETREF (R203): Sets reducer entry references K. -/
  | rsetref (c : CoreId) (gap : Nat)
  /-- SMX_EXP (R201): Computes softmax exponentials relative to K and adds them exactly to the row sum. -/
  | smxExp (c : CoreId) (gap : Nat)
  /-- RSAVE (R204): Writes reducer entries as images to the local store. -/
  | rsave (c : CoreId) (gap : Nat)
  /-- RLOAD (R204): Replaces reducer entries from images in the local store. -/
  | rload (c : CoreId) (gap : Nat)
  /-- RMERGE (R204): Combines images from the local store into reducer entries. -/
  | rmerge (c : CoreId) (gap : Nat)
  /-- STATS_FLUSH (R206): Writes the statistics record and clears the histogram. -/
  | statsFlush (c : CoreId) (gap : Nat)
  /-- RDOT (R215): Adds exact element products of two rows into reducer entries. -/
  | rdot (c : CoreId) (gap : Nat)
  /-- SMX_GRAD (R216): Computes the softmax gradient. -/
  | smxGrad (c : CoreId) (gap : Nat)
  /-- NORM_GRAD (R217): Computes the normalisation gradient. -/
  | normGrad (c : CoreId) (gap : Nat)
  /-- ASSAY (R220): Merges statistics records and applies the format selection rule to an Assayer entry. -/
  | assay (c : CoreId) (gap : Nat)
  /-- ASSAY_SET (R222): Writes one Assayer entry. -/
  | assaySet (c : CoreId) (gap : Nat)
  /-- UPD_SGD (R237): Plain SGD update of 16-bit weights. -/
  | updSgd (c : CoreId) (gap : Nat)
  /-- UPD_MOMENTUM (R237): SGD-with-momentum update of weights and first moments. -/
  | updMomentum (c : CoreId) (gap : Nat)
  /-- UPD_ADAM (R237): Two-moment update of weights and moments. -/
  | updAdam (c : CoreId) (gap : Nat)
  /-- RNG_SEED (R229): Seeds every lane generator. -/
  | rngSeed (c : CoreId) (gap : Nat)
  /-- RNG_SAVE (R231): Writes the generator image to the local store. -/
  | rngSave (c : CoreId) (gap : Nat)
  /-- RNG_LOAD (R231): Loads generator states from an image. -/
  | rngLoad (c : CoreId) (gap : Nat)
  /-- SPIKE_CHECK (R241): Counts elements exceeding a bound into CORE_SPIKE_COUNT. -/
  | spikeCheck (c : CoreId) (gap : Nat)
  /-- STREAM_IN (R277): The inbound Carter reads a remote range and writes the local store or pattern memory. -/
  | streamIn (c : CoreId) (gap : Nat)
  /-- POST_WINDOW (R165): The inbound Carter enters a receive window in the window table. -/
  | postWindow (c : CoreId) (gap : Nat)
  /-- FENCE (R281): A prefetch fence copies its range afresh through the Drayman. -/
  | fence (c : CoreId) (gap : Nat)
  /-- STREAM_OUT (R279): The outbound Carter reads the local store and writes a remote, core or multicast destination. -/
  | streamOut (c : CoreId) (gap : Nat)
  /-- PREFETCH (R280): Hands a descriptor to the guild's Drayman. -/
  | prefetch (c : CoreId) (gap : Nat)
  /-- ADD (R137): Tally register add. -/
  | add (c : CoreId) (t : Fin 4) (gap : Nat) (rd : Fin 32) (rs1 : Fin 32) (rs2 : Fin 32)
  /-- SUB (R137): Tally register subtract. -/
  | sub (c : CoreId) (t : Fin 4) (gap : Nat) (rd : Fin 32) (rs1 : Fin 32) (rs2 : Fin 32)
  /-- AND (R137): Tally bitwise and. -/
  | and (c : CoreId) (t : Fin 4) (gap : Nat) (rd : Fin 32) (rs1 : Fin 32) (rs2 : Fin 32)
  /-- OR (R137): Tally bitwise or. -/
  | or (c : CoreId) (t : Fin 4) (gap : Nat) (rd : Fin 32) (rs1 : Fin 32) (rs2 : Fin 32)
  /-- XOR (R137): Tally bitwise xor. -/
  | xor (c : CoreId) (t : Fin 4) (gap : Nat) (rd : Fin 32) (rs1 : Fin 32) (rs2 : Fin 32)
  /-- SLL (R137): Tally shift left by register. -/
  | sll (c : CoreId) (t : Fin 4) (gap : Nat) (rd : Fin 32) (rs1 : Fin 32) (rs2 : Fin 32)
  /-- SRL (R137): Tally logical shift right by register. -/
  | srl (c : CoreId) (t : Fin 4) (gap : Nat) (rd : Fin 32) (rs1 : Fin 32) (rs2 : Fin 32)
  /-- SRA (R137): Tally arithmetic shift right by register. -/
  | sra (c : CoreId) (t : Fin 4) (gap : Nat) (rd : Fin 32) (rs1 : Fin 32) (rs2 : Fin 32)
  /-- SLT (R137): Tally signed set-less-than. -/
  | slt (c : CoreId) (t : Fin 4) (gap : Nat) (rd : Fin 32) (rs1 : Fin 32) (rs2 : Fin 32)
  /-- SLTU (R137): Tally unsigned set-less-than. -/
  | sltu (c : CoreId) (t : Fin 4) (gap : Nat) (rd : Fin 32) (rs1 : Fin 32) (rs2 : Fin 32)
  /-- MUL (R137): Tally low 64-bit multiply. -/
  | mul (c : CoreId) (t : Fin 4) (gap : Nat) (rd : Fin 32) (rs1 : Fin 32) (rs2 : Fin 32)
  /-- MULHU (R137): Tally high unsigned multiply. -/
  | mulhu (c : CoreId) (t : Fin 4) (gap : Nat) (rd : Fin 32) (rs1 : Fin 32) (rs2 : Fin 32)
  /-- MIN (R137): Tally signed minimum. -/
  | min (c : CoreId) (t : Fin 4) (gap : Nat) (rd : Fin 32) (rs1 : Fin 32) (rs2 : Fin 32)
  /-- MAX (R137): Tally signed maximum. -/
  | max (c : CoreId) (t : Fin 4) (gap : Nat) (rd : Fin 32) (rs1 : Fin 32) (rs2 : Fin 32)
  /-- AMOADD (R132): Tally indivisible add to a data-memory word. -/
  | amoadd (c : CoreId) (t : Fin 4) (gap : Nat) (rd : Fin 32) (rs1 : Fin 32) (rs2 : Fin 32)
  /-- JR (R137): Tally jump to register. -/
  | jr (c : CoreId) (t : Fin 4) (gap : Nat) (rd : Fin 32) (rs1 : Fin 32) (rs2 : Fin 32)
  /-- JALR (R137): Tally jump to register and link. -/
  | jalr (c : CoreId) (t : Fin 4) (gap : Nat) (rd : Fin 32) (rs1 : Fin 32) (rs2 : Fin 32)
  /-- SLWX (R138): Tally write of a shadow slot named by register. -/
  | slwx (c : CoreId) (t : Fin 4) (gap : Nat) (rd : Fin 32) (rs1 : Fin 32) (rs2 : Fin 32)
  /-- EVCLR (R149): Tally W1C clear of CORE_EV_PENDING bits. -/
  | evclr (c : CoreId) (t : Fin 4) (gap : Nat) (rd : Fin 32) (rs1 : Fin 32) (rs2 : Fin 32)
  /-- TSTART (R148): Tally start of another halted thread. -/
  | tstart (c : CoreId) (t : Fin 4) (gap : Nat) (rd : Fin 32) (rs1 : Fin 32) (rs2 : Fin 32)
  /-- TALLY_FENCE (R137): Tally wait until every earlier access of the thread is performed. -/
  | tallyFence (c : CoreId) (t : Fin 4) (gap : Nat) (rd : Fin 32) (rs1 : Fin 32) (rs2 : Fin 32)
  /-- FFENCE (R134): Tally wait for posted far writes, then far-cache invalidation. -/
  | ffence (c : CoreId) (t : Fin 4) (gap : Nat) (rd : Fin 32) (rs1 : Fin 32) (rs2 : Fin 32)
  /-- YIELD (R137): Tally no-op that passes issue to another thread. -/
  | yield (c : CoreId) (t : Fin 4) (gap : Nat) (rd : Fin 32) (rs1 : Fin 32) (rs2 : Fin 32)
  /-- HALT (R129): Tally thread becomes HALTED. -/
  | halt (c : CoreId) (t : Fin 4) (gap : Nat) (rd : Fin 32) (rs1 : Fin 32) (rs2 : Fin 32)
  /-- ERET (R153): Tally return from exception handler. -/
  | eret (c : CoreId) (t : Fin 4) (gap : Nat) (rd : Fin 32) (rs1 : Fin 32) (rs2 : Fin 32)
  /-- ADDI (R137): Tally add immediate. -/
  | addi (c : CoreId) (t : Fin 4) (gap : Nat) (rd : Fin 32) (rs1 : Fin 32) (v : BitVec 16)
  /-- ANDI (R137): Tally and immediate. -/
  | andi (c : CoreId) (t : Fin 4) (gap : Nat) (rd : Fin 32) (rs1 : Fin 32) (v : BitVec 16)
  /-- ORI (R137): Tally or immediate. -/
  | ori (c : CoreId) (t : Fin 4) (gap : Nat) (rd : Fin 32) (rs1 : Fin 32) (v : BitVec 16)
  /-- XORI (R137): Tally xor immediate. -/
  | xori (c : CoreId) (t : Fin 4) (gap : Nat) (rd : Fin 32) (rs1 : Fin 32) (v : BitVec 16)
  /-- SLLI (R137): Tally shift left immediate. -/
  | slli (c : CoreId) (t : Fin 4) (gap : Nat) (rd : Fin 32) (rs1 : Fin 32) (v : BitVec 16)
  /-- SRLI (R137): Tally logical shift right immediate. -/
  | srli (c : CoreId) (t : Fin 4) (gap : Nat) (rd : Fin 32) (rs1 : Fin 32) (v : BitVec 16)
  /-- SRAI (R137): Tally arithmetic shift right immediate. -/
  | srai (c : CoreId) (t : Fin 4) (gap : Nat) (rd : Fin 32) (rs1 : Fin 32) (v : BitVec 16)
  /-- SLTI (R137): Tally signed set-less-than immediate. -/
  | slti (c : CoreId) (t : Fin 4) (gap : Nat) (rd : Fin 32) (rs1 : Fin 32) (v : BitVec 16)
  /-- SLTIU (R137): Tally unsigned set-less-than immediate. -/
  | sltiu (c : CoreId) (t : Fin 4) (gap : Nat) (rd : Fin 32) (rs1 : Fin 32) (v : BitVec 16)
  /-- MOVZ (R137): Tally move shifted immediate, zeroing other bits. -/
  | movz (c : CoreId) (t : Fin 4) (gap : Nat) (rd : Fin 32) (q : Fin 4) (v : BitVec 16)
  /-- MOVK (R137): Tally insert immediate into a 16-bit field. -/
  | movk (c : CoreId) (t : Fin 4) (gap : Nat) (rd : Fin 32) (q : Fin 4) (v : BitVec 16)
  /-- LD (R131): Tally 64-bit load. -/
  | ld (c : CoreId) (t : Fin 4) (gap : Nat) (rd : Fin 32) (rs1 : Fin 32) (v : BitVec 16)
  /-- LW (R131): Tally 32-bit zero-extended load. -/
  | lw (c : CoreId) (t : Fin 4) (gap : Nat) (rd : Fin 32) (rs1 : Fin 32) (v : BitVec 16)
  /-- LWS (R131): Tally 32-bit sign-extended load. -/
  | lws (c : CoreId) (t : Fin 4) (gap : Nat) (rd : Fin 32) (rs1 : Fin 32) (v : BitVec 16)
  /-- LH (R131): Tally 16-bit load. -/
  | lh (c : CoreId) (t : Fin 4) (gap : Nat) (rd : Fin 32) (rs1 : Fin 32) (v : BitVec 16)
  /-- LB (R131): Tally 8-bit load. -/
  | lb (c : CoreId) (t : Fin 4) (gap : Nat) (rd : Fin 32) (rs1 : Fin 32) (v : BitVec 16)
  /-- SD (R131): Tally 64-bit store. -/
  | sd (c : CoreId) (t : Fin 4) (gap : Nat) (rs2 : Fin 32) (rs1 : Fin 32) (v : BitVec 16)
  /-- SW (R131): Tally 32-bit store. -/
  | sw (c : CoreId) (t : Fin 4) (gap : Nat) (rs2 : Fin 32) (rs1 : Fin 32) (v : BitVec 16)
  /-- SH (R131): Tally 16-bit store. -/
  | sh (c : CoreId) (t : Fin 4) (gap : Nat) (rs2 : Fin 32) (rs1 : Fin 32) (v : BitVec 16)
  /-- SB (R131): Tally 8-bit store. -/
  | sb (c : CoreId) (t : Fin 4) (gap : Nat) (rs2 : Fin 32) (rs1 : Fin 32) (v : BitVec 16)
  /-- BEQ (R137): Tally branch if equal. -/
  | beq (c : CoreId) (t : Fin 4) (gap : Nat) (rs1 : Fin 32) (rs2 : Fin 32) (off : BitVec 16)
  /-- BNE (R137): Tally branch if not equal. -/
  | bne (c : CoreId) (t : Fin 4) (gap : Nat) (rs1 : Fin 32) (rs2 : Fin 32) (off : BitVec 16)
  /-- BLT (R137): Tally branch if less, signed. -/
  | blt (c : CoreId) (t : Fin 4) (gap : Nat) (rs1 : Fin 32) (rs2 : Fin 32) (off : BitVec 16)
  /-- BGE (R137): Tally branch if greater or equal, signed. -/
  | bge (c : CoreId) (t : Fin 4) (gap : Nat) (rs1 : Fin 32) (rs2 : Fin 32) (off : BitVec 16)
  /-- BLTU (R137): Tally branch if less, unsigned. -/
  | bltu (c : CoreId) (t : Fin 4) (gap : Nat) (rs1 : Fin 32) (rs2 : Fin 32) (off : BitVec 16)
  /-- BGEU (R137): Tally branch if greater or equal, unsigned. -/
  | bgeu (c : CoreId) (t : Fin 4) (gap : Nat) (rs1 : Fin 32) (rs2 : Fin 32) (off : BitVec 16)
  /-- J (R137): Tally jump. -/
  | j (c : CoreId) (t : Fin 4) (gap : Nat) (off : BitVec 26)
  /-- JAL (R137): Tally jump and link in t31. -/
  | jal (c : CoreId) (t : Fin 4) (gap : Nat) (off : BitVec 26)
  /-- RDS (R151): Tally read of a special word. -/
  | rds (c : CoreId) (t : Fin 4) (gap : Nat) (rd : Fin 32) (rs1 : Fin 32) (v : BitVec 16)
  /-- WRS (R151): Tally write of a special word. -/
  | wrs (c : CoreId) (t : Fin 4) (gap : Nat) (rd : Fin 32) (rs1 : Fin 32) (v : BitVec 16)
  /-- SLW (R138): Tally write of a shadow slot. -/
  | slw (c : CoreId) (t : Fin 4) (gap : Nat) (rd : Fin 32) (rs1 : Fin 32) (v : BitVec 16)
  /-- SLR (R138): Tally read of a shadow slot. -/
  | slr (c : CoreId) (t : Fin 4) (gap : Nat) (rd : Fin 32) (rs1 : Fin 32) (v : BitVec 16)
  /-- NRD (R145): Tally read of a notch. -/
  | nrd (c : CoreId) (t : Fin 4) (gap : Nat) (rd : Fin 32) (rs1 : Fin 32) (v : BitVec 16)
  /-- NWAIT (R146): Tally wait until a notch reaches a value. -/
  | nwait (c : CoreId) (t : Fin 4) (gap : Nat) (rd : Fin 32) (rs1 : Fin 32) (v : BitVec 16)
  /-- NBUMP (R147): Tally bump of a notch after its local-store stores are visible. -/
  | nbump (c : CoreId) (t : Fin 4) (gap : Nat) (rd : Fin 32) (rs1 : Fin 32) (v : BitVec 16)
  /-- LAUNCH (R139): Tally launch of an invocation, capturing the shadow slots. -/
  | launch (c : CoreId) (t : Fin 4) (gap : Nat) (rd : Fin 32) (rs1 : Fin 32) (v : BitVec 16)
  /-- EVWAIT (R149): Tally wait for CORE_EV_PENDING bits. -/
  | evwait (c : CoreId) (t : Fin 4) (gap : Nat) (rd : Fin 32) (rs1 : Fin 32) (v : BitVec 16)
  /-- THREAD_WAKE (R146): A waiting thread's condition is met and it becomes READY again. -/
  | threadWake (c : CoreId) (t : Fin 4) (gap : Nat)
  /-- FAR_READ_RESPONSE (R134): A far-cache miss returns its line and the thread leaves WAIT_FAR. -/
  | farReadResponse (c : CoreId) (t : Fin 4)
  /-- FAR_WRITE_ACK (R134): A posted far write is acknowledged or refused. -/
  | farWriteAck (c : CoreId) (t : Fin 4)
  /-- SAMPLE_RECORD_WRITE (R469): A pending sample is written to the sample ring after its micro-op completes. -/
  | sampleRecordWrite (c : CoreId)
  /-- DUMP_LATCH (R471): At the dump interval the core latches counters and notches and writes a dump record. -/
  | dumpLatch (c : CoreId) (gap : Nat)
  /-- PLAN_START (R351): The collective library checks its plan and starts under it or raises PLAN_INVALID (the core that checks the plan, where the host wrote it, and what the patterns carry). -/
  | planStart (c : CoreId) (dva : BitVec 41) (lay : Layout)
  /-- CONTRIBUTION_SEND (R360): A contributor thins its gradient and sends each piece and its TOKEN to the owners (the contributing core, and the slot and owner core of the piece). -/
  | contributionSend (c : CoreId) (slot : Fin 64) (owner : CoreId)
  /-- TOKEN_RECEIVE (R363): An owner core receives a TOKEN, takes or compares the copy (the owner core, slot and role of the piece; the TOKEN line of the lead core, or the line it was relayed to). -/
  | tokenReceive (owner : CoreId) (slot : Fin 64) (role : Fin 2) (relayed : Bool)
  /-- SLOT_LATE (R366): The lateness deadline passes without the primary's copy and the backup's copy is taken. -/
  | slotLate (c : CoreId) (slot : Fin 64)
  /-- RECOMPUTE (R367): A contributor receiving RECOMPUTE thins its pieces again and resends them (the contributing core, and the owner slot and core of the piece asked for again). -/
  | recompute (c : CoreId) (slot : Fin 64) (owner : CoreId)
  /-- VOTE_SEND (R368): After all staged updates complete, the vote core sends its verdict to every primary. -/
  | voteSend
  /-- VOTE_RECEIVE (R369): A vote arrives; with all OK votes the owner commits, with any HOLD the step is held (the stage and slot of the voter). -/
  | voteReceive (stage slot : Fin 64)
  /-- HELD_STEP_DECISION (R369): The host's decision in the vote core's mailbox is carried out. -/
  | heldStepDecision
  /-- PARAM_RECEIVE (R371): A holder widens a received parameter piece into its working copy (the owner slot and core whose parameters arrived). -/
  | paramReceive (slot : Fin 64) (owner : CoreId)
  /-- PERMUTE (R375): Re-sharding moves whole blocks of master state in two phases (the moves that leave and arrive, to start with; or the next part of the work). -/
  | permute (start : Option (List Move × List Arrival))
  /-- CONTEXT_CAPTURE (R382): Once every live core is quiescent, the Scrivener captures each core's context. -/
  | contextCapture (c : CoreId)
  /-- CAPTURE_TIMEOUT (R380): Quiescence is not reached within capture_timeout and the snapshot fails NOT_QUIESCENT. -/
  | captureTimeout
  /-- SNAPSHOT_FREEZE (R384): After capture, every snapshot page is frozen, caches invalidated and release words written. -/
  | snapshotFreeze
  /-- SNAPSHOT_PAGE_SEND (R387): A snapshot page is read, hashed, written to the destination and unfrozen. -/
  | snapshotPageSend
  /-- COPY_ON_WRITE (R385): A write held on a frozen page is released after the page is copied to the pool. -/
  | copyOnWrite (page : BitVec 25)
  /-- MANIFEST_WRITE (R388): After every page is acknowledged, the manifest is built, signed if asked, and written. -/
  | manifestWrite
  /-- RESTORE_PAGE_LOAD (R394): A snapshot page is read, digest-checked and written to its target page. -/
  | restorePageLoad
  /-- CONTEXT_RESTORE (R396): A core's context image is written back and the release word placed in its mailbox (the core of the snapshot). -/
  | contextRestore (c : CoreId)
  /-- ILLEGAL (R136): A Tally thread issues a word with a reserved opcode, reserved function code or nonzero reserved field and takes an ILLEGAL exception. -/
  | illegal (c : CoreId) (t : Fin 4) (gap : Nat)
  /-- IMEM_ECC (R152): A Tally thread fetches a word with a double-bit error, or fetches outside 0x0000-0x7FFF, and takes the IMEM_ECC or ADDRESS exception. -/
  | imemEcc (c : CoreId) (t : Fin 4) (gap : Nat)
  /-- LINK_TRAINING_DONE (R337): Initial training of an enabled link completes, after lock and the CONFIG exchange, and the link becomes ACTIVE or INCOMPATIBLE (the far end's CONTROL body). -/
  | linkTrainingDone (l : LinkId) (gap : Nat)
  /-- FIBRE_UNMATED (R495): The fibre of a link is unmated, or its far end stops sending, and the link falls out of ACTIVE. -/
  | fibreUnmated (l : LinkId) (gap : Nat)
  deriving DecidableEq, Repr

end Sys2Proof
end

