-- ==== Sys2Proof/Decode.lean ====
section
/-! DEFINITION. Decoding a command from the bits of its table row. No row of the table gives bits, so no word spells a
command. -/

namespace Sys2Proof

/-- The command a word spells by the table's bits: none, since no row has any. -/
def decodeTableWord (_nbits _w : Nat) : Option Instr := none

end Sys2Proof
end

