-- ==== Sys2Proof/Machine/Table.lean ====
section
/-! DEFINITION. Operations on sparse stores and byte memories: every read and write of a store of the module goes
through these. -/

namespace Sys2Proof

/-- What index `k` of the store holds, `d` where it is not listed. -/
def Tab.get {α : Type} (d : α) : Tab α → Nat → α
  | [], _ => d
  | (i, a) :: t, k => if i = k then a else if k < i then d else Tab.get d t k

/-- The store with `a` at index `k`. -/
def Tab.set {α : Type} : Tab α → Nat → α → Tab α
  | [], k, a => [(k, a)]
  | (i, b) :: t, k, a =>
    if i = k then (k, a) :: t else if k < i then (k, a) :: (i, b) :: t else (i, b) :: Tab.set t k a

/-- The store without index `k`. -/
def Tab.erase {α : Type} : Tab α → Nat → Tab α
  | [], _ => []
  | (i, b) :: t, k => if i = k then t else if k < i then (i, b) :: t else (i, b) :: Tab.erase t k

/-- The listed content of index `k`. -/
def Tab.find {α : Type} : Tab α → Nat → Option α
  | [], _ => none
  | (i, a) :: t, k => if i = k then some a else if k < i then none else Tab.find t k

/-- The store with index `k` changed by `f`. -/
def Tab.upd {α : Type} (d : α) (t : Tab α) (k : Nat) (f : α → α) : Tab α := t.set k (f (t.get d k))

/-- Strictly rising indices, all above `lo`. -/
def Tab.risingFrom {α : Type} : Nat → Tab α → Bool
  | _, [] => true
  | lo, (i, _) :: t => decide (lo ≤ i) && Tab.risingFrom (i + 1) t

/-- The canonical form of a store: strictly rising indices. -/
def Tab.wf {α : Type} (t : Tab α) : Bool := Tab.risingFrom 0 t

/-- The byte at an address; an unlisted address reads 0 (R71, R262, R268). -/
def Mem.rd (m : Mem) (a : Nat) : Byte := Tab.get 0 m a

/-- The memory with byte `b` at address `a`; writing 0 removes the entry. -/
def Mem.wr (m : Mem) (a : Nat) (b : Byte) : Mem := if b = 0 then Tab.erase m a else Tab.set m a b

/-- The canonical form: strictly rising addresses and no listed 0. -/
def Mem.wf (m : Mem) : Bool := Tab.wf m && m.all (fun p => decide (p.2 ≠ 0))

/-- `n` bytes from address `a`, ascending. -/
def Mem.bytes (m : Mem) (a n : Nat) : List Byte := (List.range n).map (fun i => m.rd (a + i))

/-- The bytes written one after another from address `a`. -/
def Mem.wrBytes (m : Mem) (a : Nat) : List Byte → Mem
  | [] => m
  | b :: bs => Mem.wrBytes (m.wr a b) (a + 1) bs

/-- A little-endian number from its bytes (R37: least significant byte first). -/
def leNat : List Byte → Nat
  | [] => 0
  | b :: bs => b.toNat + 256 * leNat bs

/-- The `n` little-endian bytes of a number. -/
def natLe : Nat → Nat → List Byte
  | 0, _ => []
  | n + 1, v => BitVec.ofNat 8 v :: natLe n (v / 256)

/-- `n` bytes at `a` as a little-endian number. -/
def Mem.le (m : Mem) (a n : Nat) : Nat := leNat (m.bytes a n)

/-- The low `n` bytes of `v` written at `a`, little-endian. -/
def Mem.wrLe (m : Mem) (a n v : Nat) : Mem := m.wrBytes a (natLe n v)

/-- A set of indices as a rising list without repeats. -/
def idxMem : List Nat → Nat → Bool
  | [], _ => false
  | i :: t, k => if i = k then true else if k < i then false else idxMem t k

/-- The set with `k`. -/
def idxAdd : List Nat → Nat → List Nat
  | [], k => [k]
  | i :: t, k => if i = k then i :: t else if k < i then k :: i :: t else i :: idxAdd t k

/-- The set without `k`. -/
def idxDel : List Nat → Nat → List Nat
  | [], _ => []
  | i :: t, k => if i = k then t else if k < i then i :: t else i :: idxDel t k

/-- The set with `k` present exactly when `b`. -/
def idxPut (l : List Nat) (k : Nat) (b : Bool) : List Nat := if b then idxAdd l k else idxDel l k

/-- Bits [hi:lo] of a number. -/
def bitsOf (v hi lo : Nat) : Nat := (v >>> lo) % 2 ^ (hi + 1 - lo)

/-- Bit `i` of a number. -/
def bitOf (v i : Nat) : Bool := v.testBit i

/-- A number of `w` bits read as two's complement (R103). -/
def signedOf (w v : Nat) : Int := if v % 2 ^ w < 2 ^ (w - 1) then (v % 2 ^ w : Nat) else (v % 2 ^ w : Nat) - (2 ^ w : Nat)

/-- The number with bits [hi:lo] replaced by the low bits of `f`. -/
def putBits (v hi lo f : Nat) : Nat :=
  v - (bitsOf v hi lo <<< lo) + ((f % 2 ^ (hi + 1 - lo)) <<< lo)

/-- Element `i` of a list, `d` past its end. -/
def nth {α : Type} (d : α) (l : List α) (i : Nat) : α := l.getD i d

end Sys2Proof
end

