-- ==== Sys2Proof/Machine/TallyCode.lean ====
section
/-! DEFINITION. The encoding of Tally instructions (R136, Tables 5.4 to 5.6): the decoder of a fetched 32-bit word and
its encoder. -/

namespace Sys2Proof.Machine

/-- REG functions (Table 5.5). -/
inductive RegFn where
  | add | sub | and | or | xor | sll | srl | sra | slt | sltu | mul | mulhu | min | max
  | amoadd | jr | jalr | slwx | evclr | tstart | fence | ffence | yield | halt | eret
  deriving DecidableEq, Repr

/-- IMM operations (Table 5.6). -/
inductive ImmOp where
  | addi | andi | ori | xori | slli | srli | srai | slti | sltiu | ld | lw | lws | lh | lb
  | rds | wrs | slw | slr | nrd | nwait | nbump | launch | evwait
  deriving DecidableEq, Repr

/-- STORE operations. -/
inductive StoreOp where
  | sd | sw | sh | sb
  deriving DecidableEq, Repr

/-- BRANCH operations. -/
inductive BranchOp where
  | beq | bne | blt | bge | bltu | bgeu
  deriving DecidableEq, Repr

/-- A Tally instruction with the fields of its format (Table 5.4). -/
inductive TallyOp where
  | reg (f : RegFn) (rd rs1 rs2 : Fin 32)
  | imm (o : ImmOp) (rd rs1 : Fin 32) (v : BitVec 16)
  | store (o : StoreOp) (rs2 rs1 : Fin 32) (v : BitVec 16)
  | branch (o : BranchOp) (rs1 rs2 : Fin 32) (off : BitVec 16)
  | jump (link : Bool) (off : BitVec 26)
  | move (keep : Bool) (rd : Fin 32) (q : Fin 4) (v : BitVec 16)
  deriving DecidableEq, Repr

/-- Function code (Table 5.5). -/
def RegFn.code : RegFn → Nat
  | .add => 0x00 | .sub => 0x01 | .and => 0x02 | .or => 0x03 | .xor => 0x04 | .sll => 0x05 | .srl => 0x06 | .sra => 0x07
  | .slt => 0x08 | .sltu => 0x09 | .mul => 0x0A | .mulhu => 0x0B | .min => 0x0C | .max => 0x0D | .amoadd => 0x10
  | .jr => 0x12 | .jalr => 0x13 | .slwx => 0x14 | .evclr => 0x15 | .tstart => 0x16 | .fence => 0x20 | .ffence => 0x21
  | .yield => 0x22 | .halt => 0x23 | .eret => 0x24

/-- The function of a code; `none` for the reserved codes. -/
def RegFn.ofCode : Nat → Option RegFn
  | 0x00 => some .add | 0x01 => some .sub | 0x02 => some .and | 0x03 => some .or | 0x04 => some .xor
  | 0x05 => some .sll | 0x06 => some .srl | 0x07 => some .sra | 0x08 => some .slt | 0x09 => some .sltu
  | 0x0A => some .mul | 0x0B => some .mulhu | 0x0C => some .min | 0x0D => some .max | 0x10 => some .amoadd
  | 0x12 => some .jr | 0x13 => some .jalr | 0x14 => some .slwx | 0x15 => some .evclr | 0x16 => some .tstart
  | 0x20 => some .fence | 0x21 => some .ffence | 0x22 => some .yield | 0x23 => some .halt | 0x24 => some .eret
  | _ => none

/-- Opcode of an IMM operation (Table 5.6). -/
def ImmOp.code : ImmOp → Nat
  | .addi => 0x01 | .andi => 0x02 | .ori => 0x03 | .xori => 0x04 | .slli => 0x05 | .srli => 0x06 | .srai => 0x07
  | .slti => 0x08 | .sltiu => 0x09 | .ld => 0x10 | .lw => 0x11 | .lws => 0x12 | .lh => 0x13 | .lb => 0x14
  | .rds => 0x28 | .wrs => 0x29 | .slw => 0x2A | .slr => 0x2B | .nrd => 0x2C | .nwait => 0x2D | .nbump => 0x2E
  | .launch => 0x2F | .evwait => 0x30

/-- The IMM operation of an opcode. -/
def ImmOp.ofCode : Nat → Option ImmOp
  | 0x01 => some .addi | 0x02 => some .andi | 0x03 => some .ori | 0x04 => some .xori | 0x05 => some .slli
  | 0x06 => some .srli | 0x07 => some .srai | 0x08 => some .slti | 0x09 => some .sltiu | 0x10 => some .ld
  | 0x11 => some .lw | 0x12 => some .lws | 0x13 => some .lh | 0x14 => some .lb | 0x28 => some .rds | 0x29 => some .wrs
  | 0x2A => some .slw | 0x2B => some .slr | 0x2C => some .nrd | 0x2D => some .nwait | 0x2E => some .nbump
  | 0x2F => some .launch | 0x30 => some .evwait
  | _ => none

/-- Opcode of a STORE. -/
def StoreOp.code : StoreOp → Nat
  | .sd => 0x15 | .sw => 0x16 | .sh => 0x17 | .sb => 0x18
/-- The STORE of an opcode. -/
def StoreOp.ofCode : Nat → Option StoreOp
  | 0x15 => some .sd | 0x16 => some .sw | 0x17 => some .sh | 0x18 => some .sb | _ => none
/-- Opcode of a BRANCH. -/
def BranchOp.code : BranchOp → Nat
  | .beq => 0x20 | .bne => 0x21 | .blt => 0x22 | .bge => 0x23 | .bltu => 0x24 | .bgeu => 0x25
/-- The BRANCH of an opcode. -/
def BranchOp.ofCode : Nat → Option BranchOp
  | 0x20 => some .beq | 0x21 => some .bne | 0x22 => some .blt | 0x23 => some .bge | 0x24 => some .bltu
  | 0x25 => some .bgeu | _ => none

/-- The fields that must be 0 for an operation (Tables 5.4 to 5.6). -/
def TallyOp.legal : TallyOp → Bool
  | .reg f rd _ rs2 => match f with
    | .jr => rd = 0 && rs2 = 0
    | .slwx => rd = 0
    | _ => true
  | .imm o rd rs1 v => match o with
    | .slli | .srli | .srai => v.toNat / 64 = 0
    | .rds | .slr | .nrd => rs1 = 0
    | .wrs | .nwait => rd = 0
    | .slw => rd = 0 && v.toNat / 64 = 0
    | .nbump => rd = 0 && rs1 = 0
    | .launch | .evwait => v = 0
    | _ => true
  | _ => true

/-- A five-bit field of a word. -/
def regField (w : BitVec 32) (lo : Nat) : Fin 32 := ⟨bitsOf w.toNat (lo + 4) lo, by
  unfold bitsOf; rw [show lo + 4 + 1 - lo = 5 by omega]; exact Nat.mod_lt _ (by decide)⟩

/-- Table 5.4: the fields of a word under its format; `none` for a reserved opcode or function, or nonzero bits [10:6]
of REG or [20:18] of MOVE. -/
def tallyFields (w : BitVec 32) : Option TallyOp :=
  let op := bitsOf w.toNat 31 26
  let a := regField w 21
  let b := regField w 16
  let c := regField w 11
  let v : BitVec 16 := w.extractLsb' 0 16
  if op = 0x00 then
    if bitsOf w.toNat 10 6 = 0 then (RegFn.ofCode (bitsOf w.toNat 5 0)).map (fun f => .reg f a b c) else none
  else if op = 0x26 then some (.jump false (w.extractLsb' 0 26))
  else if op = 0x27 then some (.jump true (w.extractLsb' 0 26))
  else if op = 0x0A ∨ op = 0x0B then
    if bitsOf w.toNat 20 18 = 0 then
      some (.move (op = 0x0B) a ⟨bitsOf w.toNat 17 16, Nat.mod_lt _ (by decide)⟩ v)
    else none
  else match ImmOp.ofCode op, StoreOp.ofCode op, BranchOp.ofCode op with
    | some o, _, _ => some (.imm o a b v)
    | _, some o, _ => some (.store o a b v)
    | _, _, some o => some (.branch o a b v)
    | _, _, _ => none

/-- The instruction of a word; `none` when it is ILLEGAL (R136). -/
def tallyDecode (w : BitVec 32) : Option TallyOp :=
  match tallyFields w with
  | some t => if t.legal then some t else none
  | none => none

/-- The word of an instruction. -/
def tallyEncode : TallyOp → BitVec 32
  | .reg f rd rs1 rs2 => BitVec.ofNat 6 0 ++ BitVec.ofNat 5 rd ++ BitVec.ofNat 5 rs1 ++ BitVec.ofNat 5 rs2 ++
      BitVec.ofNat 5 0 ++ BitVec.ofNat 6 f.code
  | .imm o rd rs1 v => BitVec.ofNat 6 o.code ++ BitVec.ofNat 5 rd ++ BitVec.ofNat 5 rs1 ++ v
  | .store o rs2 rs1 v => BitVec.ofNat 6 o.code ++ BitVec.ofNat 5 rs2 ++ BitVec.ofNat 5 rs1 ++ v
  | .branch o rs1 rs2 v => BitVec.ofNat 6 o.code ++ BitVec.ofNat 5 rs1 ++ BitVec.ofNat 5 rs2 ++ v
  | .jump link off => BitVec.ofNat 6 (if link then 0x27 else 0x26) ++ off
  | .move keep rd q v => BitVec.ofNat 6 (if keep then 0x0B else 0x0A) ++ BitVec.ofNat 5 rd ++ BitVec.ofNat 3 0 ++
      BitVec.ofNat 2 q ++ v

end Sys2Proof.Machine
end

