-- ==== Sys2Proof/Config.lean ====
section
/-! DEFINITION. What the manual fixes in the silicon but does not give the bits of: free values.
Each constant here has no body, so nothing can be proved of a particular value of it. -/

namespace Sys2Proof.Config

/-- R186 fixes the transcendental functions but gives only their accuracy: how many units in the last place the
unit's result for argument bits `x` lies from the correctly rounded one. `fn` numbers the function. FREE VALUE (log 3). -/
opaque ulpOffset (fn : Nat) (x : BitVec 32) : Int

/-- SLH-DSA signing and verifying (R389, R450, R453) by the published standard, which the manual does not repeat:
the signature bytes over a digest by a key. FREE VALUE (log 4). -/
opaque slhSign (key digest : Nat) : List (BitVec 8)
/-- Does the signature verify? FREE VALUE (log 4). -/
opaque slhVerify (publicKey digest : Nat) (signature : List (BitVec 8)) : Bool
/-- The attestation public key derived from the device-unique fused secret (R453). FREE VALUE (log 4). -/
opaque attestationKey (secret : Nat) : Nat
/-- The answer to an SPDM message whose content only SPDM 1.3 gives (R453). FREE VALUE (log 4). -/
opaque spdmAnswer (request : List (BitVec 8)) : List (BitVec 8)

/-- A value the manual calls undefined, for the `n`-th such value a run meets (R71, R397). FREE VALUE (log 5). -/
opaque freeByte (n : Nat) : BitVec 8
/-- A 64-bit quantity the manual leaves open, for the `n`-th such value a run meets. FREE VALUE (log 5). -/
opaque freeWord (n : Nat) : BitVec 64

/-- The data of a block the manual delivers poisoned without saying what it holds (R250, R339). FREE VALUE (log 5). -/
opaque freeBlock (n : Nat) : BitVec 512

/-- R69, R75 and R191 order the users of a local-store bank, a TRF bank or the transposer by the cycles of their requests,
which the manual gives as typical figures only: in the `n` core cycles of core `c` from cycle `t`, the cycles in which a
request waited, counted as event `ev`. FREE VALUE (log 25). -/
opaque portWaits (c t n ev : Nat) : Nat

/-- A bit error that arises by itself in a store of the module (R61, R70, R74, R76, R95, R130, R132, R261, R266), numbers
taken modulo the size of the store. `store` of a core: 0 local store, 1 TRF, 2 pattern memory, 3 instruction memory,
4 data memory; `two` says that two bits of the word are wrong. Of a Bedrock block, bits 0 to 511 are its data and 512 to 527 its stored
check. -/
inductive Upset where
  | core (c store word : Nat) (two : Bool)
  | ledger (c tile r col segment : Nat)
  | feeder (c f way : Nat)
  | shale (g word : Nat) (two : Bool)
  | bedrock (k block bit : Nat)
  deriving DecidableEq, Repr

/-- The bit error that arises while the block idles, for the `n`-th such idle step: the manual says what an error does and
not when one arises. FREE VALUE (log 26). -/
opaque upset (n : Nat) : Option Upset

/-- The failed deliveries of one block of an access made within one step (R257): which of its hops, and how many in a row, for
the `n`-th such block. FREE VALUE (log 44). -/
opaque hopTrouble (n : Nat) : Option (Nat × Nat)
/-- The energy estimate of an event of Table 19.3 at 0.75 V, in femtojoules, which the firmware release fixes (R438).
FREE VALUE (log 21). -/
opaque eventEnergy (event : Nat) : Nat
/-- The energy estimate of a core-island cycle (R438), likewise. FREE VALUE (log 21). -/
opaque cycleEnergy : Nat
/-- The energy estimate of a 64-byte block by its target (R438): Shale 0, Bedrock 1, another core 2, host 3, peer 4.
FREE VALUE (log 21). -/
opaque blockEnergy (target : Nat) : Nat
/-- The cycles in which a crossbar port, mesh link or bridge channel was busy with the `n`-th block that crosses one (R322), which
the manual counts without giving their number. FREE VALUE (log 49). -/
opaque portBusy (n : Nat) : Nat
/-- Link-ECC corrections of the `n`-th block of a one-step access to Bedrock (R267). FREE VALUE (log 44). -/
opaque linkEcc (n : Nat) : Nat
/-- The 16-bit destination-unit code of a flit header (Table 12.5) for a port of a guild, which no table gives. FREE VALUE
(log 42). -/
opaque unitCode (guild port : Nat) : Nat

/-- Lowest compatibility level a release accepts from its far end (Table 13.8), which no table gives. FREE VALUE (log 5). -/
opaque minLevel (level : Nat) : Nat

end Sys2Proof.Config
end

