-- ==== Sys2Proof/Machine/Num.lean ====
section
/-! DEFINITION. Number formats, exact values and rounding (01_ledger_arithmetic.md): every element the module reads
becomes an exact value, and every rounding of the module is one call of `roundTo`. -/

namespace Sys2Proof.Numbers

/-- The formats of Tables 1.1 and 1.3, in the order of their codes (Table 2.2). -/
inductive Fmt where
  | fp32 | bf16 | fp16 | e4m3 | e5m2 | mx8e4m3 | mx8e5m2 | mx6e3m2 | mx6e2m3 | mx4e2m1
  deriving DecidableEq, Repr

/-- Table 2.2; `none` for the reserved codes. -/
def Fmt.ofCode : Nat → Option Fmt
  | 0 => some .fp32 | 1 => some .bf16 | 2 => some .fp16 | 3 => some .e4m3 | 4 => some .e5m2
  | 5 => some .mx8e4m3 | 6 => some .mx8e5m2 | 7 => some .mx6e3m2 | 8 => some .mx6e2m3 | 9 => some .mx4e2m1
  | _ => none

/-- Bits of one element. -/
def Fmt.bits : Fmt → Nat
  | .fp32 => 32 | .bf16 | .fp16 => 16 | .e4m3 | .e5m2 | .mx8e4m3 | .mx8e5m2 => 8
  | .mx6e3m2 | .mx6e2m3 => 6 | .mx4e2m1 => 4

/-- Is the format block-scaled (Table 1.3)? -/
def Fmt.isMx : Fmt → Bool
  | .mx8e4m3 | .mx8e5m2 | .mx6e3m2 | .mx6e2m3 | .mx4e2m1 => true
  | _ => false

/-- Exponent bits, fraction bits, bias (Table 1.1). -/
def Fmt.eb : Fmt → Nat
  | .fp32 | .bf16 => 8 | .fp16 | .e5m2 | .mx8e5m2 => 5 | .e4m3 | .mx8e4m3 => 4
  | .mx6e3m2 => 3 | .mx6e2m3 | .mx4e2m1 => 2
/-- Fraction bits (Table 1.1). -/
def Fmt.mb : Fmt → Nat
  | .fp32 => 23 | .bf16 => 7 | .fp16 => 10 | .e4m3 | .mx8e4m3 | .mx6e2m3 => 3
  | .e5m2 | .mx8e5m2 | .mx6e3m2 => 2 | .mx4e2m1 => 1
/-- Exponent bias (Table 1.1). -/
def Fmt.bias : Fmt → Nat
  | .fp32 | .bf16 => 127 | .fp16 | .e5m2 | .mx8e5m2 => 15 | .e4m3 | .mx8e4m3 => 7
  | .mx6e3m2 => 3 | .mx6e2m3 | .mx4e2m1 => 1
/-- Encoding of the largest finite magnitude (Tables 1.1, 1.2). -/
def Fmt.maxCode : Fmt → Nat
  | .fp32 => 0x7F7FFFFF | .bf16 => 0x7F7F | .fp16 => 0x7BFF | .e4m3 | .mx8e4m3 => 0x7E
  | .e5m2 | .mx8e5m2 => 0x7B | .mx6e3m2 | .mx6e2m3 => 0x1F | .mx4e2m1 => 0x7
/-- Encoding of +infinity (Table 1.2); `none` where the format has none. -/
def Fmt.infCode : Fmt → Option Nat
  | .fp32 => some 0x7F800000 | .bf16 => some 0x7F80 | .fp16 => some 0x7C00 | .e5m2 => some 0x7C
  | _ => none
/-- The canonical NaN (Table 1.2); the formats that have none never write one. -/
def Fmt.nanCode : Fmt → Nat
  | .fp32 => 0x7FC00000 | .bf16 => 0x7FC0 | .fp16 => 0x7E00 | .e4m3 | .mx8e4m3 => 0x7F | .e5m2 | .mx8e5m2 => 0x7E
  | _ => 0
/-- Largest exponent a block's elements reach, `emax` of R36. -/
def Fmt.emax : Fmt → Int
  | .mx8e4m3 | .e4m3 => 8 | .mx8e5m2 | .e5m2 => 15 | .mx6e3m2 => 4 | _ => 2

/-- An exact value: a NaN, an infinity, or `(-1)^neg * m * 2^e` (zero when `m = 0`). -/
inductive Val where
  | nan
  | inf (neg : Bool)
  | fin (neg : Bool) (m : Nat) (e : Int)
  deriving DecidableEq, Repr

/-- The exact value of an encoding (R19). A NaN is a NaN whatever its sign and payload (R20). -/
def decode (f : Fmt) (b : Nat) : Val :=
  let neg := b.testBit (f.bits - 1)
  let mag := b % 2 ^ (f.bits - 1)
  let ex := mag >>> f.mb
  let fr := mag % 2 ^ f.mb
  let top := 2 ^ f.eb - 1
  if f.infCode.isSome ∧ ex = top then (if fr = 0 then .inf neg else .nan)
  else if (f = .e4m3 ∨ f = .mx8e4m3) ∧ mag = 0x7F then .nan
  else if f = .mx8e5m2 ∧ ex = top then (if fr = 0 then .inf neg else .nan)
  else if ex = 0 then .fin neg fr (1 - (f.bias : Int) - f.mb)
  else .fin neg (fr + 2 ^ f.mb) ((ex : Int) - f.bias - f.mb)

/-- An MX element scaled by its block's E8M0 code (R21): 0xFF makes it a NaN. -/
def scaled (v : Val) (scale : Nat) : Val :=
  if scale = 0xFF then .nan
  else match v with
    | .fin n m e => .fin n m (e + (scale : Int) - 127)
    | w => w

/-- `floor(log2 (num/den))`, for `num, den > 0`. -/
def floorLog2 (num den : Nat) : Int :=
  let l := (Nat.log2 num : Int) - Nat.log2 den
  if num <<< (-l).toNat ≥ den <<< l.toNat then l else l - 1

/-- How a value is narrowed: to nearest even (R30) or stochastically with the draw taken (R32). -/
inductive Mode where
  | rne
  | sr (draw : Nat)
  deriving DecidableEq, Repr

/-- What a rounding wrote: the bits and whether the value was turned into an infinity or saturated by R31. -/
structure Rounded where
  bits : Nat
  ovfl : Bool
  deriving DecidableEq, Repr

/-- The magnitude code of `(num/den) * 2^e` (`num, den > 0`) on the grid of `f`, its exponents not bounded above:
the encodings of R19 in order are 0, 1, 2, ... , so the code of the neighbour above is one more. `up lo r d` says whether
the magnitude `lo + r/d` of units goes to the neighbour above. -/
def roundWith (f : Fmt) (up : Nat → Nat → Nat → Bool) (num den : Nat) (e : Int) : Nat :=
  let lead := floorLog2 num den + e
  let emin : Int := 1 - (f.bias : Int) - f.mb
  let q := max (lead - f.mb) emin
  if lead + 40 < emin then 0
  else if lead > 5000 then 2 ^ 200
  else
    let n1 := num <<< (e - q).toNat
    let d1 := den <<< (q - e).toNat
    let lo := n1 / d1
    let n := if up lo (n1 % d1) d1 then lo + 1 else lo
    ((q + f.mb + f.bias).toNat <<< f.mb) + n - 2 ^ f.mb
/-- The code after R30 or R32. -/
def roundMag (f : Fmt) (mode : Mode) (num den : Nat) (e : Int) : Nat :=
  roundWith f (fun lo r d => match mode with
    | .rne => if 2 * r = d then lo % 2 = 1 else decide (2 * r > d)
    | .sr x => decide ((r <<< 32) / d + x ≥ 2 ^ 32)) num den e
/-- Does the magnitude exceed the largest finite value of the format? -/
def tooLarge (f : Fmt) (num den : Nat) (e : Int) : Bool := decide (roundWith f (fun _ r _ => r ≠ 0) num den e > f.maxCode)

/-- The bits of a magnitude code with a sign, after the overflow rule of Table 1.7. A format without infinities saturates
every magnitude above its largest finite value, rounded back onto it or not (`large`). -/
def finish (f : Fmt) (neg : Bool) (code : Nat) (large : Bool) : Rounded :=
  let sign := if neg then 2 ^ (f.bits - 1) else 0
  match (if f.isMx then none else f.infCode) with
  | some i => if code > f.maxCode then ⟨sign + i, true⟩ else ⟨sign + code, false⟩
  | none => if large then ⟨sign + f.maxCode, true⟩ else ⟨sign + code, false⟩

/-- R30 / R32 then R31 of the exact value `(-1)^neg * (num/den) * 2^e`. -/
def roundRat (f : Fmt) (mode : Mode) (neg : Bool) (num den : Nat) (e : Int) : Rounded :=
  if num = 0 then ⟨if neg then 2 ^ (f.bits - 1) else 0, false⟩
  else finish f neg (roundMag f mode num den e) (tooLarge f num den e)

/-- A value written in format `f`: NaN canonical, infinity or saturation, or rounded. The over flag is set for a
finite value that overflowed or saturated (R31) and for an infinity saturated by E4M3. -/
def roundTo (f : Fmt) (mode : Mode) : Val → Rounded
  | .nan => ⟨f.nanCode, false⟩
  | .inf neg =>
    match f.infCode with
    | some i => ⟨(if neg then 2 ^ (f.bits - 1) else 0) + i, false⟩
    | none => ⟨(if neg then 2 ^ (f.bits - 1) else 0) + f.maxCode, true⟩
  | .fin neg m e => roundRat f mode neg m 1 e

/-! ## FP32 arithmetic as IEEE 754 binary32, to nearest even (R183) -/

/-- FP32 bits of a value. -/
def fp32 (v : Val) : Nat := (roundTo .fp32 .rne v).bits
/-- The value of FP32 bits. -/
def val32 (b : Nat) : Val := decode .fp32 b

/-- The signed integer significand of a finite value at exponent `e0 ≤ e`. -/
def sigAt (neg : Bool) (m : Nat) (e e0 : Int) : Int :=
  let k : Nat := m <<< (e - e0).toNat
  if neg then -(k : Int) else k

/-- The exact sum of two values; an exact zero sum of opposite signs is +0, equal signs keep the sign (R183). -/
def addVal : Val → Val → Val
  | .nan, _ => .nan
  | _, .nan => .nan
  | .inf a, .inf b => if a = b then .inf a else .nan
  | .inf a, .fin .. => .inf a
  | .fin .., .inf b => .inf b
  | .fin n1 m1 e1, .fin n2 m2 e2 =>
    if m1 = 0 ∧ m2 = 0 then .fin (n1 && n2) 0 0
    else if m1 = 0 then .fin n2 m2 e2
    else if m2 = 0 then .fin n1 m1 e1
    else
      let e := min e1 e2
      let s := sigAt n1 m1 e1 e + sigAt n2 m2 e2 e
      .fin (decide (s < 0)) s.natAbs e

/-- The negated value. -/
def negVal : Val → Val
  | .nan => .nan
  | .inf n => .inf (!n)
  | .fin n m e => .fin (!n) m e

/-- The absolute value. -/
def absVal : Val → Val
  | .nan => .nan
  | .inf _ => .inf false
  | .fin _ m e => .fin false m e

/-- The exact product. -/
def mulVal : Val → Val → Val
  | .nan, _ => .nan
  | _, .nan => .nan
  | .inf a, .inf b => .inf (a != b)
  | .inf a, .fin b m _ => if m = 0 then .nan else .inf (a != b)
  | .fin a m _, .inf b => if m = 0 then .nan else .inf (a != b)
  | .fin a m1 e1, .fin b m2 e2 => .fin (a != b) (m1 * m2) (e1 + e2)

/-- Is the value a NaN, an infinity, a zero? -/
def Val.isNan : Val → Bool | .nan => true | _ => false
/-- Is the value an infinity? -/
def Val.isInf : Val → Bool | .inf _ => true | _ => false
/-- Is the value a NaN or an infinity? -/
def Val.isNonFinite (v : Val) : Bool := v.isNan || v.isInf
/-- Is the value a zero? -/
def Val.isZero : Val → Bool | .fin _ 0 _ => true | _ => false

/-- `a < b` on values, with -0 below +0 when `signedZero` (the order of MIN and MAX, R183); false with a NaN. -/
def ltVal (signedZero : Bool) : Val → Val → Bool
  | .nan, _ => false
  | _, .nan => false
  | .inf true, .inf true => false
  | .inf true, _ => true
  | _, .inf true => false
  | .inf false, _ => false
  | .fin .., .inf false => true
  | .fin n1 m1 e1, .fin n2 m2 e2 =>
    if m1 = 0 ∧ m2 = 0 then signedZero && (n1 && !n2)
    else
      let e := min e1 e2
      decide (sigAt n1 m1 e1 e < sigAt n2 m2 e2 e)

/-- FP32 add, multiply, fused multiply-add: one rounding each. -/
def fadd (a b : Nat) : Nat := fp32 (addVal (val32 a) (val32 b))
/-- FP32 subtract: one rounding. -/
def fsub (a b : Nat) : Nat := fp32 (addVal (val32 a) (negVal (val32 b)))
/-- FP32 multiply: one rounding. -/
def fmul (a b : Nat) : Nat := fp32 (mulVal (val32 a) (val32 b))
/-- FP32 `a * b + c`: one rounding. -/
def ffma (a b c : Nat) : Nat := fp32 (addVal (mulVal (val32 a) (val32 b)) (val32 c))
/-- FP32 minimum under R183. -/
def fmin (a b : Nat) : Nat :=
  if (val32 a).isNan || (val32 b).isNan then Fmt.nanCode .fp32
  else if ltVal true (val32 b) (val32 a) then fp32 (val32 b) else fp32 (val32 a)
/-- FP32 maximum under R183. -/
def fmax (a b : Nat) : Nat :=
  if (val32 a).isNan || (val32 b).isNan then Fmt.nanCode .fp32
  else if ltVal true (val32 a) (val32 b) then fp32 (val32 b) else fp32 (val32 a)
/-- FP32 absolute value and negation; of a NaN the canonical NaN (R183). -/
def fabs (a : Nat) : Nat := fp32 (absVal (val32 a))
/-- FP32 negation. -/
def fneg (a : Nat) : Nat := fp32 (negVal (val32 a))

/-! ## Correctly rounded functions (R186) -/

/-- The integer square root by binary search over `k` bits: the largest `r` with `r * r ≤ n` that extends `r0`. -/
def isqrtFrom (n : Nat) : Nat → Nat → Nat
  | 0, r => r
  | k + 1, r => let c := r + 2 ^ k; isqrtFrom n k (if c * c ≤ n then c else r)

/-- The integer square root. -/
def isqrt (n : Nat) : Nat := isqrtFrom n (Nat.log2 n / 2 + 1) 0

/-- 1/x correctly rounded; 1/±0 = ±infinity, 1/±infinity = ±0 (Table 7.1). -/
def frecip (a : Nat) : Nat :=
  match val32 a with
  | .nan => Fmt.nanCode .fp32
  | .inf n => fp32 (.fin n 0 0)
  | .fin n m e => if m = 0 then fp32 (.inf n) else (roundRat .fp32 .rne n 1 m (-e)).bits

/-- 1/sqrt(x) correctly rounded; rsqrt(±0) = ±infinity, rsqrt of a negative is NaN, rsqrt(+infinity) = +0 (Table 7.1). -/
def frsqrt (a : Nat) : Nat :=
  match val32 a with
  | .nan => Fmt.nanCode .fp32
  | .inf n => if n then Fmt.nanCode .fp32 else 0
  | .fin n m e =>
    if m = 0 then fp32 (.inf n)
    else if n then Fmt.nanCode .fp32
    else
      let odd := e % 2 ≠ 0
      let m' := if odd then 2 * m else m
      let e' := if odd then e - 1 else e
      let t := 2 ^ 160 / m'
      let r := isqrt t
      let exact := decide (r * r * m' = 2 ^ 160)
      fp32 (.fin false (2 * r + (if exact then 0 else 1)) (-(e' / 2) - 81))

/-- Fixed-point precision of the reference functions. -/
def prec : Nat := 220

/-- The fraction `f / 2^n` (bits from the top) folded into `2^(f/2^n)`, in fixed point: `c` is `2^(2^-i)`. -/
def exp2Frac (f : Nat) : Nat → Nat → Nat → Nat
  | 0, _, acc => acc
  | n + 1, c, acc =>
    if f % 2 ^ (n + 1) = 0 then acc
    else
      let c' := isqrt (c <<< prec)
      exp2Frac f n c' (if f.testBit n then (acc * c') >>> prec else acc)

/-- `2^x` as a significand and exponent: `x = num * 2^e` exactly, kept to `prec` fraction bits; the last bit is sticky.
`|x|` must be below 2^20. -/
def exp2Val (neg : Bool) (num : Nat) (e : Int) : Val :=
  let s : Int := if neg then -(num : Int) else num
  let fixed : Int := if e ≥ 0 then s * (2 ^ (e.toNat + prec) : Nat)
    else (s * (2 ^ prec : Nat)) / ((2 ^ (-e).toNat : Nat) : Int)
  let k : Int := fixed / ((2 ^ prec : Nat) : Int)
  let f : Nat := (fixed % ((2 ^ prec : Nat) : Int)).toNat
  if f = 0 then .fin false 1 k
  else .fin false (2 * exp2Frac f prec (2 ^ (prec + 1)) (2 ^ prec) + 1) (k - prec - 1)

/-- EXP2 of an exact value (Table 7.1). -/
def exp2Of : Val → Val
  | .nan => .nan
  | .inf n => if n then .fin false 0 0 else .inf false
  | .fin n m e =>
    if m = 0 then .fin false 1 0
    else if (Nat.log2 m : Int) + e > 16 then (if n then .fin false 0 0 else .inf false)
    else exp2Val n m e

/-- EXP2 correctly rounded. -/
def fexp2 (a : Nat) : Nat := fp32 (exp2Of (val32 a))

/-! ## Functions known only to an accuracy (R186, R194): a reference value and a free offset within the bound -/

/-- ln 2 and log2 e in fixed point, from the series of 2 atanh(1/3). -/
def lnSeries : Nat → Nat → Nat → Nat → Nat
  | 0, _, _, acc => acc
  | n + 1, t, k, acc => lnSeries n (t / 9) (k + 2) (acc + t / k)
/-- ln 2, `prec` fraction bits. -/
def ln2 : Nat := 2 * lnSeries 80 (2 ^ prec / 3) 1 0
/-- log2 e, `prec` fraction bits. -/
def log2e : Nat := 2 ^ (2 * prec) / ln2

/-- log2 of a fixed-point number in [1,2), bit by bit: squaring doubles the logarithm. -/
def log2Bits : Nat → Nat → Nat → Nat
  | 0, _, acc => acc
  | n + 1, x, acc =>
    let y := (x * x) >>> prec
    if y ≥ 2 ^ (prec + 1) then log2Bits n (y / 2) (2 * acc + 1) else log2Bits n y (2 * acc)

/-- log2 of a positive exact value, to 100 fraction bits, as a value (the last bit sticky). -/
def log2Val (m : Nat) (e : Int) : Val :=
  let l := Nat.log2 m
  let x := if l ≤ prec then m <<< (prec - l) else m >>> (l - prec)
  let i : Int := (l : Int) + e
  let f := log2Bits 100 x 0
  if m = 2 ^ l then .fin (decide (i < 0)) i.natAbs 0
  else
    let t : Int := (i * (2 ^ 100 : Nat) + f) * 2 + 1
    .fin (decide (t < 0)) t.natAbs (-101)

/-- Fixed-point sine or cosine series of `x` (units 2^-prec, |x| at most 1): alternating terms. -/
def trigSeries (x2 : Nat) : Nat → Nat → Nat → Int → Int → Int
  | 0, _, _, _, acc => acc
  | n + 1, t, k, sgn, acc =>
    trigSeries x2 n ((t * x2) >>> prec / ((k + 1) * (k + 2))) (k + 2) (-sgn) (acc + sgn * t)

/-- Fixed-point precision for reducing sine and cosine arguments up to 2^128. -/
def trigPrec : Nat := 500
/-- arctan(1/q) in fixed point `trigPrec`. -/
def atanInv (q : Nat) : Nat → Nat → Nat → Int → Int → Int
  | 0, _, _, _, acc => acc
  | n + 1, t, k, sgn, acc => atanInv q n (t / (q * q)) (k + 2) (-sgn) (acc + sgn * (t / k : Nat))
/-- pi by Machin's formula, `trigPrec` fraction bits. -/
def piFixed : Nat :=
  (16 * atanInv 5 120 (2 ^ trigPrec / 5) 1 1 0 - 4 * atanInv 239 40 (2 ^ trigPrec / 239) 1 1 0).toNat

/-- The sine (`cosine = false`) or cosine of an exact finite value. -/
def trigVal (cosine neg : Bool) (m : Nat) (e : Int) : Val :=
  let x : Nat := if e ≥ 0 then m <<< (e.toNat + trigPrec) else (m <<< trigPrec) >>> (-e).toNat
  let half := piFixed / 2
  let quad := x / half
  let r := (x % half) >>> (trigPrec - prec)
  let q := (quad + (if cosine then 1 else 0)) % 4
  let x2 := (r * r) >>> prec
  let s := trigSeries x2 50 r 1 1 0
  let c := trigSeries x2 50 (2 ^ prec) 0 1 0
  let v : Int := if q = 0 then s else if q = 1 then c else if q = 2 then -s else -c
  let v := if neg && !cosine then -v else v
  .fin (decide (v < 0)) v.natAbs (-(prec : Int))

/-- e^x as a value, through 2^(x log2 e). -/
def expVal : Val → Val
  | .nan => .nan
  | .inf n => if n then .fin false 0 0 else .inf false
  | .fin n m e =>
    if m = 0 then .fin false 1 0
    else if (Nat.log2 m : Int) + e > 16 then (if n then .fin false 1 (-1000) else .inf false)
    else exp2Of (.fin n (m * log2e) (e - prec))

/-- The quotient of two finite nonzero values to 200 bits, sticky in the last. -/
def quotVal : Val → Val → Val
  | .fin n1 m1 e1, .fin n2 m2 e2 =>
    .fin (n1 != n2) (2 * ((m1 <<< 400) / m2) + 1) (e1 - e2 - 401)
  | _, _ => .nan

/-- A value with its significand cut to 300 bits. -/
def trimVal : Val → Val
  | .fin n m e => let l := Nat.log2 m; if l ≤ 300 then .fin n m e else .fin n (m >>> (l - 300)) (e + (l - 300 : Nat))
  | v => v

/-- The reference value of tanh: (1 - t) / (1 + t), t = e^(-2|x|); for tiny |x| it is x. -/
def tanhVal : Val → Val
  | .nan => .nan
  | .inf n => .fin n 1 0
  | .fin n m e =>
    if m = 0 then .fin n 0 0
    else if (Nat.log2 m : Int) + e < -40 then .fin n m e
    else if (Nat.log2 m : Int) + e > 10 then .fin n 1 0
    else
      let t := trimVal (expVal (.fin true m (e + 1)))
      let q := quotVal (addVal (.fin false 1 0) (negVal t)) (addVal (.fin false 1 0) t)
      if n then negVal q else q

/-- The reference value of the sigmoid 1 / (1 + e^-x). -/
def sigmoidVal (v : Val) : Val :=
  match v with
  | .nan => .nan
  | .inf n => if n then .fin false 0 0 else .fin false 1 0
  | .fin n m e =>
    if (Nat.log2 m : Int) + e > 10 then (if n then expVal v else .fin false 1 0)
    else quotVal (.fin false 1 0) (addVal (.fin false 1 0) (trimVal (expVal (.fin (!n) m e))))

/-- The signed order of FP32 magnitudes: a code moved by `k` units in the last place, sign and infinity not crossed. -/
def moveUlp (b : Nat) (k : Int) : Nat :=
  let sign := b - b % 2 ^ 31
  sign + (max 0 (min (0x7F800000 : Int) ((b % 2 ^ 31 : Nat) + k))).toNat

/-- The value of an FP32 code, infinity taken as 2^128, where the next finite value would lie. -/
def nearVal (b : Nat) : Val := match val32 b with | .inf n => .fin n 1 128 | v => v
/-- Does FP32 code `b` lie within `bound` units in the last place of the exact value (-1)^n m 2^e? A unit is that of the
exact value's binade. -/
def ulpNear (bound : Nat) (n : Bool) (m : Nat) (e : Int) (b : Nat) : Bool :=
  let u := max ((Nat.log2 m : Int) + e) (-126) - 23
  match addVal (nearVal b) (.fin (!n) m e) with
  | .fin _ d x => decide (sigAt false d x (min x u) ≤ sigAt false bound u (min x u))
  | _ => false
/-- The code up to `k` units from `r`, upwards or downwards, that is nearest the wish and still within the bound. -/
def ulpSettle (ok : Nat → Bool) (r : Nat) (up : Bool) : Nat → Nat
  | 0 => r
  | k + 1 =>
    let c := moveUlp r (if up then (k + 1 : Nat) else -((k + 1 : Nat) : Int))
    if ok c then c else ulpSettle ok r up k
/-- A result within `bound` units in the last place of the exact value `ref` stands for: the free offset is brought into
the bound, and exact special results keep their bits. -/
def within (bound : Nat) (fn : Nat) (x : Nat) (ref : Val) : Nat :=
  match ref with
  | .fin n m e =>
    let r := fp32 ref
    if m = 0 then r
    else
      let o := Config.ulpOffset fn (BitVec.ofNat 32 x)
      ulpSettle (ulpNear bound n m e) r (decide (0 ≤ o)) (min (bound + 1) o.natAbs)
  | _ => fp32 ref

/-- The transcendental functions of Table 7.1 by their place in v_op codes 0x10 to 0x18. -/
inductive Fn where
  | exp | exp2 | log2 | recip | rsqrt | tanh | sigmoid | sin | cos
  deriving DecidableEq, Repr

/-- One transcendental function on FP32 bits (R186). -/
def Fn.apply (f : Fn) (a : Nat) : Nat :=
  let v := val32 a
  match f with
  | .exp2 => fexp2 a
  | .recip => frecip a
  | .rsqrt => frsqrt a
  | .exp => within 2 0 a (expVal v)
  | .log2 => match v with
    | .nan => Fmt.nanCode .fp32
    | .inf n => if n then Fmt.nanCode .fp32 else fp32 (.inf false)
    | .fin n m e => if m = 0 then fp32 (.inf true) else if n then Fmt.nanCode .fp32 else within 1 2 a (log2Val m e)
  | .tanh => match v with
    | .inf n => fp32 (.fin n 1 0)
    | w => within 2 5 a (tanhVal w)
  | .sigmoid => match v with
    | .inf n => if n then 0 else fp32 (.fin false 1 0)
    | w => within 2 6 a (sigmoidVal w)
  | .sin => match v with
    | .fin n m e => if m = 0 then a else within 2 7 a (trigVal false n m e)
    | _ => Fmt.nanCode .fp32
  | .cos => match v with
    | .fin n m e => within 2 8 a (trigVal true n m e)
    | _ => Fmt.nanCode .fp32

/-- gelu in its tanh form, silu and their derivatives (R194): functions 9 to 12. -/
inductive Act where
  | gelu | silu | gelu' | silu'
  deriving DecidableEq, Repr

/-- sqrt(2/pi) to 200 bits. -/
def sqrt2OverPi : Val := .fin false (isqrt ((2 <<< (400 + trigPrec)) / piFixed)) (-200)
/-- 0.044715 as the decimal of the tanh form, to 200 bits (the manual names the form, not the constant; log 6). -/
def geluC : Val := .fin false ((44715 <<< 200) / 1000000) (-200)
/-- u = sqrt(2/pi) (x + c x^3). -/
def geluArg (x : Val) : Val :=
  trimVal (mulVal sqrt2OverPi (trimVal (addVal x (trimVal (mulVal geluC (mulVal x (mulVal x x)))))))

/-- Reference values of the activations on a finite argument. -/
def Act.ref (f : Act) (x : Val) : Val :=
  match f with
  | .silu => trimVal (mulVal x (trimVal (sigmoidVal x)))
  | .silu' =>
    let s := trimVal (sigmoidVal x)
    trimVal (mulVal s (trimVal (addVal (.fin false 1 0) (trimVal (mulVal x (addVal (.fin false 1 0) (negVal s)))))))
  | .gelu => -- x/2 (1 + tanh u) = x * sigmoid(2u)
    trimVal (mulVal x (trimVal (sigmoidVal (mulVal (.fin false 1 1) (geluArg x)))))
  | .gelu' => -- s + x s (1 - s) * 2 u', with s = sigmoid(2u)
    let s := trimVal (sigmoidVal (mulVal (.fin false 1 1) (geluArg x)))
    let du := trimVal (mulVal sqrt2OverPi (addVal (.fin false 1 0) (mulVal (.fin false 3 0) (trimVal (mulVal geluC (mulVal x x))))))
    let t := trimVal (mulVal (trimVal (mulVal s (addVal (.fin false 1 0) (negVal s)))) (mulVal (.fin false 1 1) du))
    trimVal (addVal s (trimVal (mulVal x t)))

/-- An activation on FP32 bits, within 4 ulp; limits at infinite arguments exactly (R194). -/
def Act.apply (f : Act) (a : Nat) : Nat :=
  let fn := match f with | .gelu => 9 | .silu => 10 | .gelu' => 11 | .silu' => 12
  match val32 a with
  | .nan => Fmt.nanCode .fp32
  | .inf n => match f with
    | .gelu | .silu => if n then 0x80000000 else 0x7F800000
    | .gelu' | .silu' => if n then 0 else 0x3F800000
  | .fin n m e => if (Nat.log2 m : Int) + e > 20 then
      (match f with
       | .gelu | .silu => if n then within 4 fn a (.fin true 1 (-1000)) else within 4 fn a (.fin false m e)
       | .gelu' | .silu' => if n then within 4 fn a (.fin true 1 (-1000)) else within 4 fn a (.fin false 1 0))
    else within 4 fn a (f.ref (.fin n m e))

end Sys2Proof.Numbers
end

