-- ==== Sys2Proof/Machine/Ledger.lean ====
section
/-! DEFINITION. The ledger (R23 to R28), its transport forms (R37 to R40) and its drain (R34). -/

namespace Sys2Proof

open Numbers

/-- The state tag of a ledger (Table 1.5). -/
inductive Tag where
  | finite | pinf | minf | nan | poison
  deriving DecidableEq, Repr

/-- A ledger: 640-bit two's-complement value in units of 2^-298, and its state tag (R23). `parity` marks the segments
whose stored parity bit is wrong, which the next read of the entry finds (R61). -/
structure Ledger where
  v : BitVec 640
  tag : Tag
  parity : BitVec 10 := 0
  deriving DecidableEq, Repr

/-- Does a segment of the entry hold a parity error (R61)? -/
def Ledger.parityBad (l : Ledger) : Bool := l.parity ≠ 0

namespace LedgerOps

/-- A newly started ledger: FINITE with V = 0 (R26). -/
def zero : Ledger := ⟨0, .finite, 0⟩

/-- The code of a state tag (Table 1.5). -/
def tagCode : Tag → Nat
  | .finite => 0 | .pinf => 1 | .minf => 2 | .nan => 3 | .poison => 4

/-- The state of a code; `none` for the reserved codes. -/
def tagOfCode : Nat → Option Tag
  | 0 => some .finite | 1 => some .pinf | 2 => some .minf | 3 => some .nan | 4 => some .poison | _ => none

/-- Combination of two states (Table 1.5). -/
def join : Tag → Tag → Tag
  | .poison, _ => .poison
  | _, .poison => .poison
  | .nan, _ => .nan
  | _, .nan => .nan
  | .finite, t => t
  | t, .finite => t
  | .pinf, .pinf => .pinf
  | .minf, .minf => .minf
  | .pinf, .minf => .nan
  | .minf, .pinf => .nan

/-- Two terms combined: states by Table 1.5, values added modulo 2^640, V held at 0 while not FINITE (R25, R26). -/
def combine (a b : Ledger) : Ledger :=
  let t := join a.tag b.tag
  ⟨if t = .finite then a.v + b.v else 0, t, 0⟩

/-- A term that is only a state. -/
def ofTag (t : Tag) : Ledger := ⟨0, t, 0⟩

/-- The exact integer `m * 2^e` in units of 2^-298, `e ≥ -298` (R24). -/
def ofDyadic (neg : Bool) (m : Nat) (e : Int) : Ledger :=
  let k : Nat := m <<< (e + 298).toNat
  ⟨BitVec.ofInt 640 (if neg then -(k : Int) else k), .finite, 0⟩

/-- One element as a term (R199): its exact value, or its state. -/
def ofVal (poison : Bool) : Val → Ledger
  | v => if poison then ofTag .poison else match v with
    | .nan => ofTag .nan
    | .inf n => ofTag (if n then .minf else .pinf)
    | .fin n m e => ofDyadic n m e

/-- The product of two elements as a term (Table 1.6), the rows tried from the top. -/
def product (pa pb : Bool) (a b : Val) : Ledger :=
  if pa || pb then ofTag .poison else ofVal false (mulVal a b)

/-- Are the guard bits [639:607] all equal (R28)? -/
def inRange (l : Ledger) : Bool :=
  let g := l.v.toNat >>> 607
  decide (g = 0) || decide (g = 2 ^ 33 - 1)

/-- The exact value of a FINITE ledger in range, V * 2^-298. -/
def value (l : Ledger) : Val := .fin (decide (l.v.toInt < 0)) l.v.toInt.natAbs (-298)

/-- What a drain passes on (Table 1.8): the exact value or the special case, and whether the ledger overflowed. -/
structure Drained where
  val : Val
  poison : Bool
  overflow : Bool
  deriving DecidableEq, Repr

/-- Table 1.8, rows from the top; a zero V drains as +0. -/
def drain (l : Ledger) : Drained :=
  match l.tag with
  | .poison => ⟨.nan, true, false⟩
  | .nan => ⟨.nan, false, false⟩
  | .pinf => ⟨.inf false, false, false⟩
  | .minf => ⟨.inf true, false, false⟩
  | .finite =>
    if !inRange l then ⟨.nan, false, true⟩
    else if l.v = 0 then ⟨.fin false 0 0, false, false⟩
    else ⟨value l, false, false⟩

/-! ## Packed and full forms -/

/-- The lowest set bit of a number, searched over `k` bits from `i`. -/
def lowBit (v : Nat) : Nat → Nat → Nat
  | 0, i => i
  | k + 1, i => if v.testBit i then i else lowBit v k (i + 1)

/-- The highest bit of V that differs from bit 639, plus one; 0 when there is none (R39, step 4). -/
def highPlus1 (l : Ledger) : Nat :=
  let n := if l.v.toInt < 0 then (-(l.v.toInt + 1)).toNat else l.v.toNat
  if n = 0 then 0 else Nat.log2 n + 1

/-- A transport form: packed 24 bytes or full 80 bytes, as numbers. -/
inductive Form where
  | packed (w : BitVec 192)
  | full (w : BitVec 640)
  deriving DecidableEq, Repr

/-- Table 1.9: window in [191:16], seg_index in [15:0]. -/
def packWord (seg window : Nat) : BitVec 192 := BitVec.ofNat 192 (window <<< 16 + seg)

/-- The packed POISON term, 0xFFF3 (Table 1.10). -/
def poisonForm : Form := .packed (packWord 0xFFF3 0)

/-- The form the sender chooses (R39). -/
def toForm (l : Ledger) : Form :=
  match l.tag with
  | .pinf => .packed (packWord 0xFFF0 0)
  | .minf => .packed (packWord 0xFFF1 0)
  | .nan => .packed (packWord 0xFFF2 0)
  | .poison => poisonForm
  | .finite =>
    let n := l.v.toNat
    if n = 0 then .packed (packWord 0 0)
    else
      let s := min 7 (lowBit n 640 0 / 64)
      if highPlus1 l ≤ 64 * s + 175 then .packed (packWord s ((n >>> (64 * s)) % 2 ^ 176))
      else .full l.v

/-- Is a packed term well formed (R40)? -/
def packedOk (w : BitVec 192) : Bool :=
  let seg := w.toNat % 2 ^ 16
  let win := w.toNat >>> 16
  decide (seg ≤ 7) || (decide (0xFFF0 ≤ seg) && decide (seg ≤ 0xFFF3) && decide (win = 0))

/-- The ledger a form stands for (R37, R38); a malformed packed term is POISON (R40). -/
def ofForm : Form → Ledger
  | .full w => ⟨w, .finite, 0⟩
  | .packed w =>
    let seg := w.toNat % 2 ^ 16
    if packedOk w then
      if seg ≤ 7 then ⟨((w.extractLsb' 16 176).signExtend 640) <<< (64 * seg), .finite, 0⟩
      else ofTag (match seg with | 0xFFF0 => .pinf | 0xFFF1 => .minf | 0xFFF2 => .nan | _ => .poison)
    else ofTag .poison

/-- The 80 bytes a form fills in a slot of a ledger image (R88): 24 and 56 zeros, or 80. -/
def slotBytes : Form → List Byte
  | .packed w => natLe 24 w.toNat ++ List.replicate 56 0
  | .full w => natLe 80 w.toNat

/-- Is the form full? -/
def isFull : Form → Bool | .full _ => true | .packed _ => false

/-- The form held by the bytes of an image slot, by its form_mask bit. -/
def formOf (full : Bool) (slot : List Byte) : Form :=
  if full then .full (BitVec.ofNat 640 (leNat slot)) else .packed (BitVec.ofNat 192 (leNat (slot.take 24)))

/-- Segments spanned by the nonzero products of a group: the lowest and highest segments touched (R55). -/
def spanOf : List Ledger → Option (Nat × Nat)
  | [] => none
  | l :: t =>
    let n := l.v.toInt.natAbs
    if l.tag = .finite ∧ n ≠ 0 then
      let lo := lowBit n 640 0 / 64
      let hi := Nat.log2 n / 64
      match spanOf t with
      | none => some (lo, hi)
      | some (a, b) => some (min a lo, max b hi)
    else spanOf t

/-- Extra cycles a group takes beyond one: a span of n > 3 segments takes n - 3 more (R55). -/
def spreadExtra (g : List Ledger) : Nat :=
  match spanOf g with
  | none => 0
  | some (a, b) => (b + 1 - a) - 3

end LedgerOps
end Sys2Proof
end

