-- ==== Sys2Proof/Machine/CoreState.lean ====
section
/-! DEFINITION. The state of one core as plain data: its stores, its Loom, engine queues, scoreboard and windows,
its Tally, row reducer, Assayer, lane generators and Gauger. -/

namespace Sys2Proof.Machine

/-- A byte store with ECC (R70, R76, R95, R130, R132): its bytes, the 64-byte lines whose poison bit is set, and the
latent single-bit and double-bit errors by protected word (64-bit words; 32-bit words in instruction memory). -/
structure Store where
  data : Mem := []
  poison : List Nat := []
  single : List Nat := []
  double : List Nat := []
  deriving DecidableEq, Repr

/-- The five engines in the order of Table 3.9. -/
inductive Engine where
  | array | vector | drain | inbound | outbound
  deriving DecidableEq, Repr

/-- A launch request (R96): its number (R142), start index, length and captured slots. -/
structure InvReq where
  num : Nat
  start : Nat
  len : Nat
  slots : Tab Word
  deriving DecidableEq, Repr

/-- An entry of an engine queue (R119): a micro-op instance, or a marker (R109, R110). `word` is the control word,
`slots` the latched slot values (R102) and `desc` the latched descriptor of a Carter (R107). `uid` numbers the entries
of a core in program order. -/
structure MicroOp where
  uid : Nat
  inv : Nat
  start : Nat
  idx : Nat
  inst : Nat
  eng : Engine
  marker : Bool
  word : BitVec 256
  slots : Tab Word
  desc : BitVec 512
  deriving DecidableEq, Repr

/-- The word whose instances the Loom is issuing (R108): `total` instances are issued (one of markers when R = 0,
R111), `next` is the next one, and `tiles` the tile configuration in force before it in program order (R80). -/
structure Issue where
  idx : Nat
  total : Nat
  next : Nat
  word : BitVec 256
  slots : Tab Word
  ciDesc : BitVec 512
  coDesc : BitVec 512
  tiles : Tab Word32
  deriving DecidableEq, Repr

/-- The invocation being split (R98): the next word to read and the word being issued. -/
structure Splitting where
  req : InvReq
  nextIdx : Nat
  issue : Option Issue
  deriving DecidableEq, Repr

/-- An invocation that has passed its boundary and not ended (R99), or that a fault has ended early (R143).
`first` marks the one that faulted first; `drains` that it ends only when every engine queue is empty (R85, step 5). -/
structure Flight where
  num : Nat
  left : Nat
  split : Bool
  fault : Bool
  first : Bool
  drains : Bool
  deriving DecidableEq, Repr

/-- A scoreboard region (R122). -/
inductive Region where
  | ls (lo hi : Nat)
  | trf (lo hi : Nat)
  | ledger (tile : Nat)
  deriving DecidableEq, Repr

/-- A scoreboard entry (R122): the regions its micro-op still holds. `matmul` marks the exception of R124. -/
structure SbEntry where
  uid : Nat
  matmul : Bool
  reads : List Region
  writes : List Region
  deriving DecidableEq, Repr

/-- A pending receive window (R165). `lo > hi` is the empty region. `full` marks a window that has its bytes and waits
for an earlier instance of its word (R167); `idleSaid` that WINDOW_IDLE was raised for it, `since` the core cycle of its
last byte, or of its entry (R172). -/
structure Window where
  op : MicroOp
  lo : Nat
  hi : Nat
  expect : Nat
  got : Nat
  full : Bool
  idleSaid : Bool
  since : Nat
  deriving DecidableEq, Repr

/-- A begun micro-op that has not completed: `left` counts the accesses outside the core it still waits for,
`noBump` marks a refused one (R94, R312). -/
structure Running where
  op : MicroOp
  left : Nat
  noBump : Bool
  deriving DecidableEq, Repr

/-- Thread states of Table 5.2. -/
inductive ThreadState where
  | halted | ready | waitFar | waitNotch | waitEvent | waitLaunch | waitTable
  deriving DecidableEq, Repr

/-- One Tally thread (R126) with its exception words (Table 5.7), its posted far writes and the first refused one
since its last ffence (R134). `wait` is the notch and value of the nwait it is in (R146) and `met` that this wait has been
met (R160). -/
structure Thread where
  regs : Tab Word := []
  pc : Word := 0
  state : ThreadState := .halted
  handler : Bool := false
  excVector : Word := 0
  excCause : Word := 0
  excPc : Word := 0
  excAddr : Word := 0
  posted : Nat := 0
  refused : Option Word := none
  wait : Option (Nat × BitVec 48) := none
  met : Bool := false
  deriving DecidableEq, Repr

/-- A shadow-slot write issued in core cycle `cycle`, performed in the next (R138). -/
structure ShadowWrite where
  thread : Nat
  slot : Nat
  value : Word
  cycle : Nat
  deriving DecidableEq, Repr

/-- A row-reducer entry (R197). -/
structure Reducer where
  led : Ledger := LedgerOps.zero
  max : Nat := 0xFF800000
  k : Int := 0
  refSet : Bool := false
  count : Nat := 0
  deriving DecidableEq, Repr

/-- The exponent-statistics histogram (R205): bins by number, the extreme exponents of bins 1 to 62 (`none` when they
are empty), whether a bin saturated, and the values recorded. -/
structure Histogram where
  bins : Tab Nat := []
  hi : Option Int := none
  lo : Option Int := none
  saturated : Bool := false
  recorded : Nat := 0
  deriving DecidableEq, Repr

/-- A sampled micro-op (R468, R469): the cycles of its issue, begin and completion, and whether its invocation ended
with fault status. -/
structure Sample where
  op : MicroOp
  issue : Nat
  began : Nat
  done : Option Nat
  faulted : Bool
  deriving DecidableEq, Repr

/-- One occurrence of an event (R473): its code and payload words, waiting to cross to the events service (R474). -/
structure Occurrence where
  code : Nat
  words : List Word
  deriving DecidableEq, Repr

/-- A Gauger counter (R460): 48-bit count and overflow bit. -/
structure GauCounter where
  count : Nat := 0
  ovf : Bool := false
  deriving DecidableEq, Repr

/-- The energy account of an invocation (R438, Table 17.7): its launch number, the core cycles of its boundary and end, its
flags, the lowest operating point, and its three estimates in femtojoules times 5,625 (log 21). -/
structure Account where
  num : Nat
  began : Nat
  ended : Option Nat := none
  faulted : Bool := false
  changed : Bool := false
  braked : Bool := false
  lowest : Nat := 0
  dynamic : Nat := 0
  static : Nat := 0
  transfer : Nat := 0
  deriving DecidableEq, Repr

/-- The Gauger of a core (R460 to R471), and its energy estimate (R438): the accounts of invocations in launch order, what no
invocation is charged with, the invocation whose micro-op is taking effect, the events not yet charged, and the dynamic part and the
rest of the estimate of the planner's present window (R434). `sel` and `cfg` hold GAU_SEL and GAU_CORE_CFG as written. -/
structure Gauger where
  counters : Tab GauCounter := []
  sel : Tab Word32 := []
  cfg : Word := 0x00FA0A3C40000000
  smpBase : Word := 0
  dumpBase : Word := 0
  smpLeft : Nat := 0
  samples : List Sample := []
  smpSeq : Nat := 0
  smpDropped : Bool := false
  dumpSeq : Nat := 0
  dumpSkipped : Bool := false
  accounts : List Account := []
  unclaimed : Nat := 0
  charged : Option Nat := none
  fresh : List (Nat × Nat × Nat) := []
  winDynamic : Nat := 0
  winOther : Nat := 0
  deriving DecidableEq, Repr

/-- A column of a stationary set (R47): its element codes and its block-scale bytes, each with its poison mark. -/
structure SetCol where
  elems : List (Nat × Bool)
  scales : List (Nat × Bool)
  deriving DecidableEq, Repr

/-- A stationary set (R47): the micro-op and the chunk of it that it is loaded for, its columns, and the core cycle in which its load is
finished (R48). -/
structure StatSet where
  owner : Option (Nat × Nat) := none
  cols : List SetCol := []
  ready : Nat := 0
  deriving DecidableEq, Repr

/-- A line of a feeder's operand cache (R72), its bytes those of the local store (R73), and whether its parity bit is
wrong (R74). -/
structure FeederLine where
  line : Nat
  parityBad : Bool
  deriving DecidableEq, Repr

/-- A run of array cycles to come that count as one event of Table 2.9. -/
structure ArrayRun where
  event : Nat
  cycles : Nat
  deriving DecidableEq, Repr

/-- The parts of the matrix array that outlast a micro-op: its stationary sets (R47), the set of the last chunk issued, the
core cycle from which the side loader is free, the cycle in which the last chunk became active, the array cycles to come of the micro-ops begun (R64), and the lines of the
feeders' operand caches, most recently used first (R72). -/
structure ArrayPipe where
  sets : Tab StatSet := []
  activeSet : Nat := 1
  loaderFree : Nat := 0
  lastChunk : Nat := 0
  plan : List ArrayRun := []
  feeders : Tab (List FeederLine) := []
  deriving DecidableEq, Repr

/-- What the core did in core cycle `cycle`: the event bits set in it, and the detections added to the two counts with
whether they set the OVER bit (R149, R150). -/
structure CycleNote where
  cycle : Nat := 0
  bits : Word := 0
  nf : Nat := 0
  nfNew : Bool := false
  spike : Nat := 0
  spikeNew : Bool := false
  deriving DecidableEq, Repr

/-- One core. `met` holds the notch waits of queue heads that have been met (R160), by micro-op; `lastThread` is the thread
that issued last (R127), and `calm` the consecutive cycles the stalemate detector has counted (R178). -/
structure CoreSt where
  ls : Store := {}
  trf : Store := {}
  tiles : Tab Word32 := []
  splitTiles : Tab Word32 := []
  pattern : Store := {}
  ledgers : Tab Ledger := []
  notches : Tab (BitVec 48) := []
  liveSlots : Tab Word := []
  shadow : Tab Word := []
  shadowPend : List ShadowWrite := []
  descs : Tab (BitVec 512) := []
  invQueue : List InvReq := []
  splitting : Option Splitting := none
  flights : List Flight := []
  endedAhead : List Nat := []
  queues : Tab (List MicroOp) := []
  running : Tab (List Running) := []
  scoreboard : List SbEntry := []
  windows : Tab Window := []
  nextUid : Nat := 0
  queueMode : Nat := 0
  queueModeWanted : Nat := 0
  frozen : Bool := false
  stalemateCfg : Word32 := 0x14
  imem : Store := {}
  dmem : Store := {}
  farCache : Tab (List (Nat × BitVec 512)) := []
  threads : Tab Thread := []
  lastIssue : Nat := 0
  yielded : Option Nat := none
  cycle : Nat := 0
  invIssued : BitVec 48 := 0
  invDone : BitVec 48 := 0
  invFaults : BitVec 48 := 0
  invLastFault : BitVec 48 := 0
  evPending : Word := 0
  mailbox : Word := 0
  nfCount : BitVec 48 := 0
  nfLimit : BitVec 48 := 0
  spikeCount : BitVec 48 := 0
  spikeLimit : BitVec 48 := 0
  reducer : Tab Reducer := []
  hist : Histogram := {}
  assayer : Tab Word := []
  lanes : Tab (BitVec 128) := []
  prevFmts : Option (Nat × Nat) := none
  pipe : ArrayPipe := {}
  met : List (Nat × Nat × Nat) := []
  lastThread : Nat := 3
  note : CycleNote := {}
  calm : Nat := 0
  gauger : Gauger := {}
  deriving DecidableEq, Repr

end Sys2Proof.Machine
end

