-- ==== Sys2Proof/Machine/Operands.lean ====
section
/-! DEFINITION. Operand forms: the fields of a control word (Table 4.1), the slot blocks (Tables 4.5 to 4.7, 7.3, 7.7),
stream descriptors (Table 11.1), and where the bytes of every operand lie. The Loom's checks, the scoreboard regions
and the engines all use these decoders. -/

namespace Sys2Proof.Machine

open Numbers

/-- Bits [hi:lo] of a control word. -/
def cwField (w : BitVec 256) (hi lo : Nat) : Nat := bitsOf w.toNat hi lo
/-- Bits [hi:lo] of a 64-bit word. -/
def wField (w : Word) (hi lo : Nat) : Nat := bitsOf w.toNat hi lo
/-- Latched slot `i`, the index taken modulo 64 (R103). -/
def slotAt (t : Tab Word) (i : Nat) : Word := t.get 0 (i % 64)
/-- Bits [hi:lo] of slot `i`. -/
def slotF (t : Tab Word) (i hi lo : Nat) : Nat := wField (slotAt t i) hi lo
/-- Bits [hi:lo] of slot `i`, two's complement. -/
def slotS (t : Tab Word) (i hi lo : Nat) : Int := signedOf (hi + 1 - lo) (slotF t i hi lo)

/-- A number rounded up to a multiple of `k`. -/
def roundUp (n k : Nat) : Nat := (n + k - 1) / k * k

/-! ## Tiles (R78) -/

/-- Is the tile configured? -/
def tileValid (d : Word32) : Bool := d.getLsbD 31
/-- First byte of the tile in the TRF. -/
def tileBase (d : Word32) : Nat := 16 * bitsOf d.toNat 27 15
/-- Rows of the tile. -/
def tileRows (d : Word32) : Nat := bitsOf d.toNat 14 7 + 1
/-- Bytes of each tile row. -/
def tilePitch (d : Word32) : Nat := 16 * (bitsOf d.toNat 5 0 + 1)
/-- Last byte of the tile's extent. -/
def tileLast (d : Word32) : Nat := tileBase d + tileRows d * tilePitch d - 1
/-- Descriptor of tile `t`; unlisted tiles hold 0 (Table 3.3). -/
def tileOf (tiles : Tab Word32) (t : Nat) : Word32 := tiles.get 0 t
/-- A descriptor as TILECFG stores it: bits [30:28] and [6] are 0 (R82). -/
def tileStored (v : Nat) : Word32 := BitVec.ofNat 32 v &&& 0x8FFFFFBF#32

/-! ## TRF operands (Table 3.4) -/

/-- A TRF operand with its per-instance step applied: `row0` may lie below 0 (R81). -/
structure TrfOp where
  tile : Nat
  row0 : Int
  rows : Nat
  byte0 : Nat
  bytes : Nat
  fmt : Nat
  scaleTile : Nat
  deriving DecidableEq, Repr

/-- A TRF operand word (Table 7.3) in instance `i`. -/
def trfWord (w : Word) (i : Nat) : TrfOp :=
  { tile := wField w 4 0, row0 := (wField w 12 5 : Int) + i * signedOf 8 (wField w 55 48), rows := wField w 20 13 + 1,
    byte0 := 16 * wField w 26 21, bytes := 16 * (wField w 32 27 + 1), fmt := wField w 36 33,
    scaleTile := wField w 41 37 }

/-- Bits of an element of a format code; 0 for a reserved code, which misfits as such and has no extent (R118). -/
def codeBits (c : Nat) : Nat := match Fmt.ofCode c with | some f => f.bits | none => 0
/-- Is the code that of an MX format? -/
def codeMx (c : Nat) : Bool := match Fmt.ofCode c with | some f => f.isMx | none => false
/-- Elements in `bytes` bytes of a format. -/
def elemsIn (bytes c : Nat) : Nat := bytes * 8 / codeBits c
/-- Bytes of `n` elements of a format. -/
def bytesFor (n c : Nat) : Nat := (n * codeBits c + 7) / 8
/-- A source operand whose rows and elements the destination fixes (R189). -/
def TrfOp.asSource (o : TrfOp) (rows e : Nat) : TrfOp := { o with rows := rows, bytes := bytesFor e o.fmt }

/-- A misfit: its cause (Table 3.10) and the tile involved (0 when none). -/
abbrev Misfit := Nat × Nat

/-- The cases of R81 for a TRF operand. `okFmt` is the operation's accepted formats. -/
def checkTrf (tiles : Tab Word32) (o : TrfOp) (okFmt : Fmt → Bool) : List Misfit :=
  let d := tileOf tiles o.tile
  let fmtBad : List Misfit := match Fmt.ofCode o.fmt with
    | none => [(0x09, o.tile)]
    | some f => if okFmt f then [] else [(0x09, o.tile)]
  let place : List Misfit :=
    if !tileValid d then [(0x01, o.tile)]
    else (if o.row0 < 0 ∨ o.row0 + o.rows > tileRows d then [(0x02, o.tile)] else []) ++
      (if o.byte0 + o.bytes > tilePitch d then [(0x03, o.tile)] else [])
  let mx : List Misfit := match Fmt.ofCode o.fmt with
    | some f =>
      if f.isMx then
        let unit := if f.bits = 8 then 32 else if f.bits = 4 then 16 else 48
        let sd := tileOf tiles o.scaleTile
        let blocks := elemsIn o.bytes o.fmt / 32
        (if o.byte0 % unit ≠ 0 ∨ o.bytes % unit ≠ 0 then [(0x04, o.tile)] else []) ++
        (if !tileValid sd ∨ (tileRows sd : Int) < o.row0 + o.rows ∨ tilePitch sd < roundUp blocks 16
          then [(0x05, o.scaleTile)] else [])
      else []
    | none => []
  place ++ mx ++ fmtBad

/-- The scoreboard region of a tile: its whole configured extent (R83). -/
def tileRegion (tiles : Tab Word32) (t : Nat) : List Region :=
  let d := tileOf tiles t
  if tileValid d then [.trf (tileBase d) (tileLast d)] else []
/-- The regions of a TRF operand, its scale tile included for MX formats. -/
def trfRegions (tiles : Tab Word32) (o : TrfOp) : List Region :=
  tileRegion tiles o.tile ++ (if codeMx o.fmt then tileRegion tiles o.scaleTile else [])

/-! ## Local-store operands -/

/-- Rows of bytes in the local store: `rows` rows of `len` bytes from `base`, `stride` apart. -/
structure LsRows where
  base : Int
  stride : Nat
  rows : Nat
  len : Nat
  deriving DecidableEq, Repr

/-- Does the operand hold any byte? -/
def LsRows.isEmpty (o : LsRows) : Bool := o.rows = 0 || o.len = 0
/-- The lowest offset. -/
def LsRows.lo (o : LsRows) : Int := o.base
/-- The highest offset. -/
def LsRows.hi (o : LsRows) : Int := o.base + (o.rows - 1 : Nat) * o.stride + o.len - 1
/-- SKEW_LO (R287). -/
def skewLo (x : Nat) : Nat := (x / 2048) * 4096 + x % 2048
/-- SKEW_HI (R287). -/
def skewHi (x : Nat) : Nat := skewLo x + 0x800
/-- A placement map by its descriptor code. -/
def skewMap (c x : Nat) : Nat := if c = 1 then skewLo x else if c = 2 then skewHi x else x
/-- The largest offset before the map. -/
def skewMax (c : Nat) : Int := if c = 0 then 0x7FFFF else 0x3FFFF

/-- LS_EXTENT (R81) for rows read through placement map `skew`. -/
def checkLs (o : LsRows) (skew : Nat) : List Misfit :=
  if o.isEmpty then [] else if o.lo < 0 ∨ o.hi > skewMax skew then [(0x07, 0)] else []
/-- LS_ALIGN (R81): an element of 16 or 32 bits that starts off its size. -/
def checkAlign (o : LsRows) (bits : Nat) : List Misfit :=
  if bits < 16 ∨ o.isEmpty then []
  else if o.base % (bits / 8 : Nat) ≠ 0 ∨ (o.rows > 1 ∧ o.stride % (bits / 8) ≠ 0) then [(0x08, 0)] else []
/-- The hull of the rows as a region (R122). -/
def lsRegion (o : LsRows) (skew : Nat) : List Region :=
  if o.isEmpty then [] else [.ls (skewMap skew o.lo.toNat) (skewMap skew o.hi.toNat)]

/-! ## The array micro-op (Tables 2.3, 4.5) -/

/-- A MATMUL with its slots and step applied. -/
structure ArrayOp where
  fa : Nat
  fb : Nat
  m : Nat
  n : Nat
  k : Nat
  aBase : Int
  aStride : Nat
  aScale : Int
  bBase : Int
  bStride : Nat
  bScale : Int
  column : Bool
  transposed : Bool
  tile : Nat
  acc : Bool
  skewed : Bool
  deriving DecidableEq, Repr

/-- The array fields of word `w` in instance `i` (R108, R114). -/
def arrayOp (w : BitVec 256) (t : Tab Word) (i : Nat) : ArrayOp :=
  let s := cwField w 110 105
  let led := cwField w 127 127
  { fa := cwField w 137 134, fb := cwField w 133 130, m := cwField w 123 117, n := cwField w 116 111,
    k := slotF t (s + 2) 15 0,
    aBase := slotF t s 18 0 + i * slotS t (s + 2) 35 16, aStride := slotF t s 37 19,
    aScale := slotF t s 56 38 + i * slotS t (s + 3) 19 0,
    bBase := slotF t (s + 1) 18 0 + i * slotS t (s + 2) 55 36, bStride := slotF t (s + 1) 37 19,
    bScale := slotF t (s + 1) 56 38 + i * slotS t (s + 3) 39 20,
    column := cwField w 129 129 = 1, transposed := cwField w 128 128 = 1,
    tile := if cwField w 126 126 = 1 then (led + i) % 2 else led,
    acc := cwField w 125 125 = 1, skewed := cwField w 124 124 = 1 }

/-- Rate class of a format (Table 2.1): 0 is 32-bit, 1 16-bit, 2 8-bit, 3 6/4-bit. -/
def rateClass (f : Fmt) : Nat :=
  match f with
  | .fp32 => 0 | .bf16 | .fp16 => 1 | .e4m3 | .e5m2 | .mx8e4m3 | .mx8e5m2 => 2 | _ => 3
/-- Accepted pairs (R42): FP32 goes only with FP32, BF16 and FP16; every other pair is accepted. -/
def pairOk (a b : Fmt) : Bool :=
  let lo := min (rateClass a) (rateClass b)
  let hi := max (rateClass a) (rateClass b)
  !(lo = 0 && decide (hi ≥ 2))
/-- K_set of a rate class (Table 2.1). -/
def kSet (a b : Fmt) : Nat :=
  match min (rateClass a) (rateClass b) with | 0 => 16 | 1 => 32 | 2 => 64 | _ => 128

/-- Does the micro-op read operands at all (R46)? -/
def ArrayOp.works (o : ArrayOp) : Bool := o.m != 0 && o.n != 0 && o.k != 0
/-- Stored rows of A. -/
def ArrayOp.aRows (o : ArrayOp) : LsRows :=
  if o.column then ⟨o.aBase, o.aStride, o.k, bytesFor o.m o.fa⟩ else ⟨o.aBase, o.aStride, o.m, bytesFor o.k o.fa⟩
/-- Stored rows of B. -/
def ArrayOp.bRows (o : ArrayOp) : LsRows :=
  if o.transposed then ⟨o.bBase, o.bStride, o.n, bytesFor o.k o.fb⟩ else ⟨o.bBase, o.bStride, o.k, bytesFor o.n o.fb⟩
/-- A block scales (R509): packed, k/32 to a row. -/
def ArrayOp.aScales (o : ArrayOp) : LsRows := ⟨o.aScale, o.k / 32, o.m, o.k / 32⟩
/-- B block scales (R509): one 32-byte row for each K-block. -/
def ArrayOp.bScales (o : ArrayOp) : LsRows := ⟨o.bScale, 32, o.k / 32, o.n⟩
/-- Placement map of the A side (R286). -/
def ArrayOp.skewA (o : ArrayOp) : Nat := if o.skewed then 1 else 0
/-- Placement map of the B side (R286). -/
def ArrayOp.skewB (o : ArrayOp) : Nat := if o.skewed then 2 else 0

/-- Misfits of a MATMUL (R44, R81). -/
def checkArray (o : ArrayOp) : List Misfit :=
  let f : List Misfit := match Fmt.ofCode o.fa, Fmt.ofCode o.fb with
    | some a, some b => if pairOk a b then [] else [(0x09, 0)]
    | _, _ => [(0x09, 0)]
  let mxA := codeMx o.fa
  let mxB := codeMx o.fb
  f ++ (if (mxA || mxB) && o.k % 32 ≠ 0 then [(0x0A, 0)] else []) ++
    (if (mxA && o.column) || (mxB && o.transposed) then [(0x0B, 0)] else []) ++
    (if o.m > 64 then [(0x0C, 0)] else []) ++ (if o.n > 32 then [(0x0D, 0)] else []) ++
    (if o.works then
      checkLs o.aRows o.skewA ++ checkAlign o.aRows (codeBits o.fa) ++ checkLs o.bRows o.skewB ++
      checkAlign o.bRows (codeBits o.fb) ++ (if mxA then checkLs o.aScales o.skewA else []) ++
      (if mxB then checkLs o.bScales o.skewB else [])
     else [])

/-! ## The drain micro-op (Table 4.6) -/

/-- A ROUND, EXPORT or MERGE with its slots and step applied. -/
structure DrainOp where
  op : Nat
  tile : Nat
  m : Nat
  n : Nat
  fmt : Nat
  sr : Bool
  acc : Bool
  fuse : Nat
  stats : Bool
  toLs : Bool
  lsBase : Int
  lsStride : Nat
  lsScale : Int
  trf : TrfOp
  a : Nat
  auxFmt : Nat
  auxByte0 : Nat
  auxRow0 : Nat
  auxTile : Nat
  inst : Nat
  deriving DecidableEq, Repr

/-- The drain fields of word `w` in instance `i` (R108, R115, R116, R195). -/
def drainOp (w : BitVec 256) (t : Tab Word) (i : Nat) : DrainOp :=
  let s := cwField w 76 71
  let led := cwField w 102 102
  let m := cwField w 87 82 + 1
  let n := cwField w 81 77 + 1
  let fmt := cwField w 100 97
  let step := slotS t (s + 1) 19 0
  { op := cwField w 104 103, tile := if cwField w 101 101 = 1 then (led + i) % 2 else led, m := m, n := n,
    fmt := fmt, sr := cwField w 96 96 = 1, acc := cwField w 95 95 = 1, fuse := cwField w 94 90,
    stats := cwField w 89 89 = 1, toLs := cwField w 88 88 = 1,
    lsBase := slotF t s 18 0 + i * step, lsStride := slotF t s 37 19,
    lsScale := slotF t s 56 38 + i * slotS t (s + 1) 39 20,
    trf := { tile := slotF t s 4 0, row0 := slotF t s 12 5 + i * step, rows := m, byte0 := 16 * slotF t s 18 13,
             bytes := roundUp (bytesFor n fmt) 16, fmt := fmt, scaleTile := slotF t s 23 19 },
    a := slotF t (s + 2) 63 32, auxFmt := slotF t (s + 2) 22 19, auxByte0 := 16 * slotF t (s + 2) 18 13,
    auxRow0 := slotF t (s + 2) 12 5, auxTile := slotF t (s + 2) 4 0, inst := i }

/-- Does the fused operation read an aux element (R195)? -/
def fuseAux (f : Nat) : Bool := decide (2 ≤ f) && decide (f ≤ 10)
/-- The aux operand of a fused operation: one row of n elements (BIAS), m rows of n (RESIDUAL, gradients), or one row
of m elements (ROW_SCALE) (Table 7.6). -/
def DrainOp.aux (o : DrainOp) : TrfOp :=
  let rows := if o.fuse ≥ 6 ∧ o.fuse ≠ 7 then o.m else 1
  let row0 : Nat := if o.fuse = 7 then o.auxRow0 + o.inst else if o.fuse ≥ 6 then o.auxRow0 + o.inst * o.m else o.auxRow0
  let e := if o.fuse = 7 then o.m else o.n
  { tile := o.auxTile, row0 := row0, rows := rows, byte0 := o.auxByte0, bytes := bytesFor e o.auxFmt, fmt := o.auxFmt,
    scaleTile := 0 }
/-- The output rows of a ROUND to the local store (R192). -/
def DrainOp.outRows (o : DrainOp) : LsRows := ⟨o.lsBase, o.lsStride, o.m, bytesFor o.n o.fmt⟩
/-- The scale bytes of a ROUND to the local store. -/
def DrainOp.outScales (o : DrainOp) : LsRows := ⟨o.lsScale, 1, o.m, 1⟩
/-- The image rows of EXPORT and MERGE: whole rows of Table 3.11 (R88, R92). -/
def DrainOp.image (o : DrainOp) : LsRows := ⟨o.lsBase, o.lsStride, o.m, 2624⟩
/-- Scalar formats that vector arithmetic and fused operations accept. -/
def fmtScalar (f : Fmt) : Bool := !f.isMx
/-- FP32, BF16 or FP16. -/
def fmtAux (f : Fmt) : Bool := f = .fp32 || f = .bf16 || f = .fp16

/-- Misfits of a drain micro-op (R81, R116, R118, R194, R195). -/
def checkDrain (tiles : Tab Word32) (o : DrainOp) : List Misfit :=
  if o.op = 1 then
    (match Fmt.ofCode o.fmt with | none => [(0x09, 0)] | some _ => []) ++
    (if codeMx o.fmt ∧ o.n ≠ 32 then [(0x04, if o.toLs then 0 else o.trf.tile)] else []) ++
    (if o.fuse > 10 then [(0x09, 0)] else []) ++
    (if o.toLs then
      checkLs o.outRows 0 ++ checkAlign o.outRows (codeBits o.fmt) ++
      (if codeMx o.fmt then checkLs o.outScales 0 else [])
     else checkTrf tiles o.trf (fun _ => true)) ++
    (if fuseAux o.fuse then checkTrf tiles o.aux fmtAux else [])
  else if o.op = 2 ∨ o.op = 3 then
    (if o.lsBase % 64 ≠ 0 ∨ o.lsStride < 2624 ∨ o.lsStride % 64 ≠ 0 then [(0x0E, 0)] else []) ++ checkLs o.image 0
  else []

/-! ## Vector micro-ops (Tables 7.4, 8.4, 9.3) -/

/-- A local-store operand word (R188). -/
def lsWordBase (w : Word) : Nat := wField w 18 0
/-- Its row stride. -/
def lsWordStride (w : Word) : Nat := wField w 37 19
/-- Its scale base. -/
def lsWordScale (w : Word) : Nat := wField w 56 38

/-- The vector fields of a word (Table 4.1). -/
structure VecOp where
  op : Nat
  sr : Bool
  s0 : Word
  s1 : Word
  s2 : Word
  s3 : Word
  aux : Nat
  inst : Nat
  deriving DecidableEq, Repr

/-- The vector fields of word `w` in instance `i`. -/
def vecOp (w : BitVec 256) (t : Tab Word) (i : Nat) : VecOp :=
  let s := cwField w 60 55
  { op := cwField w 68 62, sr := cwField w 61 61 = 1, s0 := slotAt t s, s1 := slotAt t (s + 1), s2 := slotAt t (s + 2),
    s3 := slotAt t (s + 3), aux := cwField w 54 48, inst := i }

/-- Bits [hi:lo] of v_aux, numbered as in the control word ([54:48]). -/
def VecOp.auxF (o : VecOp) (hi lo : Nat) : Nat := bitsOf o.aux (hi - 48) (lo - 48)
/-- e0 of a reducer operation. -/
def VecOp.e0 (o : VecOp) : Nat := o.auxF 53 48
/-- The flag of a reducer operation. -/
def VecOp.flag (o : VecOp) : Bool := o.auxF 54 54 = 1
/-- The operand word of slot s. -/
def VecOp.dst (o : VecOp) : TrfOp := trfWord o.s0 o.inst
/-- Elements per row of the destination (or of the operand that fixes them). -/
def VecOp.e (o : VecOp) : Nat := elemsIn o.dst.bytes o.dst.fmt
/-- A source operand word under the destination's shape. -/
def VecOp.src (o : VecOp) (w : Word) : TrfOp := (trfWord w o.inst).asSource o.dst.rows o.e

/-- A source in mode `md` (R189): 0 tile, 1 row-broadcast, 2 column-broadcast. -/
def VecOp.modeSrc (o : VecOp) (w : Word) (md : Nat) : TrfOp :=
  let b := trfWord w o.inst
  if md = 0 then b.asSource o.dst.rows o.e else if md = 1 then b.asSource 1 o.e else b.asSource 1 o.dst.rows

/-- Does operation `op` of ADD to COS read s1? -/
def readsS1 (op : Nat) : Bool := decide (0x08 ≤ op) && decide (op ≤ 0x0D)
/-- Does it read s2? -/
def readsS2 (op : Nat) : Bool := op = 0x0B

/-- Element-wise arithmetic and transcendental codes. -/
def isArith (op : Nat) : Bool := decide (0x08 ≤ op) && decide (op ≤ 0x18)

/-- A TRF reference of Table 9.3: tile, row0, byte0, under the destination's shape and step (R235). -/
def VecOp.ref (o : VecOp) (w : Word) (lo fmt : Nat) : TrfOp :=
  let v := wField w (lo + 18) lo
  { tile := bitsOf v 4 0, row0 := (bitsOf v 12 5 : Int) + o.inst * signedOf 8 (wField o.s0 55 48), rows := o.dst.rows,
    byte0 := 16 * bitsOf v 18 13, bytes := bytesFor o.e fmt, fmt := fmt, scaleTile := 0 }
/-- The hyper-parameter row (R236): 12 FP32 elements, no step. -/
def VecOp.hyper (o : VecOp) : TrfOp :=
  let v := wField o.s3 18 0
  { tile := bitsOf v 4 0, row0 := (bitsOf v 12 5 : Int), rows := 1, byte0 := 16 * bitsOf v 18 13, bytes := 48, fmt := 0,
    scaleTile := 0 }
/-- m_fmt of Table 9.3 as a format code. -/
def VecOp.mFmt (o : VecOp) : Nat := if wField o.s2 57 57 = 1 then 2 else 1
/-- v_fmt as a format code. -/
def VecOp.vFmt (o : VecOp) : Nat := if wField o.s2 58 58 = 1 then 2 else 1
/-- g_fmt as a format code. -/
def VecOp.gFmt (o : VecOp) : Nat := if wField o.s2 59 59 = 1 then 1 else 0
/-- The sources of an update: W, g, the hyper-parameter row, then m and v where used. -/
def VecOp.updSources (o : VecOp) : List TrfOp :=
  [o.ref o.s2 0 o.dst.fmt, o.ref o.s1 38 o.gFmt, o.hyper] ++
  (if o.op ≥ 0x41 then [o.ref o.s2 19 o.mFmt] else []) ++ (if o.op = 0x42 then [o.ref o.s2 38 o.vFmt] else [])
/-- The destinations of an update: W', then m' and v' where used. -/
def VecOp.updDests (o : VecOp) : List TrfOp :=
  [o.dst] ++ (if o.op ≥ 0x41 then [o.ref o.s1 0 o.mFmt] else []) ++
  (if o.op = 0x42 then [o.ref o.s1 19 o.vFmt] else [])

/-- The one-row operand of ROUT and RSETREF (R198). -/
def VecOp.entryRow (o : VecOp) : TrfOp :=
  let d := o.dst
  { d with rows := 1, bytes := roundUp (4 * d.rows) 16 }
/-- The row-statistics operand of SMX_GRAD (2 rows) and NORM_GRAD (3 rows) (R214). -/
def VecOp.rowStats (o : VecOp) : TrfOp :=
  let b := trfWord o.s3 o.inst
  { b with rows := if o.op = 0x51 then 2 else 3, bytes := roundUp (4 * o.dst.rows) 16 }
/-- Reducer images of RSAVE, RLOAD, RMERGE (R204). -/
def VecOp.images (o : VecOp) : LsRows :=
  ⟨lsWordBase o.s0, lsWordStride o.s0, wField o.s1 5 0 + 1, 128⟩
/-- The local-store side of MOVE_IN and MOVE_OUT. -/
def VecOp.moveLs (o : VecOp) : LsRows :=
  ⟨lsWordBase o.s1 + o.inst * signedOf 20 (wField o.s2 19 0), lsWordStride o.s1, o.dst.rows, o.dst.bytes⟩
/-- Its scales (R509). -/
def VecOp.moveScales (o : VecOp) : LsRows :=
  ⟨lsWordScale o.s1 + o.inst * signedOf 20 (wField o.s2 39 20), o.e / 32, o.dst.rows, o.e / 32⟩
/-- Generator images (R231). -/
def VecOp.rngImage (o : VecOp) : LsRows := ⟨lsWordBase o.s0, 0, 1, 1024⟩
/-- The statistics record (R206). -/
def VecOp.statsRecord (o : VecOp) : LsRows := ⟨lsWordBase o.s0, 0, 1, 320⟩
/-- The records ASSAY reads (R220). -/
def VecOp.assayRecords (o : VecOp) : LsRows := ⟨lsWordBase o.s0, lsWordStride o.s0, wField o.s1 5 0 + 1, 320⟩
/-- The entry copy ASSAY writes. -/
def VecOp.assayCopy (o : VecOp) : LsRows := ⟨wField o.s2 18 0, 0, 1, 8⟩
/-- The TRANSPOSE source: rows and columns exchanged. -/
def VecOp.transposeSrc (o : VecOp) : TrfOp := (trfWord o.s1 o.inst).asSource o.e o.dst.rows

/-- The vector operation codes that are not reserved (Tables 7.2, 8.3, 9.2). -/
def vecKnown (op : Nat) : Bool :=
  decide (op ≤ 0x05) || (decide (0x08 ≤ op) && decide (op ≤ 0x18)) || (decide (0x20 ≤ op) && decide (op ≤ 0x29)) ||
  op = 0x30 || (decide (0x40 ≤ op) && decide (op ≤ 0x42)) || (decide (0x44 ≤ op) && decide (op ≤ 0x47)) ||
  (decide (0x50 ≤ op) && decide (op ≤ 0x54))

/-- The bits of v_aux that the operation reserves must be 0 (R187). -/
def vecAuxOk (o : VecOp) : Bool :=
  if o.op = 0x01 then o.auxF 54 53 = 0
  else if isArith o.op then
    o.auxF 54 52 = 0
  else if o.op = 0x22 ∨ o.op = 0x26 then true
  else if (0x20 ≤ o.op ∧ o.op ≤ 0x29) ∨ o.op = 0x50 then o.auxF 54 54 = 0
  else if o.op = 0x47 then o.auxF 54 49 = 0
  else if o.op = 0x52 then o.auxF 53 48 = 0
  else if o.op = 0x53 ∨ o.op = 0x54 then true
  else o.aux = 0

/-- Entries used beyond 63 (R198): cause 0x02 with the source tile. -/
def checkEntries (o : VecOp) (n tile : Nat) : List Misfit := if o.e0 + n > 64 then [(0x02, tile)] else []

/-- Misfits of a vector micro-op. -/
def checkVector (tiles : Tab Word32) (o : VecOp) : List Misfit :=
  (if !vecKnown o.op ∨ !vecAuxOk o then [(0x09, 0)] else []) ++
  (let d := o.dst
   match o.op with
   | 0x01 =>
     let nd := tileStored (wField o.s0 31 0)
     if tileValid nd ∧ tileLast nd > 0x1FFFF then [(0x06, o.auxF 52 48)] else []
   | 0x02 | 0x03 =>
     checkTrf tiles d (fun _ => true) ++ checkLs o.moveLs 0 ++ checkAlign o.moveLs (codeBits d.fmt) ++
     (if codeMx d.fmt then checkLs o.moveScales 0 else [])
   | 0x04 => checkTrf tiles d (fun _ => true) ++ checkTrf tiles (o.src o.s1) (fun _ => true)
   | 0x05 =>
     let ok := fun f : Fmt => !f.isMx && decide (f.bits ≥ 16)
     checkTrf tiles d ok ++ checkTrf tiles o.transposeSrc ok ++
     (if d.fmt ≠ (trfWord o.s1 o.inst).fmt then [(0x09, d.tile)] else [])
   | 0x20 => checkEntries o (wField o.s0 5 0 + 1) 0
   | 0x21 | 0x23 => checkTrf tiles d fmtScalar ++ checkEntries o d.rows d.tile
   | 0x22 => checkTrf tiles d fmtScalar ++ checkEntries o d.rows d.tile ++
     (if o.flag then checkTrf tiles ((trfWord o.s1 o.inst).asSource 1 d.rows) fmtScalar else [])
   | 0x24 => checkTrf tiles o.entryRow (fun f => f = .fp32) ++ checkEntries o d.rows d.tile ++
     (if wField o.s2 2 0 ≥ 6 then [(0x09, 0)] else [])
   | 0x25 => checkTrf tiles o.entryRow (fun f => f = .fp32) ++ checkEntries o d.rows d.tile
   | 0x26 =>
     let p := trfWord o.s1 o.inst
     let e := elemsIn p.bytes p.fmt
     checkTrf tiles (d.asSource p.rows e) fmtScalar ++ checkTrf tiles p fmtScalar ++ checkEntries o p.rows d.tile
   | 0x27 | 0x28 | 0x29 =>
     checkLs o.images 0 ++ checkEntries o o.images.rows 0 ++
     (if o.images.base % 64 ≠ 0 ∨ o.images.stride % 64 ≠ 0 ∨ o.images.stride < 128 then [(0x08, 0)] else [])
   | 0x30 => checkLs o.statsRecord 0 ++ (if o.statsRecord.base % 64 ≠ 0 then [(0x08, 0)] else [])
   | 0x40 | 0x41 | 0x42 =>
     let w16 := fun f : Fmt => f = .bf16 || f = .fp16
     checkTrf tiles d w16 ++ (o.updDests.drop 1).flatMap (fun r => checkTrf tiles r w16) ++
     o.updSources.flatMap (fun r => checkTrf tiles r fmtAux)
   | 0x45 | 0x46 => checkLs o.rngImage 0 ++ (if o.rngImage.base % 64 ≠ 0 then [(0x08, 0)] else [])
   | 0x47 => checkTrf tiles d (fun f => f = .fp32)
   | 0x50 => checkTrf tiles d fmtScalar ++ checkTrf tiles (o.src o.s1) fmtScalar ++ checkEntries o d.rows d.tile
   | 0x51 | 0x52 =>
     checkTrf tiles d fmtScalar ++ checkTrf tiles (o.src o.s1) fmtScalar ++ checkTrf tiles (o.src o.s2) fmtScalar ++
     checkTrf tiles o.rowStats (fun f => f = .fp32)
   | 0x53 =>
     checkLs o.assayRecords 0 ++ checkLs o.assayCopy 0 ++
     (if o.assayRecords.base % 64 ≠ 0 ∨ o.assayRecords.stride % 64 ≠ 0 ∨ o.assayRecords.stride < 320 ∨
        o.assayCopy.base % 8 ≠ 0 then [(0x08, 0)] else [])
   | 0x54 =>
     let f := wField o.s0 59 56
     if f < 1 ∨ f > 4 ∨ (f = 1 ∧ wField o.s0 55 48 ≠ 0) then [(0x09, 0)] else []
   | _ =>
     if isArith o.op then
       let m1 := o.auxF 49 48
       let m2 := o.auxF 51 50
       checkTrf tiles d fmtScalar ++ checkTrf tiles (o.src o.s1) fmtScalar ++
       (if readsS1 o.op ∧ m1 ≠ 3 then checkTrf tiles (o.modeSrc o.s2 m1) fmtScalar else []) ++
       (if readsS2 o.op ∧ m2 ≠ 3 then checkTrf tiles (o.modeSrc o.s3 m2) fmtScalar else [])
     else [])

/-! ## Stream descriptors (Table 11.1) and Carter blocks (Table 4.7) -/

/-- Bits [hi:lo] of word `w` of a descriptor. -/
def descF (d : BitVec 512) (w hi lo : Nat) : Nat := bitsOf d.toNat (64 * w + hi) (64 * w + lo)

/-- The remote side of a stream. -/
inductive Remote where
  | dva (a : Int)
  | core (c : Nat) (o : Int)
  | mcast (set : Nat) (o : Int)
  deriving DecidableEq, Repr

/-- A descriptor with the offsets of one instance (R273). -/
structure Stream where
  rkind : Nat
  lkind : Nat
  skew : Nat
  image : Bool
  reduce : Bool
  source : Bool
  tclass : Nat
  expectSrc : Bool
  psrc : Bool
  n : Nat
  count0 : Nat
  counts : List Nat
  lstr : List Int
  rstr : List Int
  l0 : Int
  rUnit : Nat
  badRemote : Bool
  r0 : Int
  expect : Nat
  tokEn : Bool
  tokLine : Nat
  pfKind : Nat
  pfDst : Nat
  badDst : Bool
  deriving DecidableEq, Repr

/-- Descriptor `d` under the Carter block at slot `s` in instance `i`. -/
def streamOf (d : BitVec 512) (t : Tab Word) (s i : Nat) : Stream :=
  let loff := slotS t s 59 41 + i * slotS t (s + 1) 59 41
  let roff := slotS t s 40 0 + i * slotS t (s + 1) 40 0
  let rk := descF d 0 63 61
  let rb := descF d 1 47 0
  let s20 := fun (w hi lo : Nat) => signedOf 20 (descF d w hi lo)
  let s32 := fun (w hi lo : Nat) => signedOf 32 (descF d w hi lo)
  { rkind := rk, lkind := descF d 0 60 59, skew := descF d 0 58 57, image := descF d 0 56 56 = 1,
    reduce := descF d 0 55 55 = 1, source := descF d 0 54 54 = 1, tclass := descF d 0 53 52,
    expectSrc := descF d 0 51 51 = 1, psrc := descF d 0 50 50 = 1, n := descF d 0 49 45 + 1,
    count0 := descF d 0 44 29,
    counts := [descF d 2 63 48, descF d 2 47 32, descF d 2 31 16, descF d 2 15 0],
    lstr := [s20 3 59 40, s20 3 39 20, s20 3 19 0, s20 4 59 40],
    rstr := [s32 5 63 32, s32 5 31 0, s32 6 63 32, s32 6 31 0],
    l0 := descF d 0 18 0 + loff,
    rUnit := if rk = 1 then bitsOf rb 28 19 else bitsOf rb 36 29,
    badRemote := rk = 1 ∧ bitsOf rb 47 29 ≠ 0 ∨ rk = 2 ∧ (bitsOf rb 47 37 ≠ 0 ∨ bitsOf rb 28 19 ≠ 0),
    r0 := (if rk = 0 then (bitsOf rb 40 0 : Nat) else (bitsOf rb 18 0 : Nat)) + roff,
    expect := descF d 4 31 0, tokEn := descF d 7 58 58 = 1, tokLine := descF d 7 57 45,
    pfKind := descF d 7 44 43, pfDst := descF d 7 42 0,
    badDst := descF d 7 44 43 = 1 ∧ descF d 7 42 29 ≠ 0 ∨ descF d 7 44 43 = 2 ∧ (descF d 7 42 37 ≠ 0 ∨ descF d 7 28 19 ≠ 0) }

/-- The bytes of the walk (R274). -/
def Stream.total (d : Stream) : Nat := d.count0 * d.counts.foldl (· * ·) 1

/-- The row starts of a walk (R273): local and remote offsets of b = 0, dimension 1 fastest. -/
def walkFrom : List (Nat × Int × Int) → Int → Int → List (Int × Int)
  | [], l, r => [(l, r)]
  | (n, ls, rs) :: ds, l, r => (List.range n).flatMap (fun i : Nat => walkFrom ds (l + (i : Int) * ls) (r + (i : Int) * rs))
/-- The rows of a stream in walk order. -/
def Stream.rows (d : Stream) : List (Int × Int) :=
  walkFrom ((d.counts.zip (d.lstr.zip d.rstr)).reverse) d.l0 d.r0

/-- The span of one side over all indices: the lowest and highest row start. -/
def spanDims : List (Nat × Int) → Int → Int × Int
  | [], a => (a, a)
  | (n, s) :: ds, a =>
    let (lo, hi) := spanDims ds a
    let e := (n - 1 : Nat) * s
    (if e < 0 then (lo + e, hi) else (lo, hi + e))
/-- The lowest and highest local byte, before the placement map. -/
def Stream.localSpan (d : Stream) : Int × Int :=
  let (lo, hi) := spanDims (d.counts.zip d.lstr) d.l0
  (lo, hi + d.count0 - 1)
/-- The lowest and highest remote byte. -/
def Stream.remoteSpan (d : Stream) : Int × Int :=
  let (lo, hi) := spanDims (d.counts.zip d.rstr) d.r0
  (lo, hi + d.count0 - 1)
/-- The local hull as a region (R274). -/
def Stream.hull (d : Stream) : List Region :=
  if d.total = 0 then [] else
    let (lo, hi) := d.localSpan
    [.ls (skewMap d.skew lo.toNat) (skewMap d.skew hi.toNat)]
/-- Image rows of the descriptor. -/
def Stream.imageRows (d : Stream) : Nat := d.counts.foldl (· * ·) 1
/-- T of R274 as R284 counts it: an image row counts 64 + 80 n bytes. -/
def Stream.counted (d : Stream) : Nat :=
  if d.image then (if d.total = 0 then 0 else d.imageRows * (64 + 80 * d.n)) else d.total
/-- E of a POST_WINDOW (R278, R284). -/
def Stream.windowBytes (d : Stream) : Nat := if d.expectSrc then d.expect else d.counted

/-- The Carter operations. -/
inductive CarterOp where
  | streamIn | postWindow | fence | streamOut | prefetch
  deriving DecidableEq, Repr

/-- Is the operation a copy by the Drayman with a dense destination (PREFETCH with psrc = 0, FENCE)? -/
def Stream.dense (d : Stream) (op : CarterOp) : Bool := op = .fence || (op = .prefetch && !d.psrc)

/-- Misfits of a Carter micro-op (R275, R284, R314). -/
def checkStream (op : CarterOp) (d : Stream) : List Misfit :=
  let t0 := d.total = 0
  let rkOk : Bool := match op with
    | .streamIn => d.rkind = 0
    | .postWindow => decide (d.rkind ≤ 2)
    | .fence | .streamOut | .prefetch => decide (d.rkind ≤ 2)
  let code : List Misfit :=
    if d.rkind > 2 ∨ d.lkind > 1 ∨ d.skew = 3 ∨ d.tclass = 1 ∨ !rkOk ∨ (d.lkind = 1 ∧ op ≠ .streamIn) ∨
      (d.lkind = 1 ∧ d.skew ≠ 0) ∨ (d.dense op ∧ d.pfKind = 3) then [(0x09, 0)] else []
  let usesLocal := op = .streamIn ∨ op = .postWindow ∨ op = .streamOut ∨ (op = .prefetch ∧ d.psrc)
  let usesRemote := op ≠ .postWindow
  let (llo, lhi) := d.localSpan
  let (rlo, rhi) := d.remoteSpan
  let lmax := if d.lkind = 1 then 0x1FFFF else skewMax d.skew
  let rmax : Int := if d.rkind = 0 then 2 ^ 41 - 1 else 0x7FFFF
  let dmax : Int := if d.pfKind = 0 then 2 ^ 41 - 1 else 0x7FFFF
  let dlo : Int := if d.pfKind = 0 then bitsOf d.pfDst 40 0 else bitsOf d.pfDst 18 0
  let extent : List Misfit :=
    if (!t0 ∧ usesLocal ∧ (llo < 0 ∨ lhi > lmax)) ∨ (!t0 ∧ usesRemote ∧ (rlo < 0 ∨ rhi > rmax)) ∨
      (!t0 ∧ d.dense op ∧ dlo + d.total - 1 > dmax) ∨
      (op = .postWindow ∧ !d.expectSrc ∧ d.counted ≥ 2 ^ 32) then [(0x07, 0)] else []
  let align : List Misfit :=
    if d.lkind = 1 ∧ (d.count0 % 32 ≠ 0 ∨ d.l0 % 32 ≠ 0 ∨ d.lstr.any (fun x => x % 32 ≠ 0)) then [(0x08, 0)] else []
  let used := (d.counts.zip (d.lstr.zip d.rstr)).filter (fun x => x.1 ≠ 1)
  let image : List Misfit :=
    if (d.image ∧ (d.count0 ≠ 2624 ∨ d.l0 % 64 ≠ 0 ∨ used.any (fun x => x.2.1 % 64 ≠ 0) ∨ d.skew ≠ 0 ∨ d.lkind ≠ 0 ∨
        (op = .streamOut ∧ (d.rkind = 0 ∨ d.r0 % 64 ≠ 0 ∨ used.any (fun x => x.2.2 % 64 ≠ 0))) ∨
        (op = .streamIn ∧ d.rkind ≠ 0))) ∨
      (d.reduce ∧ (!d.image ∨ d.rkind ≠ 2 ∨ d.tclass ≠ 2)) then [(0x0E, 0)] else []
  code ++ extent ++ align ++ image

/-- The inbound Carter operation of a word. -/
def ciOp (w : BitVec 256) : Option CarterOp :=
  match cwField w 47 45 with | 1 => some .streamIn | 2 => some .postWindow | 3 => some .fence | _ => none
/-- The outbound Carter operation of a word. -/
def coOp (w : BitVec 256) : Option CarterOp :=
  match cwField w 23 21 with | 1 => some .streamOut | 2 => some .prefetch | _ => none

/-! ## Engines of a word -/

/-- Engine codes of Table 3.9. -/
def Engine.code : Engine → Nat
  | .array => 0 | .vector => 1 | .drain => 2 | .inbound => 3 | .outbound => 4
/-- The engines in the order of R112. -/
def Engine.all : List Engine := [.array, .vector, .drain, .inbound, .outbound]

/-- The operation field of an engine in a word; 0 is NOP (R106). -/
def opField (w : BitVec 256) : Engine → Nat
  | .array => cwField w 139 138
  | .vector => cwField w 68 62
  | .drain => cwField w 104 103
  | .inbound => cwField w 47 45
  | .outbound => cwField w 23 21

/-- The waits of a word that name an engine, as (notch, expected value) in instance `i` (R109). -/
def waitsOf (w : BitVec 256) (t : Tab Word) (e : Engine) (i : Nat) : List (Nat × Nat) :=
  let x : Nat → Nat → Nat → Nat → Nat → List (Nat × Nat) := fun eng notch slot imm step =>
    if eng = e.code then [(notch, (slotF t slot 47 0 + imm + i * step) % 2 ^ 48)] else []
  x (cwField w 231 229) (cwField w 228 224) (cwField w 223 218) (cwField w 217 206) (cwField w 205 202) ++
  x (cwField w 201 199) (cwField w 198 194) (cwField w 193 188) (cwField w 187 176) (cwField w 175 172)

/-- The bumps of a word that name an engine (R110). -/
def bumpsOf (w : BitVec 256) (e : Engine) : List (Nat × Nat) :=
  (if cwField w 171 169 = e.code then [(cwField w 168 164, cwField w 163 156)] else []) ++
  (if cwField w 155 153 = e.code then [(cwField w 152 148, cwField w 147 140)] else [])

/-- Misfits of one engine's micro-op in instance `i`, under tile configuration `tiles` (R81, R118). -/
def checkEngine (tiles : Tab Word32) (w : BitVec 256) (t : Tab Word) (ci co : BitVec 512) (i : Nat) :
    Engine → List Misfit
  | .array => match cwField w 139 138 with
    | 0 => [] | 1 => checkArray (arrayOp w t i) | _ => [(0x09, 0)]
  | .vector => if cwField w 68 62 = 0 then [] else checkVector tiles (vecOp w t i)
  | .drain => if cwField w 104 103 = 0 then [] else checkDrain tiles (drainOp w t i)
  | .inbound => match cwField w 47 45 with
    | 0 => [] | 1 => checkStream .streamIn (streamOf ci t (cwField w 38 33) i)
    | 2 => checkStream .postWindow (streamOf ci t (cwField w 38 33) i)
    | 3 => checkStream .fence (streamOf ci t (cwField w 38 33) i) | _ => [(0x09, 0)]
  | .outbound => match cwField w 23 21 with
    | 0 => [] | 1 => checkStream .streamOut (streamOf co t (cwField w 14 9) i)
    | 2 => checkStream .prefetch (streamOf co t (cwField w 14 9) i) | _ => [(0x09, 0)]

/-- The tile table after the vector micro-op of an instance: TILECFG writes it (R80, R82). -/
def tilesAfter (tiles : Tab Word32) (w : BitVec 256) (t : Tab Word) (i : Nat) : Tab Word32 :=
  let o := vecOp w t i
  if o.op = 0x01 then tiles.set (o.auxF 52 48) (tileStored (wField o.s0 31 0)) else tiles

/-- All misfits of instance `i`, each with its engine; drain and Carters see the word's own TILECFG (R80). -/
def checkInstance (tiles : Tab Word32) (w : BitVec 256) (t : Tab Word) (ci co : BitVec 512) (i : Nat) :
    List (Engine × Misfit) :=
  let after := tilesAfter tiles w t i
  ([.array, .vector].flatMap fun e => (checkEngine tiles w t ci co i e).map (fun x => (e, x))) ++
  ([.drain, .inbound, .outbound].flatMap fun e => (checkEngine after w t ci co i e).map (fun x => (e, x)))

/-- A reserved code of a word with R = 0 (R118, R187): cause 0x09 with the lowest engine that holds one. -/
def codeMisfit (w : BitVec 256) : Option (Engine × Misfit) :=
  (Engine.all.find? (fun g => match g with
    | .array => decide (cwField w 139 138 > 1)
    | .vector => !vecKnown (cwField w 68 62)
    | .drain => cwField w 104 103 = 1 && (Fmt.ofCode (cwField w 100 97)).isNone
    | .inbound => decide (cwField w 47 45 > 3)
    | .outbound => decide (cwField w 23 21 > 2))).map (fun g => (g, (0x09, 0)))

/-- The fault of a word reported under R86 over instances `i` to `i + n - 1`: lowest engine, then lowest instance,
then lowest cause. Where two operands of that micro-op misfit with the same cause, the detail word names the tile of the
one that the check lists first, 0 for a reserved d_fmt (DESIGN CHOICE, log 31). -/
def wordMisfit (w : BitVec 256) (t : Tab Word) (ci co : BitVec 512) :
    Nat → Nat → Tab Word32 → Option (Engine × Misfit) → Option (Engine × Misfit)
  | 0, _, _, best => best
  | n + 1, i, tiles, best =>
    let better := fun (b : Option (Engine × Misfit)) (x : Engine × Misfit) => match b with
      | none => some x
      | some y => if x.1.code < y.1.code then some x else some y
    let here := (checkInstance tiles w t ci co i).foldl (fun b x => match b with
      | none => some x
      | some y => if x.1.code < y.1.code ∨ (x.1 = y.1 ∧ x.2.1 < y.2.1) then some x else some y) none
    wordMisfit w t ci co n (i + 1) (tilesAfter tiles w t i) (match here with | none => best | some x => better best x)

/-- Regions of an inbound or outbound Carter micro-op (Table 4.9). -/
def streamRegions (op : CarterOp) (d : Stream) : List Region × List Region :=
  match op with
  | .streamIn => ([], if d.lkind = 0 then d.hull else [])
  | .postWindow => ([], d.hull)
  | .fence => ([], [])
  | .streamOut => (d.hull, [])
  | .prefetch => (if d.psrc then d.hull else [], [])

/-- Read and write regions of a vector micro-op (Table 4.9, R83, R220). `tiles` is the configuration in force before
it. -/
def vectorRegions (tiles : Tab Word32) (o : VecOp) : List Region × List Region :=
  let d := o.dst
  let ls := fun (r : LsRows) => lsRegion r 0
  match o.op with
  | 0x01 =>
    let nd := tileStored (wField o.s0 31 0)
    ([], tileRegion tiles (o.auxF 52 48) ++ (if tileValid nd then [.trf (tileBase nd) (tileLast nd)] else []))
  | 0x02 => (ls o.moveLs ++ (if codeMx d.fmt then ls o.moveScales else []), trfRegions tiles d)
  | 0x03 => (trfRegions tiles d, ls o.moveLs ++ (if codeMx d.fmt then ls o.moveScales else []))
  | 0x04 => (trfRegions tiles (o.src o.s1), trfRegions tiles d)
  | 0x05 => (trfRegions tiles o.transposeSrc, trfRegions tiles d)
  | 0x21 | 0x23 | 0x25 | 0x47 => (trfRegions tiles d, [])
  | 0x22 => (trfRegions tiles d ++ (if o.flag then tileRegion tiles (trfWord o.s1 o.inst).tile else []), [])
  | 0x24 => ([], trfRegions tiles d)
  | 0x26 => (tileRegion tiles d.tile, tileRegion tiles (trfWord o.s1 o.inst).tile)
  | 0x27 => ([], ls o.images)
  | 0x28 | 0x29 => (ls o.images, [])
  | 0x30 => ([], ls o.statsRecord)
  | 0x40 | 0x41 | 0x42 =>
    (o.updSources.flatMap (fun r => tileRegion tiles r.tile), o.updDests.flatMap (fun r => tileRegion tiles r.tile))
  | 0x45 => ([], ls o.rngImage)
  | 0x46 => (ls o.rngImage, [])
  | 0x50 => (tileRegion tiles d.tile ++ tileRegion tiles (trfWord o.s1 o.inst).tile, [])
  | 0x51 | 0x52 =>
    (tileRegion tiles (trfWord o.s1 o.inst).tile ++ tileRegion tiles (trfWord o.s2 o.inst).tile ++
      tileRegion tiles (trfWord o.s3 o.inst).tile, tileRegion tiles d.tile)
  | 0x53 => (ls o.assayRecords, ls o.assayCopy)
  | _ =>
    if isArith o.op then
      (tileRegion tiles (trfWord o.s1 o.inst).tile ++
        (if readsS1 o.op ∧ o.auxF 49 48 ≠ 3 then tileRegion tiles (trfWord o.s2 o.inst).tile else []) ++
        (if readsS2 o.op ∧ o.auxF 51 50 ≠ 3 then tileRegion tiles (trfWord o.s3 o.inst).tile else []),
       trfRegions tiles d)
    else ([], [])

/-- Read and write regions of a micro-op (Table 4.9). -/
def regionsOf (tiles : Tab Word32) (w : BitVec 256) (t : Tab Word) (d : BitVec 512) (i : Nat) :
    Engine → List Region × List Region
  | .array =>
    let o := arrayOp w t i
    if o.works then
      (lsRegion o.aRows o.skewA ++ lsRegion o.bRows o.skewB ++ (if codeMx o.fa then lsRegion o.aScales o.skewA else []) ++
        (if codeMx o.fb then lsRegion o.bScales o.skewB else []), [.ledger o.tile])
    else ([], [.ledger o.tile])
  | .vector => vectorRegions tiles (vecOp w t i)
  | .drain =>
    let o := drainOp w t i
    if o.op = 1 then
      ([.ledger o.tile] ++ (if fuseAux o.fuse then tileRegion tiles o.auxTile else []),
       if o.toLs then lsRegion o.outRows 0 ++ (if codeMx o.fmt then lsRegion o.outScales 0 else [])
       else trfRegions tiles o.trf)
    else if o.op = 2 then ([.ledger o.tile], lsRegion o.image 0)
    else (lsRegion o.image 0, [.ledger o.tile])
  | .inbound => match ciOp w with | some op => streamRegions op (streamOf d t (cwField w 38 33) i) | none => ([], [])
  | .outbound => match coOp w with | some op => streamRegions op (streamOf d t (cwField w 14 9) i) | none => ([], [])

/-- Do two regions overlap (R124)? -/
def Region.meets : Region → Region → Bool
  | .ls a b, .ls c d => decide (a ≤ d) && decide (c ≤ b)
  | .trf a b, .trf c d => decide (a ≤ d) && decide (c ≤ b)
  | .ledger a, .ledger b => a = b
  | _, _ => false

/-- The conflict of a later entry with an earlier one (R124), with the exception for two MATMULs on a ledger tile. -/
def SbEntry.conflicts (later earlier : SbEntry) : Bool :=
  let skip := fun (a b : Region) => later.matmul && earlier.matmul && (match a, b with | .ledger _, .ledger _ => true | _, _ => false)
  let hit := fun (x y : List Region) => x.any (fun a => y.any (fun b => a.meets b && !skip a b))
  hit later.reads earlier.writes || hit later.writes earlier.reads || hit later.writes earlier.writes

end Sys2Proof.Machine
end

