-- ==== Sys2Proof/Machine/CoreOps.lean ====
section
/-! DEFINITION. Named operations on one core: counting, events, notches, the ECC stores, the end of micro-ops and
invocations. -/

namespace Sys2Proof.Machine

open Numbers

/-- A core being changed by one step, its number, and the event occurrences the step raises. -/
structure Eff where
  id : Nat
  k : CoreSt
  occ : List Occurrence
  deriving DecidableEq, Repr

/-- Raises an event (R473). -/
def Eff.raise (e : Eff) (code : Nat) (words : List Word) : Eff := { e with occ := e.occ ++ [⟨code, words⟩] }

/-- A 64-bit word from a number. -/
def wd (n : Nat) : Word := BitVec.ofNat 64 n

/-! ## Gauger counting (R460 to R463) -/

/-- GAU_SEL of counter `j`; unlisted ones hold the reset value of Table 19.2. -/
def Gauger.selOf (g : Gauger) (j : Nat) : Word32 :=
  (g.sel.find j).getD (if j < 8 then BitVec.ofNat 32 (0x80000010 + j) else 0)
/-- Does counter `j` count event `ev` (COUNT mode, enabled, Table 19.2)? -/
def Gauger.counts (g : Gauger) (ev j : Nat) : Bool :=
  let v := (g.selOf j).toNat
  bitOf v 31 && decide (bitsOf v 29 28 = 0) && decide (bitsOf v 11 0 = ev)
/-- A 48-bit counter advanced by `n`: it wraps and sets ovf (Table 19.1). -/
def GauCounter.add (c : GauCounter) (n : Nat) : GauCounter :=
  ⟨(c.count + n) % 2 ^ 48, c.ovf || decide (c.count + n ≥ 2 ^ 48)⟩
/-- The counters whose selection may differ from "none": those written and the eight of the reset selection. -/
def Gauger.candidates (g : Gauger) : List Nat :=
  (List.range 8).filter (fun j => (g.sel.find j).isNone) ++ g.sel.map (·.1)
/-- Is it an event of the array, the local store, the TRF, the vector unit or the drain (R438)? -/
def unitEvent (ev : Nat) : Bool := (decide (0x010 ≤ ev) && decide (ev ≤ 0x026)) || (decide (0x060 ≤ ev) && decide (ev ≤ 0x064))
/-- Adds `n` occurrences of `ev` to every counter that counts it (R461), and to what the invocation in effect is charged with
(R438). -/
def Gauger.count (g : Gauger) (ev n : Nat) : Gauger :=
  let hit := g.candidates.filter (g.counts ev)
  let fresh := match g.charged with
    | some inv => if n = 0 ∨ !unitEvent ev then g.fresh else (inv, ev, n) :: g.fresh
    | none => g.fresh
  { g with counters := hit.foldl (fun t j => if n = 0 then t else t.set j ((t.get {} j).add n)) g.counters, fresh := fresh }
/-- The account of an invocation changed. -/
def Gauger.onAccount (g : Gauger) (num : Nat) (f : Account → Account) : Gauger :=
  { g with accounts := g.accounts.map (fun a => if a.num = num then f a else a) }
/-- An invocation ends: its account is closed; one that passed no boundary has an empty one (R439). -/
def Gauger.closeAccount (g : Gauger) (num cycle : Nat) (fault : Bool) : Gauger :=
  let g := if g.accounts.any (fun a => a.num = num) then g else { g with accounts := g.accounts ++ [{ num := num, began := cycle }] }
  g.onAccount num (fun a => { a with ended := some cycle, faulted := fault })
/-- The estimate after a step of `n` cycles at an operating point (R438): `v2` is the square of its supply, `owner` the oldest
invocation in progress before the step; `keep` says that records are written. -/
def Gauger.meter (g : Gauger) (v2 point : Nat) (brake keep : Bool) (n : Nat) (owner : Option Nat) : Gauger :=
  let still := Config.cycleEnergy * n * v2
  let dyn := fun (l : List (Nat × Nat × Nat)) => l.foldl (fun (d : Nat) x => d + Config.eventEnergy x.2.1 * x.2.2 * v2) 0
  let one := fun (a : Account) =>
    { a with dynamic := a.dynamic + dyn (g.fresh.filter (fun x => x.1 = a.num)), static := a.static + (if owner = some a.num then still else 0),
             lowest := if a.ended.isNone then max a.lowest point else a.lowest,
             braked := a.braked || (a.ended.isNone && brake) }
  { g with accounts := (g.accounts.map one).filter (fun a => keep || a.ended.isNone), charged := none, fresh := [],
           winDynamic := g.winDynamic + dyn g.fresh, winOther := g.winOther + still,
           unclaimed := if owner.isSome then g.unclaimed else g.unclaimed + still }
/-- Counts in a core's Gauger. -/
def Eff.count (e : Eff) (ev n : Nat) : Eff := { e with k := { e.k with gauger := e.k.gauger.count ev n } }
/-- The word of a counter (Table 19.1). -/
def GauCounter.word (c : GauCounter) : Word := wd (c.count + (if c.ovf then 2 ^ 63 else 0))

/-! ## Event bits and counts (R149, R150) -/

/-- What the core noted of its present cycle; nothing when its note is of an earlier one. -/
def CoreSt.noteNow (k : CoreSt) : CycleNote := if k.note.cycle = k.cycle then k.note else { cycle := k.cycle }
/-- Sets a bit of CORE_EV_PENDING (Table 5.8). -/
def Eff.setPending (e : Eff) (bit : Nat) : Eff :=
  { e with k := { e.k with
      evPending := e.k.evPending ||| (1 <<< bit),
      note := { e.k.noteNow with bits := e.k.noteNow.bits ||| (1 <<< bit) } } }

/-- A saturating 48-bit count raised by `n`, and whether it crosses its limit from below (R150). -/
def saturate48 (c limit : BitVec 48) (n : Nat) : BitVec 48 × Bool :=
  let v := min (c.toNat + n) (2 ^ 48 - 1)
  (BitVec.ofNat 48 v, limit ≠ 0 && decide (c.toNat < limit.toNat) && decide (limit.toNat ≤ v))
/-- Adds detections to CORE_NF_COUNT; nf_over when the limit is crossed. -/
def Eff.addNf (e : Eff) (n : Nat) : Eff :=
  let (v, ovfl) := saturate48 e.k.nfCount e.k.nfLimit n
  let x := e.k.noteNow
  let new := ovfl && !e.k.evPending.getLsbD 2
  let e := { e with k := { e.k with nfCount := v, note := { x with nf := x.nf + n, nfNew := x.nfNew || new } } }
  if ovfl then e.setPending 2 else e
/-- Adds detections to CORE_SPIKE_COUNT; spike_over when the limit is crossed. -/
def Eff.addSpike (e : Eff) (n : Nat) : Eff :=
  let (v, ovfl) := saturate48 e.k.spikeCount e.k.spikeLimit n
  let x := e.k.noteNow
  let new := ovfl && !e.k.evPending.getLsbD 3
  let e := { e with k := { e.k with
    spikeCount := v, note := { x with spike := x.spike + n, spikeNew := x.spikeNew || new } } }
  if ovfl then e.setPending 3 else e
/-- A W1C write to CORE_EV_PENDING: a bit set in this core cycle stays set (R17, R149). -/
def CoreSt.clearEvents (k : CoreSt) (v : Word) : CoreSt :=
  { k with evPending := k.evPending &&& ~~~(v &&& ~~~k.noteNow.bits) }
/-- A write of CORE_NF_COUNT: the detections of this core cycle are added to the written value, and nf_over is judged from
it (R150). -/
def Eff.writeNf (e : Eff) (v : BitVec 48) : Eff :=
  let x := e.k.noteNow
  let back : Word := if x.nfNew then 1 <<< 2 else 0
  { e with k := { e.k with
      nfCount := v, evPending := e.k.evPending &&& ~~~back,
      note := { x with nf := 0, nfNew := false, bits := x.bits &&& ~~~back } } }.addNf x.nf
/-- A write of CORE_SPIKE_COUNT (R150). -/
def Eff.writeSpike (e : Eff) (v : BitVec 48) : Eff :=
  let x := e.k.noteNow
  let back : Word := if x.spikeNew then 1 <<< 3 else 0
  { e with k := { e.k with
      spikeCount := v, evPending := e.k.evPending &&& ~~~back,
      note := { x with spike := 0, spikeNew := false, bits := x.bits &&& ~~~back } } }.addSpike x.spike

/-! ## Notches (R158 to R162) -/

/-- The value of a notch. -/
def CoreSt.notch (k : CoreSt) (n : Nat) : BitVec 48 := k.notches.get 0 n
/-- Has value `v` reached `x` (R160)? -/
def notchReached (v x : BitVec 48) : Bool := decide ((v - x).toNat < 2 ^ 47)
/-! ## ECC stores (R70, R76, R95, R130, R132) -/

/-- The 64-byte lines that `n` bytes from `a` touch. -/
def linesOf (a n : Nat) : List Nat :=
  if n = 0 then [] else (List.range ((a + n - 1) / 64 - a / 64 + 1)).map (fun i => a / 64 + i)
/-- Is a read of these bytes delivered with a poison mark? -/
def Store.marked (st : Store) (a n : Nat) : Bool :=
  (linesOf a n).any (fun l => idxMem st.poison l || (List.range 8).any (fun w => idxMem st.double (8 * l + w)))
/-- The bytes as delivered. -/
def Store.bytes (st : Store) (a n : Nat) : List Byte := st.data.bytes a n
/-- The store after a read of these bytes (R70): single-bit errors of the lines corrected and counted, a double-bit
error leaves the 64-byte line poisoned, in data memory too, for which R132 names no line (DESIGN CHOICE, log 38). -/
def Store.afterRead (st : Store) (a n : Nat) : Store × Nat :=
  if st.single = [] ∧ st.double = [] then (st, 0)
  else
    let ls := linesOf a n
    let hit := fun (w : Nat) => ls.contains (w / 8)
    ({ st with
        single := st.single.filter (fun w => !hit w),
        double := st.double.filter (fun w => !hit w),
        poison := ls.foldl (fun p l => if (List.range 8).any (fun w => idxMem st.double (8 * l + w)) then idxAdd p l else p)
          st.poison },
     (st.single.filter hit).length)
/-- A write of bytes, each with its poison mark (R70): a marked byte sets the line's poison bit, a clean write of the
whole line clears it; words written whole have fresh ECC. -/
def Store.write (st : Store) (a : Nat) (bs : List (Byte × Bool)) : Store :=
  let n := bs.length
  if n = 0 then st
  else
    let inside := fun (lo len : Nat) => decide (a ≤ lo) && decide (lo + len ≤ a + n)
    let anyMark := fun (l : Nat) =>
      let lo := max a (64 * l)
      let hi := min (a + n) (64 * l + 64)
      ((bs.drop (lo - a)).take (hi - lo)).any (·.2)
    let noWord := fun (w : Nat) => !inside (8 * w) 8
    let mark := fun (p : List Nat) (l : Nat) =>
      if anyMark l then idxAdd p l else if inside (64 * l) 64 then idxDel p l else p
    { data := st.data.wrBytes a (bs.map (·.1)), poison := (linesOf a n).foldl mark st.poison,
      single := st.single.filter noWord, double := st.double.filter noWord }
/-- Bytes with one common mark. -/
def markAll (m : Bool) (bs : List Byte) : List (Byte × Bool) := bs.map (fun b => (b, m))
/-- The delivered bytes with their marks: every byte of a marked line carries the mark. -/
def Store.readMarked (st : Store) (a n : Nat) : List (Byte × Bool) :=
  (List.range n).map (fun i => (st.data.rd (a + i), st.marked (a + i) 1))

/-- A local-store read, its corrected errors counted as LS_ECC_CORRECTED. -/
def Eff.touchLs (e : Eff) (a n : Nat) : Eff :=
  let (st, c) := e.k.ls.afterRead a n
  { e with k := { e.k with ls := st } }.count 0x021 c
/-- A TRF read, counted as TRF_ECC_CORRECTED. -/
def Eff.touchTrf (e : Eff) (a n : Nat) : Eff :=
  let (st, c) := e.k.trf.afterRead a n
  { e with k := { e.k with trf := st } }.count 0x026 c
/-- A local-store write: the lines it touches leave the feeders' operand caches (R73). -/
def CoreSt.writeLs (k : CoreSt) (a : Nat) (bs : List (Byte × Bool)) : CoreSt :=
  let ls := linesOf a bs.length
  { k with
    ls := k.ls.write a bs,
    pipe := { k.pipe with feeders := k.pipe.feeders.map (fun f => (f.1, f.2.filter (fun x => !ls.contains x.line))) } }
/-- A local-store write. -/
def Eff.writeLs (e : Eff) (a : Nat) (bs : List (Byte × Bool)) : Eff := { e with k := e.k.writeLs a bs }
/-- A read of whole local-store lines. -/
def Eff.touchLines (e : Eff) (ls : List Nat) : Eff := ls.foldl (fun e l => e.touchLs (64 * l) 64) e
/-- A TRF write. -/
def Eff.writeTrf (e : Eff) (a : Nat) (bs : List (Byte × Bool)) : Eff :=
  { e with k := { e.k with trf := e.k.trf.write a bs } }

/-! ## Ledger entries (R58, R61) -/

/-- Index of entry (r, c) of a tile. -/
def ledIdx (tile r c : Nat) : Nat := (tile * 64 + r) * 32 + c
/-- An entry of a ledger tile. -/
def CoreSt.ledger (k : CoreSt) (tile r c : Nat) : Ledger := k.ledgers.get LedgerOps.zero (ledIdx tile r c)
/-- The core with an entry replaced. -/
def CoreSt.setLedger (k : CoreSt) (tile r c : Nat) (l : Ledger) : CoreSt :=
  { k with ledgers := k.ledgers.set (ledIdx tile r c) l }
/-- An entry as an add or the drain reads it: a parity error makes it POISON and raises LEDGER_PARITY (R61). -/
def Eff.readLedger (e : Eff) (tile r c : Nat) : Ledger × Eff :=
  let l := e.k.ledger tile r c
  if l.parityBad then
    let p := LedgerOps.ofTag .poison
    (p, { e with k := e.k.setLedger tile r c p }.raise 0x06 [wd e.id, wd (tile + r * 256 + c * 65536)])
  else (l, e)

/-! ## Lane generators (R228, R229) -/

/-- One advance: the new state and its draw. -/
def laneStep (st : BitVec 128) : BitVec 128 × Nat :=
  let s1 : Word := st.extractLsb' 64 64
  let s0 : Word := st.extractLsb' 0 64
  let t := s0 ^^^ (s0 <<< 23)
  let n1 := t ^^^ s1 ^^^ (t >>> 17) ^^^ (s1 >>> 26)
  (n1 ++ s1, ((n1 + s1) >>> 32).toNat % 2 ^ 32)
/-- `n` advances, draws discarded. -/
def laneAdvance : Nat → BitVec 128 → BitVec 128
  | 0, s => s
  | n + 1, s => laneAdvance n (laneStep s).1
/-- The state RNG_SEED gives lane `l` (R229). -/
def laneSeed (seed stream : Word) (l : Nat) : BitVec 128 :=
  let s0 := (stream + BitVec.ofNat 64 l) * 0x9E3779B97F4A7C15#64
  let s0 := if seed = 0 ∧ s0 = 0 then 1 else s0
  laneAdvance 32 (seed ++ s0)
/-- A lane's state; an unlisted lane holds its reset state. -/
def CoreSt.lane (k : CoreSt) (l : Nat) : BitVec 128 := (k.lanes.find l).getD (laneSeed 0 0 l)
/-- One draw from a lane. -/
def Eff.draw (e : Eff) (l : Nat) : Nat × Eff :=
  let (s, d) := laneStep (e.k.lane l)
  (d, { e with k := { e.k with lanes := e.k.lanes.set l s } })
/-- The rounding mode of a result: to nearest even, or stochastic with a draw from `lane`. -/
def Eff.mode (e : Eff) (sr : Bool) (lane : Nat) : Mode × Eff :=
  if sr then let (d, e') := e.draw lane; (.sr d, e') else (.rne, e)

/-! ## Locus words (Table 3.8) and launch words -/

/-- The detail word of a micro-op: cause and tile given (Table 3.8). -/
def detailWord (core : Nat) (start idx : Nat) (eng : Engine) (cause tile : Nat) : Word :=
  wd (cause * 2 ^ 56 + tile * 2 ^ 51 + eng.code * 2 ^ 48 + idx * 2 ^ 36 + start * 2 ^ 24 + core * 2 ^ 14)
/-- The locus word of a micro-op (R473). -/
def locus (core : Nat) (op : MicroOp) : Word := detailWord core op.start op.idx op.eng 0 0

/-! ## Queues, scoreboard, invocations -/

/-- The queue of an engine. -/
def CoreSt.queue (k : CoreSt) (g : Engine) : List MicroOp := k.queues.get [] g.code
/-- The begun, not completed micro-ops of an engine, oldest first. -/
def CoreSt.active (k : CoreSt) (g : Engine) : List Running := k.running.get [] g.code
/-- The core with a queue replaced. -/
def CoreSt.setQueue (k : CoreSt) (g : Engine) (q : List MicroOp) : CoreSt := { k with queues := k.queues.set g.code q }
/-- The core with the begun micro-ops of an engine replaced. -/
def CoreSt.setActive (k : CoreSt) (g : Engine) (q : List Running) : CoreSt := { k with running := k.running.set g.code q }
/-- Is every engine queue empty, with nothing begun and no window pending? -/
def CoreSt.enginesIdle (k : CoreSt) : Bool :=
  Engine.all.all (fun g => (k.queue g).isEmpty && (k.active g).isEmpty) && k.windows.isEmpty
/-- Are the five engine queues empty? -/
def CoreSt.queuesEmpty (k : CoreSt) : Bool := Engine.all.all (fun g => (k.queue g).isEmpty)

/-- The waits of a queue entry. -/
def MicroOp.waits (o : MicroOp) : List (Nat × Nat) := waitsOf o.word o.slots o.eng o.inst
/-- Its bumps. -/
def MicroOp.bumps (o : MicroOp) : List (Nat × Nat) := bumpsOf o.word o.eng

/-! ## Waits and bumps (R109, R110, R160) -/

/-- Is a wait of the queue entry met: it was, or its notch has reached the value now (R160)? -/
def CoreSt.waitMet (k : CoreSt) (o : MicroOp) (w : Nat × Nat) : Bool :=
  notchReached (k.notch w.1) (BitVec.ofNat 48 w.2) || k.met.contains (o.uid, w.1, w.2)
/-- Are all the waits of the queue entry met? -/
def CoreSt.waitsMet (k : CoreSt) (o : MicroOp) : Bool := o.waits.all (k.waitMet o)
/-- A thread whose nwait is met remembers it (R160). -/
def Thread.latch (k : CoreSt) (th : Thread) : Thread :=
  match th.wait with
  | some (n, x) => if notchReached (k.notch n) x then { th with met := true } else th
  | none => th
/-- The waits of queue heads that the notches meet now. -/
def CoreSt.metNow (k : CoreSt) : List (Nat × Nat × Nat) :=
  Engine.all.flatMap (fun g => ((k.queue g).take 1).flatMap (fun o =>
    (o.waits.filter (fun w => notchReached (k.notch w.1) (BitVec.ofNat 48 w.2))).map (fun w => (o.uid, w.1, w.2))))
/-- A bump: modulo 2^48. A wait met before it stays met (R160), and the stalemate count starts again (R178). -/
def CoreSt.bump (k : CoreSt) (n amt : Nat) : CoreSt :=
  { k with
    met := k.met ++ k.metNow.filter (fun x => !k.met.contains x), calm := 0,
    threads := k.threads.map (fun x => (x.1, x.2.latch k)),
    notches := k.notches.set n (k.notch n + BitVec.ofNat 48 amt) }
/-- Several bumps, summed (R110). -/
def CoreSt.bumps (k : CoreSt) (l : List (Nat × Nat)) : CoreSt := l.foldl (fun k b => k.bump b.1 b.2) k

/-- Is a micro-op held by an earlier scoreboard entry (R124)? -/
def CoreSt.held (k : CoreSt) (uid : Nat) : Bool :=
  match k.scoreboard.find? (fun x => x.uid = uid) with
  | none => false
  | some x => k.scoreboard.any (fun y => decide (y.uid < uid) && x.conflicts y)
/-- The scoreboard without a micro-op's entry. -/
def CoreSt.freeEntry (k : CoreSt) (uid : Nat) : CoreSt :=
  { k with scoreboard := k.scoreboard.filter (fun x => x.uid ≠ uid) }
/-- The read regions of an entry released (R124); an entry with no region left is freed. -/
def CoreSt.releaseReads (k : CoreSt) (uid : Nat) : CoreSt :=
  let sb := k.scoreboard.map (fun x => if x.uid = uid then { x with reads := [] } else x)
  { k with scoreboard := sb.filter (fun x => !(x.uid = uid && x.writes.isEmpty)) }

/-- Is a micro-op one that takes draws (R232)? -/
def MicroOp.draws (o : MicroOp) : Bool :=
  if o.marker then false
  else match o.eng with
    | .drain => let d := drainOp o.word o.slots o.inst; d.op = 1 && d.sr
    | .vector =>
      let v := vecOp o.word o.slots o.inst
      let narrow := v.dst.fmt ≠ 0
      v.sr && ((isArith v.op && narrow) || (v.op = 0x04 && narrow) || v.op = 0x26 || v.op = 0x40 || v.op = 0x41 ||
        v.op = 0x42 || ((v.op = 0x51 || v.op = 0x52) && narrow))
    | _ => false
/-- Is it RNG_SEED, RNG_SAVE or RNG_LOAD? -/
def MicroOp.isRng (o : MicroOp) : Bool :=
  !o.marker && o.eng = .vector && (let v := opField o.word .vector; v = 0x44 || v = 0x45 || v = 0x46)
/-- Is it STATS_FLUSH? -/
def MicroOp.isFlush (o : MicroOp) : Bool := !o.marker && o.eng = .vector && opField o.word .vector = 0x30
/-- Is it a ROUND with d_stats = 1? -/
def MicroOp.isStats (o : MicroOp) : Bool :=
  !o.marker && o.eng = .drain && opField o.word .drain = 1 && cwField o.word 89 89 = 1
/-- Entries of the core's queues earlier in program order than `uid`. -/
def CoreSt.earlierQueued (k : CoreSt) (uid : Nat) : List MicroOp :=
  Engine.all.flatMap (fun g => (k.queue g).filter (fun o => o.uid < uid))
/-- Held by the draw order of R232: a generator operation behind queued draws, or a draw behind a queued generator
operation; a draw-taking micro-op also behind earlier queued ones (R33 serves each lane in program order). -/
def CoreSt.drawHeld (k : CoreSt) (o : MicroOp) : Bool :=
  (k.earlierQueued o.uid).any (fun x => ((o.isRng || o.draws) && x.draws) || (o.draws && x.isRng))
/-- Held by R206: a flush behind earlier recording ROUNDs, or such a ROUND behind an earlier flush. -/
def CoreSt.statsHeld (k : CoreSt) (o : MicroOp) : Bool :=
  (o.isFlush && ((k.earlierQueued o.uid).any (·.isStats) || (k.active .drain).any (fun r => r.op.isStats && decide (r.op.uid < o.uid)))) ||
  (o.isStats && (k.earlierQueued o.uid).any (·.isFlush))

/-- May the head micro-op begin (R109, R113, R124, R206, R232)? -/
def CoreSt.mayBegin (k : CoreSt) (o : MicroOp) : Bool :=
  !k.frozen && k.waitsMet o && !k.held o.uid && !k.drawHeld o && !k.statsHeld o

/-- Advances CORE_INV_DONE over the ended numbers (R142). -/
def advanceDone : Nat → BitVec 48 → List Nat → BitVec 48 × List Nat
  | 0, d, l => (d, l)
  | n + 1, d, l =>
    let x := (d + 1).toNat
    if l.contains x then advanceDone n (d + 1) (l.filter (· ≠ x)) else (d, l)
/-- One invocation ends (R99, R142, R143). -/
def Eff.endInv (e : Eff) (f : Flight) : Eff :=
  let k := e.k
  let k := if f.fault then
      { k with invFaults := k.invFaults + 1, invLastFault := if f.first then BitVec.ofNat 48 f.num else k.invLastFault }
    else k
  let ended := k.endedAhead ++ [f.num]
  let (d, l) := advanceDone ended.length k.invDone ended
  let sm := k.gauger.samples.map (fun s => if s.op.inv = f.num then { s with faulted := f.fault } else s)
  let g := ({ k.gauger with samples := sm } : Gauger).closeAccount f.num k.cycle f.fault
  let e' := { e with k := { k with invDone := d, endedAhead := l, gauger := g } }
  let e' := if d ≠ k.invDone then e'.setPending 0 else e'
  if f.fault then e'.setPending 1 else e'
/-- Is the invocation over (R99; R85 step 5 for the one that faulted)? -/
def CoreSt.flightOver (k : CoreSt) (f : Flight) : Bool :=
  f.split && f.left = 0 && (!f.drains || k.queuesEmpty)
/-- Ends every invocation that is over, in launch order. -/
def Eff.settle (e : Eff) : Eff :=
  let ovfl := e.k.flights.filter e.k.flightOver
  let e' := { e with k := { e.k with flights := e.k.flights.filter (fun f => !e.k.flightOver f) } }
  ovfl.foldl (fun e f => e.endInv f) e'

/-- An invocation faults (R85, R94, R97, R143, R312): it and every invocation launched after it that is queued or being
split issue no further word and end with fault status; with `hard` (R94) nothing at all is issued further, and with
`drain` it ends only when the engine queues are empty (R85, step 5). An invocation that has already ended keeps its
status, and one that faulted first stays the first. -/
def Eff.faultInv (e : Eff) (num : Nat) (hard : Bool) (drain : Bool := true) : Eff :=
  if e.k.flights.any (fun f => f.num = num) then
    let stop : Option Splitting := match e.k.splitting with
      | some s => if s.issue.isNone ∨ (hard ∧ s.req.num = num) then none else some s
      | none => none
    let cur := e.k.splitting.map (fun s => s.req.num)
    let done := stop.isNone
    let fl := e.k.flights.map (fun f : Flight =>
      if f.num = num then
        { f with split := f.split || (some f.num ≠ cur || done), first := f.first || !f.fault, fault := true,
                 drains := f.drains || drain }
      else if some f.num = cur then { f with split := done, fault := true } else f)
    let queued := e.k.invQueue.map (fun r => Flight.mk r.num 0 true true false false)
    let tiles := match e.k.splitting, done with
      | some { issue := some i, .. }, true => i.tiles
      | _, _ => e.k.splitTiles
    { e with k := { e.k with flights := fl ++ queued, invQueue := [], splitting := stop, splitTiles := tiles } }.settle
  else e
/-- Has a fault stopped the invocation? -/
def CoreSt.stopped (k : CoreSt) (num : Nat) : Bool := k.flights.any (fun f => f.num = num && f.fault)

/-- A micro-op or marker has completed: its bumps are performed, its entry and its place in the invocation freed
(R99, R110, R124). -/
def Eff.opDone (e : Eff) (o : MicroOp) (bump : Bool) : Eff :=
  let k := if bump then e.k.bumps o.bumps else e.k
  let k := { k.freeEntry o.uid with met := k.met.filter (fun x => x.1 ≠ o.uid) }
  let fl := k.flights.map (fun f => if f.num = o.inv then { f with left := f.left - 1 } else f)
  let sm := k.gauger.samples.map (fun s => if s.op.uid = o.uid then { s with done := some k.cycle } else s)
  { e with k := { k with flights := fl, gauger := { k.gauger with samples := sm } } }.settle

/-- The head of an engine's queue begins: it leaves the queue and joins the begun micro-ops (R113). -/
def Eff.begin (e : Eff) (o : MicroOp) (left : Nat) : Eff :=
  let k := e.k.setQueue o.eng ((e.k.queue o.eng).drop 1)
  let k := k.setActive o.eng (k.active o.eng ++ [⟨o, left, false⟩])
  let sm := k.gauger.samples.map (fun s => if s.op.uid = o.uid then { s with began := k.cycle } else s)
  { e with k := { k with gauger := { k.gauger with samples := sm, charged := some o.inv } } }

/-- A core step in which the head micro-op of an engine begins and has its effect `f`, if its operation satisfies `p` and
it may begin; otherwise nothing happens (the event does not occur). -/
def Eff.atHead (e : Eff) (g : Engine) (gap : Nat) (p : MicroOp → Bool) (f : Eff → MicroOp → Eff) : Eff :=
  match e.k.queue g with
  | o :: _ =>
    if !o.marker && p o && e.k.mayBegin o then
      let e := { e with k := { e.k with cycle := (e.k.cycle + gap) % 2 ^ 64 } }
      f (e.begin o 0) o
    else e
  | [] => e

end Sys2Proof.Machine
end

