-- ==== Sys2Proof/Machine/Loom.lean ====
section
/-! DEFINITION. The Loom (04_patterns_and_control_words.md): invocation boundaries, splitting and checking words,
issuing instances, markers and the completion of micro-ops. -/

namespace Sys2Proof.Machine

/-- R of a word (Table 4.1, rep_src). -/
def wordRepeat (w : BitVec 256) (t : Tab Word) : Nat :=
  if cwField w 239 239 = 1 then slotF t (cwField w 238 233) 15 0 else cwField w 255 240

/-- Is an engine named by a wait or bump of the word (R105)? -/
def namedEngine (w : BitVec 256) (g : Engine) : Bool :=
  cwField w 231 229 = g.code || cwField w 201 199 = g.code || cwField w 171 169 = g.code || cwField w 155 153 = g.code

/-- The word at a pattern-memory index. -/
def CoreSt.patternWord (k : CoreSt) (i : Nat) : BitVec 256 := BitVec.ofNat 256 (k.pattern.data.le (32 * i) 32)
/-- Quarters of a word that hold a double-bit error (R95, R277). -/
def CoreSt.wordDouble (k : CoreSt) (i : Nat) : Bool := (List.range 4).any (fun q => idxMem k.pattern.double (4 * i + q))
/-- Quarters of a word that hold a single-bit error. -/
def CoreSt.wordSingle (k : CoreSt) (i : Nat) : Nat :=
  ((List.range 4).filter (fun q => idxMem k.pattern.single (4 * i + q))).length

/-- Marks an invocation as split when its last word has been split and issued, or a fault has stopped it (R99, R143). -/
def Eff.closeSplit (e : Eff) : Eff :=
  match e.k.splitting with
  | some s =>
    if s.issue.isNone ∧ (s.nextIdx ≥ s.req.len ∨ e.k.stopped s.req.num) then
      let fl := e.k.flights.map (fun f => if f.num = s.req.num then { f with split := true } else f)
      { e with k := { e.k with splitting := none, flights := fl } }.settle
    else e
  | none => e

/-- May the Loom take the next request (R98, R143)? -/
def CoreSt.boundaryOpen (k : CoreSt) : Bool :=
  !k.frozen && k.splitting.isNone && !k.flights.any (·.fault)

/-- The invocation boundary (R97, R98). -/
def Eff.boundary (e : Eff) : Eff :=
  match e.k.invQueue with
  | [] => e
  | r :: rest =>
    if !e.k.boundaryOpen then e
    else
      let g := e.k.gauger
      let k := { e.k with
        invQueue := rest, flights := e.k.flights ++ [Flight.mk r.num 0 false false false false],
        gauger := { g with accounts := g.accounts ++ [{ num := r.num, began := e.k.cycle }] } }
      let e := { e with k := k }
      if r.start + r.len > 4096 then
        (e.raise 0x04 [wd e.id, wd r.num, wd (r.start + r.len * 2 ^ 16)]).faultInv r.num true false
      else
        { e with k := { e.k with liveSlots := r.slots, splitting := some ⟨r, 0, none⟩ } }.closeSplit

/-- Stops the word being split and its invocation (R85, R95): an event with the detail word and the launch number. -/
def Eff.misfit (e : Eff) (r : InvReq) (code : Nat) (detail : Word) : Eff :=
  (e.raise code [detail, wd r.num]).faultInv r.num true

/-- Splits the next word: reads it, checks every instance, latches its slots and descriptors (R80, R85, R95, R102). -/
def Eff.splitWord (e : Eff) : Eff :=
  match e.k.splitting with
  | some ⟨r, idx, none⟩ =>
    if e.k.frozen ∨ idx ≥ r.len ∨ e.k.stopped r.num then e
    else
      let pi := r.start + idx
      let w := e.k.patternWord pi
      let e := e.count 0x037 (e.k.wordSingle pi)
      let t := e.k.liveSlots
      let ci := e.k.descs.get 0 (cwField w 44 39)
      let co := e.k.descs.get 0 (cwField w 20 15)
      let rep := wordRepeat w t
      if e.k.wordDouble pi then e.misfit r 0x02 (detailWord e.id r.start idx .array 0 0)
      else match wordMisfit w t ci co rep 0 e.k.splitTiles (if rep = 0 then codeMisfit w else none) with
        | some (g, c, tile) => e.misfit r 0x01 (detailWord e.id r.start idx g c tile)
        | none =>
          let receives := Engine.all.any (fun g => (rep ≠ 0 && opField w g ≠ 0) || namedEngine w g)
          let tiles := (List.range rep).foldl (fun tl i => tilesAfter tl w t i) e.k.splitTiles
          let iss : Option Issue := if receives then some ⟨idx, max rep 1, 0, w, t, ci, co, e.k.splitTiles⟩ else none
          { e with k := { e.k with splitting := some ⟨r, idx + 1, iss⟩, splitTiles := tiles } }.closeSplit
  | _ => e

/-- The queue entries of instance `i`, in program order (R108 to R112): a micro-op for each engine whose operation is not
NOP, one marker for each other engine that a wait or bump names. -/
def instanceEntries (r : InvReq) (x : Issue) (uid0 : Nat) : List MicroOp :=
  let rep := wordRepeat x.word x.slots
  let mk : Engine → Option MicroOp := fun g =>
    let micro := rep ≠ 0 && opField x.word g ≠ 0
    if micro || namedEngine x.word g then
      some { uid := uid0 + g.code, inv := r.num, start := r.start, idx := x.idx, inst := x.next, eng := g,
             marker := !micro, word := x.word, slots := x.slots,
             desc := match g with | .inbound => x.ciDesc | .outbound => x.coDesc | _ => 0 }
    else none
  Engine.all.filterMap mk

/-- Does a micro-op take a scoreboard entry (R123)? A PREFETCH with psrc = 1 and T = 0 takes one without a region (DESIGN
CHOICE, log 36). -/
def MicroOp.takesEntry (o : MicroOp) : Bool :=
  if o.marker then false
  else match o.eng with
    | .inbound => opField o.word .inbound ≠ 3
    | .outbound => opField o.word .outbound ≠ 2 || (streamOf o.desc o.slots (cwField o.word 14 9) o.inst).psrc
    | _ => true
/-- Its scoreboard entry under tile configuration `tiles`. -/
def MicroOp.entry (o : MicroOp) (tiles : Tab Word32) : SbEntry :=
  let (r, w) := regionsOf tiles o.word o.slots o.desc o.inst o.eng
  ⟨o.uid, o.eng = .array, r, w⟩

/-- Capacity of an engine queue in the mode in force (R119). -/
def CoreSt.queueCap (k : CoreSt) : Nat := if k.queueMode = 1 then 8 else 256
/-- Is there room for an instance's entries (R120)? -/
def CoreSt.queueRoom (k : CoreSt) (es : List MicroOp) : Bool :=
  if k.queueMode = 1 then Engine.all.all (fun g => decide ((k.queue g).length < k.queueCap))
  else es.all (fun o => decide ((k.queue o.eng).length < k.queueCap))
/-- Has the scoreboard a free entry for each micro-op that takes one (R120)? -/
def CoreSt.boardRoom (k : CoreSt) (es : List MicroOp) : Bool :=
  decide (k.scoreboard.length + (es.filter (·.takesEntry)).length ≤ 64)

/-- Is sampling on, and does it select an engine (R468)? -/
def Gauger.samplesEngine (g : Gauger) (eng : Engine) : Bool :=
  g.cfg.getLsbD 50 && bitOf (wField g.cfg 55 51) eng.code
/-- The sampling period. -/
def Gauger.period (g : Gauger) : Nat := 2 ^ max 4 (wField g.cfg 49 45)
/-- The sampler counts one issued micro-op (R468, R469). -/
def Eff.sampleIssue (e : Eff) (o : MicroOp) : Eff :=
  let g := e.k.gauger
  if o.marker ∨ !g.samplesEngine o.eng then e
  else if g.smpLeft > 1 then { e with k := { e.k with gauger := { g with smpLeft := g.smpLeft - 1 } } }
  else if g.samples.length ≥ 4 then
    { e with k := { e.k with gauger := { g with smpLeft := g.period, smpDropped := true } } }.count 0x070 1
  else
    let smp : Sample := ⟨o, e.k.cycle, e.k.cycle, none, false⟩
    { e with k := { e.k with gauger := { g with smpLeft := g.period, samples := g.samples ++ [smp] } } }

/-- Issues the next instance of the word being issued (R120), if queues and scoreboard have room. -/
def Eff.issueInstance (e : Eff) (gap : Nat) : Eff :=
  match e.k.splitting with
  | some ⟨r, nx, some x⟩ =>
    let es := instanceEntries r x e.k.nextUid
    if e.k.frozen ∨ !e.k.queueRoom es ∨ !e.k.boardRoom es then e
    else
      let after := if wordRepeat x.word x.slots = 0 then x.tiles else tilesAfter x.tiles x.word x.slots x.next
      let tilesFor := fun (o : MicroOp) => match o.eng with | .array | .vector => x.tiles | _ => after
      let board := (es.filter (·.takesEntry)).map (fun o => o.entry (tilesFor o))
      let k := { e.k with cycle := (e.k.cycle + gap) % 2 ^ 64 }
      let k := es.foldl (fun k o => k.setQueue o.eng (k.queue o.eng ++ [o])) k
      let iss : Option Issue := if x.next + 1 < x.total then some { x with next := x.next + 1, tiles := after } else none
      let fl := k.flights.map (fun f => if f.num = r.num then { f with left := f.left + es.length } else f)
      let k := { k with nextUid := k.nextUid + 5, scoreboard := k.scoreboard ++ board, flights := fl,
                        splitting := some ⟨r, nx, iss⟩ }
      (es.foldl Eff.sampleIssue { e with k := k }).closeSplit
  | _ => e

/-- A marker at the head of an engine's queue takes effect: its waits are met and, when it carries a bump, every earlier
micro-op of the engine has completed (R109, R110). -/
def Eff.marker (e : Eff) (g : Engine) (gap : Nat) : Eff :=
  match e.k.queue g with
  | o :: rest =>
    let earlierDone := (e.k.active g).isEmpty && (g ≠ .inbound || e.k.windows.isEmpty)
    if o.marker ∧ !e.k.frozen ∧ e.k.waitsMet o ∧ (o.bumps.isEmpty ∨ earlierDone) then
      let k := { (e.k.setQueue g rest) with cycle := (e.k.cycle + gap) % 2 ^ 64 }
      { e with k := k }.opDone o true
    else e
  | [] => e

/-- The oldest begun micro-op of an engine completes when nothing outside the core is awaited (R108, R110, R282). -/
def Eff.completeOp (e : Eff) (g : Engine) (gap : Nat) : Eff :=
  match e.k.active g with
  | r :: rest =>
    if r.left = 0 then
      let k := { (e.k.setActive g rest) with cycle := (e.k.cycle + gap) % 2 ^ 64 }
      { e with k := k }.opDone r.op (!r.noBump)
    else e
  | [] => e

/-- The queue mode asked for comes into force (R121). -/
def Eff.switchMode (e : Eff) : Eff :=
  if e.k.queuesEmpty && e.k.invQueue.isEmpty && e.k.splitting.isNone then
    { e with k := { e.k with queueMode := e.k.queueModeWanted } }
  else e

end Sys2Proof.Machine
end

