-- ==== Sys2Proof/Machine/ArrayUnit.lean ====
section
/-! DEFINITION. The matrix array (02_matrix_array.md, R207, R208): MATMUL over the local store into a ledger tile, with the
stationary sets, the feeders' operand caches and the array's time. -/

namespace Sys2Proof.Machine

open Numbers

/-- An element as an engine receives it: its exact value and its poison mark. -/
abbrev Elem := Val × Bool

/-- The bits of element `j` of the row that starts at `base`, and its mark, read through placement map `skew`. 6-bit and
4-bit elements are packed from the least significant bit up (log 7). -/
def Store.elemBits (st : Store) (skew base j bits : Nat) : Nat × Bool :=
  let off := j * bits
  let first := base + off / 8
  let n := (off % 8 + bits + 7) / 8
  let as := (List.range n).map (fun i => skewMap skew (first + i))
  let v := leNat (as.map st.data.rd)
  ((v >>> (off % 8)) % 2 ^ bits, as.any (fun a => st.marked a 1))

/-- A format code's format; the codes checked by the Loom are never reserved. -/
def fmtOf (c : Nat) : Fmt := (Fmt.ofCode c).getD .fp32

/-- An element from its code and, for an MX format, its scale byte (R21), each with its mark. -/
def elemOf (f : Fmt) (x scale : Nat × Bool) : Elem :=
  if f.isMx then (scaled (decode f x.1) scale.1, x.2 || scale.2) else (decode f x.1, x.2)
/-- A scale byte and its mark. -/
def Store.scaleByte (st : Store) (skew a : Nat) : Nat × Bool :=
  ((st.data.rd (skewMap skew a)).toNat, st.marked (skewMap skew a) 1)
/-- An element of a row, with the scale byte at `scale` for an MX format. -/
def Store.elem (st : Store) (skew base j code scale : Nat) : Elem :=
  elemOf (fmtOf code) (st.elemBits skew base j (fmtOf code).bits) (st.scaleByte skew scale)

/-- Start of the stored row that holds element j of broadcast row r of A, and the element's place in it (R45, R208). -/
def ArrayOp.aSpot (o : ArrayOp) (r j : Nat) : Nat × Nat :=
  if o.column then (o.aBase.toNat + j * o.aStride, r) else (o.aBase.toNat + r * o.aStride, j)
/-- The scale byte of it (R509). -/
def ArrayOp.aScaleAt (o : ArrayOp) (r j : Nat) : Nat := o.aScale.toNat + r * (o.k / 32) + j / 32
/-- Element j of broadcast row r of A. -/
def ArrayOp.aElem (o : ArrayOp) (st : Store) (r j : Nat) : Elem :=
  st.elem o.skewA (o.aSpot r j).1 (o.aSpot r j).2 o.fa (o.aScaleAt r j)
/-- Start of the stored row that holds the element at inner position j of column c of B, and its place in it (R45, R207). -/
def ArrayOp.bSpot (o : ArrayOp) (j c : Nat) : Nat × Nat :=
  if o.transposed then (o.bBase.toNat + c * o.bStride, j) else (o.bBase.toNat + j * o.bStride, c)
/-- The scale byte of K-block q of column c of B (R509). -/
def ArrayOp.bScaleAt (o : ArrayOp) (q c : Nat) : Nat := o.bScale.toNat + 32 * q + c
/-- Element at inner position j of column c of B. -/
def ArrayOp.bElem (o : ArrayOp) (st : Store) (j c : Nat) : Elem :=
  st.elem o.skewB (o.bSpot j c).1 (o.bSpot j c).2 o.fb (o.bScaleAt (j / 32) c)

/-! ## Chunks and stationary sets (R46, R47) -/

/-- K_set of the micro-op. -/
def ArrayOp.kSet (o : ArrayOp) : Nat := Machine.kSet (fmtOf o.fa) (fmtOf o.fb)
/-- Its number of chunks. -/
def ArrayOp.chunkCount (o : ArrayOp) : Nat := (o.k + o.kSet - 1) / o.kSet
/-- The inner positions of chunk q that lie within K. -/
def ArrayOp.chunk (o : ArrayOp) (q : Nat) : List Nat := ((List.range o.kSet).map (fun i => q * o.kSet + i)).filter (· < o.k)
/-- Column c of the stationary set of chunk q, as the side loader reads it. -/
def ArrayOp.loadCol (o : ArrayOp) (st : Store) (q c : Nat) : SetCol :=
  { elems := (o.chunk q).map (fun j => st.elemBits o.skewB (o.bSpot j c).1 (o.bSpot j c).2 (fmtOf o.fb).bits),
    scales := (o.chunk q).map (fun j => st.scaleByte o.skewB (o.bScaleAt (j / 32) c)) }
/-- The elements of a column of a stationary set. -/
def SetCol.values (f : Fmt) (x : SetCol) : List Elem := (x.elems.zip x.scales).map (fun y => elemOf f y.1 y.2)
/-- The local-store bytes the side loader reads for chunk q. -/
def ArrayOp.bBytes (o : ArrayOp) (q : Nat) : List Nat :=
  let bits := (fmtOf o.fb).bits
  let row := fun (a j len : Nat) => (List.range ((j * bits % 8 + len * bits + 7) / 8)).map (fun i => skewMap o.skewB (a + j * bits / 8 + i))
  let els := if o.transposed then
      (List.range o.n).flatMap (fun c => row (o.bSpot 0 c).1 (q * o.kSet) (o.chunk q).length)
    else (o.chunk q).flatMap (fun j => row (o.bSpot j 0).1 0 o.n)
  let scs := if codeMx o.fb then
      ((o.chunk q).filter (fun j => j % 32 = 0)).flatMap (fun j =>
        (List.range o.n).map (fun c => skewMap o.skewB (o.bScaleAt (j / 32) c)))
    else []
  els ++ scs
/-- Cycles the side loader takes for chunk q without bank conflicts (R48). -/
def ArrayOp.loadCycles (o : ArrayOp) (q : Nat) : Nat :=
  let n := (o.chunk q).length
  let bytes := (n * 32 * (fmtOf o.fb).bits + 7) / 8
  let rate := if o.transposed then 32 else 64
  (bytes + rate - 1) / rate + (if codeMx o.fb then (n / 32 * 32 + 63) / 64 else 0)

/-- The lines that bytes lie in. -/
def linesAt (as : List Nat) : List Nat := (as.map (· / 64)).eraseDups

/-! ## The feeders (R53, R72 to R74) -/

/-- The local-store lines feeder r mod 8 requests for row r of chunk q, A data first (log 28). -/
def ArrayOp.aLines (o : ArrayOp) (q r : Nat) : List Nat :=
  let bits := (fmtOf o.fa).bits
  let bytes := fun (a j len : Nat) => (List.range ((j * bits % 8 + len * bits + 7) / 8)).map (fun i => skewMap o.skewA (a + j * bits / 8 + i))
  let els := if o.column then (o.chunk q).flatMap (fun j => bytes (o.aSpot r j).1 r 1)
    else bytes (o.aSpot r 0).1 (q * o.kSet) (o.chunk q).length
  let scs := if codeMx o.fa then (o.chunk q).map (fun j => skewMap o.skewA (o.aScaleAt r j)) else []
  linesAt els ++ linesAt scs
/-- A feeder's request for a line: a hit takes no bank access; a miss, or a line with a parity error, reads the bank (R72,
R74). The least recently used of eight lines goes. -/
def Eff.feed (e : Eff) (f line : Nat) : Eff :=
  let c := e.k.pipe.feeders.get [] f
  let lines : List FeederLine := (⟨line, false⟩ :: c.filter (fun x => x.line ≠ line)).take 8
  let put := fun (e : Eff) =>
    { e with k := { e.k with pipe := { e.k.pipe with feeders := e.k.pipe.feeders.set f lines } } }
  match c.find? (fun x => x.line = line) with
  | some x => if x.parityBad then ((put (e.touchLs (64 * line) 64)).count 0x024 1).count 0x023 1 else (put e).count 0x022 1
  | none => (put (e.touchLs (64 * line) 64)).count 0x023 1
/-- The feeders' requests for the rows of chunk q. -/
def Eff.feedChunk (e : Eff) (o : ArrayOp) (q : Nat) : Eff :=
  (List.range o.m).foldl (fun e r => (o.aLines q r).foldl (fun e l => e.feed (r % 8) l) e) e

/-! ## The sums -/

/-- The terms of entry (r, c), by inner position (Table 1.6). -/
def arrayTerms (arow bcol : List Elem) : List Ledger :=
  (arow.zip bcol).map (fun x => LedgerOps.product x.1.2 x.2.2 x.1.1 x.2.1)

/-- Lists cut into chunks of `n` (the last may be shorter). -/
def chunks {α : Type} (n : Nat) : Nat → List α → List (List α)
  | 0, _ => []
  | fuel + 1, l => if l.isEmpty then [] else l.take n :: chunks n fuel (l.drop n)

/-- Extra cycles of one broadcast row over a chunk (R55, R56): the most any DPU takes, the halves of a 32-bit row
separately. -/
def rowExtra (wide : Bool) (groups : List (List Ledger)) : Nat :=
  let most := fun (gs : List (List Ledger)) => gs.foldl (fun m g => max m (LedgerOps.spreadExtra g)) 0
  if wide then most (groups.map (·.take 8)) + most (groups.map (·.drop 8)) else most groups

/-- Is the pair of the 32-bit class (Table 2.1)? -/
def ArrayOp.wide (o : ArrayOp) : Bool := rateClass (fmtOf o.fa) = 0 || rateClass (fmtOf o.fb) = 0
/-- The terms of row r, column by column. -/
def rowTerms (arow : List Elem) (bcols : List (List Elem)) : List (List Ledger) := bcols.map (arrayTerms arow)
/-- Row r of the micro-op: the terms of each column are added into the row's entries (R25, R41, R58). -/
def Eff.matmulRow (e : Eff) (o : ArrayOp) (arow : List Elem) (bcols : List (List Elem)) (r : Nat) : Eff :=
  ((rowTerms arow bcols).zip (List.range o.n)).foldl (fun (e : Eff) x =>
    let (l0, e) := if o.acc then e.readLedger o.tile r x.2 else (LedgerOps.zero, e)
    { e with k := e.k.setLedger o.tile r x.2 (x.1.foldl LedgerOps.combine l0) }) e

/-! ## Time (R46 to R49, R52, R55, R56, R64) -/

/-- Cycles of the array that are still to come. -/
def planCycles (p : List ArrayRun) : Nat := (p.map (·.cycles)).foldl (· + ·) 0
/-- The plan after `n` cycles, and the runs that passed. -/
def passPlan : Nat → List ArrayRun → List ArrayRun × List ArrayRun
  | _, [] => ([], [])
  | n, x :: t =>
    if n = 0 then ([], x :: t)
    else if x.cycles ≤ n then ((x :: (passPlan (n - x.cycles) t).1), (passPlan (n - x.cycles) t).2)
    else ([{ x with cycles := n }], { x with cycles := x.cycles - n } :: t)
/-- The events of row r of chunk q: its issue, then the extra cycles of R55 and the second cycle of a 32-bit row. -/
def ArrayOp.rowRuns (o : ArrayOp) (terms : List (List Ledger)) (q : Nat) : List ArrayRun :=
  let extra := rowExtra o.wide (terms.map (fun c => (c.drop (q * o.kSet)).take o.kSet)) + (if o.wide then 1 else 0)
  [⟨0x010, 1⟩] ++ (if extra = 0 then [] else [⟨0x011, extra⟩])

/-- The array's wait before each chunk, through the chunks of a micro-op (R46 to R49): `free` is when the array can issue
chunk q, `ready` when its set is loaded, `setFree` when the other set can be overwritten. With the waits, the cycle in which
the last chunk became active and the one in which its load was finished. -/
def chunkWaits (load busy : Nat → Nat) : Nat → Nat → Nat → Nat → Nat → List Nat × Nat × Nat
  | 0, _, free, _, ready => ([], free, ready)
  | 1, _, free, _, ready => ([max free ready - free], max free ready, ready)
  | n + 2, q, free, setFree, ready =>
    let s := max free ready
    let x := chunkWaits load busy (n + 1) (q + 1) (s + busy q) (s + busy q) (max ready setFree + load (q + 1))
    ((s - free) :: x.1, x.2)

/-- The stationary set of chunk q; chunk 0 goes to the set that is not active. -/
def ArrayPipe.setOf (p : ArrayPipe) (q : Nat) : Nat := (1 - p.activeSet + q) % 2
/-- When the first chunk of a micro-op is loaded: it is already being loaded, or the loader starts at `now` or as soon as it
is free, the last chunk before it being active (R47). -/
def ArrayPipe.readyAt (p : ArrayPipe) (uid now : Nat) (o : ArrayOp) : Nat :=
  let x := p.sets.get {} (p.setOf 0)
  if x.owner = some (uid, 0) then x.ready else max p.loaderFree (max p.lastChunk now) + o.loadCycles 0
/-- The stationary set of chunk q, loaded by `ready`. -/
def ArrayOp.statSet (o : ArrayOp) (st : Store) (uid q ready : Nat) : StatSet :=
  ⟨some (uid, q), (List.range o.n).map (o.loadCol st q), ready⟩
/-- The side loader loads the first chunk of the array's next micro-op while it could begin (R47, log 27). -/
def CoreSt.sideLoad (k : CoreSt) : ArrayPipe :=
  match k.queue .array with
  | o :: _ =>
    let a := arrayOp o.word o.slots o.inst
    if !o.marker && k.mayBegin o && a.works then
      let ready := k.pipe.readyAt o.uid k.cycle a
      { k.pipe with sets := k.pipe.sets.set (k.pipe.setOf 0) (a.statSet k.ls o.uid 0 ready), loaderFree := ready }
    else k.pipe
  | [] => k.pipe

/-- Runs of an event, none when there are no cycles. -/
def runsOf (event cycles : Nat) : List ArrayRun := if cycles = 0 then [] else [⟨event, cycles⟩]

/-- MATMUL (R41 to R49, R52, R58), the whole micro-op `uid`, `gap` cycles after the core's last step. The B elements come from
the stationary sets as they are loaded when the micro-op begins. -/
def Eff.matmul (e : Eff) (uid gap : Nat) (o : ArrayOp) : Eff :=
  let fm := (o.fa, o.fb)
  let bubble := match e.k.prevFmts with | some p => if p ≠ fm then 2 else 0 | none => 0
  let e := { e with k := { e.k with
    prevFmts := some fm, pipe := { e.k.pipe with plan := e.k.pipe.plan ++ runsOf 0x012 bubble } } }
  if !o.works then
    if o.acc then e
    else
      let k := (List.range o.m).foldl (fun k r =>
        (List.range o.n).foldl (fun k c => k.setLedger o.tile r c LedgerOps.zero) k) e.k
      { e with k := k }
  else
    let nch := o.chunkCount
    let qs := List.range nch
    let free := e.k.cycle + (planCycles e.k.pipe.plan - gap)
    let ready := e.k.pipe.readyAt uid (e.k.cycle - gap) o
    let e := qs.foldl (fun (e : Eff) q => (e.touchLines (linesAt (o.bBytes q))).feedChunk o q) e
    let st := e.k.ls
    let bcols := (List.range o.n).map (fun c => qs.flatMap (fun q => (o.loadCol st q c).values (fmtOf o.fb)))
    let arows := (List.range o.m).map (fun r => (List.range o.k).map (fun j => o.aElem st r j))
    let rows := fun (q : Nat) => arows.flatMap (fun a => o.rowRuns (rowTerms a bcols) q)
    let w := chunkWaits o.loadCycles (fun q => planCycles (rows q)) nch 0 free (free - bubble) ready
    let runs := (w.1.zip qs).flatMap (fun x => runsOf 0x013 x.1 ++ rows x.2)
    let p := e.k.pipe
    let sets := (qs.drop (nch - 2)).foldl (fun t q => t.set (p.setOf q) (o.statSet st uid q w.2.2)) p.sets
    let e := { e with k := { e.k with
      pipe := { p with sets := sets, activeSet := p.setOf (nch - 1), loaderFree := w.2.2, lastChunk := w.2.1,
                       plan := p.plan ++ runs } } }
    (arows.zip (List.range o.m)).foldl (fun e x => e.matmulRow o x.1 bcols x.2) e

end Sys2Proof.Machine
end

