-- ==== Sys2Proof/Machine/DrainUnit.lean ====
section
/-! DEFINITION. The drain unit (R87 to R92, R192 to R196, R205): ROUND with its fused operations and statistics, EXPORT
and MERGE. -/

namespace Sys2Proof.Machine

open Numbers

/-- TRF offset of the first byte used in row `i` of an operand (R78). -/
def TrfOp.addr (o : TrfOp) (tiles : Tab Word32) (i : Nat) : Nat :=
  let d := tileOf tiles o.tile
  tileBase d + (o.row0 + i).toNat * tilePitch d + o.byte0
/-- TRF offset of scale byte `q` of row `i` (Table 3.4). -/
def TrfOp.scaleAddr (o : TrfOp) (tiles : Tab Word32) (i q : Nat) : Nat :=
  let d := tileOf tiles o.scaleTile
  tileBase d + (o.row0 + i).toNat * tilePitch d + q
/-- Element j of row i of a TRF operand. -/
def CoreSt.trfElem (k : CoreSt) (o : TrfOp) (i j : Nat) : Elem :=
  k.trf.elem 0 (o.addr k.tiles i) j o.fmt (o.scaleAddr k.tiles i (j / 32))
/-- Bits and mark of element j of row i, not interpreted. -/
def CoreSt.trfBits (k : CoreSt) (o : TrfOp) (i j : Nat) : Nat × Bool :=
  k.trf.elemBits 0 (o.addr k.tiles i) j (codeBits o.fmt)
/-- A read of the rows of a TRF operand, for its ECC. -/
def Eff.touchTrfOp (e : Eff) (o : TrfOp) : Eff :=
  (List.range o.rows).foldl (fun e i =>
    let e := e.touchTrf (o.addr e.k.tiles i) o.bytes
    if codeMx o.fmt then e.touchTrf (o.scaleAddr e.k.tiles i 0) (elemsIn o.bytes o.fmt / 32) else e) e

/-- An element to be written: its bits and its poison mark. -/
abbrev OutElem := Nat × Bool
/-- The bytes of a row of elements, least significant bit first; a byte is marked when an element in it is. -/
def packRow (bits : Nat) (els : List OutElem) : List (Byte × Bool) :=
  let v := (els.zip (List.range els.length)).foldl (fun v x => v + x.1.1 * 2 ^ (bits * x.2)) 0
  let n := (els.length * bits + 7) / 8
  (natLe n v).zip ((List.range n).map (fun b =>
    (els.zip (List.range els.length)).any (fun x =>
      x.1.2 && decide (x.2 * bits < 8 * b + 8) && decide (8 * b < x.2 * bits + bits))))

/-- An output rounding: the element written for a value (R30 to R32, R34, R185), and whether it counts as non-finite
(R240: a NaN or infinity written, or saturation). -/
def outElem (f : Fmt) (md : Mode) (v : Val) (poison : Bool) : OutElem × Bool :=
  if poison then ((f.nanCode, true), true)
  else let r := roundTo f md v; ((r.bits, false), r.ovfl || v.isNonFinite)

/-- Records `n` detections and one POISON_CONSUMED occurrence for each poisoned element written (R240, R478). -/
def Eff.wrote (e : Eff) (o : MicroOp) (nf poisoned : Nat) : Eff :=
  let e := e.addNf nf
  (List.range poisoned).foldl (fun e _ => e.raise 0x10 [locus e.id o, wd o.inv]) e

/-- floor(log2 |v|) of a nonzero finite value. -/
def expOf (m : Nat) (x : Int) : Int := (Nat.log2 m : Int) + x
/-- The MX block of a row (R36, R193): scale code and elements; `bad` when a value is non-finite, overflowed or poisoned. -/
def mxBlock (f : Fmt) (vs : List (Val × Mode)) (bad : Bool) : Nat × List Rounded :=
  if bad then (0xFF, vs.map (fun _ => ⟨0, false⟩))
  else
    let top := vs.foldl (fun (t : Option Int) v => match v.1 with
      | .fin _ m x => if m = 0 then t else match t with | none => some (expOf m x) | some y => some (max y (expOf m x))
      | _ => t) none
    let x : Int := match top with | none => 0 | some t => max (-127) (min 127 (t - f.emax))
    ((x + 127).toNat, vs.map (fun v => match v.1 with
      | .fin n m y => roundTo f v.2 (.fin n m (y - x))
      | w => roundTo f v.2 w))

/-- A value recorded in the histogram (R205). -/
def Histogram.record (h : Histogram) (v : Val) (odd : Bool) : Histogram :=
  let bump := fun (h : Histogram) (b : Nat) =>
    let c := h.bins.get 0 b
    { h with bins := h.bins.set b (min (c + 1) (2 ^ 32 - 1)), saturated := h.saturated || decide (c + 1 ≥ 2 ^ 32) }
  let h := { h with recorded := min (h.recorded + 1) (2 ^ 32 - 1) }
  if odd then bump h 63
  else match v with
    | .fin _ 0 _ => bump h 0
    | .fin _ m x =>
      let l := expOf m x
      let h := { h with hi := some (match h.hi with | none => l | some y => max y l),
                        lo := some (match h.lo with | none => l | some y => min y l) }
      bump h (min 62 (max 1 (l + 47))).toNat
    | _ => bump h 63

/-- The fused operation on FP32 bits `x` with aux bits `z` (R194, Table 7.6). -/
def fused (code a x z : Nat) : Nat :=
  let pos := ltVal false (.fin false 0 0) (val32 z)
  match code with
  | 0x01 => fmul a x
  | 0x02 => ffma a x z
  | 0x03 => fmax (ffma a x z) 0
  | 0x04 => Act.gelu.apply (ffma a x z)
  | 0x05 => Act.silu.apply (ffma a x z)
  | 0x06 => ffma a x z
  | 0x07 => fmul x z
  | 0x08 => if (val32 z).isNan then Fmt.nanCode .fp32 else if pos then fmul a x else 0
  | 0x09 => fmul (fmul a x) (Act.gelu'.apply z)
  | _ => fmul (fmul a x) (Act.silu'.apply z)

/-- One value a ROUND passes to output rounding: its exact value, its poison mark, whether it goes to bin 63 of the
statistics (R205), and whether it spoils an MX block (R193: the entry's state counts as well as the fused result). -/
structure RoundVal where
  val : Val
  poison : Bool
  odd : Bool
  spoils : Bool
  deriving DecidableEq, Repr

/-- The value of entry (r, c). -/
def Eff.roundValue (e : Eff) (op : MicroOp) (o : DrainOp) (r c : Nat) : RoundVal × Eff :=
  let (l, e) := e.readLedger o.tile r c
  let d := LedgerOps.drain l
  let e := if d.overflow then e.raise 0x05 [locus e.id op, wd op.inv, wd (o.tile + r * 256 + c * 65536)] else e
  let entryBad := d.poison || d.overflow || d.val.isNonFinite
  if o.fuse = 0 then (⟨d.val, d.poison, entryBad, entryBad⟩, e)
  else
    let (z, zp) : Elem := if fuseAux o.fuse then
        (if o.fuse = 7 then e.k.trfElem o.aux 0 r else e.k.trfElem o.aux (if o.fuse ≥ 6 then r else 0) c)
      else (.fin false 0 0, false)
    let y := val32 (fused o.fuse o.a (fp32 d.val) (fp32 z))
    let p := d.poison || zp
    (⟨y, p, p || y.isNonFinite, entryBad || p || y.isNonFinite⟩, e)

/-- A row's modes and values in column order, the draws taken lane by lane (R33). -/
def Eff.roundRow (e : Eff) (op : MicroOp) (o : DrainOp) (r : Nat) : List (RoundVal × Mode) × Eff :=
  (List.range o.n).foldl (fun (acc : List (RoundVal × Mode) × Eff) c =>
    let (v, e) := acc.2.roundValue op o r c
    let (md, e) := e.mode o.sr (32 * (r % 2) + c)
    (acc.1 ++ [(v, md)], e)) ([], e)

/-- Places a row of a ROUND (R192). Bytes of the TRF row between its last element and bytes_u keep what they hold (DESIGN
CHOICE, log 35). -/
def Eff.placeRow (e : Eff) (o : DrainOp) (r : Nat) (bs : List (Byte × Bool)) (scale : Option (Byte × Bool)) : Eff :=
  if o.toLs then
    let e := e.writeLs (o.lsBase.toNat + r * o.lsStride) bs
    match scale with | some s => e.writeLs (o.lsScale.toNat + r) [s] | none => e
  else
    let e := e.writeTrf (o.trf.addr e.k.tiles r) bs
    match scale with | some s => e.writeTrf (o.trf.scaleAddr e.k.tiles r 0) [s] | none => e

/-- ROUND (R192 to R195, R205). -/
def Eff.round (e : Eff) (op : MicroOp) (o : DrainOp) : Eff :=
  let f := fmtOf o.fmt
  let e := if fuseAux o.fuse then e.touchTrfOp o.aux else e
  let e := e.count 0x064 o.m
  (List.range o.m).foldl (fun e r =>
    let (vs, e) := e.roundRow op o r
    let e := if o.stats then
        let h := vs.foldl (fun h v => h.record v.1.val v.1.odd) e.k.hist
        { e with k := { e.k with hist := h } }
      else e
    if f.isMx then
      let bad := vs.any (fun v => v.1.spoils)
      let mark := vs.any (fun v => v.1.poison)
      let (sc, els) := mxBlock f (vs.map (fun v => (v.1.val, v.2))) bad
      let nf := if bad then 32 else (els.filter (·.ovfl)).length
      let bs := packRow f.bits (els.map (fun x => (x.bits, mark)))
      (e.placeRow o r bs (some (BitVec.ofNat 8 sc, mark))).wrote op nf (if mark then 32 else 0)
    else
      let outs := vs.map (fun v => outElem f v.2 v.1.val v.1.poison)
      (e.placeRow o r (packRow f.bits (outs.map (·.1))) none).wrote op (outs.filter (·.2)).length
        (outs.filter (·.1.2)).length) e

/-- EXPORT (R89): every covered entry in the form of R39, and the row's form_mask. Each slot is one write of 80 bytes, so a
poisoned line that two slots share keeps its poison bit (DESIGN CHOICE, log 32). -/
def Eff.exportImage (e : Eff) (o : DrainOp) : Eff :=
  let e := e.count 0x064 o.m
  (List.range o.m).foldl (fun e r =>
    let row := o.lsBase.toNat + r * o.lsStride
    let (mask, e) := (List.range o.n).foldl (fun (acc : Nat × Eff) c =>
      let (l, e) := acc.2.readLedger o.tile r c
      let f := LedgerOps.toForm l
      (acc.1 + (if LedgerOps.isFull f then 2 ^ c else 0), e.writeLs (row + 64 + 80 * c) (markAll false (LedgerOps.slotBytes f))))
      (0, e)
    e.writeLs row (markAll false (natLe 64 mask))) e

/-- Master identifiers (R442, Table 18.1): kind in [15:12], number in [11:0]. -/
def masterId (kind n : Nat) : Nat := kind * 4096 + n

/-- MERGE (R90): every covered slot of the image combined into its entry. A slot in a poisoned line is POISON and raises no
packed-form event, whatever its seg_index (DESIGN CHOICE, log 33). -/
def Eff.mergeImage (e : Eff) (o : DrainOp) : Eff :=
  (List.range o.m).foldl (fun e r =>
    let row := o.lsBase.toNat + r * o.lsStride
    let e := e.touchLs row 2624
    let headBad := e.k.ls.marked row 4
    let mask := e.k.ls.data.le row 4
    (List.range o.n).foldl (fun e c =>
      let at_ := row + 64 + 80 * c
      let bad := headBad || e.k.ls.marked at_ 80
      let f := LedgerOps.formOf (mask.testBit c) (e.k.ls.bytes at_ 80)
      let e := match f with
        | .packed w => if !bad && !LedgerOps.packedOk w then e.raise 0x07 [wd (masterId 1 e.id), wd (w.toNat % 2 ^ 16)] else e
        | .full _ => e
      let (l0, e) := if o.acc then e.readLedger o.tile r c else (LedgerOps.zero, e)
      let t := if bad then LedgerOps.ofTag .poison else LedgerOps.ofForm f
      { e with k := e.k.setLedger o.tile r c (LedgerOps.combine l0 t) }) e) e

end Sys2Proof.Machine
end

