-- ==== Sys2Proof/Machine/VectorUnit.lean ====
section
/-! DEFINITION. The vector unit (R182 to R189): TILECFG, moves, conversion, transposition, element-wise arithmetic and
the transcendental functions. Rows are handled in ascending order, each source row read before its result is written. -/

namespace Sys2Proof.Machine

open Numbers

/-- The vector fields of a micro-op. -/
def MicroOp.vec (o : MicroOp) : VecOp := vecOp o.word o.slots o.inst

/-- TILECFG (R82). -/
def Eff.tilecfg (e : Eff) (v : VecOp) : Eff :=
  { e with k := { e.k with tiles := e.k.tiles.set (v.auxF 52 48) (tileStored (wField v.s0 31 0)) } }

/-- Counts the rows a vector micro-op issues (VEC_ROWS). -/
def Eff.rows (e : Eff) (n : Nat) : Eff := e.count 0x063 n

/-- MOVE_IN (Table 7.2): bytes and marks unchanged; MX scales go to the scale tile (R509). -/
def Eff.moveIn (e : Eff) (v : VecOp) : Eff :=
  let d := v.dst
  let l := v.moveLs
  let sc := v.moveScales
  (List.range d.rows).foldl (fun e i =>
    let a := l.base.toNat + i * l.stride
    let e := e.touchLs a d.bytes
    let e := e.writeTrf (d.addr e.k.tiles i) (e.k.ls.readMarked a d.bytes)
    if codeMx d.fmt then
      let sa := sc.base.toNat + i * sc.stride
      let e := e.touchLs sa sc.len
      e.writeTrf (d.scaleAddr e.k.tiles i 0) (e.k.ls.readMarked sa sc.len)
    else e) (e.rows d.rows)

/-- MOVE_OUT (Table 7.2). -/
def Eff.moveOut (e : Eff) (v : VecOp) : Eff :=
  let d := v.dst
  let l := v.moveLs
  let sc := v.moveScales
  (List.range d.rows).foldl (fun e i =>
    let a := d.addr e.k.tiles i
    let e := e.touchTrf a d.bytes
    let e := e.writeLs (l.base.toNat + i * l.stride) (e.k.trf.readMarked a d.bytes)
    if codeMx d.fmt then
      let sa := d.scaleAddr e.k.tiles i 0
      let e := e.touchTrf sa sc.len
      e.writeLs (sc.base.toNat + i * sc.stride) (e.k.trf.readMarked sa sc.len)
    else e) (e.rows d.rows)

/-- TRANSPOSE (R187): element (j, i) of the source becomes element (i, j), bits and mark unchanged (log 9). -/
def Eff.transpose (e : Eff) (v : VecOp) : Eff :=
  let d := v.dst
  let s := v.transposeSrc
  let e := e.touchTrfOp s
  let k := e.k
  (List.range d.rows).foldl (fun e i =>
    e.writeTrf (d.addr e.k.tiles i) (packRow (codeBits d.fmt) ((List.range v.e).map (fun j => k.trfBits s j i))))
    (e.rows d.rows)

/-- The rounding modes of a row: one draw for each element from lane j mod 64 (R184) when `sr`. -/
def Eff.rowModes (e : Eff) (sr : Bool) (n : Nat) : List Mode × Eff :=
  (List.range n).foldl (fun (acc : List Mode × Eff) j =>
    let (m, e) := acc.2.mode sr (j % 64)
    (acc.1 ++ [m], e)) ([], e)

/-- Writes row i of results under the destination's scalar format (R183, R185, R240). -/
def Eff.writeRow (e : Eff) (op : MicroOp) (d : TrfOp) (i : Nat) (sr : Bool) (vals : List Elem) : Eff :=
  let f := fmtOf d.fmt
  let (ms, e) := e.rowModes (sr && d.fmt ≠ 0) vals.length
  let outs := (vals.zip ms).map (fun x => outElem f x.2 x.1.1 x.1.2)
  (e.writeTrf (d.addr e.k.tiles i) (packRow f.bits (outs.map (·.1)))).wrote op (outs.filter (·.2)).length
    (outs.filter (·.1.2)).length

/-- A converted MX block: scale code, whether it carries marks, its elements, and how many count as non-finite. -/
structure MxOut where
  scale : Nat
  mark : Bool
  els : List Rounded
  nf : Nat

/-- One block of values with their modes converted (R36, R185, R193). -/
def convertBlock (f : Fmt) (b : List (Elem × Mode)) : MxOut :=
  let bad := b.any (fun x => x.1.2 || x.1.1.isNonFinite)
  let (sc, els) := mxBlock f (b.map (fun x => (x.1.1, x.2))) bad
  ⟨sc, b.any (fun x => x.1.2), els, if bad then 32 else (els.filter (fun x => x.ovfl)).length⟩

/-- CONVERT to an MX format: block by block (R36, R185, R193). -/
def Eff.convertMxRow (e : Eff) (op : MicroOp) (d : TrfOp) (i : Nat) (sr : Bool) (vals : List Elem) : Eff :=
  let f := fmtOf d.fmt
  let (ms, e) := e.rowModes sr vals.length
  let outs := (chunks 32 vals.length (vals.zip ms)).map (convertBlock f)
  let e := e.writeTrf (d.addr e.k.tiles i) (packRow f.bits (outs.flatMap (fun b => b.els.map (fun x => (x.bits, b.mark)))))
  let e := e.writeTrf (d.scaleAddr e.k.tiles i 0) (outs.map (fun b => (BitVec.ofNat 8 b.scale, b.mark)))
  e.wrote op ((outs.map (fun b => b.nf)).foldl (· + ·) 0) (32 * (outs.filter (fun b => b.mark)).length)

/-- CONVERT (R35, R36). -/
def Eff.convert (e : Eff) (op : MicroOp) (v : VecOp) : Eff :=
  let d := v.dst
  let s := v.src v.s1
  (List.range d.rows).foldl (fun e i =>
    let e := e.touchTrf (s.addr e.k.tiles i) s.bytes
    let e := if codeMx s.fmt then e.touchTrf (s.scaleAddr e.k.tiles i 0) ((v.e + 31) / 32) else e
    let vals := (List.range v.e).map (fun j => e.k.trfElem s i j)
    if codeMx d.fmt then e.convertMxRow op d i v.sr vals else e.writeRow op d i v.sr vals) (e.rows d.rows)

/-- Element j of destination row i of a source in a mode (R189). -/
def CoreSt.modeElem (k : CoreSt) (v : VecOp) (w : Word) (md i j : Nat) : Elem :=
  let o := v.modeSrc w md
  match md with
  | 0 => k.trfElem o i j
  | 1 => k.trfElem o 0 j
  | 2 => k.trfElem o 0 i
  | _ => (val32 (wField w 31 0), false)

/-- A function of FP32 bits on elements: sources widened exactly (R35), poison carried (R185). -/
def lift1 (f : Nat → Nat) (a : Elem) : Elem := (val32 (f (fp32 a.1)), a.2)
/-- Two sources. -/
def lift2 (f : Nat → Nat → Nat) (a b : Elem) : Elem := (val32 (f (fp32 a.1) (fp32 b.1)), a.2 || b.2)
/-- Three sources. -/
def lift3 (f : Nat → Nat → Nat → Nat) (a b c : Elem) : Elem :=
  (val32 (f (fp32 a.1) (fp32 b.1) (fp32 c.1)), a.2 || b.2 || c.2)

/-- The element-wise operations of Table 7.2 by number of sources. -/
inductive Arith where
  | un (f : Nat → Nat)
  | bin (f : Nat → Nat → Nat)
  | tern (f : Nat → Nat → Nat → Nat)

/-- An element-wise operation over the destination's rows (R183, R189). -/
def Eff.arith (e : Eff) (op : MicroOp) (v : VecOp) (f : Arith) : Eff :=
  let d := v.dst
  let s := v.src v.s1
  let m1 := v.auxF 49 48
  let m2 := v.auxF 51 50
  let touch := fun (e : Eff) (w : Word) (md : Nat) => if md = 3 then e else e.touchTrfOp (v.modeSrc w md)
  let e := e.touchTrfOp s
  let e := match f with
    | .un _ => e | .bin _ => touch e v.s2 m1 | .tern _ => touch (touch e v.s2 m1) v.s3 m2
  (List.range d.rows).foldl (fun e i =>
    let k := e.k
    let vals := (List.range v.e).map (fun j =>
      let a := k.trfElem s i j
      match f with
      | .un g => lift1 g a
      | .bin g => lift2 g a (k.modeElem v v.s2 m1 i j)
      | .tern g => lift3 g a (k.modeElem v v.s2 m1 i j) (k.modeElem v v.s3 m2 i j))
    e.writeRow op d i v.sr vals) (e.rows d.rows)

end Sys2Proof.Machine
end

