-- ==== Sys2Proof/Machine/ReducerUnit.lean ====
section
/-! DEFINITION. The row reducer (R197 to R204), the statistics flush (R206) and the backward row operations (R213 to
R222). -/

namespace Sys2Proof.Machine

open Numbers

/-- An entry of the row reducer. -/
def CoreSt.red (k : CoreSt) (n : Nat) : Reducer := k.reducer.get {} n
/-- The core with an entry replaced. -/
def Eff.setRed (e : Eff) (n : Nat) (r : Reducer) : Eff := { e with k := { e.k with reducer := e.k.reducer.set n r } }
/-- A count raised, saturating at 2^24 (R197). -/
def satCount (c n : Nat) : Nat := min (c + n) (2 ^ 24)

/-- RCLEAR (R197). -/
def Eff.rclear (e : Eff) (v : VecOp) : Eff :=
  (List.range (wField v.s0 5 0 + 1)).foldl (fun e n => e.setRed (v.e0 + n) {}) e

/-- Extra cycles of a row of terms taken `lanes` a cycle (R199). -/
def reduceExtra (lanes : Nat) (ts : List Ledger) : Nat :=
  ((chunks lanes ts.length ts).map LedgerOps.spreadExtra).foldl (· + ·) 0

/-- Folds a row of terms into an entry (R25, R199). -/
def Eff.fold (e : Eff) (n lanes : Nat) (ts : List Ledger) : Eff :=
  let r := e.k.red n
  (e.setRed n { r with led := ts.foldl LedgerOps.combine r.led, count := satCount r.count ts.length }).count 0x060
    (reduceExtra lanes ts)

/-- Lanes of a row of a source format (R182). -/
def lanesOf (code : Nat) : Nat := if codeBits code ≤ 16 then 128 else 64

/-- RSUM and RSUMSQ (R199): terms are the elements, their squares, or the squares of the elements centred by element j of
the centre row for row j (R198). -/
def Eff.rsum (e : Eff) (v : VecOp) (square : Bool) : Eff :=
  let s := v.dst
  let centre := (trfWord v.s1 v.inst).asSource 1 s.rows
  let e := e.touchTrfOp s
  let e := if square && v.flag then e.touchTrfOp centre else e
  (List.range s.rows).foldl (fun e i =>
    let ts := (List.range v.e).map (fun j =>
      let x := e.k.trfElem s i j
      if square then
        let d : Elem := if v.flag then
            let c := e.k.trfElem centre 0 i
            (val32 (fsub (fp32 x.1) (fp32 c.1)), x.2 || c.2)
          else x
        LedgerOps.product d.2 d.2 d.1 d.1
      else LedgerOps.ofVal x.2 x.1)
    e.fold (v.e0 + i) (lanesOf s.fmt) ts) (e.rows s.rows)

/-- RMAX (R199): elements folded into max; a poisoned element makes it the canonical NaN (log 10). -/
def Eff.rmax (e : Eff) (v : VecOp) : Eff :=
  let s := v.dst
  (List.range s.rows).foldl (fun e i =>
    let r := e.k.red (v.e0 + i)
    let m := (List.range v.e).foldl (fun m j =>
      let x := e.k.trfElem s i j
      fmax m (if x.2 then Fmt.nanCode .fp32 else fp32 x.1)) r.max
    e.setRed (v.e0 + i) { r with max := m }) ((e.touchTrfOp s).rows s.rows)

/-- RDOT (R215). -/
def Eff.rdot (e : Eff) (v : VecOp) : Eff :=
  let s0 := v.dst
  let s1 := v.src v.s1
  (List.range s0.rows).foldl (fun e i =>
    let ts := (List.range v.e).map (fun j =>
      let a := e.k.trfElem s0 i j
      let b := e.k.trfElem s1 i j
      LedgerOps.product a.2 b.2 a.1 b.1)
    e.fold (v.e0 + i) 64 ts) (((e.touchTrfOp s0).touchTrfOp s1).rows s0.rows)

/-- The FP32 bits of MEAN (Table 7.9): the exact ledger value divided by count, rounded once. -/
def meanBits (r : Reducer) : Nat :=
  if r.count = 0 ∨ r.led.tag ≠ .finite ∨ !LedgerOps.inRange r.led then Fmt.nanCode .fp32
  else (roundRat .fp32 .rne (decide (r.led.v.toInt < 0)) r.led.v.toInt.natAbs r.count (-298)).bits

/-- A number as an exact value. -/
def intVal (k : Int) : Val := .fin (decide (k < 0)) k.natAbs 0

/-- The element ROUT writes for an entry, and whether the ledger overflowed (R200). -/
def routElem (kind eps : Nat) (r : Reducer) : Elem × Bool :=
  let d := LedgerOps.drain r.led
  let l := fp32 d.val
  match kind with
  | 0 => ((val32 l, d.poison), d.overflow)
  | 1 => ((val32 (meanBits r), d.poison), d.overflow)
  | 2 => ((val32 (frsqrt (fadd (meanBits r) eps)), d.poison), d.overflow)
  | 3 => ((val32 r.max, false), false)
  | 4 => ((val32 (frecip l), d.poison), d.overflow)
  | _ =>
    let k := if r.refSet then r.k else 0
    ((val32 (fadd (fp32 (intVal k)) (Fn.log2.apply l)), d.poison), d.overflow)

/-- ROUT (R198, R200). -/
def Eff.rout (e : Eff) (op : MicroOp) (v : VecOp) : Eff :=
  let n := v.dst.rows
  let outs := (List.range n).map (fun j => routElem (wField v.s2 2 0) (wField v.s2 63 32) (e.k.red (v.e0 + j)))
  let e := (outs.zip (List.range n)).foldl (fun (e : Eff) x =>
    if x.1.2 then e.raise 0x05 [locus e.id op, wd op.inv, wd (2 ^ 24 + (v.e0 + x.2) * 256)] else e) e
  let els := outs.map (fun x => outElem .fp32 .rne x.1.1 x.1.2)
  let e := e.writeTrf (v.entryRow.addr e.k.tiles 0) (packRow 32 (els.map (·.1)))
  (List.range (els.filter (·.1.2)).length).foldl (fun e _ => e.raise 0x10 [locus e.id op, wd op.inv]) (e.rows 1)

/-- floor of a finite value. -/
def floorVal : Val → Int
  | .fin n m x =>
    let s : Int := if n then -(m : Int) else m
    if x ≥ 0 then s * (2 ^ x.toNat : Nat) else s / ((2 ^ (-x).toNat : Nat) : Int)
  | _ => 0

/-- REDUCE_RANGE, once for a micro-op, with the first entry affected (R201). -/
def Eff.reduceRange (e : Eff) (op : MicroOp) : Option Nat → Eff
  | some n => e.raise 0x0D [locus e.id op, wd op.inv, wd n]
  | none => e

/-- RSETREF (R203). -/
def Eff.rsetref (e : Eff) (op : MicroOp) (v : VecOp) : Eff :=
  let s := v.entryRow
  let e := e.touchTrfOp s
  let (e, hit) := (List.range v.dst.rows).foldl (fun (acc : Eff × Option Nat) j =>
    let (x, p) := acc.1.k.trfElem s 0 j
    let n := v.e0 + j
    let kk := floorVal x
    if p || x.isNonFinite || decide (kk < -32768) || decide (32767 < kk) then (acc.1, acc.2 <|> some n)
    else (acc.1.setRed n { acc.1.k.red n with k := kk, refSet := true }, acc.2)) (e, none)
  (e.rows 1).reduceRange op hit

/-- What a row of SMX_EXP carries on: the core, its entry, the elements written, the terms added (zero for a masked element),
and whether the row was out of range. -/
structure SmxRow where
  e : Eff
  r : Reducer
  outs : List (OutElem × Bool)
  terms : List Ledger
  hit : Bool

/-- The logit scaled by a (R201, step 1). -/
def smxY (a : Nat) (x : Elem) : Nat := fmul (fp32 x.1) a

/-- One element of SMX_EXP (R201, steps 2, 4, 5 and the special values). -/
def SmxRow.element (s : SmxRow) (v : VecOp) (p : TrfOp) (j : Nat) (x : Elem) (masked noRef : Bool) : SmxRow :=
  let f := fmtOf p.fmt
  let (md, e) := s.e.mode v.sr (j % 64)
  if masked then { s with e := e, outs := s.outs ++ [((0, false), false)], terms := s.terms ++ [LedgerOps.zero] }
  else
    let y := smxY (wField v.s2 31 0) x
    let full := decide (s.r.count + 1 > 2 ^ 24)
    let r := { s.r with count := satCount s.r.count 1, max := fmax s.r.max (if x.2 then Fmt.nanCode .fp32 else y) }
    if x.2 then
      let r := { r with led := LedgerOps.combine r.led (LedgerOps.ofTag .poison) }
      { e := e, r := r, outs := s.outs ++ [((f.nanCode, true), true)], terms := s.terms ++ [LedgerOps.ofTag .poison],
        hit := s.hit || full }
    else
      let pv : Val := match val32 y with
        | .nan => .nan
        | .inf n => if n then .fin false 0 0 else .inf false
        | w => if noRef then .fin false 0 0
          else
            let k := floorVal w
            match val32 (fp32 (exp2Of (addVal w (negVal (intVal k))))) with
            | .fin n m q => .fin n m (q + (k - (if r.refSet then r.k else 0)))
            | z => z
      let (o, nf) := outElem f md pv false
      let ovfl := (roundTo f md pv).ovfl && !(val32 y).isNonFinite
      let term := LedgerOps.ofVal false (decode f o.1)
      let r := { r with led := LedgerOps.combine r.led term }
      { e := e, r := r, outs := s.outs ++ [(o, nf)], terms := s.terms ++ [term], hit := s.hit || ovfl || full }

/-- Row i of SMX_EXP: the reference of R201 step 3, then its elements, 16 of them a cycle (Table 7.5, log 40). -/
def Eff.smxRow (e : Eff) (op : MicroOp) (v : VecOp) (s p : TrfOp) (n i : Nat) : Eff × Bool :=
  let ent := v.e0 + i
  let r := e.k.red ent
  let tok0 := wField v.s3 47 24
  let xs := (List.range n).map (fun j => (j, e.k.trfElem s i j,
    v.flag && decide (tok0 + v.inst * n + j > wField v.s3 23 0 + i)))
  let ys := xs.filterMap (fun x => if x.2.2 || x.2.1.2 then none else
    match val32 (smxY (wField v.s2 31 0) x.2.1) with | .fin g m q => some (Val.fin g m q) | _ => none)
  let first := wField v.s3 48 48 = 0
  let top := ys.foldl (fun (t : Option Val) y => match t with
    | none => some y | some w => if ltVal false w y then some y else t) none
  let clamp := fun (k : Int) => max (-32768) (min 32767 k)
  let (r, hit, noRef) : Reducer × Bool × Bool :=
    if r.refSet then (r, false, false)
    else if first then
      (match top with
       | some y => ({ r with k := clamp (floorVal y), refSet := true }, decide (clamp (floorVal y) ≠ floorVal y), false)
       | none => (r, false, true))
    else (r, true, false)
  let z := xs.foldl (fun (z : SmxRow) x => z.element v p x.1 x.2.1 x.2.2 noRef) ⟨e, r, [], [], hit⟩
  let e := (z.e.setRed ent z.r).count 0x060 (reduceExtra 16 z.terms)
  let e := e.writeTrf (p.addr e.k.tiles i) (packRow (codeBits p.fmt) (z.outs.map (·.1)))
  (e.wrote op (z.outs.filter (·.2)).length (z.outs.filter (·.1.2)).length, z.hit)

/-- SMX_EXP (R201). -/
def Eff.smxExp (e : Eff) (op : MicroOp) (v : VecOp) : Eff :=
  let p := trfWord v.s1 v.inst
  let n := elemsIn p.bytes p.fmt
  let s := v.dst.asSource p.rows n
  let (e, hit) := (List.range p.rows).foldl (fun (acc : Eff × Option Nat) i =>
    let (e, h) := acc.1.smxRow op v s p n i
    (e, acc.2 <|> (if h then some (v.e0 + i) else none))) ((e.touchTrfOp s).rows p.rows, none)
  e.reduceRange op hit

/-- The 128-byte image of an entry (Table 7.10). -/
def Reducer.image (r : Reducer) : List Byte :=
  natLe 80 r.led.v.toNat ++ natLe 4 r.max ++ natLe 2 (r.k % 65536).toNat ++
  natLe 1 (LedgerOps.tagCode r.led.tag + (if r.refSet then 8 else 0)) ++ natLe 1 0 ++ natLe 4 r.count ++ natLe 36 0
/-- The entry an image stands for; `bad` when a line of it was delivered with a mark (R204). -/
def Reducer.ofImage (bs : List Byte) (bad : Bool) : Reducer :=
  let f := fun (o n : Nat) => leNat ((bs.drop o).take n)
  let b := f 86 1
  let led : Ledger := match bad, LedgerOps.tagOfCode (b % 8) with
    | false, some .finite => ⟨BitVec.ofNat 640 (f 0 80), .finite, 0⟩
    | false, some t => LedgerOps.ofTag t
    | _, _ => LedgerOps.ofTag .poison
  { led := led, max := f 80 4, k := signedOf 16 (f 84 2), refSet := b.testBit 3, count := min (f 88 4 % 2 ^ 25) (2 ^ 24) }

/-- RMERGE of two entries (R204), and whether their references differ. -/
def Reducer.merge (a b : Reducer) : Reducer × Bool :=
  let clash := a.refSet && b.refSet && decide (a.k ≠ b.k)
  let led := LedgerOps.combine a.led b.led
  ({ led := if clash then LedgerOps.combine led (LedgerOps.ofTag .nan) else led, max := fmax a.max b.max,
     k := if a.refSet then a.k else b.k, refSet := a.refSet || b.refSet, count := satCount a.count b.count }, clash)

/-- RSAVE (R204). -/
def Eff.rsave (e : Eff) (v : VecOp) : Eff :=
  (List.range v.images.rows).foldl (fun e n =>
    e.writeLs (v.images.base.toNat + n * v.images.stride) (markAll false (e.k.red (v.e0 + n)).image)) e
/-- RLOAD and RMERGE (R204). -/
def Eff.rload (e : Eff) (op : MicroOp) (v : VecOp) (merge : Bool) : Eff :=
  let (e, hit) := (List.range v.images.rows).foldl (fun (acc : Eff × Option Nat) n =>
    let a := v.images.base.toNat + n * v.images.stride
    let e := acc.1.touchLs a 128
    let r := Reducer.ofImage (e.k.ls.bytes a 128) (e.k.ls.marked a 128)
    let ent := v.e0 + n
    if merge then
      let (m, clash) := (e.k.red ent).merge r
      (e.setRed ent m, acc.2 <|> (if clash then some ent else none))
    else (e.setRed ent r, acc.2)) (e, none)
  e.reduceRange op hit

/-- A 16-bit signed number as its code. -/
def code16 (x : Int) : Nat := (x % 65536).toNat
/-- The statistics record (Table 7.11). -/
def Histogram.recordBytes (h : Histogram) (tag : Nat) : List Byte :=
  natLe 2 tag ++ natLe 2 (match h.hi with | some x => code16 x | none => 0x8000) ++
  natLe 2 (match h.lo with | some x => code16 x | none => 0x7FFF) ++ natLe 2 (if h.saturated then 1 else 0) ++
  natLe 4 h.recorded ++ natLe 52 0 ++ (List.range 64).flatMap (fun b => natLe 4 (h.bins.get 0 b))
/-- STATS_FLUSH (R206). -/
def Eff.statsFlush (e : Eff) (v : VecOp) : Eff :=
  let e := e.writeLs v.statsRecord.base.toNat (markAll false (e.k.hist.recordBytes (wField v.s1 15 0)))
  { e with k := { e.k with hist := {} } }

/-- SMX_GRAD (R216) and NORM_GRAD (R217). -/
def Eff.gradRows (e : Eff) (op : MicroOp) (v : VecOp) (norm : Bool) : Eff :=
  let d := v.dst
  let a := v.src v.s1
  let b := v.src v.s2
  let st := v.rowStats
  let rms := v.auxF 54 54 = 1
  let e := ((e.touchTrfOp a).touchTrfOp b).touchTrfOp st
  (List.range d.rows).foldl (fun e i =>
    let k := e.k
    let s0 := k.trfElem st 0 i
    let s1 := k.trfElem st 1 i
    let s2 := if norm then k.trfElem st 2 i else (.fin false 0 0, false)
    let vals := (List.range v.e).map (fun j =>
      let x := k.trfElem a i j
      let y := k.trfElem b i j
      let b32 := fun (z : Elem) => fp32 z.1
      if norm then
        let m1 := if rms then 0 else b32 s0
        let u := ffma (fneg (b32 y)) (b32 s1) (fsub (b32 x) m1)
        ((val32 (fmul u (b32 s2)), x.2 || y.2 || (!rms && s0.2) || s1.2 || s2.2) : Elem)
      else
        let u := fsub (b32 y) (b32 s1)
        let w := fmul (b32 x) (b32 s0)
        (val32 (fmul w u), x.2 || y.2 || s0.2 || s1.2))
    e.writeRow op d i v.sr vals) (e.rows d.rows)

/-! ## The Assayer (R219 to R222) -/

/-- An Assayer entry; unlisted ones hold the reset value of R219. -/
def CoreSt.assay (k : CoreSt) (n : Nat) : Word := k.assayer.get 0x0100F1A200000000#64 n
/-- Rank of a format code (Table 8.6). -/
def assayRank (f : Nat) : Nat := match f with | 3 => 0 | 4 => 1 | 2 => 2 | _ => 3
/-- Format code of a rank. -/
def assayFmt (r : Nat) : Nat := match r with | 0 => 3 | 1 => 4 | 2 => 2 | _ => 1
/-- Span in binades of a rank; BF16 always fits. -/
def assaySpan (r : Nat) : Option Int := match r with | 0 => some 15 | 1 => some 30 | 2 => some 30 | _ => none
/-- e_top of a rank. -/
def assayTop (r : Nat) : Int := if r = 0 then 8 else 15

/-- Records merged by ASSAY (R220): bins 1 to 62, the extreme exponents of the used records, and the saturation flag. The
values are those of a merge of no record. -/
structure Merged where
  bins : Tab Nat := []
  hi : Int := -32768
  lo : Int := 32767
  saturated : Bool := false
  deriving DecidableEq, Repr

/-- A record folded into a merge. -/
def Merged.add (m : Merged) (bs : List Byte) : Merged :=
  let f := fun (o n : Nat) => leNat ((bs.drop o).take n)
  let vals := (List.range 62).map (fun i => (i + 1, f (64 + 4 * (i + 1)) 4))
  { bins := vals.foldl (fun t x => if x.2 = 0 then t else t.set x.1 (min (t.get 0 x.1 + x.2) (2 ^ 32 - 1))) m.bins,
    hi := max m.hi (signedOf 16 (f 2 2)), lo := min m.lo (signedOf 16 (f 4 2)), saturated := m.saturated || (f 6 1).testBit 0 }

/-- The selection rule of R221 on an entry word. -/
def assaySelect (w : Word) (m : Merged) : Word :=
  if m.bins.isEmpty then w
  else
    let s := signedOf 8 (wField w 55 48)
    let n := (m.bins.map (·.2)).foldl (· + ·) 0
    let emax := m.hi - s
    let below := fun (e : Int) => ((m.bins.filter (fun b => (b.1 : Int) - 47 - s < e)).map (·.2)).foldl (· + ·) 0
    let tl := wField w 39 36
    let t := if tl = 0 then 0 else n / 2 ^ tl
    -- C is 0 at the exponent of bin 1 and constant above that of bin 62, so the largest e is emax or one of 64 values
    let from62 := min emax (16 - s)
    let elow := if below emax ≤ t then some emax
      else ((List.range 64).map (fun (i : Nat) => from62 - (i : Int))).find? (fun e => decide (below e ≤ t))
    let head : Int := wField w 43 40
    let width := emax - elow.getD emax + 1 + head
    let allow := if wField w 47 44 = 0 then 8 else wField w 47 44
    let fits := fun (r : Nat) => bitOf allow r && (match assaySpan r with | some sp => decide (sp ≥ width) | none => true)
    let ranks := List.range 4
    let cand := match ranks.find? fits with
      | some r => r
      | none => (ranks.reverse.find? (fun r => bitOf allow r)).getD 3
    let sc : Int := if cand = 3 then 0 else max (-128) (min 127 (assayTop cand - head - emax))
    let cur := assayRank (wField w 59 56)
    let same := decide (wField w 27 24 = assayFmt cand) && decide (wField w 23 16 = (sc % 256).toNat) && decide (wField w 31 28 > 0)
    let hold := max 1 (wField w 35 32)
    let widen := decide (cand > cur) || (decide (cand = cur) && decide (sc < s))
    let narrow := decide (cand < cur) || (decide (cand = cur) && decide (sc > s))
    let agree := if widen then 0 else if narrow then (if same then min 15 (wField w 31 28 + 1) else 1) else 0
    let reach := narrow && decide (agree ≥ hold)
    let pinned := wField w 63 63 = 1
    let adopt := (widen || reach) && !pinned
    let v := w.toNat
    let v := putBits v 27 24 (assayFmt cand)
    let v := putBits v 23 16 (sc % 256).toNat
    let v := putBits v 15 8 ((max (-128) (min 127 emax)) % 256).toNat
    let v := putBits v 31 28 (if widen || reach then 0 else agree)
    let v := if adopt then
        putBits (putBits (putBits v 59 56 (assayFmt cand)) 55 48 (sc % 256).toNat) 7 0 (min 255 (wField w 7 0 + 1))
      else v
    wd v

/-- ASSAY (R220, R221). A record in a marked line is merged as its bytes stand. -/
def Eff.assay (e : Eff) (v : VecOp) : Eff :=
  let n := bitsOf v.aux 6 0
  let (e, m) := (List.range v.assayRecords.rows).foldl (fun (acc : Eff × Merged) i =>
    let a := v.assayRecords.base.toNat + i * v.assayRecords.stride
    let e := acc.1.touchLs a 320
    if e.k.ls.data.le a 2 = n then (e, acc.2.add (e.k.ls.bytes a 320)) else (e.count 0x062 1, acc.2)) (e, {})
  let w := assaySelect (e.k.assay n) m
  let e := { e with k := { e.k with assayer := e.k.assayer.set n w } }
  e.writeLs v.assayCopy.base.toNat (markAll false (natLe 8 w.toNat))

/-- ASSAY_SET (R222): the RW fields [63], [59:32] written, agree 0, the other RO fields kept. -/
def Eff.assaySet (e : Eff) (v : VecOp) : Eff :=
  let n := bitsOf v.aux 6 0
  let w := (v.s0 &&& 0x8FFFFFFF00000000#64) ||| (e.k.assay n &&& 0x000000000FFFFFFF#64)
  { e with k := { e.k with assayer := e.k.assayer.set n w } }

end Sys2Proof.Machine
end

