-- ==== Sys2Proof/Machine/UpdateUnit.lean ====
section
/-! DEFINITION. The weight update, the lane-generator operations and SPIKE_CHECK (09_weight_update.md). -/

namespace Sys2Proof.Machine

open Numbers

/-- One output of an update element: its bits, the value as written, and whether it is non-finite or saturated. -/
structure UpdOut where
  out : OutElem
  bits32 : Nat
  nf : Bool

/-- N(x) of R237: an FP32 result narrowed to a stored format. -/
def narrow (code : Nat) (md : Mode) (x : Nat) (poison : Bool) : UpdOut :=
  let f := fmtOf code
  let (o, nf) := outElem f md (val32 x) poison
  ⟨o, fp32 (decode f o.1), nf⟩

/-- What an update does to every element: its operation (0x40 to 0x42), whether it rounds stochastically, and the format codes of W,
m and v. -/
structure UpdRule where
  op : Nat
  sr : Bool
  wFmt : Nat
  mFmt : Nat
  vFmt : Nat
  deriving DecidableEq, Repr
/-- The rule of a micro-op. -/
def VecOp.rule (v : VecOp) : UpdRule := ⟨v.op, v.sr, v.dst.fmt, v.mFmt, v.vFmt⟩

/-- One element of an update (Table 9.5): outputs W', m', v' in the order of the destinations, and the core after its
draws (m', v', W'). -/
def Eff.updElem (e : Eff) (v : UpdRule) (j : Nat) (w m vv g : Elem) (h : Nat → Elem) : List UpdOut × Bool × Eff :=
  let b := fun (x : Elem) => fp32 x.1
  let hb := fun (i : Nat) => b (h i)
  let used := if v.op = 0x40 then [0, 1, 9] else if v.op = 0x41 then [0, 1, 2, 9] else [0, 1, 2, 3, 4, 5, 6, 7, 8, 9]
  let p := w.2 || g.2 || used.any (fun i => (h i).2) || (decide (v.op ≥ 0x41) && m.2) || (v.op = 0x42 && vv.2)
  let gam := fmul (b g) (hb 9)
  let lane := j % 64
  let final := fun (e : Eff) (d : Nat) =>
    let u := ffma (hb 1) (b w) d
    let (md, e) := e.mode v.sr lane
    (narrow v.wFmt md (ffma (fneg (hb 0)) u (b w)) p, e)
  let gBad := g.2 || g.1.isNonFinite
  if v.op = 0x40 then
    let (wo, e) := final e gam
    ([wo], gBad || wo.nf, e)
  else if v.op = 0x41 then
    let (md, e) := e.mode v.sr lane
    let mo := narrow v.mFmt md (ffma (hb 2) (b m) gam) p
    let (wo, e) := final e mo.bits32
    ([wo, mo], gBad || mo.nf || wo.nf, e)
  else
    let (md, e) := e.mode v.sr lane
    let mo := narrow v.mFmt md (ffma (hb 2) (b m) (fmul (hb 3) gam)) p
    let (md, e) := e.mode v.sr lane
    let vo := narrow v.vFmt md (ffma (hb 4) (b vv) (fmul (hb 5) (fmul gam gam))) p
    let d := fmul (fmul mo.bits32 (hb 6)) (frsqrt (fadd (fmul vo.bits32 (hb 7)) (hb 8)))
    let (wo, e) := final e d
    ([wo, mo, vo], gBad || mo.nf || vo.nf || wo.nf, e)

/-- UPD_SGD, UPD_MOMENTUM, UPD_ADAM (R235 to R239): rows ascending, every source row read before the destinations. -/
def Eff.update (e : Eff) (op : MicroOp) (v : VecOp) : Eff :=
  let d := v.dst
  let e := v.updSources.foldl (fun e s => e.touchTrfOp s) e
  (List.range d.rows).foldl (fun e i =>
    let k := e.k
    let src := fun (lo fmt j : Nat) (w : Word) => k.trfElem (v.ref w lo fmt) i j
    let none32 : Elem := (.fin false 0 0, false)
    let acc0 : List (List UpdOut) × Nat × Eff := ([], 0, e)
    let (outs, nf, e) := (List.range v.e).foldl (fun (acc : List (List UpdOut) × Nat × Eff) j =>
      let (os, bad, e) := acc.2.2.updElem v.rule j (src 0 d.fmt j v.s2)
        (if v.op ≥ 0x41 then src 19 v.mFmt j v.s2 else none32) (if v.op = 0x42 then src 38 v.vFmt j v.s2 else none32)
        (src 38 v.gFmt j v.s1) (fun n => k.trfElem v.hyper 0 n)
      (acc.1 ++ [os], acc.2.1 + (if bad then 1 else 0), e)) acc0
    let e := (v.updDests.zip (List.range v.updDests.length)).foldl (fun (e : Eff) x =>
      let els := outs.map (fun os => match os[x.2]? with | some u => u.out | none => (0, false))
      e.writeTrf (x.1.addr e.k.tiles i) (packRow (codeBits x.1.fmt) els)) e
    let poisoned := outs.flatten.filter (fun (u : UpdOut) => u.out.2)
    e.wrote op nf poisoned.length) (e.rows d.rows)

/-- RNG_SEED (R229). -/
def Eff.rngSeed (e : Eff) (v : VecOp) : Eff :=
  { e with k := { e.k with lanes := (List.range 64).foldl (fun t l => t.set l (laneSeed v.s0 v.s1 l)) e.k.lanes } }
/-- RNG_SAVE (R231): s0 then s1 of each lane. -/
def Eff.rngSave (e : Eff) (v : VecOp) : Eff :=
  e.writeLs v.rngImage.base.toNat (markAll false ((List.range 64).flatMap (fun l => natLe 16 (e.k.lane l).toNat)))
/-- RNG_LOAD (R231). -/
def Eff.rngLoad (e : Eff) (v : VecOp) : Eff :=
  let a := v.rngImage.base.toNat
  let e := e.touchLs a 1024
  (List.range 64).foldl (fun e l =>
    let w := e.k.ls.data.le (a + 16 * l) 16
    if e.k.ls.marked (a + 16 * l) 16 then e.raise 0x0E [wd (e.id + l * 65536)]
    else
      let st := if w = 0 then laneSeed 0 0 l else BitVec.ofNat 128 w
      { e with k := { e.k with lanes := e.k.lanes.set l st } }) e

/-- SPIKE_CHECK (R241). -/
def Eff.spikeCheck (e : Eff) (v : VecOp) : Eff :=
  let s := v.dst
  let b := val32 (wField v.s1 31 0)
  let abs := v.auxF 48 48 = 1
  let e := (e.touchTrfOp s).rows s.rows
  let n := ((List.range s.rows).flatMap (fun i => (List.range v.e).map (fun j => e.k.trfElem s i j))).filter
    (fun x => x.2 || x.1.isNan || ltVal false b (if abs then absVal x.1 else x.1))
  e.addSpike n.length

end Sys2Proof.Machine
end

