-- ==== Sys2Proof/Machine/Tally.lean ====
section
/-! DEFINITION. The Tally processor (05_tally_processor.md): registers, the data address map, special words, exceptions
(one shared operation, `tallyExc`, with `eret` beside it), launches and waits. Far accesses leave as requests. -/

namespace Sys2Proof.Machine

/-- A thread of the core. -/
def CoreSt.thread (k : CoreSt) (t : Nat) : Thread := k.threads.get {} t
/-- The core with a thread replaced. -/
def CoreSt.setThread (k : CoreSt) (t : Nat) (th : Thread) : CoreSt := { k with threads := k.threads.set t th }
/-- The core with a thread changed. -/
def Eff.onThread (e : Eff) (t : Nat) (f : Thread → Thread) : Eff := { e with k := e.k.setThread t (f (e.k.thread t)) }

/-- A register; t0 reads 0 (R126). -/
def Thread.reg (th : Thread) (r : Nat) : Word := if r = 0 then 0 else th.regs.get 0 r
/-- A register written; writes to t0 are discarded (R126). -/
def Thread.setReg (th : Thread) (r : Nat) (v : Word) : Thread := if r = 0 then th else { th with regs := th.regs.set r v }

/-- Code of a thread state (Table 5.2). -/
def ThreadState.code : ThreadState → Nat
  | .halted => 0 | .ready => 1 | .waitFar => 2 | .waitNotch => 3 | .waitEvent => 4 | .waitLaunch => 5 | .waitTable => 6

/-- CORE_THREAD_STATE (Table 5.7). -/
def CoreSt.threadWord (k : CoreSt) : Word :=
  wd ((List.range 4).foldl (fun v t =>
    v + (k.thread t).state.code * 2 ^ (3 * t) + (if (k.thread t).handler then 2 ^ (12 + t) else 0)) 0)

/-- Taking an exception (R152 to R154): cause, address and data address recorded; the handler entered, or the thread
halted with thread_exc and TALLY_EXCEPTION. -/
def Eff.tallyExc (e : Eff) (t cause : Nat) (addr : Word) : Eff :=
  let th := e.k.thread t
  let rec_ : Thread := { th with excCause := wd cause, excPc := th.pc, excAddr := addr, wait := none, met := false }
  if th.excVector ≠ 0 ∧ !th.handler then
    e.onThread t (fun _ => { rec_ with pc := th.excVector, handler := true, state := .ready })
  else
    let e := (e.onThread t (fun _ => { rec_ with state := .halted })).setPending 5
    e.raise 0x08 [wd (e.id + t * 2 ^ 16 + cause * 2 ^ 20), th.pc, addr]

/-- The next instruction, after writing a register. -/
def Eff.retire (e : Eff) (t : Nat) (rd : Nat) (v : Word) : Eff :=
  e.onThread t (fun th => { th.setReg rd v with pc := th.pc + 4, state := .ready, wait := none, met := false })
/-- The next instruction, no register written. -/
def Eff.advance (e : Eff) (t : Nat) : Eff := e.onThread t (fun th => { th with pc := th.pc + 4, state := .ready, wait := none, met := false })
/-- A jump, after writing a register. -/
def Eff.jumpTo (e : Eff) (t : Nat) (rd : Nat) (v target : Word) : Eff :=
  e.onThread t (fun th => { th.setReg rd v with pc := target, state := .ready, wait := none, met := false })
/-- The thread waits in a state, its program counter at the waiting instruction (R128, R156). -/
def Eff.park (e : Eff) (t : Nat) (st : ThreadState) : Eff := e.onThread t (fun th => { th with state := st })

/-! ## Data addresses (Table 5.3) -/

/-- Where a data address lies. -/
inductive Place where
  | dmem (o : Nat)
  | ls (o : Nat)
  | desc (o : Nat)
  | tile (n : Nat)
  | far (dva : Nat)
  deriving DecidableEq, Repr

/-- The place of an address; `none` outside Table 5.3. -/
def placeOf (a : Nat) : Option Place :=
  if a < 0x10000 then some (.dmem a)
  else if 0x100000 ≤ a ∧ a < 0x180000 then some (.ls (a - 0x100000))
  else if 0x200000 ≤ a ∧ a < 0x201000 then some (.desc (a - 0x200000))
  else if 0x210000 ≤ a ∧ a < 0x210080 then some (.tile ((a - 0x210000) / 4))
  else if 0x20000000000 ≤ a ∧ a < 0x40000000000 then some (.far (a - 0x20000000000))
  else none

/-- Does the row allow the width (bytes) and direction? -/
def Place.allows (p : Place) (w : Nat) (write : Bool) : Bool :=
  match p with
  | .desc _ => w = 8
  | .tile _ => w = 4 && !write
  | _ => true

/-- The ALIGN and ADDRESS checks of an access (R131, Table 5.9): the place, or the cause. -/
def checkAccess (a : Word) (w : Nat) (write : Bool) : Place ⊕ Nat :=
  if a.toNat % w ≠ 0 then .inr 3
  else match placeOf a.toNat with
    | some p => if p.allows w write then .inl p else .inr 4
    | none => .inr 4

/-- What a load delivers: the bytes as a number and the poison mark. -/
structure Loaded where
  v : Nat
  poison : Bool
  deriving DecidableEq, Repr

/-- A read inside the core (R132, R133, R135), its ECC corrections made. -/
def Eff.readPlace (e : Eff) (p : Place) (w : Nat) : Loaded × Eff :=
  match p with
  | .dmem o =>
    let (st, _) := e.k.dmem.afterRead o w
    let e := { e with k := { e.k with dmem := st } }
    (⟨e.k.dmem.data.le o w, e.k.dmem.marked o w⟩, e)
  | .ls o =>
    let e := e.touchLs o w
    (⟨e.k.ls.data.le o w, e.k.ls.marked o w⟩, e)
  | .desc o => (⟨bitsOf (e.k.descs.get 0 (o / 64)).toNat (8 * (o % 64) + 8 * w - 1) (8 * (o % 64)), false⟩, e)
  | .tile n => (⟨(tileOf e.k.tiles n).toNat, false⟩, e)
  | .far _ => (⟨0, false⟩, e)

/-- The reserved bits of a descriptor word, which read 0 (Table 11.1). -/
def descMask : Nat → Word
  | 0 => 0xFFFFFFFFE007FFFF | 1 => 0x0000FFFFFFFFFFFF | 2 => 0xFFFFFFFFFFFFFFFF | 3 => 0x0FFFFFFFFFFFFFFF
  | 4 => 0x0FFFFF00FFFFFFFF | 5 => 0xFFFFFFFFFFFFFFFF | 6 => 0xFFFFFFFFFFFFFFFF | _ => 0x07FFFFFFFFFFFFFF

/-- A write inside the core (R132, R133, R135). -/
def Eff.writePlace (e : Eff) (p : Place) (w v : Nat) : Eff :=
  match p with
  | .dmem o => { e with k := { e.k with dmem := e.k.dmem.write o (markAll false (natLe w v)) } }
  | .ls o => e.writeLs o (markAll false (natLe w v))
  | .desc o =>
    let q := o % 64 / 8
    let d := (e.k.descs.get 0 (o / 64)).toNat
    let m := (wd v &&& descMask q).toNat
    { e with k := { e.k with descs := e.k.descs.set (o / 64) (BitVec.ofNat 512 (putBits d (64 * q + 63) (64 * q) m)) } }
  | _ => e

/-! ## The far cache (R134): 32 sets of 4 lines, most recently used first -/

/-- The cached line holding a device-virtual address. -/
def CoreSt.farLine (k : CoreSt) (dva : Nat) : Option (BitVec 512) :=
  ((k.farCache.get [] (dva / 64 % 32)).find? (fun l => l.1 = dva / 64)).map (·.2)
/-- The cache after a use of, or an allocation of, a line. -/
def CoreSt.farUse (k : CoreSt) (dva : Nat) (data : BitVec 512) : CoreSt :=
  let set := dva / 64 % 32
  let rest := (k.farCache.get [] set).filter (fun l => l.1 ≠ dva / 64)
  { k with farCache := k.farCache.set set (((dva / 64, data) :: rest).take 4) }
/-- Bytes of a line as a number. -/
def lineBits (d : BitVec 512) (o w : Nat) : Nat := bitsOf d.toNat (8 * o + 8 * w - 1) (8 * o)

/-- A far access that leaves the core (R134). -/
structure FarReq where
  write : Bool
  dva : Nat
  width : Nat
  data : Nat
  deriving DecidableEq, Repr

/-! ## Shadow slots (R138, R139) -/

/-- Performs every shadow write issued before cycle `t - 1`, that is performed before cycle `t`. -/
def CoreSt.performShadow (k : CoreSt) (t : Nat) : CoreSt :=
  let due := k.shadowPend.filter (fun w => w.cycle + 1 < t)
  { k with shadow := due.foldl (fun m w => m.set w.slot w.value) k.shadow,
           shadowPend := k.shadowPend.filter (fun w => !decide (w.cycle + 1 < t)) }

/-! ## Special words (Table 5.7) -/

/-- Does the core's Gauger access permit counter j (R466)? -/
def Gauger.permits (g : Gauger) (j : Nat) : Bool := bitOf (wField g.cfg 63 56) (j / 32)

/-- A special word, or the exception cause. `mirror` gives the word of a counter in MIRROR mode (R465). -/
def CoreSt.special (k : CoreSt) (id t idx : Nat) (mirror : Nat → Option Word) : Word ⊕ Nat :=
  let th := k.thread t
  match idx with
  | 0x000 => .inl (wd t)
  | 0x001 => .inl (wd id)
  | 0x002 => .inl (wd k.cycle)
  | 0x003 => .inl (k.invIssued.setWidth 64)
  | 0x004 => .inl (k.invDone.setWidth 64)
  | 0x005 => .inl (k.invFaults.setWidth 64)
  | 0x006 => .inl (k.invLastFault.setWidth 64)
  | 0x007 => .inl (wd k.queueMode)
  | 0x008 => .inl k.threadWord
  | 0x010 => .inl k.evPending
  | 0x011 => .inl k.mailbox
  | 0x018 => .inl (k.nfCount.setWidth 64)
  | 0x019 => .inl (k.nfLimit.setWidth 64)
  | 0x01A => .inl (k.spikeCount.setWidth 64)
  | 0x01B => .inl (k.spikeLimit.setWidth 64)
  | 0x020 => .inl th.excVector
  | 0x021 => .inl th.excCause
  | 0x022 => .inl th.excPc
  | 0x023 => .inl th.excAddr
  | n =>
    if 0x100 ≤ n ∧ n ≤ 0x1FF then
      let j := n - 0x100
      if k.gauger.permits j then
        .inl (match mirror j with | some w => w | none => (k.gauger.counters.get {} j).word)
      else .inr 5
    else .inr 1

/-- CORE_NF_COUNT written (R150). -/
def CoreSt.writeNf (k : CoreSt) (v : BitVec 48) : CoreSt := (Eff.writeNf ⟨0, k, []⟩ v).k
/-- CORE_SPIKE_COUNT written (R150). -/
def CoreSt.writeSpike (k : CoreSt) (v : BitVec 48) : CoreSt := (Eff.writeSpike ⟨0, k, []⟩ v).k

/-- The core with a special word written; `none` for an absent or read-only word. A CORE_EXC_VECTOR that is not a multiple of
4 is stored as written, and the fetch from it takes ALIGN (DESIGN CHOICE, log 38). -/
def CoreSt.writeSpecial (k : CoreSt) (t idx : Nat) (v : Word) : Option CoreSt :=
  let v48 : BitVec 48 := v.setWidth 48
  match idx with
  | 0x010 => some (k.clearEvents v)
  | 0x018 => some (k.writeNf v48)
  | 0x019 => some { k with nfLimit := v48 }
  | 0x01A => some (k.writeSpike v48)
  | 0x01B => some { k with spikeLimit := v48 }
  | 0x020 => some (k.setThread t { k.thread t with excVector := v })
  | 0x022 => some (k.setThread t { k.thread t with excPc := v })
  | _ => none

/-! ## Instructions -/

/-- The two's complement order. -/
def sless (a b : Word) : Bool := BitVec.slt a b

/-- The register results of the arithmetic REG functions (Table 5.5). -/
def regAlu (f : RegFn) (a b : Word) : Option Word :=
  let sh := b.toNat % 64
  match f with
  | .add => some (a + b) | .sub => some (a - b) | .and => some (a &&& b) | .or => some (a ||| b) | .xor => some (a ^^^ b)
  | .sll => some (a <<< sh) | .srl => some (a >>> sh) | .sra => some (a.sshiftRight sh)
  | .slt => some (if sless a b then 1 else 0) | .sltu => some (if a < b then 1 else 0)
  | .mul => some (a * b) | .mulhu => some (wd (a.toNat * b.toNat / 2 ^ 64))
  | .min => some (if sless b a then b else a) | .max => some (if sless a b then b else a)
  | _ => none

/-- The register results of the arithmetic IMM operations (Table 5.6). -/
def immAlu (o : ImmOp) (a : Word) (v : BitVec 16) : Option Word :=
  let sx : Word := v.signExtend 64
  let zx : Word := v.setWidth 64
  let sh := v.toNat % 64
  match o with
  | .addi => some (a + sx) | .andi => some (a &&& zx) | .ori => some (a ||| zx) | .xori => some (a ^^^ zx)
  | .slli => some (a <<< sh) | .srli => some (a >>> sh) | .srai => some (a.sshiftRight sh)
  | .slti => some (if sless a sx then 1 else 0) | .sltiu => some (if a < sx then 1 else 0)
  | _ => none

/-- Width in bytes of a load, and whether it sign-extends. -/
def loadShape : ImmOp → Option (Nat × Bool)
  | .ld => some (8, false) | .lw => some (4, false) | .lws => some (4, true) | .lh => some (2, false)
  | .lb => some (1, false) | _ => none
/-- A loaded number as the register receives it. -/
def extendLoad (w : Nat) (sx : Bool) (v : Nat) : Word :=
  if sx then (BitVec.ofNat (8 * w) v).signExtend 64 else wd v
/-- Width of a store. -/
def storeWidth : StoreOp → Nat | .sd => 8 | .sw => 4 | .sh => 2 | .sb => 1
/-- The condition of a branch. -/
def branchTaken (o : BranchOp) (a b : Word) : Bool :=
  match o with
  | .beq => a = b | .bne => a ≠ b | .blt => sless a b | .bge => !sless a b | .bltu => decide (a < b)
  | .bgeu => !decide (a < b)
/-- A branch or jump target (R137). -/
def branchTarget (pc : Word) {n : Nat} (off : BitVec n) : Word := pc + off.signExtend 64 * 4

/-- A load delivered: POISON, or the register written (R152, R155). -/
def Eff.finishLoad (e : Eff) (t : Nat) (rd : Fin 32) (a : Word) (w : Nat) (sx : Bool) (l : Loaded) : Eff :=
  if l.poison then e.tallyExc t 6 a else e.retire t rd (extendLoad w sx l.v)

/-- A load (R131 to R135). -/
def Eff.load (e : Eff) (t : Nat) (rd : Fin 32) (a : Word) (w : Nat) (sx : Bool) : Eff × Option FarReq :=
  match checkAccess a w false with
  | .inr c => (e.tallyExc t c a, none)
  | .inl (.far dva) =>
    match e.k.farLine dva with
    | some d =>
      let e := { e with k := e.k.farUse dva d }
      (e.finishLoad t rd a w sx ⟨lineBits d (dva % 64) w, false⟩, none)
    | none => ((e.park t .waitFar).count 0x043 1, some ⟨false, dva, w, 0⟩)
  | .inl p =>
    let (l, e) := e.readPlace p w
    (e.finishLoad t rd a w sx l, none)

/-- Is the Loom without queued invocation and without one being split (R107, R135)? -/
def CoreSt.loomIdle (k : CoreSt) : Bool := k.invQueue.isEmpty && k.splitting.isNone

/-- A store (R131 to R135). -/
def Eff.store (e : Eff) (t : Nat) (a : Word) (w : Nat) (v : Word) : Eff × Option FarReq :=
  match checkAccess a w true with
  | .inr c => (e.tallyExc t c a, none)
  | .inl (.far dva) =>
    if (e.k.thread t).posted ≥ 8 then (e.park t .waitFar, none)
    else
      let n := v.toNat % 2 ^ (8 * w)
      let e := match e.k.farLine dva with
        | some d =>
          let o := dva % 64
          { e with k := e.k.farUse dva (BitVec.ofNat 512 (putBits d.toNat (8 * o + 8 * w - 1) (8 * o) n)) }
        | none => e
      ((e.onThread t (fun th => { th with posted := th.posted + 1 })).advance t, some ⟨true, dva, w, n⟩)
  | .inl (.desc o) => if e.k.loomIdle then ((e.writePlace (.desc o) w v.toNat).advance t, none) else (e.park t .waitTable, none)
  | .inl p => ((e.writePlace p w v.toNat).advance t, none)

/-- launch (R139 to R142). -/
def Eff.launch (e : Eff) (t : Nat) (rd : Fin 32) (d : Word) : Eff :=
  if e.k.invQueue.length ≥ 4 then e.park t .waitLaunch
  else
    let own := e.k.shadowPend.any (fun w => w.thread = t && decide (w.cycle + 1 ≥ e.k.cycle))
    let now := if own then e.k.cycle + 1 else e.k.cycle
    let k := { e.k.performShadow now with cycle := now, lastIssue := now }
    let num := k.invIssued + 1
    let req : InvReq := ⟨num.toNat, wField d 11 0, wField d 28 16, k.shadow⟩
    { e with k := { k with invIssued := num, invQueue := k.invQueue ++ [req] } }.retire t rd (num.setWidth 64)

/-- The REG functions other than the arithmetic ones. `busy` says that a far access of the thread is not yet performed,
`owed` that one is not yet acknowledged. A thread that waits in fence or ffence is in WAIT_FAR, and halt leaves the program counter at the next instruction (DESIGN
CHOICE, log 38). -/
def Eff.regOp (e : Eff) (t : Nat) (f : RegFn) (rd rs1 rs2 : Fin 32) (busy owed : Bool) : Eff :=
  let th := e.k.thread t
  let a := th.reg rs1
  let b := th.reg rs2
  match f with
  | .amoadd =>
    if a.toNat % 8 ≠ 0 then e.tallyExc t 3 a
    else match placeOf a.toNat with
      | some (.dmem o) =>
        let (l, e) := e.readPlace (.dmem o) 8
        if l.poison then e.tallyExc t 6 a
        else (e.writePlace (.dmem o) 8 (wd l.v + b).toNat).retire t rd (wd l.v)
      | _ => e.tallyExc t 4 a
  | .jr => if a.toNat % 4 ≠ 0 then e.tallyExc t 3 0 else e.jumpTo t 0 0 a
  | .jalr => if a.toNat % 4 ≠ 0 then e.tallyExc t 3 0 else e.jumpTo t rd (th.pc + 4) a
  | .slwx => { e with k := { e.k with shadowPend := e.k.shadowPend ++ [ShadowWrite.mk t (b.toNat % 64) a e.k.cycle] } }.advance t
  | .evclr => { e with k := e.k.clearEvents a }.advance t
  | .tstart =>
    let n := b.toNat % 4
    if n ≠ t ∧ (e.k.thread n).state = .halted ∧ a.toNat % 4 = 0 ∧ a.toNat ≤ 0x7FFF then
      (e.onThread n (fun x => { x with pc := a, state := .ready, handler := false })).retire t rd 1
    else e.retire t rd 0
  | .fence => if busy then e.park t .waitFar else e.advance t
  | .ffence =>
    if owed ∨ th.posted > 0 then e.park t .waitFar
    else match th.refused with
      | some x => (e.onThread t (fun y => { y with refused := none })).tallyExc t 5 x
      | none => { e with k := { e.k with farCache := [] } }.advance t
  | .yield => { e with k := { e.k with yielded := some t } }.advance t
  | .halt => e.onThread t (fun x => { x with pc := x.pc + 4, state := .halted })
  | .eret =>
    if !th.handler then e.tallyExc t 1 0
    else if th.excPc.toNat % 4 ≠ 0 then e.tallyExc t 3 0
    else e.onThread t (fun x => { x with pc := x.excPc, handler := false, state := .ready })
  | _ => e

/-- The IMM operations other than arithmetic and loads. -/
def Eff.immOp (e : Eff) (t : Nat) (o : ImmOp) (rd rs1 : Fin 32) (v : BitVec 16) (mirror : Nat → Option Word) : Eff :=
  let th := e.k.thread t
  let a := th.reg rs1
  let n := v.toNat
  match o with
  | .rds => match e.k.special e.id t n mirror with
    | .inl w => e.retire t rd w
    | .inr c => e.tallyExc t c 0
  | .wrs => match e.k.writeSpecial t n a with
    | some k => { e with k := k }.advance t
    | none => e.tallyExc t 1 0
  | .slw => { e with k := { e.k with shadowPend := e.k.shadowPend ++ [ShadowWrite.mk t (n % 64) a e.k.cycle] } }.advance t
  | .slr => e.retire t rd (e.k.shadow.get 0 (n % 64))
  | .nrd => e.retire t rd ((e.k.notch (n % 32)).setWidth 64)
  | .nwait =>
    let x : BitVec 48 := a.setWidth 48
    if th.met || notchReached (e.k.notch (n % 32)) x then e.advance t
    else e.onThread t (fun y => { y with state := .waitNotch, wait := some (n % 32, x) })
  | .nbump => { e with k := e.k.bump (n % 32) (bitsOf n 12 5) }.advance t
  | .launch => e.launch t rd a
  | .evwait =>
    if a = 0 then e.tallyExc t 1 0
    else if e.k.evPending &&& a ≠ 0 then e.retire t rd (e.k.evPending &&& a) else e.park t .waitEvent
  | _ => e

/-- One instruction of a thread (R137), its time already taken. -/
def Eff.tallyOp (e : Eff) (t : Nat) (op : TallyOp) (busy owed : Bool) (mirror : Nat → Option Word) : Eff × Option FarReq :=
  let th := e.k.thread t
  match op with
  | .reg f rd rs1 rs2 => match regAlu f (th.reg rs1) (th.reg rs2) with
    | some v => (e.retire t rd v, none)
    | none => (e.regOp t f rd rs1 rs2 busy owed, none)
  | .imm o rd rs1 v => match immAlu o (th.reg rs1) v, loadShape o with
    | some x, _ => (e.retire t rd x, none)
    | none, some (w, sx) => e.load t rd (th.reg rs1 + v.signExtend 64) w sx
    | none, none => (e.immOp t o rd rs1 v mirror, none)
  | .store o rs2 rs1 v => e.store t (th.reg rs1 + v.signExtend 64) (storeWidth o) (th.reg rs2)
  | .branch o rs1 rs2 off =>
    if branchTaken o (th.reg rs1) (th.reg rs2) then (e.jumpTo t 0 0 (branchTarget th.pc off), none) else (e.advance t, none)
  | .jump link off =>
    (e.jumpTo t (if link then 31 else 0) (th.pc + 4) (branchTarget th.pc off), none)
  | .move keep rd q v =>
    let sh := 16 * q.val
    let x : Word := (v.setWidth 64) <<< sh
    let old := if keep then th.reg rd &&& ~~~((0xFFFF : Word) <<< sh) else 0
    (e.retire t rd (old ||| x), none)

/-! ## Fetch and issue (R127, R130) -/

/-- The fetched word and whether it holds a double-bit error; `none` where the fetch address is not in instruction
memory or not a multiple of 4. -/
def CoreSt.fetch (k : CoreSt) (t : Nat) : Option (BitVec 32 × Bool) :=
  let pc := (k.thread t).pc.toNat
  if pc % 4 = 0 ∧ pc ≤ 0x7FFC then some (BitVec.ofNat 32 (k.imem.data.le pc 4), idxMem k.imem.double (pc / 4)) else none

/-- The exception a fetch itself takes (Table 5.9): ILLEGAL or IMEM_ECC by word, ALIGN or ADDRESS by address. -/
def CoreSt.fetchCause (k : CoreSt) (t : Nat) : Option Nat :=
  match k.fetch t with
  | some (w, bad) => if bad then some 2 else if (tallyDecode w).isNone then some 1 else none
  | none => if (k.thread t).pc.toNat % 4 ≠ 0 then some 3 else some 4

/-- The time of an issue: at least one cycle after the last (R127); due shadow writes performed. A corrected word is written
back, so its error counts once (DESIGN CHOICE, log 38). -/
def Eff.issueTime (e : Eff) (t gap : Nat) : Eff :=
  let now := max (e.k.cycle + gap) (e.k.lastIssue + 1)
  let k := { (e.k.performShadow now) with cycle := now, lastIssue := now, lastThread := t, yielded := none }
  let w := (k.thread t).pc.toNat / 4
  let single := idxMem k.imem.single w
  let k := { k with imem := { k.imem with single := idxDel k.imem.single w } }
  ({ e with k := k }.count 0x042 1).count 0x041 (if single then 1 else 0)

/-- Is a thread ready for the round robin: READY, or a launcher that the invocation queue now has room for (R127, R141)? -/
def CoreSt.wants (k : CoreSt) (t : Nat) : Bool :=
  (k.thread t).state = .ready || ((k.thread t).state = .waitLaunch && decide (k.invQueue.length < 4))
/-- Is it the thread's turn: the first ready one after the thread that issued last (R127, log 29)? -/
def CoreSt.turn (k : CoreSt) (t : Nat) : Bool :=
  ((List.range 4).map (fun i => (k.lastThread + 1 + i) % 4)).find? k.wants = some t

/-- May a thread issue now: READY, the core not frozen, its turn, and not just yielded while another thread is READY (Table
5.5)? -/
def CoreSt.mayIssue (k : CoreSt) (t : Nat) : Bool :=
  !k.frozen && (k.thread t).state = .ready && k.turn t &&
  !(k.yielded = some t && (List.range 4).any (fun u => u ≠ t && (k.thread u).state = .ready))

/-- A thread issues the instruction `op`, if it may and that is the instruction it fetches. -/
def Eff.tallyIssue (e : Eff) (t gap : Nat) (op : TallyOp) (busy owed : Bool) (mirror : Nat → Option Word) :
    Eff × Option FarReq :=
  match e.k.fetch t with
  | some (w, bad) =>
    if e.k.mayIssue t && !bad && tallyDecode w = some op then (e.issueTime t gap).tallyOp t op busy owed mirror else (e, none)
  | none => (e, none)

/-- A thread whose fetch is refused takes that exception, if its cause is one of `causes` (R152). -/
def Eff.fetchExc (e : Eff) (t gap : Nat) (causes : List Nat) : Eff :=
  match e.k.fetchCause t with
  | some c => if e.k.mayIssue t && causes.contains c then (e.issueTime t gap).tallyExc t c 0 else e
  | none => e

/-- May a waiting thread be tried again (R128)? A far load leaves WAIT_FAR only by its response, and launchers enter the
queue in turn (R141). -/
def CoreSt.mayWake (k : CoreSt) (t : Nat) (op : TallyOp) : Bool :=
  !k.frozen && (match (k.thread t).state with
    | .waitNotch | .waitEvent | .waitTable => true
    | .waitLaunch => decide (k.invQueue.length ≥ 4) || k.turn t
    | .waitFar => (match op with | .imm .. => false | _ => true)
    | _ => false)

/-- A waiting thread tries its instruction again: it goes on, or goes on waiting. -/
def Eff.tallyWake (e : Eff) (t gap : Nat) (busy owed : Bool) (mirror : Nat → Option Word) : Eff × Option FarReq :=
  match e.k.fetch t with
  | some (w, _) => match tallyDecode w with
    | some op => if e.k.mayWake t op then
        let now := max (e.k.cycle + gap) (e.k.lastIssue + 1)
        let k := { (e.k.performShadow now) with
          cycle := now, lastIssue := now, lastThread := if e.k.wants t then t else e.k.lastThread }
        { e with k := k }.tallyOp t op busy owed mirror
      else (e, none)
    | none => (e, none)
  | none => (e, none)

/-- The answer to a far read (R134): ACCESS when refused, POISON when marked, or the line allocated and the load done. -/
def Eff.farAnswer (e : Eff) (t : Nat) (refused : Bool) (data : BitVec 512) (poison : Bool) : Eff :=
  match e.k.fetch t with
  | some (w, _) => match tallyDecode w with
    | some (.imm o rd rs1 v) => match loadShape o with
      | some (n, sx) =>
        let a := (e.k.thread t).reg rs1 + v.signExtend 64
        let dva := a.toNat - 0x20000000000
        if refused then e.tallyExc t 5 a
        else if poison then e.tallyExc t 6 a
        else
          let e := { e with k := e.k.farUse dva data }
          e.finishLoad t rd a n sx ⟨lineBits data (dva % 64) n, false⟩
      | none => e
    | _ => e
  | none => e

end Sys2Proof.Machine
end

