-- ==== Sys2Proof/Machine/Windows.lean ====
section
/-! DEFINITION. Receive windows, arrivals and the stalemate detector (06_notches_and_ordering.md). -/

namespace Sys2Proof.Machine

/-- Has a window its bytes, and no earlier instance of its word still pending (R167)? -/
def CoreSt.windowReady (k : CoreSt) (w : Window) : Bool :=
  decide (w.got ≥ w.expect) &&
  !k.windows.any (fun x => x.2.op.inv = w.op.inv && x.2.op.idx = w.op.idx && decide (x.2.op.inst < w.op.inst))
/-- Completes windows that are ready, at most `n` of them: bump, region released, entry freed (R167). -/
def Eff.completeWindows : Nat → Eff → Eff
  | 0, e => e
  | n + 1, e =>
    match e.k.windows.find? (fun x => e.k.windowReady x.2) with
    | some (i, w) => Eff.completeWindows n (({ e with k := { e.k with windows := e.k.windows.erase i } } : Eff).opDone w.op true)
    | none => e

/-- The lowest free entry of the window table (R165). -/
def CoreSt.freeWindow (k : CoreSt) : Option Nat := (List.range 32).find? (fun i => (k.windows.find i).isNone)

/-- A POST_WINDOW enters its window (R165, R167). -/
def Eff.enterWindow (e : Eff) (o : MicroOp) (i : Nat) : Eff :=
  let d := streamOf o.desc o.slots (cwField o.word 38 33) o.inst
  let (lo, hi) := match d.hull with | .ls a b :: _ => (a, b) | _ => (1, 0)
  let k := e.k.setQueue .inbound ((e.k.queue .inbound).drop 1)
  let k := { k with windows := k.windows.set i ⟨o, lo, hi, d.windowBytes, 0, false, false, k.cycle⟩ }
  Eff.completeWindows 33 { e with k := k }

/-- The head of the inbound Carter's queue is a POST_WINDOW that may begin and finds a free entry (R165). -/
def Eff.postWindow (e : Eff) (gap : Nat) : Eff :=
  match e.k.queue .inbound with
  | o :: _ =>
    match e.k.freeWindow with
    | some i =>
      if !o.marker && ciOp o.word = some .postWindow && e.k.mayBegin o then
        { e with k := { e.k with cycle := (e.k.cycle + gap) % 2 ^ 64 } }.enterWindow o i
      else e
    | none => e
  | [] => e

/-- Counts one arrival byte: against the window it falls in, or as a stray (R166, R168, R169). A frozen core counts
none (R179). `now` is the core cycle. -/
def countByte (frozen : Bool) (now : Nat) (ws : Tab Window) (a : Nat) : Tab Window × Bool :=
  match ws.find? (fun x => decide (x.2.lo ≤ a) && decide (a ≤ x.2.hi) && decide (x.2.got < x.2.expect)) with
  | some (i, w) => if frozen then (ws, true) else (ws.set i { w with got := w.got + 1, since := now }, false)
  | none => (ws, true)

/-- Counts the bytes of an arrival; the strays and the first of them. -/
def countBytes (frozen : Bool) (now : Nat) : List Nat → Tab Window → Nat → Option Nat → Tab Window × Nat × Option Nat
  | [], ws, n, f => (ws, n, f)
  | a :: as, ws, n, f =>
    let (ws, stray) := countByte frozen now ws a
    if stray then countBytes frozen now as ws (n + 1) (f <|> some a) else countBytes frozen now as ws n f

/-- An arrival: bytes written at `a` by master `m`, counted, and the windows it fills completed (R166 to R171). -/
def Eff.arrive (e : Eff) (m a : Nat) (bs : List (Byte × Bool)) : Eff :=
  if bs.isEmpty then e
  else
    let e := (e.writeLs a bs).count 0x059 bs.length
    let (ws, n, f) := countBytes e.k.frozen e.k.cycle ((List.range bs.length).map (fun i => a + i)) e.k.windows 0 none
    let e := { e with k := { e.k with windows := ws } }.count 0x051 n
    let e := match f with
      | some x => e.raise 0x0B [wd (e.id + m * 65536), wd x]
      | none => e
    Eff.completeWindows 33 e

/-- The runs of consecutive masked bytes of a block: offset and bytes. -/
def maskRuns (mask : Nat) (data : BitVec 512) (mark : Bool) : List (Nat × List (Byte × Bool)) :=
  let step := fun (acc : List (Nat × List (Byte × Bool))) (i : Nat) =>
    if !mask.testBit i then acc
    else
      let b : Byte × Bool := (data.extractLsb' (8 * i) 8, mark)
      match acc with
      | (o, l) :: t => if o + l.length = i then (o, l ++ [b]) :: t else (i, [b]) :: acc
      | [] => [(i, [b])]
  ((List.range 64).foldl step []).reverse
/-- A masked block arriving at a local-store line. -/
def Eff.arriveBlock (e : Eff) (m line mask : Nat) (data : BitVec 512) (mark : Bool) : Eff :=
  (maskRuns mask data mark).foldl (fun e r => e.arrive m (64 * line + r.1) r.2) e

/-- The cycles after which a window without a byte is idle: 2^k, k at most 40; none when the check is off (R172, Table 6.4). -/
def CoreSt.idleAfter (k : CoreSt) : Option Nat :=
  let x := bitsOf k.stalemateCfg.toNat 13 8
  if x = 0 then none else some (2 ^ min x 40)
/-- Has the window received no byte for that long, `gap` cycles after the core's last step? -/
def CoreSt.windowQuiet (k : CoreSt) (w : Window) (gap : Nat) : Bool :=
  match k.idleAfter with | some n => decide (n ≤ (k.cycle - w.since) + gap) | none => false
/-- WINDOW_IDLE, once for a window (R172). -/
def Eff.windowIdle (e : Eff) (i gap : Nat) : Eff :=
  match e.k.windows.find i with
  | some w =>
    if w.idleSaid ∨ !e.k.windowQuiet w gap then e
    else
      let e := { e with k := { e.k with cycle := (e.k.cycle + gap) % 2 ^ 64 } }
      let e := { e with k := { e.k with windows := e.k.windows.set i { w with idleSaid := true } } }
      e.raise 0x0A [wd (e.id + i * 2 ^ 16), wd (w.lo + w.hi * 2 ^ 32), wd w.got]
  | none => e

/-! ## Stalemate (R177 to R179) -/

/-- What a participant does (R177): idle, progressing, or waiting with its kind, notch, expected value, control word and
invocation (Tables 6.5, 6.7). -/
inductive Activity where
  | idle
  | progressing
  | waiting (kind notch expected cw inv : Nat)
  deriving DecidableEq, Repr

/-- The unmet wait with the lowest notch number. -/
def CoreSt.unmetWait (k : CoreSt) (o : MicroOp) : Option (Nat × Nat) :=
  (o.waits.filter (fun w => !k.waitMet o w)).foldl (fun b w => match b with
    | none => some w
    | some x => if w.1 < x.1 then some w else some x) none

/-- Activity of an engine. -/
def CoreSt.engineActivity (k : CoreSt) (g : Engine) : Activity :=
  match k.queue g, (k.active g).isEmpty with
  | [], true => .idle
  | _, false => .progressing
  | o :: _, true =>
    match k.unmetWait o with
    | some (n, x) => .waiting 1 n x o.idx o.inv
    | none =>
      if o.marker then .progressing
      else if k.held o.uid then .waiting 2 0 0 o.idx o.inv
      else if k.drawHeld o then .waiting 6 0 0 o.idx o.inv
      else .progressing
/-- Activity of the Loom. -/
def CoreSt.loomActivity (k : CoreSt) : Activity :=
  match k.splitting with
  | some ⟨r, _, some x⟩ =>
    let es := instanceEntries r x k.nextUid
    if !k.queueRoom es ∨ !k.boardRoom es then .waiting 3 0 0 0 r.num else .progressing
  | some _ => .progressing
  | none => if k.invQueue.isEmpty then .idle else .progressing
/-- Activity of a thread. -/
def CoreSt.threadActivity (k : CoreSt) (t : Nat) : Activity :=
  let th := k.thread t
  match th.state with
  | .halted | .waitEvent => .idle
  | .waitNotch => match th.wait with
    | some (n, x) => .waiting 1 n x.toNat 0 th.pc.toNat
    | none => .progressing
  | .waitLaunch => .waiting 4 0 0 0 th.pc.toNat
  | .waitTable => .waiting 5 0 0 0 th.pc.toNat
  | .ready | .waitFar => .progressing
/-- The participants with their codes (Table 6.6), in ascending code. -/
def CoreSt.participants (k : CoreSt) : List (Nat × Activity) :=
  Engine.all.map (fun g => (g.code, k.engineActivity g)) ++ [(5, k.loomActivity)] ++
  (List.range 4).map (fun t => (8 + t, k.threadActivity t))

/-- The waiting participants. -/
def CoreSt.waiters (k : CoreSt) : List (Nat × Activity) :=
  k.participants.filter (fun p => match p.2 with | .waiting .. => true | _ => false)
/-- The conditions of R178 other than time. -/
def CoreSt.stalemate (k : CoreSt) : Bool :=
  !k.frozen && !k.waiters.isEmpty && !k.participants.any (fun p => p.2 = .progressing) && k.windows.isEmpty
/-- The two words of a record entry (Table 6.5). -/
def entryWords (p : Nat × Activity) : List Word :=
  match p.2 with
  | .waiting kind n x cw inv => [wd (p.1 * 2 ^ 60 + kind * 2 ^ 56 + n * 2 ^ 51 + x), wd (cw * 2 ^ 52 + inv % 2 ^ 48)]
  | _ => []
/-- STALEMATE_WINDOW (Table 6.4): 2^window_log2 cycles, window_log2 brought between 10 and 40. -/
def CoreSt.stalemateCycles (k : CoreSt) : Nat := 2 ^ max 10 (min 40 (bitsOf k.stalemateCfg.toNat 5 0))
/-- STALEMATE_FREEZE (R178, R179), when the detector's count reaches its window: the core freezes and raises its record. -/
def Eff.freeze (e : Eff) (gap : Nat) : Eff :=
  if e.k.stalemate ∧ e.k.stalemateCycles ≤ e.k.calm + gap then
    let cyc := (e.k.cycle + gap) % 2 ^ 64
    let ws := e.k.waiters
    let w0 := wd (e.id * 2 ^ 54 + ws.length * 2 ^ 50 + cyc % 2 ^ 48)
    { e with k := { e.k with frozen := true, cycle := cyc } }.raise 0x09 (w0 :: ws.flatMap entryWords)
  else e

/-- CORE_RECOVER's work on the core (R479). -/
def Eff.recover (e : Eff) : Eff :=
  let k := e.k
  let queued := k.invQueue.map (fun r => Flight.mk r.num 0 true true false false)
  let ended := (k.flights.map (fun f => { f with left := 0, split := true, fault := true, first := false, drains := false })) ++ queued
  let lowest := match ended with | f :: _ => BitVec.ofNat 48 f.num | [] => k.invLastFault
  let k := { k with queues := [], running := [], invQueue := [], splitting := none, scoreboard := [], windows := [],
                    flights := ended, frozen := false, splitTiles := k.tiles, met := [], calm := 0,
                    pipe := { k.pipe with plan := [] } }
  let k := (List.range 4).foldl (fun k t =>
    let th := k.thread t
    match th.state with
    | .waitNotch | .waitLaunch | .waitTable => k.setThread t { th with state := .halted, wait := none, met := false }
    | _ => k) k
  let e := ({ e with k := k } : Eff).settle
  { e with k := { e.k with invLastFault := if ended.isEmpty then e.k.invLastFault else lowest } }

end Sys2Proof.Machine
end

