-- ==== Sys2Proof/Machine/Elapse.lean ====
section
/-! DEFINITION. The passing of core-island cycles: a step that takes `gap` cycles leaves the core as it was for those cycles,
and each of them counts for every wait then in force (R64, R120, R124, R139, R165, R461). -/

namespace Sys2Proof.Machine

/-- Does a scoreboard entry hold a ledger tile that a later one writes (R59)? -/
def SbEntry.holdsLedger (y x : SbEntry) : Bool :=
  x.writes.any (fun r => match r with
    | .ledger t => y.reads.contains (.ledger t) || y.writes.contains (.ledger t)
    | _ => false)
/-- Is the head of an engine's queue held by the scoreboard, its notch waits met (R124)? It counts as waiting also while an
earlier micro-op of the engine is in progress (DESIGN CHOICE, log 37). -/
def CoreSt.boardWait (k : CoreSt) (g : Engine) : Bool :=
  match k.queue g with
  | o :: _ => !k.frozen && k.waitsMet o && k.held o.uid
  | [] => false
/-- Does the array's head wait for its ledger tile (R59)? -/
def CoreSt.ledgerWait (k : CoreSt) : Bool :=
  match k.queue .array with
  | o :: _ => k.boardWait .array && (match k.scoreboard.find? (fun x => x.uid = o.uid) with
    | some x => k.scoreboard.any (fun y => decide (y.uid < o.uid) && !y.matmul && y.holdsLedger x)
    | none => false)
  | [] => false
/-- Does a POST_WINDOW that could begin find no free window entry (R165)? -/
def CoreSt.windowWait (k : CoreSt) : Bool :=
  match k.queue .inbound with
  | o :: _ => !o.marker && ciOp o.word = some .postWindow && k.mayBegin o && k.freeWindow.isNone
  | [] => false
/-- What the Loom waits for (R120): LOOM_QUEUE_STALL before LOOM_SCOREBOARD_STALL. -/
def CoreSt.loomWait (k : CoreSt) : Option Nat :=
  match k.splitting with
  | some ⟨r, _, some x⟩ =>
    let es := instanceEntries r x k.nextUid
    if k.frozen then none else if !k.queueRoom es then some 0x030 else if !k.boardRoom es then some 0x031 else none
  | _ => none
/-- The events of Table 19.3 that each cycle counts once while the core stays as it is. -/
def CoreSt.waitEvents (k : CoreSt) : List Nat :=
  [0x001] ++ k.loomWait.toList ++ (Engine.all.filter k.boardWait).map (fun g => 0x032 + g.code) ++
  ((List.range 4).filter (fun t => (k.thread t).state = .waitLaunch)).map (fun _ => 0x040) ++
  (if k.windowWait then [0x050] else [])

/-- Cycles that have passed between two readings of CORE_CYCLE. -/
def cyclesFrom (a b : Nat) : Nat := (b + (2 ^ 64 - a % 2 ^ 64)) % 2 ^ 64

/-- The waits whose number of cycles the requests of a bank, of the TRF or of the transposer settle (R69, R75, R191). -/
def CoreSt.portEvents (k : CoreSt) : List Nat :=
  [0x020] ++ (if (k.active .vector).isEmpty && (k.active .drain).isEmpty then [] else [0x025]) ++
  (if (k.active .array).isEmpty || (k.active .vector).isEmpty then [] else [0x061])
/-- Of `n` array cycles beyond its plan, with a micro-op begun: waits for a stationary set, then for a row in its feeding
mode (R49, R53, R54), the rest as Table 2.9 orders them. -/
def CoreSt.arrayRest (k : CoreSt) (id n : Nat) : List (Nat × Nat) :=
  let rest := if k.ledgerWait then 0x016 else 0x017
  match k.active .array with
  | [] => [(rest, n)]
  | r :: _ =>
    let feed := if (arrayOp r.op.word r.op.slots r.op.inst).skewed then 0x015 else 0x014
    let a := min n (Config.portWaits id k.cycle n 0x013)
    let b := min (n - a) (Config.portWaits id k.cycle n feed)
    [(0x013, a), (feed, b), (rest, n - a - b)]

/-- Counts the cycles that a step took, `k` being the core before it and `fabric` the waits of its fabric side: each cycle
counts as one event of the array (R64), the waits in force count in each of them, and the stalemate detector goes on (R178). -/
def Eff.elapsed (e : Eff) (k : CoreSt) (fabric : List Nat) : Eff :=
  let n := cyclesFrom k.cycle e.k.cycle
  if n = 0 then e
  else
    let plan := passPlan n k.pipe.plan
    let next := (e.k.queue .array).head?.map (·.uid) = (k.queue .array).head?.map (·.uid)
    let pipe := if next then { e.k.pipe with sets := k.sideLoad.sets, loaderFree := k.sideLoad.loaderFree } else e.k.pipe
    let e := { e with k := { e.k with
      pipe := { pipe with plan := plan.2 ++ e.k.pipe.plan.drop k.pipe.plan.length },
      calm := if k.stalemate then e.k.calm + n else 0 } }
    let charge := fun (e : Eff) (o : Option Nat) => { e with k := { e.k with gauger := { e.k.gauger with charged := o } } }
    let e := charge e ((k.active .array).head?.map (·.op.inv))
    let e := charge (plan.1.foldl (fun (e : Eff) x => e.count x.event x.cycles) e) none
    let e := (k.arrayRest e.id (n - planCycles plan.1)).foldl (fun (e : Eff) x => e.count x.1 x.2) e
    let e := (k.waitEvents ++ fabric).foldl (fun (e : Eff) ev => e.count ev n) e
    k.portEvents.foldl (fun (e : Eff) ev => e.count ev (Config.portWaits e.id k.cycle n ev)) e

end Sys2Proof.Machine
end

