-- ==== Sys2Proof/Machine/FabricState.lean ====
section
/-! DEFINITION. The state of the guild fabric, the memory tiers and the Draymen (chapters 10 to 12) as plain data:
accesses on their way, placement caches, Drayman queues, multicast bursts, row buffers. -/

namespace Sys2Proof.Machine

/-- The unit that issued an access (R174); `lib` is the collective library running on a core (R350). -/
inductive Src where
  | inbound (core : Nat)
  | outbound (core : Nat)
  | drayman (guild : Nat)
  | tally (core thread : Nat)
  | gauger (core : Nat)
  | host
  | peer (link : Nat)
  | adder (guild : Nat)
  | house
  | lib (core : Nat)
  deriving DecidableEq, Repr

/-- Where a translated access goes (Tables 10.1, 10.4): a place of the tiers, host memory, a peer, a core's local store, the
landing buffer of a guild (R316) on its way to several cores, or the ledger adders of a guild (R319). -/
inductive Loc where
  | shale (stack addr : Nat)
  | bedrock (ctl addr : Nat)
  | host (addr : Nat)
  | peer (id addr : Nat)
  | ls (core off : Nat)
  | landing (guild off : Nat)
  | adder (guild off : Nat)
  deriving DecidableEq, Repr

/-- What an access names: a block of the device-virtual space, a core's local store, or an offset in the local stores of the
targets of a set. -/
inductive Target where
  | dva (addr : Nat)
  | core (id off : Nat)
  | set (n off : Nat)
  deriving DecidableEq, Repr

/-- An internal hop (R256): the port of a guild's crossbar that a block crosses, leaving it or entering it, the channel of the
bridge (unit 0x20), or a Bedrock controller's side of its edge port (units 0x60 and up). -/
structure Hop where
  unit : Nat
  port : Nat
  leaving : Bool
  deriving DecidableEq, Repr

/-- A piece of a burst: a write at an offset in each target's local store, or a slot with its form and mark. -/
inductive Flit where
  | bytes (off : Nat) (bs : List (Byte × Bool))
  | header (off n : Nat) (mask : Nat) (mark : Bool)
  | slot (off c : Nat) (form : LedgerOps.Form) (mark : Bool)
  deriving DecidableEq, Repr

/-- How far an access has come: waiting for a tag (R289), waiting for the placement walker (R252), held by a frozen page
(R255), sent towards its target, or performed or refused there (code 0, or a reason of Table 10.5, or 0x8 for LINK_LOST), or delivered and waiting
for the rest of its stream. -/
inductive Phase where
  | waiting
  | walking
  | held
  | sent (loc : Loc)
  | done (code : Nat)
  | landed
  deriving DecidableEq, Repr

/-- One access of one block (R245). A write carries `runs`: offsets from its address and their bytes with marks. A read
carries where its bytes go: `first` byte of the block, `len` bytes, to local (or dense) position `spot`; `data` and
`poison` are what the target delivered. `owner` is the micro-op or descriptor it belongs to, `checked` that its access table has been consulted (R443), `malformed` that it
names its target with a nonzero bit shown as 0 (R246), `after`
the accesses that must have ended before it is issued, `issue` its place in the order of issue (R291). `path` is the internal
hops still to cross, towards the target or, once performed, back to the issuer; `entered` its age at the crossbar it waits in
(R307); `checkFails` its failed deliveries on the next hop (R257). The flits of an image row or burst share `packet` (not 0),
numbered by `part` (R307); `flits` are the slots or header such a flit carries (R310), `second` marks the one that carries bytes
64 to 79 of a full slot, `source` that its micro-op waits only for its reads; `copies` are the target cores it still has to be copied to (R316), or for a
`reduce` burst the guilds whose adders take it, `landing` the landing-buffer flit it
was copied from, `link` the link port by which a peer is reached. -/
structure Txn where
  id : Nat
  src : Src
  owner : Nat
  master : Nat
  cls : Nat
  write : Bool
  target : Target
  runs : List (Nat × List (Byte × Bool)) := []
  first : Nat := 0
  len : Nat := 0
  spot : Nat := 0
  skew : Nat := 0
  pmem : Bool := false
  data : BitVec 512 := 0
  poison : Bool := false
  checkFails : Nat := 0
  hot : Bool := false
  checked : Bool := false
  malformed : Bool := false
  after : List Nat := []
  issue : Nat := 0
  path : List Hop := []
  entered : Nat := 0
  packet : Nat := 0
  part : Nat := 0
  flits : List Flit := []
  second : Bool := false
  source : Bool := false
  reduce : Bool := false
  copies : List Nat := []
  landing : Nat := 0
  link : Nat := 0
  phase : Phase := .waiting
  deriving DecidableEq, Repr

/-- A descriptor in a Drayman's queue (R292): its core and micro-op, whether a FENCE, whether on a channel, the accesses
left, the blocks written and written poisoned (as destination space and block address), and whether its token is sent
(R295). -/
structure DrayDesc where
  id : Nat
  core : Nat
  op : MicroOp
  fence : Bool
  stream : Stream
  onChannel : Bool := false
  readsLeft : Nat := 0
  writesLeft : Nat := 0
  copied : List (Nat × Nat) := []
  poisoned : List (Nat × Nat) := []
  token : Bool := false
  tokenSent : Bool := false
  deriving DecidableEq, Repr

/-- A placement cache as a list of (page, entry), most recently used first (R252). -/
abbrev PtCache := List (Nat × Word)

/-- A multicast burst (R315): its sender, set and micro-op, the flits it
carries (each with its pieces, and whether it is the second of a full slot), the targets whose access table refused it (R445),
the guilds whose grant it holds, the guild
asked now and since when, and the guild whose grant is on its way. -/
structure Burst where
  id : Nat
  core : Nat
  op : MicroOp
  set : Nat
  cls : Nat
  reduce : Bool
  rowOff : Nat
  slots : Nat
  flits : List (List Flit × Bool)
  begun : Bool := false
  entry : Word := 0
  targets : List Nat := []
  refused : List Nat := []
  granted : List Nat := []
  asking : Option Nat := none
  asked : Nat := 0
  coming : Option Nat := none
  deriving DecidableEq, Repr

/-- A contributor of a row buffer: its core, the slots it declared, those delivered, its header, the bytes
and mark of a full slot's first flit, whether an access
table refused it (R445), and whether its header was marked (R285). -/
structure Contributor where
  core : Nat
  declared : Nat
  delivered : Nat := 0
  header : Bool := false
  low : BitVec 512 × Bool := (0, false)
  refused : Bool := false
  bad : Bool := false
  deriving DecidableEq, Repr

/-- A row buffer (R317): its key, the set entry in force when it was opened, ledgers by slot and contributors. -/
structure RowBuffer where
  set : Nat
  off : Nat
  entry : Word
  targets : List Nat
  leds : Tab Ledger := []
  who : List Contributor := []
  deriving DecidableEq, Repr

/-- A slot or header in a ledger adder's queue (R319): its sender, its micro-op and whether that waits only for its reads,
whether it is the second flit of a full slot, its row, what it carries and its mark. -/
structure AddFlit where
  core : Nat
  op : Nat
  source : Bool
  second : Bool
  set : Nat
  off : Nat
  flit : Flit
  mark : Bool
  deriving DecidableEq, Repr


/-- Guild g: its placement cache, its Drayman's two queues (R292; the second holds the snapshot pages the Scrivener has it carry),
its row buffers and ledger adders. -/
structure GuildSt where
  cache : PtCache := []
  drayQueue : List DrayDesc := []
  scrivQueue : List Nat := []
  rows : List RowBuffer := []
  adds : List AddFlit := []
  deriving DecidableEq, Repr

/-- A read that a command must ask of a peer before it can take place (R345): who reads, as which master, the DVA of the block,
the peer and the address there. -/
structure PeerAsk where
  src : Src
  master : Nat
  dva : Nat
  peer : Nat
  addr : Nat
  deriving DecidableEq, Repr
/-- What a command must ask for before it can take place: a block of a peer, or one that the host may hold (R405). -/
inductive Ask where
  | peer (q : PeerAsk)
  | host (l : Loc)
  deriving DecidableEq, Repr

/-- The memory tiers: Shale and Bedrock by DPA-like index (stack * 2^29 + address; controller * 2^37 + address), Shale
poison by block index. The check area of R265, with the stored checks of R266, is part of Bedrock's bytes. -/
structure Tiers where
  shale : Store := {}
  bedrock : Mem := []
  walkers : Tab PtCache := []
  deriving DecidableEq, Repr

end Sys2Proof.Machine
end

