-- ==== Sys2Proof/Machine/Checks.lean ====
section
/-! DEFINITION. The checks that travel with a flit of the fabric: the transit check of a block (R256), the stored check of a
Bedrock block (R266), and the header check (R309). -/

namespace Sys2Proof.Machine

/-- One bit through the CRC-16 of R256 (polynomial 0x8BB7, not reflected). -/
def crc16Bit (c : BitVec 16) : BitVec 16 := if c.getLsbD 15 then (c <<< 1) ^^^ 0x8BB7#16 else c <<< 1
/-- One byte, bit 7 first. -/
def crc16Byte (c : BitVec 16) (b : Byte) : BitVec 16 :=
  (List.range 8).foldl (fun c _ => crc16Bit c) (c ^^^ (b.setWidth 16 <<< 8))
/-- The CRC-16 of R256 over bytes: initial value 0, no final XOR. -/
def crc16 (bs : List Byte) : BitVec 16 := bs.foldl crc16Byte 0#16

/-- One bit through the CRC-8 of R309 (polynomial 0x07, not reflected). -/
def crc8Bit (c : BitVec 8) (b : Bool) : BitVec 8 := if c.getLsbD 7 != b then (c <<< 1) ^^^ 0x07#8 else c <<< 1
/-- The CRC-8 of R309 over the `n` low bits of a number, the highest first: initial value 0, no final XOR. -/
def crc8 (n v : Nat) : BitVec 8 := (List.range n).foldl (fun c i => crc8Bit c (v.testBit (n - 1 - i))) 0#8

/-- What crosses a hop besides its checks (Table 12.5): the header fields in table order, the payload, and for a write its
mask, which the transit check covers too. -/
structure FlitWire where
  cls : Nat
  kind : Nat
  src : Nat
  dst : Nat
  addr : Nat
  mask : Nat
  set : Nat
  slot : Nat
  nm1 : Nat
  poison : Bool
  payload : BitVec 512
  deriving DecidableEq, Repr

/-- The 169 header bits without hcheck, class highest. -/
def FlitWire.head (f : FlitWire) : Nat :=
  ((((((((f.cls % 4 * 2 ^ 4 + f.kind % 16) * 2 ^ 16 + f.src % 2 ^ 16) * 2 ^ 16 + f.dst % 2 ^ 16) * 2 ^ 48 + f.addr % 2 ^ 48) * 2 ^ 64 +
    f.mask % 2 ^ 64) * 2 ^ 8 + f.set % 256) * 2 ^ 5 + f.slot % 32) * 2 ^ 5 + f.nm1 % 32) * 2 + f.poison.toNat
/-- hcheck (R309). -/
def FlitWire.hcheck (f : FlitWire) : BitVec 8 := crc8 169 f.head
/-- The transit check (R256): the 64 data bytes, for a write the 8 mask bytes, and a byte whose bit 0 is the mark. -/
def FlitWire.transit (f : FlitWire) : BitVec 16 :=
  crc16 (natLe 64 f.payload.toNat ++ (if f.kind = 1 then natLe 8 f.mask else []) ++ [BitVec.ofNat 8 f.poison.toNat])

/-- The flit as received when the bits of `flips` are inverted on the hop: bits 15:0 the transit check, 23:16 hcheck, 535:24 the
payload, from 536 the header (its bit 0 the mark). True when both checks of what was received hold (R257, R309). -/
def FlitWire.received (f : FlitWire) (flips : Nat) : FlitWire × Bool :=
  let head := f.head ^^^ (flips / 2 ^ 536 % 2 ^ 169)
  let pay := f.payload ^^^ BitVec.ofNat 512 (flips / 2 ^ 24)
  let mark := head.testBit 0
  let g : FlitWire := { f with payload := pay, poison := mark, mask := head / 2 ^ 19 % 2 ^ 64 }
  let hc := f.hcheck ^^^ BitVec.ofNat 8 (flips / 2 ^ 16)
  let tc := f.transit ^^^ BitVec.ofNat 16 flips
  (g, decide (crc8 169 head = hc) && decide (g.transit = tc))

end Sys2Proof.Machine
end

