-- ==== Sys2Proof/Machine/Routes.lean ====
section
/-! DEFINITION. Where units are attached, and the path a packet takes between them (R299 to R303), as plain functions. -/

namespace Sys2Proof.Machine

/-- The guild of a core (R18). -/
def guildOf (c : Nat) : Nat := c / 32
/-- The guild a link port is attached to (Table 12.2). -/
def linkGuild (l : Nat) : Nat := match l with | 32 => 2 | 33 => 14 | 34 => 18 | 35 => 30 | n => n
/-- The guild a Bedrock controller is attached to (Table 12.2). -/
def ctlGuild (k : Nat) : Nat := nth 0 [0, 4, 8, 12, 1, 13, 16, 20, 24, 28, 17, 29] k
/-- The guild through which a unit reaches the fabric. -/
def Src.guild : Src → Nat
  | .inbound c | .outbound c | .tally c _ | .gauger c | .lib c => guildOf c
  | .drayman g | .adder g => g
  | .host => 7
  | .house => 11
  | .peer l => linkGuild l

/-- The mesh port indices a guild has (Table 12.1): north, east, south, west. -/
def meshPort (g k : Nat) : Bool :=
  let x := g % 16 % 4
  let y := g % 16 / 4
  match k with | 0 => decide (0 < y) | 1 => decide (x < 3) | 2 => decide (y < 3) | 3 => decide (0 < x) | _ => false

/-- What an edge port of a guild leads to (Table 12.2). -/
inductive EdgeUnit where
  | bedrock (k : Nat)
  | walker
  | link (l : Nat)
  | cxl
  | house
  deriving DecidableEq, Repr
/-- The units on the edge ports of a guild, from port 54 on, in the order of Table 12.2 (log 14). -/
def edgeUnits (g : Nat) : List EdgeUnit :=
  ((List.range 12).filter (fun k => ctlGuild k = g)).map EdgeUnit.bedrock ++
  (if g = 0 ∨ g = 16 then [EdgeUnit.walker] else []) ++
  ((List.range 36).filter (fun l => linkGuild l = g)).map EdgeUnit.link ++
  (if g = 7 then [EdgeUnit.cxl] else []) ++ (if g = 11 then [EdgeUnit.house] else [])
/-- The crossbar port of an edge unit of a guild. -/
def edgePort (g : Nat) (u : EdgeUnit) : Nat := 54 + (edgeUnits g).findIdx (· = u)
/-- Is port p one of the crossbar ports of guild g? -/
def xbarPort (g p : Nat) : Bool :=
  decide (p < 48) || (decide (48 ≤ p) && decide (p < 52) && meshPort g (p - 48)) || p = 52 || p = 53 ||
  (decide (54 ≤ p) && decide (p < 54 + (edgeUnits g).length))

/-! ## Fibres (R505, R506) -/

/-- The connector FC of a link. -/
def fibreConnector (l : Nat) : Nat := l / 4
/-- The fibre position on which lane 0 or 1 of a link transmits (Table 22.6). -/
def fibreOut (l lane : Nat) : Nat := 2 * (l % 4) + 1 + lane
/-- The fibre position on which lane 0 or 1 of a link receives. -/
def fibreIn (l lane : Nat) : Nat := 16 - 2 * (l % 4) - lane
/-- The position at the far end of a trunk of polarity type B. -/
def trunkEnd (p : Nat) : Nat := 17 - p

/-! ## Paths (R303) -/

/-- The mesh port (north 0, east 1, south 2, west 3) of the next hop from position `p` towards `q` of the same half: along
the row first, then along the column (R303). Rows count downwards (log 14). -/
def meshStep (p q : Nat) : Option (Nat × Nat) :=
  if p % 4 < q % 4 then some (1, p + 1) else if q % 4 < p % 4 then some (3, p - 1)
  else if p / 4 < q / 4 then some (2, p + 4) else if q / 4 < p / 4 then some (0, p - 4)
  else none

/-- The guilds and ports a packet crosses within one half: (guild, port in, port out) for each crossbar, ending at
position `q` where it leaves by `out`. -/
def meshPath : Nat → Nat → Nat → Nat → Nat → Nat → List (Nat × Nat × Nat)
  | 0, half, p, _, inp, out => [(16 * half + p, inp, out)]
  | f + 1, half, p, q, inp, out =>
    match meshStep p q with
    | some (k, p') => (16 * half + p, inp, 48 + k) :: meshPath f half p' q (48 + (k + 2) % 4) out
    | none => [(16 * half + p, inp, out)]

/-- The crossbars a packet crosses from a port of guild `g` to a port of guild `h` (R303). -/
def pathOf (g pin h pout : Nat) : List (Nat × Nat × Nat) :=
  if g / 16 = h / 16 then meshPath 6 (g / 16) (g % 16) (h % 16) pin pout
  else meshPath 6 (g / 16) (g % 16) (h % 16) pin 52 ++ [(h, 52, pout)]

/-- The internal hops between the crossbars of two guilds (R256): onto and off each mesh link, and to and from the bridge. -/
def meshHops (g h : Nat) : List Hop :=
  (pathOf g 53 h 53).flatMap (fun x =>
    (if 48 ≤ x.2.1 ∧ x.2.1 < 53 then [Hop.mk x.1 x.2.1 false] else []) ++
    (if 48 ≤ x.2.2 ∧ x.2.2 < 52 then [Hop.mk x.1 x.2.2 true] else if x.2.2 = 52 then [Hop.mk 0x20 (h % 16) (decide (g < h))] else []))

/-- The unit-counter index under which a hop's re-sends count (Table 19.4): at a Bedrock controller, the bridge, or a port of a
guild. -/
def Hop.resendIndex (h : Hop) : Nat := if 0x60 ≤ h.unit ∧ h.unit < 0x6C then 2 else 0x200 + h.port

/-- The unit-counter indices under which a block crossing a hop keeps a port, mesh link or bridge channel busy (R322, Table
19.4). -/
def Hop.busyIndices (h : Hop) : List Nat :=
  let d := if h.leaving then 0 else 1
  if h.unit = 0x20 then [0x100 + 2 * h.port + d]
  else if h.unit < 0x20 then
    (0x100 + 2 * h.port + d) :: (if 48 ≤ h.port ∧ h.port < 52 then [0x180 + 2 * (h.port - 48) + d] else [])
  else []

/-- The crossbar port of a source unit. -/
def Src.port : Src → Nat
  | .inbound c | .outbound c | .tally c _ | .gauger c | .lib c => c % 32
  | .drayman _ | .adder _ => 53
  | .host => edgePort 7 .cxl
  | .house => edgePort 11 .house
  | .peer l => edgePort (linkGuild l) (.link l)
/-- The guild and port of a place; `l` is the link port by which a peer is reached. -/
def Loc.port (l : Nat) : Loc → Nat × Nat
  | .shale g a => (g, 32 + bitsOf a 11 8)
  | .bedrock k _ => (ctlGuild k, 54)
  | .host _ => (7, edgePort 7 .cxl)
  | .peer _ _ => (linkGuild l, edgePort (linkGuild l) (.link l))
  | .ls c _ => (guildOf c, c % 32)
  | .landing g _ | .adder g _ => (g, 53)

/-- The hop between a source unit and its crossbar, `leaving` it for the unit or entering it: a core port; the other units are
not on an internal hop (R256). -/
def Src.hop (leaving : Bool) : Src → List Hop
  | .inbound c | .outbound c | .tally c _ | .gauger c | .lib c => [⟨guildOf c, c % 32, leaving⟩]
  | _ => []
/-- The hop between a crossbar and a place. -/
def Loc.hop (leaving : Bool) : Loc → List Hop
  | .shale g a => [⟨g, 32 + bitsOf a 11 8, leaving⟩]
  | .bedrock k _ => [⟨0x60 + k, 0, !leaving⟩]
  | .ls c _ => [⟨guildOf c, c % 32, leaving⟩]
  | _ => []
/-- The internal hops from a source to a place. -/
def hopsOut (src : Src) (l : Loc) (link : Nat) : List Hop :=
  src.hop false ++ meshHops src.guild (l.port link).1 ++ l.hop true
/-- The internal hops back. -/
def hopsBack (src : Src) (l : Loc) (link : Nat) : List Hop :=
  l.hop false ++ meshHops (l.port link).1 src.guild ++ src.hop true

end Sys2Proof.Machine
end

