-- ==== Sys2Proof/Machine/LinkState.lean ====
section
/-! DEFINITION. The state of the Ilusk link ports (13_ilusk_links.md) as plain data. -/

namespace Sys2Proof.Machine

/-- Link states of Table 13.6. -/
inductive LinkState where
  | disabled | training | config | active | retrain | standby | fault | incompatible
  deriving DecidableEq, Repr

/-- Their codes. -/
def LinkState.code : LinkState → Nat
  | .disabled => 0 | .training => 1 | .config => 2 | .active => 3 | .retrain => 4 | .standby => 5 | .fault => 6
  | .incompatible => 7

/-- A slot of a SLOTS flit: its 96-bit header (Table 13.4), data bytes and mask. -/
structure LinkSlot where
  header : BitVec 96
  data : BitVec 512
  mask : Nat
  deriving DecidableEq, Repr

/-- What waits at an egress port: a slot of the module, a burst of the module (head slot, blocks with marks, and how many
of its 240-byte flits have left, none before the head), or a flit of another module being forwarded, as its type and
body, with the head of the burst that a BURST flit belongs to. -/
inductive Parcel where
  | slot (x : LinkSlot)
  | burst (head : LinkSlot) (blocks : List (BitVec 512 × Bool)) (sent : Option Nat)
  | forward (ftype : Nat) (body : BitVec 1952) (head : Option LinkSlot)
  deriving DecidableEq, Repr

/-- An egress entry: its pool (virtual channel and hop), destination peer, source module and parcel; the port's cycle at which
it entered the module, and the port by which it came in (none: the module's own) (R342). -/
structure Egress where
  vc : Nat
  hop : Nat
  dst : Nat
  srcPeer : Nat
  parcel : Parcel
  entered : Nat
  ingress : Option Nat
  deriving DecidableEq, Repr

/-- A sent flit in the retry buffer (R332): its sequence number, link-header fields and body; for a forwarded one the port it
came in by and the head of its burst. -/
structure SentFlit where
  seq : Nat
  ftype : Nat
  vc : Nat
  hop : Nat
  dst : Nat
  body : BitVec 1952
  ingress : Option Nat
  head : Option LinkSlot
  deriving DecidableEq, Repr

/-- A flit in a receiver's buffer (R334) that waits for its egress port `out` to reserve a buffer at the next hop level (R342):
as received, the head of its burst, the cycle of `out` at which it came, and whether the far end still awaits the buffer. -/
structure HeldFlit where
  out : Nat
  ftype : Nat
  vc : Nat
  hop : Nat
  dst : Nat
  body : BitVec 1952
  head : Option LinkSlot
  entered : Nat
  owed : Bool
  deriving DecidableEq, Repr

/-- A request sent to a peer and not answered (R340, R345): its tag, its peer, the accesses it carries in ascending block
order, its address, and the LNK_CYCLE at which it was sent. -/
structure Outstanding where
  tag : Nat
  peer : Nat
  txns : List Nat
  dva : Nat
  since : Option Nat
  deriving DecidableEq, Repr

/-- A burst being received in one virtual channel (R331): its origin and head slot, the flits still to come, whether it is
addressed to this module or forwarded through port `out`, whether its origin has been answered already, and the bytes gathered
with their marks. -/
structure RxBurst where
  srcPeer : Nat
  head : LinkSlot
  left : Nat
  mine : Bool
  out : Nat
  answered : Bool
  bytes : List Byte
  marks : List Bool
  deriving DecidableEq, Repr

/-- One port (R323 to R348). `ctrl` is LNK_CTRL as written; `control` the CONTROL body received in CONFIG; `expected` the next
sequence number to accept; `resend` the position in the retry buffer from which flits are being resent, `resends` how often the
first of it has been since ack advanced; `waiting` the flits in the receiver's buffers; `forwardOpen`, by virtual channel, the
port by which a forwarded burst being sent came in and its flits still to come; `bursts` by virtual channel. `credits`,
`freedSeen` and `freed` are by pool (4 × hop + virtual channel). -/
structure LinkSt where
  ctrl : Word32 := 0x00010000
  state : LinkState := .disabled
  control : Option (BitVec 1952) := none
  farPeer : Nat := 0
  farLevel : Nat := 0
  retrains : Nat := 0
  retrainAt : List Nat := []
  nextSeq : Nat := 0
  retry : List SentFlit := []
  resend : Option Nat := none
  resends : Nat := 0
  expected : Nat := 0
  nakDue : Bool := false
  nakSent : Bool := false
  credits : Tab Nat := []
  freedSeen : Tab Nat := []
  freed : Tab Nat := []
  rotate : Nat := 0
  waiting : List HeldFlit := []
  egress : List Egress := []
  forwardOpen : Tab (Nat × Nat) := []
  outstanding : List Outstanding := []
  bursts : Tab RxBurst := []
  cycle : Nat := 0
  deriving DecidableEq, Repr

end Sys2Proof.Machine
end

