-- ==== Sys2Proof/Machine/HostState.lean ====
section
/-! DEFINITION. The state of the host interface, the Counting House, the Scrivener, the security functions and the
collective library (14 to 18, 20 and 21) as plain data. -/

namespace Sys2Proof.Machine

/-! ## Rings and commands (R410 to R421) -/

/-- A submission ring (Table 16.7); `tail` is the last doorbell value. -/
structure SubRing where
  base : Word := 0
  cfg : Word32 := 0
  cfgErr : Bool := false
  head : Nat := 0
  tail : Nat := 0
  deriving DecidableEq, Repr

/-- A completion on its way to its ring (Table 16.10). `cmd` numbers the command it ends; `sawFull` that it has found the
ring full (R413). -/
structure Completion where
  cmd : Nat
  cid : Nat
  sq : Nat
  status : Nat
  index : Nat
  detail : Nat
  sawFull : Bool := false
  deriving DecidableEq, Repr

/-- A completion ring (Table 16.7). `head` is the last CQ_HEAD value, `waiting` the completions not yet written,
`full` that one of them found the ring full, `unsignalled` the observed completions not yet signalled (R420). -/
structure CompRing where
  base : Word := 0
  cfg : Word32 := 0
  cfgErr : Bool := false
  head : Nat := 0
  tail : Nat := 0
  phase : Bool := true
  waiting : List Completion := []
  full : Bool := false
  unsignalled : Nat := 0
  deriving DecidableEq, Repr

/-- The event ring (Table 20.3). `seq` counts the records generated, `lost` that one was dropped since the last written. -/
structure EventRing where
  base : Word := 0
  cfg : Word32 := 0
  cfgErr : Bool := false
  head : Nat := 0
  tail : Nat := 0
  phase : Bool := true
  seq : Nat := 0
  lost : Bool := false
  unsignalled : Nat := 0
  deriving DecidableEq, Repr

/-- How far a fetched command has come (R415): fetched, started and waiting for accesses or for a window boundary, or
ended with its completion not yet observed. -/
inductive CmdPhase where
  | fetched
  | waitAccesses (ids : List Nat) (status detail : Nat)
  | waitBoundary
  | running
  | ended
  deriving DecidableEq, Repr

/-- A fetched command: its number in fetch order, ring, slot, entry, and whether the entry was delivered poisoned. -/
structure Cmd where
  num : Nat
  sq : Nat
  index : Nat
  entry : BitVec 512
  bad : Bool := false
  phase : CmdPhase
  deriving DecidableEq, Repr

/-! ## The host side -/

/-- What the module last gave to the outside in answer to a request (the model's own field). -/
inductive Answer where
  | none
  | block (data : BitVec 512) (poison : Bool)
  | word (w : Word)
  | snoopHit
  | bytes (bs : List Byte)
  deriving DecidableEq, Repr

/-- An MSI-X table entry (R420); vectors come out of reset masked. -/
structure MsixEntry where
  addr : Word := 0
  data : Word32 := 0
  control : Word32 := 1
  deriving DecidableEq, Repr

/-- The CXL port. `hdm` holds the HDM decoder registers as written, by dword; `decoder0` says that decoder 0 is committed,
`decoder1` the committed size of decoder 1 in units of 256 MiB. `snoop` is the snoop filter, least recently recorded
first, `backInval` the blocks whose BIRsp is awaited. `ideIo` and `ideMem` say whether the IDE streams have keys;
`heldWrites` and `heldVectors` are device-initiated writes and interrupts waiting for the link (R400). -/
structure HostPort where
  linkUp : Bool := false
  hdmMap : Word := 0
  hdm : Tab Word32 := []
  decoder0 : Bool := false
  decoder1 : Nat := 0
  snoop : List Nat := []
  backInval : List Nat := []
  msix : Tab MsixEntry := []
  pba : List Nat := []
  interrupts : Tab Nat := []
  ideIo : Bool := false
  ideMem : Bool := false
  refclk : Bool := true
  i3cAddress : Option Nat := none
  heldWrites : List (Nat × List Byte) := []
  heldVectors : List Nat := []
  answer : Answer := .none
  deriving DecidableEq, Repr

/-! ## Counting House (chapter 17) -/

/-- Device states of Table 16.5. -/
inductive DevState where
  | boot | ready | capture | send | restore | zeroise | failed
  deriving DecidableEq, Repr
/-- Their codes. -/
def DevState.code : DevState → Nat
  | .boot => 0 | .ready => 1 | .capture => 2 | .send => 3 | .restore => 4 | .zeroise => 5 | .failed => 6

/-- The Counting House: start-up outcome (Table 17.5), planner, energy reports, idle state. `points` are the guilds' points
of Table 17.6, `fabric` the fabric and bridge point (0: 2.0, 1: 1.5, 2: 1.0 GHz), `hot` the guilds lowered by temperature
and not yet below 95 °C (R435), `unmet` that POWER_CAP_UNMET was raised under the cap in force. -/
structure House where
  dev : DevState := .boot
  power : Bool := true
  pwrOk : Bool := true
  stage : Nat := 0
  image : Nat := 0
  cause : Nat := 0
  fencedCores : List Nat := []
  fencedLinks : List Nat := []
  fencedCtls : List Nat := []
  fencedStacks : List Nat := []
  failedSlices : Tab Nat := []
  refreshRate : Tab Nat := []
  services : List Nat := []
  tripped : Bool := false
  cap : Nat := 1600
  unmet : Bool := false
  wakeLatency : Nat := 0
  window : Nat := 20
  energyCfg : Word32 := 0x00180014
  erepBase : Word := 0
  erepSeq : Nat := 0
  lastPower : Nat := 0
  points : Tab Nat := []
  fabric : Nat := 0
  hot : List Nat := []
  brake : Bool := false
  idle : Nat := 0
  saved : Tab Nat × Nat := ([], 0)
  zeroised : Nat := 0
  lastSnapshot : Nat := 0
  lastRestore : Nat := 0
  deriving DecidableEq, Repr

/-! ## Security (chapter 18) -/

/-- What is burnt into the module: key digests, revocation bits and version fuses, the ROM key table, the device secret,
and the boot ROM version (R449 to R453). -/
structure Fuses where
  keyDigest : Tab Nat := []
  revoked : List Nat := []
  svn : Nat := 0
  romKeys : Tab Nat := []
  secret : Nat := 0
  romVersion : Nat := 0
  deriving DecidableEq, Repr

/-- The access tables and security registers (Table 18.3, Tables 21.6, 21.7); unlisted entries hold their reset value. -/
structure Security where
  acl : Tab Word32 := []
  domCore : Tab Word := []
  domPeer : Tab Word := []
  domHost : Word := 0
  lsClass : Tab Word := []
  locked : Bool := false
  digest : Nat := 0
  restoreKey : Tab Word := []
  runningSvn : Nat := 0
  commitBusy : Bool := false
  deriving DecidableEq, Repr

/-! ## Scrivener (chapter 15) -/

/-- A manifest entry (Table 15.4). -/
structure PageEntry where
  page : Nat
  poisoned : Bool
  digest : Nat
  deriving DecidableEq, Repr

/-- A snapshot in progress (R380 to R391): its command and request, the cores captured, whether its pages are frozen, the
accesses translated before the freeze, whether the release words are written, the list index to send next, the copies
made (page, pool page), the free pool pages, the pages counted as COW_POOL_EMPTY, the entries made so far, and whether
the manifest is written. -/
structure Snapshot where
  cmd : Nat
  step : Nat
  destBase : Nat
  ctxBase : Nat
  linkMask : Nat
  release : Word
  timeout : Nat
  kind : Nat
  sign : Bool
  regions : List (Nat × Nat)
  pool : List Nat
  captured : List Nat := []
  frozen : Bool := false
  waits : List Nat := []
  released : Bool := false
  next : Nat := 0
  copies : List (Nat × Nat) := []
  counted : List Nat := []
  entries : List PageEntry := []
  manifest : Bool := false
  deriving DecidableEq, Repr

/-- A source of a restore (R392); `signed` is its manifest's flag. -/
structure RestoreSource where
  kind : Nat
  base : Nat
  linkMask : Nat
  signed : Bool := false
  deriving DecidableEq, Repr

/-- A restore in progress (R392 to R397): the entries of its manifest, the next one to load, the pages taken from the
second source, the core map, and the snapshot cores still to restore. -/
structure Restore where
  cmd : Nat
  step : Nat
  sources : List RestoreSource
  ctxBase : Nat
  release : Word
  pageMap : List (Nat × Nat × Nat)
  coreMap : List (Nat × Nat)
  entries : List PageEntry
  next : Nat := 0
  second : Nat := 0
  cores : List Nat := []
  deriving DecidableEq, Repr

/-! ## The collective library (chapter 14) -/

/-- A plan (Tables 14.1, 14.2); `slots` holds the slot entries by 64 s + k. -/
structure Plan where
  stages : Nat
  slotCount : Nat
  ownStage : Nat
  ownSlot : Nat
  role : Nat
  policy : Nat
  gather : Nat
  latePort : Nat
  lateCycles : Nat
  step0 : Nat
  entries : Nat
  emem : Nat
  coll : Nat
  slots : Tab Word
  deriving DecidableEq, Repr

/-- A copy of a piece present at an owner core (R363): what its TOKEN said, its thinned form as read, and whether it carries
poison. -/
structure Copy where
  core : Nat
  slot : Nat
  role : Nat
  attempt : Nat
  step : Nat
  blocks : Nat
  first : Nat
  digest : Nat
  data : List (Byte × Bool)
  poison : Bool
  deriving DecidableEq, Repr

/-- A permute in progress (R375): the moves still to leave, the moves still to arrive, and those whose TOKEN has come. -/
structure Permute where
  leaving : List Move
  arriving : List Arrival
  arrived : List Arrival
  deriving DecidableEq, Repr

/-- The collective library on this module: its plan, what its patterns carry, and its step; the start count C0 of each owner core; the
pieces thinned in the step, by first block and blocks; the copies present;
the role taken for each (owner core × 64 + slot); the late, diverged and recomputing pairs by that key; the summed gradients
S of each owner core, entry by entry of its piece, and its generators as saved before the update; the owner cores whose update is
staged; whether HOLD_DIVERGENCE is due; the votes received by 64 s + k; whether this module has voted; whether the step is held,
committed or the library stopped; the parameter pieces widened, by first block and blocks; and the permute in progress. -/
structure Collective where
  plan : Option Plan := none
  layout : Option Layout := none
  step : Nat := 0
  began : Tab Nat := []
  thinned : List (Nat × Nat) := []
  copies : List Copy := []
  taken : Tab Nat := []
  late : List Nat := []
  diverged : List Nat := []
  recomputing : List Nat := []
  sums : Tab (List (Word32 × Bool)) := []
  generators : Tab (Tab (BitVec 128)) := []
  staged : List Nat := []
  holdDivergence : Bool := false
  votes : Tab Nat := []
  voted : Bool := false
  held : Bool := false
  committed : Bool := false
  stopped : Bool := false
  widened : List (Nat × Nat) := []
  permute : Option Permute := none
  deriving DecidableEq, Repr

end Sys2Proof.Machine
end

