-- ==== Sys2Proof/Machine/State.lean ====
section
/-! DEFINITION. The state of the module as plain data, and the state right after a cold reset (R428): before START_UP, with
every unit at its reset value. -/

namespace Sys2Proof.Machine

/-- The module. `occurrences` are event occurrences that have not been taken yet (R474); `bwLog` holds the log2 of
each unit's bandwidth window in force (16 where unlisted); `asks` are the reads the
command in progress must first ask of peers (empty between commands); `free` numbers the values the manual leaves undefined; `pending` is the queue of commands. Host memory, the flash and the fuses are the surroundings
that a cold reset leaves alone. -/
structure State where
  cores : Tab CoreSt := []
  guilds : Tab GuildSt := []
  tiers : Tiers := {}
  txns : List Txn := []
  nextTxn : Nat := 0
  nextIssue : Nat := 0
  bursts : List Burst := []
  nextBurst : Nat := 0
  nextDray : Nat := 0
  sets : Tab Word := []
  setMasks : Tab Word := []
  self : Word32 := 0
  links : Tab LinkSt := []
  routes : Tab Word32 := []
  landing : Tab Word := []
  sqs : Tab SubRing := []
  cqs : Tab CompRing := []
  evq : EventRing := {}
  cmds : List Cmd := []
  nextCmd : Nat := 0
  occurrences : List Occurrence := []
  evPending : Tab Word := []
  evCounts : Tab GauCounter := []
  port : HostPort := {}
  hostMem : Mem := []
  hostPoison : List Nat := []
  house : House := {}
  sec : Security := {}
  fuses : Fuses := {}
  flash : Mem := []
  snapshot : Option Snapshot := none
  restore : Option Restore := none
  coll : Collective := {}
  unitCounters : Tab GauCounter := []
  bwCfg : Word32 := 0x10
  bwLog : Tab Nat := []
  bwNow : Tab Nat := []
  bwLast : Tab Word := []
  bwPeak : Tab Nat := []
  asks : List Ask := []
  free : Nat := 0
  pending : List Instr := []
  deriving DecidableEq, Repr

/-- Reasons a step can stop the machine. No meaning of this model ends in a fault: every address the spec says does not
exist is refused by the spec itself (R249, R482), which is an effect. -/
inductive Fault where
  /-- Raised by no meaning; kept so that the outcome type has a fault. Safe. -/
  | unused
  deriving DecidableEq, Repr

/-- Reasons a command has no meaning. -/
inductive Refusal where
  /-- Raised by an arm of Dispatch.lean whose command has no meaning yet. Safe. -/
  | notModelled (mnemonic : String)
  deriving DecidableEq, Repr

/-- The outcome of a command. -/
abbrev Out := Host.Outcome State Fault Refusal

/-- The module right after a cold reset, before START_UP (R428). -/
def State.reset : State := {}

end Sys2Proof.Machine
end

