-- ==== Sys2Proof/Machine/Ops.lean ====
section
/-! DEFINITION. Named operations of the module: acting on one core, unit counters, access tables, placement translation,
and reading and writing a block where it lies. -/

namespace Sys2Proof.Machine

/-! ## Cores -/

/-- A value the manual leaves open, and the state after taking it. -/
def State.takeFree (s : State) : Word × State := (Config.freeWord s.free, { s with free := s.free + 1 })

/-- The data of a block delivered poisoned whose contents the manual does not give, and the state after taking it. -/
def State.takeBlock (s : State) : BitVec 512 × State := (Config.freeBlock s.free, { s with free := s.free + 1 })

/-- A core. -/
def State.core (s : State) (c : Nat) : CoreSt := s.cores.get {} c
/-- Is the core fenced (R14)? -/
def State.fenced (s : State) (c : Nat) : Bool := s.house.fencedCores.contains c
/-- The cores that are not fenced, in ascending number. -/
def State.liveCores (s : State) : List Nat := (List.range 1024).filter (fun c => !s.fenced c)
/-- Does the core take steps: rails up, clocks not stopped by a thermal trip (R435, R501), not fenced? -/
def State.coreRuns (s : State) (c : Nat) : Bool := s.house.power && !s.house.tripped && !s.fenced c
/-- Has the Drayman descriptor requests still to issue (R292)? -/
def State.drayBusy (s : State) (g : Nat) (d : DrayDesc) : Bool :=
  !d.onChannel || decide (d.readsLeft > 0) || s.txns.any (fun t => t.src = .drayman g && t.owner = d.id && t.phase = .waiting)
/-- Has the Drayman's queue of 64 room? -/
def State.drayRoom (s : State) (g : Nat) : Bool :=
  decide (((s.guilds.get {} g).drayQueue.filter (s.drayBusy g)).length < 64)
/-- May a contributor's row be given its grant at a guild (R318)? It joins an open buffer of its key, or a free one is
opened. -/
def GuildSt.mayJoin (x : GuildSt) (b : Burst) : Bool :=
  match x.rows.find? (fun (r : RowBuffer) => r.set = b.set && r.off = b.rowOff) with
  | some r => !(r.who.any (fun (w : Contributor) => w.core = b.core) || decide (r.who.length ≥ wField r.entry 52 43 + 1))
  | none => !(decide (x.rows.length ≥ 64) ||
      decide ((x.rows.filter (fun (r : RowBuffer) => r.set = b.set)).length ≥ wField b.entry 39 34 + 1))
/-- Does an access hold a tag: issued, and not yet delivered or acknowledged (R289)? -/
def Txn.tagged (t : Txn) : Bool := match t.phase with | .waiting | .landed => false | _ => true
/-- The request an access belongs to: the copies of a burst's flit share one tag (log 43). -/
def Txn.tagKey (t : Txn) : Nat × Nat := if t.packet = 0 then (0, t.id) else (t.packet, t.part)
/-- Tags an engine holds (R289). -/
def State.tagsHeld (s : State) (src : Src) : Nat :=
  ((s.txns.filter (fun t => t.src = src && t.tagged)).map Txn.tagKey).eraseDups.length
/-- Tags and per-bank cap of an engine (Table 11.4). -/
def Src.caps : Src → Nat × Nat
  | .drayman _ => (1024, 32)
  | _ => (256, 16)
/-- Has a Carter requests and no free tag (R289)? -/
def State.tagsFull (s : State) (src : Src) : Bool :=
  s.txns.any (fun t => t.src = src && t.phase = .waiting) && decide (s.tagsHeld src ≥ src.caps.1)
/-- The waits of a core's Carters outside the core that each cycle counts once (R255, R280, R289, R315, R318): CARTER_TAG_FULL,
DRAYMAN_QUEUE_FULL, MCAST_RESERVE_WAIT, REDUCE_ROW_WAIT, FROZEN_WRITE_WAIT. -/
def State.fabricWaits (s : State) (c : Nat) : List Nat :=
  let k := s.cores.get {} c
  let dray : Bool := match k.queue .outbound with
    | o :: _ => !o.marker && decide (coOp o.word = some .prefetch) && k.mayBegin o &&
        (let d := streamOf o.desc o.slots (cwField o.word 14 9) o.inst; decide (d.total ≠ 0) || d.tokEn) && !s.drayRoom (c / 32)
    | [] => false
  let mine := s.bursts.filter (fun b => b.core = c && b.begun)
  let rows := mine.filter (fun b => b.reduce && b.asking.any (fun g => !(s.guilds.get {} g).mayJoin b))
  (if s.tagsFull (.inbound c) then [0x052] else []) ++ (if s.tagsFull (.outbound c) then [0x052] else []) ++
  (if dray then [0x054] else []) ++
  (mine.filter (fun b => b.asking.isSome || b.coming.isSome)).map (fun _ => 0x055) ++ rows.map (fun _ => 0x056) ++
  (if s.txns.any (fun t => t.src = .outbound c && t.phase = .held) then [0x057] else [])
/-- The supply of an operating point, in hundredths of a volt (Table 17.6). -/
def supply (p : Nat) : Nat := nth 50 [75, 70, 65, 60, 56, 52, 50] p
/-- The operating point of a core's guild. -/
def State.pointOf (s : State) (c : Nat) : Nat := s.house.points.get 0 (guildOf c)
/-- The oldest invocation of a core that has passed its boundary and not ended (R438). -/
def CoreSt.oldestAccount (k : CoreSt) : Option Nat := (k.gauger.accounts.find? (fun a => a.ended.isNone)).map (·.num)
/-- The energy estimate of a core after its step (R438); with erep_en = 0 no record will be written of what has ended. -/
def State.meter (s : State) (c : Nat) (k : CoreSt) : CoreSt :=
  let p := s.pointOf c
  let n := cyclesFrom (s.core c).cycle k.cycle
  let keep := s.house.energyCfg.getLsbD 16
  { k with gauger := k.gauger.meter (supply p * supply p) p s.house.brake keep n (s.core c).oldestAccount }
/-- A core's step lands in the module: the cycles it took are counted, its events join the occurrences. -/
def State.landCore (s : State) (c : Nat) (e : Eff) : State :=
  let e := if e.k.cycle = (s.core c).cycle then e else e.elapsed (s.core c) (s.fabricWaits c)
  { s with cores := s.cores.set c (s.meter c e.k), occurrences := s.occurrences ++ e.occ }
/-- Changes one core, whatever its state. -/
def State.atCore (s : State) (c : Nat) (f : Eff → Eff) : State := s.landCore c (f ⟨c, s.core c, []⟩)
/-- A step of one core; nothing happens in a core that does not run. -/
def State.onCore (s : State) (c : Nat) (f : Eff → Eff) : State := if s.coreRuns c then s.atCore c f else s
/-- Counts in a core's Gauger; a fenced core counts nothing. -/
def State.countCore (s : State) (c ev n : Nat) : State := s.onCore c (fun e => e.count ev n)

/-- Raises an event of a device-level unit (R473). -/
def State.raise (s : State) (code : Nat) (words : List Word) : State :=
  { s with occurrences := s.occurrences ++ [⟨code, words⟩] }

/-- A guild's state. -/
def State.guild (s : State) (g : Nat) : GuildSt := s.guilds.get {} g
/-- The module with a guild replaced. -/
def State.setGuild (s : State) (g : Nat) (x : GuildSt) : State := { s with guilds := s.guilds.set g x }
/-- A link port. -/
def State.link (s : State) (l : Nat) : LinkSt := s.links.get {} l
/-- The module with a link port replaced. -/
def State.setLink (s : State) (l : Nat) (x : LinkSt) : State := { s with links := s.links.set l x }

/-! ## Unit counters (R464, R470) -/

/-- Unit numbers of Table 19.4. -/
def shaleUnit (g : Nat) : Nat := 0x40 + g
/-- Bedrock controller. -/
def bedrockUnit (k : Nat) : Nat := 0x60 + k
/-- Link port. -/
def linkUnit (l : Nat) : Nat := 0x80 + l
/-- Host interface. -/
def hifUnit : Nat := 0xC0
/-- Counting House. -/
def houseUnit : Nat := 0xC1

/-- Is index `i` a counter of unit `u` (Table 19.4)? -/
def unitIndex (u i : Nat) : Bool :=
  if u < 0x20 then
    i = 0 || i = 1 || (decide (0x100 ≤ i) && decide (i < 0x180) && xbarPort u ((i - 0x100) / 2)) ||
    (decide (0x180 ≤ i) && decide (i < 0x188) && meshPort u ((i - 0x180) / 2)) ||
    (decide (0x200 ≤ i) && decide (i < 0x300) && xbarPort u (i - 0x200)) ||
    (decide (0x300 ≤ i) && xbarPort u ((i - 0x300) / 2))
  else if u = 0x20 then
    i = 0 || (decide (0x100 ≤ i) && decide (i < 0x120)) || (decide (0x200 ≤ i) && decide (i < 0x210)) ||
    (decide (0x300 ≤ i) && decide (i < 0x320))
  else if 0x40 ≤ u ∧ u < 0x60 then i = 0 || i = 1 || (decide (0x300 ≤ i) && decide (i < 0x320))
  else if 0x60 ≤ u ∧ u < 0x6C then decide (i < 3) || i = 0x300 || i = 0x301
  else if 0x80 ≤ u ∧ u < 0xA4 then decide (i < 5) || i = 0x300 || i = 0x301
  else if u = 0xC0 then decide (i < 6) || i = 0x300 || i = 0x301
  else if u = 0xC1 then decide (i < 4)
  else false

/-- A unit counter. -/
def State.unitCounter (s : State) (u i : Nat) : GauCounter := s.unitCounters.get {} (1024 * u + i)
/-- Adds to a unit counter, and to the running bandwidth window of a bytes counter (R461, R464, R470). -/
def State.countUnit (s : State) (u i n : Nat) : State :=
  if n = 0 ∨ !unitIndex u i then s
  else
    let s := { s with unitCounters := s.unitCounters.set (1024 * u + i) ((s.unitCounter u i).add n) }
    if 0x300 ≤ i then { s with bwNow := s.bwNow.upd 0 (1024 * u + i) (· + n) } else s
/-- What a MIRROR counter shows (R465): the word of a unit counter, 0 for a reserved one. -/
def State.mirrorWord (s : State) (u i : Nat) : Word := if unitIndex u i then (s.unitCounter u i).word else 0
/-- The word of counter `j` of a core when its GAU_SEL mirrors a unit counter. -/
def State.mirrorOf (s : State) (c j : Nat) : Option Word :=
  let v := ((s.core c).gauger.selOf j).toNat
  if bitOf v 31 ∧ bitsOf v 29 28 = 1 then some (s.mirrorWord (bitsOf v 23 12) (bitsOf v 11 0)) else none

/-! ## Access tables (R442 to R446) -/

/-- The domain of a master; none when it is not checked (Table 18.1, R446). -/
def State.domain (s : State) (master : Nat) : Option Nat :=
  let n := master % 4096
  let ofCore := fun (c : Nat) => bitsOf (s.sec.domCore.get 0 (c / 16)).toNat (4 * (c % 16) + 3) (4 * (c % 16))
  match master / 4096 with
  | 1 | 2 | 4 | 6 => some (ofCore (n % 1024))
  | 3 => some (ofCore (n / 4))
  | 8 => some (bitsOf s.sec.domHost.toNat 3 0)
  | 9 => some (bitsOf (s.sec.domPeer.get (BitVec.allOnes 64) (n / 16)).toNat (4 * (n % 16) + 3) (4 * (n % 16)))
  | _ => none
/-- SEC_ACL[t][c] (Table 18.3). -/
def State.acl (s : State) (t c : Nat) : Word32 := (s.sec.acl.find (64 * t + c)).getD (if c = 0 then 3 else 0)
/-- May the master read or write at target group `t` under class `c` (R443)? -/
def State.allowed (s : State) (t c master : Nat) (write : Bool) : Bool :=
  match s.domain master with
  | none => true
  | some d => bitOf (s.acl t c).toNat (2 * d + (if write then 1 else 0))
/-- Class of a core's local store (SEC_LS_CLASS). -/
def State.lsClass (s : State) (c : Nat) : Nat := bitsOf (s.sec.lsClass.get 0 (c / 8)).toNat (8 * (c % 8) + 5) (8 * (c % 8))

/-- ACCESS_REFUSED (R250). -/
def State.refusedEvent (s : State) (master reason addr : Nat) : State :=
  s.raise 0x20 [wd (master + reason * 65536), wd addr]

/-! ## Placement entries (Tables 10.2 to 10.5) -/

/-- DPA of a Bedrock byte (Table 10.1). -/
def bedrockDpa (k a : Nat) : Nat := k * 2 ^ 37 + a
/-- DPA of a Shale byte. -/
def shaleDpa (g a : Nat) : Nat := 2 ^ 44 + g * 2 ^ 29 + a
/-- DPA of a local-store byte. -/
def lsDpa (c o : Nat) : Nat := 2 * 2 ^ 44 + c * 2 ^ 19 + o

/-- valid. -/
def ptValid (e : Word) : Bool := e.getLsbD 63
/-- frozen. -/
def ptFrozen (e : Word) : Bool := e.getLsbD 59
/-- poison. -/
def ptPoison (e : Word) : Bool := e.getLsbD 58
/-- class. -/
def ptClass (e : Word) : Nat := wField e 57 52
/-- frame. -/
def ptFrame (e : Word) : Nat := wField e 47 0
/-- target. -/
def ptTarget (e : Word) : Nat := wField e 62 60

/-- The egress port of a peer, when its route is valid (Table 13.9). -/
def State.routeOf (s : State) (p : Nat) : Option Nat :=
  let r := (s.routes.get 0 p).toNat
  if bitOf r 31 ∧ bitsOf r 5 0 < 36 then some (bitsOf r 5 0) else none
/-- The module's own peer identifier. -/
def State.ownPeer (s : State) : Nat := bitsOf s.self.toNat 11 0

/-- The frame check of Table 10.5 and where the block lies; `none` is BAD_FRAME. `window` marks a host access to the
Bedrock window (R404). -/
def State.place (s : State) (e : Word) (dva : Nat) (window : Bool) : Option Loc :=
  let f := ptFrame e
  let off := dva % 65536
  match ptTarget e with
  | 1 => if f / 2 ^ 18 ≠ 0 ∨ s.house.fencedStacks.contains (bitsOf f 17 13) then none
         else some (.shale (bitsOf f 17 13) (bitsOf f 12 0 * 65536 + off))
  | 2 => if f / 2 ^ 25 ≠ 0 ∨ bitsOf f 24 21 > 11 ∨ bitsOf f 20 0 ≥ 0x1F0000 ∨ (bitsOf f 24 21 = 0 ∧ bitsOf f 20 0 < 4096) ∨
           s.house.fencedCtls.contains (bitsOf f 24 21) then none
         else some (.bedrock (bitsOf f 24 21) (bitsOf f 20 0 * 65536 + off))
  | 3 => if window ∨ !s.port.linkUp then none else some (.host (f * 65536 + off))
  | 4 => if window ∨ f / 2 ^ 37 ≠ 0 ∨ bitsOf f 36 25 = s.ownPeer ∨ (s.routeOf (bitsOf f 36 25)).isNone then none
         else some (.peer (bitsOf f 36 25) (bitsOf f 24 0 * 65536 + off))
  | _ => none

/-- Target group of a place (Table 18.2); host memory has none, and a flit to a guild is checked for each of its targets before
it leaves (R445). -/
def Loc.group (window : Bool) : Loc → Option Nat
  | .shale g _ => some (if window then 47 else g)
  | .bedrock k _ => some (if window then 47 else 32 + k)
  | .peer _ _ => some 46
  | .ls _ _ => some 44
  | .host _ | .landing _ _ | .adder _ _ => none

/-- What translation answers (R249, R251, R255): refused with a reason, held by a frozen page, or the place, and whether a
read of it is delivered poisoned. -/
inductive Verdict where
  | refuse (reason : Nat)
  | hold
  | go (loc : Loc) (pagePoison : Bool)
  deriving DecidableEq, Repr

/-- The checks of Table 10.5 in order. `entry` is `none` when the table block was delivered poisoned. -/
def State.judge (s : State) (entry : Option Word) (master dva : Nat) (write window : Bool) : Verdict :=
  match entry with
  | none => .refuse 4
  | some e =>
    if !ptValid e then .refuse 1
    else match s.place e dva window with
      | none => .refuse 2
      | some loc =>
        if write ∧ ptFrozen e then .hold
        else if (loc.group window).any (fun t => !s.allowed t (ptClass e) master write) then .refuse 3
        else if write ∧ ptPoison e then .refuse 5
        else .go loc (ptPoison e)

/-! ## Placement caches (R252) -/

/-- The entry of a page in a cache. -/
def PtCache.find (c : PtCache) (page : Nat) : Option Word := (List.find? (fun x : Nat × Word => x.1 = page) c).map (·.2)
/-- The cache without the last entry of `page`'s set beyond `ways`. -/
def PtCache.trim (sets ways page : Nat) (c : PtCache) : PtCache :=
  let inSet := List.filter (fun x : Nat × Word => x.1 % sets = page % sets) c
  if inSet.length ≤ ways then c
  else match inSet.getLast? with
    | some x => List.filter (fun y : Nat × Word => y.1 ≠ x.1) c
    | none => c
/-- An entry used or installed: it becomes the most recently used; the least recently used of its set leaves. -/
def PtCache.use (sets ways : Nat) (c : PtCache) (page : Nat) (e : Word) : PtCache :=
  PtCache.trim sets ways page ((page, e) :: List.filter (fun y : Nat × Word => y.1 ≠ page) c)

/-- The guild cache after a use: 1,024 entries, 8-way. -/
def State.useGuild (s : State) (g page : Nat) (e : Word) : State :=
  s.setGuild g { (s.guild g) with cache := PtCache.use 128 8 (s.guild g).cache page e }
/-- A half's shared cache. -/
def State.walker (s : State) (h : Nat) : PtCache := s.tiers.walkers.get [] h
/-- A half's shared cache after a use: 16,384 entries. -/
def State.useWalker (s : State) (h page : Nat) (e : Word) : State :=
  { s with tiers := { s.tiers with walkers := s.tiers.walkers.set h (PtCache.use 1 16384 (s.walker h) page e) } }

/-! ## Blocks where they lie (R261, R266, R409) -/

/-- A block as delivered: data and poison mark. -/
abbrev Delivered := BitVec 512 × Bool

/-- 512 bits from their bytes. -/
def blockOf (bs : List Byte) : BitVec 512 := BitVec.ofNat 512 (leNat bs)
/-- The bytes of a block. -/
def blockBytes (d : BitVec 512) : List Byte := natLe 64 d.toNat

/-- Bytes written to a block: offset, and the bytes with their marks. -/
abbrev Runs := List (Nat × List (Byte × Bool))
/-- Does any written byte carry a mark? -/
def runsMarked (r : Runs) : Bool := r.any (fun x => x.2.any (·.2))
/-- How many bytes are written. -/
def runsLen (r : Runs) : Nat := r.foldl (fun n x => n + x.2.length) 0

/-- A Shale block read (R261): corrections counted, double-bit errors marked and reported. -/
def State.shaleRead (s : State) (g a : Nat) : Delivered × State :=
  let i := g * 2 ^ 29 + a / 64 * 64
  let (st, fixed) := s.tiers.shale.afterRead i 64
  let bad := (List.range 8).any (fun w => idxMem s.tiers.shale.double (i / 8 + w))
  let s' := ({ s with tiers := { s.tiers with shale := st } }.countUnit (shaleUnit g) 1 fixed).countUnit (shaleUnit g)
    (0x300 + 2 * bitsOf a 11 8) 64
  ((blockOf (st.bytes i 64), st.marked i 64), if bad then s'.raise 0x22 [wd (shaleDpa g (a / 64 * 64))] else s')
/-- A Shale block write under the rules of R70 (R261): partial words are read and merged first. -/
def State.shaleWrite (s : State) (g a : Nat) (runs : Runs) : State :=
  let i := g * 2 ^ 29 + a / 64 * 64
  let partWord := runs.any (fun r => r.1 % 8 ≠ 0 || r.2.length % 8 ≠ 0)
  let s := if partWord then (s.shaleRead g a).2 else s
  let st := runs.foldl (fun (st : Store) r => st.write (i + r.1) r.2) s.tiers.shale
  { s with tiers := { s.tiers with shale := st } }.countUnit (shaleUnit g) (0x301 + 2 * bitsOf a 11 8) 64

/-- Index of a Bedrock byte over all controllers. -/
def bedIdx (k a : Nat) : Nat := k * 2 ^ 37 + a
/-- Index of the stored check of the data block at `a` (R265). -/
def checkIdx (k a : Nat) : Nat := bedIdx k (0x1F00000000 + a / 64 * 2)
/-- The stored check of a block. -/
def Tiers.storedCheck (t : Tiers) (k a : Nat) : BitVec 16 := BitVec.ofNat 16 (t.bedrock.le (checkIdx k a) 2)
/-- The CRC of a block's data as it lies (R266). -/
def Tiers.blockCrc (t : Tiers) (k a : Nat) : BitVec 16 := crc16 (t.bedrock.bytes (bedIdx k (a / 64 * 64)) 64)
/-- Does the stored check fit neither the clean nor the poisoned block (R266)? -/
def Tiers.bedBad (t : Tiers) (k a : Nat) : Bool :=
  t.storedCheck k a != t.blockCrc k a && t.storedCheck k a != t.blockCrc k a ^^^ 0xFFFF#16
/-- Is the block read poisoned: its check is not that of clean data? -/
def Tiers.bedMarked (t : Tiers) (k a : Nat) : Bool := t.storedCheck k a != t.blockCrc k a
/-- Bedrock's bytes with the check of the block at `a` stored anew (R266). -/
def withCheck (m : Mem) (k a : Nat) (mark : Bool) : Mem :=
  let c := crc16 (m.bytes (bedIdx k (a / 64 * 64)) 64)
  m.wrLe (checkIdx k a) 2 (if mark then c ^^^ 0xFFFF#16 else c).toNat
/-- A Bedrock block read with its stored check compared (R266): one that fits neither value on both reads is written back
marked and reported. The second read finds what the first found. -/
def State.bedrockLook (s : State) (k a : Nat) : Delivered × State :=
  let d := blockOf (s.tiers.bedrock.bytes (bedIdx k (a / 64 * 64)) 64)
  if s.tiers.bedBad k a then
    ((d, true), { s with tiers := { s.tiers with bedrock := withCheck s.tiers.bedrock k a true } }.raise 0x23
      [wd (bedrockDpa k (a / 64 * 64))])
  else ((d, s.tiers.bedMarked k a), s)
/-- The read with its bytes counted. -/
def State.bedrockRead (s : State) (k a : Nat) : Delivered × State :=
  let (d, s) := s.bedrockLook k a
  (d, s.countUnit (bedrockUnit k) 0x300 64)
/-- A Bedrock block write (R266): a whole clean block clears the mark, a masked write is merged with the checked old block. -/
def State.bedrockWrite (s : State) (k a : Nat) (runs : Runs) : State :=
  let whole := runsLen runs = 64
  let ((_, old), s) := if whole then ((0, false), s) else s.bedrockLook k a
  let m := runs.foldl (fun (m : Mem) r => m.wrBytes (bedIdx k (a / 64 * 64) + r.1) (r.2.map (·.1))) s.tiers.bedrock
  let bad := runsMarked runs || (old && !whole)
  { s with tiers := { s.tiers with bedrock := withCheck m k a bad } }.countUnit (bedrockUnit k) 0x301 64

/-- A bit error in word `w` of a store with an error code for each word: the second error of a word leaves it with two (log 26). -/
def Store.strike (st : Store) (w : Nat) (two : Bool) : Store :=
  if two || idxMem st.single w || idxMem st.double w then { st with single := idxDel st.single w, double := idxAdd st.double w }
  else { st with single := idxAdd st.single w }
/-- A bit error in one of a core's stores: local store, TRF, pattern memory, instruction memory, data memory. -/
def CoreSt.strike (k : CoreSt) (store w : Nat) (two : Bool) : CoreSt :=
  match store % 5 with
  | 0 => { k with ls := k.ls.strike (w % 65536) two }
  | 1 => { k with trf := k.trf.strike (w % 16384) two }
  | 2 => { k with pattern := k.pattern.strike (w % 16384) two }
  | 3 => { k with imem := k.imem.strike (w % 8192) two }
  | _ => { k with dmem := k.dmem.strike (w % 8192) two }
/-- A parity error in a line of a feeder's operand cache (R74). -/
def CoreSt.strikeFeeder (k : CoreSt) (f way : Nat) : CoreSt :=
  let lines := (k.pipe.feeders.get [] f).zipIdx.map (fun x => if x.2 = way then { x.1 with parityBad := true } else x.1)
  { k with pipe := { k.pipe with feeders := k.pipe.feeders.set f lines } }
/-- One bit of a Bedrock block, or of its stored check, turns over. -/
def flipBedrock (m : Mem) (k a bit : Nat) : Mem :=
  let b := bit % 528
  let i := if b < 512 then bedIdx k (a / 64 * 64) + b / 8 else checkIdx k a + (b - 512) / 8
  m.wrBytes i [m.rd i ^^^ BitVec.ofNat 8 (2 ^ (b % 8))]
/-- A bit error arises (R61, R70, R74, R76, R95, R130, R132, R261, R266). -/
def State.strike (s : State) : Config.Upset → State
  | .core c store w two => { s with cores := s.cores.set (c % 1024) ((s.core (c % 1024)).strike store w two) }
  | .ledger c tile r col seg =>
    let k := s.core (c % 1024)
    let l := k.ledger (tile % 2) (r % 64) (col % 32)
    { s with cores := s.cores.set (c % 1024) (k.setLedger (tile % 2) (r % 64) (col % 32) { l with parity := l.parity ||| BitVec.ofNat 10 (2 ^ (seg % 10)) }) }
  | .feeder c f way => { s with cores := s.cores.set (c % 1024) ((s.core (c % 1024)).strikeFeeder (f % 8) way) }
  | .shale g w two => { s with tiers := { s.tiers with shale := s.tiers.shale.strike (g % 32 * 2 ^ 26 + w % 2 ^ 26) two } }
  | .bedrock k block bit =>
    { s with tiers := { s.tiers with bedrock := flipBedrock s.tiers.bedrock (k % 12) (block % 0x7C000000 * 64) bit } }
/-- What a step does with no command waiting: the block idles, and a bit error may arise in a store (log 11, 26). -/
def State.idle (s : State) : State :=
  let t : State := { s with free := s.free + 1 }
  match Config.upset s.free with
  | some x => t.strike x
  | none => t

/-- Host memory read by the device: a block with its CXL poison indication (R409, Table 10.9). -/
def State.hostRead (s : State) (a : Nat) : Delivered :=
  (blockOf (s.hostMem.bytes (a / 64 * 64) 64), idxMem s.hostPoison (a / 64))
/-- Host memory written by the device: marked bytes leave the block poisoned, which only host software clears (Table 10.9). -/
def State.hostWrite (s : State) (a : Nat) (runs : Runs) : State :=
  let m := runs.foldl (fun (m : Mem) r => m.wrBytes (a / 64 * 64 + r.1) (r.2.map (·.1))) s.hostMem
  { s with hostMem := m, hostPoison := if runsMarked runs then idxAdd s.hostPoison (a / 64) else s.hostPoison }

/-- A block read where it lies; a peer's block is not read here. -/
def State.readAt (s : State) : Loc → Delivered × State
  | .shale g a => s.shaleRead g a
  | .bedrock k a => s.bedrockRead k a
  | .host a => (s.hostRead a, s)
  | _ => ((0, true), s)
/-- A block written where it lies. -/
def State.writeAt (s : State) (runs : Runs) : Loc → State
  | .shale g a => s.shaleWrite g a runs
  | .bedrock k a => s.bedrockWrite k a runs
  | .host a => s.hostWrite a runs
  | _ => s

/-- A block of a one-step access, or of a table walk, crosses its internal hops (R256, R257): which hop failed and how often is
a free value (log 44). Answers whether the block is marked after its fourth failure, naming it by `addr`. -/
def State.ferry (s : State) (hops : List Hop) (addr : Nat) : Bool × State :=
  match Config.hopTrouble s.free, hops with
  | some (i, n), h0 :: _ =>
    let h := nth h0 hops (i % hops.length)
    let s := ({ s with free := s.free + 1 } : State).countUnit h.unit h.resendIndex (min n 3)
    if n ≥ 4 then (true, s.raise 0x21 [wd (h.unit + h.port * 4096), wd addr]) else (false, s)
  | _, _ => (false, { s with free := s.free + 1 })
/-- The link-ECC corrections of a one-step access to Bedrock (R267): a free value (log 44). -/
def State.linkEcc (s : State) : Loc → State
  | .bedrock k _ => ({ s with free := s.free + 1 } : State).countUnit (bedrockUnit k) 1 (Config.linkEcc s.free)
  | _ => s

/-- The table block of a page as it reaches the walker of guild `g`'s half (R252): from Bedrock controller 0 over its hops. -/
def State.tableBlock (s : State) (g page : Nat) : Delivered × State :=
  let ((d, bad), s) := s.bedrockLook 0 (8 * page)
  let (lost, s) := (s.linkEcc (.bedrock 0 (8 * page))).ferry (⟨0x60, 0, true⟩ :: meshHops 0 (g / 16 * 16)) (page / 8 * 64)
  ((d, bad || lost), s)
/-- Reads the table block of a page and installs its entries (R252): all eight in the half's shared cache, the requested
one in the guild's. A poisoned block installs nothing and gives no entry. -/
def State.walk (s : State) (g page : Nat) : Option Word × State :=
  let ((d, bad), s) := s.tableBlock g page
  if bad then (none, s)
  else
    let at_ := fun (j : Nat) => d.extractLsb' (64 * j) 64
    let s := (List.range 8).foldl (fun (s : State) j => s.useWalker (g / 16) (page / 8 * 8 + j) (at_ j)) s
    (some (at_ (page % 8)), (s.useWalker (g / 16) page (at_ (page % 8))).useGuild g page (at_ (page % 8)))
/-- The entry of a page in the caches of guild `g`: its own, else its half's (R252). -/
def State.cached (s : State) (g page : Nat) : Option Word × State :=
  match PtCache.find (s.guild g).cache page with
  | some e => (some e, s.useGuild g page e)
  | none => match PtCache.find (s.walker (g / 16)) page with
    | some e => (some e, (s.useWalker (g / 16) page e).useGuild g page e)
    | none => (none, s)
/-- The entry of a page as guild `g` finds it within one step; `none` when its table block is poisoned. -/
def State.entryOf (s : State) (g page : Nat) : Option Word × State :=
  match s.cached g page with
  | (some e, s) => (some e, s)
  | (none, s) => s.walk g page

/-- The destination of a place in the sense of R174. -/
def Loc.dest : Loc → Nat × Nat
  | .shale g a => (g, bitsOf a 11 8)
  | .bedrock k _ => (32 + k, 0)
  | .ls c _ => (64, c)
  | .host _ => (65, 0)
  | .peer p _ => (66, p)
  | .landing g _ => (67, g)
  | .adder g _ => (68, g)
/-- Where an access that waits for the walker or for a frozen page is headed, as its page's entry stands. -/
def State.headed (s : State) (t : Txn) : Option Loc :=
  match t.target with
  | .dva a => ((s.entryOf t.src.guild (a / 65536)).1).bind (fun e => s.place e a false)
  | .core c o => some (.ls c o)
  | .set _ _ => none

/-- The block of the snoop filter a place belongs to (R405): Shale and Bedrock blocks by DPA. -/
def Loc.snoopKey : Loc → Option Nat
  | .shale g a => some (shaleDpa g a / 64)
  | .bedrock k a => some (bedrockDpa k a / 64)
  | _ => none
/-- May the host hold the block, or is its answer awaited? -/
def State.snooped (s : State) (l : Loc) : Bool :=
  l.snoopKey.any (fun k => s.port.snoop.contains k || s.port.backInval.contains k)
/-- BISnpInv for a recorded block (R405). -/
def State.backInvalidate (s : State) (k : Nat) : State :=
  if s.port.snoop.contains k then
    { s with port := { s.port with snoop := s.port.snoop.filter (· ≠ k), backInval := s.port.backInval ++ [k] } }.countUnit hifUnit 1 1
  else s
/-- BISnpInv for the block of a place. -/
def State.backInvalidateAt (s : State) (l : Loc) : State := match l.snoopKey with | some k => s.backInvalidate k | none => s

/-! ## The pool of accesses -/

/-- An access of the pool. -/
def State.txn (s : State) (x : Nat) : Option Txn := s.txns.find? (fun t => t.id = x)
/-- The pool with an access replaced. -/
def State.putTxn (s : State) (t : Txn) : State := { s with txns := s.txns.map (fun u => if u.id = t.id then t else u) }
/-- The pool without an access. -/
def State.dropTxn (s : State) (x : Nat) : State := { s with txns := s.txns.filter (fun t => t.id ≠ x) }
/-- A new access joins the pool, numbered. -/
def State.addTxn (s : State) (t : Txn) : State :=
  { s with txns := s.txns ++ [{ t with id := s.nextTxn }], nextTxn := s.nextTxn + 1 }

/-- Is every access a placement change waits for performed at its target (R253)? -/
def State.performedAll (s : State) (ids : List Nat) : Bool :=
  !s.txns.any (fun t => ids.contains t.id && (match t.phase with | .sent _ => true | _ => false))
/-- The accesses already translated under the entries of pages `p` (R253 step 3). -/
def State.translated (s : State) (p : Nat → Bool) : List Nat :=
  (s.txns.filter (fun t => (match t.phase with | .sent _ => true | _ => false) && (match t.target with
    | .dva a => p (a / 65536)
    | _ => false))).map (·.id)

/-- An access that is refused or lost: what a read then delivers besides the poison mark is not given. -/
def State.spoil (s : State) (t : Txn) (code : Nat) : State :=
  let x : Txn := { t with phase := .done code, poison := true }
  if t.write then s.putTxn x
  else
    let (d, s) := s.takeBlock
    s.putTxn { x with data := d }

/-- The address an access names: its DVA, or the DPA of the local-store byte (R250). -/
def Target.addr : Target → Nat
  | .dva a => a
  | .core c o => lsDpa c o
  | .set _ o => o
/-- The address recorded of an access (R250): the DVA of its block, or the DPA of its first local-store byte. -/
def Txn.addr (t : Txn) : Nat :=
  match t.target with
  | .core c o => lsDpa c (o + (if t.write then (match t.runs with | r :: _ => r.1 | [] => 0) else t.first))
  | x => x.addr

end Sys2Proof.Machine
end

