-- ==== Sys2Proof/Machine/Path.lean ====
section
/-! DEFINITION. Accesses of the pool setting out and coming back over the fabric: their path, the bytes counted on it (R464),
and their way over each hop (R256, R257, R301 to R310). -/

namespace Sys2Proof.Machine

/-- The cycles in which a block kept a port, link or channel busy (R322). -/
def State.portBusy (s : State) (u i : Nat) : State := ({ s with free := s.free + 1 } : State).countUnit u i (Config.portBusy s.free)
/-- Counts the bytes of a data block on every port it crosses, and on its bridge channel, as it sets out (log 50); the ports that
are on no internal hop are busy with it. -/
def State.countPath (s : State) (g pin h pout bytes : Nat) : State :=
  let s := (pathOf g pin h pout).foldl (fun (s : State) x =>
    (s.countUnit x.1 (0x301 + 2 * x.2.1) bytes).countUnit x.1 (0x300 + 2 * x.2.2) bytes) s
  let s := if pin < 53 then s else s.portBusy g (0x101 + 2 * pin)
  let s := if pout < 53 then s else s.portBusy h (0x100 + 2 * pout)
  if g / 16 = h / 16 then s else s.countUnit 0x20 (0x300 + 2 * (h % 16) + (if g < h then 0 else 1)) bytes

/-- The kind code of the flit an access travels as (Table 12.6). -/
def Txn.kind (t : Txn) : Nat :=
  match t.flits with
  | .header .. :: _ => 5
  | [.slot _ _ f _] => if LedgerOps.isFull f then (if t.second then 9 else 8) else 6
  | .slot .. :: _ => 7
  | _ => match t.phase with
    | .done _ => if t.write then 4 else 3
    | _ => if t.write then 1 else 2
/-- The traffic class it travels in (Table 12.3): answers in RESPONSE. -/
def Txn.lane (t : Txn) : Nat := match t.phase with | .done _ => 1 | _ => t.cls
/-- Bytes of payload that kind carries (Table 12.6, R309). -/
def payloadBytes (kind : Nat) : Nat := if kind = 1 ∨ kind = 3 ∨ (6 ≤ kind ∧ kind ≤ 9) then 64 else 0

/-- An access sets out for a place: it is sent, at the start of its path. -/
def State.depart (s : State) (t : Txn) (l : Loc) (link : Nat) : Txn × State :=
  let t' : Txn := { t with phase := .sent l, path := hopsOut t.src l link, entered := s.nextIssue, link := link, checkFails := 0 }
  let p := l.port link
  (t', ({ s with nextIssue := s.nextIssue + 1 } : State).countPath t.src.guild t.src.port p.1 p.2 (payloadBytes t'.kind))
/-- An access that has been performed, or refused at its target, with `code` goes back to its issuer. -/
def State.comeBack (s : State) (t : Txn) (l : Loc) (code : Nat) : Txn × State :=
  let t' : Txn := { t with phase := .done code, path := hopsBack t.src l t.link, entered := s.nextIssue, checkFails := 0,
                           flits := [] }
  let p := l.port t.link
  (t', ({ s with nextIssue := s.nextIssue + 1 } : State).countPath p.1 p.2 t.src.guild t.src.port (payloadBytes t'.kind))
/-- The same, in the pool. -/
def State.cameBack (s : State) (t : Txn) (l : Loc) (code : Nat) : State :=
  let x := s.comeBack t l code
  x.2.putTxn x.1

end Sys2Proof.Machine
end

