-- ==== Sys2Proof/Machine/LinkOps.lean ====
section
/-! DEFINITION. Operations of the Ilusk ports: the flit layout and its checks, requests and responses entering an egress
port, and the completion of requests when a link is lost (R326 to R348). -/

namespace Sys2Proof.Machine

/-! ## Flit layout (Tables 13.1 to 13.4) -/

/-- One bit of the reflected CRC-32 of R328. -/
def crc32Bit (c : BitVec 32) : BitVec 32 := if c.getLsbD 0 then (c >>> 1) ^^^ 0xEDB88320#32 else c >>> 1
/-- CRC-32 of R328 over bytes: reflected, initial and final 0xFFFF_FFFF. -/
def crc32 (bs : List Byte) : BitVec 32 :=
  (bs.foldl (fun (c : BitVec 32) b =>
    let c := c ^^^ b.setWidth 32
    crc32Bit (crc32Bit (crc32Bit (crc32Bit (crc32Bit (crc32Bit (crc32Bit (crc32Bit c)))))))) 0xFFFFFFFF#32) ^^^ 0xFFFFFFFF#32

/-- The fields of a link header (Table 13.2). -/
structure FlitHeader where
  seq : Nat
  ack : Nat
  ftype : Nat
  nak : Bool
  vc : Nat
  hop : Nat
  creditVc : Nat
  creditHop : Nat
  creditCnt : Nat
  dst : Nat
  deriving DecidableEq, Repr

/-- A header from its 64 bits. -/
def FlitHeader.ofNat (v : Nat) : FlitHeader :=
  { seq := bitsOf v 63 52, ack := bitsOf v 51 40, ftype := bitsOf v 39 38, nak := bitOf v 37, vc := bitsOf v 36 35,
    hop := bitsOf v 34 33, creditVc := bitsOf v 32 31, creditHop := bitsOf v 30 29, creditCnt := bitsOf v 28 21,
    dst := bitsOf v 20 9 }
/-- Its 64 bits. -/
def FlitHeader.toNat (h : FlitHeader) : Nat :=
  h.seq * 2 ^ 52 + h.ack * 2 ^ 40 + h.ftype * 2 ^ 38 + (if h.nak then 2 ^ 37 else 0) + h.vc * 2 ^ 35 + h.hop * 2 ^ 33 +
  h.creditVc * 2 ^ 31 + h.creditHop * 2 ^ 29 + h.creditCnt * 2 ^ 21 + h.dst * 2 ^ 9

/-- The 256 bytes of a flit: header, body, CRC. -/
def flitBytes (h : FlitHeader) (body : BitVec 1952) : List Byte :=
  let front := natLe 8 h.toNat ++ natLe 244 body.toNat
  front ++ natLe 4 (crc32 front).toNat

/-- A slot header (Table 13.4). -/
structure SlotHeader where
  kind : Nat
  poison : Bool := false
  addr : Nat := 0
  tag : Nat := 0
  master : Nat := 0
  burst : Nat := 0
  status : Nat := 0
  deriving DecidableEq, Repr
/-- From its 96 bits. -/
def SlotHeader.ofBits (b : BitVec 96) : SlotHeader :=
  let v := b.toNat
  { kind := bitsOf v 95 92, poison := bitOf v 91, addr := bitsOf v 90 56, tag := bitsOf v 55 44, master := bitsOf v 43 28,
    burst := bitsOf v 27 20, status := bitsOf v 19 16 }
/-- Its 96 bits. -/
def SlotHeader.toBits (h : SlotHeader) : BitVec 96 :=
  BitVec.ofNat 96 (h.kind * 2 ^ 92 + (if h.poison then 2 ^ 91 else 0) + h.addr * 2 ^ 56 + h.tag * 2 ^ 44 + h.master * 2 ^ 28 +
    h.burst * 2 ^ 20 + h.status * 2 ^ 16)

/-- The body of a SLOTS flit: source, mask, up to three slots (Table 13.3). -/
def slotsBody (src : Nat) (xs : List LinkSlot) : BitVec 1952 :=
  let mask := xs.foldl (fun m x => if (SlotHeader.ofBits x.header).kind = 2 then x.mask else m) 0
  let one := fun (i : Nat) => match xs[i]? with
    | some x => x.header.toNat + x.data.toNat * 2 ^ 96
    | none => 0
  BitVec.ofNat 1952 (src + mask * 2 ^ 64 + one 0 * 2 ^ 128 + one 1 * 2 ^ 736 + one 2 * 2 ^ 1344)
/-- The three slots of a SLOTS body. -/
def slotsOf (body : BitVec 1952) : List LinkSlot :=
  (List.range 3).map (fun i =>
    { header := body.extractLsb' (128 + 608 * i) 96, data := body.extractLsb' (224 + 608 * i) 512,
      mask := (body.extractLsb' 64 64).toNat })
/-- src_peer of a SLOTS or BURST body. -/
def bodySrc (body : BitVec 1952) : Nat := bitsOf body.toNat 11 0

/-- The body of BURST flit `i` of a burst (R331): the marks of the blocks it touches and 240 data bytes. -/
def burstBody (src : Nat) (blocks : List (BitVec 512 × Bool)) (i : Nat) : BitVec 1952 :=
  let first := 240 * i / 64
  let marks := (List.range 5).foldl (fun m j =>
    let b := first + j
    if 64 * b < 240 * i + 240 ∧ (nth (0, false) blocks b).2 then m + 2 ^ j else m) 0
  let data := ((blocks.flatMap (fun b => blockBytes b.1)).drop (240 * i)).take 240
  BitVec.ofNat 1952 (src + marks * 2 ^ 16 + leNat data * 2 ^ 32)
/-- BURST flits of `b` blocks. -/
def burstFlits (b : Nat) : Nat := (64 * b + 239) / 240

/-! ## Entering an egress port -/

/-- May requests be sent or held at the port (Table 13.6)? -/
def LinkState.carries : LinkState → Bool
  | .disabled | .fault | .incompatible => false
  | _ => true

/-- A whole block: its 64 bytes as one run. -/
def wholeBlock (runs : Runs) : Option (List (Byte × Bool)) :=
  match runs with
  | [(0, l)] => if l.length = 64 then some l else none
  | _ => none
/-- The byte mask of a masked write. -/
def runsMask (runs : Runs) : Nat :=
  runs.foldl (fun m r => (List.range r.2.length).foldl (fun m i => m ||| 2 ^ (r.1 + i)) m) 0
/-- The block's data under the mask. -/
def runsData (runs : Runs) : BitVec 512 :=
  blockOf ((List.range 64).map (fun i : Nat =>
    (runs.foldl (fun (b : Byte) r => if r.1 ≤ i ∧ i < r.1 + r.2.length then (nth (0, false) r.2 (i - r.1)).1 else b) 0)))

/-- The slot that carries a request. -/
def requestSlot (t : Txn) (addr : Nat) : LinkSlot :=
  let h : SlotHeader := { kind := if t.write then (if (wholeBlock t.runs).isSome then 1 else 2) else 3,
                          poison := t.write && runsMarked t.runs, addr := addr / 64, tag := t.id % 4096, master := t.master }
  { header := h.toBits, data := if t.write then runsData t.runs else 0, mask := if t.write then runsMask t.runs else 0 }

/-- Does an egress entry go where `t` goes, as own traffic? -/
def Egress.joins (e : Egress) (t : Txn) (peer own : Nat) : Bool := e.vc = t.cls && e.dst = peer && e.hop = 0 && e.srcPeer = own

/-- The master of an own egress entry's request. -/
def Egress.master (e : Egress) : Nat := match e.parcel with
  | .slot x | .burst x _ _ => (SlotHeader.ofBits x.header).master
  | .forward .. => 0
/-- Joins a whole-block write to the run it follows (R331): the last entry of its channel, peer and master, if that is a write or
an unsent burst ending at the block before. -/
def joinBurst (q : List Egress) (t : Txn) (peer own addr : Nat) : Option (List Egress × Nat) :=
  let data : BitVec 512 × Bool := (runsData t.runs, runsMarked t.runs)
  match q.reverse.find? (fun e => e.joins t peer own && decide (e.master = t.master)) with
  | some e => match e.parcel with
    | .slot x =>
      let h := SlotHeader.ofBits x.header
      if h.kind = 1 ∧ h.addr + 1 = addr / 64 then
        let head : LinkSlot := { header := { h with kind := 6, burst := 1, poison := false }.toBits, data := 0, mask := 0 }
        let e' : Egress := { e with parcel := .burst head [(x.data, h.poison), data] none }
        some (q.map (fun y => if y = e then e' else y), h.tag)
      else none
    | .burst head bs none =>
      let h := SlotHeader.ofBits head.header
      if h.addr + bs.length = addr / 64 ∧ bs.length < 256 then
        let head' : LinkSlot := { head with header := { h with burst := bs.length }.toBits }
        let e' : Egress := { e with parcel := .burst head' (bs ++ [data]) none }
        some (q.map (fun y => if y = e then e' else y), h.tag)
      else none
    | _ => none
  | none => none

/-- An access that ends at its link port goes back to its issuer with `code`. -/
def State.fromPort (s : State) (t : Txn) (code : Nat) : State :=
  match t.phase with
  | .sent l => s.cameBack t l code
  | _ => s.putTxn { t with phase := .done code }
/-- An access completes as LINK_LOST at its port (R339): a read comes back poisoned. -/
def State.lose (s : State) (t : Txn) : State :=
  if t.write then s.fromPort t 8
  else
    let (d, s) := s.takeBlock
    s.fromPort { t with data := d, poison := true } 8

/-- A request of the module enters egress port `l` (R345); a port that carries nothing completes it as LINK_LOST at once
(R339). -/
def State.egressRequest (s : State) (l : Nat) (t : Txn) (peer addr : Nat) : State :=
  let k := s.link l
  if !k.state.carries then s.lose t
  else
    let s := s.putTxn t
    let one : State := s.setLink l { k with
      egress := k.egress ++ [⟨t.cls, 0, peer, s.ownPeer, .slot (requestSlot t addr), k.cycle, none⟩],
      outstanding := k.outstanding ++ [⟨t.id % 4096, peer, [t.id], addr, none⟩] }
    if t.write ∧ (wholeBlock t.runs).isSome then
      match joinBurst k.egress t peer s.ownPeer addr with
      | some (q, tag) =>
        let out := k.outstanding.map (fun o => if o.tag = tag ∧ o.peer = peer then { o with txns := o.txns ++ [t.id] } else o)
        s.setLink l { k with egress := q, outstanding := out }
      | none => one
    else one

/-- A response of the module leaves by its route to the origin, on RESPONSE at hop level 0 (R330, R341, R348). With no
route, or over a port that carries nothing, it is lost. -/
def State.respond (s : State) (peer : Nat) (h : SlotHeader) (data : BitVec 512) : State :=
  match s.routeOf peer with
  | some l =>
    let k := s.link l
    if k.state.carries then
      s.setLink l { k with egress := k.egress ++ [⟨1, 0, peer, s.ownPeer, .slot ⟨h.toBits, data, 0⟩, k.cycle, none⟩] }
    else s
  | none => s

/-- Answers a request of another module with a status (R339, R346): a read with poisoned data, a write or burst with an
acknowledgement. -/
def State.answerSlot (s : State) (status : Nat) (q : Nat × LinkSlot) : State :=
  let h := SlotHeader.ofBits q.2.header
  match h.kind with
  | 3 =>
    let (d, s) := s.takeBlock
    s.respond q.1 { kind := 4, poison := true, addr := h.addr, tag := h.tag, master := h.master, status := status } d
  | 1 | 2 => s.respond q.1 { kind := 5, addr := h.addr, tag := h.tag, master := h.master, status := status } 0
  | 6 => s.respond q.1 { kind := 5, addr := h.addr, tag := h.tag, master := h.master, status := status, burst := h.burst } 0
  | _ => s
/-- The requests a flit of another module carries or belongs to, each with its origin: a SLOTS flit's slots, the burst of a
BURST flit. -/
def flitRequests (ftype : Nat) (body : BitVec 1952) (head : Option LinkSlot) : List (Nat × LinkSlot) :=
  ((if ftype = 1 then slotsOf body else head.toList).filter (fun x =>
    let n := (SlotHeader.ofBits x.header).kind
    n = 1 || n = 2 || n = 3 || n = 6)).map (fun x => (bodySrc body, x))
/-- Answers them, each once. -/
def State.answerAll (s : State) (status : Nat) (qs : List (Nat × LinkSlot)) : State :=
  qs.eraseDups.foldl (fun (s : State) q => s.answerSlot status q) s

/-- Pool number of a virtual channel and hop level (R334). -/
def poolOf (vc hop : Nat) : Nat := 4 * hop + vc
/-- A pool's credits; 32 at the start of ACTIVE. -/
def LinkSt.credit (k : LinkSt) (p : Nat) : Nat := k.credits.get 32 p
/-- A received flit's buffer is free again. -/
def LinkSt.free (k : LinkSt) (vc hop : Nat) : LinkSt := { k with freed := k.freed.upd 0 (poolOf vc hop) (· + 1) }

/-- Accesses that complete as LINK_LOST. -/
def State.lost (s : State) (ids : List Nat) : State :=
  (s.txns.filter (fun t => ids.contains t.id)).foldl State.lose s
/-- The requests of other modules that a port holds: in its egress entries, unacknowledged, waiting in some receiver to be
forwarded by it, and bursts of which flits are still to come. -/
def State.forwardedBy (s : State) (l : Nat) : List (Nat × LinkSlot) :=
  let k := s.link l
  k.retry.flatMap (fun f => if f.ingress.isSome then flitRequests f.ftype f.body f.head else []) ++
  k.egress.flatMap (fun e => match e.parcel with | .forward ft body head => flitRequests ft body head | _ => []) ++
  s.links.flatMap (fun x : Nat × LinkSt =>
    (x.2.waiting.filter (fun f => f.out = l)).flatMap (fun f => flitRequests f.ftype f.body f.head) ++
    ((x.2.bursts.map (·.2)).filter (fun b => !b.mine && !b.answered && b.out = l)).map (fun b => (b.srcPeer, b.head)))
/-- A port's receiver gives up what it held for port `l`. -/
def LinkSt.forget (k : LinkSt) (l : Nat) : LinkSt :=
  (k.waiting.filter (fun f => f.out = l)).foldl (fun (k : LinkSt) f => if f.owed then k.free f.vc f.hop else k)
    { k with waiting := k.waiting.filter (fun f => f.out ≠ l),
             bursts := k.bursts.map (fun x => (x.1, if !x.2.mine && x.2.out = l then { x.2 with answered := true } else x.2)) }
/-- Every request of the module through port `l` completes as LINK_LOST, and every flit held for another module is answered
so (R339); the port's buffers are emptied. A burst that came in by it and is being forwarded ends there (log 53). -/
def State.loseLink (s : State) (l : Nat) : State :=
  let k := s.link l
  let held := s.forwardedBy l
  let s := s.lost (k.outstanding.flatMap (·.txns))
  let s := s.setLink l { k with egress := [], retry := [], resend := none, resends := 0, outstanding := [], bursts := [],
                                forwardOpen := [], nakDue := false, nakSent := false }
  let s : State := { s with links := s.links.map (fun x =>
    let y := x.2.forget l
    (x.1, { y with forwardOpen := y.forwardOpen.filter (fun o => o.2.1 ≠ l) })) }
  s.answerAll 8 held

/-- A port falls into RETRAIN; the third time within 2^30 link cycles puts it in FAULT (R335, R339). -/
def State.enterRetrain (s : State) (l : Nat) : State :=
  let k := s.link l
  let at_ := (k.retrainAt ++ [k.cycle]).filter (fun c => decide (k.cycle < c + 2 ^ 30))
  let k := { k with retrains := min 255 (k.retrains + 1), retrainAt := at_, resend := none, resends := 0 }
  if at_.length ≥ 3 then
    let unacked := k.retry.length
    let (cause, s) := s.takeFree
    let s := (s.setLink l { k with state := .fault }).loseLink l
    s.raise 0x40 [wd (l + bitsOf cause.toNat 7 0 * 256), wd unacked]
  else s.setLink l { k with state := .retrain }

/-- The link island advances by `gap` cycles: LNK_CYCLE and the port's cycle counter (R425, Table 19.4), and
LINK_RETRY_FULL while 512 flits are unacknowledged (R332). -/
def State.linkTick (s : State) (l gap : Nat) : State :=
  let k := s.link l
  ((s.setLink l { k with cycle := (k.cycle + gap) % 2 ^ 64 }).countUnit (linkUnit l) 0 gap).countUnit (linkUnit l) 4
    (if k.state = LinkState.active ∧ k.retry.length ≥ 512 ∧ k.resend = none then gap else 0)

/-! ## Forwarding (R342, R346) -/

/-- May the far end of a port have credits to reserve? -/
def LinkState.reserves : LinkState → Bool
  | .active | .retrain | .standby => true
  | _ => false
/-- The flits of a receiver that come first in their channel for port `out`. -/
def LinkSt.firsts (k : LinkSt) (out : Nat) : List HeldFlit :=
  (List.range 4).filterMap (fun v => k.waiting.find? (fun f => f.out = out && f.vc = v))
/-- The first of a list by age. -/
def oldest {α : Type} (age : α → Nat × Nat × Nat) (l : List α) : Option α :=
  let before := fun (a b : Nat × Nat × Nat) =>
    decide (a.1 < b.1) || (decide (a.1 = b.1) && (decide (a.2.1 < b.2.1) || (decide (a.2.1 = b.2.1) && decide (a.2.2 < b.2.2))))
  l.foldl (fun o x => match o with
    | some y => if before (age x) (age y) then some x else some y
    | none => some x) none
/-- Data bytes of a forwarded flit, as counted on the ports it crosses (log 52). -/
def forwardBytes (ftype : Nat) (body : BitVec 1952) : Nat :=
  if ftype = 1 then 64 * ((slotsOf body).filter (fun x =>
    let n := (SlotHeader.ofBits x.header).kind
    n = 1 || n = 2 || n = 4)).length else 240
/-- The oldest flit that waits for port `out` takes a buffer at the next hop level there, enters the fabric and joins the port's
entries; its receiver's buffer is free again. -/
def State.forwardOne (s : State) (out : Nat) : Option State :=
  let k := s.link out
  if !k.state.reserves then none
  else
    let cands := (List.range 36).flatMap (fun i => ((s.link i).firsts out).map (fun f => (i, f)))
    let ready := cands.filter (fun x : Nat × HeldFlit => decide (0 < k.credit (poolOf x.2.vc (x.2.hop + 1))))
    (oldest (fun x : Nat × HeldFlit => (x.2.entered, x.2.vc, x.1)) ready).map (fun x =>
      let f := x.2
      let p := poolOf f.vc (f.hop + 1)
      let s := s.setLink out { k with
        credits := k.credits.set p (k.credit p - 1),
        egress := k.egress ++ [⟨f.vc, f.hop + 1, f.dst, bodySrc f.body, .forward f.ftype f.body f.head, f.entered, some x.1⟩] }
      let r := s.link x.1
      let r' : LinkSt := { r with waiting := r.waiting.erase f }
      (s.setLink x.1 (if f.owed then r'.free f.vc f.hop else r')).countPath (linkGuild x.1) (edgePort (linkGuild x.1) (.link x.1))
        (linkGuild out) (edgePort (linkGuild out) (.link out)) (forwardBytes f.ftype f.body))
/-- As many as can. -/
def State.forwardFrom : Nat → State → Nat → State
  | 0, s, _ => s
  | n + 1, s, out => match s.forwardOne out with
    | some s' => State.forwardFrom n s' out
    | none => s
/-- Every flit that waits for port `out` and can enter the fabric does. -/
def State.forwards (s : State) (out : Nat) : State :=
  State.forwardFrom ((s.links.map (fun x => (x.2.waiting.filter (fun f => f.out = out)).length)).foldl (· + ·) 0) s out

end Sys2Proof.Machine
end

