-- ==== Sys2Proof/Machine/Transit.lean ====
section
/-! DEFINITION. What an access does where its path ends (R245, R303, R316, R319, R345), and how it crosses a hop (R256, R257,
R301 to R310). -/

namespace Sys2Proof.Machine

/-! ## Flits of ledger images -/

/-- Where a flit writes and what (R285): a packed slot is followed by zeros to 80 bytes, a full one travels as two flits, the
header is followed by zeros to 64. -/
def Flit.write (second : Bool) : Flit → Nat × List (Byte × Bool)
  | .bytes off bs => (off, bs)
  | .header off _ mask mark => (off, markAll mark (natLe 64 mask))
  | .slot off _ f mark =>
    let b := LedgerOps.slotBytes f
    if !LedgerOps.isFull f then (off, markAll mark b)
    else if second then (off + 64, markAll mark (b.drop 64)) else (off, markAll mark (b.take 64))
/-- The offset of the first write of some flits. -/
def flitBase (second : Bool) (fs : List Flit) : Nat := match fs with | f :: _ => (f.write second).1 | [] => 0
/-- The writes of some flits from that offset. -/
def flitRuns (second : Bool) (fs : List Flit) : Runs :=
  fs.map (fun f => ((f.write second).1 - flitBase second fs, (f.write second).2))
/-- The payload bytes of a piece of an image row (Table 12.6). -/
def Flit.payload (second : Bool) : Flit → List Byte
  | .bytes _ bs => bs.map (·.1)
  | .header .. => []
  | .slot _ _ f _ =>
    let b := LedgerOps.slotBytes f
    if !LedgerOps.isFull f then b.take 24 else if second then b.drop 64 else b.take 64
/-- A piece with the payload received in its place: `i` numbers the packed slots of a flit. -/
def Flit.received (second : Bool) (p : BitVec 512) (mark : Bool) (x : Flit × Nat) : Flit :=
  match x.1 with
  | .slot off c (.packed _) _ => .slot off c (.packed (p.extractLsb' (192 * x.2) 192)) mark
  | .slot off c (.full w) _ =>
    .slot off c (.full (if second then p.setWidth 128 ++ w.setWidth 512 else w.extractLsb' 512 128 ++ p)) mark
  | .header off n m _ => .header off n m mark
  | .bytes off bs => .bytes off (bs.map (fun b => (b.1, mark)))

/-! ## The end of the path -/

/-- The flit that reaches the landing buffer of a guild goes on to each of its target cores there, one access each (R316). -/
def State.landed (s : State) (t : Txn) (g off : Nat) : State :=
  (t.copies.filter (fun c => guildOf c = g)).foldl (fun (s : State) c =>
    { s with nextIssue := s.nextIssue + 1 }.addTxn
      { t with target := .core c off, phase := .sent (.ls c off), path := [⟨g, c % 32, true⟩], entered := s.nextIssue,
               copies := [], landing := t.id + 1 }) (s.dropTxn t.id)
/-- The flit that reaches the ledger adders of a guild joins their queue (R319). -/
def State.toAdder (s : State) (t : Txn) (g off : Nat) : State :=
  let x := s.guild g
  let n := match t.target with | .set n _ => n | _ => 0
  (s.setGuild g { x with adds := x.adds ++ t.flits.map (fun f =>
    AddFlit.mk (t.master % 4096) t.owner t.source t.second n off f t.poison) }).dropTxn t.id

/-- An access at the end of its path: a request leaves by its link port, the host port performs it, a landing buffer or ledger
adder takes it; elsewhere it waits to be performed or delivered. -/
def State.reached (s : State) (t : Txn) : State :=
  match t.phase with
  | .sent (.peer p a) => s.egressRequest t.link t p a
  | .sent (.host a) =>
    if t.write then (s.hostWrite a t.runs).cameBack t (.host a) 0
    else
      let (d, m) := s.hostRead a
      s.cameBack { t with data := d, poison := t.poison || m } (.host a) 0
  | .sent (.landing g o) => s.landed t g o
  | .sent (.adder g o) => s.toAdder t g o
  | _ => s.putTxn t
/-- An access sets out for a place, and is there at once where no internal hop lies between. -/
def State.send (s : State) (t : Txn) (l : Loc) (link : Nat) : State :=
  let x := s.depart t l link
  if x.1.path = [] then x.2.reached x.1 else x.2.putTxn x.1

/-! ## A hop -/

/-- The flit of an access as it crosses a hop (Table 12.5). The destination unit's code is a free value, and a request's address
is the address it names (log 42). -/
def Txn.wire (t : Txn) (port : Nat × Nat) : FlitWire :=
  let runs := t.runs
  let back := match t.phase with | .done _ => true | _ => false
  let slot := match t.flits with | .slot _ c _ _ :: _ => c | _ => 0
  let nm1 := match t.flits with | .header _ n _ _ :: _ => n - 1 | _ => 0
  let set := match t.target with | .set n _ => n | _ => 0
  let pay : BitVec 512 := if back then (if t.write then 0 else t.data) else if t.flits ≠ [] then blockOf (t.flits.flatMap (Flit.payload t.second))
    else if t.write then runsData runs else 0
  { cls := t.lane, kind := t.kind, src := t.master, dst := Config.unitCode port.1 port.2, addr := t.addr,
    mask := if t.kind = 1 then runsMask runs else 0, set := set, slot := slot, nm1 := nm1,
    poison := t.poison || (t.write && !back && runsMarked runs), payload := pay }
/-- The place an access goes to or comes from. -/
def Txn.port (t : Txn) : Nat × Nat :=
  match t.phase with
  | .sent l => l.port t.link
  | _ => (t.src.guild, t.src.port)
/-- An access with what the receiving side of a hop took in, when its checks hold: data, mask and mark as received. Where nothing
was inverted this is the access itself. -/
def Txn.taken (t : Txn) (sent got : FlitWire) : Txn :=
  if got = sent then t
  else match t.phase with
    | .done _ => { t with data := if t.write then t.data else got.payload, poison := got.poison }
    | _ => if t.flits ≠ [] then
        let fs := t.flits.zipIdx.map (Flit.received t.second got.payload got.poison)
        { t with flits := fs, runs := flitRuns t.second fs, poison := got.poison }
      else if t.write then { t with runs := maskRuns got.mask got.payload got.poison }
      else t
/-- An access passed on with a mark (R257): its block, written or delivered, is poisoned. -/
def Txn.marked (t : Txn) : Txn :=
  if t.write then { t with runs := t.runs.map (fun r => (r.1, r.2.map (fun b => (b.1, true)))), poison := true } else { t with poison := true }

/-- Does another access go first over the hop (R307)? One of the same class that entered the crossbar earlier, or the rest of a
packet of that class whose first flits have crossed it. -/
def State.hopTaken (s : State) (t : Txn) (h : Hop) : Bool :=
  let next := fun (u : Txn) => decide (u.path.head? = some h) && decide (u.lane = t.lane) && decide (u.id ≠ t.id)
  let open_ := fun (u : Txn) => decide (u.packet ≠ 0) && decide (u.part ≠ 0) && decide (u.packet ≠ t.packet) &&
    !s.txns.any (fun v => v.packet = u.packet && v.path.contains h && decide (v.part < u.part))
  s.txns.any (fun u => next u && (decide (u.entered < t.entered) || open_ u))

/-- A block meets its next hop (R257): the receiving side checks it as received and accepts it; else it is sent again, with the
`behind` blocks already sent after it; after its fourth failure it is passed on with a mark. -/
def State.hop (s : State) (t : Txn) (h : Hop) (rest : List Hop) (flips behind : Nat) : State :=
  let sent := t.wire t.port
  let (got, good) := sent.received flips
  let on := fun (s : State) (t : Txn) =>
    let t' : Txn := { t with path := rest, checkFails := 0, entered := s.nextIssue }
    let s : State := h.busyIndices.foldl (fun (s : State) i => s.portBusy h.unit i) { s with nextIssue := s.nextIssue + 1 }
    if rest = [] then s.reached t' else s.putTxn t'
  if good then on s (t.taken sent got)
  else if t.checkFails < 3 then
    let after := (s.txns.filter (fun u => u.path.head? = some h && decide (t.entered < u.entered))).length
    (s.putTxn { t with checkFails := t.checkFails + 1 }).countUnit h.unit h.resendIndex (1 + min behind after)
  else on (s.raise 0x21 [wd (h.unit + h.port * 4096), wd t.addr]) t.marked
/-- BLOCK_HOP_RECEIVE on the next hop of an access, when nothing goes first. That the block is received says that a buffer of its class
was free there (R305): how many each hop has is not given (DESIGN CHOICE, log 59). -/
def State.hopReceive (s : State) (x : Nat) (h : Hop) (flips behind : Nat) : State :=
  match s.txn x with
  | some t => match t.path with
    | h' :: rest => if h' = h ∧ !s.hopTaken t h then s.hop t h rest flips behind else s
    | [] => s
  | none => s

end Sys2Proof.Machine
end

