-- ==== Sys2Proof/Machine/Access.lean ====
section
/-! DEFINITION. An access made within one step (host window, host commands, records, Scrivener, collective library):
translated, checked and performed at once; a write that meets a frozen page, a peer page or an earlier access it must not pass
goes on as an access of the pool, and a read of a peer page is asked of the peer first. -/

namespace Sys2Proof.Machine

/-- A block a peer has answered to a read of a one-step access (R345): its DVA, data and mark, and the code it ended with. -/
structure PeerAnswer where
  block : Nat
  data : BitVec 512
  mark : Bool
  code : Nat
  deriving DecidableEq, Repr

/-- What a one-step read gives. -/
inductive Got where
  | data (d : BitVec 512) (mark : Bool)
  | refused (reason : Nat)
  | peer (id addr : Nat) (mark : Bool)
  deriving DecidableEq, Repr

/-- Is an earlier access of a source still on its way to the same destination in the same class (R174)? -/
def State.passes (s : State) (src : Src) (cls : Nat) (l : Loc) : Bool :=
  s.txns.any (fun u => decide (u.src = src) && decide (u.cls = cls) && (match u.phase with
    | .sent m => decide (m.dest = l.dest)
    | .walking | .held => (s.headed u).any (fun m => decide (m.dest = l.dest))
    | _ => false))

/-- The hops of a one-step access are crossed (R257, R267). -/
def State.carried (s : State) (src : Src) (l : Loc) (dva : Nat) (write : Bool) : Bool × State :=
  (s.linkEcc l).ferry (if write then hopsOut src l 0 else hopsBack src l 0) dva

/-- Reads the block of a DVA for `src` (R249 to R254). A refused read raises ACCESS_REFUSED. -/
def State.readBlock (s : State) (src : Src) (master dva : Nat) (window : Bool) : Got × State :=
  let b := dva / 64 * 64
  if dva ≥ 2 ^ 41 then (.refused 1, s.refusedEvent master 1 b)
  else
    let (e, s) := s.entryOf src.guild (dva / 65536)
    match s.judge e master b false window with
    | .refuse r => (.refused r, s.refusedEvent master r b)
    | .hold => (.refused 1, s)
    | .go (.peer p a) bad => (.peer p a bad, s)
    | .go loc bad =>
      let ((d, m), s) := s.readAt loc
      let (lost, s) := s.carried src loc b false
      (.data d (m || bad || lost), s)

/-- Where a one-step access would touch a block of the host's (R405): the place, when translation allows it. -/
def State.placeOf (s : State) (g master dva : Nat) (write : Bool) : Option Loc :=
  match s.judge (s.entryOf g (dva / 65536)).1 master (dva / 64 * 64) write false with
  | .go loc _ => some loc
  | _ => none

/-- Writes bytes of the block of a DVA from `src`: 0 when performed or on its way, else the refusal reason. -/
def State.writeBlock (s : State) (src : Src) (master cls dva : Nat) (window : Bool) (runs : Runs) : Nat × State :=
  let b := dva / 64 * 64
  if dva ≥ 2 ^ 41 then (1, s.refusedEvent master 1 b)
  else
    let (e, s) := s.entryOf src.guild (dva / 65536)
    let t : Txn := { id := s.nextTxn, src := src, owner := 0, master := master, cls := cls, write := true, target := .dva b,
                     runs := runs, checked := true, issue := s.nextIssue }
    let add := fun (s : State) (p : Phase) => ({ s with nextIssue := s.nextIssue + 1 } : State).addTxn { t with phase := p }
    match s.judge e master b true window with
    | .refuse r => (r, s.refusedEvent master r b)
    | .hold => (0, add s .held)
    | .go (.peer p a) _ => match s.routeOf p with
      | some l => (0, (add s .walking).send t (.peer p a) l)
      | none => (2, s)
    | .go loc _ =>
      if s.passes src cls loc then (0, add s .walking)
      else
        let (lost, s) := s.carried src loc b true
        (0, s.writeAt (if lost then runs.map (fun r => (r.1, r.2.map (fun x => (x.1, true)))) else runs) loc)

/-- Splits `n` bytes from address `a` at block ends: block address, offset, count and position. -/
def blockParts : Nat → Nat → Nat → Nat → List (Nat × Nat × Nat × Nat)
  | 0, _, _, _ => []
  | f + 1, a, n, pos =>
    if n = 0 then []
    else
      let k := min n (64 - a % 64)
      (a / 64 * 64, a % 64, k, pos) :: blockParts f (a + k) (n - k) (pos + k)
/-- The block parts of a range. -/
def partsOf (a n : Nat) : List (Nat × Nat × Nat × Nat) := blockParts (n / 64 + 2) a n 0

/-- One part of a one-step read: its bytes with marks, the reason when refused, and the state. A peer's block is taken from
`answers`, or else asked of the peer; what a refused or lost block holds is not given. -/
def State.readPart (s : State) (src : Src) (master : Nat) (p : Nat × Nat × Nat × Nat) (answers : List PeerAnswer) :
    List (Byte × Bool) × Option Nat × State :=
  let cut := fun (d : BitVec 512) (m : Bool) => markAll m (((blockBytes d).drop p.2.1).take p.2.2.1)
  let none_ := fun (st : State) (r : Nat) =>
    let (d, st) := st.takeBlock
    (cut d true, some r, st)
  let (got, st) := s.readBlock src master p.1 false
  match got with
  | .data d m => (cut d m, none, st)
  | .refused r => none_ st r
  | .peer id a bad => match answers.find? (fun x => x.block = p.1) with
    | some x => (cut x.data (x.mark || bad), if x.code = 0 then none else some x.code, st)
    | none => (cut 0 true, none, { st with asks := st.asks ++ [.peer ⟨src, master, p.1, id, a⟩] })
/-- A one-step read of a range: bytes with marks, and the reasons of refused blocks. -/
def State.readRange (s : State) (src : Src) (master dva n : Nat) (answers : List PeerAnswer) :
    List (Byte × Bool) × List Nat × State :=
  (partsOf dva n).foldl (fun acc p =>
    let (bs, r, st) := acc.2.2.readPart src master p answers
    (acc.1 ++ bs, acc.2.1 ++ r.toList, st)) (([], [], s) : List (Byte × Bool) × List Nat × State)

/-- Owner number of the reads asked of peers for one-step accesses. -/
def askOwner : Nat := 7
/-- Is it a read asked of a peer for a one-step access of the units `mine`? -/
def Txn.asked (t : Txn) (mine : Src → Bool) : Bool := mine t.src && !t.write && decide (t.owner = askOwner)
/-- The answers that have arrived for their one-step reads. -/
def State.peerAnswers (s : State) (mine : Src → Bool) : List PeerAnswer :=
  (s.txns.filter (fun t => t.asked mine)).filterMap (fun t => match t.phase, t.path with
    | .done c, [] => some ⟨t.target.addr, t.data, t.poison, c⟩
    | _, _ => none)
/-- A read asked of a peer, unless it is on its way already. -/
def State.askPeer (s : State) (cls : Nat) (q : PeerAsk) : State :=
  if s.txns.any (fun t => decide (t.src = q.src) && !t.write && decide (t.owner = askOwner) && decide (t.target = .dva q.dva)) then s
  else match s.routeOf q.peer with
    | some l =>
      let t : Txn := { id := s.nextTxn, src := q.src, owner := askOwner, master := q.master, cls := cls, write := false,
                       target := .dva q.dva, len := 64, issue := s.nextIssue }
      (({ s with nextIssue := s.nextIssue + 1 } : State).addTxn t).send t (.peer q.peer q.addr) l
    | none => s
/-- What a command needs is asked for. -/
def State.ask (s : State) (cls : Nat) : Ask → State
  | .peer q => s.askPeer cls q
  | .host l => s.backInvalidateAt l
/-- A one-step operation that reads through PEER pages (R345), or meets blocks that the host may hold (R405): it takes place once
every block it needs has been given; before that, its step asks for those that are missing and does nothing else (log 45). -/
def State.withAnswers (s : State) (mine : Src → Bool) (cls : Nat) (f : List PeerAnswer → State → State) : State :=
  let t := f (s.peerAnswers mine) s
  if t.asks = [] then { t with txns := t.txns.filter (fun u => !u.asked mine) }
  else t.asks.foldl (fun (s : State) q => s.ask cls q) s

/-- A one-step write of a range: the refusal reasons and the state. -/
def State.writeRange (s : State) (src : Src) (master cls dva : Nat) (bs : List (Byte × Bool)) : List Nat × State :=
  (partsOf dva bs.length).foldl (fun acc p =>
    let (r, st) := acc.2.writeBlock src master cls p.1 false [(p.2.1, (bs.drop p.2.2.2).take p.2.2.1)]
    (if r = 0 then acc.1 else acc.1 ++ [r], st)) (([], s) : List Nat × State)

/-- Writes one 64-byte record at a DVA (R439, R467). -/
def State.writeRecord (s : State) (src : Src) (master dva : Nat) (bs : List Byte) : State :=
  (s.writeBlock src master 0 dva false [(0, markAll false bs)]).2

/-- The blocks of a range that the host may hold (R405). -/
def State.snoopedOf (s : State) (g master dva n : Nat) (write : Bool) : List Loc :=
  ((partsOf dva n).filterMap (fun p => s.placeOf g master p.1 write)).filter s.snooped
/-- They are asked for. -/
def State.needRange (s : State) (g master dva n : Nat) (write : Bool) : State :=
  { s with asks := s.asks ++ (s.snoopedOf g master dva n write).map Ask.host }
/-- The blocks of a range that the host may hold (R405): BISnpInv is sent for each. -/
def State.recall (s : State) (g master dva n : Nat) (write : Bool) : Bool × State :=
  let hit := s.snoopedOf g master dva n write
  (!hit.isEmpty, hit.foldl (fun (s : State) l => s.backInvalidateAt l) s)

end Sys2Proof.Machine
end

