-- ==== Sys2Proof/Machine/Fabric.lean ====
section
/-! DEFINITION. Accesses of the pool on their way (R245 to R257, R289 to R291): taking a tag, translation, the access at its
target, and delivery. -/

namespace Sys2Proof.Machine

/-! ## Translation -/

/-- An access after its verdict: refused, held, or sent towards its target. -/
def State.act (s : State) (t : Txn) : Verdict → State
  | .refuse r => (s.refusedEvent t.master r t.addr).spoil t r
  | .hold => s.putTxn { t with phase := .held }
  | .go (.peer p a) bad => match s.routeOf p with
    | some l => s.send { t with poison := t.poison || (bad && !t.write) } (.peer p a) l
    | none => s.spoil t 2
  | .go loc bad => s.send { t with poison := t.poison || (bad && !t.write) } loc 0

/-- Must an access that goes to `l` let an earlier one of its source, class and destination be translated first (R174)? -/
def State.behind (s : State) (t : Txn) (l : Loc) : Bool :=
  s.txns.any (fun u => decide (u.src = t.src) && decide (u.cls = t.cls) && decide (u.issue < t.issue) &&
    (decide (u.phase = .walking) || decide (u.phase = .held)) && (s.headed u).any (fun m => decide (m.dest = l.dest)))

/-- The target guilds of a list of cores, ascending. -/
def targetGuilds (cs : List Nat) : List Nat := (List.range 32).filter (fun g => cs.any (fun c => guildOf c = g))
/-- The live target cores of a set, ascending (R312). -/
def State.setTargets (s : State) (n : Nat) : List Nat :=
  (List.range 1024).filter (fun c => (s.setMasks.get 0 (16 * n + c / 64)).getLsbD (c % 64) && !s.fenced c)
/-- GLD_SET_CTRL of a set. -/
def State.setCtrl (s : State) (n : Nat) : Word := s.sets.get 0 n
/-- A descriptor of a Drayman's queue changed. -/
def State.onDray (s : State) (g id : Nat) (f : DrayDesc → DrayDesc) : State :=
  let x := s.guild g
  s.setGuild g { x with drayQueue := x.drayQueue.map (fun (d : DrayDesc) => if d.id = id then f d else d) }

/-- A flit to a set enters the fabric: one copy to each target guild (R316), or to the ledger adders of each guild that granted
it. A Drayman's copy goes to the targets the set has now, without a reservation, and waits for all of them; what a read from a
set delivers is not given (log 46). -/
def State.fanOut (s : State) (t : Txn) (n off : Nat) : State :=
  if !t.write then
    let (d, s) := s.takeBlock
    s.putTxn { t with phase := .done 0, data := d }
  else
    let dray : Bool := match t.src with | .drayman _ => true | _ => false
    let cs := if dray then (if (s.setCtrl n).getLsbD 63 then s.setTargets n else []) else t.copies
    let gs := if t.reduce then cs else targetGuilds cs
    let s := if dray then s.onDray t.src.guild t.owner (fun d => { d with writesLeft := d.writesLeft + cs.length - 1 }) else s
    if gs = [] then s.putTxn { t with phase := .done 0 }
    else gs.foldl (fun (s : State) g =>
      let x : Txn := { t with id := s.nextTxn, copies := if t.reduce then [] else cs.filter (fun c => guildOf c = g) }
      (s.addTxn x).send x (if t.reduce then .adder g off else .landing g off) 0) (s.dropTxn t.id)

/-- Translates an access (R246, R249, R252, R283): a core-number target directly, a DVA by the caches of its guild; a miss in
both goes to the half's walker, and so does one that an earlier access it must not pass waits before. -/
def State.translate (s : State) (t : Txn) : State :=
  if t.malformed then s.act t (.refuse 2)
  else match t.target with
  | .core c o => s.act t (if s.fenced c then .refuse 2 else .go (.ls c o) false)
  | .set n o => s.fanOut t n o
  | .dva a => match s.cached t.src.guild (a / 65536) with
    | (some e, s) =>
      let v := s.judge (some e) t.master a t.write (decide (t.src = .host))
      match v with
      | .go l _ => if s.behind t l then s.putTxn { t with phase := .walking } else s.act t v
      | _ => s.act t v
    | (none, s) => s.putTxn { t with phase := .walking }

/-- The walker of a half reads the table block of its oldest miss that no earlier access holds back, and serves every access
that waits for it (R252). -/
def State.serveWalk (s : State) (half : Nat) : State :=
  let waits := fun (t : Txn) => decide (t.phase = .walking) && decide (t.src.guild / 16 = half) && s.performedAll t.after
  match s.txns.find? (fun t => waits t && !(s.headed t).any (s.behind t)) with
  | some t0 =>
    let page := fun (t : Txn) => t.target.addr / 65536
    let (e, s') := s.walk t0.src.guild (page t0)
    let served := s.txns.filter (fun t => waits t && page t / 8 = page t0 / 8)
    served.foldl (fun (s : State) t =>
      if e.isNone then s.act t (.refuse 4) else s.translate t) s'
  | none => s

/-! ## Tags and hot banks (R289 to R291) -/

/-- The bank of a place in the sense of the tag cap (R259, R264). -/
def Loc.bank : Loc → Option (Nat × Nat)
  | .shale g a => some (g, bitsOf a 11 8 + 16 * bitsOf a 16 15 + 64 * bitsOf a 14 12)
  | .bedrock k a => some (32 + k, bitsOf a 11 8 + 16 * bitsOf a 15 12)
  | _ => none
/-- DPA of a place in the tiers. -/
def Loc.dpa : Loc → Nat
  | .shale g a => shaleDpa g a
  | .bedrock k a => bedrockDpa k a
  | .ls c o => lsDpa c o
  | _ => 0

/-- Tags an engine holds on a bank: of accesses on their way there, waiting to be translated, or on their way back. -/
def State.bankTags (s : State) (src : Src) (b : Nat × Nat) : Nat :=
  (s.txns.filter (fun t => decide (t.src = src) && t.tagged && (match t.phase with
    | .sent l => decide (l.bank = some b)
    | _ => decide ((s.headed t).bind Loc.bank = some b)))).length

/-- The physical local-store segments of a contiguous logical range (R287): split where the placement map breaks it. -/
def skewParts (skew a n : Nat) : List (Nat × Nat × Nat) :=
  if skew = 0 then [(a, n, 0)]
  else
    let step := fun (acc : List (Nat × Nat × Nat)) (i : Nat) =>
      let lo := max a (2048 * i)
      let hi := min (a + n) (2048 * (i + 1))
      if lo < hi then acc ++ [(skewMap skew lo, hi - lo, lo - a)] else acc
    ((List.range ((a + n) / 2048 - a / 2048 + 1)).map (· + a / 2048)).foldl step []

/-- The blocks a stream's walk touches on its remote side. -/
def Stream.remoteBlocks (d : Stream) : List Nat :=
  d.rows.flatMap (fun r => (partsOf r.2.toNat d.count0).map (·.1))
/-- A block of a kind of address (Table 11.2) in terms of destinations: DVA blocks under 0, a core's under 1024 + its number, a
set's under each of its targets. -/
def State.blocksOf (s : State) (kind unit b : Nat) : List (Nat × Nat) :=
  if kind = 0 then [(0, b)] else if kind = 1 then [(1024 + unit, b)] else (s.setTargets unit).map (fun c => (1024 + c, b))
/-- Is the descriptor a copy from the core's local side (R293)? -/
def DrayDesc.fromCore (x : DrayDesc) : Bool := x.stream.psrc && !x.fence
/-- The blocks a Drayman descriptor reads (R293). -/
def State.drayReads (s : State) (x : DrayDesc) : List (Nat × Nat) :=
  if x.fromCore then []
  else x.stream.remoteBlocks.flatMap (s.blocksOf x.stream.rkind x.stream.rUnit)
/-- The blocks of the issuing core's local store it reads. -/
def DrayDesc.localBlocks (x : DrayDesc) : List (Nat × Nat) :=
  if x.fromCore then x.stream.rows.flatMap (fun r => (skewParts x.stream.skew r.1.toNat x.stream.count0).flatMap (fun p =>
    (partsOf p.1 p.2.1).map (fun q => (1024 + x.core, q.1)))) else []
/-- The destination of a dense copy (Table 11.1): its unit and first address. -/
def Stream.denseDst (d : Stream) : Nat × Nat :=
  if d.pfKind = 0 then (0, bitsOf d.pfDst 40 0)
  else (if d.pfKind = 1 then bitsOf d.pfDst 28 19 else bitsOf d.pfDst 36 29, bitsOf d.pfDst 18 0)
/-- The blocks it writes. -/
def State.drayWrites (s : State) (x : DrayDesc) : List (Nat × Nat) :=
  if x.fromCore then x.stream.remoteBlocks.flatMap (s.blocksOf x.stream.rkind x.stream.rUnit)
  else
    let d := x.stream.denseDst
    (partsOf d.2 x.stream.total).flatMap (fun p => s.blocksOf x.stream.pfKind d.1 p.1)
/-- A target in the same terms. -/
def State.targetBlocks (s : State) : Target → List (Nat × Nat)
  | .dva a => [(0, a / 64 * 64)]
  | .core c o => [(1024 + c, o / 64 * 64)]
  | .set n o => s.blocksOf 2 n (o / 64 * 64)
/-- Has the descriptor performed all its accesses? -/
def DrayDesc.finished (x : DrayDesc) : Bool := x.onChannel && x.readsLeft = 0 && x.writesLeft = 0
/-- Have two lists of blocks one in common? -/
def blocksMeet (a b : List (Nat × Nat)) : Bool := a.any b.contains

/-- Is the core a target of a burst that has not left its sender, and whose order with the sender's unicast writes counts
(R174, R316, R321)? -/
def State.burstTargets (s : State) (b : Burst) (c : Nat) : Bool :=
  !b.reduce && (if b.begun then b.targets else s.setTargets b.set).contains c
/-- Must a waiting access wait for others (R174, R294, R316, and `after`)? An outbound write behind an earlier PREFETCH of its
core that will read the block, and behind its sender's earlier burst to the same core in the same class; a Drayman's access
behind an earlier descriptor's opposite access. -/
def State.mustWait (s : State) (t : Txn) : Bool :=
  t.after.any (fun x => (s.txn x).isSome) ||
  (match t.src, t.target with
   | .outbound c, .core x _ =>
     s.bursts.any (fun b => b.core = c && b.cls = t.cls && decide (b.op.uid < t.owner) && s.burstTargets b x)
   | _, _ => false) ||
  (match t.src with
   | .outbound c => t.write && (s.guild (guildOf c)).drayQueue.any (fun (x : DrayDesc) =>
       x.core = c && !x.fence && !x.stream.psrc && x.stream.rkind = 0 && decide (x.op.uid < t.owner) &&
       (!x.onChannel && blocksMeet (s.targetBlocks t.target) (s.drayReads x) ||
        s.txns.any (fun u => u.src = .drayman (guildOf c) && u.owner = x.id && !u.write &&
          blocksMeet (s.targetBlocks u.target) (s.targetBlocks t.target))))
   | .drayman g => (s.guild g).drayQueue.any (fun (x : DrayDesc) => decide (x.id < t.owner) && !x.finished &&
       blocksMeet (s.targetBlocks t.target) (if t.write then s.drayReads x ++ x.localBlocks else s.drayWrites x))
   | _ => false)

/-- Marks an access counted as HOT_BANK, counts it and raises the event (R290). -/
def State.noteHot (s : State) (t : Txn) (l : Loc) : State :=
  if t.hot then s
  else
    let (c, eng) := match t.src with
      | .inbound c => (c, 3)
      | .outbound c => (c, 4)
      | _ => (t.master % 4096, 8)
    ((s.putTxn { t with hot := true }).countCore c 0x053 1).raise 0x0C [wd (c + eng * 4096), wd l.dpa]

/-- Takes the oldest waiting access of an engine whose bank is under the cap, noting the ones held; `shut` are the banks of the
older ones that wait, which no younger one passes (R290). -/
def State.pickTag (s : State) (src : Src) (shut : List (Nat × Nat)) : List Txn → Option Txn × State
  | [] => (none, s)
  | t :: ts =>
    match (s.headed t).bind Loc.bank, s.headed t with
    | some b, some l =>
      if shut.contains b then State.pickTag s src shut ts
      else if s.mustWait t then State.pickTag s src (b :: shut) ts
      else if s.bankTags src b ≥ src.caps.2 then State.pickTag (s.noteHot t l) src (b :: shut) ts
      else (some t, s)
    | _, _ => if s.mustWait t then State.pickTag s src shut ts else (some t, s)

/-- An engine's requests that wait for a tag, the first in line first: a Drayman's in the age order of their descriptors
(R292). -/
def State.inLine (s : State) (src : Src) : List Txn :=
  let l := s.txns.filter (fun t => decide (t.src = src) && decide (t.phase = .waiting))
  match src with
  | .drayman g => (s.guild g).drayQueue.flatMap (fun (d : DrayDesc) => l.filter (fun t => decide (t.owner = d.id)))
  | _ => l
/-- The coefficient of a block by its target (R438). -/
def Loc.energyKind : Option Loc → Nat
  | some (.shale ..) => 0
  | some (.bedrock ..) => 1
  | some (.host _) => 3
  | some (.peer ..) => 4
  | _ => 2
/-- A core's invocation is charged with blocks going to some targets (R438). -/
def State.chargeBlocks (s : State) (c inv : Nat) (ls : List (Option Loc)) : State :=
  let k := s.core c
  let v := supply (s.pointOf c)
  let sum := ls.foldl (fun (n : Nat) l => n + Config.blockEnergy (Loc.energyKind l) * v * v) 0
  let g := k.gauger.onAccount inv (fun a => { a with transfer := a.transfer + sum })
  { s with cores := s.cores.set c { k with gauger := { g with winOther := g.winOther + sum } } }
/-- A block that a Carter issues is charged to its micro-op's invocation (R438). -/
def State.chargeIssue (s : State) (t : Txn) : State :=
  let one := fun (c : Nat) (g : Engine) => match ((s.core c).active g).find? (fun r => r.op.uid = t.owner) with
    | some r => s.chargeBlocks c r.op.inv [s.headed t]
    | none => s
  match t.src with
  | .inbound c => one c .inbound
  | .outbound c => one c .outbound
  | _ => s
/-- An engine's oldest eligible request takes a tag, is translated and enters the fabric (R289 to R291). -/
def State.issueTag (s : State) (src : Src) : State :=
  if s.tagsHeld src ≥ src.caps.1 then s
  else match s.pickTag src [] (s.inLine src) with
    | (some t, s) => { s.chargeIssue t with nextIssue := s.nextIssue + 1 }.translate { t with issue := s.nextIssue }
    | (none, s) => s

/-! ## Order and performing at the target -/

/-- Has no earlier access of the same source, destination and class still to be performed (R174)? -/
def State.inOrder (s : State) (t : Txn) (l : Loc) : Bool :=
  !s.txns.any (fun u => decide (u.src = t.src) && decide (u.cls = t.cls) && decide (u.issue < t.issue) && (match u.phase with
    | .sent m => decide (m.dest = l.dest) || (match m, l with | .landing .., .ls c _ => u.copies.contains c | _, _ => false)
    | _ => false))
/-- The pool after the write of an access is performed at a place: a posted one leaves it, others are acknowledged. -/
def State.performed (s : State) (t : Txn) (l : Loc) : State :=
  match t.src with
  | .outbound _ | .drayman _ | .tally _ _ | .house | .lib _ => s.cameBack t l 0
  | _ => s.dropTxn t.id
/-- Link-ECC corrections of an access performed at a Bedrock controller (R267). -/
def State.eccAt (s : State) (l : Loc) (ecc : Nat) : State :=
  match l with
  | .bedrock k _ => s.countUnit (bedrockUnit k) 1 ecc
  | _ => s

/-- Performs an access at a place of the tiers (R254, R261, R266), once it is there and in its order, and after the host's copy
has been called back (R405). -/
def State.perform (s : State) (t : Txn) (l : Loc) (ecc : Nat) : State :=
  if t.path ≠ [] ∨ !s.inOrder t l then s
  else if s.snooped l then s.backInvalidateAt l
  else
    let s := s.eccAt l ecc
    if t.write then (s.writeAt t.runs l).performed t l
    else
      let ((d, m), s) := s.readAt l
      s.cameBack { t with data := d, poison := t.poison || m } l 0

/-! ## Delivery -/

/-- One access of a micro-op outside the core has ended. -/
def CoreSt.accessDone (k : CoreSt) (g : Engine) (uid : Nat) : CoreSt :=
  k.setActive g ((k.active g).map (fun r => if r.op.uid = uid then { r with left := r.left - 1 } else r))
/-- A micro-op will complete without its bumps. -/
def CoreSt.noBump (k : CoreSt) (g : Engine) (uid : Nat) : CoreSt :=
  k.setActive g ((k.active g).map (fun r => if r.op.uid = uid then { r with noBump := true } else r))

/-- Runs that follow one another joined into one (R273). -/
def joinRuns (l : Runs) : Runs :=
  (l.foldl (fun (acc : Runs) (r : Nat × List (Byte × Bool)) => match acc with
    | (a, x) :: t => if a + x.length = r.1 then (a, x ++ r.2) :: t else r :: acc
    | [] => [r]) []).reverse

/-- Writes words of pattern memory (R277): fresh ECC, a quarter with any marked byte reads as a double-bit error. -/
def CoreSt.writePattern (k : CoreSt) (a : Nat) (bs : List (Byte × Bool)) : CoreSt :=
  let st := k.pattern
  let qs := (List.range (bs.length / 8)).map (fun i => (a / 8 + i, ((bs.drop (8 * i)).take 8).any (·.2)))
  { k with pattern := { st with data := st.data.wrBytes a (bs.map (·.1)),
                                single := qs.foldl (fun l q => idxDel l q.1) st.single,
                                double := qs.foldl (fun l q => idxPut l q.1 q.2) st.double } }

/-- The bytes a delivered read brings to its stream: local position and marked bytes. -/
def Txn.brought (t : Txn) : Nat × List (Byte × Bool) :=
  (t.spot, markAll t.poison (((blockBytes t.data).drop t.first).take t.len))

/-- Every read of an inbound STREAM has been delivered: its bytes are written, local lines whole where the stream covers
them (R273, R277). -/
def Eff.streamWritten (e : Eff) (ts : List Txn) : Eff :=
  let runs : Runs := joinRuns (ts.map Txn.brought)
  let n := ts.foldl (fun n t => n + t.len) 0
  let e := match ts with
    | t :: _ =>
      if t.pmem then runs.foldl (fun (e : Eff) (r : Nat × List (Byte × Bool)) => { e with k := e.k.writePattern r.1 r.2 }) e
      else runs.foldl (fun (e : Eff) (r : Nat × List (Byte × Bool)) => (skewParts t.skew r.1 r.2.length).foldl (fun (e : Eff) (p : Nat × Nat × Nat) =>
        e.writeLs p.1 ((r.2.drop p.2.2).take p.2.1)) e) e
    | [] => e
  e.count 0x059 n

/-- A write access of a Drayman descriptor: `b` the block it writes, from byte `o`. -/
def DrayDesc.writeTxn (x : DrayDesc) (master g kind unit : Nat) (bad : Bool) (b o : Nat) (bs : List (Byte × Bool)) : Txn :=
  { id := 0, src := .drayman g, owner := x.id, master := master, cls := x.stream.tclass, write := true, malformed := bad,
    target := if kind = 0 then .dva b else if kind = 1 then .core unit b else .set unit b, runs := [(o, bs)], first := b }
/-- The write accesses that a Drayman read turns into: the bytes go on to the dense destination (R293). -/
def DrayDesc.writeTxns (x : DrayDesc) (pos : Nat) (bs : List (Byte × Bool)) (master g : Nat) : List Txn :=
  let d := x.stream.denseDst
  (partsOf (d.2 + pos) bs.length).map (fun p =>
    x.writeTxn master g x.stream.pfKind d.1 x.stream.badDst p.1 p.2.1 ((bs.drop p.2.2.2).take p.2.2.1))

/-- Descriptors that have performed everything leave the queue, a FENCE ends its micro-op; one with a token stays until the
token is sent (R281, R295). -/
def State.settleDray (s : State) (g : Nat) : State :=
  let x := s.guild g
  let ovfl := x.drayQueue.filter (fun (d : DrayDesc) => d.finished && (!d.token || d.tokenSent))
  let s := s.setGuild g { x with drayQueue := x.drayQueue.filter (fun (d : DrayDesc) => !(d.finished && (!d.token || d.tokenSent))) }
  ovfl.foldl (fun (s : State) (d : DrayDesc) =>
    if d.fence then s.atCore d.core (fun e => { e with k := e.k.accessDone .inbound d.op.uid }) else s) s

/-- Read data arrives at its requester (R250, R277, R293, R345). -/
def State.deliverRead (s : State) (t : Txn) : State :=
  match t.src with
  | .inbound c =>
    if !s.coreRuns c then s
    else
      let s := s.putTxn { t with phase := .landed }
      let mine := s.txns.filter (fun u => u.src = t.src && u.owner = t.owner)
      let s := s.atCore c (fun e => { e with k := e.k.accessDone .inbound t.owner })
      if mine.all (fun u => u.phase = .landed) then
        let s := { s with txns := s.txns.filter (fun u => !(u.src = t.src && u.owner = t.owner)) }
        s.atCore c (fun e => e.streamWritten mine)
      else s
  | .drayman g =>
    let s := s.dropTxn t.id
    match (s.guild g).drayQueue.find? (fun (d : DrayDesc) => d.id = t.owner) with
    | some d =>
      let ws := d.writeTxns t.spot t.brought.2 t.master g
      let s := ws.foldl State.addTxn s
      (s.onDray g d.id (fun d => { d with readsLeft := d.readsLeft - 1, writesLeft := d.writesLeft + ws.length })).settleDray g
    | none => s
  | .peer _ =>
    let code := match t.phase with | .done c => c | _ => 0
    (s.dropTxn t.id).respond (t.owner / 4096 % 4096)
      { kind := 4, poison := t.poison, addr := t.target.addr / 64, tag := t.owner % 4096, master := t.owner / 2 ^ 24, status := code } t.data
  | _ => s

/-- A core's outbound STREAM learns of a write: a refusal is counted, a lost one ends it without bumps (R283, R339). -/
def Eff.writeEnded (e : Eff) (uid inv code : Nat) : Eff :=
  let e := { e with k := e.k.accessDone .outbound uid }
  if code = 8 then { e with k := e.k.noBump .outbound uid }.faultInv inv false
  else e.count 0x058 (if code = 0 then 0 else 1)

/-- A write of the collective library is acknowledged (R360): a lost one ends its stream without its bump, so that what
waits for it is not sent; else the messages whose data has all been acknowledged go. -/
def State.libAck (s : State) (t : Txn) (c code : Nat) : State :=
  let s := (s.dropTxn t.id).countCore c 0x058 (if code = 0 ∨ code = 8 then 0 else 1)
  let waits := s.txns.filter (fun u => u.src = .lib c && u.phase = .waiting && u.after.contains t.id)
  if code = 8 then { s with txns := s.txns.filter (fun u => !waits.any (fun w => w.id = u.id)) }
  else waits.foldl (fun (s : State) u => if s.mustWait u then s else s.translate u) s

/-- A write acknowledgement arrives at its issuer. -/
def State.deliverAck (s : State) (t : Txn) (code : Nat) : State :=
  match t.src with
  | .outbound c =>
    if !s.coreRuns c then s else (s.dropTxn t.id).atCore c (fun e => e.writeEnded t.owner t.spot code)
  | .drayman g =>
    let s := (s.dropTxn t.id).countCore (t.master % 4096) 0x058 (if code = 0 ∨ code = 8 then 0 else 1)
    let b := (0, t.first)
    (s.onDray g t.owner (fun d =>
      { d with writesLeft := d.writesLeft - 1, copied := if code = 0 then d.copied.insert b else d.copied,
               poisoned := if code = 0 ∧ runsMarked t.runs then d.poisoned.insert b else d.poisoned })).settleDray g
  | .tally _ _ => s
  | .lib c => s.libAck t c code
  | _ => s.dropTxn t.id

/-- A write from outside a core is performed by its inbound Carter (R166), after the check of its access table (R443,
R444) unless that was made before. -/
def State.arrive (s : State) (t : Txn) (c o : Nat) : State :=
  if t.path ≠ [] ∨ !s.coreRuns c ∨ !s.inOrder t (.ls c o) then s
  else if !t.checked ∧ !s.allowed 44 (s.lsClass c) t.master true then
    (s.refusedEvent t.master 3 t.addr).cameBack t (.ls c o) 3
  else
    (s.atCore c (fun e => t.runs.foldl (fun (e : Eff) r => e.arrive t.master (o + r.1) r.2) e)).performed t (.ls c o)

/-- A read of a core's local store by a Drayman (R443), performed in its order. -/
def State.readCore (s : State) (t : Txn) (c o : Nat) : State :=
  if t.path ≠ [] ∨ !s.inOrder t (.ls c o) then s
  else if s.allowed 44 (s.lsClass c) t.master false then
    let s := s.atCore c (fun e => e.touchLs o 64)
    let st := (s.core c).ls
    s.cameBack { t with data := blockOf (st.bytes o 64), poison := t.poison || st.marked o 64 } (.ls c o) 0
  else (s.refusedEvent t.master 3 t.addr).spoil t 3

end Sys2Proof.Machine
end

