-- ==== Sys2Proof/Machine/Flags.lean ====
section
/-! DEFINITION. Event flags and event records (20_errors_and_events.md): classes, record modes, pending bits, counts, the
event ring, and the interrupts that leave the host port. -/

namespace Sys2Proof.Machine

/-- Classes of Table 20.2 by code. -/
def eventClass (c : Nat) : Nat :=
  if c ∈ [0x0C, 0x51, 0x60, 0x62, 0x74] then 0
  else if c ∈ [0x05, 0x06, 0x07, 0x0A, 0x0B, 0x0D, 0x0E, 0x10, 0x20, 0x21, 0x22, 0x23, 0x30, 0x42, 0x43, 0x44, 0x45] then 1
  else if c ∈ [0x01, 0x02, 0x03, 0x04, 0x08, 0x09, 0x0F, 0x52, 0x53] then 2
  else if c ∈ [0x40, 0x41, 0x50, 0x61, 0x63, 0x70, 0x71] then 3
  else 4
/-- Record mode FIRST of Table 20.2; every other event is EVERY. -/
def eventFirst (c : Nat) : Bool := c ∈ [0x07, 0x0B, 0x0C, 0x10, 0x20, 0x42, 0x44, 0x45]

/-- The pending bit of an event (R474). -/
def State.eventPending (s : State) (c : Nat) : Bool := (s.evPending.get 0 (c / 64)).getLsbD (c % 64)
/-- The pending bit set. -/
def State.setEventPending (s : State) (c : Nat) : State :=
  { s with evPending := s.evPending.upd 0 (c / 64) (· ||| (1 <<< (c % 64))) }
/-- The count of an event raised by one. -/
def State.countEvent (s : State) (c : Nat) : State := { s with evCounts := s.evCounts.upd {} c (·.add 1) }

/-! ## What leaves the host port (R400, R409, R420) -/

/-- A device-initiated write of whole bytes of host memory (ItoMWr, R409): it waits while the link is down (R400). -/
def State.deviceWrite (s : State) (a : Nat) (bs : List Byte) : State :=
  if s.port.linkUp then (partsOf a bs.length).foldl (fun (s : State) p =>
    s.hostWrite p.1 [(p.2.1, markAll false ((bs.drop p.2.2.2).take p.2.2.1))]) s
  else { s with port := { s.port with heldWrites := s.port.heldWrites ++ [(a, bs)] } }
/-- A device-initiated read of host memory (RdCurr, R409): the bytes, and whether any block was poisoned. -/
def State.deviceRead (s : State) (a n : Nat) : List Byte × Bool :=
  (s.hostMem.bytes a n, (linesOf a n).any (idxMem s.hostPoison))
/-- Sends an MSI-X vector (R420): a masked one sets its PBA bit; it waits while the link is down. -/
def State.sendVector (s : State) (v : Nat) : State :=
  if !s.port.linkUp then { s with port := { s.port with heldVectors := s.port.heldVectors ++ [v] } }
  else if (s.port.msix.get {} v).control.getLsbD 0 then { s with port := { s.port with pba := idxAdd s.port.pba v } }
  else { s with port := { s.port with interrupts := s.port.interrupts.upd 0 v (· + 1) } }
/-- int_count; 0 acts as 1 (Table 16.7). -/
def intCount (cfg : Word32) : Nat := max 1 (bitsOf cfg.toNat 15 8)

/-! ## The event ring (R475, R476) -/

/-- Enabled? -/
def EventRing.enabled (r : EventRing) : Bool := r.cfg.getLsbD 31
/-- Its slots. -/
def EventRing.size (r : EventRing) : Nat := 2 ^ bitsOf r.cfg.toNat 19 16
/-- Free slots: one is always kept empty (R413, R476). -/
def EventRing.room (r : EventRing) : Nat := (r.head + 2 * r.size - r.tail - 1) % r.size

/-- The 64 bytes of one part of a record (Table 20.4, R475). -/
def recordBytes (code part parts : Nat) (lost phase : Bool) (seq : Nat) (words : List Word) : List Byte :=
  [BitVec.ofNat 8 code, BitVec.ofNat 8 (eventClass code + (if lost then 8 else 0)),
   BitVec.ofNat 8 (part + (parts - 1) * 16), (if phase then 1 else 0), 0, 0, 0, 0] ++ natLe 8 seq ++
  (List.range 6).flatMap (fun i => natLe 8 ((nth 0 words (6 * part + i)).toNat))
/-- Parts of a record: six words each, at least one. -/
def recordParts (words : List Word) : Nat := max 1 ((words.length + 5) / 6)

/-- Writes one part at the tail, with its interrupt (R413, R420, R476). -/
def State.writePart (s : State) (code part parts seq : Nat) (words : List Word) : State :=
  let r := s.evq
  let tail := (r.tail + 1) % r.size
  let n := if r.cfg.getLsbD 30 then r.unsignalled + 1 else r.unsignalled
  let fire := r.cfg.getLsbD 30 && decide (n ≥ intCount r.cfg)
  let s := s.deviceWrite (r.base.toNat + 64 * r.tail) (recordBytes code part parts r.lost r.phase seq words)
  let s := { s with evq := { r with tail := tail, phase := if tail = 0 then !r.phase else r.phase, lost := false,
                                    unsignalled := if fire then 0 else n } }
  if fire then s.sendVector 64 else s
/-- Generates a record: written when the ring is enabled and has room for its parts, else dropped (R475, R476). -/
def State.writeEventRecord (s : State) (o : Occurrence) : State :=
  let seq := s.evq.seq
  let parts := recordParts o.words
  let s := { s with evq := { s.evq with seq := seq + 1 } }
  if s.evq.enabled ∧ parts ≤ s.evq.room then
    (List.range parts).foldl (fun (s : State) i => s.writePart o.code i parts seq o.words) s
  else { s with evq := { s.evq with lost := true } }

/-- The events service takes one occurrence (R474): count, record, pending bit. -/
def State.takeOccurrence (s : State) (o : Occurrence) : State :=
  let s := s.countEvent o.code
  let s := if !eventFirst o.code ∨ !s.eventPending o.code then s.writeEventRecord o else s
  s.setEventPending o.code

end Sys2Proof.Machine
end

