-- ==== Sys2Proof/Machine/HostOps.lean ====
section
/-! DEFINITION. Operations of the host interface (16_host_interface.md): rings, command entries, the order and the status of
commands, completions, placement changes, and the loss of the host link. -/

namespace Sys2Proof.Machine

/-- Are doorbells, rings and BAR0 served (R429, R430)? Not before READY, and not when no image was valid. -/
def State.served (s : State) : Bool :=
  s.house.power && s.port.linkUp && (match s.house.dev with
    | .boot => false
    | .failed => s.house.cause ≠ 1
    | _ => true)
/-- The device state changed. -/
def State.setDev (s : State) (d : DevState) : State := { s with house := { s.house with dev := d } }

/-- The Scrivener's progress shows in the device state (R418), but in FAILED and ZEROISE. -/
def State.proceed (s : State) (d : DevState) : State := if s.house.dev = .failed ∨ s.house.dev = .zeroise then s else s.setDev d

/-! ## Rings (Table 16.7, R410) -/

/-- A submission ring. -/
def State.sq (s : State) (q : Nat) : SubRing := s.sqs.get {} q
/-- A completion ring. -/
def State.cq (s : State) (q : Nat) : CompRing := s.cqs.get {} q
/-- The module with a submission ring replaced. -/
def State.setSq (s : State) (q : Nat) (r : SubRing) : State := { s with sqs := s.sqs.set q r }
/-- The module with a completion ring replaced. -/
def State.setCq (s : State) (q : Nat) (r : CompRing) : State := { s with cqs := s.cqs.set q r }
/-- Is enable 1? -/
def ringEnabled (cfg : Word32) : Bool := cfg.getLsbD 31
/-- Entries of a ring. -/
def ringSize (cfg : Word32) : Nat := 2 ^ bitsOf cfg.toNat 19 16
/-- The access class of a submission ring. -/
def SubRing.cls (r : SubRing) : Nat := bitsOf r.cfg.toNat 15 10
/-- The priv bit. -/
def SubRing.priv (r : SubRing) : Bool := r.cfg.getLsbD 9
/-- The completion ring of its commands. -/
def SubRing.cqOf (r : SubRing) : Nat := bitsOf r.cfg.toNat 29 24
/-- The set-up of R410: size and alignment, for entries of `n` bytes. -/
def ringOk (base : Word) (cfg : Word32) (n : Nat) : Bool :=
  let k := bitsOf cfg.toNat 19 16
  decide (4 ≤ k) && decide (k ≤ 12) && base.toNat % (max (n * 2 ^ k) 4096) = 0

/-! ## Command entries (Tables 16.9, 16.11, R414) -/

/-- Bits [hi:lo] of quadword n. -/
def Cmd.q (c : Cmd) (n hi lo : Nat) : Nat := bitsOf c.entry.toNat (64 * n + hi) (64 * n + lo)
/-- opcode. -/
def Cmd.opcode (c : Cmd) : Nat := c.q 0 7 0
/-- ORDER. -/
def Cmd.order (c : Cmd) : Bool := !c.bad && c.q 0 8 8 = 1
/-- cid. -/
def Cmd.cid (c : Cmd) : Nat := c.q 0 31 16
/-- core. -/
def Cmd.core (c : Cmd) : Nat := c.q 0 47 32
/-- Is the opcode one of Table 16.11? -/
def opcodeKnown (o : Nat) : Bool := o ∈ [0x00, 0x01, 0x02, 0x03, 0x04, 0x10, 0x11, 0x20, 0x21, 0x22, 0x30, 0x31, 0x32]
/-- Does the command name a core? -/
def Cmd.coreCommand (c : Cmd) : Bool := !c.bad && decide (1 ≤ c.opcode) && decide (c.opcode ≤ 4)
/-- Is it PLACE or PLACE_READ? -/
def Cmd.pageCommand (c : Cmd) : Bool := !c.bad && (c.opcode = 0x10 || c.opcode = 0x11)
/-- Is it device-wide? -/
def deviceWide (o : Nat) : Bool := o ∈ [0x10, 0x20, 0x21, 0x22, 0x30, 0x31, 0x32]
/-- First page and count of PLACE and PLACE_READ. -/
def Cmd.pages (c : Cmd) : Nat × Nat := (c.q 1 24 0, c.q 2 25 0)

/-- Reserved bytes are 0 and every operand is in range (R414, Table 16.11); `used` gives the bits each of q1 to q3 may hold. -/
def Cmd.reservedOk (c : Cmd) (q1 q2 q3 : Nat) : Bool :=
  c.q 0 15 9 = 0 && c.q 0 63 48 = 0 && decide (c.q 1 63 0 < 2 ^ q1) && decide (c.q 2 63 0 < 2 ^ q2) &&
  decide (c.q 3 63 0 < 2 ^ q3) && (List.range 4).all (fun i => c.q (4 + i) 63 0 = 0)
/-- The fields of a command entry as Table 16.11 limits them. -/
def Cmd.fieldsOk (c : Cmd) : Bool :=
  let oneCore := decide (c.core < 1024)
  match c.opcode with
  | 0x00 | 0x21 | 0x30 => c.reservedOk 0 0 0
  | 0x01 =>
    let off := c.q 2 15 0
    let len := c.q 2 48 32
    c.reservedOk 41 49 0 && oneCore && c.q 2 31 17 = 0 && decide (8 ≤ len) && decide (len ≤ 65536) && off % 8 = 0 && len % 8 = 0 &&
      decide (off + len ≤ (if c.q 2 16 16 = 1 then 65536 else 32768))
  | 0x02 => c.reservedOk 18 0 0 && oneCore && decide (c.q 1 15 0 < 0x8000) && c.q 1 1 0 = 0
  | 0x03 => c.reservedOk 64 0 0 && (oneCore || c.core = 0xFFFF)
  | 0x04 => c.reservedOk 0 0 0 && oneCore
  | 0x10 | 0x11 =>
    c.reservedOk 25 26 64 && decide (1 ≤ c.pages.2) && decide (c.pages.1 + c.pages.2 ≤ 2 ^ 25) && c.q 3 2 0 = 0
  | 0x20 => c.reservedOk 64 0 0 && c.q 1 2 0 = 0 && decide (c.q 1 11 0 + 1152 ≤ 4096)
  | 0x22 => c.reservedOk 64 0 0 && c.q 1 2 0 = 0
  | 0x31 => c.reservedOk 11 0 0 && decide (600 ≤ c.q 1 10 0) && decide (c.q 1 10 0 ≤ 1800)
  | 0x32 => c.reservedOk 32 0 0
  | _ => true

/-- Do two commands name the same core or the same placement page (R415)? -/
def Cmd.clashes (a b : Cmd) : Bool :=
  (a.coreCommand && b.coreCommand && (a.core = b.core || a.core = 0xFFFF || b.core = 0xFFFF)) ||
  (a.pageCommand && b.pageCommand && decide (a.pages.1 < b.pages.1 + b.pages.2) && decide (b.pages.1 < a.pages.1 + a.pages.2))

/-! ## Completions (R413, R416, R419) -/

/-- The table without a command. -/
def State.dropCmd (s : State) (num : Nat) : State := { s with cmds := s.cmds.filter (fun c => c.num ≠ num) }
/-- A command whose phase changes goes to the end of the table, so that started commands stand in the order of their start. -/
def State.startCmd (s : State) (c : Cmd) (p : CmdPhase) : State :=
  { s with cmds := s.cmds.filter (fun d => d.num ≠ c.num) ++ [{ c with phase := p }] }
/-- The action of a command has ended: its completion joins its ring, or is discarded there (R416). When the command service has
failed, no command completes (R424). -/
def State.finishCmd (s : State) (c : Cmd) (status detail : Nat) : State :=
  if s.house.services.contains 1 then s
  else
  let j := (s.sq c.sq).cqOf
  let r := s.cq j
  if ringEnabled r.cfg then
    let e : Completion := { cmd := c.num, cid := if c.bad then 0 else c.cid, sq := c.sq, status := status, index := c.index,
                            detail := detail }
    { s with cmds := s.cmds.map (fun d : Cmd => if d.num = c.num then { d with phase := .ended } else d) }.setCq j
      { r with waiting := r.waiting ++ [e] }
  else (s.dropCmd c.num).countUnit hifUnit 4 1

/-- May a fetched command start (R415)? No earlier one with its core or page is still unended, and ORDER waits until every
earlier command of its ring has completed, its completion observed. -/
def State.mayStart (s : State) (c : Cmd) : Bool :=
  c.phase = .fetched &&
  !s.cmds.any (fun d => decide (d.num < c.num) &&
    ((d.phase ≠ .ended && d.clashes c) || (c.order && d.sq = c.sq)))
/-- Ends one command that needs no row of its own: a placement change whose accesses are performed, or a startable entry
that was poisoned or has a reserved opcode. -/
def State.settleOne (s : State) : State :=
  match s.cmds.find? (fun c => match c.phase with
    | .waitAccesses ids _ _ => s.performedAll ids
    | .fetched => s.mayStart c && (c.bad || !opcodeKnown c.opcode)
    | _ => false) with
  | some c => (match c.phase with
    | .waitAccesses _ status detail => s.finishCmd c status detail
    | _ => s.finishCmd c (if c.bad then 7 else 2) 0)
  | none => s
/-- All of them. -/
def State.settleCmds (s : State) : State := (List.range s.cmds.length).foldl (fun (s : State) _ => s.settleOne) s
/-- A command ends. -/
def State.endCmd (s : State) (c : Cmd) (status detail : Nat) : State := s.settleCmds.finishCmd c status detail |>.settleCmds

/-- The next command of the command service, if it is one of opcode `o` (R415); none when the service has failed (R424). -/
def State.commandFor (s : State) (o : Nat) : Option Cmd :=
  if !s.house.power || s.house.dev = .boot || s.house.services.contains 1 || (s.house.dev = .failed && s.house.cause = 1) then none
  else (s.cmds.find? s.mayStart).filter (fun c => c.opcode = o)

/-- The status of a command by the first six rows of Table 16.14, `none` when none applies: `fields` and `state` say that
the fields are right and that Table 16.13 allows it. -/
def State.precheck (s : State) (c : Cmd) (fields state : Bool) : Option Nat :=
  if !fields then some 3
  else if deviceWide c.opcode && !(s.sq c.sq).priv then some 5
  else if c.coreCommand && s.fenced c.core then some 4
  else if !state then some 1
  else none
/-- Ends a command with a status of the precheck; a rejection is counted (R418). -/
def State.rejectCmd (s : State) (c : Cmd) (status : Nat) : State :=
  (if status = 1 then s.countUnit hifUnit 5 1 else s).endCmd c status 0
/-- The master of a command's accesses (R417). -/
def Cmd.master (c : Cmd) : Nat := masterId 8 c.sq
/-- The access check of a command's service access (R443, target group 45); a refusal raises ACCESS_REFUSED, whose address
word is not given for it (log 15). -/
def State.serviceCheck (s : State) (c : Cmd) : Bool × State :=
  if s.allowed 45 (s.sq c.sq).cls c.master true then (true, s)
  else
    let (w, s) := s.takeFree
    (false, s.raise 0x20 [wd (c.master + 3 * 65536), w])

/-! ## Placement changes (R248, R253) -/

/-- The entry of a page as the table holds it. -/
def State.tableEntry (s : State) (p : Nat) : Word := BitVec.ofNat 64 (s.tiers.bedrock.le (8 * p) 8)
/-- The pages removed from every placement cache (R253 step 2). -/
def State.uncache (s : State) (p : Nat → Bool) : State :=
  let cut := fun (c : PtCache) => List.filter (fun x : Nat × Word => !p x.1) c
  { s with guilds := s.guilds.map (fun g : Nat × GuildSt => (g.1, { g.2 with cache := cut g.2.cache })),
           tiers := { s.tiers with walkers := s.tiers.walkers.map (fun w : Nat × PtCache => (w.1, cut w.2)) } }
/-- Writes entries to consecutive pages of the table, block by block (R247, R266). -/
def State.writeEntries (s : State) (first : Nat) (es : List Word) : State :=
  let bs := es.flatMap (fun e => natLe 8 e.toNat)
  (partsOf (8 * first) bs.length).foldl (fun (s : State) p =>
    s.bedrockWrite 0 p.1 [(p.2.1, markAll false ((bs.drop p.2.2.2).take p.2.2.1))]) s
/-- An entry as a placement command writes it: frozen ignored, reserved bits 0 (Tables 10.2, 16.11). -/
def placedEntry (e : Word) : Word := e &&& 0xF7F0FFFFFFFFFFFF#64

/-! ## Loss of the host link (R400) -/

/-- Fetched commands of a ring that have not started end with ABORTED (R416). -/
def State.abortRing (s : State) (q : Nat) : State :=
  (s.cmds.filter (fun c => c.sq = q && c.phase = .fetched)).foldl (fun (s : State) c => s.finishCmd c 9 0) s
/-- enable = 0 to a submission ring. -/
def State.disableSq (s : State) (q : Nat) : State :=
  let r := s.sq q
  if ringEnabled r.cfg then (s.setSq q { r with cfg := r.cfg &&& 0x7FFFFFFF }).abortRing q else s
/-- enable = 0 to a completion ring: what is bound for it is discarded (R416). -/
def State.disableCq (s : State) (q : Nat) : State :=
  let r := s.cq q
  if ringEnabled r.cfg then
    let s := r.waiting.foldl (fun (s : State) x => s.dropCmd x.cmd) s
    (s.setCq q { r with cfg := r.cfg &&& 0x7FFFFFFF, waiting := [], full := false }).countUnit hifUnit 4 r.waiting.length
  else s
/-- A hot reset or link-down (R400): every ring disabled, unwritten completions discarded, HIF_LINK_DOWN raised. -/
def State.hostLinkDown (s : State) (code : Nat) : State :=
  if !s.port.linkUp then s
  else
    let s := (List.range 64).foldl (fun (s : State) q => s.disableSq q) s
    let s := (List.range 64).foldl (fun (s : State) q => s.disableCq q) s
    { s with port := { s.port with linkUp := false } }.raise 0x70 [wd code]
/-- The link returns: what waited for it is performed (R400). -/
def State.hostLinkUp (s : State) : State :=
  let ws := s.port.heldWrites
  let vs := s.port.heldVectors
  let s := { s with port := { s.port with linkUp := true, heldWrites := [], heldVectors := [] } }
  let s := ws.foldl (fun (s : State) w => s.deviceWrite w.1 w.2) s
  vs.foldl (fun (s : State) v => s.sendVector v) s

/-! ## Register writes that rings share (R410, R416, R476) -/

/-- A value written to HIF_SQ_CFG. -/
def State.writeSqCfg (s : State) (q : Nat) (v : Word32) : State :=
  let r := s.sq q
  let w := v &&& 0xBF0FFE00
  if ringEnabled r.cfg then (if ringEnabled w then s.setSq q { r with cfgErr := true } else s.disableSq q)
  else if !ringEnabled w then s.setSq q { r with cfg := w }
  else if ringOk r.base w 64 then s.setSq q { r with cfg := w, cfgErr := false, head := 0, tail := 0 }
  else s.setSq q { r with cfg := w &&& 0x7FFFFFFF, cfgErr := true }
/-- A value written to HIF_CQ_CFG. -/
def State.writeCqCfg (s : State) (q : Nat) (v : Word32) : State :=
  let r := s.cq q
  let w := v &&& 0xFF0FFFFF
  if ringEnabled r.cfg then (if ringEnabled w then s.setCq q { r with cfgErr := true } else s.disableCq q)
  else if !ringEnabled w then s.setCq q { r with cfg := w }
  else if ringOk r.base w 16 then s.setCq q { r with cfg := w, cfgErr := false, head := 0, tail := 0, phase := true }
  else s.setCq q { r with cfg := w &&& 0x7FFFFFFF, cfgErr := true }
/-- A value written to HIF_EVQ_CFG. -/
def State.writeEvqCfg (s : State) (v : Word32) : State :=
  let r := s.evq
  let w := v &&& 0xC00FFFFF
  let put := fun (x : EventRing) => { s with evq := x }
  if ringEnabled r.cfg then
    (if ringEnabled w then put { r with cfgErr := true } else put { r with cfg := r.cfg &&& 0x7FFFFFFF })
  else if !ringEnabled w then put { r with cfg := w }
  else if ringOk r.base w 64 then put { r with cfg := w, cfgErr := false, head := 0, tail := 0, phase := true }
  else put { r with cfg := w &&& 0x7FFFFFFF, cfgErr := true }
/-- A value written to the vector control of an MSI-X entry (R420): unmasking sends a pending vector. -/
def State.writeMsixControl (s : State) (v : Nat) (x : Word32) : State :=
  let e := s.port.msix.get {} v
  let s := { s with port := { s.port with msix := s.port.msix.set v { e with control := x &&& 1 } } }
  if !x.getLsbD 0 ∧ idxMem s.port.pba v then
    { s with port := { s.port with pba := idxDel s.port.pba v } }.sendVector v
  else s

/-! ## The status mirror (R407, Table 16.4) -/

/-- The quadword at offset `a` of the mirror, a multiple of 8. -/
def State.mirrorQuad (s : State) (a : Nat) : Word :=
  if a = 0 then wd s.house.dev.code
  else if a = 8 then wd s.liveCores.length
  else if a = 0x10 then wd s.house.lastSnapshot
  else if a = 0x18 then wd s.house.lastPower
  else if 0x40 ≤ a ∧ a < 0xC0 then
    wd ((List.range 64).foldl (fun v j => if s.fenced (8 * (a - 0x40) + j) then v + 2 ^ j else v) 0)
  else if 0x1000 ≤ a ∧ a < 0x1200 then wd (s.sq ((a - 0x1000) / 8)).head
  else if 0x1200 ≤ a ∧ a < 0x1400 then
    let r := s.cq ((a - 0x1200) / 8)
    wd (r.tail + (if r.phase then 4096 else 0))
  else if 0x10000 ≤ a ∧ a < 0x90000 then
    let c := (a - 0x10000) / 512
    let o := (a - 0x10000) % 512
    let k := s.core c
    if o < 256 then (k.notch (o / 8)).setWidth 64
    else if o = 256 then k.invIssued.setWidth 64
    else if o = 264 then k.invDone.setWidth 64
    else if o = 272 then k.invFaults.setWidth 64
    else if o = 280 then k.evPending
    else if o = 288 then k.threadWord
    else if o = 296 then wd ((if k.frozen then 1 else 0) + (if s.fenced c then 2 else 0))
    else 0
  else 0

end Sys2Proof.Machine
end

