-- ==== Sys2Proof/Machine/HostRows.lean ====
section
/-! DEFINITION. Meanings of the host-interface commands (16_host_interface.md, 20_errors_and_events.md). -/

namespace Sys2Proof.Machine

/-! ## Doorbells and rings -/

/-- SQ_TAIL (R411): bits [11:0] of the value. -/
def execSqTail (q : RingId) (v : Word32) (s : State) : Out :=
  .next (
    let r := s.sq q
    let x := bitsOf v.toNat 11 0
    if !s.served then s
    else if !ringEnabled r.cfg ∨ x ≥ ringSize r.cfg then s.countUnit hifUnit 2 1
    else s.setSq q { r with tail := x })
/-- CQ_HEAD (R411, R413). -/
def execCqHead (q : RingId) (v : Word32) (s : State) : Out :=
  .next (
    let r := s.cq q
    let x := bitsOf v.toNat 11 0
    if !s.served then s
    else if !ringEnabled r.cfg ∨ x ≥ ringSize r.cfg then s.countUnit hifUnit 2 1
    else s.setCq q { r with head := x, full := r.full && (r.tail + 1) % ringSize r.cfg = x })
/-- SQ_ENTRY_FETCH (R412, R414): the entry at head is read whole and head advances. -/
def execSqEntryFetch (q : RingId) (s : State) : Out :=
  .next (
    let r := s.sq q
    if !s.served ∨ !ringEnabled r.cfg ∨ r.head = r.tail then s
    else
      let (bs, bad) := s.deviceRead (r.base.toNat + 64 * r.head) 64
      let c : Cmd := { num := s.nextCmd, sq := q, index := r.head, entry := blockOf bs, bad := bad, phase := .fetched }
      ({ s with cmds := s.cmds ++ [c], nextCmd := s.nextCmd + 1 }.setSq q
        { r with head := (r.head + 1) % ringSize r.cfg }).settleCmds)
/-- CQ_COMPLETION_WRITE (R413, R414, R420, R421): the oldest completion of the ring, or its wait for room. -/
def execCqCompletionWrite (q : RingId) (s : State) : Out :=
  .next (
    let s := s.settleCmds
    let r := s.cq q
    if !s.house.power ∨ !s.port.linkUp ∨ !ringEnabled r.cfg then s
    else match r.waiting with
      | [] => s
      | x :: rest =>
        let tail := (r.tail + 1) % ringSize r.cfg
        if tail = r.head then
          (s.setCq q { r with full := true, waiting := r.waiting.map (fun y : Completion => { y with sawFull := true }) }).countUnit
            hifUnit 3 (r.waiting.filter (fun y => !y.sawFull)).length
        else
          let bs := natLe 2 x.cid ++ natLe 1 x.sq ++ natLe 1 x.status ++ natLe 2 x.index ++ [0, 0] ++ natLe 7 x.detail ++
            natLe 1 (if r.phase then 1 else 0)
          let n := if r.cfg.getLsbD 30 then r.unsignalled + 1 else r.unsignalled
          let fire := r.cfg.getLsbD 30 && decide (n ≥ intCount r.cfg)
          let s := s.deviceWrite (r.base.toNat + 16 * r.tail) bs
          let s := (s.setCq q { r with waiting := rest, tail := tail, phase := if tail = 0 then !r.phase else r.phase,
                                       full := false, unsignalled := if fire then 0 else n }).dropCmd x.cmd
          let s := if fire then s.sendVector (bitsOf r.cfg.toNat 29 24) else s
          s.settleCmds)
/-- CQ_INT_DELAY_EXPIRY (R420, R421). -/
def execCqIntDelayExpiry (q : RingId) (s : State) : Out :=
  .next (
    let r := s.cq q
    if s.house.power ∧ ringEnabled r.cfg ∧ r.cfg.getLsbD 30 ∧ bitsOf r.cfg.toNat 7 0 ≠ 0 ∧ r.unsignalled > 0 then
      (s.setCq q { r with unsignalled := 0 }).sendVector (bitsOf r.cfg.toNat 29 24)
    else s)
/-- MSIX_VECTOR_UNMASK (R420); the MSI-X table is served before READY too (R429). -/
def execMsixVectorUnmask (v : Fin 65) (s : State) : Out :=
  .next (if s.house.power ∧ s.port.linkUp then s.writeMsixControl v ((s.port.msix.get {} v).control &&& ~~~1) else s)
/-- SQ_ENABLE (R410). -/
def execSqEnable (q : RingId) (v : Word32) (s : State) : Out :=
  .next (if s.served then s.writeSqCfg q (v ||| 0x80000000) else s)
/-- SQ_DISABLE (R416). -/
def execSqDisable (q : RingId) (s : State) : Out := .next (if s.served then s.disableSq q else s)
/-- CQ_ENABLE (R410). -/
def execCqEnable (q : RingId) (v : Word32) (s : State) : Out :=
  .next (if s.served then s.writeCqCfg q (v ||| 0x80000000) else s)
/-- CQ_DISABLE (R416). -/
def execCqDisable (q : RingId) (s : State) : Out := .next (if s.served then s.disableCq q else s)
/-- EVQ_ENABLE (R476). -/
def execEvqEnable (v : Word32) (s : State) : Out := .next (if s.served then s.writeEvqCfg (v ||| 0x80000000) else s)
/-- EVQ_DISABLE (R476). -/
def execEvqDisable (s : State) : Out := .next (if s.served then s.writeEvqCfg (s.evq.cfg &&& 0x7FFFFFFF) else s)
/-- EV_PENDING_CLEAR (R474, R17). -/
def execEvPendingClear (w : Fin 2) (v : Word) (s : State) : Out :=
  .next (if s.served then { s with evPending := s.evPending.upd 0 w (· &&& ~~~v) } else s)
/-- EVENT_OCCURRENCE (R474 to R476): the oldest occurrence; none is taken when the events service has failed (R424). -/
def execEventOccurrence (s : State) : Out :=
  .next (match s.occurrences with
    | o :: rest =>
      if !s.house.power ∨ s.house.services.contains 4 ∨ (s.house.dev = .failed ∧ s.house.cause = 1) then s
      else { s with occurrences := rest }.takeOccurrence o
    | [] => s)

/-! ## The host link, snoops and the window -/

/-- CXL_LINK_DOWN (R400). -/
def execCxlLinkDown (hot : Bool) (s : State) : Out :=
  .next (if s.house.power then s.hostLinkDown (if hot then 0 else 1) else s)
/-- CXL_LINK_UP (R400): the link has trained again, so its reference clock is there (R497); not before the start-up sequence has
trained it (R429). -/
def execCxlLinkUp (s : State) : Out :=
  .next (if s.house.power ∧ s.house.dev ≠ .boot ∧ !s.port.linkUp then { s with port := { s.port with refclk := true } }.hostLinkUp else s)
/-- REFCLK_LOSS (R497): the HIF island and the host link stop. -/
def execRefclkLoss (s : State) : Out :=
  .next (if s.house.power then { s with port := { s.port with refclk := false } }.hostLinkDown 1 else s)
/-- IDE_CHECK_FAIL (R455): a stream with keys fails its check. -/
def execIdeCheckFail (io mem : Bool) (s : State) : Out :=
  .next (
    let a := io && s.port.ideIo
    let b := mem && s.port.ideMem
    if s.port.linkUp ∧ (a ∨ b) then
      ({ s with port := { s.port with ideIo := s.port.ideIo && !a, ideMem := s.port.ideMem && !b } }.hostLinkDown 1).raise 0x71
        [wd ((if a then 1 else 0) + (if b then 2 else 0))]
    else s)
/-- HOST_SNOOP (R399): answered with RspIHitI. -/
def execHostSnoop (s : State) : Out :=
  .next (if s.port.linkUp then { s with port := { s.port with answer := .snoopHit } } else s)

/-- The module with an answer to the host. -/
def State.answered (s : State) (a : Answer) : State := { s with port := { s.port with answer := a } }
/-- The DVA of byte x of the Bedrock window (R404). -/
def State.windowDva (s : State) (x : Nat) : Nat := bitsOf s.port.hdmMap.toNat 40 28 * 2 ^ 28 + x
/-- The master of window accesses (Table 18.1). -/
def windowMaster : Nat := masterId 8 0x40
/-- Is byte x of decoder 1 claimed, and the window served? -/
def State.windowOpen (s : State) (x : Nat) : Bool :=
  s.house.power && s.port.linkUp && !s.house.tripped && decide (x < s.port.decoder1 * 2 ^ 28)
/-- Records a block in the snoop filter (R405): 32,768 sets of 16 ways; a full set back-invalidates its oldest entry. -/
def State.recordSnoop (s : State) (k : Nat) : State :=
  let rest := s.port.snoop.filter (· ≠ k)
  let inSet := rest.filter (fun j => j % 32768 = k % 32768)
  let s := { s with port := { s.port with snoop := rest } }
  let s := if inSet.length ≥ 16 then (match inSet with | j :: _ => s.backInvalidate j | [] => s) else s
  { s with port := { s.port with snoop := s.port.snoop ++ [k] } }

/-- A window read that is refused: poisoned, of contents the manual does not give. -/
def State.windowRefused (s : State) : State := s.takeBlock.2.answered (.block s.takeBlock.1 true)
/-- Where a window read of a DVA lies, when translation allows it. -/
def State.windowLoc (s : State) (dva : Nat) : Option Loc :=
  match s.judge (s.entryOf 7 (dva / 65536)).1 windowMaster dva false true with
  | .go loc _ => some loc
  | _ => none
/-- What the host caches of a place is recorded (R405). -/
def State.snoopAfter (s : State) (loc : Option Loc) (cached : Bool) : State :=
  match loc.bind Loc.snoopKey with
  | some k => if cached then s.recordSnoop k else s
  | none => s
/-- A window read of a DVA (R404, R405). -/
def State.windowData (s : State) (dva : Nat) (cached : Bool) : State :=
  match (s.readBlock .host windowMaster dva true).1 with
  | .data d m => ((s.readBlock .host windowMaster dva true).2.answered (.block d m)).snoopAfter (s.windowLoc dva) cached
  | _ => (s.readBlock .host windowMaster dva true).2.windowRefused
/-- HDM_WINDOW_READ (R404, R405): after the host's earlier accesses to the same place (R174). -/
def execHdmWindowRead (x : BitVec 40) (cached : Bool) (s : State) : Out :=
  .next (
    let a := x.toNat / 64 * 64
    if !s.windowOpen a ∨ (s.windowLoc (s.windowDva a)).any (s.passes .host 0) then s
    else
      let s := s.countUnit hifUnit 0x300 64
      if s.house.dev = .zeroise then (s.refusedEvent windowMaster 1 (s.windowDva a)).windowRefused
      else s.windowData (s.windowDva a) cached)
/-- HDM_WINDOW_WRITE (R404). -/
def execHdmWindowWrite (x : BitVec 40) (mask : BitVec 64) (data : BitVec 512) (mark : Bool) (s : State) : Out :=
  .next (
    let a := x.toNat / 64 * 64
    if !s.windowOpen a then s
    else
      let s := s.countUnit hifUnit 0x301 64
      if s.house.dev = .zeroise then s.refusedEvent windowMaster 1 (s.windowDva a)
      else (s.writeBlock .host windowMaster 0 (s.windowDva a) true (maskRuns mask.toNat data mark)).2)
/-- STATUS_MIRROR_READ (R407, R408). -/
def execStatusMirrorRead (x : BitVec 28) (s : State) : Out :=
  .next (if s.house.power ∧ s.port.linkUp ∧ s.port.decoder0 then s.answered (.word (s.mirrorQuad (x.toNat / 8 * 8))) else s)
/-- The place of a snoop-filter key. -/
def snoopLoc (k : Nat) : Loc :=
  let d := 64 * k
  if d < 2 ^ 44 then .bedrock (d / 2 ^ 37) (d % 2 ^ 37) else .shale ((d - 2 ^ 44) / 2 ^ 29) (d % 2 ^ 29)
/-- BIRSP (R405): what the host writes back is performed first, then the entry is dropped. -/
def execBirsp (key : Nat) (wb : Option (BitVec 512)) (s : State) : Out :=
  .next (
    if s.house.power ∧ s.port.linkUp ∧ s.port.backInval.contains key then
      let s := match wb with
        | some d => s.writeAt [(0, markAll false (blockBytes d))] (snoopLoc key)
        | none => s
      { s with port := { s.port with backInval := s.port.backInval.filter (· ≠ key) } }
    else s)
/-- I3C_ENTDAA (R498). -/
def execI3cEntdaa (addr : BitVec 7) (s : State) : Out :=
  .next (if s.house.power then { s with port := { s.port with i3cAddress := some addr.toNat } } else s)

/-! ## Host commands (Table 16.11) -/

/-- NOP. -/
def execNop (s : State) : Out :=
  .next (match s.settleCmds.commandFor 0x00 with
    | some c =>
      let s := s.settleCmds
      (match s.precheck c c.fieldsOk true with
       | some st => s.rejectCmd c st
       | none => s.endCmd c 0 0)
    | none => s)

/-- Is the device state READY or SEND? -/
def State.readyOrSend (s : State) : Bool := s.house.dev = .ready || s.house.dev = .send
/-- Are all four threads HALTED? -/
def CoreSt.allHalted (k : CoreSt) : Bool := (List.range 4).all (fun t => (k.thread t).state = .halted)

/-- A command of opcode `o` starts: what applies first of Table 16.14's rows 3 to 6 ends it, else `f` carries it out.
`state` is its condition in Table 16.13. -/
def State.runCommand (s : State) (o : Nat) (state : State → Cmd → Bool) (f : State → Cmd → State) : State :=
  let s' := s.settleCmds
  match s'.commandFor o with
  | some c => (match s'.precheck c c.fieldsOk (state s' c) with
    | some st => s'.rejectCmd c st
    | none => f s' c)
  | none => s
/-- The same behind the service access check of target group 45 (R443). -/
def State.runService (s : State) (o : Nat) (state : State → Cmd → Bool) (f : State → Cmd → State) : State :=
  s.runCommand o state (fun s c => match s.serviceCheck c with
    | (true, s) => f s c
    | (false, s) => s.endCmd c 6 0)

/-- Bytes written into Tally instruction memory: whole words with fresh ECC (R130, R157). -/
def Store.writeImem (st : Store) (a : Nat) (bs : List Byte) : Store :=
  let inside := fun (w : Nat) => decide (a ≤ 4 * w) && decide (4 * w + 4 ≤ a + bs.length)
  { st with data := st.data.wrBytes a bs, single := st.single.filter (fun w => !inside w),
            double := st.double.filter (fun w => !inside w) }

/-- TALLY_LOAD (R157, R417, R419): the source is read whole first. -/
def execTallyLoad (s : State) : Out :=
  .next (s.withAnswers (· = .house) 0 (fun answers s => s.runCommand 0x01 (fun s c => s.readyOrSend && (s.core c.core).allHalted && !(s.core c.core).frozen) (fun s c =>
    let n := c.q 2 48 32
    let off := c.q 2 15 0
    let (bs, bad, s) := (s.needRange 11 c.master (c.q 1 40 0) n false).readRange .house c.master (c.q 1 40 0) n answers
    if !bad.isEmpty ∨ bs.any (·.2) then s.endCmd c 6 0
    else match s.serviceCheck c with
      | (false, s) => s.endCmd c 6 0
      | (true, s) =>
        (s.atCore c.core (fun e =>
          if c.q 2 16 16 = 1 then { e with k := { e.k with dmem := e.k.dmem.write off bs } }
          else { e with k := { e.k with imem := e.k.imem.writeImem off (bs.map (·.1)) } })).endCmd c 0 0)))
/-- THREAD_START (R129). -/
def execThreadStart (s : State) : Out :=
  .next (s.runCommand 0x02 (fun s c => s.readyOrSend && ((s.core c.core).thread (c.q 1 17 16)).state = .halted &&
      !(s.core c.core).frozen) (fun s c =>
    (s.atCore c.core (fun e => e.onThread (c.q 1 17 16) (fun x =>
      { x with pc := wd (c.q 1 15 0), state := .ready, handler := false }))).endCmd c 0 0))
/-- CORE_MAILBOX written and the mailbox bit set (Table 5.8). -/
def Eff.mail (e : Eff) (v : Word) : Eff := { e with k := { e.k with mailbox := v } }.setPending 4
/-- MAILBOX_WRITE (R417): one core, or every live core. -/
def execMailboxWrite (s : State) : Out :=
  .next (s.runService 0x03 (fun s _ => s.readyOrSend) (fun s c =>
    let v := wd (c.q 1 63 0)
    let who := if c.core = 0xFFFF then s.liveCores else [c.core]
    (who.foldl (fun (s : State) n => s.atCore n (fun e => e.mail v)) s).endCmd c 0 0))
/-- CORE_RECOVER (R479). -/
def execCoreRecover (s : State) : Out :=
  .next (s.runCommand 0x04 (fun s c => s.readyOrSend && (s.core c.core).frozen) (fun s c =>
    (s.atCore c.core (fun e => e.recover)).endCmd c 0 0))

/-- Is page p one of the command's? -/
def Cmd.namesPage (c : Cmd) (p : Nat) : Bool := decide (c.pages.1 ≤ p) && decide (p < c.pages.1 + c.pages.2)
/-- PLACE (R248, R253, R386): the list is read, the entries written, cached copies removed; it completes when every access
translated under an old entry is performed. -/
def execPlace (s : State) : Out :=
  .next (if !s.port.linkUp then s else s.runCommand 0x10 (fun s c => s.readyOrSend &&
      !(List.range c.pages.2).any (fun i => ptFrozen (s.tableEntry (c.pages.1 + i)))) (fun s c =>
    let (bs, bad) := s.deviceRead (c.q 3 63 0) (8 * c.pages.2)
    if bad then s.endCmd c 6 0
    else match s.serviceCheck c with
      | (false, s) => s.endCmd c 6 0
      | (true, s) =>
        let es := (List.range c.pages.2).map (fun i => placedEntry (wd (leNat ((bs.drop (8 * i)).take 8))))
        let s := (s.writeEntries c.pages.1 es).uncache c.namesPage
        (s.startCmd c (.waitAccesses (s.translated c.namesPage) 0 0)).settleCmds))
/-- PLACE_READ (R417): the entries as held, frozen included; a poisoned table block ends it with OPERAND_ERROR. -/
def execPlaceRead (s : State) : Out :=
  .next (s.runCommand 0x11 (fun s _ => s.readyOrSend || s.house.dev = .capture || s.house.dev = .restore) (fun s c =>
    let a := 8 * c.pages.1
    let n := 8 * c.pages.2
    let (bad, s) := (partsOf a n).foldl (fun acc p =>
      let ((_, m), s) := acc.2.bedrockLook 0 p.1
      (acc.1 || m, s)) ((false, s) : Bool × State)
    if bad then s.endCmd c 6 0
    else (s.deviceWrite (c.q 3 63 0) (s.tiers.bedrock.bytes a n)).endCmd c 0 0))
/-- SET_POWER_CAP (R437): held for the next window boundary. -/
def execSetPowerCap (s : State) : Out :=
  .next (s.runCommand 0x31 (fun _ _ => true) (fun s c => s.startCmd c .waitBoundary))
/-- SET_WAKE_LATENCY (R437). -/
def execSetWakeLatency (s : State) : Out :=
  .next (s.runCommand 0x32 (fun _ _ => true) (fun s c => s.startCmd c .waitBoundary))

end Sys2Proof.Machine
end

