-- ==== Sys2Proof/Machine/Sha256.lean ====
section
/-! DEFINITION. SHA-256 by the published standard, which the manual names (R387, R388, R448 to R450): bytes in, 32 bytes out. The
constants are those of the standard's own words: fractional parts of roots of the first primes. -/

namespace Sys2Proof.Sha256

/-- The first 64 primes: the numbers up to 311 that none of 2 to 17 below them divides. -/
def primes : List Nat :=
  (List.range 312).filter (fun n => 1 < n && (List.range 18).all (fun d => d < 2 || n ≤ d || n % d != 0))
/-- The largest number of `b` bits more than `r` whose `n`-th power is at most `x`. -/
def root (n x : Nat) : Nat → Nat → Nat
  | 0, r => r
  | b + 1, r => root n x b (if (r + 2 ^ b) ^ n ≤ x then r + 2 ^ b else r)
/-- The first 32 bits of the fractional part of the `n`-th root of `p`. -/
def fraction (n p : Nat) : BitVec 32 := BitVec.ofNat 32 (root n (p * 2 ^ (32 * n)) 36 0)
/-- The round constants. -/
def constants : List (BitVec 32) := primes.map (fraction 3)

/-- The sum of a word turned right by each of the places. -/
def turns (places : List Nat) (x : BitVec 32) : BitVec 32 := places.foldl (fun v n => v ^^^ x.rotateRight n) 0
/-- The next `n` words of the schedule, newest first. -/
def schedule : Nat → List (BitVec 32) → List (BitVec 32)
  | 0, ws => ws
  | n + 1, ws =>
    let back := fun (i : Nat) => nth 0 ws (i - 1)
    let new := turns [17, 19] (back 2) ^^^ back 2 >>> 10
    let old := turns [7, 18] (back 15) ^^^ back 15 >>> 3
    schedule n ((back 16 + old + back 7 + new) :: ws)

/-- The eight working words as two histories of four, newest first: the standard's a, b, c, d are the last four values of a, and e,
f, g, h the last four of e. -/
structure Chains where
  as : List (BitVec 32)
  es : List (BitVec 32)
  deriving DecidableEq, Repr
/-- The initial hash value. -/
def start : Chains := let h := (primes.take 8).map (fraction 2); ⟨h.take 4, h.drop 4⟩
/-- One round with the sum `kw` of its constant and its schedule word. -/
def Chains.round (x : Chains) (kw : BitVec 32) : Chains :=
  let a := nth 0 x.as
  let e := nth 0 x.es
  let pick := e 2 ^^^ (e 0 &&& (e 1 ^^^ e 2))
  let most := (a 0 &&& (a 1 ||| a 2)) ||| (a 1 &&& a 2)
  let t := kw + e 3 + turns [6, 11, 25] (e 0) + pick
  ⟨(t + most + turns [2, 13, 22] (a 0)) :: x.as.take 3, (a 3 + t) :: x.es.take 3⟩
/-- Word by word sum. -/
def Chains.add (x y : Chains) : Chains := ⟨(x.as.zip y.as).map (fun p => p.1 + p.2), (x.es.zip y.es).map (fun p => p.1 + p.2)⟩

/-- The 32-bit words of bytes, most significant byte first. -/
def wordsOf (bs : List Byte) : List (BitVec 32) :=
  (List.range (bs.length / 4)).map (fun i => BitVec.ofNat 32 (leNat ((bs.drop (4 * i)).take 4).reverse))
/-- The hash value after one 64-byte block. -/
def Chains.absorb (ks : List (BitVec 32)) (x : Chains) (bs : List Byte) : Chains :=
  x.add (((ks.zip (schedule 48 (wordsOf bs).reverse).reverse).map (fun p => p.1 + p.2)).foldl Chains.round x)
/-- The padded message. -/
def pad (bs : List Byte) : List Byte :=
  bs ++ [0x80#8] ++ List.replicate ((119 - bs.length % 64) % 64) 0 ++ (natLe 8 (8 * bs.length)).reverse
/-- SHA-256. -/
def hash (bs : List Byte) : List Byte :=
  let p := pad bs
  let x := (List.range (p.length / 64)).foldl (fun (x : Chains) i => x.absorb constants ((p.drop (64 * i)).take 64)) start
  (x.as ++ x.es).flatMap (fun (w : BitVec 32) => (natLe 4 w.toNat).reverse)

end Sys2Proof.Sha256

namespace Sys2Proof

/-- The digest of bytes as a number, its first byte least significant. -/
def digest (bs : List Byte) : Nat := leNat (Sha256.hash bs)

end Sys2Proof
end

