-- ==== Sys2Proof/Machine/Registers.lean ====
section
/-! DEFINITION. The set-up registers of BAR0 (21_setup_registers.md, Tables 18.3, 19.5, 13.9, 13.10): the value a write
leaves in each, and the address map. -/

namespace Sys2Proof.Machine

/-! ## Links (R337, R339) -/

/-- LNK_CTRL.enable written 1: a port that is not fenced and not enabled trains. -/
def State.enableLink (s : State) (l : Nat) : State :=
  let k := s.link l
  if s.house.fencedLinks.contains l ∨ k.ctrl.getLsbD 0 then s
  else s.setLink l { k with ctrl := k.ctrl ||| 1, state := .training, control := none, retrains := 0, retrainAt := [], nextSeq := 0, expected := 0 }
/-- LNK_CTRL.enable written 0: the port is DISABLED and its requests complete as LINK_LOST. -/
def State.disableLink (s : State) (l : Nat) : State :=
  let k := s.link l
  if s.house.fencedLinks.contains l then s
  else (s.setLink l { k with ctrl := k.ctrl &&& ~~~1, state := .disabled }).loseLink l
/-- A value written to LNK_CTRL (Table 13.10); of a fenced port enable has no effect (R430). -/
def State.writeLinkCtrl (s : State) (l : Nat) (v : Word32) : State :=
  let k := s.link l
  let s := s.setLink l { k with ctrl := (v &&& 0x03FFFFFE) ||| (k.ctrl &&& 1) }
  if v.getLsbD 0 then s.enableLink l else if k.ctrl.getLsbD 0 then s.disableLink l else s

/-! ## The access tables (R447, R448) -/

/-- A write to a lockable register: performed when unlocked, else ignored and counted. -/
def State.lockable (s : State) (f : Security → Security) : State :=
  if s.sec.locked then s.countUnit houseUnit 3 1 else { s with sec := f s.sec }
/-- The bytes of the registers of Table 18.3 and SEC_RESTORE_KEY in ascending address order (R448). -/
def State.lockedBytes (s : State) : List Byte :=
  (List.range 3072).flatMap (fun i => natLe 4 (s.acl (i / 64) (i % 64)).toNat) ++
  (List.range 64).flatMap (fun w => natLe 8 (s.sec.domCore.get 0 w).toNat) ++
  (List.range 256).flatMap (fun w => natLe 8 (s.sec.domPeer.get (BitVec.allOnes 64) w).toNat) ++
  natLe 8 s.sec.domHost.toNat ++ natLe 8 (if s.sec.locked then 1 else 0) ++
  (List.range 128).flatMap (fun w => natLe 8 (s.sec.lsClass.get 0 w).toNat) ++
  (List.range 320).flatMap (fun i => natLe 8 (s.sec.restoreKey.get 0 (8 * (i / 5) + i % 5)).toNat)
/-- A value written to SEC_LOCK (R448): setting locked computes the configuration digest. -/
def State.writeLock (s : State) (v : Word) : State :=
  if v.getLsbD 0 ∧ !s.sec.locked then
    let s := { s with sec := { s.sec with locked := true } }
    { s with sec := { s.sec with digest := digest s.lockedBytes } }
  else s
/-- commit = 1 written to SEC_SVN (R452, R490). -/
def State.commitSvn (s : State) : State :=
  if s.sec.commitBusy ∨ s.sec.runningSvn ≤ s.fuses.svn then s else { s with sec := { s.sec with commitBusy := true } }

/-! ## Cores and Gaugers (R463, R466, R489) -/

/-- A register of a core's set-up changed; those of a fenced core ignore writes (R485). -/
def State.setUpCore (s : State) (c : Nat) (f : CoreSt → CoreSt) : State :=
  if s.fenced c then s else { s with cores := s.cores.set c (f (s.core c)) }
/-- GAU_SEL[c][j] written: the counter is cleared (R462, R463). -/
def State.writeGauSel (s : State) (c j : Nat) (v : Word32) : State :=
  s.setUpCore c (fun k =>
    let g := k.gauger
    { k with gauger := { g with sel := g.sel.set j (v &&& 0xB0FFFFFF), counters := g.counters.set j {} } })
/-- CORE_CFG[c] written (R489). -/
def State.writeQueueMode (s : State) (c : Nat) (v : Word32) : State :=
  s.setUpCore c (fun k => { k with queueModeWanted := v.toNat % 2 })
/-- GAU_CORE_CFG[c] written (Table 19.5): ring sizes hold while their ring is on; turning sampling on starts the countdown,
turning it off discards the pending samples (R468, R469). -/
def Gauger.writeCfg (g : Gauger) (v : Word) : Gauger :=
  let keep := fun (m : Word) (on : Bool) => if on then m else (0 : Word)
  let hold : Word := keep 0x00001F0000000000#64 (g.cfg.getLsbD 50) ||| keep 0x00000001F0000000#64 (g.cfg.getLsbD 39)
  let w := ((v &&& ~~~hold) ||| (g.cfg &&& hold)) &&& 0xFFFFFFFFF0000000#64
  let g' := { g with cfg := w }
  if !w.getLsbD 50 then { g' with samples := [] }
  else if g.cfg.getLsbD 50 then g' else { g' with smpLeft := g'.period }
/-- GAU_SMP_BASE and GAU_DUMP_BASE: written only while their ring is off. -/
def Gauger.writeBase (g : Gauger) (dump : Bool) (v : Word) : Gauger :=
  let w := v &&& 0x7FFFFFFFF#64
  if dump then (if g.cfg.getLsbD 39 then g else { g with dumpBase := w })
  else if g.cfg.getLsbD 50 then g else { g with smpBase := w }
/-- A unit counter set to 0 by any write (R464). -/
def State.clearUnit (s : State) (u i : Nat) : State :=
  if unitIndex u i then { s with unitCounters := s.unitCounters.set (1024 * u + i) {} } else s
/-- CH_ENERGY_CFG written (Table 17.8): erep_size_log2 only while erep_en is 0. -/
def House.writeEnergy (h : House) (v : Word32) : House :=
  let w := v &&& 0x003F003F
  { h with energyCfg := if h.energyCfg.getLsbD 16 then (w &&& ~~~0x003E0000) ||| (h.energyCfg &&& 0x003E0000) else w }

/-! ## HDM decoders (R403, R486) -/

/-- The size registers of decoder d, in bytes (log 16: the layout of the CXL capability). -/
def HostPort.hdmSize (p : HostPort) (d : Nat) : Nat :=
  (p.hdm.get 0 (6 + 8 * d)).toNat / 2 ^ 28 * 2 ^ 28 + (p.hdm.get 0 (7 + 8 * d)).toNat * 2 ^ 32
/-- The bits of dword `i` of the decoder capability that a write reaches (log 16): none of the capability header and the reserved
dwords; the two enables of the global control; bits 31:28 of the low halves of base, size and skip, which are multiples of 256 MiB,
and all of the high halves; of a decoder's control the fields below the committed bits. -/
def hdmMask (i : Nat) : Word32 :=
  if i = 1 then 3
  else if i < 4 ∨ i ≥ 20 then 0
  else match (i - 4) % 8 with
    | 0 | 2 | 5 => 0xF0000000
    | 1 | 3 | 6 => 0xFFFFFFFF
    | 4 => 0x000033FF
    | _ => 0
/-- Dword `i` of the decoder capability written. The commit bit of a decoder's control commits it when its size is one of
R403, else it stays uncommitted and reports Error Not Committed. -/
def HostPort.writeHdm (p : HostPort) (i : Nat) (v : Word32) : HostPort :=
  let d := (i - 4) / 8
  let w := v &&& hdmMask i
  if i < 4 ∨ i ≥ 20 ∨ (i - 4) % 8 ≠ 4 then { p with hdm := p.hdm.set i w }
  else
    let size := p.hdmSize d
    let ok := w.getLsbD 9 && (if d = 0 then size = 2 ^ 28 else (decide (2 ^ 28 ≤ size) && decide (size ≤ 2 ^ 40)))
    let bits : Word32 := w ||| (if ok then 0x400 else if w.getLsbD 9 then 0x800 else 0)
    let p := { p with hdm := p.hdm.set i bits }
    if d = 0 then { p with decoder0 := ok } else { p with decoder1 := if ok then size / 2 ^ 28 else 0 }

/-! ## The address map (Tables 21.2, 21.3) -/

/-- A BAR0 register by its address: the registers a write can reach. -/
inductive Reg where
  | energyCfg | erepBase | hdmMap
  | sqBase (i : Nat) | sqCfg (i : Nat) | cqBase (i : Nat) | cqCfg (i : Nat)
  | evqBase | evqCfg | evqHead | evPending (w : Nat)
  | hdm (i : Nat) | msix (v part : Nat)
  | self | linkCtrl (l : Nat) | route (p : Nat) | land (k : Nat)
  | acl (i : Nat) | domCore (w : Nat) | domPeer (w : Nat) | domHost | lock | svn | lsClass (w : Nat) | restoreKey (k m : Nat)
  | setCtrl (n : Nat) | setMask (i : Nat) | coreCfg (c : Nat) | stalemate (c : Nat)
  | bwCfg | gauCfg (c : Nat) | smpBase (c : Nat) | dumpBase (c : Nat) | gauSel (c j : Nat) | unit (u i : Nat)
  deriving DecidableEq, Repr

/-- Width of a register in bytes. -/
def Reg.bytes : Reg → Nat
  | .energyCfg | .sqCfg _ | .cqCfg _ | .evqCfg | .evqHead | .hdm _ | .msix _ _ | .self | .linkCtrl _ | .route _ | .acl _
  | .coreCfg _ | .stalemate _ | .bwCfg | .gauSel _ _ => 4
  | _ => 8

/-- The register whose first byte is at `a`. -/
def regAt (a : Nat) : Option Reg :=
  if a < 0x1000 then (match a with | 0x100 => some .energyCfg | 0x108 => some .erepBase | _ => none)
  else if a = 0x10000 then some .hdmMap
  else if 0x10800 ≤ a ∧ a < 0x11000 then
    let i := (a - 0x10800) / 32
    (match (a - 0x10800) % 32 with
     | 0 => some (.sqBase i) | 8 => some (.sqCfg i) | 0x10 => some (.cqBase i) | 0x18 => some (.cqCfg i) | _ => none)
  else if a = 0x11000 then some .evqBase
  else if a = 0x11008 then some .evqCfg
  else if a = 0x1100C then some .evqHead
  else if a = 0x11040 ∨ a = 0x11048 then some (.evPending ((a - 0x11040) / 8))
  else if 0x21200 ≤ a ∧ a < 0x21250 then (if a % 4 = 0 then some (.hdm ((a - 0x21200) / 4)) else none)
  else if 0x30000 ≤ a ∧ a < 0x30410 then (if a % 4 = 0 then some (.msix ((a - 0x30000) / 16) (a % 16 / 4)) else none)
  else if a = 0x40000 then some .self
  else if 0x40100 ≤ a ∧ a < 0x40220 then (if a % 8 = 0 then some (.linkCtrl ((a - 0x40100) / 8)) else none)
  else if 0x44000 ≤ a ∧ a < 0x48000 then (if a % 4 = 0 then some (.route ((a - 0x44000) / 4)) else none)
  else if 0x48000 ≤ a ∧ a < 0x48800 then (if a % 8 = 0 then some (.land ((a - 0x48000) / 8)) else none)
  else if 0x80000 ≤ a ∧ a < 0x83000 then (if a % 4 = 0 then some (.acl ((a - 0x80000) / 4)) else none)
  else if 0x84000 ≤ a ∧ a < 0x84200 then (if a % 8 = 0 then some (.domCore ((a - 0x84000) / 8)) else none)
  else if 0x84800 ≤ a ∧ a < 0x85000 then (if a % 8 = 0 then some (.domPeer ((a - 0x84800) / 8)) else none)
  else if a = 0x85000 then some .domHost
  else if a = 0x85008 then some .lock
  else if a = 0x85010 then some .svn
  else if 0x85400 ≤ a ∧ a < 0x85800 then (if a % 8 = 0 then some (.lsClass ((a - 0x85400) / 8)) else none)
  else if 0x86000 ≤ a ∧ a < 0x87000 then
    (if a % 8 = 0 ∧ a % 64 / 8 < 5 then some (.restoreKey ((a - 0x86000) / 64) (a % 64 / 8)) else none)
  else if 0x90000 ≤ a ∧ a < 0x90800 then (if a % 8 = 0 then some (.setCtrl ((a - 0x90000) / 8)) else none)
  else if 0x98000 ≤ a ∧ a < 0xA0000 then (if a % 8 = 0 then some (.setMask ((a - 0x98000) / 8)) else none)
  else if 0xA0000 ≤ a ∧ a < 0xA4000 then
    let c := (a - 0xA0000) / 16
    (match a % 16 with | 0 => some (.coreCfg c) | 8 => some (.stalemate c) | _ => none)
  else if a = 0x100000 then some .bwCfg
  else if 0x110000 ≤ a ∧ a < 0x118000 then
    let c := (a - 0x110000) / 32
    (match a % 32 with | 0 => some (.gauCfg c) | 8 => some (.smpBase c) | 0x10 => some (.dumpBase c) | _ => none)
  else if 0x200000 ≤ a ∧ a < 0x300000 then
    (if a % 4 = 0 then some (.gauSel ((a - 0x200000) / 1024) ((a - 0x200000) % 1024 / 4)) else none)
  else if 0x800000 ≤ a ∧ a < 0xA00000 then
    (if a % 8 = 0 then some (.unit ((a - 0x800000) / 8192) ((a - 0x800000) % 8192 / 8)) else none)
  else none

/-- Is the register served before READY (R429)? -/
def Reg.early : Reg → Bool
  | .hdm _ | .msix _ _ => true
  | _ => false

/-- A register written with a value of its width (R483): RO and reserved fields keep what they hold. -/
def State.writeReg (s : State) (r : Reg) (v : Word) : State :=
  let v4 : Word32 := v.setWidth 32
  let port := fun (p : HostPort) => { s with port := p }
  match r with
  | .energyCfg => { s with house := s.house.writeEnergy v4 }
  | .erepBase => if s.house.energyCfg.getLsbD 16 then s else { s with house := { s.house with erepBase := v &&& 0x7FFFFFFFF#64 } }
  | .hdmMap => port { s.port with hdmMap := v &&& 0x1FFF0000000#64 }
  | .sqBase i => if ringEnabled (s.sq i).cfg then s else s.setSq i { s.sq i with base := v &&& ~~~0xFFF#64 }
  | .sqCfg i => s.writeSqCfg i v4
  | .cqBase i => if ringEnabled (s.cq i).cfg then s else s.setCq i { s.cq i with base := v &&& ~~~0xFFF#64 }
  | .cqCfg i => s.writeCqCfg i v4
  | .evqBase => if ringEnabled s.evq.cfg then s else { s with evq := { s.evq with base := v &&& ~~~0xFFF#64 } }
  | .evqCfg => s.writeEvqCfg v4
  | .evqHead => { s with evq := { s.evq with head := v4.toNat % 4096 } }
  | .evPending w => { s with evPending := s.evPending.upd 0 w (· &&& ~~~v) }
  | .hdm i => port (s.port.writeHdm i v4)
  | .msix n p =>
    let e := s.port.msix.get {} n
    (match p with
     | 0 => port { s.port with msix := s.port.msix.set n { e with addr := (e.addr &&& ~~~0xFFFFFFFF#64) ||| v4.setWidth 64 } }
     | 1 => port { s.port with msix := s.port.msix.set n { e with addr := (e.addr &&& 0xFFFFFFFF#64) ||| (v4.setWidth 64 <<< 32) } }
     | 2 => port { s.port with msix := s.port.msix.set n { e with data := v4 } }
     | _ => s.writeMsixControl n v4)
  | .self => if (List.range 36).all (fun l => (s.link l).state = .disabled) then { s with self := v4 &&& 0xFFF } else s
  | .linkCtrl l => s.writeLinkCtrl l v4
  | .route p => { s with routes := s.routes.set p (v4 &&& 0x8000003F) }
  | .land k => { s with landing := s.landing.set k (v &&& 0x80FFFFFC01FFFFFF#64) }
  | .acl i => s.lockable (fun x => { x with acl := x.acl.set i v4 })
  | .domCore w => s.lockable (fun x => { x with domCore := x.domCore.set w v })
  | .domPeer w => s.lockable (fun x => { x with domPeer := x.domPeer.set w v })
  | .domHost => s.lockable (fun x => { x with domHost := v &&& 0xF })
  | .lock => s.writeLock v
  | .svn => if v.getLsbD 16 then s.commitSvn else s
  | .lsClass w => s.lockable (fun x => { x with lsClass := x.lsClass.set w (v &&& 0x3F3F3F3F3F3F3F3F#64) })
  | .restoreKey k m => 
    let w := if m = 4 then v &&& 0x8000000000000FFF#64 else v
    s.lockable (fun x => { x with restoreKey := x.restoreKey.set (8 * k + m) w })
  | .setCtrl n => { s with sets := s.sets.set n (v &&& 0x803FF8FC00000000#64) }
  | .setMask i => { s with setMasks := s.setMasks.set i v }
  | .coreCfg c => s.writeQueueMode c v4
  | .stalemate c => s.setUpCore c (fun k => { k with stalemateCfg := v4 &&& 0x3F3F })
  | .bwCfg => { s with bwCfg := v4 &&& 0x3F }
  | .gauCfg c => s.setUpCore c (fun k => { k with gauger := k.gauger.writeCfg v })
  | .smpBase c => s.setUpCore c (fun k => { k with gauger := k.gauger.writeBase false v })
  | .dumpBase c => s.setUpCore c (fun k => { k with gauger := k.gauger.writeBase true v })
  | .gauSel c j => s.writeGauSel c j v4
  | .unit u i => s.clearUnit u i

/-- A write that starts at `a` with a register of its width there (R482, R483, R429): a 4-byte write to a 64-bit register,
and one to no register, is ignored. -/
def State.writeAtAddr (s : State) (a bytes : Nat) (v : Word) : State :=
  match regAt a with
  | some r => if r.bytes = bytes ∧ (s.served ∨ r.early) then s.writeReg r v else s
  | none => s
/-- A BAR0 write (R402, R483): naturally aligned only; an 8-byte write over 32-bit registers is two 4-byte writes, the lower
address first. -/
def State.writeBar (s : State) (a : Nat) (wide : Bool) (v : Word) : State :=
  if !s.house.power ∨ !s.port.linkUp ∨ a % (if wide then 8 else 4) ≠ 0 then s
  else if !wide then s.writeAtAddr a 4 (v &&& 0xFFFFFFFF#64)
  else match regAt a with
    | some r => if r.bytes = 8 then s.writeAtAddr a 8 v
      else (s.writeAtAddr a 4 (v &&& 0xFFFFFFFF#64)).writeAtAddr (a + 4) 4 (v >>> 32)
    | none => s.writeAtAddr (a + 4) 4 (v >>> 32)

end Sys2Proof.Machine
end

