-- ==== Sys2Proof/Machine/SetupRows.lean ====
section
/-! DEFINITION. Meanings of the register writes and of the Gauger (19_gauger.md, 21_setup_registers.md). -/

namespace Sys2Proof.Machine

/-! ## Register writes -/

/-- REGISTER_WRITE (R402, R483, R484). -/
def execRegisterWrite (a : BitVec 26) (wide : Bool) (v : Word) (s : State) : Out := .next (s.writeBar a.toNat wide v)
/-- QUEUE_MODE_WRITE (R489, R485). -/
def execQueueModeWrite (c : CoreId) (v : Word32) (s : State) : Out := .next (if s.served then s.writeQueueMode c v else s)
/-- GAU_SEL_WRITE (R462, R463, R485). -/
def execGauSelWrite (c : CoreId) (j : Fin 256) (v : Word32) (s : State) : Out :=
  .next (if s.served then s.writeGauSel c j v else s)
/-- UNIT_COUNTER_CLEAR (R464). -/
def execUnitCounterClear (u : Fin 256) (i : Fin 1024) (s : State) : Out := .next (if s.served then s.clearUnit u i else s)
/-- SEC_LOCK_WRITE (R448). -/
def execSecLockWrite (v : Word) (s : State) : Out := .next (if s.served then s.writeLock v else s)
/-- SEC_SVN_COMMIT (R452, R490). -/
def execSecSvnCommit (s : State) : Out := .next (if s.served then s.commitSvn else s)
/-- SVN_FUSE_BURN_DONE (R452, R490): the fused version equals the running one. -/
def execSvnFuseBurnDone (s : State) : Out :=
  .next (if s.house.power ∧ s.sec.commitBusy then
    { s with fuses := { s.fuses with svn := s.sec.runningSvn }, sec := { s.sec with commitBusy := false } } else s)

/-! ## Bandwidth windows (R470) -/

/-- log2 of the window of unit u in force. -/
def State.bwWindow (s : State) (u : Nat) : Nat := s.bwLog.get 16 u
/-- Does unit u have bandwidth windows, and does its island run? -/
def State.bwRuns (s : State) (u : Nat) : Bool :=
  s.house.power && (List.range 256).any (fun i => unitIndex u (0x300 + i)) && !(s.house.tripped && decide (u ≤ 0x20))
/-- BW_WINDOW_END (R470): the unit's cycle counter reaches the next multiple of its window (log 12). -/
def execBwWindowEnd (u : Fin 256) (s : State) : Out :=
  .next (
    if !s.bwRuns u then s
    else
      let size := 2 ^ s.bwWindow u
      let n := size - (s.unitCounter u 0).count % size
      let s := if 0x80 ≤ u.val ∧ u.val < 0xA4 then s.linkTick (u.val - 0x80) n else s.countUnit u 0 n
      let keys := ((List.range 256).filter (fun i => unitIndex u (0x300 + i))).map (fun i => 1024 * u.val + 0x300 + i)
      let s := keys.foldl (fun (s : State) k =>
        let b := s.bwNow.get 0 k % 2 ^ 48
        { s with bwLast := s.bwLast.set k (wd (2 ^ 63 + b)), bwPeak := s.bwPeak.upd 0 k (max b), bwNow := s.bwNow.erase k }) s
      { s with bwLog := s.bwLog.set u (min 30 (max 10 (bitsOf s.bwCfg.toNat 5 0))) })
/-- GAU_BW_PEAK_READ (R470): the peak is answered and cleared. -/
def execGauBwPeakRead (u i : Fin 256) (s : State) : Out :=
  .next (
    if !s.served then s
    else
      let k := 1024 * u.val + 0x300 + i.val
      let w := wd (s.bwPeak.get 0 k)
      { s with bwPeak := s.bwPeak.erase k, port := { s.port with answer := .word w } })

/-! ## Samples and dumps (R467 to R471) -/

/-- A saturating 32-bit difference. -/
def span32 (a b : Nat) : Nat := min (b - a) (2 ^ 32 - 1)
/-- The record of a sample (Table 19.6). -/
def sampleBytes (c seq : Nat) (dropped : Bool) (x : Sample) (done : Nat) : List Byte :=
  natLe 8 seq ++ natLe 2 c ++
  natLe 2 (x.op.eng.code + (if x.faulted then 8 else 0) + (if dropped then 16 else 0)) ++
  natLe 2 x.op.idx ++ natLe 2 x.op.start ++ natLe 8 (x.op.inv % 2 ^ 48) ++ natLe 2 x.op.inst ++ natLe 6 0 ++
  natLe 8 x.issue ++ natLe 4 (span32 x.issue x.began) ++ natLe 4 (span32 x.began done) ++ natLe 16 0
/-- SAMPLE_RECORD_WRITE (R467, R469): the oldest completed sample of a core is written to its ring. -/
def execSampleRecordWrite (c : CoreId) (s : State) : Out :=
  .next (
    let g := (s.core c).gauger
    match g.samples.find? (fun x => x.done.isSome) with
    | some x =>
      let size := 2 ^ min 20 (max 6 (wField g.cfg 44 40))
      let dva := g.smpBase.toNat * 64 + g.smpSeq % size * 64
      let (hit, s') := s.recall (guildOf c) (masterId 6 c) dva 64 true
      if !s.coreRuns c then s
      else if hit then s'
      else
        let g' : Gauger := { g with samples := g.samples.erase x, smpSeq := g.smpSeq + 1, smpDropped := false }
        let s := s.atCore c (fun e => { e with k := { e.k with gauger := g' } })
        s.writeRecord (.gauger c) (masterId 6 c) dva (sampleBytes c g.smpSeq g.smpDropped x (x.done.getD 0))
    | none => s)

/-- The word of counter j as a dump or a context image holds it: a mirroring counter shows its unit counter (R460, R465). -/
def State.counterWord (s : State) (c j : Nat) : Word :=
  (s.mirrorOf c j).getD (((s.core c).gauger.counters.get {} j).word)
/-- The record of a dump (Table 19.8), `writing` giving bit 63 of its sequence number. -/
def State.dumpBytes (s : State) (c : Nat) (writing : Bool) : List Byte :=
  let k := s.core c
  let g := k.gauger
  natLe 8 (g.dumpSeq % 2 ^ 63 + (if writing then 2 ^ 63 else 0)) ++ natLe 2 c ++
  natLe 1 ((if g.dumpSkipped then 1 else 0) + (if k.frozen then 2 else 0)) ++ natLe 5 0 ++ natLe 8 k.cycle ++
  natLe 8 k.invIssued.toNat ++ natLe 8 k.invDone.toNat ++ natLe 24 0 ++
  (List.range 32).flatMap (fun j => natLe 8 (k.notch j).toNat) ++
  (List.range 256).flatMap (fun j => natLe 8 (s.counterWord c j).toNat)
/-- log2 of the dump interval (Table 19.5). -/
def Gauger.dumpLog (g : Gauger) : Nat := min 40 (max 16 (wField g.cfg 38 33))
/-- DUMP_LATCH (R471): in a cycle that is a multiple of the interval, the record is latched and written in its three steps;
skipped while writes of the previous one are still under way. -/
def execDumpLatch (c : CoreId) (gap : Nat) (s : State) : Out :=
  .next (
    let g := (s.core c).gauger
    let cyc := ((s.core c).cycle + gap) % 2 ^ 64
    if !s.coreRuns c ∨ !g.cfg.getLsbD 39 ∨ cyc % 2 ^ g.dumpLog ≠ 0 then s
    else
      let s := s.atCore c (fun e => { e with k := { e.k with cycle := cyc } })
      if s.txns.any (fun t => t.src = .gauger c) then
        s.atCore c (fun e => { e with k := { e.k with gauger := { e.k.gauger with dumpSkipped := true } } })
      else
        let size := 2 ^ min 16 (wField g.cfg 32 28)
        let dva := g.dumpBase.toNat * 64 + g.dumpSeq % size * 2368
        let (hit, s') := s.recall (guildOf c) (masterId 6 c) dva 2368 true
        if hit then s'
        else
          let write := fun (s : State) (a : Nat) (bs : List Byte) => (s.writeRange (.gauger c) (masterId 6 c) 0 a (markAll false bs)).2
          let r := s.dumpBytes c false
          let s := write s dva ((s.dumpBytes c true).take 64)
          let s := write s (dva + 64) (r.drop 64)
          let s := write s dva (r.take 64)
          s.atCore c (fun e =>
            { e with k := { e.k with gauger := { e.k.gauger with dumpSeq := g.dumpSeq + 1, dumpSkipped := false } } }))

end Sys2Proof.Machine
end

