-- ==== Sys2Proof/Machine/ScrivenerOps.lean ====
section
/-! DEFINITION. Operations of the Scrivener (15_snapshots_and_context.md): quiescence, request blocks, context images, frozen
pages, the transfer of pages to a destination, manifests, and the end of a snapshot or a restore. -/

namespace Sys2Proof.Machine

/-- The Scrivener's master (R442). -/
def scrivMaster : Nat := masterId 7 3
/-- Bytes of a page and of a context image (R378). -/
def pageBytes : Nat := 65536
/-- Bytes of a context image. -/
def imageBytes : Nat := 1310720
/-- Does the Scrivener take steps? -/
def State.scrivenerRuns (s : State) : Bool := s.house.power && !s.house.tripped && !s.house.services.contains 2
/-- The end of the Scrivener's work: READY, unless the module has failed. -/
def State.scrivenerDone (s : State) : State := s.proceed .ready
/-- The command of a snapshot or restore ends, once the accesses `ids` are performed (R253 steps 3 and 4). -/
def State.endScrivener (s : State) (cmd : Nat) (ids : List Nat) (status detail : Nat) : State :=
  match s.scrivenerDone.cmds.find? (fun c => c.num = cmd) with
  | some c => if ids = [] then s.scrivenerDone.endCmd c status detail
    else (s.scrivenerDone.startCmd c (.waitAccesses ids status detail)).settleCmds
  | none => s.scrivenerDone

/-! ## Quiescence (R380, R393) -/

/-- Is the core quiescent? -/
def State.quiescent (s : State) (c : Nat) : Bool :=
  let k := s.core c
  (List.range 4).all (fun t => match (k.thread t).state with
    | .halted | .waitEvent | .waitNotch | .waitLaunch => true
    | _ => false) &&
  k.invQueue.isEmpty && k.splitting.isNone && k.enginesIdle &&
  !(s.guild (guildOf c)).drayQueue.any (fun (d : DrayDesc) => d.core = c)
/-- Is every live core? -/
def State.allQuiescent (s : State) : Bool := s.liveCores.all s.quiescent

/-! ## Request blocks (Table 16.12) -/

/-- `n` bytes at `o` of a block, little-endian. -/
def fieldAt (bs : List Byte) (o n : Nat) : Nat := leNat ((bs.drop o).take n)
/-- Are the bytes all 0? -/
def zeroBytes (bs : List Byte) : Bool := bs.all (· = 0)

/-- A snapshot request's fields. -/
def snapshotOf (cmd : Nat) (bs : List Byte) : Snapshot :=
  let k := fieldAt bs 64 8
  { cmd := cmd, step := fieldAt bs 0 8, destBase := fieldAt bs 8 8, ctxBase := fieldAt bs 16 8, linkMask := fieldAt bs 40 8,
    release := wd (fieldAt bs 48 8), timeout := fieldAt bs 56 8, kind := k % 4, sign := bitOf k 2,
    regions := (List.range (bitsOf k 14 8)).map (fun r => (fieldAt bs (128 + 16 * r) 8, fieldAt bs (136 + 16 * r) 8)),
    pool := (List.range (fieldAt bs 32 4)).map (fun i => fieldAt bs 24 8 / pageBytes + i) }
/-- Are the reserved bits of a snapshot request 0, its kind defined, and its regions aligned and inside the space? -/
def snapshotFieldsOk (bs : List Byte) : Bool :=
  let k := fieldAt bs 64 8
  fieldAt bs 36 4 = 0 && decide (fieldAt bs 40 8 < 2 ^ 36) && decide (k % 4 ≠ 3) && bitsOf k 7 3 = 0 && decide (k < 2 ^ 15) &&
  zeroBytes ((bs.drop 72).take 56) &&
  (List.range (min 64 (bitsOf k 14 8))).all (fun r =>
    fieldAt bs (128 + 16 * r) 8 % pageBytes = 0 &&
    decide (fieldAt bs (128 + 16 * r) 8 / pageBytes + fieldAt bs (136 + 16 * r) 8 ≤ 2 ^ 25))

/-- Page of index i of a list of regions. -/
def regionPage : List (Nat × Nat) → Nat → Nat
  | [], i => i
  | (a, n) :: t, i => if i < n then a / pageBytes + i else regionPage t (i - n)
/-- Pages of a snapshot (R387). -/
def Snapshot.count (x : Snapshot) : Nat := 20480 + x.regions.foldl (fun n r => n + r.2) 0
/-- Page of list index i (R387). -/
def Snapshot.page (x : Snapshot) (i : Nat) : Nat :=
  if i < 20480 then x.ctxBase / pageBytes + i else regionPage x.regions (i - 20480)
/-- Is the page one of the snapshot? -/
def Snapshot.has (x : Snapshot) (p : Nat) : Bool :=
  (decide (x.ctxBase / pageBytes ≤ p) && decide (p < x.ctxBase / pageBytes + 20480)) ||
  x.regions.any (fun r => decide (r.1 / pageBytes ≤ p) && decide (p < r.1 / pageBytes + r.2))
/-- Is a sending of the page still to come? -/
def Snapshot.unsent (x : Snapshot) (p : Nat) : Bool := ((List.range x.count).drop x.next).any (fun i => x.page i = p)
/-- Bytes of the manifest of `n` entries. -/
def manifestBytes (n : Nat) (sign : Bool) : Nat := 256 + 40 * n + (if sign then 17088 else 0)
/-- data_base (R387): the destination after the manifest rounded up to whole pages. -/
def dataBase (destBase n : Nat) (sign : Bool) : Nat :=
  destBase + (manifestBytes n sign + pageBytes - 1) / pageBytes * pageBytes

/-- Is the page mapped: valid, and its frame in place? -/
def State.mapped (s : State) (p : Nat) : Bool :=
  decide (p < 2 ^ 25) && ptValid (s.tableEntry p) && (s.place (s.tableEntry p) (p * pageBytes) false).isSome
/-- Are `n` pages from `p` mapped? -/
def State.mappedRun (s : State) (p n : Nat) : Bool := (List.range n).all (fun i => s.mapped (p + i))
/-- The pages of the destination of a snapshot. -/
def Snapshot.destPages (x : Snapshot) : List Nat :=
  (List.range ((dataBase x.destBase x.count x.sign - x.destBase) / pageBytes + x.count)).map (x.destBase / pageBytes + ·)
/-- The peer that the first destination page names. -/
def State.destPeer (s : State) (x : Snapshot) : Nat := bitsOf (ptFrame (s.tableEntry (x.destBase / pageBytes))) 36 25
/-- Is a snapshot request good (Table 15.5, BAD_REQUEST)? -/
def State.requestOk (s : State) (x : Snapshot) (cowBase : Nat) : Bool :=
  decide (x.regions.length ≤ 64) && x.ctxBase % pageBytes = 0 && x.destBase % pageBytes = 0 && cowBase % pageBytes = 0 &&
  s.mappedRun (x.ctxBase / pageBytes) 20480 && x.pool.all (fun p => s.mapped p && !x.has p) &&
  x.destPages.all (fun p => s.mapped p &&
    (if x.kind = 0 then ptTarget (s.tableEntry p) = 4 && bitsOf (ptFrame (s.tableEntry p)) 36 25 = s.destPeer x
     else ptTarget (s.tableEntry p) = 3))
/-- The links of a mask that are ACTIVE. -/
def State.activeOf (s : State) (mask : Nat) : List Nat :=
  (List.range 36).filter (fun l => bitOf mask l && (s.link l).state = .active)
/-- Are a BUDDY request's links good (R390)? -/
def State.linksOk (s : State) (x : Snapshot) : Bool :=
  x.kind ≠ 0 || (x.linkMask ≠ 0 && (List.range 36).all (fun l => !bitOf x.linkMask l ||
    ((s.link l).state = .active && (s.link l).farPeer = s.destPeer x)))

/-! ## Context images (R377, R378, R382) -/

/-- Two stores' bytes joined for a ledger tile: each row's form_mask and slots (R88, R89). -/
def CoreSt.ledgerImage (k : CoreSt) (tile : Nat) : List Byte :=
  (List.range 64).flatMap (fun r =>
    let forms := (List.range 32).map (fun c =>
      let l := k.ledger tile r c
      LedgerOps.toForm (if l.parityBad then LedgerOps.ofTag .poison else l))
    let mask := (forms.zip (List.range 32)).foldl (fun m f => if LedgerOps.isFull f.1 then m + 2 ^ f.2 else m) 0
    natLe 64 mask ++ forms.flatMap LedgerOps.slotBytes)
/-- The image of a thread: 512 bytes. -/
def Thread.image (t : Thread) : List Byte :=
  (List.range 31).flatMap (fun r => natLe 8 (t.reg (r + 1)).toNat) ++ natLe 8 t.pc.toNat ++
  natLe 8 (t.state.code + (if t.handler then 8 else 0)) ++
  [t.excVector, t.excCause, t.excPc, t.excAddr].flatMap (fun w => natLe 8 w.toNat) ++ natLe 216 0
/-- A word table's bytes. -/
def wordsOf (n : Nat) (f : Nat → Word) : List Byte := (List.range n).flatMap (fun i => natLe 8 (f i).toNat)
/-- A double-bit error marks its word of instruction memory. -/
def Store.imemMarked (st : Store) (n : Nat) : List (Byte × Bool) :=
  (List.range n).map (fun i => (st.data.rd i, idxMem st.double (i / 4)))
/-- Every byte of the image but its header (Table 15.2), with marks. -/
def State.imageBody (s : State) (c : Nat) : List (Byte × Bool) :=
  let k := (s.core c).performShadow ((s.core c).cycle + 2)
  let z := fun (n : Nat) => markAll false (natLe n 0)
  markAll false (wordsOf 32 (fun j => (k.notch j).setWidth 64)) ++
  markAll false ((List.range 32).flatMap (fun j => natLe 4 (tileOf k.tiles j).toNat)) ++
  markAll false ([k.invIssued, k.invDone, k.invFaults, k.invLastFault].flatMap (fun w => natLe 8 w.toNat)) ++
  markAll false (natLe 8 k.evPending.toNat ++ natLe 8 k.mailbox.toNat) ++
  markAll false ([k.nfCount, k.nfLimit, k.spikeCount, k.spikeLimit].flatMap (fun w => natLe 8 w.toNat)) ++ z 48 ++ z 448 ++
  markAll false ((List.range 4).flatMap (fun t => (k.thread t).image)) ++
  markAll false (wordsOf 64 (fun j => k.liveSlots.get 0 j)) ++ markAll false (wordsOf 64 (fun j => k.shadow.get 0 j)) ++
  markAll false ((List.range 64).flatMap (fun j => natLe 64 (k.descs.get 0 j).toNat)) ++
  markAll false ((List.range 64).flatMap (fun l => natLe 16 (k.lane l).toNat)) ++
  markAll false (wordsOf 128 k.assay) ++ markAll false (k.hist.recordBytes 0) ++ z 1728 ++
  markAll false (wordsOf 256 (fun j => s.counterWord c j)) ++ z 2048 ++
  markAll false ((List.range 64).flatMap (fun n => (k.red n).image)) ++ k.imem.imemMarked 32768 ++ z 8192 ++
  k.dmem.readMarked 0 65536 ++ ((List.range 131072).map (fun i => (k.pattern.data.rd i, idxMem k.pattern.double (i / 8)))) ++
  k.trf.readMarked 0 131072 ++ markAll false (k.ledgerImage 0) ++ markAll false (k.ledgerImage 1) ++ z 57344 ++
  k.ls.readMarked 0 524288
/-- The image (Table 15.2). -/
def State.contextImage (s : State) (c : Nat) : List (Byte × Bool) :=
  let body := s.imageBody c
  markAll false (natLe 2 1 ++ natLe 2 c ++ natLe 1 (s.core c).queueModeWanted ++ natLe 1 (if body.any (·.2) then 1 else 0) ++ natLe 58 0) ++
  body
/-- The core after its capture: its stores have been read, nothing is counted or raised (R382). -/
def CoreSt.captured (k : CoreSt) : CoreSt :=
  { k with ls := (k.ls.afterRead 0 524288).1, trf := (k.trf.afterRead 0 131072).1, dmem := (k.dmem.afterRead 0 65536).1 }

/-- The histogram a record stands for (Table 7.11). -/
def Histogram.ofRecord (bs : List Byte) : Histogram :=
  let f := fieldAt bs
  { bins := (List.range 64).foldl (fun (t : Tab Nat) b => if f (64 + 4 * b) 4 = 0 then t else t.set b (f (64 + 4 * b) 4)) [],
    hi := if f 2 2 = 0x8000 then none else some (signedOf 16 (f 2 2)),
    lo := if f 4 2 = 0x7FFF then none else some (signedOf 16 (f 4 2)),
    saturated := bitOf (f 6 2) 0, recorded := f 8 4 }
/-- A thread state from its code (Table 5.2); a reserved code halts. -/
def ThreadState.ofCode : Nat → ThreadState
  | 1 => .ready | 2 => .waitFar | 3 => .waitNotch | 4 => .waitEvent | 5 => .waitLaunch | 6 => .waitTable | _ => .halted
/-- The notch and value an `nwait` at the program counter waits for. -/
def CoreSt.nwaitOf (k : CoreSt) (th : Thread) : Option (Nat × BitVec 48) :=
  match tallyDecode (BitVec.ofNat 32 (k.imem.data.le (th.pc.toNat / 4 * 4) 4)) with
  | some (.imm .nwait _ rs1 v) => some (v.toNat % 32, (th.reg rs1).setWidth 48)
  | _ => none
/-- A thread from its image. -/
def Thread.ofImage (old : Thread) (bs : List Byte) : Thread :=
  let w := fun (i : Nat) => wd (fieldAt bs (8 * i) 8)
  let st := fieldAt bs 256 1
  { old with regs := (List.range 31).foldl (fun (t : Tab Word) r => t.set (r + 1) (w r)) [], pc := w 31,
             state := ThreadState.ofCode (st % 8), handler := bitOf st 3, excVector := w 33, excCause := w 34, excPc := w 35,
             excAddr := w 36, wait := none }
/-- A table filled from words of an image. -/
def tabOf {α : Type} (n : Nat) (f : Nat → α) : Tab α := (List.range n).map (fun i => (i, f i))
/-- What the context port writes at a restore (R396 steps 1, 2, 6 and 7): everything but the stores that pass through the
local store. The tile descriptors' reserved bits read 0 as after any write (DESIGN CHOICE, log 34); what no context holds is as
after a cold reset: no operand cached, no stationary chunk, no MATMUL before the next one (R52, R73, R156). -/
def CoreSt.loadPort (k : CoreSt) (im : List (Byte × Bool)) : CoreSt :=
  let bs := im.map (·.1)
  let w := fun (o : Nat) => wd (fieldAt bs o 8)
  let w48 := fun (o : Nat) => BitVec.ofNat 48 (fieldAt bs o 6)
  let cut := fun (o n : Nat) => (bs.drop o).take n
  let marks := fun (o n : Nat) => (im.drop o).take n
  let tiles : Tab Word32 := tabOf 32 (fun j => tileStored (fieldAt bs (0x140 + 4 * j) 4))
  let imem : Store := k.imem.writeImem 0 (cut 0x6000 32768)
  let badWord := (List.range 8192).filter (fun i => (marks (0x6000 + 4 * i) 4).any (·.2))
  let qm := fieldAt bs 4 1 % 2
  let k := { k with
    notches := tabOf 32 (fun j => w48 (0x40 + 8 * j)), tiles := tiles, splitTiles := tiles,
    invIssued := w48 0x1C0, invDone := w48 0x1C8, invFaults := w48 0x1D0, invLastFault := w48 0x1D8, endedAhead := [],
    evPending := w 0x1E0, mailbox := w 0x1E8, nfCount := w48 0x1F0, nfLimit := w48 0x1F8, spikeCount := w48 0x200,
    spikeLimit := w48 0x208, liveSlots := tabOf 64 (fun j => w (0xC00 + 8 * j)), shadow := tabOf 64 (fun j => w (0xE00 + 8 * j)),
    shadowPend := [], descs := tabOf 64 (fun j => BitVec.ofNat 512 (fieldAt bs (0x1000 + 64 * j) 64)),
    lanes := tabOf 64 (fun l =>
      let v := fieldAt bs (0x2000 + 16 * l) 16
      if v = 0 then laneSeed 0 0 l else BitVec.ofNat 128 v),
    assayer := tabOf 128 (fun j => w (0x2400 + 8 * j)), hist := Histogram.ofRecord (cut 0x2800 320),
    gauger := { k.gauger with counters := tabOf 256 (fun j =>
      { count := fieldAt bs (0x3000 + 8 * j) 6, ovf := bitOf (fieldAt bs (0x3000 + 8 * j) 8) 63 }) },
    reducer := tabOf 64 (fun n => Reducer.ofImage (cut (0x4000 + 128 * n) 128) ((marks (0x4000 + 128 * n) 128).any (·.2))),
    imem := { imem with double := badWord }, dmem := k.dmem.write 0 (marks 0x10000 65536),
    queueMode := qm, queueModeWanted := qm, farCache := [], prevFmts := none, pipe := {}, met := [], note := {}, calm := 0 }
  let k := k.writePattern 0 (marks 0x20000 131072)
  (List.range 4).foldl (fun (k : CoreSt) t =>
    let th := Thread.ofImage (k.thread t) (cut (0x400 + 512 * t) 512)
    k.setThread t (if th.state = .waitNotch then { th with wait := k.nwaitOf th } else th)) k
/-- A MERGE with init = ZERO of an image of 64 rows at a local-store offset (R90, R396). -/
def mergeOp (tile : Nat) (base : Int) : DrainOp :=
  { op := 3, tile := tile, m := 64, n := 32, fmt := 0, sr := false, acc := false, fuse := 0, stats := false, toLs := true,
    lsBase := base, lsStride := 2624, lsScale := 0, trf := ⟨0, 0, 0, 0, 0, 0, 0⟩, a := 0, auxFmt := 0, auxByte0 := 0, auxRow0 := 0,
    auxTile := 0, inst := 0 }
/-- A core's restore from its image (R396), release word included. -/
def Eff.restoreContext (e : Eff) (im : List (Byte × Bool)) (release : Word) : Eff :=
  let e := { e with k := e.k.loadPort im }
  let cut := fun (o n : Nat) => (im.drop o).take n
  let e := (e.writeLs 0x20000 (cut 0x60000 167936)).writeLs 0x49000 (cut 0x89000 167936)
  let e := (e.mergeImage (mergeOp 0 0x20000)).mergeImage (mergeOp 1 0x49000)
  let e := (e.writeTrf 0 (cut 0x40000 131072)).writeLs 0 (cut 0xC0000 524288)
  e.mail release

/-! ## Frozen pages (R253, R255, R384, R385) -/

/-- The frozen bit of a page written in the table. -/
def State.setFrozen (s : State) (p : Nat) (b : Bool) : State :=
  let e := s.tableEntry p &&& ~~~((1 : Word) <<< 59)
  s.writeEntries p [if b then e ||| ((1 : Word) <<< 59) else e]
/-- Is an access a write held on page `p`? -/
def Txn.heldOn (t : Txn) (p : Nat) : Bool :=
  t.phase = .held && (match t.target with | .dva a => decide (a / pageBytes = p) | _ => false)
/-- Writes held on a page are translated afresh (R255). -/
def State.releaseHeld (s : State) (p : Nat) : State :=
  (s.txns.filter (fun t => t.heldOn p)).foldl (fun (s : State) t =>
    let (e, s) := s.entryOf t.src.guild p
    s.act t (s.judge e t.master t.target.addr true (t.src = .host))) s
/-- A page is preserved: its frozen bit is cleared, cached copies go, and held writes proceed (R253, R385) once every access
translated under the old entry is performed; until then they wait at the walker. -/
def State.preserve (s : State) (p : Nat) : State :=
  let ids := s.translated (· = p)
  let s := (s.setFrozen p false).uncache (· = p)
  if ids = [] then s.releaseHeld p
  else { s with txns := s.txns.map (fun t => if t.heldOn p then { t with phase := .walking, after := ids } else t) }

/-- A page of the Scrivener's leaves the Draymen's queues (R292). -/
def State.scrivLeave (s : State) (p : Nat) : State :=
  { s with guilds := s.guilds.map (fun g : Nat × GuildSt => (g.1, { g.2 with scrivQueue := g.2.scrivQueue.filter (fun q => q ≠ p) })) }
/-- The guild whose Drayman carries a page: its stack's, its controller's, else the Counting House's (Table 15.3, log 48). -/
def State.scrivGuild (s : State) (p : Nat) : Nat :=
  match s.place (s.tableEntry p) (p * pageBytes) false with
  | some (.shale g _) => g
  | some (.bedrock k _) => ctlGuild k
  | _ => 11

/-- A snapshot ends by failure (R391): frozen bits cleared, the pool freed, no manifest. -/
def State.failSnapshot (s : State) (x : Snapshot) (reason : Nat) : State :=
  let s := { s with snapshot := none, txns := s.txns.filter (fun t => !(t.src = .house && t.owner = 1)),
                    guilds := s.guilds.map (fun g : Nat × GuildSt => (g.1, { g.2 with scrivQueue := [] })) }
  let ids := s.translated (fun p => x.has p && ptFrozen (s.tableEntry p))
  let s := if x.frozen then
      ((List.range x.count).map x.page).foldl (fun (s : State) p => if ptFrozen (s.tableEntry p) then s.preserve p else s) s
    else s
  (s.raise 0x61 [wd x.step, wd reason, wd x.next]).endScrivener x.cmd ids 8 (reason + x.next * 256)
/-- The acknowledgement of a destination write over a link (R391): anything but success fails the snapshot. -/
def State.houseAck (s : State) (t : Txn) (code : Nat) : State :=
  let s := s.dropTxn t.id
  let s := if t.owner = 1 ∧ !s.txns.any (fun u => u.src = .house && u.owner = 1 && u.spot = t.spot) then s.scrivLeave t.spot else s
  match s.snapshot with
  | some x => if t.owner = 1 ∧ code ≠ 0 then s.failSnapshot x 4 else s
  | none => s

/-! ## Transfers (R387, R390) -/

/-- Sends the bytes of one destination page for list page `p0`, `idx` choosing its link: false when a write fails at once. A BUDDY page goes on
a link of the mask, past LNK_ROUTE; anything else through its placement entry. -/
def State.sendBytes (s : State) (x : Snapshot) (p0 idx dva : Nat) (bs : List (Byte × Bool)) : Bool × State :=
  let links := s.activeOf x.linkMask
  if x.kind = 0 ∧ links.isEmpty then (false, s)
  else
    let l := nth 0 links (idx % links.length)
    (partsOf dva bs.length).foldl (fun acc p =>
      let s := acc.2
      let runs : Runs := [(p.2.1, (bs.drop p.2.2.2).take p.2.2.1)]
      let direct := fun (s : State) =>
        let (r, s) := s.writeBlock .house scrivMaster 3 p.1 false runs
        (acc.1 && r = 0, s)
      if x.kind = 0 then
        let (e, s) := s.entryOf 11 (p.1 / pageBytes)
        match s.judge e scrivMaster p.1 true false with
        | .go (.peer peer a) _ =>
          let t : Txn := { id := s.nextTxn, src := .house, owner := 1, master := scrivMaster, cls := 3, write := true,
                           target := .dva p.1, runs := runs, checked := true, spot := p0 }
          (acc.1, (s.addTxn t).send t (.peer peer a) l)
        | _ => direct s
      else direct s) ((true, s) : Bool × State)

/-- A page as the sender reads it (R387): a block delivered with a mark is 64 zero bytes, marked. -/
def blanked (bs : List (Byte × Bool)) : List (Byte × Bool) :=
  (chunks 64 bs.length bs).flatMap (fun b => if b.any (·.2) then markAll true (natLe b.length 0) else b)

/-- The snapshot after page `p` with entry `y` is taken from the page or its copy (R385, R387). -/
def Snapshot.taken (x : Snapshot) (p : Nat) (copy : Option Nat) (y : PageEntry) : Snapshot :=
  { x with next := x.next + 1, entries := x.entries ++ [y], copies := x.copies.filter (fun z : Nat × Nat => z.1 ≠ p),
           pool := match copy with | some f => x.pool ++ [f] | none => x.pool }
/-- The entry of a page whose bytes go out as `out` (Table 15.4). -/
def pageEntryOf (p : Nat) (out : List (Byte × Bool)) : PageEntry :=
  { page := p, poisoned := out.any (·.2), digest := digest (out.map (·.1)) }
/-- Page `p` goes out as `out`; its frozen bit is cleared once it is sent (R385), or the snapshot fails. -/
def State.sendOut (s : State) (x : Snapshot) (p : Nat) (copy : Option Nat) (out : List (Byte × Bool)) : State :=
  let x' := x.taken p copy (pageEntryOf p out)
  let y := { s with snapshot := some x' }.sendBytes x' p x.next (dataBase x.destBase x.count x.sign + x.next * pageBytes) out
  let g := s.scrivGuild p
  let z := if y.2.txns.any (fun t => t.src = .house && t.owner = 1 && t.spot = p) then
      y.2.setGuild g { y.2.guild g with scrivQueue := (y.2.guild g).scrivQueue ++ [p] } else y.2
  if !y.1 then y.2.failSnapshot x 4
  else if ptFrozen (z.tableEntry p) then z.preserve p else z
/-- Reads and sends the next page of the list (R385 to R387), once the queue of its Drayman has room (R292). -/
def State.sendPage (s : State) (x : Snapshot) (answers : List PeerAnswer) : State :=
  let p := x.page x.next
  let copy := (x.copies.find? (fun y : Nat × Nat => y.1 = p)).map (·.2)
  let r := s.recall 11 scrivMaster (copy.getD p * pageBytes) pageBytes false
  if (s.guild (s.scrivGuild p)).scrivQueue.length ≥ 16 then s
  else if r.1 then r.2
  else
    let y := s.readRange .house scrivMaster (copy.getD p * pageBytes) pageBytes answers
    y.2.2.sendOut x p copy (blanked y.1)

/-- The stack a page lies in, if in Shale. -/
def State.stackOf (s : State) (p : Nat) : Option Nat :=
  if ptTarget (s.tableEntry p) = 1 then some (bitsOf (ptFrame (s.tableEntry p)) 17 13) else none
/-- Page `p` copied into page `f` of the pool, and preserved (Table 15.3). -/
def State.copyInto (s : State) (x : Snapshot) (p f : Nat) (answers : List PeerAnswer) : State :=
  let y := s.readRange .house scrivMaster (p * pageBytes) pageBytes answers
  let z := (y.2.2.writeRange .house scrivMaster 3 (f * pageBytes) y.1).2
  { z with snapshot := some { x with pool := x.pool.filter (· ≠ f), copies := x.copies ++ [(p, f)] } }.preserve p
/-- Copies a page that a write waits for into a frame of the pool, in the page's own stack where one is free; with none
free the page counts once as COW_POOL_EMPTY (Table 15.3). -/
def State.copyPage (s : State) (x : Snapshot) (p : Nat) (answers : List PeerAnswer) : State :=
  match x.pool.find? (fun f => s.stackOf f = s.stackOf p) <|> x.pool.head? with
  | some f =>
    let r := s.recall 11 scrivMaster (p * pageBytes) pageBytes false
    let r' := r.2.recall 11 scrivMaster (f * pageBytes) pageBytes true
    if r.1 ∨ r'.1 then r'.2 else s.copyInto x p f answers
  | none =>
    if x.counted.contains p then s
    else { s with snapshot := some { x with counted := x.counted ++ [p] } }.countUnit houseUnit 1 1

/-! ## Manifests (R388, R389, R394, R454) -/

/-- The entries' bytes. -/
def entryBytes (es : List PageEntry) : List Byte :=
  es.flatMap (fun y => natLe 4 (y.page + (if y.poisoned then 2 ^ 25 else 0)) ++ natLe 4 0 ++ natLe 32 y.digest)
/-- The cores fenced, as the absent field. -/
def State.absentCores (s : State) : Nat := s.house.fencedCores.foldl (fun v c => v ||| 2 ^ c) 0
/-- The manifest of a snapshot (Table 15.4). -/
def State.manifest (s : State) (x : Snapshot) : List Byte :=
  let es := entryBytes x.entries
  let flags := (if x.sign then 1 else 0) + (if x.entries.any (·.poisoned) then 2 else 0)
  let release := if s.house.image = 0 then 0 else s.flash.le ((if s.house.image = 2 then 0x2100000 else 0x100000) + 8) 8
  let body := natLe 2 1 ++ natLe 2 s.ownPeer ++ natLe 2 flags ++ natLe 2 0 ++ natLe 8 x.step ++ natLe 8 release ++
    natLe 4 x.entries.length ++ natLe 4 0 ++ Sha256.hash es ++ natLe 128 s.absentCores ++ natLe 8 x.ctxBase ++ natLe 56 0 ++ es
  if x.sign then
    let sig := Config.slhSign s.fuses.secret (digest body)
    body ++ sig.take 17088 ++ List.replicate (17088 - sig.length) 0
  else body
/-- Writes the manifest and, once it is acknowledged, ends the snapshot (R388, R398). -/
def State.finishSnapshot (s : State) (x : Snapshot) : State :=
  let bad := (x.entries.filter (·.poisoned)).length
  let s := { s with snapshot := none, house := { s.house with lastSnapshot := x.step } }
  (s.raise 0x60 [wd x.step, wd x.kind, wd x.entries.length, wd bad]).endScrivener x.cmd [] 0 (x.entries.length * 256)
/-- Are writes of the snapshot still unacknowledged? -/
def State.unacked (s : State) : Bool := s.txns.any (fun t => t.src = .house && t.owner = 1)
/-- Sends the manifest page by page. -/
def State.sendManifest (s : State) (x : Snapshot) : State :=
  let bs := markAll false (s.manifest x)
  let (ok, s) := ((chunks pageBytes bs.length bs).zip (List.range bs.length)).foldl (fun acc y =>
    let (ok, s) := acc.2.sendBytes x (2 ^ 25 + y.2) y.2 (x.destBase + y.2 * pageBytes) y.1
    (acc.1 && ok, s)) ((true, { s with snapshot := some { x with manifest := true } }) : Bool × State)
  if !ok then s.failSnapshot x 4 else if s.unacked then s else s.finishSnapshot x

/-! ## Restore (R392 to R397) -/

/-- A restore's end by refusal (R394, R397): the reason and the first page concerned. -/
def State.refuseRestore (s : State) (cmd step reason page : Nat) : State :=
  ({ s with restore := none }.raise 0x63 [wd step, wd reason, wd page]).endScrivener cmd [] 8 (reason + page * 256)
/-- The key for a manifest of a peer (R454). -/
def State.restoreKeyFor (s : State) (peer : Nat) : Option Nat :=
  if peer = s.ownPeer then some (Config.attestationKey s.fuses.secret)
  else
    let w := fun (k m : Nat) => s.sec.restoreKey.get 0 (8 * k + m)
    ((List.range 64).find? (fun k => (w k 4).getLsbD 63 && wField (w k 4) 11 0 = peer)).map (fun k =>
      (List.range 4).foldl (fun v m => v + (w k m).toNat * 2 ^ (64 * m)) 0)
/-- A manifest read from a source: its header fields and entries, or the reason it fails (R394). -/
structure ReadManifest where
  absent : Nat
  entries : List PageEntry
  signed : Bool
  deriving DecidableEq, Repr
/-- What a manifest's bytes say: header, then entries and signature (Table 15.4), or the reason it is refused (R394). -/
def State.judgeManifest (s : State) (step : Nat) (needSig : Bool) (head rest : List (Byte × Bool)) : Nat ⊕ ReadManifest :=
  let h := fieldAt (head.map (·.1))
  let n := h 24 4
  let signed := bitOf (h 4 2) 0
  let bs := rest.map (·.1)
  let es := bs.take (40 * n)
  if (rest.take (40 * n)).any (·.2) ∨ digest es ≠ h 32 32 then .inl 6
  else
    let sigOk := signed && !(rest.drop (40 * n)).any (·.2) && (match s.restoreKeyFor (h 2 2 % 4096) with
      | some k => Config.slhVerify k (digest (head.map (·.1) ++ es)) (bs.drop (40 * n))
      | none => false)
    if needSig ∧ !sigOk then .inl 7
    else if h 8 8 ≠ step then .inl 8
    else
      let entries := (List.range n).map (fun i =>
        let v := fieldAt es (40 * i) 4
        { page := bitsOf v 24 0, poisoned := bitOf v 25, digest := fieldAt es (40 * i + 8) 32 : PageEntry })
      .inr { absent := h 64 128, entries := entries, signed := signed }
/-- Reads and checks a source's manifest: NO_MANIFEST, then SIGNATURE, then STEP. -/
def State.readManifest (s : State) (base step : Nat) (needSig : Bool) (answers : List PeerAnswer) : (Nat ⊕ ReadManifest) × State :=
  let x := (s.needRange 11 scrivMaster base 256 false).readRange .house scrivMaster base 256 answers
  let h := fieldAt (x.1.map (·.1))
  if x.1.any (·.2) ∨ h 0 2 ≠ 1 then (.inl 6, x.2.2)
  else
    let n := 40 * h 24 4 + (if bitOf (h 4 2) 0 then 17088 else 0)
    let y := (x.2.2.needRange 11 scrivMaster (base + 256) n false).readRange .house scrivMaster (base + 256) n answers
    (y.2.2.judgeManifest step needSig x.1 y.1, y.2.2)

/-- Where a snapshot page is loaded (R395). -/
def mapPage (m : List (Nat × Nat × Nat)) (p : Nat) : Nat :=
  match m.find? (fun t => decide (t.1 ≤ p) && decide (p < t.1 + t.2.2)) with
  | some t => t.2.1 + (p - t.1)
  | none => p
/-- Are all elements different? -/
def allDifferent : List Nat → Bool
  | [] => true
  | a :: t => !t.contains a && allDifferent t

/-- A page as read in the form its digest is taken over. -/
def pageRead (x : List (Byte × Bool) × List Nat × State) : List (Byte × Bool) × State := (blanked x.1, x.2.2)
/-- One page of a source, with its marks, in the form its digest is taken over. -/
def State.readSource (s : State) (r : Restore) (src : RestoreSource) (answers : List PeerAnswer) : List (Byte × Bool) × State :=
  let a := dataBase src.base r.entries.length src.signed + r.next * pageBytes
  pageRead ((s.needRange 11 scrivMaster a pageBytes false).readRange .house scrivMaster a pageBytes answers)
/-- The bytes of a page written where its entry's page is mapped; `second` counts those of the second source. -/
def State.putPage (s : State) (r : Restore) (home : Nat) (bs : List (Byte × Bool)) (second : Nat) : State :=
  { (s.writeRange .house scrivMaster 3 home bs).2 with restore := some { r with next := r.next + 1, second := r.second + second } }
/-- Do bytes read have the digest of their entry (R394)? -/
def PageEntry.fits (y : PageEntry) (bs : List (Byte × Bool)) : Bool := decide (Sys2Proof.digest (bs.map (fun b => b.1)) = y.digest)
/-- The block at a DVA holds undefined contents (R397): free values, bytes and mark (assumption 5); a peer's block is the
peer's own. -/
def State.undefineBlock (s : State) (dva : Nat) : State :=
  match s.placeOf 11 scrivMaster dva true with
  | some (.peer _ _) => s
  | some loc =>
    let b := s.takeBlock
    let m := b.2.takeFree
    m.2.writeAt [(0, markAll (m.1.getLsbD 0) (blockBytes b.1))] loc
  | none => s
/-- A restore that fails after it wrote pages (R397): what they hold is undefined. -/
def State.undefinePages (s : State) (r : Restore) : State :=
  (r.entries.take r.next).foldl (fun (s : State) y => (List.range 1024).foldl (fun (s : State) k =>
    s.undefineBlock (mapPage r.pageMap y.page * pageBytes + 64 * k)) s) s
/-- The refusal of a restore whose page `y` has no good copy (R394, R397): PAGE_DIGEST. -/
def State.refusePage (s : State) (r : Restore) (y : PageEntry) : State :=
  (s.undefinePages r).refuseRestore r.cmd r.step 0x0A y.page
/-- Loads the next page of a restore (R394): from the first source whose page has the entry's digest. -/
def State.loadPage (s : State) (r : Restore) (y : PageEntry) (answers : List PeerAnswer) : State :=
  let home := mapPage r.pageMap y.page * pageBytes
  let x := s.recall 11 scrivMaster home pageBytes true
  if x.1 then x.2
  else match r.sources with
    | a :: rest =>
      let p := s.readSource r a answers
      if y.fits p.1 then p.2.putPage r home p.1 0
      else (match rest with
        | b :: _ =>
          let q := p.2.readSource r b answers
          if y.fits q.1 then q.2.putPage r home q.1 1 else q.2.refusePage r y
        | [] => p.2.refusePage r y)
    | [] => s

end Sys2Proof.Machine
end

