-- ==== Sys2Proof/Machine/Streams.lean ====
section
/-! DEFINITION. The Carters and the Draymen (11_streams_and_prefetch.md), multicast and reduce-in-flight (R311 to R321). -/

namespace Sys2Proof.Machine

/-! ## Beginning a Carter micro-op -/

/-- Has a Carter issued the last request of every micro-op it has begun (R276)? -/
def State.issuedAll (s : State) (c : Nat) (g : Engine) : Bool :=
  match g with
  | .inbound => !s.txns.any (fun t => decide (t.src = .inbound c) && decide (t.phase = .waiting))
  | _ => !s.txns.any (fun t => decide (t.src = .outbound c) && decide (t.phase = .waiting)) && !s.bursts.any (fun b => decide (b.core = c))
/-- The head micro-op of a Carter begins, if its operation satisfies `p`, it may (R113), and the micro-op before it has issued
its last request (R276). -/
def State.beginHead (s : State) (c : Nat) (g : Engine) (gap : Nat) (p : MicroOp → Bool) : Option (MicroOp × State) :=
  if !s.coreRuns c then none
  else match (s.core c).queue g with
    | o :: _ =>
      if !o.marker && p o && (s.core c).mayBegin o && s.issuedAll c g then
        some (o, s.atCore c (fun e => ({ e with k := { e.k with cycle := (e.k.cycle + gap) % 2 ^ 64 } } : Eff).begin o 0))
      else none
    | [] => none
/-- How many accesses a begun micro-op waits for. -/
def CoreSt.setLeft (k : CoreSt) (g : Engine) (uid n : Nat) : CoreSt :=
  k.setActive g ((k.active g).map (fun r => if r.op.uid = uid then { r with left := n } else r))
/-- The same in the module. -/
def State.setLeft (s : State) (c : Nat) (g : Engine) (uid n : Nat) : State :=
  s.atCore c (fun e => { e with k := e.k.setLeft g uid n })
/-- A micro-op refused whole: no bumps, and its invocation faults. -/
def Eff.refuseOp (e : Eff) (g : Engine) (o : MicroOp) (hard : Bool) : Eff :=
  { e with k := e.k.noBump g o.uid }.faultInv o.inv hard

/-- The stream of an inbound Carter micro-op. -/
def MicroOp.inStream (o : MicroOp) : Stream := streamOf o.desc o.slots (cwField o.word 38 33) o.inst
/-- The stream of an outbound Carter micro-op. -/
def MicroOp.outStream (o : MicroOp) : Stream := streamOf o.desc o.slots (cwField o.word 14 9) o.inst

/-! ## Inbound STREAM (R277) -/

/-- Does an index lie in the range of an invocation queued or being split (R94)? -/
def CoreSt.patternBusy (k : CoreSt) (i : Nat) : Bool :=
  k.invQueue.any (fun r => decide (r.start ≤ i) && decide (i < r.start + r.len)) ||
  (match k.splitting with
   | some p => decide (p.req.start ≤ i) && decide (i < p.req.start + p.req.len)
   | none => false)
/-- The pattern indices a stream writes. -/
def Stream.patternIdx (d : Stream) : List Nat :=
  d.rows.flatMap (fun r => (List.range (d.count0 / 32)).map (fun j => r.1.toNat / 32 + j))
/-- The reads of an inbound STREAM, in walk order (R245, R273). -/
def Stream.readTxns (d : Stream) (c : Nat) (o : MicroOp) : List Txn :=
  d.rows.flatMap (fun r => (partsOf r.2.toNat d.count0).map (fun p =>
    { id := 0, src := .inbound c, owner := o.uid, master := masterId 1 c, cls := d.tclass, write := false,
      target := .dva p.1, first := p.2.1, len := p.2.2.1, spot := r.1.toNat + p.2.2.2, skew := d.skew,
      pmem := d.lkind = 1 }))
/-- An inbound STREAM begins: refused whole under PATTERN_BUSY (R94), or its reads join the pool. -/
def State.streamIn (s : State) (c : Nat) (o : MicroOp) : State :=
  let d := o.inStream
  let idx := d.patternIdx
  if d.total = 0 then s
  else if d.lkind = 1 ∧ idx.any (s.core c).patternBusy then
    let lo := idx.foldl min 4096
    let hi := idx.foldl max 0
    s.atCore c (fun e => (e.raise 0x03 [locus c o, wd (lo + (hi - lo + 1) * 65536), wd o.inv]).refuseOp .inbound o true)
  else
    let ts := d.readTxns c o
    (ts.foldl State.addTxn s).setLeft c .inbound o.uid ts.length

/-! ## Outbound STREAM (R279, R285) -/

/-- The local bytes of a row with their marks, read through the placement map. -/
def CoreSt.localRow (k : CoreSt) (d : Stream) (l n : Nat) : List (Byte × Bool) :=
  (skewParts d.skew l n).flatMap (fun p => k.ls.readMarked p.1 p.2.1)
/-- The remote runs of a stream: where its bytes go, rows that follow one another joined. -/
def CoreSt.remoteRuns (k : CoreSt) (d : Stream) : Runs :=
  joinRuns (d.rows.map (fun r => (r.2.toNat, k.localRow d r.1.toNat d.count0)))

/-- The slots 0 to n − 1 of an image row as flits (R310): a pair of packed slots c and c + 1 with c even in one, a full slot in
two. `form` gives a slot, `mark c i k` the mark of bytes i to i + k − 1 of slot c. -/
def wireSlots (off n : Nat) (form : Nat → LedgerOps.Form) (mark : Nat → Nat → Nat → Bool) : List (List Flit × Bool) :=
  let full := fun (c : Nat) => LedgerOps.isFull (form c)
  let slot := fun (c : Nat) (m : Bool) => Flit.slot (off + 64 + 80 * c) c (form c) m
  (List.range n).flatMap (fun c =>
    if full c then [([slot c (mark c 0 64)], false), ([slot c (mark c 64 16)], true)]
    else if c % 2 = 1 ∧ !full (c - 1) then []
    else if c % 2 = 0 ∧ c + 1 < n ∧ !full (c + 1) then
      let m := mark c 0 24 || mark (c + 1) 0 24
      [([slot c m, slot (c + 1) m], false)]
    else [([slot c (mark c 0 24)], false)])
/-- The flits of an image row (R285, R310): its header and slots 0 to n − 1, each with its mark. -/
def CoreSt.imageRow (k : CoreSt) (n l : Nat) (r : Nat) : List (List Flit × Bool) :=
  let mask := k.ls.data.le l 4
  let bad := k.ls.marked l 64
  ([Flit.header r n (mask % 2 ^ n) bad], false) ::
    wireSlots r n (fun c => LedgerOps.formOf (mask.testBit c) (k.ls.bytes (l + 64 + 80 * c) 80))
      (fun c i m => bad || k.ls.marked (l + 64 + 80 * c + i) m)

/-- A write access of an outbound STREAM. -/
def outTxn (c : Nat) (o : MicroOp) (d : Stream) (target : Target) (off : Nat) (bs : List (Byte × Bool)) : Txn :=
  { id := 0, src := .outbound c, owner := o.uid, master := masterId 2 c, cls := d.tclass, write := true, target := target,
    runs := [(off, bs)], spot := o.inv, source := d.source, malformed := d.badRemote }
/-- The accesses of a packet's flits: `target` gives where the flit of an offset goes. The slots of a row are written before its
header (R285). -/
def flitTxns (c : Nat) (o : MicroOp) (d : Stream) (packet : Nat) (fs : List (List Flit × Bool)) (target : Nat → Target) : List Txn :=
  let one := fun (x : (List Flit × Bool) × Nat) =>
    { outTxn c o d (target (flitBase x.1.2 x.1.1)) 0 [] with
        runs := flitRuns x.1.2 x.1.1, packet := packet, part := x.2,
        flits := (match x.1.1 with | .bytes .. :: _ => [] | fs => fs), second := x.1.2 }
  let head := fun (x : List Flit × Bool) => x.1.any (fun f => match f with | .header .. => true | _ => false)
  (fs.filter (fun x => !head x) ++ fs.filter head).zipIdx.map one

/-- The writes of a stream to a DVA or to a core; `packet` numbers the packets of image rows from there on. -/
def CoreSt.writeTxns (k : CoreSt) (c : Nat) (o : MicroOp) (d : Stream) (packet : Nat) : List Txn :=
  if d.image then
    d.rows.zipIdx.flatMap (fun x => flitTxns c o d (packet + x.2) (k.imageRow d.n x.1.1.toNat x.1.2.toNat) (fun a => .core d.rUnit a))
  else
    (k.remoteRuns d).flatMap (fun (r : Nat × List (Byte × Bool)) => (partsOf r.1 r.2.length).map (fun p =>
      outTxn c o d (if d.rkind = 0 then .dva p.1 else .core d.rUnit p.1) p.2.1 ((r.2.drop p.2.2.2).take p.2.2.1)))

/-- Groups of at most `n`, in order. -/
def groupsOf {α : Type} (n : Nat) (l : List α) : List (List α) :=
  (List.range ((l.length + n - 1) / n)).map (fun i => (l.drop (n * i)).take n)
/-- The bursts of a multicast stream (R315): an image row each, else up to 64 blocks in walk order. -/
def CoreSt.bursts (k : CoreSt) (c : Nat) (o : MicroOp) (d : Stream) : List Burst :=
  let mk := fun (off n : Nat) (fs : List (List Flit × Bool)) =>
    ({ id := 0, core := c, op := o, set := d.rUnit, cls := d.tclass, reduce := d.reduce, rowOff := off, slots := n,
       flits := fs } : Burst)
  if d.image then d.rows.map (fun r => mk r.2.toNat d.n (k.imageRow d.n r.1.toNat r.2.toNat))
  else
    let parts := (k.remoteRuns d).flatMap (fun (r : Nat × List (Byte × Bool)) => (partsOf r.1 r.2.length).map (fun p =>
      ([Flit.bytes (p.1 + p.2.1) ((r.2.drop p.2.2.2).take p.2.2.1)], false)))
    (groupsOf 64 parts).map (fun fs => mk 0 0 fs)

/-- May the stream name the set (R312)? -/
def State.setOk (s : State) (n : Nat) (reduce : Bool) : Bool :=
  (s.setCtrl n).getLsbD 63 && (!reduce || (s.setCtrl n).getLsbD 53)
/-- SET_INVALID (R312, R313). -/
def Eff.setInvalid (e : Eff) (o : MicroOp) (set : Nat) : Eff :=
  (e.raise 0x0F [locus e.id o, wd set]).refuseOp .outbound o false

/-- An outbound STREAM begins: its local bytes are read, its writes or bursts join the pool (R279, R282, R315). -/
def State.streamOut (s : State) (c : Nat) (o : MicroOp) : State :=
  let d := o.outStream
  if d.rkind = 2 ∧ !s.setOk d.rUnit d.reduce then s.atCore c (fun e => e.setInvalid o d.rUnit)
  else if d.total = 0 ∨ (d.rkind = 2 ∧ s.setTargets d.rUnit = []) then s
  else
    let k := s.core c
    let s := s.atCore c (fun e =>
      let e := d.rows.foldl (fun (e : Eff) r => (skewParts d.skew r.1.toNat d.count0).foldl (fun (e : Eff) (p : Nat × Nat × Nat) =>
        e.touchLs p.1 p.2.1) e) e
      { e with k := e.k.releaseReads o.uid }.count 0x05A d.total)
    let left := fun (n : Nat) => if d.source then 0 else n
    if d.rkind = 2 then
      let bs := k.bursts c o d
      (bs.foldl (fun (s : State) b => { s with bursts := s.bursts ++ [{ b with id := s.nextBurst }],
                                               nextBurst := s.nextBurst + 1 }) s).setLeft c .outbound o.uid (left bs.length)
    else
      let ts := k.writeTxns c o d (s.nextTxn + 1)
      (ts.foldl State.addTxn s).setLeft c .outbound o.uid (left ts.length)

/-! ## PREFETCH, FENCE and the Drayman (R280, R281, R292 to R296) -/

/-- The Drayman accepts a descriptor. -/
def State.drayAccept (s : State) (c : Nat) (o : MicroOp) (d : Stream) (fence : Bool) : State :=
  let g := guildOf c
  let x := s.guild g
  let q : DrayDesc := { id := s.nextDray, core := c, op := o, fence := fence, stream := d, token := d.tokEn && !fence }
  { s.setGuild g { x with drayQueue := x.drayQueue ++ [q] } with nextDray := s.nextDray + 1 }

/-- Where the blocks of a PREFETCH go (R438): its remote blocks when it copies from the core, else those of its destination. -/
def State.prefetchTargets (s : State) (c : Nat) (d : Stream) : List (Option Loc) :=
  let to_ := fun (kind b : Nat) => if kind = 0 then s.headed { id := 0, src := .drayman (guildOf c), owner := 0, master := masterId 4 c, cls := d.tclass, write := true, target := .dva b } else none
  if d.psrc then d.remoteBlocks.map (to_ d.rkind) else (partsOf d.denseDst.2 d.total).map (fun p => to_ d.pfKind p.1)
/-- Hands a PREFETCH to the Drayman (R280); one that moves nothing and owes no token is done at once (R274). -/
def State.prefetch (s : State) (c : Nat) (o : MicroOp) : State :=
  let d := o.outStream
  if d.total = 0 ∧ !d.tokEn then s
  else ((s.chargeBlocks c o.inv (s.prefetchTargets c d)).drayAccept c o d false).setLeft c .outbound o.uid (if d.psrc ∧ d.total ≠ 0 then 1 else 0)

/-- Do the sources of two descriptors overlap (R296)? -/
def sourcesOverlap (a b : Stream) : Bool :=
  let (alo, ahi) := a.remoteSpan
  let (blo, bhi) := b.remoteSpan
  a.total ≠ 0 && b.total ≠ 0 && a.rkind = b.rkind && (a.rkind = 0 || a.rUnit = b.rUnit) && decide (alo ≤ bhi) && decide (blo ≤ ahi)
/-- Does the local source of a PREFETCH from core `c` overlap the source of a FENCE that reads a core's local store (R296)? -/
def localOverlap (c : Nat) (a b : Stream) : Bool :=
  let (blo, bhi) := b.remoteSpan
  a.total ≠ 0 && b.total ≠ 0 && b.rkind = 1 && b.rUnit = c && a.hull.any (fun r => match r with
    | .ls lo hi => decide ((lo : Int) ≤ bhi) && decide (blo ≤ (hi : Int))
    | _ => false)
/-- Does the source of an earlier PREFETCH of core `c` overlap that of a FENCE (R296)? -/
def prefetchMeets (c : Nat) (a b : Stream) : Bool := if a.psrc then localOverlap c a b else sourcesOverlap a b
/-- Has every earlier PREFETCH of the core whose source overlaps the FENCE's performed its writes (R296)? -/
def State.fenceReady (s : State) (c : Nat) (o : MicroOp) : Bool :=
  let d := o.inStream
  !(s.guild (guildOf c)).drayQueue.any (fun (x : DrayDesc) =>
      x.core = c && !x.fence && decide (x.op.uid < o.uid) && !x.finished && prefetchMeets c x.stream d) &&
  !((s.core c).queue .outbound).any (fun x => decide (x.uid < o.uid) && coOp x.word = some .prefetch && !x.marker &&
      prefetchMeets c x.outStream d)
/-- Hands a FENCE to the Drayman (R281). -/
def State.fenceStart (s : State) (c : Nat) (o : MicroOp) : State :=
  if o.inStream.total = 0 then s else (s.drayAccept c o o.inStream true).setLeft c .inbound o.uid 1

/-- The reads of a dense copy (R293). -/
def DrayDesc.readTxns (x : DrayDesc) (g : Nat) : List Txn :=
  let d := x.stream
  (d.rows.zipIdx).flatMap (fun (r : (Int × Int) × Nat) => (partsOf r.1.2.toNat d.count0).map (fun p =>
    { id := 0, src := .drayman g, owner := x.id, master := masterId 4 x.core, cls := d.tclass, write := false, malformed := d.badRemote,
      target := if d.rkind = 0 then .dva p.1 else if d.rkind = 1 then .core d.rUnit p.1 else .set d.rUnit p.1,
      first := p.2.1, len := p.2.2.1, spot := r.2 * d.count0 + p.2.2.2 }))
/-- The writes of a copy from the core's local side (R293). -/
def DrayDesc.localTxns (x : DrayDesc) (k : CoreSt) (g : Nat) : List Txn :=
  let d := x.stream
  (k.remoteRuns d).flatMap (fun (r : Nat × List (Byte × Bool)) => (partsOf r.1 r.2.length).map (fun p =>
    x.writeTxn (masterId 4 x.core) g d.rkind d.rUnit d.badRemote p.1 p.2.1 ((r.2.drop p.2.2.2).take p.2.2.1)))

/-- May a descriptor read its core's local blocks: has every earlier one written those it writes (R294)? -/
def State.localReady (s : State) (g : Nat) (x : DrayDesc) : Bool :=
  !(s.guild g).drayQueue.any (fun (y : DrayDesc) => decide (y.id < x.id) && !y.finished && blocksMeet x.localBlocks (s.drayWrites y))
/-- A free channel takes the oldest accepted descriptor not yet on one (R292). The Scrivener's transfers share the four
channels. -/
def State.drayStart (s : State) (g : Nat) : State :=
  let q := (s.guild g).drayQueue
  if (q.filter (fun (d : DrayDesc) => d.onChannel && s.drayBusy g d)).length + min 4 (s.guild g).scrivQueue.length ≥ 4 then s
  else match q.find? (fun (d : DrayDesc) => !d.onChannel) with
    | some x =>
      if x.fromCore then
        if !s.localReady g x then s
        else
          let ts := x.localTxns (s.core x.core) g
          let s := s.atCore x.core (fun e =>
            let e := x.stream.rows.foldl (fun (e : Eff) r => (skewParts x.stream.skew r.1.toNat x.stream.count0).foldl
              (fun (e : Eff) (p : Nat × Nat × Nat) => e.touchLs p.1 p.2.1) e) e
            { e with k := (e.k.accessDone .outbound x.op.uid).releaseReads x.op.uid })
          (((ts.foldl State.addTxn s).onDray g x.id (fun d => { d with onChannel := true, writesLeft := ts.length })).settleDray g)
      else
        let ts := x.readTxns g
        (((ts.foldl State.addTxn s).onDray g x.id (fun d => { d with onChannel := true, readsLeft := ts.length })).settleDray g)
    | none => s

/-- The completion token of the oldest descriptor that owes one (R295): a write that takes its tag as any other does. -/
def State.drayToken (s : State) (g : Nat) : State :=
  match (s.guild g).drayQueue.find? (fun (d : DrayDesc) => d.finished && d.token && !d.tokenSent) with
  | some x =>
    let bs := natLe 8 x.copied.length ++ natLe 8 x.poisoned.length ++ List.replicate 48 0
    let t : Txn := { id := 0, src := .drayman g, owner := x.id, master := masterId 4 x.core, cls := x.stream.tclass, write := true,
                     target := .core x.core (64 * x.stream.tokLine), runs := [(0, markAll false bs)] }
    (s.addTxn t).onDray g x.id (fun d => { d with tokenSent := true, writesLeft := 1 })
  | none => s

/-! ## Multicast and reduce (R311 to R321) -/

/-- A burst replaced. -/
def State.putBurst (s : State) (b : Burst) : State := { s with bursts := s.bursts.map (fun x => if x.id = b.id then b else x) }
/-- A burst gone. -/
def State.dropBurst (s : State) (b : Nat) : State := { s with bursts := s.bursts.filter (fun x => x.id ≠ b) }
/-- Landing-buffer space of a guild in use (R316), in flits: of granted bursts not yet sent, of flits that wait for a tag or are on
their way to it, and of flits not yet written by every target. -/
def State.landingUse (s : State) (g : Nat) : Nat :=
  let granted := s.bursts.filter (fun b => !b.reduce && (b.granted.contains g || b.coming = some g))
  let flying := s.txns.filter (fun t => !t.reduce && (match t.phase with
    | .waiting => (targetGuilds t.copies).contains g
    | .sent (.landing h _) => decide (h = g)
    | _ => false))
  let landed := s.txns.filter (fun t => decide (t.landing ≠ 0) && (match t.phase with
    | .sent (.ls c _) => decide (guildOf c = g)
    | _ => false))
  granted.foldl (fun n b => n + b.flits.length) 0 + flying.length + (landed.map (·.landing)).eraseDups.length

/-- A burst that ends without being sent: its micro-op waits for it no longer. -/
def State.endBurst (s : State) (b : Burst) : State :=
  (s.dropBurst b.id).atCore b.core (fun e =>
    if b.op.outStream.source then e else { e with k := e.k.accessDone .outbound b.op.uid })

/-- A row buffer opened or joined by a contributor (R318), or nothing while the request waits. -/
def State.joinRow (s : State) (b : Burst) (g : Nat) : Option State :=
  let x := s.guild g
  let refused := (b.targets.filter (fun c => guildOf c = g)).find? (fun c => !s.allowed 44 (s.lsClass c) (masterId 2 b.core) true)
  let who : Contributor := { core := b.core, declared := b.slots, refused := refused.isSome }
  let noted := match refused with
    | some c => s.refusedEvent (masterId 2 b.core) 3 (lsDpa c b.rowOff)
    | none => s
  let fresh : RowBuffer := { set := b.set, off := b.rowOff, entry := b.entry,
                             targets := b.targets.filter (fun c => guildOf c = g), who := [who] }
  if !x.mayJoin b then none
  else if x.rows.any (fun (r : RowBuffer) => r.set = b.set && r.off = b.rowOff) then
    some (noted.setGuild g { x with rows := x.rows.map (fun (y : RowBuffer) =>
      if y.set = b.set ∧ y.off = b.rowOff then { y with who := y.who ++ [who] } else y) })
  else some (noted.setGuild g { x with rows := x.rows ++ [fresh] })

/-- A reservation begins: the set is checked and its entry fixed (R311, R313). -/
def State.beginBurst (s : State) (b : Burst) : State :=
  if !s.setOk b.set b.reduce then
    (s.dropBurst b.id).atCore b.core (fun e =>
      let e := e.setInvalid b.op b.set
      if b.op.outStream.source then e else { e with k := e.k.accessDone .outbound b.op.uid })
  else
    let cs := s.setTargets b.set
    match targetGuilds cs with
    | [] => s.endBurst b
    | g :: _ => { s with nextIssue := s.nextIssue + 1 }.putBurst
        { b with begun := true, entry := s.setCtrl b.set, targets := cs, asking := some g, asked := s.nextIssue }

/-- Has the sender an earlier unicast write to a target of the burst, in its class, that is not issued yet (R174, R316)? -/
def State.behindWrites (s : State) (b : Burst) : Bool :=
  s.txns.any (fun t => t.src = .outbound b.core && t.cls = b.cls && t.phase = .waiting && decide (t.owner < b.op.uid) &&
    (match t.target with | .core x _ => s.burstTargets b x | _ => false))
/-- Has an older burst waiting for the landing buffer of guild `g` room there too, so that it goes first (R307, R316)? -/
def State.olderWaits (s : State) (b : Burst) (g : Nat) : Bool :=
  s.bursts.any (fun x => x.asking = some g && !x.reduce && decide (x.asked < b.asked) && decide (s.landingUse g + x.flits.length ≤ 512))
/-- A grant of guild `g`: the access table of each target core there is checked (R445). -/
def State.granted (s : State) (b : Burst) (g : Nat) : State :=
  let no := b.targets.filter (fun c => decide (guildOf c = g) && !s.allowed 44 (s.lsClass c) (masterId 2 b.core) true)
  let first := match b.flits with | (fs, q) :: _ => flitBase q fs | [] => 0
  let s := no.foldl (fun (s : State) c => s.refusedEvent (masterId 2 b.core) 3 (lsDpa c first)) s
  (s.countCore b.core 0x058 (no.length * b.flits.length)).putBurst { b with asking := none, coming := some g, refused := b.refused ++ no }
/-- The guild a begun burst asks grants it, if it can (R316, R318): the oldest request whose flits have room first. -/
def State.askGrant (s : State) (b : Burst) : State :=
  match b.asking with
  | none => s
  | some g =>
    if b.reduce then match s.joinRow b g with
      | some s' => s'.putBurst { b with asking := none, coming := some g }
      | none => s
    else if s.landingUse g + b.flits.length ≤ 512 ∧ !s.olderWaits b g then s.granted b g
    else s
/-- The burst of a number. -/
def State.burst (s : State) (n : Nat) : Option Burst := s.bursts.find? (fun b => b.id = n)
/-- MCAST_RESERVE: the oldest burst of its core begins if it has not, and the guild it asks grants it, if it can (R315,
R316, R318). -/
def State.mcastReserve (s : State) (n : Nat) : State :=
  match s.burst n with
  | none => s
  | some b0 =>
    if s.bursts.any (fun x => x.core = b0.core && decide (x.id < b0.id)) || s.behindWrites b0 then s
    else
      let s := if b0.begun then s else s.beginBurst b0
      match s.burst n with
      | none => s
      | some b => s.askGrant b

/-- The burst leaves: its flits wait for their tags, to go to the targets' local stores that allow them (R445), or to the ledger
adders of the guilds. -/
def State.sendBurst (s : State) (b : Burst) : State :=
  let more := fun (s : State) (n : Nat) => s.atCore b.core (fun e =>
    if b.op.outStream.source then e
    else { e with k := e.k.setActive .outbound ((e.k.active .outbound).map (fun r =>
      if r.op.uid = b.op.uid then { r with left := r.left - 1 + n } else r)) })
  let ok := b.targets.filter (fun c => !b.refused.contains c)
  let go := if b.reduce then b.granted else ok
  let ts := (flitTxns b.core b.op b.op.outStream (s.nextTxn + 1) b.flits (fun a => .set b.set (if b.reduce then b.rowOff else a))).map
    (fun t => { t with checked := true, reduce := b.reduce, copies := go })
  let ends := if b.reduce then b.slots * b.granted.length else ts.length * ok.length
  more ((if go = [] then s else ts.foldl State.addTxn s).dropBurst b.id) ends

/-- MCAST_GRANT: a grant reaches the sender, which asks the next guild or sends (R315). -/
def State.mcastGrant (s : State) (n : Nat) : State :=
  match s.burst n with
  | some b => match b.coming with
    | some g =>
      let b := { b with coming := none, granted := b.granted ++ [g] }
      match (targetGuilds b.targets).filter (fun h => decide (g < h)) with
      | h :: _ => { s with nextIssue := s.nextIssue + 1 }.putBurst { b with asking := some h, asked := s.nextIssue }
      | [] => (s.putBurst b).sendBurst b
    | none => s
  | none => s

/-- The row buffer of a key in a guild. -/
def GuildSt.row (x : GuildSt) (set off : Nat) : Option RowBuffer := x.rows.find? (fun (r : RowBuffer) => r.set = set && r.off = off)

/-- The oldest flit at the ledger adders of a guild is taken (R319, R321). The first flit of a full slot waits for its second. -/
def State.addSlot (s : State) (g : Nat) : State :=
  let x := s.guild g
  match x.adds with
  | [] => s
  | a :: rest => match x.row a.set a.off with
    | none => s.setGuild g { x with adds := rest }
    | some r =>
      let c0 : Contributor := (r.who.find? (fun (w : Contributor) => w.core = a.core)).getD { core := a.core, declared := 0 }
      let upd := fun (f : Contributor → Contributor) (l : Tab Ledger) =>
        { x with adds := rest, rows := x.rows.map (fun (y : RowBuffer) => if y.set = r.set ∧ y.off = r.off then
          { y with leds := l, who := y.who.map (fun (w : Contributor) => if w.core = a.core then f w else w) } else y) }
      match a.flit with
      | .header _ _ _ mark => s.setGuild g (upd (fun w => { w with header := true, bad := mark || a.mark }) r.leds)
      | .slot _ c form mark =>
        let first : Bool := LedgerOps.isFull form && !a.second
        let form' : LedgerOps.Form := match form with
          | .packed w => .packed w
          | .full w => .full (w.extractLsb' 512 128 ++ c0.low.1)
        if first then
          let low : BitVec 512 := match form with | .full w => w.setWidth 512 | .packed _ => 0
          s.setGuild g (upd (fun w => { w with low := (low, mark || a.mark) }) r.leds)
        else
          let wrong : Bool := match form with | .packed w => !LedgerOps.packedOk w | .full _ => false
          let poison := mark || a.mark || c0.bad || c0.refused || (LedgerOps.isFull form && c0.low.2)
          let seg := match form with | .packed w => w.toNat % 65536 | .full _ => 0
          let l := if poison then LedgerOps.ofTag .poison else LedgerOps.ofForm form'
          let leds := r.leds.set c (LedgerOps.combine (r.leds.get LedgerOps.zero c) l)
          let s := s.setGuild g (upd (fun w => { w with delivered := w.delivered + 1 }) leds)
          let s := if wrong ∧ !poison then s.raise 0x07 [wd (masterId 5 g), wd seg] else s
          let s := s.countUnit g 1 1
          s.atCore a.core (fun e => if a.source then e else { e with k := e.k.accessDone .outbound a.op })
      | .bytes .. => s.setGuild g { x with adds := rest }

/-- Has every contributor delivered its header and slots (R320)? -/
def RowBuffer.complete (r : RowBuffer) : Bool :=
  decide (r.who.length = wField r.entry 52 43 + 1) && r.who.all (fun (w : Contributor) => w.header && w.delivered = w.declared)

/-- A complete row buffer emits its sums and header to every target of the guild and frees itself (R320). -/
def State.emitRow (s : State) (g set off : Nat) : State :=
  let x := s.guild g
  match x.row set off with
  | some r =>
    if !r.complete then s
    else
      let n := r.who.foldl (fun (m : Nat) (w : Contributor) => min m w.declared) 32
      let differ := r.who.any (fun (w : Contributor) => w.declared ≠ n)
      let form := fun (c : Nat) =>
        if differ then LedgerOps.poisonForm else LedgerOps.toForm (r.leds.get LedgerOps.zero c)
      let mask := (List.range n).foldl (fun m c => m + (if LedgerOps.isFull (form c) then 2 ^ c else 0)) 0
      let fs : List (List Flit × Bool) := wireSlots off n form (fun _ _ _ => false) ++ [([Flit.header off n mask false], false)]
      let ts := r.targets.zipIdx.flatMap (fun (c : Nat × Nat) => fs.zipIdx.map (fun (w : (List Flit × Bool) × Nat) =>
        ({ id := 0, src := .adder g, owner := 0, master := masterId 5 g, cls := 2, write := true, checked := true,
           target := .core c.1 (flitBase w.1.2 w.1.1), runs := flitRuns w.1.2 w.1.1, flits := w.1.1, second := w.1.2,
           packet := s.nextTxn + 1 + c.2, part := w.2, issue := s.nextIssue + w.2 } : Txn)))
      let s := s.setGuild g { x with rows := x.rows.filter (fun (y : RowBuffer) => !(y.set = set && y.off = off)) }
      let s : State := ts.foldl (fun (s : State) t => let x : Txn := { t with id := s.nextTxn }; (s.addTxn x).translate x)
        { s with nextIssue := s.nextIssue + fs.length }
      if differ then s.raise 0x30 [wd (set + g * 256), wd off] else s
  | none => s

end Sys2Proof.Machine
end

