-- ==== Sys2Proof/Machine/FabricRows.lean ====
section
/-! DEFINITION. Meanings of the fabric, memory-tier, Carter and Drayman commands (chapters 10 to 12). -/

namespace Sys2Proof.Machine

/-- TAG_ISSUE (R289 to R291). -/
def execTagIssue (engine : Fin 3) (n : CoreId) (s : State) : Out :=
  .next (if engine = 2 then (if n.val < 32 then s.issueTag (.drayman n.val) else s)
         else if s.coreRuns n then s.issueTag (if engine = 0 then .inbound n.val else .outbound n.val) else s)
/-- PLACEMENT_WALK (R252). -/
def execPlacementWalk (half : Fin 2) (s : State) : Out := .next (s.serveWalk half)
/-- BLOCK_HOP_RECEIVE (R256, R257). -/
def execBlockHopReceive (x : Nat) (u port : Fin 256) (leaving : Bool) (flips behind : Nat) (s : State) : Out :=
  .next (s.hopReceive x ⟨u, port, leaving⟩ flips behind)
/-- SHALE_ACCESS (R254, R261). -/
def execShaleAccess (x : Nat) (s : State) : Out :=
  .next (match s.txn x with
    | some t => (match t.phase with
      | .sent (.shale g a) => s.perform t (.shale g a) 0
      | _ => s)
    | none => s)
/-- BEDROCK_READ (R254, R266): `corrected` link-ECC corrections are counted. -/
def execBedrockRead (x corrected : Nat) (s : State) : Out :=
  .next (match s.txn x with
    | some t => (match t.phase with
      | .sent (.bedrock k a) =>
        if t.write then s else s.perform t (.bedrock k a) corrected
      | _ => s)
    | none => s)
/-- BEDROCK_WRITE (R254, R266). -/
def execBedrockWrite (x corrected : Nat) (s : State) : Out :=
  .next (match s.txn x with
    | some t => (match t.phase with
      | .sent (.bedrock k a) =>
        if t.write then s.perform t (.bedrock k a) corrected else s
      | _ => s)
    | none => s)
/-- BEDROCK_REFRESH (R267, R492): the refresh is performed and the highest MR4 code reported is kept. -/
def execBedrockRefresh (k : CtlId) (rate : Fin 32) (s : State) : Out :=
  .next (if s.house.fencedCtls.contains k.val then s
    else { s with house := { s.house with refreshRate := s.house.refreshRate.set k rate } })
/-- FABRIC_READ_DATA (R250, R269, R277, R293): read data arrives at its requester. A read of a core's local store takes two such
steps: the first takes the data there, the second, once it has come back, delivers it (log 47). -/
def execFabricReadData (x : Nat) (s : State) : Out :=
  .next (match s.txn x with
    | some t =>
      if t.write then s
      else (match t.phase with
        | .done _ => if t.path = [] then s.deliverRead t else s
        | .sent (.ls c o) => if s.coreRuns c then s.readCore t c o else s
        | _ => s)
    | none => s)
/-- WRITE_ACK (R283, R391). -/
def execWriteAck (x : Nat) (s : State) : Out :=
  .next (match s.txn x with
    | some t => if t.write then (match t.phase with
        | .done code => if t.path ≠ [] then s else if t.src = .house then s.houseAck t code else s.deliverAck t code
        | _ => s) else s
    | none => s)
/-- MCAST_RESERVE (R316, R318). -/
def execMcastReserve (b : Nat) (s : State) : Out := .next (s.mcastReserve b)
/-- MCAST_GRANT (R315). -/
def execMcastGrant (b : Nat) (s : State) : Out := .next (s.mcastGrant b)
/-- REDUCE_SLOT_ADD (R319). -/
def execReduceSlotAdd (g : GuildId) (s : State) : Out := .next (s.addSlot g)
/-- ROW_BUFFER_COMPLETE (R320). -/
def execRowBufferComplete (g : GuildId) (set : Fin 256) (off : Nat) (s : State) : Out := .next (s.emitRow g set off)
/-- ARRIVAL (R166 to R171, R283, R444). -/
def execArrival (x : Nat) (s : State) : Out :=
  .next (match s.txn x with
    | some t => if t.write then (match t.phase with
        | .sent (.ls c o) => s.arrive t c o
        | _ => s) else s
    | none => s)
/-- WINDOW_IDLE (R172). -/
def execWindowIdle (c : CoreId) (i : Fin 32) (gap : Nat) (s : State) : Out :=
  .next (s.onCore c (fun e => e.windowIdle i gap))
/-- DRAYMAN_DESCRIPTOR_START (R292, R293). -/
def execDraymanDescriptorStart (g : GuildId) (s : State) : Out := .next (s.drayStart g)
/-- DRAYMAN_TOKEN (R295). -/
def execDraymanToken (g : GuildId) (s : State) : Out := .next (s.drayToken g)

/-- STREAM_IN (R277): the head of the inbound Carter's queue begins. -/
def execStreamIn (c : CoreId) (gap : Nat) (s : State) : Out :=
  .next (match s.beginHead c .inbound gap (fun o => ciOp o.word = some .streamIn) with
    | some (o, s) => s.streamIn c o
    | none => s)
/-- POST_WINDOW (R165, R278). -/
def execPostWindow (c : CoreId) (gap : Nat) (s : State) : Out := .next (s.onCore c (fun e => e.postWindow gap))
/-- FENCE (R281, R296). -/
def execFence (c : CoreId) (gap : Nat) (s : State) : Out :=
  .next (match s.beginHead c .inbound gap (fun o => ciOp o.word = some .fence && s.fenceReady c o && s.drayRoom (guildOf c)) with
    | some (o, s) => s.fenceStart c o
    | none => s)
/-- STREAM_OUT (R279). -/
def execStreamOut (c : CoreId) (gap : Nat) (s : State) : Out :=
  .next (match s.beginHead c .outbound gap (fun o => coOp o.word = some .streamOut) with
    | some (o, s) => s.streamOut c o
    | none => s)
/-- PREFETCH (R280). -/
def execPrefetch (c : CoreId) (gap : Nat) (s : State) : Out :=
  .next (match s.beginHead c .outbound gap (fun o => coOp o.word = some .prefetch &&
      (o.outStream.total = 0 && !o.outStream.tokEn || s.drayRoom (guildOf c))) with
    | some (o, s) => s.prefetch c o
    | none => s)

end Sys2Proof.Machine
end

