-- ==== Sys2Proof/Machine/EngineRows.lean ====
section
/-! DEFINITION. Meanings of the Loom and engine commands of a core (chapters 2 to 4 and 6 to 9). -/

namespace Sys2Proof.Machine

/-- Engine of a code (Table 3.9). -/
def engineOf (e : Fin 5) : Engine := match e with | 0 => .array | 1 => .vector | 2 => .drain | 3 => .inbound | 4 => .outbound
/-- After a micro-op has read its operands, its read regions are released (R124). -/
def Eff.released (e : Eff) (o : MicroOp) : Eff := { e with k := e.k.releaseReads o.uid }
/-- The head of the vector unit's queue begins, if its operation code is `code`. -/
def Eff.vecRow (e : Eff) (gap code : Nat) (f : Eff → MicroOp → VecOp → Eff) : Eff :=
  e.atHead .vector gap (fun o => opField o.word .vector = code) (fun e o => (f e o o.vec).released o)
/-- The head of the drain unit's queue begins, if its operation code is `code`. -/
def Eff.drainRow (e : Eff) (gap code : Nat) (f : Eff → MicroOp → DrainOp → Eff) : Eff :=
  e.atHead .drain gap (fun o => opField o.word .drain = code) (fun e o => (f e o (drainOp o.word o.slots o.inst)).released o)

/-- INVOCATION_BOUNDARY (R97, R98). -/
def execInvocationBoundary (c : CoreId) (s : State) : Out := .next (s.onCore c Eff.boundary)
/-- LOOM_SPLIT_WORD (R80, R85, R95, R102). -/
def execLoomSplitWord (c : CoreId) (s : State) : Out := .next (s.onCore c Eff.splitWord)
/-- LOOM_ISSUE_INSTANCE (R108, R120). -/
def execLoomIssueInstance (c : CoreId) (gap : Nat) (s : State) : Out := .next (s.onCore c (fun e => e.issueInstance gap))
/-- MARKER (R109, R110). -/
def execMarker (c : CoreId) (e : Fin 5) (gap : Nat) (s : State) : Out := .next (s.onCore c (fun x => x.marker (engineOf e) gap))
/-- MICROOP_COMPLETE (R110, R282). -/
def execMicroopComplete (c : CoreId) (e : Fin 5) (gap : Nat) (s : State) : Out :=
  .next (s.onCore c (fun x => x.completeOp (engineOf e) gap))
/-- STALEMATE_FREEZE (R178, R179). -/
def execStalemateFreeze (c : CoreId) (gap : Nat) (s : State) : Out := .next (s.onCore c (fun e => e.freeze gap))
/-- QUEUE_MODE_SWITCH (R121). -/
def execQueueModeSwitch (c : CoreId) (s : State) : Out := .next (s.onCore c Eff.switchMode)
/-- MATMUL (R41 to R64). -/
def execMatmul (c : CoreId) (gap : Nat) (s : State) : Out :=
  .next (s.onCore c (fun e => e.atHead .array gap (fun o => opField o.word .array = 1)
    (fun e o => (e.matmul o.uid gap (arrayOp o.word o.slots o.inst)).released o)))
/-- ROUND (R192): The drain rounds ledger rows, optionally with a fused operation, to an output format. -/
def execRound (c : CoreId) (gap : Nat) (s : State) : Out :=
  .next (s.onCore c (fun e => e.drainRow gap 1 (fun e op o => e.round op o)))
/-- EXPORT (R89): The drain writes ledger entries exactly as a ledger image. -/
def execExportImage (c : CoreId) (gap : Nat) (s : State) : Out :=
  .next (s.onCore c (fun e => e.drainRow gap 2 (fun e _ o => e.exportImage o)))
/-- MERGE (R90): The drain adds a ledger image exactly into ledger entries. -/
def execMerge (c : CoreId) (gap : Nat) (s : State) : Out :=
  .next (s.onCore c (fun e => e.drainRow gap 3 (fun e _ o => e.mergeImage o)))
/-- TILECFG (R82): The vector unit writes a tile descriptor. -/
def execTilecfg (c : CoreId) (gap : Nat) (s : State) : Out :=
  .next (s.onCore c (fun e => e.vecRow gap 0x01 (fun e _ v => e.tilecfg v)))
/-- MOVE_IN (R189): Local-store bytes are copied into a TRF tile. -/
def execMoveIn (c : CoreId) (gap : Nat) (s : State) : Out :=
  .next (s.onCore c (fun e => e.vecRow gap 0x02 (fun e _ v => e.moveIn v)))
/-- MOVE_OUT (R189): TRF bytes are copied into the local store. -/
def execMoveOut (c : CoreId) (gap : Nat) (s : State) : Out :=
  .next (s.onCore c (fun e => e.vecRow gap 0x03 (fun e _ v => e.moveOut v)))
/-- CONVERT (R35): TRF elements are converted to another format. -/
def execConvert (c : CoreId) (gap : Nat) (s : State) : Out :=
  .next (s.onCore c (fun e => e.vecRow gap 0x04 (fun e op v => e.convert op v)))
/-- TRANSPOSE (R187): Rows of a tile become columns. -/
def execTranspose (c : CoreId) (gap : Nat) (s : State) : Out :=
  .next (s.onCore c (fun e => e.vecRow gap 0x05 (fun e _ v => e.transpose v)))
/-- VEC_ADD (R183): Element-wise addition. -/
def execVecAdd (c : CoreId) (gap : Nat) (s : State) : Out :=
  .next (s.onCore c (fun e => e.vecRow gap 0x08 (fun e op v => e.arith op v (.bin Numbers.fadd))))
/-- VEC_SUB (R183): Element-wise subtraction. -/
def execVecSub (c : CoreId) (gap : Nat) (s : State) : Out :=
  .next (s.onCore c (fun e => e.vecRow gap 0x09 (fun e op v => e.arith op v (.bin Numbers.fsub))))
/-- VEC_MUL (R183): Element-wise multiplication. -/
def execVecMul (c : CoreId) (gap : Nat) (s : State) : Out :=
  .next (s.onCore c (fun e => e.vecRow gap 0x0A (fun e op v => e.arith op v (.bin Numbers.fmul))))
/-- VEC_FMA (R183): Element-wise fused multiply-add. -/
def execVecFma (c : CoreId) (gap : Nat) (s : State) : Out :=
  .next (s.onCore c (fun e => e.vecRow gap 0x0B (fun e op v => e.arith op v (.tern Numbers.ffma))))
/-- VEC_MIN (R183): Element-wise minimum. -/
def execVecMin (c : CoreId) (gap : Nat) (s : State) : Out :=
  .next (s.onCore c (fun e => e.vecRow gap 0x0C (fun e op v => e.arith op v (.bin Numbers.fmin))))
/-- VEC_MAX (R183): Element-wise maximum. -/
def execVecMax (c : CoreId) (gap : Nat) (s : State) : Out :=
  .next (s.onCore c (fun e => e.vecRow gap 0x0D (fun e op v => e.arith op v (.bin Numbers.fmax))))
/-- VEC_ABS (R183): Element-wise absolute value. -/
def execVecAbs (c : CoreId) (gap : Nat) (s : State) : Out :=
  .next (s.onCore c (fun e => e.vecRow gap 0x0E (fun e op v => e.arith op v (.un Numbers.fabs))))
/-- VEC_NEG (R183): Element-wise negation. -/
def execVecNeg (c : CoreId) (gap : Nat) (s : State) : Out :=
  .next (s.onCore c (fun e => e.vecRow gap 0x0F (fun e op v => e.arith op v (.un Numbers.fneg))))
/-- VEC_EXP (R186): Element-wise e^x. -/
def execVecExp (c : CoreId) (gap : Nat) (s : State) : Out :=
  .next (s.onCore c (fun e => e.vecRow gap 0x10 (fun e op v => e.arith op v (.un (Numbers.Fn.apply .exp)))))
/-- VEC_EXP2 (R186): Element-wise 2^x. -/
def execVecExp2 (c : CoreId) (gap : Nat) (s : State) : Out :=
  .next (s.onCore c (fun e => e.vecRow gap 0x11 (fun e op v => e.arith op v (.un (Numbers.Fn.apply .exp2)))))
/-- VEC_LOG2 (R186): Element-wise log2. -/
def execVecLog2 (c : CoreId) (gap : Nat) (s : State) : Out :=
  .next (s.onCore c (fun e => e.vecRow gap 0x12 (fun e op v => e.arith op v (.un (Numbers.Fn.apply .log2)))))
/-- VEC_RECIP (R186): Element-wise reciprocal. -/
def execVecRecip (c : CoreId) (gap : Nat) (s : State) : Out :=
  .next (s.onCore c (fun e => e.vecRow gap 0x13 (fun e op v => e.arith op v (.un (Numbers.Fn.apply .recip)))))
/-- VEC_RSQRT (R186): Element-wise reciprocal square root. -/
def execVecRsqrt (c : CoreId) (gap : Nat) (s : State) : Out :=
  .next (s.onCore c (fun e => e.vecRow gap 0x14 (fun e op v => e.arith op v (.un (Numbers.Fn.apply .rsqrt)))))
/-- VEC_TANH (R186): Element-wise tanh. -/
def execVecTanh (c : CoreId) (gap : Nat) (s : State) : Out :=
  .next (s.onCore c (fun e => e.vecRow gap 0x15 (fun e op v => e.arith op v (.un (Numbers.Fn.apply .tanh)))))
/-- VEC_SIGMOID (R186): Element-wise sigmoid. -/
def execVecSigmoid (c : CoreId) (gap : Nat) (s : State) : Out :=
  .next (s.onCore c (fun e => e.vecRow gap 0x16 (fun e op v => e.arith op v (.un (Numbers.Fn.apply .sigmoid)))))
/-- VEC_SIN (R186): Element-wise sine. -/
def execVecSin (c : CoreId) (gap : Nat) (s : State) : Out :=
  .next (s.onCore c (fun e => e.vecRow gap 0x17 (fun e op v => e.arith op v (.un (Numbers.Fn.apply .sin)))))
/-- VEC_COS (R186): Element-wise cosine. -/
def execVecCos (c : CoreId) (gap : Nat) (s : State) : Out :=
  .next (s.onCore c (fun e => e.vecRow gap 0x18 (fun e op v => e.arith op v (.un (Numbers.Fn.apply .cos)))))
/-- RCLEAR (R197): Clears row-reducer entries. -/
def execRclear (c : CoreId) (gap : Nat) (s : State) : Out :=
  .next (s.onCore c (fun e => e.vecRow gap 0x20 (fun e _ v => e.rclear v)))
/-- RSUM (R199): Adds row elements exactly into reducer ledgers. -/
def execRsum (c : CoreId) (gap : Nat) (s : State) : Out :=
  .next (s.onCore c (fun e => e.vecRow gap 0x21 (fun e _ v => e.rsum v false)))
/-- RSUMSQ (R199): Adds squares, optionally centred, exactly into reducer ledgers. -/
def execRsumsq (c : CoreId) (gap : Nat) (s : State) : Out :=
  .next (s.onCore c (fun e => e.vecRow gap 0x22 (fun e _ v => e.rsum v true)))
/-- RMAX (R199): Folds row elements into each entry's maximum. -/
def execRmax (c : CoreId) (gap : Nat) (s : State) : Out :=
  .next (s.onCore c (fun e => e.vecRow gap 0x23 (fun e _ v => e.rmax v)))
/-- ROUT (R200): Writes one result per reducer entry of the selected kind. -/
def execRout (c : CoreId) (gap : Nat) (s : State) : Out :=
  .next (s.onCore c (fun e => e.vecRow gap 0x24 (fun e op v => e.rout op v)))
/-- RSETREF (R203): Sets reducer entry references K. -/
def execRsetref (c : CoreId) (gap : Nat) (s : State) : Out :=
  .next (s.onCore c (fun e => e.vecRow gap 0x25 (fun e op v => e.rsetref op v)))
/-- SMX_EXP (R201): Computes softmax exponentials relative to K and adds them exactly to the row sum. -/
def execSmxExp (c : CoreId) (gap : Nat) (s : State) : Out :=
  .next (s.onCore c (fun e => e.vecRow gap 0x26 (fun e op v => e.smxExp op v)))
/-- RSAVE (R204): Writes reducer entries as images to the local store. -/
def execRsave (c : CoreId) (gap : Nat) (s : State) : Out :=
  .next (s.onCore c (fun e => e.vecRow gap 0x27 (fun e _ v => e.rsave v)))
/-- RLOAD (R204): Replaces reducer entries from images in the local store. -/
def execRload (c : CoreId) (gap : Nat) (s : State) : Out :=
  .next (s.onCore c (fun e => e.vecRow gap 0x28 (fun e op v => e.rload op v false)))
/-- RMERGE (R204): Combines images from the local store into reducer entries. -/
def execRmerge (c : CoreId) (gap : Nat) (s : State) : Out :=
  .next (s.onCore c (fun e => e.vecRow gap 0x29 (fun e op v => e.rload op v true)))
/-- STATS_FLUSH (R206): Writes the statistics record and clears the histogram. -/
def execStatsFlush (c : CoreId) (gap : Nat) (s : State) : Out :=
  .next (s.onCore c (fun e => e.vecRow gap 0x30 (fun e _ v => e.statsFlush v)))
/-- RDOT (R215): Adds exact element products of two rows into reducer entries. -/
def execRdot (c : CoreId) (gap : Nat) (s : State) : Out :=
  .next (s.onCore c (fun e => e.vecRow gap 0x50 (fun e _ v => e.rdot v)))
/-- SMX_GRAD (R216): Computes the softmax gradient. -/
def execSmxGrad (c : CoreId) (gap : Nat) (s : State) : Out :=
  .next (s.onCore c (fun e => e.vecRow gap 0x51 (fun e op v => e.gradRows op v false)))
/-- NORM_GRAD (R217): Computes the normalisation gradient. -/
def execNormGrad (c : CoreId) (gap : Nat) (s : State) : Out :=
  .next (s.onCore c (fun e => e.vecRow gap 0x52 (fun e op v => e.gradRows op v true)))
/-- ASSAY (R220): Merges statistics records and applies the format selection rule to an Assayer entry. -/
def execAssay (c : CoreId) (gap : Nat) (s : State) : Out :=
  .next (s.onCore c (fun e => e.vecRow gap 0x53 (fun e _ v => e.assay v)))
/-- ASSAY_SET (R222): Writes one Assayer entry. -/
def execAssaySet (c : CoreId) (gap : Nat) (s : State) : Out :=
  .next (s.onCore c (fun e => e.vecRow gap 0x54 (fun e _ v => e.assaySet v)))
/-- UPD_SGD (R237): Plain SGD update of 16-bit weights. -/
def execUpdSgd (c : CoreId) (gap : Nat) (s : State) : Out :=
  .next (s.onCore c (fun e => e.vecRow gap 0x40 (fun e op v => e.update op v)))
/-- UPD_MOMENTUM (R237): SGD-with-momentum update of weights and first moments. -/
def execUpdMomentum (c : CoreId) (gap : Nat) (s : State) : Out :=
  .next (s.onCore c (fun e => e.vecRow gap 0x41 (fun e op v => e.update op v)))
/-- UPD_ADAM (R237): Two-moment update of weights and moments. -/
def execUpdAdam (c : CoreId) (gap : Nat) (s : State) : Out :=
  .next (s.onCore c (fun e => e.vecRow gap 0x42 (fun e op v => e.update op v)))
/-- RNG_SEED (R229): Seeds every lane generator. -/
def execRngSeed (c : CoreId) (gap : Nat) (s : State) : Out :=
  .next (s.onCore c (fun e => e.vecRow gap 0x44 (fun e _ v => e.rngSeed v)))
/-- RNG_SAVE (R231): Writes the generator image to the local store. -/
def execRngSave (c : CoreId) (gap : Nat) (s : State) : Out :=
  .next (s.onCore c (fun e => e.vecRow gap 0x45 (fun e _ v => e.rngSave v)))
/-- RNG_LOAD (R231): Loads generator states from an image. -/
def execRngLoad (c : CoreId) (gap : Nat) (s : State) : Out :=
  .next (s.onCore c (fun e => e.vecRow gap 0x46 (fun e _ v => e.rngLoad v)))
/-- SPIKE_CHECK (R241): Counts elements exceeding a bound into CORE_SPIKE_COUNT. -/
def execSpikeCheck (c : CoreId) (gap : Nat) (s : State) : Out :=
  .next (s.onCore c (fun e => e.vecRow gap 0x47 (fun e _ v => e.spikeCheck v)))

end Sys2Proof.Machine
end

