-- ==== Sys2Proof/Machine/TallyRows.lean ====
section
/-! DEFINITION. Meanings of the Tally commands (05_tally_processor.md): one for each instruction a thread issues, with the
thread's exceptions, waits and far accesses. -/

namespace Sys2Proof.Machine

/-- Has the thread an access outside the core that is not yet performed (R137, fence)? -/
def State.tallyBusy (s : State) (c t : Nat) : Bool :=
  s.txns.any (fun u => decide (u.src = .tally c t) && (match u.phase with | .done _ => false | _ => true))
/-- Has it one that is not yet acknowledged (R134, R137, ffence)? -/
def State.tallyOwed (s : State) (c t : Nat) : Bool := s.txns.any (fun u => decide (u.src = .tally c t))
/-- The access of a far request (R134): a block read, or a write of the stored bytes, translated at once. -/
def State.farIssue (s : State) (c t : Nat) (q : FarReq) : State :=
  let b := q.dva / 64 * 64
  let x : Txn := { id := s.nextTxn, src := .tally c t, owner := 0, master := masterId 3 (4 * c + t), cls := 0, write := q.write,
                   target := .dva b, runs := if q.write then [(q.dva % 64, markAll false (natLe q.width q.data))] else [],
                   first := q.dva % 64, len := q.width, issue := s.nextIssue }
  ({ s with nextIssue := s.nextIssue + 1 }.addTxn x).translate x
/-- A thread of a core issues an instruction (R127 to R156), if it fetches exactly that one. -/
def State.tallyRow (s : State) (c : CoreId) (t : Fin 4) (gap : Nat) (op : TallyOp) : State :=
  if s.coreRuns c then
    let (e, q) := Eff.tallyIssue ⟨c, s.core c, []⟩ t gap op (s.tallyBusy c t) (s.tallyOwed c t) (s.mirrorOf c)
    let s := s.landCore c e
    match q with
    | some r => s.farIssue c t r
    | none => s
  else s

/-- The access a thread's far load waits for has been answered; the answered access. -/
def State.farRead (s : State) (c t : Nat) : Option Txn :=
  s.txns.find? (fun u => u.src = .tally c t && !u.write && (match u.phase with | .done _ => true | _ => false) && decide (u.path = []))
/-- An answered far write of a thread, the oldest first. -/
def State.farWrite (s : State) (c t : Nat) : Option Txn :=
  s.txns.find? (fun u => u.src = .tally c t && u.write && (match u.phase with | .done _ => true | _ => false) && decide (u.path = []))
/-- The code of an access that has ended. -/
def Txn.code (t : Txn) : Nat := match t.phase with | .done c => c | _ => 0

/-- ADD (R137): Tally register add. -/
def execAdd (c : CoreId) (t : Fin 4) (gap : Nat) (rd : Fin 32) (rs1 : Fin 32) (rs2 : Fin 32) (s : State) : Out := .next (s.tallyRow c t gap (.reg .add rd rs1 rs2))
/-- SUB (R137): Tally register subtract. -/
def execSub (c : CoreId) (t : Fin 4) (gap : Nat) (rd : Fin 32) (rs1 : Fin 32) (rs2 : Fin 32) (s : State) : Out := .next (s.tallyRow c t gap (.reg .sub rd rs1 rs2))
/-- AND (R137): Tally bitwise and. -/
def execAnd (c : CoreId) (t : Fin 4) (gap : Nat) (rd : Fin 32) (rs1 : Fin 32) (rs2 : Fin 32) (s : State) : Out := .next (s.tallyRow c t gap (.reg .and rd rs1 rs2))
/-- OR (R137): Tally bitwise or. -/
def execOr (c : CoreId) (t : Fin 4) (gap : Nat) (rd : Fin 32) (rs1 : Fin 32) (rs2 : Fin 32) (s : State) : Out := .next (s.tallyRow c t gap (.reg .or rd rs1 rs2))
/-- XOR (R137): Tally bitwise xor. -/
def execXor (c : CoreId) (t : Fin 4) (gap : Nat) (rd : Fin 32) (rs1 : Fin 32) (rs2 : Fin 32) (s : State) : Out := .next (s.tallyRow c t gap (.reg .xor rd rs1 rs2))
/-- SLL (R137): Tally shift left by register. -/
def execSll (c : CoreId) (t : Fin 4) (gap : Nat) (rd : Fin 32) (rs1 : Fin 32) (rs2 : Fin 32) (s : State) : Out := .next (s.tallyRow c t gap (.reg .sll rd rs1 rs2))
/-- SRL (R137): Tally logical shift right by register. -/
def execSrl (c : CoreId) (t : Fin 4) (gap : Nat) (rd : Fin 32) (rs1 : Fin 32) (rs2 : Fin 32) (s : State) : Out := .next (s.tallyRow c t gap (.reg .srl rd rs1 rs2))
/-- SRA (R137): Tally arithmetic shift right by register. -/
def execSra (c : CoreId) (t : Fin 4) (gap : Nat) (rd : Fin 32) (rs1 : Fin 32) (rs2 : Fin 32) (s : State) : Out := .next (s.tallyRow c t gap (.reg .sra rd rs1 rs2))
/-- SLT (R137): Tally signed set-less-than. -/
def execSlt (c : CoreId) (t : Fin 4) (gap : Nat) (rd : Fin 32) (rs1 : Fin 32) (rs2 : Fin 32) (s : State) : Out := .next (s.tallyRow c t gap (.reg .slt rd rs1 rs2))
/-- SLTU (R137): Tally unsigned set-less-than. -/
def execSltu (c : CoreId) (t : Fin 4) (gap : Nat) (rd : Fin 32) (rs1 : Fin 32) (rs2 : Fin 32) (s : State) : Out := .next (s.tallyRow c t gap (.reg .sltu rd rs1 rs2))
/-- MUL (R137): Tally low 64-bit multiply. -/
def execMul (c : CoreId) (t : Fin 4) (gap : Nat) (rd : Fin 32) (rs1 : Fin 32) (rs2 : Fin 32) (s : State) : Out := .next (s.tallyRow c t gap (.reg .mul rd rs1 rs2))
/-- MULHU (R137): Tally high unsigned multiply. -/
def execMulhu (c : CoreId) (t : Fin 4) (gap : Nat) (rd : Fin 32) (rs1 : Fin 32) (rs2 : Fin 32) (s : State) : Out := .next (s.tallyRow c t gap (.reg .mulhu rd rs1 rs2))
/-- MIN (R137): Tally signed minimum. -/
def execMin (c : CoreId) (t : Fin 4) (gap : Nat) (rd : Fin 32) (rs1 : Fin 32) (rs2 : Fin 32) (s : State) : Out := .next (s.tallyRow c t gap (.reg .min rd rs1 rs2))
/-- MAX (R137): Tally signed maximum. -/
def execMax (c : CoreId) (t : Fin 4) (gap : Nat) (rd : Fin 32) (rs1 : Fin 32) (rs2 : Fin 32) (s : State) : Out := .next (s.tallyRow c t gap (.reg .max rd rs1 rs2))
/-- AMOADD (R132): Tally indivisible add to a data-memory word. -/
def execAmoadd (c : CoreId) (t : Fin 4) (gap : Nat) (rd : Fin 32) (rs1 : Fin 32) (rs2 : Fin 32) (s : State) : Out := .next (s.tallyRow c t gap (.reg .amoadd rd rs1 rs2))
/-- JR (R137): Tally jump to register. -/
def execJr (c : CoreId) (t : Fin 4) (gap : Nat) (rd : Fin 32) (rs1 : Fin 32) (rs2 : Fin 32) (s : State) : Out := .next (s.tallyRow c t gap (.reg .jr rd rs1 rs2))
/-- JALR (R137): Tally jump to register and link. -/
def execJalr (c : CoreId) (t : Fin 4) (gap : Nat) (rd : Fin 32) (rs1 : Fin 32) (rs2 : Fin 32) (s : State) : Out := .next (s.tallyRow c t gap (.reg .jalr rd rs1 rs2))
/-- SLWX (R138): Tally write of a shadow slot named by register. -/
def execSlwx (c : CoreId) (t : Fin 4) (gap : Nat) (rd : Fin 32) (rs1 : Fin 32) (rs2 : Fin 32) (s : State) : Out := .next (s.tallyRow c t gap (.reg .slwx rd rs1 rs2))
/-- EVCLR (R149): Tally W1C clear of CORE_EV_PENDING bits. -/
def execEvclr (c : CoreId) (t : Fin 4) (gap : Nat) (rd : Fin 32) (rs1 : Fin 32) (rs2 : Fin 32) (s : State) : Out := .next (s.tallyRow c t gap (.reg .evclr rd rs1 rs2))
/-- TSTART (R148): Tally start of another halted thread. -/
def execTstart (c : CoreId) (t : Fin 4) (gap : Nat) (rd : Fin 32) (rs1 : Fin 32) (rs2 : Fin 32) (s : State) : Out := .next (s.tallyRow c t gap (.reg .tstart rd rs1 rs2))
/-- TALLY_FENCE (R137): Tally wait until every earlier access of the thread is performed. -/
def execTallyFence (c : CoreId) (t : Fin 4) (gap : Nat) (rd : Fin 32) (rs1 : Fin 32) (rs2 : Fin 32) (s : State) : Out := .next (s.tallyRow c t gap (.reg .fence rd rs1 rs2))
/-- FFENCE (R134): Tally wait for posted far writes, then far-cache invalidation. -/
def execFfence (c : CoreId) (t : Fin 4) (gap : Nat) (rd : Fin 32) (rs1 : Fin 32) (rs2 : Fin 32) (s : State) : Out := .next (s.tallyRow c t gap (.reg .ffence rd rs1 rs2))
/-- YIELD (R137): Tally no-op that passes issue to another thread. -/
def execYield (c : CoreId) (t : Fin 4) (gap : Nat) (rd : Fin 32) (rs1 : Fin 32) (rs2 : Fin 32) (s : State) : Out := .next (s.tallyRow c t gap (.reg .yield rd rs1 rs2))
/-- HALT (R129): Tally thread becomes HALTED. -/
def execHalt (c : CoreId) (t : Fin 4) (gap : Nat) (rd : Fin 32) (rs1 : Fin 32) (rs2 : Fin 32) (s : State) : Out := .next (s.tallyRow c t gap (.reg .halt rd rs1 rs2))
/-- ERET (R153): Tally return from exception handler. -/
def execEret (c : CoreId) (t : Fin 4) (gap : Nat) (rd : Fin 32) (rs1 : Fin 32) (rs2 : Fin 32) (s : State) : Out := .next (s.tallyRow c t gap (.reg .eret rd rs1 rs2))
/-- ADDI (R137): Tally add immediate. -/
def execAddi (c : CoreId) (t : Fin 4) (gap : Nat) (rd : Fin 32) (rs1 : Fin 32) (v : BitVec 16) (s : State) : Out := .next (s.tallyRow c t gap (.imm .addi rd rs1 v))
/-- ANDI (R137): Tally and immediate. -/
def execAndi (c : CoreId) (t : Fin 4) (gap : Nat) (rd : Fin 32) (rs1 : Fin 32) (v : BitVec 16) (s : State) : Out := .next (s.tallyRow c t gap (.imm .andi rd rs1 v))
/-- ORI (R137): Tally or immediate. -/
def execOri (c : CoreId) (t : Fin 4) (gap : Nat) (rd : Fin 32) (rs1 : Fin 32) (v : BitVec 16) (s : State) : Out := .next (s.tallyRow c t gap (.imm .ori rd rs1 v))
/-- XORI (R137): Tally xor immediate. -/
def execXori (c : CoreId) (t : Fin 4) (gap : Nat) (rd : Fin 32) (rs1 : Fin 32) (v : BitVec 16) (s : State) : Out := .next (s.tallyRow c t gap (.imm .xori rd rs1 v))
/-- SLLI (R137): Tally shift left immediate. -/
def execSlli (c : CoreId) (t : Fin 4) (gap : Nat) (rd : Fin 32) (rs1 : Fin 32) (v : BitVec 16) (s : State) : Out := .next (s.tallyRow c t gap (.imm .slli rd rs1 v))
/-- SRLI (R137): Tally logical shift right immediate. -/
def execSrli (c : CoreId) (t : Fin 4) (gap : Nat) (rd : Fin 32) (rs1 : Fin 32) (v : BitVec 16) (s : State) : Out := .next (s.tallyRow c t gap (.imm .srli rd rs1 v))
/-- SRAI (R137): Tally arithmetic shift right immediate. -/
def execSrai (c : CoreId) (t : Fin 4) (gap : Nat) (rd : Fin 32) (rs1 : Fin 32) (v : BitVec 16) (s : State) : Out := .next (s.tallyRow c t gap (.imm .srai rd rs1 v))
/-- SLTI (R137): Tally signed set-less-than immediate. -/
def execSlti (c : CoreId) (t : Fin 4) (gap : Nat) (rd : Fin 32) (rs1 : Fin 32) (v : BitVec 16) (s : State) : Out := .next (s.tallyRow c t gap (.imm .slti rd rs1 v))
/-- SLTIU (R137): Tally unsigned set-less-than immediate. -/
def execSltiu (c : CoreId) (t : Fin 4) (gap : Nat) (rd : Fin 32) (rs1 : Fin 32) (v : BitVec 16) (s : State) : Out := .next (s.tallyRow c t gap (.imm .sltiu rd rs1 v))
/-- MOVZ (R137): Tally move shifted immediate, zeroing other bits. -/
def execMovz (c : CoreId) (t : Fin 4) (gap : Nat) (rd : Fin 32) (q : Fin 4) (v : BitVec 16) (s : State) : Out := .next (s.tallyRow c t gap (.move false rd q v))
/-- MOVK (R137): Tally insert immediate into a 16-bit field. -/
def execMovk (c : CoreId) (t : Fin 4) (gap : Nat) (rd : Fin 32) (q : Fin 4) (v : BitVec 16) (s : State) : Out := .next (s.tallyRow c t gap (.move true rd q v))
/-- LD (R131): Tally 64-bit load. -/
def execLd (c : CoreId) (t : Fin 4) (gap : Nat) (rd : Fin 32) (rs1 : Fin 32) (v : BitVec 16) (s : State) : Out := .next (s.tallyRow c t gap (.imm .ld rd rs1 v))
/-- LW (R131): Tally 32-bit zero-extended load. -/
def execLw (c : CoreId) (t : Fin 4) (gap : Nat) (rd : Fin 32) (rs1 : Fin 32) (v : BitVec 16) (s : State) : Out := .next (s.tallyRow c t gap (.imm .lw rd rs1 v))
/-- LWS (R131): Tally 32-bit sign-extended load. -/
def execLws (c : CoreId) (t : Fin 4) (gap : Nat) (rd : Fin 32) (rs1 : Fin 32) (v : BitVec 16) (s : State) : Out := .next (s.tallyRow c t gap (.imm .lws rd rs1 v))
/-- LH (R131): Tally 16-bit load. -/
def execLh (c : CoreId) (t : Fin 4) (gap : Nat) (rd : Fin 32) (rs1 : Fin 32) (v : BitVec 16) (s : State) : Out := .next (s.tallyRow c t gap (.imm .lh rd rs1 v))
/-- LB (R131): Tally 8-bit load. -/
def execLb (c : CoreId) (t : Fin 4) (gap : Nat) (rd : Fin 32) (rs1 : Fin 32) (v : BitVec 16) (s : State) : Out := .next (s.tallyRow c t gap (.imm .lb rd rs1 v))
/-- SD (R131): Tally 64-bit store. -/
def execSd (c : CoreId) (t : Fin 4) (gap : Nat) (rs2 : Fin 32) (rs1 : Fin 32) (v : BitVec 16) (s : State) : Out := .next (s.tallyRow c t gap (.store .sd rs2 rs1 v))
/-- SW (R131): Tally 32-bit store. -/
def execSw (c : CoreId) (t : Fin 4) (gap : Nat) (rs2 : Fin 32) (rs1 : Fin 32) (v : BitVec 16) (s : State) : Out := .next (s.tallyRow c t gap (.store .sw rs2 rs1 v))
/-- SH (R131): Tally 16-bit store. -/
def execSh (c : CoreId) (t : Fin 4) (gap : Nat) (rs2 : Fin 32) (rs1 : Fin 32) (v : BitVec 16) (s : State) : Out := .next (s.tallyRow c t gap (.store .sh rs2 rs1 v))
/-- SB (R131): Tally 8-bit store. -/
def execSb (c : CoreId) (t : Fin 4) (gap : Nat) (rs2 : Fin 32) (rs1 : Fin 32) (v : BitVec 16) (s : State) : Out := .next (s.tallyRow c t gap (.store .sb rs2 rs1 v))
/-- BEQ (R137): Tally branch if equal. -/
def execBeq (c : CoreId) (t : Fin 4) (gap : Nat) (rs1 : Fin 32) (rs2 : Fin 32) (off : BitVec 16) (s : State) : Out := .next (s.tallyRow c t gap (.branch .beq rs1 rs2 off))
/-- BNE (R137): Tally branch if not equal. -/
def execBne (c : CoreId) (t : Fin 4) (gap : Nat) (rs1 : Fin 32) (rs2 : Fin 32) (off : BitVec 16) (s : State) : Out := .next (s.tallyRow c t gap (.branch .bne rs1 rs2 off))
/-- BLT (R137): Tally branch if less, signed. -/
def execBlt (c : CoreId) (t : Fin 4) (gap : Nat) (rs1 : Fin 32) (rs2 : Fin 32) (off : BitVec 16) (s : State) : Out := .next (s.tallyRow c t gap (.branch .blt rs1 rs2 off))
/-- BGE (R137): Tally branch if greater or equal, signed. -/
def execBge (c : CoreId) (t : Fin 4) (gap : Nat) (rs1 : Fin 32) (rs2 : Fin 32) (off : BitVec 16) (s : State) : Out := .next (s.tallyRow c t gap (.branch .bge rs1 rs2 off))
/-- BLTU (R137): Tally branch if less, unsigned. -/
def execBltu (c : CoreId) (t : Fin 4) (gap : Nat) (rs1 : Fin 32) (rs2 : Fin 32) (off : BitVec 16) (s : State) : Out := .next (s.tallyRow c t gap (.branch .bltu rs1 rs2 off))
/-- BGEU (R137): Tally branch if greater or equal, unsigned. -/
def execBgeu (c : CoreId) (t : Fin 4) (gap : Nat) (rs1 : Fin 32) (rs2 : Fin 32) (off : BitVec 16) (s : State) : Out := .next (s.tallyRow c t gap (.branch .bgeu rs1 rs2 off))
/-- J (R137): Tally jump. -/
def execJ (c : CoreId) (t : Fin 4) (gap : Nat) (off : BitVec 26) (s : State) : Out := .next (s.tallyRow c t gap (.jump false off))
/-- JAL (R137): Tally jump and link in t31. -/
def execJal (c : CoreId) (t : Fin 4) (gap : Nat) (off : BitVec 26) (s : State) : Out := .next (s.tallyRow c t gap (.jump true off))
/-- RDS (R151): Tally read of a special word. -/
def execRds (c : CoreId) (t : Fin 4) (gap : Nat) (rd : Fin 32) (rs1 : Fin 32) (v : BitVec 16) (s : State) : Out := .next (s.tallyRow c t gap (.imm .rds rd rs1 v))
/-- WRS (R151): Tally write of a special word. -/
def execWrs (c : CoreId) (t : Fin 4) (gap : Nat) (rd : Fin 32) (rs1 : Fin 32) (v : BitVec 16) (s : State) : Out := .next (s.tallyRow c t gap (.imm .wrs rd rs1 v))
/-- SLW (R138): Tally write of a shadow slot. -/
def execSlw (c : CoreId) (t : Fin 4) (gap : Nat) (rd : Fin 32) (rs1 : Fin 32) (v : BitVec 16) (s : State) : Out := .next (s.tallyRow c t gap (.imm .slw rd rs1 v))
/-- SLR (R138): Tally read of a shadow slot. -/
def execSlr (c : CoreId) (t : Fin 4) (gap : Nat) (rd : Fin 32) (rs1 : Fin 32) (v : BitVec 16) (s : State) : Out := .next (s.tallyRow c t gap (.imm .slr rd rs1 v))
/-- NRD (R145): Tally read of a notch. -/
def execNrd (c : CoreId) (t : Fin 4) (gap : Nat) (rd : Fin 32) (rs1 : Fin 32) (v : BitVec 16) (s : State) : Out := .next (s.tallyRow c t gap (.imm .nrd rd rs1 v))
/-- NWAIT (R146): Tally wait until a notch reaches a value. -/
def execNwait (c : CoreId) (t : Fin 4) (gap : Nat) (rd : Fin 32) (rs1 : Fin 32) (v : BitVec 16) (s : State) : Out := .next (s.tallyRow c t gap (.imm .nwait rd rs1 v))
/-- NBUMP (R147): Tally bump of a notch after its local-store stores are visible. -/
def execNbump (c : CoreId) (t : Fin 4) (gap : Nat) (rd : Fin 32) (rs1 : Fin 32) (v : BitVec 16) (s : State) : Out := .next (s.tallyRow c t gap (.imm .nbump rd rs1 v))
/-- LAUNCH (R139): Tally launch of an invocation, capturing the shadow slots. -/
def execLaunch (c : CoreId) (t : Fin 4) (gap : Nat) (rd : Fin 32) (rs1 : Fin 32) (v : BitVec 16) (s : State) : Out := .next (s.tallyRow c t gap (.imm .launch rd rs1 v))
/-- EVWAIT (R149): Tally wait for CORE_EV_PENDING bits. -/
def execEvwait (c : CoreId) (t : Fin 4) (gap : Nat) (rd : Fin 32) (rs1 : Fin 32) (v : BitVec 16) (s : State) : Out := .next (s.tallyRow c t gap (.imm .evwait rd rs1 v))

/-- THREAD_WAKE (R146, R128): a waiting thread's condition is met and its instruction goes on. -/
def execThreadWake (c : CoreId) (t : Fin 4) (gap : Nat) (s : State) : Out :=
  .next (if s.coreRuns c then
    let (e, q) := Eff.tallyWake ⟨c, s.core c, []⟩ t gap (s.tallyBusy c t) (s.tallyOwed c t) (s.mirrorOf c)
    let s := s.landCore c e
    match q with
    | some r => s.farIssue c t r
    | none => s
  else s)
/-- FAR_READ_RESPONSE (R134): a far-cache miss returns its line, or its refusal. -/
def execFarReadResponse (c : CoreId) (t : Fin 4) (s : State) : Out :=
  .next (match s.farRead c t with
    | some x => if s.coreRuns c then (s.dropTxn x.id).atCore c (fun e => e.farAnswer t (x.code ≠ 0) x.data x.poison) else s
    | none => s)
/-- FAR_WRITE_ACK (R134): a posted far write is acknowledged; the first refused one is kept for ffence. -/
def execFarWriteAck (c : CoreId) (t : Fin 4) (s : State) : Out :=
  .next (match s.farWrite c t with
    | some x => if s.coreRuns c then (s.dropTxn x.id).atCore c (fun e => (e.onThread t (fun th =>
        { th with posted := th.posted - 1, refused := if x.code = 0 then th.refused
                  else th.refused <|> some (wd (0x20000000000 + x.target.addr + x.first)) })).count 0x058
          (if x.code = 0 ∨ x.code = 8 then 0 else 1)) else s
    | none => s)
/-- ILLEGAL (R136, R152): a thread fetches a word with a reserved code or field, or at an address that is not a multiple
of 4. -/
def execIllegal (c : CoreId) (t : Fin 4) (gap : Nat) (s : State) : Out := .next (s.onCore c (fun e => e.fetchExc t gap [1, 3]))
/-- IMEM_ECC (R152): a thread fetches a word with a double-bit error, or outside the instruction memory. -/
def execImemEcc (c : CoreId) (t : Fin 4) (gap : Nat) (s : State) : Out := .next (s.onCore c (fun e => e.fetchExc t gap [2, 4]))

end Sys2Proof.Machine
end

