-- ==== Sys2Proof/Machine/LinkRows.lean ====
section
/-! DEFINITION. Meanings of the Ilusk link commands (13_ilusk_links.md). -/

namespace Sys2Proof.Machine

/-! ## Receiving (R328 to R335, R346, R347) -/

/-- Takes the ack, credit and nak fields of a flit whose CRC passed (R332 to R334), and says how many resends that starts. -/
def LinkSt.take (k : LinkSt) (h : FlitHeader) : LinkSt × Nat :=
  let acked := match k.retry.findIdx? (fun f => f.seq = h.ack) with | some i => i + 1 | none => 0
  let p := poolOf h.creditVc h.creditHop
  let gain := (h.creditCnt + 256 - k.freedSeen.get 0 p % 256) % 256
  let k := { k with retry := k.retry.drop acked, resends := if acked > 0 then 0 else k.resends,
                    resend := k.resend.bind (fun i => if i - acked < (k.retry.drop acked).length then some (i - acked) else none),
                    credits := k.credits.set p (k.credit p + gain), freedSeen := k.freedSeen.set p h.creditCnt }
  if h.nak ∧ k.retry ≠ [] ∧ k.resend ≠ some 0 then ({ k with resend := some 0 }, if k.resend = none then 1 else 0) else (k, 0)

/-- The landing entry a write matches (R347): the lowest-numbered one; its core, offset and class. -/
def State.landing? (s : State) (dva : Nat) : Option (Nat × Nat × Nat) :=
  (s.landing.find? (fun x : Nat × Word =>
    let v := x.2.toNat
    let first := bitsOf v 24 0
    bitOf v 63 && decide (bitsOf v 46 44 + bitsOf v 49 47 ≤ 7) && decide (first ≤ dva / 65536) &&
      decide (dva / 65536 ≤ first + bitsOf v 49 47))).map (fun x =>
    let v := x.2.toNat
    (bitsOf v 43 34, bitsOf v 46 44 * 65536 + (dva - bitsOf v 24 0 * 65536), bitsOf v 55 50))

/-- A write of a peer (R347): landed in a core, or translated as a peer's access; answers its status. -/
def State.peerWrite (s : State) (l peer cls dva : Nat) (runs : Runs) : Nat × State :=
  let t : Txn := { id := s.nextTxn, src := .peer l, owner := 0, master := masterId 9 peer, cls := cls, write := true, target := .dva dva,
                   runs := runs, checked := true, issue := s.nextIssue }
  let enter := fun (s : State) (t : Txn) => { s with nextIssue := s.nextIssue + 1 }.addTxn t
  match s.landing? dva with
  | some (c, o, cl) =>
    let t : Txn := { t with target := .core c o }
    if s.fenced c then (2, s.refusedEvent t.master 2 t.addr)
    else if !s.allowed 44 cl t.master true then (3, s.refusedEvent t.master 3 t.addr)
    else (0, (enter s t).send t (.ls c o) 0)
  | none =>
    let (e, s) := s.entryOf (linkGuild l) (dva / 65536)
    match s.judge e t.master dva true false with
    | .refuse r => (r, s.refusedEvent t.master r dva)
    | _ => (0, (enter s t).translate t)

/-- A read of a peer joins the pool, to be answered when its data is delivered (R345). Its owner number keeps the requester's
master, the peer and the tag. -/
def State.peerRead (s : State) (l peer : Nat) (h : SlotHeader) (cls dva : Nat) : State :=
  let x : Txn := { id := s.nextTxn, src := .peer l, owner := (h.master * 4096 + peer) * 4096 + h.tag, master := masterId 9 peer, cls := cls,
                   write := false, target := .dva dva, issue := s.nextIssue }
  ({ s with nextIssue := s.nextIssue + 1 }.addTxn x).translate x

/-- A response from a peer (R345): the accesses that waited for its tag end with its status, a burst's refused blocks
counted from `refused` (R444); one that nobody waits for is discarded (R340). -/
def State.peerAnswer (s : State) (peer : Nat) (h : SlotHeader) (data : BitVec 512) : State :=
  match s.links.find? (fun x : Nat × LinkSt => x.2.outstanding.any (fun o => o.tag = h.tag && o.peer = peer)) with
  | some (l, k) =>
    let ids := (k.outstanding.filter (fun o => o.tag = h.tag && o.peer = peer)).flatMap (·.txns)
    let bad := if h.status = 0 then 0 else if h.status = 8 then ids.length else h.burst + 1
    let s := s.setLink l { k with outstanding := k.outstanding.filter (fun o => !(o.tag = h.tag && o.peer = peer)) }
    let fin := fun (s : State) (x : Nat × Nat) => match s.txn x.1 with
      | some t =>
        let code := if x.2 < bad then h.status else 0
        if t.write then (match t.src with
          | .outbound _ | .drayman _ | .tally _ _ | .house | .lib _ => s.fromPort t code
          | _ => s.dropTxn t.id)
        else s.fromPort { t with data := data, poison := t.poison || h.poison || code ≠ 0 } code
      | none => s
    ids.zipIdx.foldl fin s
  | none => s

/-- One slot addressed to the module (Table 13.5). -/
def State.takeSlot (s : State) (l vc src : Nat) (x : LinkSlot) : State :=
  let h := SlotHeader.ofBits x.header
  let dva := h.addr * 64
  match h.kind with
  | 0 => s
  | 1 | 2 =>
    let runs : Runs := if h.kind = 1 then [(0, markAll h.poison (blockBytes x.data))] else maskRuns x.mask x.data h.poison
    let (st, s) := s.peerWrite l src vc dva runs
    s.respond src { kind := 5, addr := h.addr, tag := h.tag, master := h.master, status := st } 0
  | 3 => s.peerRead l src h vc dva
  | 4 | 5 => s.peerAnswer src h x.data
  | 6 =>
    let k := s.link l
    s.setLink l { k with bursts := k.bursts.set vc ⟨src, x, burstFlits (h.burst + 1), true, 0, false, [], []⟩ }
  | n => s.raise 0x42 [wd (l + n * 256)]

/-- A whole burst has arrived: each block is checked and written on its own, one acknowledgement answers all (R331, R444). -/
def State.endBurstRx (s : State) (l vc : Nat) (b : RxBurst) : State :=
  let h := SlotHeader.ofBits b.head.header
  let (bad, s) := (List.range (h.burst + 1)).foldl (fun acc i =>
    let bs := (b.bytes.drop (64 * i)).take 64
    let (st, s) := acc.2.peerWrite l b.srcPeer vc (h.addr * 64 + 64 * i) [(0, markAll (nth false b.marks i) bs)]
    (if st = 0 then acc.1 else acc.1 ++ [st], s)) (([], s) : List Nat × State)
  s.respond b.srcPeer { kind := 5, addr := h.addr, tag := h.tag, master := h.master, status := bad.headD 0, burst := bad.length - 1 } 0

/-- A burst with the marks and bytes of its next flit. -/
def RxBurst.gather (b : RxBurst) (body : BitVec 1952) : RxBurst :=
  let first := b.bytes.length / 64
  let marks := (List.range ((SlotHeader.ofBits b.head.header).burst + 1)).map (fun i => nth false b.marks i ||
    (decide (first ≤ i) && decide (i < first + 5) && body.toNat.testBit (16 + (i - first))))
  { b with bytes := b.bytes ++ natLe 240 (body.toNat / 2 ^ 32), marks := marks, left := b.left - 1 }
/-- One BURST flit addressed to the module. -/
def State.takeBurst (s : State) (l vc : Nat) (body : BitVec 1952) : State :=
  let k := s.link l
  match k.bursts.find vc with
  | some b =>
    let b := b.gather body
    if b.left = 0 then (s.setLink l { k with bursts := k.bursts.erase vc }).endBurstRx l vc b
    else s.setLink l { k with bursts := k.bursts.set vc b }
  | none => s

/-- Where a flit for another module goes (R346): its egress port; or the status that answers it, with an event where it cannot be
forwarded at all. -/
def State.forwardTo (s : State) (l : Nat) (h : FlitHeader) (body : BitVec 1952) : (Nat ⊕ Nat) × State :=
  let no := fun (code : Nat) => ((.inr 2, s.raise code [wd l, wd (h.dst + bodySrc body * 65536)]) : (Nat ⊕ Nat) × State)
  if h.hop ≥ 2 then no 0x44
  else match s.routeOf h.dst with
    | none => no 0x45
    | some out => if (s.link out).state.carries then (.inl out, s) else (.inr 8, s)
/-- The burst in progress after a flit that is forwarded: a BURST_HEAD slot opens one, a BURST flit is one less to come. -/
def LinkSt.follow (k : LinkSt) (h : FlitHeader) (body : BitVec 1952) (out : Nat) (answered : Bool) : LinkSt :=
  if h.ftype = 1 then match (slotsOf body).find? (fun x => (SlotHeader.ofBits x.header).kind = 6) with
    | some x =>
      let b : RxBurst := ⟨bodySrc body, x, burstFlits ((SlotHeader.ofBits x.header).burst + 1), false, out, answered, [], []⟩
      { k with bursts := k.bursts.set h.vc b }
    | none => k
  else match k.bursts.find h.vc with
    | some b => if b.left ≤ 1 then { k with bursts := k.bursts.erase h.vc }
                else { k with bursts := k.bursts.set h.vc { b with left := b.left - 1, answered := b.answered || answered } }
    | none => k
/-- A flit for another module is held until its egress port has a buffer for it (R342, R346); or its origin is answered, a burst
once. -/
def State.forwardFlit (s : State) (l : Nat) (h : FlitHeader) (body : BitVec 1952) : State :=
  let b := if h.ftype = 2 then (s.link l).bursts.find h.vc else none
  let head := b.map (·.head)
  let dead := b.any (·.answered)
  let (way, s) := s.forwardTo l h body
  let k := s.link l
  match way, dead with
  | .inl out, false =>
    let k := k.follow h body out false
    (s.setLink l { k with waiting := k.waiting ++
      [⟨out, h.ftype, h.vc, h.hop, h.dst, body, head, (s.link out).cycle, true⟩] }).forwards out
  | .inl _, true => s.setLink l ((k.follow h body 0 true).free h.vc h.hop)
  | .inr st, _ =>
    (s.setLink l ((k.follow h body 0 true).free h.vc h.hop)).answerAll st (if dead then [] else flitRequests h.ftype body head)

/-- An accepted flit is delivered, and its buffer freed, or goes on to another module (R329 to R334). -/
def State.acceptFlit (s : State) (l : Nat) (h : FlitHeader) (body : BitVec 1952) : State :=
  if h.ftype ≠ 1 ∧ h.ftype ≠ 2 then s
  else if h.dst ≠ s.ownPeer then s.forwardFlit l h body
  else
    let s := s.setLink l ((s.link l).free h.vc h.hop)
    if h.ftype = 1 then (slotsOf body).foldl (fun (s : State) x => s.takeSlot l h.vc (bodySrc body) x) s
    else s.takeBurst l h.vc body

/-- An accepted CONTROL flit (Table 13.8): the far end's identifier and level show in LNK_STATUS from CONFIG on. -/
def LinkSt.takeControl (k : LinkSt) (ftype : Nat) (body : BitVec 1952) : LinkSt :=
  if ftype = 3 then
    { k with control := some body, farPeer := bitsOf body.toNat 11 0, farLevel := bitsOf body.toNat 31 24 }
  else k

/-- Does a port exchange flits, and is it still being configured? One in TRAINING takes part once its lanes have locked, which its
first flit shows (log 54). -/
def LinkState.flows : LinkState → Bool
  | .active | .training | .config => true
  | _ => false
/-- The state of a port that exchanges flits. -/
def LinkState.exchanging : LinkState → LinkState
  | .training => .config
  | x => x

/-- LINK_FLIT_RECEIVE (R324, R326 to R335, R337, R346, R347). `corrected` symbols and `lost` codewords are counted with the first
flit they reach; a flit touched by a codeword that was lost fails. -/
def execLinkFlitReceive (l : LinkId) (gap : Nat) (flit : BitVec 2048) (corrected lost : Nat) (touched : Bool) (s : State) : Out :=
  .next (
    if !(s.link l).state.flows then s
    else
      let s := s.linkTick l gap
      let k := { s.link l with state := (s.link l).state.exchanging }
      let s := (((s.setLink l k).countUnit (linkUnit l) 1 corrected).countUnit (linkUnit l) 2 lost).countUnit (linkUnit l) 0x301 256
      let bs := natLe 256 flit.toNat
      let ok := !touched && lost = 0 && (crc32 (bs.take 252)).toNat = leNat (bs.drop 252)
      let discard := fun (k : LinkSt) => if k.nakSent then k else { k with nakDue := true, nakSent := true }
      if !ok then s.setLink l (discard k)
      else
        let h := FlitHeader.ofNat (leNat (bs.take 8))
        let body : BitVec 1952 := flit.extractLsb' 64 1952
        let (k, n) := k.take h
        let s := ((s.setLink l k).countUnit (linkUnit l) 3 n).forwards l
        let k := s.link l
        if h.ftype = 0 then s
        else if h.seq ≠ k.expected then s.setLink l (discard k)
        else
          let k := k.takeControl h.ftype body
          let s := s.setLink l { k with expected := (k.expected + 1) % 4096, nakSent := false }
          if k.state = .active then s.acceptFlit l h body else s)

/-! ## Sending (R326, R332 to R334, R342) -/

/-- Is the block that follows an own whole-block write on its way to the port, so that the two will leave as a burst (R331)? Only
blocks already translated count (log 51). -/
def State.runGoesOn (s : State) (e : Egress) : Bool :=
  let more := fun (addr : Nat) => s.txns.any (fun t => t.write && decide (t.path ≠ []) && decide (t.cls = e.vc) &&
    decide (t.master = e.master) && (wholeBlock t.runs).isSome && (match t.phase with
    | .sent (.peer p a) => decide (p = e.dst) && decide (a / 64 = addr)
    | _ => false))
  match e.parcel with
  | .slot x =>
    let h := SlotHeader.ofBits x.header
    decide (h.kind = 1) && more (h.addr + 1)
  | .burst x bs none => decide (bs.length < 256) && more ((SlotHeader.ofBits x.header).addr + bs.length)
  | _ => false
/-- Is the entry part of a burst of the module that has begun to leave? -/
def Egress.under (e : Egress) : Bool := match e.parcel with | .burst _ _ (some _) => true | _ => false
/-- Is the entry the module's own, of the same channel and peer? -/
def Egress.withOwn (e x : Egress) : Bool := decide (x.ingress = none) && decide (x.vc = e.vc) && decide (x.dst = e.dst)
/-- May an egress entry be sent now (R331, R342, R348)? Its pool has a credit, reserved already for a forwarded one; it does not
break into a burst of its channel; an own one is the first of its channel and peer and its run has come. -/
def State.maySend (s : State) (k : LinkSt) (e : Egress) : Bool :=
  let open_ := k.egress.any (fun x => x.vc = e.vc && x.under)
  let turn := match k.forwardOpen.find e.vc with
    | some o => decide (e.ingress = some o.1)
    | none => e.under || !open_
  turn && (match e.ingress with
    | some _ => true
    | none => decide (0 < k.credit (poolOf e.vc e.hop)) && decide (k.egress.find? e.withOwn = some e) && !s.runGoesOn e)

/-- The slots that leave in one flit with the first one (R329): the next own slots of its channel and peer, at most three in
all and one of them masked. -/
def State.slotGroup (s : State) (k : LinkSt) (e : Egress) : List Egress :=
  let run := (k.egress.filter e.withOwn).takeWhile (fun x => (match x.parcel with | .slot _ => true | _ => false) && !s.runGoesOn x)
  let masked := fun (x : Egress) => match x.parcel with | .slot y => (SlotHeader.ofBits y.header).kind = 2 | _ => false
  let three := run.take 3
  let upto := (List.range (three.length + 1)).filter (fun n => decide (((three.take n).filter masked).length ≤ 1))
  three.take (upto.foldl max 0)

/-- A flit's type, body, entries that leave, and the entries put in their place. -/
def State.buildFlit (s : State) (k : LinkSt) (e : Egress) : Nat × BitVec 1952 × List Egress × Option Egress :=
  match e.parcel with
  | .slot _ =>
    let g := s.slotGroup k e
    (1, slotsBody e.srcPeer (g.filterMap (fun x => match x.parcel with | .slot y => some y | _ => none)), g, none)
  | .burst head bs none => (1, slotsBody e.srcPeer [head], [e], some { e with parcel := .burst head bs (some 0) })
  | .burst head bs (some i) =>
    (2, burstBody e.srcPeer bs i, [e],
      if i + 1 < burstFlits bs.length then some { e with parcel := .burst head bs (some (i + 1)) } else none)
  | .forward ft body _ => (ft, body, [e], none)

/-- BURST flits still to come after a forwarded flit. -/
def forwardNeeds (ft : Nat) (body : BitVec 1952) (now : Nat) : Nat :=
  if ft = 2 then now - 1
  else match (slotsOf body).find? (fun x => (SlotHeader.ofBits x.header).kind = 6) with
    | some x => burstFlits ((SlotHeader.ofBits x.header).burst + 1)
    | none => now

/-- Sends one flit with the ack, nak and credit fields of the moment (R327, R333, R334). -/
def State.emitFlit (s : State) (l : Nat) (k : LinkSt) (seq ft vc hop dst : Nat) (body : BitVec 1952) : State :=
  let p := k.rotate
  let h : FlitHeader := { seq := seq, ack := (k.expected + 4095) % 4096, ftype := ft, nak := k.nakDue, vc := vc, hop := hop,
                          creditVc := p % 4, creditHop := p / 4, creditCnt := k.freed.get 0 p % 256, dst := dst }
  let s := (s.setLink l { k with nakDue := false, rotate := (p + 1) % 12 }).countUnit (linkUnit l) 0x300 256
  { s with port := { s.port with answer := .bytes (flitBytes h body) } }

/-- A flit sent for the first time takes the next sequence number and is kept for a resend (R332). -/
def State.sendNew (s : State) (l : Nat) (k : LinkSt) (ft vc hop dst : Nat) (body : BitVec 1952) (ingress : Option Nat)
    (head : Option LinkSlot) : State :=
  s.emitFlit l { k with nextSeq := (k.nextSeq + 1) % 4096, retry := k.retry ++ [⟨k.nextSeq, ft, vc, hop, dst, body, ingress, head⟩] }
    k.nextSeq ft vc hop dst body
/-- IDLE: the last sequence number is repeated. -/
def State.sendIdle (s : State) (l : Nat) (k : LinkSt) : State := s.emitFlit l k ((k.nextSeq + 4095) % 4096) 0 0 0 0 0
/-- The next flit of a resend; a first flit resent for the eighth time puts the link into RETRAIN (R335). -/
def State.sendAgain (s : State) (l : Nat) (k : LinkSt) (i : Nat) : State :=
  match k.retry[i]? with
  | some f =>
    let n := if i = 0 then k.resends + 1 else k.resends
    let s := s.emitFlit l { k with resend := if i + 1 < k.retry.length then some (i + 1) else none, resends := n }
      f.seq f.ftype f.vc f.hop f.dst f.body
    if i = 0 ∧ n ≥ 8 then s.enterRetrain l else s
  | none => s.sendIdle l k
/-- An entry leaves: what stays of it, the requests now under way, and its channel's forwarded burst. -/
def State.sendEntry (s : State) (l : Nat) (k : LinkSt) (e : Egress) : State :=
  let (ft, body, gone, stay) := s.buildFlit k e
  let p := poolOf e.vc e.hop
  let q := match stay with
    | some x => k.egress.map (fun y => if y = e then x else y)
    | none => gone.foldl List.erase k.egress
  let tags := gone.filterMap (fun x => match x.parcel with
    | .slot y => some ((SlotHeader.ofBits y.header).tag)
    | .burst y _ none => some ((SlotHeader.ofBits y.header).tag)
    | _ => none)
  let out := k.outstanding.map (fun o => if o.peer = e.dst ∧ tags.contains o.tag then { o with since := some k.cycle } else o)
  let k := { k with egress := q, outstanding := out }
  match e.ingress, e.parcel with
  | some i, .forward _ _ head =>
    let left := forwardNeeds ft body (match k.forwardOpen.find e.vc with | some o => o.2 | none => 0)
    s.sendNew l { k with forwardOpen := if left = 0 then k.forwardOpen.erase e.vc else k.forwardOpen.set e.vc (i, left) }
      ft e.vc e.hop e.dst body (some i) head
  | _, _ => s.sendNew l { k with credits := k.credits.set p (k.credit p - 1) } ft e.vc e.hop e.dst body none none

/-- The module's own CONTROL fields (Table 13.8): peer, major, level, min_level, pool. -/
def State.controlBody (s : State) : Nat :=
  let level := (s.flash.rd ((if s.house.image = 2 then 0x2100000 else 0x100000) + 6)).toNat
  s.ownPeer + 2 ^ 16 + level * 2 ^ 24 + Config.minLevel level % 256 * 2 ^ 32 + 32 * 2 ^ 40

/-- LINK_FLIT_TRANSMIT (R326, R331 to R335, R337, R342): the next flit of a resend; else a CONTROL flit in CONFIG, and in ACTIVE
the oldest entry that may go, equal ages local ones first and then by channel; else IDLE. -/
def execLinkFlitTransmit (l : LinkId) (gap : Nat) (s : State) : Out :=
  .next (
    if !(s.link l).state.flows then s
    else
      let s := s.linkTick l gap
      let k := { s.link l with state := (s.link l).state.exchanging }
      match k.resend with
      | some i => s.sendAgain l k i
      | none =>
        if k.retry.length ≥ 512 then s.sendIdle l k
        else if k.state = .config then s.sendNew l k 3 0 0 0 (BitVec.ofNat 1952 s.controlBody) none none
        else match oldest (fun e : Egress => (e.entered, if e.ingress = none then 0 else 1, e.vc)) (k.egress.filter (s.maySend k)) with
          | none => s.sendIdle l k
          | some e => s.sendEntry l k e)

/-! ## Link states (R335 to R340) -/

/-- LINK_ENABLE (R337): a DISABLED port that is not fenced starts training. -/
def execLinkEnable (l : LinkId) (s : State) : Out := .next (if s.served then s.enableLink l else s)
/-- LINK_DISABLE (R339, Table 13.10): the port is DISABLED and its requests complete as LINK_LOST. -/
def execLinkDisable (l : LinkId) (s : State) : Out := .next (if s.served then s.disableLink l else s)

/-- Do the two ends agree (R338)? -/
def compatible (own far : Nat) : Bool :=
  decide (bitsOf far 23 16 = bitsOf own 23 16) && decide (bitsOf far 39 32 ≤ bitsOf own 31 24) &&
  decide (bitsOf own 39 32 ≤ bitsOf far 31 24) && decide (bitsOf far 11 0 ≠ bitsOf own 11 0)
/-- LINK_TRAINING_DONE (R337, R338): the CONTROL flits have been exchanged, and the port becomes ACTIVE, with sequence numbers 0
and full pools, or INCOMPATIBLE. -/
def execLinkTrainingDone (l : LinkId) (gap : Nat) (s : State) : Out :=
  .next (
    let s' := s.linkTick l gap
    let k := s'.link l
    match k.state, k.control with
    | .config, some far =>
      let own := s'.controlBody
      if compatible own far.toNat then
        (s'.setLink l { k with state := .active, nextSeq := 0, expected := 0, credits := [], freedSeen := [], freed := [],
                               retry := [], resend := none, resends := 0, nakDue := false, nakSent := false, rotate := 0,
                               waiting := k.waiting.map (fun f => { f with owed := false }) }).forwards l
      else
        (s'.setLink l { k with state := .incompatible }).loseLink l |>.raise 0x41
          [wd l, wd (bitsOf own 47 0), 0, wd (bitsOf far.toNat 47 0), 0]
    | _, _ => s)
/-- LINK_RETRAIN_DONE (R335, R337): the port is ACTIVE again and sends from the last ack. -/
def execLinkRetrainDone (l : LinkId) (gap : Nat) (s : State) : Out :=
  .next (
    let s' := s.linkTick l gap
    let k := s'.link l
    if k.state ≠ .retrain then s
    else s'.setLink l { k with state := .active, resend := if k.retry.isEmpty then none else some 0 })
/-- LINK_STANDBY_EXIT (R337, Table 13.6): a held flit, or the far end's exit, brings the port back. -/
def execLinkStandbyExit (l : LinkId) (gap : Nat) (far : Bool) (s : State) : Out :=
  .next (
    let s' := s.linkTick l gap
    let k := s'.link l
    if k.state = .standby ∧ (far ∨ k.egress ≠ [] ∨ k.retry ≠ []) then s'.setLink l { k with state := .active } else s)
/-- LINK_RESPONSE_TIMEOUT (R340): the oldest request without a response for LNK_RESP_TIMEOUT cycles completes as LINK_LOST. -/
def execLinkResponseTimeout (l : LinkId) (gap : Nat) (s : State) : Out :=
  .next (
    let s' := s.linkTick l gap
    let k := s'.link l
    match k.outstanding.find? (fun o => o.since.any (fun c => decide (c + bitsOf k.ctrl.toNat 25 2 * 1024 ≤ k.cycle))) with
    | some o =>
      let s := s'.setLink l { k with outstanding := k.outstanding.filter (fun x => x ≠ o) }
      let s := s.lost o.txns
      s.raise 0x43 [wd (l + o.tag * 65536), wd o.dva]
    | none => s)
/-- FIBRE_UNMATED (R495, R335): the port falls out of ACTIVE. -/
def execFibreUnmated (l : LinkId) (gap : Nat) (s : State) : Out :=
  .next (
    if (s.link l).state = .active ∨ (s.link l).state = .standby then (s.linkTick l gap).enterRetrain l else s)

end Sys2Proof.Machine
end

