-- ==== Sys2Proof/Machine/CollectiveOps.lean ====
section
/-! DEFINITION. Operations of the collective library (14_distributed_training.md): the plan, thinning and widening, messages,
copies and lateness, the owner's exact sum, votes. -/

namespace Sys2Proof.Machine

open Numbers

/-! ## The plan (Tables 14.1, 14.2, R351, R355) -/

/-- The slot entry of stage s, slot k. -/
def Plan.entry (p : Plan) (s k : Nat) : Word := p.slots.get 0 (64 * s + k)
/-- The primary's peer identifier. -/
def Plan.primary (p : Plan) (s k : Nat) : Nat := wField (p.entry s k) 11 0
/-- The backup's peer identifier, if the slot has one. -/
def Plan.backup (p : Plan) (s k : Nat) : Option Nat :=
  if (p.entry s k).getLsbD 44 then some (wField (p.entry s k) 43 32) else none
/-- Blocks of the stage. -/
def Plan.blocks (p : Plan) : Nat := p.entries / 64
/-- First block of shard k, and of the shard after it (R355). -/
def Plan.shard (p : Plan) (k : Nat) : Nat × Nat := (k * p.blocks / p.slotCount, (k + 1) * p.blocks / p.slotCount)
/-- A plan's bytes as written. -/
def planOf (bs : List Byte) : Plan :=
  let f := fieldAt bs
  { stages := f 2 1, slotCount := f 3 1, ownStage := f 4 1, ownSlot := f 5 1, role := f 6 1, policy := f 7 1, gather := f 8 1,
    latePort := f 9 1, lateCycles := f 16 8, step0 := f 24 8, entries := f 32 8, emem := f 40 8, coll := f 48 8,
    slots := (List.range 4096).map (fun i => (i, wd (f (256 + 8 * i) 8))) }
/-- Is the entry of stage s, slot k as Table 14.2 has it? -/
def Plan.entryOk (p : Plan) (s k : Nat) : Bool :=
  let e := p.entry s k
  let there := decide (s < p.stages) && decide (k < p.slotCount)
  (e.getLsbD 63 == there) && wField e 62 45 = 0 && wField e 31 12 = 0
/-- The peer identifiers of entry i. -/
def Plan.peersAt (p : Plan) (i : Nat) : List Nat :=
  if (p.slots.get 0 i).getLsbD 63 then [p.primary (i / 64) (i % 64)] ++ (p.backup (i / 64) (i % 64)).toList else []
/-- The entries that name a peer named before. -/
def Plan.repeated (p : Plan) : List Nat → List Nat → List Nat
  | [], _ => []
  | i :: t, seen =>
    let mine := p.peersAt i
    if mine.any seen.contains ∨ !allDifferent mine then i :: Plan.repeated p t (mine ++ seen) else Plan.repeated p t (mine ++ seen)
/-- The blocks of the largest piece of a module with `live` owner cores (R355). -/
def Plan.largestPiece (p : Plan) (live : Nat) : Nat :=
  let (a, b) := p.shard p.ownSlot
  if live = 0 then 0 else (b - a + live - 1) / live
/-- The piece of owner core `c` of shard k, among the owner's live cores in ascending order: its first block and its number of blocks
(R355). -/
def Plan.piece (p : Plan) (k : Nat) (cores : List Nat) (c : Nat) : Nat × Nat :=
  let (a, b) := p.shard k
  let n := b - a
  let l := cores.length
  let i := cores.findIdx (· = c)
  if i < l then (a + i * (n / l) + min i (n % l), n / l + (if i < n % l then 1 else 0)) else (a, 0)
/-- The peer identifiers of the stage's holders (R350). -/
def Plan.holders (p : Plan) : List Nat :=
  (List.range p.slotCount).flatMap (fun k => p.primary p.ownStage k :: (p.backup p.ownStage k).toList)
/-- The plan bytes at which a plan is at fault (R351): version, reserved values, places, a peer named twice, a piece too
large; `bad` are the offsets delivered poisoned or refused. -/
def planFaults (bs : List Byte) (bad : List Nat) (live : Nat) : List Nat :=
  let p := planOf bs
  let at_ := fun (o : Nat) (c : Bool) => if c then [o] else []
  let range := fun (o n : Nat) => ((List.range n).map (o + ·)).filter (fun i => nth 0 bs i ≠ 0)
  bad ++ at_ 0 (decide (fieldAt bs 0 2 ≠ 1)) ++ at_ 2 (decide (p.stages = 0) || decide (p.stages > 64)) ++
  at_ 3 (decide (p.slotCount = 0) || decide (p.slotCount > 64)) ++ at_ 4 (decide (p.ownStage ≥ p.stages)) ++
  at_ 5 (decide (p.ownSlot ≥ p.slotCount)) ++ at_ 6 (decide (p.role > 1)) ++ at_ 7 (decide (p.policy > 2)) ++
  at_ 8 (decide (p.gather > 3)) ++ at_ 9 (decide (p.latePort > 35)) ++ range 10 6 ++
  at_ 32 (decide (p.entries % 64 ≠ 0) || decide (p.entries > 2 ^ 32) ||
    (decide (0 < p.slotCount) && decide (p.largestPiece live > 14528))) ++
  at_ 48 (decide (p.coll % 2 ^ 36 ≠ 0)) ++ range 56 200 ++
  ((List.range 4096).filter (fun i => !p.entryOk (i / 64) (i % 64))).map (fun i => 256 + 8 * i) ++
  (Plan.repeated p (List.range 4096) []).map (fun i => 256 + 8 * i)
/-- The smallest of a list of offsets. -/
def leastOf : List Nat → Option Nat
  | [] => none
  | a :: t => some (t.foldl min a)

/-- The plan in force and what its patterns carry, when the library runs. -/
def State.plan? (s : State) : Option (Plan × Layout) :=
  if s.coll.stopped then none else s.coll.plan.bind (fun p => s.coll.layout.map (fun l => (p, l)))
/-- The vote core (R360). -/
def State.voteCore (s : State) : Option Nat := s.liveCores.head?
/-- What is known of another module. -/
def mateOf (l : Layout) (peer : Nat) : Option Mate := l.mates.find? (fun x => x.peer.toNat = peer)
/-- The live cores of the owner of slot k: this module's own, or as its patterns have those of another. -/
def State.slotCores (s : State) (p : Plan) (l : Layout) (k : Nat) : List Nat :=
  let o := p.primary p.ownStage k
  if o = s.ownPeer then s.liveCores else match mateOf l o with
    | some x => x.cores.map (·.val)
    | none => []
/-- Where the collective area of a module begins, as this one reaches it (R361). -/
def State.areaOf (s : State) (p : Plan) (l : Layout) (peer : Nat) : Option Nat :=
  if peer = s.ownPeer then some p.coll else (mateOf l peer).map (fun x => x.base.toNat)
/-- The piece of one of this module's own cores as owner; none for a backup. -/
def State.ownPiece (s : State) (p : Plan) (c : Nat) : Nat × Nat := if p.role = 0 then p.piece p.ownSlot s.liveCores c else (0, 0)
/-- Has an owner core a piece? -/
def State.ownsPiece (s : State) (p : Plan) (c : Nat) : Bool := decide (0 < (s.ownPiece p c).2)
/-- The owner cores of the module. -/
def State.ownerCores (s : State) (p : Plan) : List Nat := s.liveCores.filter (s.ownsPiece p)

/-! ## Thinning and widening (Tables 14.3, 14.4, 14.7, R357, R358, R362) -/

/-- An FP32 value with its poison mark. -/
abbrev Fp := Nat × Bool
/-- A thinned block: its scale code, its 64 signs, and the errors left. -/
structure Thinned where
  code : Nat
  signs : Nat
  err : List Fp
  deriving DecidableEq, Repr

/-- The FP32 bits of (−1)^σ × 2^(c − 127), for c = 1 to 254. -/
def signedScale (sigma : Bool) (c : Nat) : Nat := (if sigma then 2 ^ 31 else 0) + c * 2 ^ 23
/-- The scale code of a mean magnitude (Table 14.3, steps 4 and 5). -/
def scaleCode (a : Nat) : Nat :=
  if a % 2 ^ 31 = 0 then 0
  else max 1 (min 254 (bitsOf a 30 23 + (if bitsOf a 22 0 ≥ 0x3504F3 then 1 else 0)))
/-- The signs of a block's entries. -/
def signsOf (xs : List Fp) : Nat := xs.zipIdx.foldl (fun v x => if bitOf x.1.1 31 then v + 2 ^ x.2 else v) 0
/-- Thinning of one block (R357). -/
def thinBlock (g e : List Fp) : Thinned :=
  let xs : List Fp := (g.zip e).map (fun x => (fadd x.1.1 x.2.1, x.1.2 || x.2.2))
  if xs.any (fun x => x.2 || (val32 x.1).isNonFinite) then ⟨0xFF, 0, e⟩
  else
    let sum := xs.foldl (fun v x => addVal v (absVal (val32 x.1))) (.fin false 0 0)
    let c := scaleCode (fp32 (mulVal sum (.fin false 1 (-6))))
    if c = 0 then ⟨0, 0, xs⟩
    else ⟨c, signsOf xs, xs.map (fun x => (fsub x.1 (signedScale (bitOf x.1 31) c), false))⟩
/-- What the vector unit writes in thinning a block (R359): x, its E4M3 copy and e', as elements with whether each counts as
non-finite (R240). Where the copy lies is not given. -/
def thinWrites (g e : List Fp) : List (OutElem × Bool) :=
  let xs : List Fp := (g.zip e).map (fun x => (fadd x.1.1 x.2.1, x.1.2 || x.2.2))
  let t := thinBlock g e
  xs.map (fun x => outElem .fp32 .rne (val32 x.1) x.2) ++ xs.map (fun x => outElem .e4m3 .rne (val32 x.1) x.2) ++
  (if t.code = 0xFF ∨ t.code = 0 then [] else t.err.map (fun x => outElem .fp32 .rne (val32 x.1) x.2))
/-- The groups of a thinned piece (R358). -/
def thinnedBytes (ts : List Thinned) : List Byte :=
  (chunks 64 ts.length ts).flatMap (fun g =>
    g.map (fun t => BitVec.ofNat 8 t.code) ++ List.replicate (64 - g.length) 0 ++
    g.flatMap (fun t => natLe 8 t.signs) ++ List.replicate (8 * (64 - g.length)) 0)
/-- Bytes of a thinned piece of n blocks. -/
def thinnedSize (n : Nat) : Nat := (n + 63) / 64 * 576
/-- The digest of R362. -/
def thinnedDigest (bs : List Byte) : Nat :=
  (chunks 8 bs.length bs).foldl (fun h w => ((h ^^^ leNat w) * 0x9E3779B97F4A7C15) % 2 ^ 64) 0
/-- The scale code of block b of a piece, with its mark. -/
def codeAt (d : List (Byte × Bool)) (b : Nat) : Nat × Bool :=
  let x := nth (0, false) d (576 * (b / 64) + b % 64)
  (x.1.toNat, x.2)
/-- The sign of entry j of block b, with its mark. -/
def signAt (d : List (Byte × Bool)) (b j : Nat) : Bool × Bool :=
  let x := nth (0, false) d (576 * (b / 64) + 64 + 8 * (b % 64) + j / 8)
  (x.1.getLsbD (j % 8), x.2)
/-- The MXFP8 element and scale byte of an entry (Table 14.7). -/
def widened (code : Nat) (sigma : Bool) : Nat × Nat :=
  if code = 0 then (0x00, 0x7F) else if code = 0xFF then (0x00, 0xFF) else (if sigma then 0xB8 else 0x38, code)
/-- The value a ledger takes for entry j of block b of a copy: the widened element times its scale (R21, R364). -/
def Copy.term (y : Copy) (b j : Nat) : Ledger :=
  let (c, cm) := codeAt y.data b
  let (g, gm) := signAt y.data b j
  let (el, sc) := widened c g
  LedgerOps.ofVal (cm || gm) (if sc = 0xFF then .nan else scaled (decode .e4m3 el) sc)
/-- The summed gradient S of entry j of block b over the taken copies (R364): exact, then one rounding. -/
def sumOf (ys : List Copy) (b j : Nat) : Word32 × Bool :=
  let d := LedgerOps.drain (ys.foldl (fun l (y : Copy) => LedgerOps.combine l (y.term b j)) LedgerOps.zero)
  (BitVec.ofNat 32 (if d.poison then Fmt.nanCode .fp32 else fp32 d.val), d.poison)

/-! ## Messages (Tables 14.5, 14.6, R360, R361) -/

/-- A collective message. -/
structure Message where
  kind : Nat
  code : Nat := 0
  attempt : Nat := 0
  peer : Nat := 0
  slot : Nat := 0
  step : Nat := 0
  blocks : Nat := 0
  first : Nat := 0
  digest : Nat := 0
  deriving DecidableEq, Repr
/-- Its 64 bytes. -/
def Message.bytes (m : Message) : List Byte :=
  natLe 1 m.kind ++ natLe 1 m.code ++ natLe 1 m.attempt ++ [0] ++ natLe 2 m.peer ++ natLe 2 m.slot ++ natLe 8 m.step ++
  natLe 4 m.blocks ++ natLe 4 m.first ++ natLe 8 m.digest ++ natLe 32 0
/-- A message from its bytes. -/
def Message.ofBytes (bs : List Byte) : Message :=
  let f := fieldAt bs
  { kind := f 0 1, code := f 1 1, attempt := f 2 1, peer := f 4 2 % 4096, slot := f 6 2, step := f 8 8, blocks := f 16 4,
    first := f 20 4, digest := f 24 8 }
/-- The message in a line of a core's local store, its bytes with their marks, and whether it is marked. -/
def State.messageAt (s : State) (c line : Nat) : Message × List (Byte × Bool) × Bool :=
  let bs := (s.core c).ls.readMarked (64 * line) 64
  (Message.ofBytes (bs.map (·.1)), bs, bs.any (·.2))
/-- The line is read (R70). -/
def State.readLine (s : State) (c line : Nat) : State := s.atCore c (fun e => e.touchLs (64 * line) 64)
/-- Offsets of Table 14.5. -/
def pieceOff (slot role core : Nat) : Nat := ((2 * slot + role) * 1024 + core) * 131072
/-- TOKEN line of a piece. -/
def tokenOff (slot role core : Nat) : Nat := 0x400000000 + core / 32 * 262144 + ((2 * slot + role) * 32 + core % 32) * 64
/-- VOTE line of a stage and slot. -/
def voteOff (stage slot : Nat) : Nat := 0x400800000 + (64 * stage + slot) * 64
/-- RECOMPUTE line of an owner slot. -/
def recomputeOff (slot : Nat) : Nat := 0x400C00000 + slot * 64
/-- PARAM line of an owner slot and core. -/
def paramOff (slot core : Nat) : Nat := 0x401000000 + core / 32 * 262144 + (slot * 32 + core % 32) * 64
/-- The verdict table. -/
def verdictOff : Nat := 0x401800000

/-- The units through which the library accesses memory. -/
def Src.isLib : Src → Bool
  | .lib _ => true
  | _ => false
/-- Reads bytes as the library does on core c. -/
def State.libRead (s : State) (ans : List PeerAnswer) (c a n : Nat) : List (Byte × Bool) × State :=
  let (bs, _, s) := (s.needRange (guildOf c) (masterId 1 c) a n false).readRange (.lib c) (masterId 1 c) a n ans
  (bs, s)
/-- Writes bytes as the library does on core c, in a class. -/
def State.libWrite (s : State) (c cls a : Nat) (bs : List (Byte × Bool)) : State :=
  let (bad, s) := (s.needRange (guildOf c) (masterId 2 c) a bs.length true).writeRange (.lib c) (masterId 2 c) cls a bs
  s.countCore c 0x058 bad.length
/-- What the engines count and raise for elements written for the library on core c (R240, R478): each non-finite or saturated one,
and each poisoned one, of whose micro-op the manual gives no place (log 23). -/
def State.libWrote (s : State) (c : Nat) (outs : List (OutElem × Bool)) : State :=
  let s := s.atCore c (fun e => e.addNf (outs.filter (·.2)).length)
  (outs.filter (fun x => x.1.2)).foldl (fun (s : State) _ =>
    let (a, s) := s.takeFree
    let (b, s) := s.takeFree
    s.atCore c (fun e => e.raise 0x10 [a, b])) s
/-- Sends 64 bytes from core c once the accesses `after` have been acknowledged. -/
def State.sendLine (s : State) (c : Nat) (dst : Target) (bs : List (Byte × Bool)) (after : List Nat) : State :=
  let t : Txn := { id := s.nextTxn, src := .lib c, owner := 0, master := masterId 2 c, cls := 2, write := true, target := dst,
                   runs := [(0, bs)], after := after }
  let s := s.addTxn t
  if s.mustWait t then s else s.translate t
/-- Sends a message from core c once the accesses `after` have been acknowledged. -/
def State.sendMessage (s : State) (c : Nat) (dst : Target) (m : Message) (after : List Nat) : State :=
  s.sendLine c dst (markAll false m.bytes) after
/-- The accesses of core c's library made since access number `from`. -/
def State.libSince (s : State) (c first : Nat) : List Nat :=
  (s.txns.filter (fun t => t.src = .lib c && decide (first ≤ t.id))).map (·.id)
/-- The core and local-store line that a line of the collective area lands in (R347, R360). -/
def State.lineOf (s : State) (dva : Nat) : Option (Nat × Nat) := (s.landing? dva).map (fun x => (x.1, x.2.1 / 64))
/-- A message to a line of a module's collective area: to the module itself straight to the core and line that its landing entry names
(R361), to another through its pages. -/
def State.sendTo (s : State) (p : Plan) (l : Layout) (c peer off : Nat) (m : Message) (after : List Nat) : State :=
  if peer = s.ownPeer then match s.lineOf (p.coll + off) with
    | some (d, n) => s.sendMessage c (.core d (64 * n)) m after
    | none => s
  else match mateOf l peer with
    | some x => s.sendMessage c (.dva ((x.base.toNat + off) / 64 * 64)) m after
    | none => s

/-! ## Contributions (R354 to R361) -/

/-- FP32 values of marked bytes. -/
def fpsOf (bs : List (Byte × Bool)) : List Fp :=
  (chunks 4 bs.length bs).map (fun x => (leNat (x.map (·.1)), x.any (·.2)))
/-- Bytes of FP32 values. -/
def fpBytes (xs : List Fp) : List (Byte × Bool) := xs.flatMap (fun x => markAll x.2 (natLe 4 x.1))
/-- Error-memory buffer of a step (R356). -/
def Plan.buffer (p : Plan) (t : Nat) : Nat := p.emem + 4 * p.entries * (t % 2)
/-- Has a core completed every invocation it was given (R354)? -/
def CoreSt.scheduleDone (k : CoreSt) : Bool := k.invQueue.isEmpty && k.splitting.isNone && k.flights.isEmpty
/-- The reduction phase of the step begins (R366): each owner core reads C0 through its counter 255. -/
def State.beginPhase (s : State) (p : Plan) : State :=
  if s.coll.began ≠ [] then s
  else { s with coll := { s.coll with
    began := (s.ownerCores p).foldl (fun (t : Tab Nat) c => t.set c ((s.counterWord c 255).toNat % 2 ^ 48)) [] } }
/-- The error memory a step reads: zeros in the first one. -/
def State.readError (s : State) (ans : List PeerAnswer) (p : Plan) (c t first n : Nat) : List (Byte × Bool) × State :=
  if t = p.step0 then (markAll false (List.replicate (256 * n) (0 : Byte)), s)
  else s.libRead ans c (p.buffer t + 256 * first) (256 * n)
/-- A piece thinned on core c: its new errors and its thinned form written, its TOKEN sent (R356 to R362). -/
def State.sendPiece (s : State) (ans : List PeerAnswer) (p : Plan) (l : Layout) (c k q area first n attempt : Nat) : State :=
  let t := s.coll.step
  let gs := s.libRead ans c (l.gradient.toNat + 256 * first) (256 * n)
  let es := gs.2.readError ans p c t first n
  let xs := (chunks 64 (64 * n) (fpsOf gs.1)).zip (chunks 64 (64 * n) (fpsOf es.1))
  let ts := xs.map (fun y => thinBlock y.1 y.2)
  let s0 := es.2.libWrote c (xs.flatMap (fun y => thinWrites y.1 y.2))
  let s1 := s0.libWrite c 0 (p.buffer (t + 1) + 256 * first) (fpBytes (ts.flatMap (·.err)))
  let bs := thinnedBytes ts
  let m : Message := { kind := 1, code := p.role, attempt := attempt, peer := s.ownPeer, slot := p.ownSlot, step := t, blocks := n,
                       first := first, digest := thinnedDigest bs }
  let s2 := s1.libWrite c 2 (area + pieceOff p.ownSlot p.role q) (markAll false bs)
  let s3 := s2.sendTo p l c (p.primary p.ownStage k) (tokenOff p.ownSlot p.role q) m (s2.libSince c s1.nextTxn)
  { s3 with coll := { s3.coll with thinned := if s3.coll.thinned.contains (first, n) then s3.coll.thinned else s3.coll.thinned ++ [(first, n)] } }
/-- The contribution of this module to owner core q of slot k, thinned on core c (R360). -/
def State.contribute (s : State) (ans : List PeerAnswer) (p : Plan) (l : Layout) (c k q attempt : Nat) : State :=
  let x := p.piece k (s.slotCores p l k) q
  match s.areaOf p l (p.primary p.ownStage k) with
  | some area => if k < p.slotCount ∧ 0 < x.2 then (s.beginPhase p).sendPiece ans p l c k q area x.1 x.2 attempt else s
  | none => s

/-! ## The owner's exact sum and staged update (R364, R365) -/

/-- The summed gradient of a piece of n blocks. -/
def sumsOf (ys : List Copy) (n : Nat) : List (Word32 × Bool) := (List.range (64 * n)).map (fun i => sumOf ys (i / 64) (i % 64))
/-- What the drain writes for them (R364, R240). -/
def sumWrites (ss : List (Word32 × Bool)) : List (OutElem × Bool) :=
  ss.map (fun x => ((x.1.toNat, x.2), x.2 || (val32 x.1.toNat).isNonFinite))
/-- The update rule of a layout. -/
def layoutRule (l : Layout) : UpdRule :=
  let f := fun (half : Bool) => if half then 2 else 1
  ⟨0x40 + l.rule.val, l.stochastic, f l.wHalf, f l.mHalf, f l.vHalf⟩
/-- Sixteen-bit elements of marked bytes. -/
def halfElem (half : Bool) (bs : List (Byte × Bool)) (i : Nat) : Elem :=
  let x := (bs.drop (2 * i)).take 2
  (decode (if half then .fp16 else .bf16) (leNat (x.map (·.1))), x.any (·.2))
/-- The update of a piece by rows of 64 entries, one block a row, blocks ascending (R365): the outputs of each entry, whether it
counts (R240), and the core after its draws. -/
def Eff.updPiece (e : Eff) (l : Layout) (ss : List (Word32 × Bool)) (w m v hy : List (Byte × Bool)) : List (List UpdOut × Bool) × Eff :=
  let h := fun (i : Nat) => let x := (hy.drop (4 * i)).take 4; ((val32 (leNat (x.map (·.1))), x.any (·.2)) : Elem)
  ss.zipIdx.foldl (fun (acc : List (List UpdOut × Bool) × Eff) x =>
    let r := acc.2.updElem (layoutRule l) (x.2 % 64) (halfElem l.wHalf w x.2) (halfElem l.mHalf m x.2) (halfElem l.vHalf v x.2)
      (val32 x.1.1.toNat, x.1.2) h
    (acc.1 ++ [(r.1, r.2.1)], r.2.2)) ([], e)
/-- One of the outputs of a piece, W', m' or v', as bytes. -/
def outBytes (outs : List (List UpdOut × Bool)) (i : Nat) : List (Byte × Bool) :=
  outs.flatMap (fun x => match x.1[i]? with
    | some u => markAll u.out.2 (natLe 2 u.out.1)
    | none => [])
/-- Masters in the order of the outputs. -/
def mastersOf (x : Masters) (rule : Nat) : List Nat := [x.w.toNat, x.m.toNat, x.v.toNat].take (rule + 1)
/-- The staged update of an owner core's piece over the copies taken (R364, R365): S is drained, the generators are saved before
the first update of the step and are as saved before any other (R244, log 22), and W', m' and v' go to staging. -/
def State.stageUpdate (s : State) (ans : List PeerAnswer) (p : Plan) (l : Layout) (c : Nat) (ys : List Copy) : State :=
  let (first, n) := s.ownPiece p c
  let ss := sumsOf ys n
  let gen := (s.coll.generators.find c).getD (s.core c).lanes
  let s := s.libWrote c (sumWrites ss)
  let s := s.atCore c (fun e => { e with k := { e.k with lanes := gen } })
  let rd := fun (x : List (List (Byte × Bool)) × State) (a : Nat) =>
    let y := x.2.libRead ans c (a + 128 * first) (128 * n)
    (x.1 ++ [y.1], y.2)
  let src := (mastersOf l.home l.rule).foldl rd ([], s)
  let hy := src.2.libRead ans c l.hyper.toNat 48
  let (outs, e) := (Eff.mk c (hy.2.core c) []).updPiece l ss (nth [] src.1 0) (nth [] src.1 1) (nth [] src.1 2) hy.1
  let s := hy.2.atCore c (fun x => { x with k := { x.k with lanes := e.k.lanes } })
  let s := s.libWrote c (outs.map (fun x => ((0, x.1.any (fun u => u.out.2)), x.2)))
  let s := ((mastersOf l.staging l.rule).zipIdx).foldl (fun (s : State) x => s.libWrite c 0 (x.1 + 128 * first) (outBytes outs x.2)) s
  { s with coll := { s.coll with sums := s.coll.sums.set c ss, generators := s.coll.generators.set c gen,
                                 staged := idxAdd s.coll.staged c } }

/-! ## Copies (R363, R366, R367) -/

/-- Key of an owner core and slot. -/
def pairKey (c k : Nat) : Nat := 64 * c + k
/-- The copy of a role held at an owner core for the step. -/
def Collective.present (x : Collective) (c k r : Nat) : Option Copy :=
  x.copies.find? (fun (y : Copy) => y.core = c && y.slot = k && y.role = r && y.step = x.step)
/-- The last copy of a role that came to an owner core, of whatever step its TOKEN names but a later one. -/
def Collective.copy (x : Collective) (c k r : Nat) : Option Copy :=
  x.copies.find? (fun (y : Copy) => y.core = c && y.slot = k && y.role = r && decide (y.step ≤ x.step))
/-- Do two TOKENs agree (R367)? -/
def Copy.agrees (a b : Copy) : Bool := a.digest = b.digest && a.blocks = b.blocks && a.first = b.first && a.step = b.step
/-- The role an owner core takes a slot's copy from, as things stand (R363, R366, Table 14.8). A primary whose copy is poisoned is
treated as late; then the backup's copy is taken if it is there, else whichever comes first, a poisoned one only when no clean one is
there (log 22). -/
def Collective.choose (x : Collective) (c k : Nat) (hasBackup : Bool) : Option Nat :=
  let key := pairKey c k
  let clean := fun (r : Nat) => (x.present c k r).any (fun y => !y.poison)
  let there := fun (r : Nat) => (x.present c k r).isSome
  if x.recomputing.contains key then none
  else if x.diverged.contains key then some 0
  else match x.taken.find key with
    | some r => some r
    | none =>
      if !hasBackup then (if there 0 then some 0 else none)
      else if clean 0 ∧ !x.late.contains key then some 0
      else if x.late.contains key ∨ there 0 then
        (if clean 1 then some 1 else if clean 0 then some 0 else if there 1 then some 1 else none)
      else none
/-- The copies an owner core has taken, when it has one for every slot. -/
def Collective.takenCopies (x : Collective) (c slots : Nat) : Option (List Copy) :=
  let ys := (List.range slots).filterMap (fun k => (x.taken.find (pairKey c k)).bind (fun r => x.copy c k r))
  if ys.length = slots then some ys else none
/-- A slot of an owner core is settled: its copy taken if one is chosen, and the update staged once every slot is taken. -/
def State.settleSlot (s : State) (ans : List PeerAnswer) (p : Plan) (l : Layout) (c k : Nat) : State :=
  let x := s.coll
  let key := pairKey c k
  match x.choose c k (p.backup p.ownStage k).isSome with
  | some r =>
    if x.taken.find key = some r ∧ x.staged.contains c then s
    else
      let s : State := { s with coll := { x with taken := x.taken.set key r } }
      (match s.coll.takenCopies c p.slotCount with
       | some ys => s.stageUpdate ans p l c ys
       | none => s)
  | none => { s with coll := { x with taken := x.taken.erase key, staged := idxDel x.staged c } }
/-- The slots of an owner core for which a copy is there are settled, once the reduction phase has begun (R366). -/
def State.settleCore (s : State) (ans : List PeerAnswer) (p : Plan) (l : Layout) (c : Nat) : State :=
  if s.coll.voted ∨ (s.coll.began.find c).isNone then s
  else (List.range p.slotCount).foldl (fun (s : State) k => s.settleSlot ans p l c k) s
/-- The owner cores that hold copies for the step. -/
def Collective.coresReached (x : Collective) : List Nat :=
  ((x.copies.filter (fun (y : Copy) => y.step = x.step)).map (·.core)).eraseDups

/-- DIVERGENCE (R367). -/
def State.divergence (s : State) (p : Plan) (c k : Nat) (a b : Copy) : State :=
  s.raise 0x52 [wd s.coll.step, wd (k + p.policy * 256 + (if s.coll.voted then 65536 else 0) + c * 2 ^ 32), wd a.digest, wd b.digest]
/-- RECOMPUTE sent to both contributors of a slot (Table 14.8). -/
def State.askAgain (s : State) (p : Plan) (l : Layout) (c k : Nat) : State :=
  let m : Message := { kind := 3, peer := s.ownPeer, slot := p.ownSlot, step := s.coll.step }
  (p.primary p.ownStage k :: (p.backup p.ownStage k).toList).foldl (fun (s : State) q =>
    s.sendTo p l c q (recomputeOff p.ownSlot) m []) s
/-- Compares the two copies of a slot and acts by the policy (R367, Table 14.8). -/
def State.compareCopies (s : State) (p : Plan) (l : Layout) (c k : Nat) : State :=
  let x := s.coll
  let key := pairKey c k
  match x.copy c k 0, x.copy c k 1 with
  | some a, some b =>
    let again := x.recomputing.contains key
    if again ∧ !(a.attempt = 1 ∧ b.attempt = 1) then s
    else if a.agrees b then { s with coll := { x with recomputing := idxDel x.recomputing key } }
    else
      let s := s.divergence p c k a b
      if x.voted then s
      else if p.policy = 2 ∧ !again ∧ a.attempt = 0 ∧ b.attempt = 0 then
        { s with coll := { x with recomputing := idxAdd x.recomputing key } }.askAgain p l c k
      else { s with coll := { x with recomputing := idxDel x.recomputing key, diverged := idxAdd x.diverged key,
                                     holdDivergence := x.holdDivergence || decide (p.policy ≠ 1) } }
  | _, _ => s
/-- A TOKEN's copy joins those present (R363): the thinned form of the core's piece is read from the collective area. -/
def State.takeToken (s : State) (ans : List PeerAnswer) (p : Plan) (c : Nat) (m : Message) (mark : Bool) : State :=
  let x := s.libRead ans c (p.coll + pieceOff m.slot m.code c) (thinnedSize (s.ownPiece p c).2)
  let d := x.1
  let y : Copy := { core := c, slot := m.slot, role := m.code, attempt := m.attempt, step := m.step, blocks := m.blocks, first := m.first,
                    digest := m.digest, data := if mark then d.map (fun b => (b.1, true)) else d, poison := mark || d.any (·.2) }
  let later := decide (s.coll.step < m.step)
  let old := s.coll.copies.filter (fun (z : Copy) => !(z.core = c && z.slot = m.slot && z.role = m.code &&
    decide (s.coll.step < z.step) = later))
  { x.2 with coll := { s.coll with copies := old ++ [y] } }

/-! ## Votes, commit and the step's end (R368 to R370, R372) -/

/-- The step's records cleared, for step t; copies of later steps stay. -/
def Collective.fresh (x : Collective) (t : Nat) : Collective :=
  { plan := x.plan, layout := x.layout, step := t, stopped := x.stopped,
    copies := x.copies.filter (fun (y : Copy) => decide (x.step < y.step)) }
/-- Do pieces cover the stage? -/
def Plan.covered (p : Plan) (l : List (Nat × Nat)) : Bool := decide (p.blocks ≤ l.foldl (fun n y => n + y.2) 0)
/-- The boundary of the step, once it is committed, every block of the stage is widened and the errors of every block are written
(R372). That a backup receives parameters shows it the commit. -/
def State.boundary (s : State) (p : Plan) : State :=
  let x := s.coll
  if (x.committed ∨ p.role = 1) ∧ p.covered x.widened ∧ p.covered x.thinned then { s with coll := x.fresh (x.step + 1) } else s
/-- The verdict of R368. -/
def State.verdict (s : State) (p : Plan) : Nat :=
  if (s.ownerCores p).any (fun c => (s.core c).evPending.getLsbD 2) then 1
  else if (s.ownerCores p).any (fun c => (s.core c).evPending.getLsbD 3) then 2
  else if s.coll.holdDivergence then 3
  else 0
/-- The indices of the job's owners. -/
def Plan.owners (p : Plan) : List Nat := (List.range 4096).filter (fun i => (p.slots.get 0 i).getLsbD 63)

/-- A parameter block's MXFP8 form (R370): elements and scale bytes of each run of 32, and what is written. -/
def packParams (f : Fmt) (half : Bool) (ws : List (Byte × Bool)) : List (Byte × Bool) × List (Byte × Bool) × List (OutElem × Bool) :=
  let vals := (List.range (ws.length / 2)).map (fun i => (halfElem half ws i, Mode.rne))
  let outs := (chunks 32 vals.length vals).map (convertBlock f)
  (outs.flatMap (fun b => b.els.map (fun x => (BitVec.ofNat 8 x.bits, b.mark))), outs.map (fun b => (BitVec.ofNat 8 b.scale, b.mark)),
   outs.flatMap (fun b => b.els.map (fun x => ((x.bits, b.mark), decide (b.nf = 32) || x.ovfl))))
/-- Bytes of a block's elements in the plan's parameter form. -/
def Plan.paramBytes (p : Plan) : Nat := if p.gather < 2 then 128 else 64
/-- Where block `b`'s elements and scales lie in a collective area (Table 14.5). -/
def Plan.paramOffs (p : Plan) (b : Nat) : Nat × Nat := (0x800000000 + p.paramBytes * b, 0x600000000 + 2 * b)
/-- The committed parameters of core c's piece go to every holder, each followed by its PARAM (R370). -/
def State.sendParams (s : State) (p : Plan) (l : Layout) (c first n : Nat) (ws : List (Byte × Bool)) : State :=
  let mx := packParams (if p.gather = 2 then .e4m3 else .e5m2) l.wHalf ws
  let s := if p.gather < 2 then s else s.libWrote c mx.2.2
  let m : Message := { kind := 4, peer := s.ownPeer, slot := p.ownSlot, step := s.coll.step, blocks := n, first := first }
  p.holders.foldl (fun (s : State) q => match s.areaOf p l q with
    | some area =>
      let s1 := s.libWrite c 2 (area + (p.paramOffs first).1) (if p.gather < 2 then ws else mx.1)
      let s2 := if p.gather < 2 then s1 else s1.libWrite c 2 (area + (p.paramOffs first).2) mx.2.1
      s2.sendTo p l c q (paramOff p.ownSlot c) m (s2.libSince c s.nextTxn)
    | none => s) s
/-- An owner core commits (R369): what it staged becomes the live W, m and v, and its parameters are distributed. -/
def State.commitCore (s : State) (ans : List PeerAnswer) (p : Plan) (l : Layout) (c : Nat) : State :=
  let (first, n) := s.ownPiece p c
  let one := fun (x : List (List (Byte × Bool)) × State) (a : Nat × Nat) =>
    let y := x.2.libRead ans c (a.1 + 128 * first) (128 * n)
    (x.1 ++ [y.1], y.2.libWrite c 0 (a.2 + 128 * first) y.1)
  let done := ((mastersOf l.staging l.rule).zip (mastersOf l.home l.rule)).foldl one ([], s)
  done.2.sendParams p l c first n (nth [] done.1 0)
/-- The step commits on this module (R369, R370). -/
def State.commit (s : State) (ans : List PeerAnswer) (p : Plan) (l : Layout) : State :=
  let s := ((s.ownerCores p).filter s.coll.staged.contains).foldl (fun (s : State) c => s.commitCore ans p l c) s
  { s with coll := { s.coll with committed := true, held := false } }.boundary p

/-- The words of STEP_HELD (R369): the step, the first vote to hold, and how many votes of each kind there are. Where no vote to hold
has come to the module, whose it was is not given. -/
def State.heldWords (s : State) (p : Plan) : List Word × State :=
  let count := fun (k : Nat) => (s.coll.votes.filter (fun x : Nat × Nat => x.2 = k)).length
  let (w, s) := s.takeFree
  let who := match s.coll.votes.find? (fun x : Nat × Nat => x.2 ≠ 0) with
    | some x => x.1 / 64 + x.1 % 64 * 256 + x.2 * 65536
    | none => bitsOf w.toNat 23 0
  ([wd s.coll.step, wd (who + (p.owners.length - s.coll.votes.length) * 2 ^ 32), wd (count 1), wd (count 2), wd (count 3), wd (count 0)], s)
/-- The verdict table: one byte for each index (R369). -/
def Collective.verdictTable (x : Collective) : List Byte := (List.range 4096).map (fun i => BitVec.ofNat 8 ((x.votes.find i).getD 0xFF))
/-- The step is held: the verdict table, and STEP_HELD (R369). -/
def State.holdStep (s : State) (p : Plan) (c : Nat) : State :=
  let (ws, s) := (s.libWrite c 0 (p.coll + verdictOff) (markAll false s.coll.verdictTable)).heldWords p
  { s with coll := { s.coll with held := true } }.raise 0x53 ws
/-- The generators of owner cores as before the update (R244). -/
def State.restoreGenerators (s : State) (cores : List Nat) : State :=
  (s.coll.generators.filter (fun x : Nat × Tab (BitVec 128) => cores.contains x.1)).foldl (fun (s : State) (x : Nat × Tab (BitVec 128)) =>
    s.atCore x.1 (fun e => { e with k := { e.k with lanes := x.2 } })) s
/-- COMMIT_BACKUP (Table 14.9): each owner core with a divergent slot restores its generators, sums again with the backup's copy and
updates; then all commit. -/
def State.commitBackup (s : State) (ans : List PeerAnswer) (p : Plan) (l : Layout) : State :=
  let cores := (s.coll.diverged.map (· / 64)).eraseDups
  let x := s.coll.diverged.foldl (fun (x : Collective) k => { x with taken := x.taken.set k 1 }) s.coll
  let s : State := { s with coll := x }
  (cores.foldl (fun (s : State) c => match s.coll.takenCopies c p.slotCount with
    | some ys => s.stageUpdate ans p l c ys
    | none => s) (s.restoreGenerators cores)).commit ans p l

end Sys2Proof.Machine
end

