-- ==== Sys2Proof/Machine/CollectiveRows.lean ====
section
/-! DEFINITION. Meanings of the collective library's commands (14_distributed_training.md). Each is one step of the library as
shipped; the engines' own work on gradients, updates and parameters is that of their own commands (log 23). -/

namespace Sys2Proof.Machine

open Numbers

/-- The first fault of a plan as read (R351, R355), or of a core without access to counter 255 (R366). -/
def State.planFault (s : State) (bs : List (Byte × Bool)) : Option Nat :=
  let bad := (bs.zipIdx.filter (fun x => x.1.2)).map (·.2)
  let noRead := s.liveCores.any (fun d => !(s.core d).gauger.permits 255)
  leastOf (planFaults (bs.map (·.1)) bad s.liveCores.length ++ (if noRead then [9] else []))
/-- A plan as read takes effect, or PLAN_INVALID names its first fault. -/
def State.takePlan (s : State) (lay : Layout) (bs : List (Byte × Bool)) : State :=
  match s.planFault bs with
  | some o => s.raise 0x50 [wd o]
  | none =>
    let p := planOf (bs.map (·.1))
    { s with coll := { plan := some p, layout := some lay, step := p.step0 } }
/-- The reduction phase begins (R366), unless it has: the copies that are there are compared (R367) and taken. -/
def State.startPhase (s : State) (ans : List PeerAnswer) (p : Plan) (l : Layout) : State :=
  if s.coll.began ≠ [] then s
  else
    let s := s.beginPhase p
    (s.ownerCores p).foldl (fun (s : State) c =>
      ((List.range p.slotCount).foldl (fun (s : State) k => s.compareCopies p l c k) s).settleCore ans p l c) s
/-- PLAN_START (R351, R355, R366): the plan is read and checked; PLAN_INVALID names its first fault and starts nothing. -/
def execPlanStart (c : CoreId) (dva : BitVec 41) (lay : Layout) (s : State) : Out :=
  .next (s.withAnswers Src.isLib 2 (fun ans s =>
    if !s.coreRuns c then s else let x := s.libRead ans c dva.toNat 33024; x.2.takePlan lay x.1))
/-- CONTRIBUTION_SEND (R354, R356 to R361): once every core has completed its schedule, a piece is thinned and sent; the first one
begins the reduction phase, in which the copies that have come before are compared and taken. -/
def execContributionSend (c : CoreId) (slot : Fin 64) (owner : CoreId) (s : State) : Out :=
  .next (s.withAnswers Src.isLib 2 (fun ans s => match s.plan? with
    | some (p, l) =>
      if s.coreRuns c ∧ !s.coll.held ∧ s.liveCores.all (fun d => (s.core d).scheduleDone) ∧ slot.val < p.slotCount then
        (s.startPhase ans p l).contribute ans p l c slot owner 0
      else s
    | none => s))
/-- The TOKEN in line n of owner core c's local store is received (R363, R366, R367): its copy is present, compared with the other one
of its slot and taken if it may be, once the reduction phase has begun. -/
def State.receiveToken (s : State) (ans : List PeerAnswer) (p : Plan) (l : Layout) (c n slot role : Nat) : State :=
  let x := s.messageAt c n
  let m := x.1
  if !s.coreRuns c ∨ p.role ≠ 0 ∨ m.kind ≠ 1 ∨ m.code ≠ role ∨ m.slot ≠ slot ∨ slot ≥ p.slotCount ∨ m.attempt > 1 then s.readLine c n
  else
    let s := (s.readLine c n).takeToken ans p c m x.2.2
    if (s.coll.began.find c).isNone ∨ s.coll.step < m.step then s
    else (s.compareCopies p l c slot).settleCore ans p l c
/-- TOKEN_RECEIVE (R360, R363): the lead core in whose store the TOKEN landed relays it by a CORE STREAM to the owner core, whose
patterns take it from the line it is relayed to; a lead core that is the owner itself takes it where it landed. -/
def execTokenReceive (owner : CoreId) (slot : Fin 64) (role : Fin 2) (relayed : Bool) (s : State) : Out :=
  .next (s.withAnswers Src.isLib 2 (fun ans s => match s.plan? with
    | some (p, l) =>
      let line := (l.relay.val + 2 * slot.val + role.val) % 8192
      if relayed then s.receiveToken ans p l owner line slot role
      else match s.lineOf (p.coll + tokenOff slot role owner) with
        | some (d, n) =>
          if d = owner.val then s.receiveToken ans p l owner n slot role
          else if s.coreRuns d then (s.readLine d n).sendLine d (.core owner (64 * line)) (s.messageAt d n).2.1 []
          else s
        | none => s
    | none => s))
/-- SLOT_LATE (R366): the deadline passes and the primary's copy is absent or poisoned. -/
def execSlotLate (c : CoreId) (slot : Fin 64) (s : State) : Out :=
  .next (s.withAnswers Src.isLib 2 (fun ans s => match s.plan?, s.coll.began.find c with
    | some (p, l), some c0 =>
      let k := slot.val
      let now := (s.counterWord c 255).toNat % 2 ^ 48
      let there := (s.coll.present c k 0).any (fun y => !y.poison)
      if !s.coreRuns c ∨ p.role ≠ 0 ∨ p.lateCycles = 0 ∨ k ≥ p.slotCount ∨ (p.backup p.ownStage k).isNone ∨ s.coll.voted ∨
        s.coll.late.contains (pairKey c k) ∨ there ∨ (now + 2 ^ 48 - c0) % 2 ^ 48 < p.lateCycles then s
      else
        let s := s.raise 0x51 [wd s.coll.step, wd (k + c * 65536)]
        { s with coll := { s.coll with late := idxAdd s.coll.late (pairKey c k) } }.settleCore ans p l c
    | _, _ => s))
/-- RECOMPUTE (R367): a contributor asked by the owner of a slot thins a piece of its again, from the g and e it has kept, and sends it
with attempt 1. -/
def execRecompute (c : CoreId) (slot : Fin 64) (owner : CoreId) (s : State) : Out :=
  .next (s.withAnswers Src.isLib 2 (fun ans s => match s.plan? with
    | some (p, l) => match s.lineOf (p.coll + recomputeOff slot) with
      | some (d, n) =>
        let (m, _, mark) := s.messageAt d n
        let s1 := s.readLine d n
        if s.coreRuns c ∧ !mark ∧ m.kind = 3 ∧ m.step = s.coll.step ∧ m.slot = slot.val ∧ !s.coll.held then s1.contribute ans p l c slot owner 1
        else s1
      | none => s
    | none => s))
/-- The vote of the module goes to its line in every primary of the job, itself included (R368, R361). -/
def State.sendVotes (s : State) (p : Plan) (l : Layout) (v : Nat) : State :=
  let m : Message := { kind := 2, code := s.verdict p, peer := s.ownPeer, slot := p.ownSlot, step := s.coll.step }
  p.owners.foldl (fun (s : State) i => s.sendTo p l v (p.primary (i / 64) (i % 64)) (voteOff p.ownStage p.ownSlot) m []) s
/-- VOTE_SEND (R368): once the staged update of every owner core is complete. -/
def execVoteSend (s : State) : Out :=
  .next (match s.plan?, s.voteCore with
    | some (p, l), some v =>
      if !s.coreRuns v ∨ p.role ≠ 0 ∨ s.coll.voted ∨ !(s.ownerCores p).all s.coll.staged.contains then s
      else
        let s := s.sendVotes p l v
        { s with coll := { s.coll with voted := true } }
    | _, _ => s)
/-- A vote received (R369): the first HOLD holds the step, OK votes from all owners commit it. -/
def State.takeVote (s : State) (ans : List PeerAnswer) (p : Plan) (l : Layout) (v i code : Nat) : State :=
  let s : State := { s with coll := { s.coll with votes := s.coll.votes.set i code } }
  if s.coll.held then s
  else if code ≠ 0 then s.holdStep p v
  else if p.role = 0 ∧ p.owners.all (fun j => s.coll.votes.find j = some 0) then s.commit ans p l
  else s
/-- VOTE_RECEIVE (R369): the vote of the owner of a stage and slot, in its line of the vote core. -/
def execVoteReceive (stage slot : Fin 64) (s : State) : Out :=
  .next (s.withAnswers Src.isLib 2 (fun ans s => match s.plan? with
    | some (p, l) => match s.lineOf (p.coll + voteOff stage slot) with
      | some (v, n) =>
        let (m, _, mark) := s.messageAt v n
        let i := 64 * stage.val + slot.val
        let s1 := s.readLine v n
        if !s.coreRuns v then s
        else if mark ∨ m.kind ≠ 2 ∨ m.code > 3 ∨ m.step ≠ s.coll.step ∨ !p.owners.contains i ∨ m.peer ≠ p.primary stage slot ∨ m.slot ≠ slot.val ∨
          s.coll.committed then s1
        else s1.takeVote ans p l v i m.code
      | none => s
    | none => s))
/-- The host's decision on a held step is carried out (Table 14.9). -/
def State.carryOut (s : State) (ans : List PeerAnswer) (p : Plan) (l : Layout) : Nat → State
  | 1 => s.commit ans p l
  | 2 => s.commitBackup ans p l
  | 3 =>
    let s := s.restoreGenerators s.liveCores
    { s with coll := s.coll.fresh s.coll.step }
  | 4 => { s with coll := { s.coll with stopped := true } }
  | _ => s
/-- HELD_STEP_DECISION (R369, Table 14.9): the value of the vote core's mailbox. A backup, to which no vote is sent, holds the step when
the decision comes (log 58). -/
def execHeldStepDecision (s : State) : Out :=
  .next (s.withAnswers Src.isLib 2 (fun ans s => match s.plan?, s.voteCore with
    | some (p, l), some v =>
      let w := (s.core v).mailbox
      let code := wField w 63 56
      if !s.coreRuns v ∨ !(s.coll.held ∨ p.role = 1) ∨ wField w 47 0 ≠ s.coll.step % 2 ^ 48 ∨ code = 0 ∨ 4 < code then s
      else (if s.coll.held then s else s.holdStep p v).carryOut ans p l code
    | _, _ => s))

/-- The parameter of entry j of block b in the form of the plan (R370), its mark, and its bits as received. -/
def paramAt (gather : Nat) (els scs : List (Byte × Bool)) (j : Nat) : Val × Bool × Nat :=
  if gather < 2 then
    let x := (els.drop (2 * j)).take 2
    let v := leNat (x.map (·.1))
    (decode (if gather = 0 then .bf16 else .fp16) v, x.any (·.2), v)
  else
    let x := nth (0, false) els j
    let sc := nth (0, false) scs (j / 32)
    (if sc.1 = 0xFF then .nan else scaled (decode (if gather = 2 then .e4m3 else .e5m2) x.1.toNat) sc.1.toNat, x.2 || sc.2, x.1.toNat)
/-- A block of the working copy (R371), its elements with whether each counts (R240): the stage's format from the received form; the
same format is moved unchanged and counts nothing. -/
def widenParams (gather form : Nat) (els scs : List (Byte × Bool)) : List (OutElem × Bool) :=
  let f : Fmt := match form with | 0 => .fp32 | 1 => .bf16 | _ => .fp16
  (List.range 64).map (fun j =>
    let (v, bad, raw) := paramAt gather els scs j
    if (gather = 0 ∧ form = 1) ∨ (gather = 1 ∧ form = 2) then ((raw, bad), false) else outElem f .rne v bad)
/-- Bytes of `n` blocks' scales in the plan's parameter form. -/
def Plan.scaleBytes (p : Plan) (n : Nat) : Nat := if p.gather < 2 then 0 else 2 * n
/-- Bytes of an element of the working copy. -/
def wideBytes (form : Nat) : Nat := if form = 0 then 4 else 2
/-- Blocks `first` to `first + n - 1` widened into the working copy (R371). -/
def State.widen (s : State) (ans : List PeerAnswer) (p : Plan) (l : Layout) (c first n : Nat) : State :=
  let x := s.libRead ans c (p.coll + (p.paramOffs first).1) (p.paramBytes * n)
  let y := x.2.libRead ans c (p.coll + (p.paramOffs first).2) (p.scaleBytes n)
  let outs := (List.range n).flatMap (fun b => widenParams p.gather l.form ((x.1.drop (p.paramBytes * b)).take p.paramBytes)
    ((y.1.drop (2 * b)).take 2))
  let w := wideBytes l.form
  let s1 := (y.2.libWrote c outs).libWrite c 0 (l.working.toNat + 64 * w * first) (outs.flatMap (fun o => markAll o.1.2 (natLe w o.1.1)))
  { s1 with coll := { s1.coll with widened := s1.coll.widened ++ [(first, n)] } }.boundary p
/-- PARAM_RECEIVE (R370, R371, R372): the blocks that the PARAM of an owner core names are widened into the working copy by the lead core
in whose line it landed. -/
def execParamReceive (slot : Fin 64) (owner : CoreId) (s : State) : Out :=
  .next (s.withAnswers Src.isLib 2 (fun ans s => match s.plan? with
    | some (p, l) => match s.lineOf (p.coll + paramOff slot owner) with
      | some (c, n) =>
        let (m, _, mark) := s.messageAt c n
        let s1 := s.readLine c n
        if !s.coreRuns c then s
        else if mark ∨ m.kind ≠ 4 ∨ m.step ≠ s.coll.step ∨ m.slot ≠ slot.val ∨ slot.val ≥ p.slotCount ∨ m.blocks > 14528 ∨
          m.first + m.blocks > p.blocks ∨ s.coll.widened.contains (m.first, m.blocks) then s1
        else s1.widen ans p l c m.first m.blocks
      | none => s
    | none => s))

/-- The 1,024-byte generator image of a core (R231). -/
def CoreSt.generatorImage (k : CoreSt) : List Byte := (List.range 64).flatMap (fun l => natLe 16 (k.lane l).toNat)
/-- The generators a core loads from an image (R231): a marked lane keeps its state and raises its event. -/
def Eff.loadGenerators (e : Eff) (im : List (Byte × Bool)) : Eff :=
  (List.range 64).foldl (fun (e : Eff) l =>
    let x := (im.drop (16 * l)).take 16
    let v := leNat (x.map (·.1))
    if x.any (·.2) then e.raise 0x0E [wd (e.id + l * 65536)]
    else { e with k := { e.k with lanes := e.k.lanes.set l (if v = 0 then laneSeed 0 0 l else BitVec.ofNat 128 v) } }) e
/-- Is the module at a step boundary, with no contribution, vote or parameter transfer in flight and no move under way (R373)? -/
def State.quietLib (s : State) : Bool :=
  let x := s.coll
  x.copies.isEmpty && x.votes.isEmpty && !x.voted && !x.held && x.began.isEmpty && x.thinned.isEmpty && x.widened.isEmpty &&
  x.permute.isNone && !s.txns.any (fun t => t.src.isLib)
/-- The runs of a move copied on core c. -/
def State.copyRuns (s : State) (ans : List PeerAnswer) (c : Nat) (runs : List (BitVec 41 × BitVec 41 × Nat)) : List (Byte × Bool) × State :=
  runs.foldl (fun (acc : List (Byte × Bool) × State) r =>
    let x := acc.2.libRead ans c r.1.toNat r.2.2
    (acc.1 ++ x.1, x.2.libWrite c 2 r.2.1.toNat x.1)) ([], s)
/-- Phase 1 of a move: its blocks, and the generator image of a whole-core move, written into the destination's staging, and the TOKEN
sent to the destination's lead core after them (R374, R375). -/
def State.moveOver (s : State) (ans : List PeerAnswer) (p : Plan) (l : Layout) (m : Move) : State :=
  let c := m.core.val
  let x := s.copyRuns ans c m.runs
  let s1 := match m.generators with
    | some a => x.2.libWrite c 2 a.toNat (markAll false (x.2.core c).generatorImage)
    | none => x.2
  let t : Message := { kind := 1, code := p.role, peer := s.ownPeer, slot := p.ownSlot, step := s.coll.step, blocks := m.blocks.toNat,
                       first := m.first.toNat, digest := thinnedDigest (x.1.map (·.1)) }
  s1.sendTo p l c m.peer.toNat (tokenOff p.ownSlot p.role m.target) t (s1.libSince c s.nextTxn)
/-- Does the TOKEN of an arriving move lie in its line? -/
def State.moveCame (s : State) (p : Plan) (m : Arrival) : Option (Nat × Nat) :=
  (s.lineOf (p.coll + tokenOff m.slot m.role m.core)).filter (fun x =>
    let (t, _, mark) := s.messageAt x.1 x.2
    !mark && t.kind = 1 && t.code = m.role.val && t.slot = m.slot.val && t.step = s.coll.step && t.peer = m.peer.toNat &&
    t.blocks = m.blocks.toNat && t.first = m.first.toNat)
/-- Phase 2 of a move: staging copied home, and the generators loaded (R375). -/
def State.moveHome (s : State) (ans : List PeerAnswer) (m : Arrival) : State :=
  let c := m.core.val
  let s1 := (s.copyRuns ans c m.runs).2
  match m.generators with
  | some a =>
    let y := s1.libRead ans c a.toNat 1024
    y.2.atCore c (fun e => e.loadGenerators y.1)
  | none => s1
/-- The permute goes on with its next part (R375): a leaving move; else the TOKENs of arriving moves; else, when all have come, an arrived
move. -/
def State.movePart (s : State) (ans : List PeerAnswer) (p : Plan) (l : Layout) (x : Permute) : State :=
  let upd := fun (s : State) (y : Permute) => { s with coll := { s.coll with permute := some y } }
  match x.leaving, x.arriving, x.arrived with
  | m :: rest, _, _ => if s.coreRuns m.core then upd (s.moveOver ans p l m) { x with leaving := rest } else s
  | [], a :: t, _ =>
    let came := (a :: t).filter (fun m => (s.moveCame p m).isSome)
    let s := came.foldl (fun (s : State) m => match s.moveCame p m with
      | some y => s.readLine y.1 y.2
      | none => s) s
    upd s { x with arriving := (a :: t).filter (fun m => !came.contains m), arrived := x.arrived ++ came }
  | [], [], m :: rest => if s.coreRuns m.core then upd (s.moveHome ans m) { x with arrived := rest } else s
  | [], [], [] => { s with coll := { s.coll with permute := none } }
/-- PERMUTE (R373 to R375): started with its moves at a quiet boundary, and then carried on part by part. -/
def execPermute (start : Option (List Move × List Arrival)) (s : State) : Out :=
  .next (s.withAnswers Src.isLib 2 (fun ans s => match s.plan?, start, s.coll.permute with
    | some _, some x, _ => if s.quietLib then { s with coll := { s.coll with permute := some ⟨x.1, x.2, []⟩ } } else s
    | some (p, l), none, some x => s.movePart ans p l x
    | _, _, _ => s))

end Sys2Proof.Machine
end

