-- ==== Sys2Proof/Machine/SecurityRows.lean ====
section
/-! DEFINITION. Firmware images and the meanings of the security commands (18_security.md): boot selection, firmware update,
SPDM, zeroisation. -/

namespace Sys2Proof.Machine

/-! ## Firmware images (R449, R450) -/

/-- First byte of an image slot: A or B (Table 18.4). -/
def slotBase (b : Bool) : Nat := if b then 0x2100000 else 0x100000
/-- Does the image in a slot meet R450? -/
def State.imageOk (s : State) (b : Bool) : Bool :=
  let a := slotBase b
  let f := s.flash
  let slot := f.le (a + 24) 4
  let key := s.fuses.romKeys.get 0 slot
  f.le a 4 = 0x49554455 && f.le (a + 4) 2 = 1 && decide (slot ≤ 3) && s.fuses.keyDigest.get 0 slot = digest (natLe 64 key) &&
  !s.fuses.revoked.contains slot && decide (s.fuses.svn ≤ f.le (a + 16) 4) &&
  f.le (a + 32) 32 = digest (f.bytes (a + 32768) (f.le (a + 20) 4)) &&
  Config.slhVerify key (digest (f.bytes a 64)) (f.bytes (a + 64) 29792)
/-- A copy of the boot record, when valid: its preferred slot (B?) and sequence. -/
def State.bootCopy (s : State) (i : Nat) : Option (Bool × Nat) :=
  let a := 0x1000 * i
  if s.flash.le (a + 16) 32 = digest (s.flash.bytes a 16) then some (s.flash.le a 1 % 2 = 1, s.flash.le (a + 8) 8) else none
/-- The copy in use: the valid one with the higher sequence (log 17 where none is valid). -/
def State.bootRecord (s : State) : Option (Nat × Bool × Nat) :=
  match s.bootCopy 0, s.bootCopy 1 with
  | some x, some y => if y.2 > x.2 then some (1, y) else some (0, x)
  | some x, none => some (0, x)
  | none, some y => some (1, y)
  | none, none => none
/-- The slot that runs: the preferred one if it meets R450, else the other, else none. -/
def State.bootSlot (s : State) : Option Bool :=
  let p := match s.bootRecord with | some (_, b, _) => b | none => false
  if s.imageOk p then some p else if s.imageOk (!p) then some (!p) else none
/-- Does the firmware run? -/
def State.firmwareRuns (s : State) : Bool := s.house.power && s.house.image ≠ 0

/-- The boot record written to prefer a slot (R451): into the copy that is not in use, with the next sequence. -/
def State.preferSlot (s : State) (slotB : Bool) : State :=
  let x := match s.bootRecord with | some (i, _, q) => (1 - i, q + 1) | none => (0, 1)
  let head : List Byte := natLe 8 (if slotB then 1 else 0) ++ natLe 8 x.2
  { s with flash := s.flash.wrBytes (0x1000 * x.1) (head ++ Sha256.hash head) }
/-- PLDM_FIRMWARE_UPDATE (R451, R498): into the slot that is not running; preferred only if it verifies. -/
def execPldmFirmwareUpdate (slotB : Bool) (image : List Byte) (s : State) : Out :=
  .next (
    if !s.firmwareRuns ∨ s.port.i3cAddress.isNone ∨ s.house.services.contains 5 ∨ (s.house.image = if slotB then 2 else 1) ∨
      image.length > 31 * 2 ^ 20 then s
    else
      let s := { s with flash := s.flash.wrBytes (slotBase slotB) image }
      if s.imageOk slotB then s.preferSlot slotB else s)

/-! ## Attestation (R453, Table 18.6) -/

/-- The fence registers (Table 17.5): sixteen core words, the unit word and the stack word. -/
def State.fenceWords (s : State) : List Word :=
  let bits := fun (l : List Nat) (at_ : Nat) => l.foldl (fun v x => v ||| 2 ^ (at_ + x)) 0
  (List.range 16).map (fun w => wd ((List.range 64).foldl (fun v j => if s.fenced (64 * w + j) then v + 2 ^ j else v) 0)) ++
  [wd (bits s.house.fencedCtls 48 + bits s.house.fencedLinks 0), wd (bits s.house.fencedStacks 0)]
/-- The content of a measurement; the widths and order inside one are log 18. -/
def State.measurement (s : State) (i : Nat) : List Byte :=
  let a := slotBase (s.house.image = 2)
  match i with
  | 1 => natLe 8 s.fuses.romVersion
  | 2 => s.flash.bytes a 64
  | 3 => s.flash.bytes (a + 8) 8 ++ s.flash.bytes (a + 16) 4 ++ s.flash.bytes (a + 6) 1 ++ natLe 4 s.fuses.svn
  | 4 => if s.sec.locked then [1] ++ natLe 32 s.sec.digest else natLe 33 0
  | 5 => s.fenceWords.flatMap (fun w => natLe 8 w.toNat)
  | 6 => natLe 8 s.house.zeroised ++ natLe 8 s.house.lastRestore
  | _ => Config.spdmAnswer (natLe 1 i)
/-- SPDM_REQUEST (R453, R455): a measurement, IDE keys set or ended, or a message only SPDM 1.3 answers. -/
def execSpdmRequest (req : SpdmMessage) (s : State) : Out :=
  .next (
    if !s.firmwareRuns ∨ s.house.services.contains 5 ∨ (!s.port.linkUp ∧ s.port.i3cAddress.isNone) then s
    else
      let a : Answer := match req.measurement with
        | some i => .bytes (s.measurement i)
        | none => .bytes (Config.spdmAnswer req.other)
      { s with port := { s.port with answer := a, ideIo := req.ioKeys.getD s.port.ideIo, ideMem := req.memKeys.getD s.port.ideMem } })

/-! ## Zeroisation (R457, R458, Table 18.7) -/

/-- A core after step 3: every item as after a cold reset but queue_mode. -/
def CoreSt.zeroised (k : CoreSt) : CoreSt := { queueMode := k.queueModeWanted, queueModeWanted := k.queueModeWanted }
/-- Every thread halted. -/
def CoreSt.halted (k : CoreSt) : CoreSt := { k with threads := k.threads.map (fun x : Nat × Thread => (x.1, { x.2 with state := .halted })) }
/-- The writes of host memory that are translated are performed (Table 18.7 step 2). -/
def State.performedHost (s : State) : State :=
  s.txns.foldl (fun (s : State) t => match t.write, t.phase with
    | true, .sent (.host a) => s.hostWrite a t.runs
    | _, _ => s) s
/-- The module zeroised (steps 2 to 6): what R458 lists is unchanged, everything else reads as after a cold reset. -/
def State.zeroise (s : State) (lost : LostStores) : State :=
  let shale : Store := if lost.shale then s.tiers.shale else {}
  let cores : Tab CoreSt := if lost.cores then s.cores else s.cores.map (fun x : Nat × CoreSt => (x.1, x.2.zeroised))
  { s with
    cores := cores, guilds := [], txns := [], bursts := [], sets := [], setMasks := [], self := 0, links := [], routes := [],
    landing := [], occurrences := [], evPending := [], evCounts := [], snapshot := none, restore := none, coll := {},
    unitCounters := [], bwCfg := 0x10, bwLog := [], bwNow := [], bwLast := [], bwPeak := [], sec := { s.sec with
      acl := [], domCore := [], domPeer := [], domHost := 0, lsClass := [], locked := false, digest := 0, restoreKey := [] },
    tiers := { shale := shale, bedrock := if lost.bedrock then s.tiers.bedrock else [] },
    port := { s.port with snoop := [], backInval := [] },
    house := { s.house with erepBase := 0, erepSeq := 0, lastPower := 0, points := [], fabric := 0, hot := [], brake := false,
                            idle := 0, saved := ([], 0), lastSnapshot := 0, lastRestore := 0, unmet := false,
                            zeroised := s.house.zeroised + 1 } }
/-- ZEROISE starts (step 1): the device state is ZEROISE, every thread of a live core halted, every link disabled. -/
def State.startZeroise (s : State) (c : Cmd) : State :=
  let s := (List.range 36).foldl (fun (s : State) l => s.disableLink l) s
  ({ s with cores := s.cores.map (fun x : Nat × CoreSt => (x.1, if s.fenced x.1 then x.2 else x.2.halted)) }.startCmd c .running).setDev
    .zeroise
/-- The device state that a zeroisation ends in (R424, R457): FAILED again where a failure stands. -/
def State.afterZeroise (s : State) : DevState :=
  if s.house.cause ≠ 0 ∨ s.house.services ≠ [] ∨ s.house.tripped then .failed else .ready
/-- Is it the zeroisation in progress? -/
def Cmd.zeroising (c : Cmd) : Bool := c.opcode = 0x30 && c.phase = .running
/-- ZEROISE (R457): in READY with every thread halted, or in FAILED, it starts; in the state ZEROISE its steps 2 to 7 are carried
out, after a thermal trip once every sensor reads below 95 °C. Stores are out of reach only after a failure. -/
def execZeroise (hottest : Nat) (lost : LostStores) (s : State) : Out :=
  .next (match s.settleCmds.commandFor 0x30 with
    | some _ => s.runCommand 0x30 (fun s _ => s.house.dev = .failed ||
        (s.house.dev = .ready && s.liveCores.all (fun c => (s.core c).allHalted))) (fun s c => s.startZeroise c)
    | none => match s.cmds.find? Cmd.zeroising with
      | some c =>
        if s.house.services.contains 1 ∨ s.house.services.contains 5 ∨ s.house.tripped ∧ hottest ≥ 95000 then s
        else
          let lost : LostStores := if s.afterZeroise = .failed then lost else ⟨false, false, false⟩
          ((s.performedHost.zeroise lost).setDev s.afterZeroise).endCmd c 0
            ((if lost.shale then 1 else 0) + (if lost.bedrock then 2 else 0) + (if lost.cores then 4 else 0))
      | none => s)

end Sys2Proof.Machine
end

