-- ==== Sys2Proof/Machine/HouseRows.lean ====
section
/-! DEFINITION. Meanings of the Counting House commands (17_counting_house.md, 22_module_electrical_mechanical.md): reset,
start-up, the planner, idle states, energy records, failures. -/

namespace Sys2Proof.Machine

/-! ## Reset and start-up (R428 to R431, R500 to R502) -/

/-- A cold reset (R428): every unit at its reset value; host memory, flash, fuses and the count of zeroisations are not
part of what is reset. -/
def State.coldReset (s : State) (power : Bool) : State :=
  { State.reset with
    hostMem := s.hostMem, hostPoison := s.hostPoison, flash := s.flash, fuses := s.fuses, free := s.free, pending := s.pending,
    house := { zeroised := s.house.zeroised, power := power, pwrOk := power } }
/-- POWER_ON (R428, R500): every regulator good. -/
def execPowerOn (s : State) : Out := .next (s.coldReset true)
/-- PERST_N_ASSERT (R502): a pulse of 1 µs or more; a shorter one is ignored. -/
def execPerstNAssert (ns : Nat) (s : State) : Out := .next (if s.house.power ∧ ns ≥ 1000 then s.coldReset true else s)
/-- CXL_RESET (R428, Table 16.1), over a link that is up. -/
def execCxlReset (s : State) : Out := .next (if s.house.power ∧ s.port.linkUp then s.coldReset true else s)
/-- POWER_LOSS (R501): PWR_OK low, clocks stopped, all state lost, no event. -/
def execPowerLoss (s : State) : Out := .next (s.coldReset false)

/-- Stacks that the start-up tests fence (R262). -/
def badStacks (t : StartTests) : List Nat :=
  (List.range 32).filter (fun g => t.stackList.any (fun x => x.val = g) || t.slices.any (fun x => x.1.val = g))
/-- Ports that they fence: a failing port, and the four of a failing optical engine (Table 17.4). -/
def badPorts (t : StartTests) : List Nat :=
  (List.range 36).filter (fun l => t.ports.any (fun x => x.val = l) || t.engines.any (fun x => x.val = fibreConnector l))
/-- Cores that they fence. -/
def badCores (t : StartTests) : List Nat := (List.range 1024).filter (fun c => t.cores.any (fun x => x.val = c))
/-- Controllers that they fence. -/
def badCtls (t : StartTests) : List Nat := (List.range 12).filter (fun k => t.ctls.any (fun x => x.val = k))
/-- The cause of Table 17.5: the lowest code of the failures marked FAILED. -/
def startCause (t : StartTests) : Nat :=
  if (badCtls t).contains 0 then 2 else if t.fabric then 3 else if t.house then 4
  else if (badCores t).length = 1024 then 5 else 0
/-- START_UP (R429 to R431, R450): after a cold reset, with the rails up. The stores are zero in the reset state (log 19). -/
def execStartUp (tests : StartTests) (s : State) : Out :=
  .next (
    if !s.house.power ∨ !s.house.pwrOk ∨ s.house.dev ≠ .boot then s
    else
      let s := { s with port := { s.port with linkUp := s.port.refclk } }
      match s.bootSlot with
      | none => { s with house := { s.house with stage := 2, cause := 1, dev := .failed } }
      | some b =>
        let cause := (startCause tests)
        let slices := (List.range 32).foldl (fun (t : Tab Nat) g =>
          let m := (List.range 16).foldl (fun m i =>
            if tests.slices.any (fun x => x.1.val = g && x.2.val = i) then m + 2 ^ i else m) 0
          if m = 0 then t else t.set g m) []
        let h := { s.house with
          stage := 10, image := if b then 2 else 1, cause := cause, dev := if cause = 0 then .ready else .failed,
          fencedCores := (badCores tests), fencedStacks := (badStacks tests), fencedCtls := (badCtls tests),
          fencedLinks := (badPorts tests), failedSlices := slices }
        { s with house := h, sec := { s.sec with runningSvn := s.flash.le (slotBase b + 16) 4 } })

/-! ## Failures (R424, R435, R436) -/

/-- THERMAL_TRIP (R435): at 110 °C or more. -/
def execThermalTrip (sensor : Fin 32) (reading : Nat) (s : State) : Out :=
  .next (
    if !s.house.power ∨ s.house.tripped ∨ reading < 110000 then s
    else { s with house := { s.house with tripped := true, dev := .failed } }.raise 0x73 [wd sensor.val, wd reading])
/-- The accounts of the invocations in progress changed, by core. -/
def State.onAccounts (s : State) (f : Nat → Account → Account) : State :=
  { s with cores := s.cores.map (fun x => (x.1, { x.2 with gauger := { x.2.gauger with
      accounts := x.2.gauger.accounts.map (fun a => if a.ended.isNone then f x.1 a else a) } })) }
/-- The brake fell during them (Table 17.7). -/
def State.braked (s : State) : State := s.onAccounts (fun _ a => { a with braked := true })
/-- Operating points have changed from `old` during them. -/
def State.pointsMoved (s : State) (old : Tab Nat) : State :=
  s.onAccounts (fun c a => { a with changed := a.changed || decide (old.get 0 (guildOf c) ≠ s.pointOf c),
                                    lowest := max a.lowest (s.pointOf c) })
/-- BRAKE (R436): current × 54 V above 1.15 × cap; counted once until the next boundary. -/
def execBrake (current : Nat) (s : State) : Out :=
  .next (
    if !s.house.power ∨ s.house.brake ∨ current * 54 ≤ 1150 * s.house.cap then s
    else { s with house := { s.house with brake := true } }.braked.countUnit houseUnit 2 1)
/-- FW_WATCHDOG_EXPIRY (R424, Table 17.1): for a service of two clerk cores the manual does not say which one is named
(log 20). -/
def execFwWatchdogExpiry (service : Fin 6) (s : State) : Out :=
  .next (
    if !s.firmwareRuns then s
    else
      let (w, s) := s.takeFree
      let two := (w.getLsbD 0).toNat
      let clerk := match service.val with | 0 => 0 | 1 => 1 + two | 2 => 3 + two | 3 => 5 | 4 => 6 | _ => 7
      { s with house := { s.house with services := s.house.services ++ [service.val], dev := .failed } }.raise 0x72
        [wd (clerk + service.val * 256)])

/-! ## The planner (R432 to R437) -/

/-- Dynamic energy per cycle of a point, in thousandths of P0 (Table 17.6). -/
def relative (p : Nat) : Nat := nth 444 [1000, 871, 751, 640, 558, 481, 444] p
/-- Guilds in descending (or ascending) order of modelled energy, ties by ascending number (R434). -/
def orderGuilds (down : Bool) (m : List Nat) : List Nat :=
  let before := fun (a b : Nat) => if nth 0 m a = nth 0 m b then decide (a ≤ b)
    else if down then decide (nth 0 m b < nth 0 m a) else decide (nth 0 m a < nth 0 m b)
  (List.range 32).foldl (fun (l : List Nat) g => l.takeWhile (fun x => before x g) ++ [g] ++ l.dropWhile (fun x => before x g)) []
/-- A core's estimate over the planner's window that ends (R438): its dynamic part, and the whole. -/
def CoreSt.estimate (k : CoreSt) : Nat × Nat := (k.gauger.winDynamic, k.gauger.winDynamic + k.gauger.winOther)
/-- The dynamic estimate and the modelled energy of a guild: the sums of its cores' (R434); fenced cores take no part. -/
def State.guildEstimate (s : State) (g : Nat) : Nat × Nat :=
  (List.range 32).foldl (fun (x : Nat × Nat) i =>
    let e := if s.fenced (32 * g + i) then (0, 0) else (s.core (32 * g + i)).estimate
    (x.1 + e.1, x.2 + e.2)) (0, 0)
/-- A new window of the estimates begins in every core. -/
def State.newWindow (s : State) : State :=
  { s with cores := s.cores.map (fun x => (x.1, { x.2 with gauger := { x.2.gauger with winDynamic := 0, winOther := 0 } })) }
/-- Estimates (log 21) times a thousand, to a nanojoule: the unit the planner adds up in. -/
def planUnit : Nat := 5625 * 1000000 * 1000
/-- The guilds' estimates and the predicted cost of raising the fabric. -/
structure Estimates where
  dynamic : List Nat
  modelled : List Nat
  fabricCost : Nat
  deriving DecidableEq, Repr
/-- What the planner changes: points, fabric point, and the energy estimate left, in `planUnit` parts of a nanojoule. -/
structure PlanSt where
  points : Tab Nat
  fabric : Nat
  e : Int
  stopped : Bool := false
  moved : List Nat := []
  deriving DecidableEq, Repr

/-- Lowers one guild a point, until E is at or below B. -/
def PlanSt.lower (m : Estimates) (b : Int) (p : PlanSt) (g : Nat) : PlanSt :=
  let x := p.points.get 0 g
  if p.stopped ∨ x ≥ 6 then p
  else
    let e := p.e - nth 0 m.dynamic g * (relative x - relative (x + 1) : Nat)
    { p with points := p.points.set g (x + 1), e := e, stopped := decide (e ≤ b), moved := p.moved ++ [g] }
/-- Raises one guild a point, stopping before E would pass 0.95 B; a guild lowered for its temperature is passed over. -/
def PlanSt.raise (m : Estimates) (b : Int) (hot : List Nat) (p : PlanSt) (g : Nat) : PlanSt :=
  let x := p.points.get 0 g
  if p.stopped ∨ x = 0 ∨ hot.contains g then p
  else
    let e := p.e + nth 0 m.dynamic g * (relative (x - 1) - relative x : Nat)
    if 100 * e > 95 * b then { p with stopped := true }
    else { p with points := p.points.set g (x - 1), e := e, moved := p.moved ++ [g] }
/-- plan(E, B) of R434, and whether POWER_CAP_UNMET is due. -/
def planPoints (m : Estimates) (b : Int) (hot : List Nat) (p : PlanSt) : PlanSt × Bool :=
  let all := fun (q : PlanSt) (n : Nat) => (List.range 32).all (fun g => decide (q.points.get 0 g ≥ n))
  if p.e > b then
    let q := (orderGuilds true m.modelled).foldl (PlanSt.lower m b) p
    let q := if all q 4 ∧ q.e > b then { q with fabric := min 2 (q.fabric + 1) } else q
    (q, all q 6 && q.fabric = 2 && decide (q.e > b))
  else if 100 * p.e < 95 * b then
    let q : PlanSt := if p.fabric > 0 then { p with fabric := p.fabric - 1, e := p.e + (m.fabricCost : Int) } else p
    ((orderGuilds false m.modelled).foldl (PlanSt.raise m b hot) q, false)
  else (p, false)

/-- The window set by CH_ENERGY_CFG (Table 17.8). -/
def windowLog (cfg : Word32) : Nat := min 26 (max 14 (bitsOf cfg.toNat 5 0))
/-- A command that waits for the boundary takes effect there (R437). -/
def State.atBoundary (s : State) (c : Cmd) : State :=
  let h := s.house
  let h' : House := if c.opcode = 0x31 then { h with cap := c.q 1 10 0, unmet := false } else { h with wakeLatency := c.q 1 31 0 }
  { s with house := h' }.endCmd c 0 0
/-- PLANNER_WINDOW (R432, R434 to R437). -/
def execPlannerWindow (m : Measures) (s : State) : Out :=
  .next (
    if !s.firmwareRuns ∨ s.house.services.contains 3 then s
    else
      let size := 2 ^ s.house.window
      let s := s.countUnit houseUnit 0 size
      let mw := m.energy * 1000000 / size
      let s := (s.cmds.filter (fun c => c.phase = .waitBoundary)).foldl (fun (s : State) c => s.atBoundary c) s
      let h := s.house
      let next := windowLog h.energyCfg
      let b : Int := h.cap * 2 ^ next * planUnit
      let figs := (List.range 32).map s.guildEstimate
      let est : Estimates := ⟨figs.map (·.1), figs.map (·.2), 1000 * m.fabricCost * planUnit⟩
      let hot := (List.range 32).filter (fun g =>
        if nth 0 m.temps g ≥ 100000 then true else h.hot.contains g && decide (nth 0 m.temps g ≥ 95000))
      let start : PlanSt := { points := h.points, fabric := h.fabric, e := 1000 * (m.energy : Int) * planUnit }
      let (p, unmet) := if h.idle = 0 then planPoints est b hot start else (start, false)
      let pts := (List.range 32).foldl (fun (t : Tab Nat) g =>
        let x := t.get 0 g
        if h.idle = 0 ∧ nth 0 m.temps g ≥ 100000 ∧ x < 6 ∧ !p.moved.contains g then t.set g (x + 1) else t) p.points
      let h' := { h with lastPower := mw, window := next, points := pts, fabric := p.fabric, hot := hot, brake := false,
                         unmet := h.unmet || unmet }
      let s := ({ s with house := h' }.pointsMoved h.points).newWindow
      if unmet ∧ !h.unmet then s.raise 0x74 [wd h.cap, wd mw] else s)

/-! ## Idle states (R440, R441) -/

/-- Is a core idle in the sense of R440? -/
def CoreSt.idle (k : CoreSt) : Bool :=
  k.invQueue.isEmpty && k.splitting.isNone && k.queuesEmpty && Engine.all.all (fun g => (k.active g).isEmpty) &&
  (List.range 4).all (fun t => match (k.thread t).state with
    | .ready | .waitFar | .waitLaunch => false
    | _ => true)
/-- Is the module idle (R440)? The traffic of the dwell is the command's own premise. -/
def State.isIdle (s : State) : Bool :=
  s.cmds.all (fun c => c.phase = .ended) && s.sqs.all (fun x => !ringEnabled x.2.cfg || x.2.head = x.2.tail) &&
  s.liveCores.all (fun c => (s.core c).idle) && s.guilds.all (fun x => x.2.drayQueue.isEmpty) && s.snapshot.isNone
/-- The deepest state whose wake latency, in ns, is tolerated (Table 17.9). -/
def idleDepth (ns : Nat) : Nat := if ns ≥ 30000 then 3 else if ns ≥ 5000 then 2 else if ns ≥ 1500 then 1 else 0
/-- IDLE_ENTRY (R440). -/
def execIdleEntry (s : State) : Out :=
  .next (
    let d := idleDepth s.house.wakeLatency
    if !s.firmwareRuns ∨ s.house.services.contains 3 ∨ s.house.tripped ∨ s.house.idle ≠ 0 ∨ d = 0 ∨ !s.isIdle then s
    else
      let h := s.house
      let s := { s with house := { h with idle := d, saved := (h.points, h.fabric), fabric := 2,
                                          points := (List.range 32).map (fun g => (g, 6)) } }
      if d ≥ 2 then
        { s with links := s.links.map (fun x : Nat × LinkSt =>
          (x.1, if x.2.state = .active ∧ x.2.ctrl.getLsbD 1 then { x.2 with state := .standby } else x.2)) }
      else s)
/-- WAKE (R441): Bedrock, links, then the operating points of before. -/
def execWake (s : State) : Out :=
  .next (
    if s.house.idle = 0 then s
    else
      let s := { s with links := s.links.map (fun x : Nat × LinkSt =>
        (x.1, if x.2.state = LinkState.standby then { x.2 with state := .active } else x.2)) }
      { s with house := { s.house with idle := 0, points := s.house.saved.1, fabric := s.house.saved.2, saved := ([], 0) } })

/-! ## Energy records (R438, R439) -/

/-- An estimate in nanojoules (log 21). -/
def nanojoules (x : Nat) : Nat := x / (5625 * 1000000)
/-- The record of an ended invocation (Table 17.7). -/
def energyBytes (seq c : Nat) (a : Account) (ended : Nat) : List Byte :=
  natLe 8 seq ++ natLe 2 c ++
  natLe 1 ((if a.faulted then 1 else 0) + (if a.changed then 2 else 0) + (if a.braked then 4 else 0)) ++
  natLe 1 a.lowest ++ natLe 4 0 ++ natLe 8 a.num ++ natLe 8 (cyclesFrom a.began ended) ++ natLe 8 (nanojoules a.dynamic) ++
  natLe 8 (nanojoules a.static) ++ natLe 8 (nanojoules a.transfer) ++ natLe 8 0
/-- A core's oldest account is done with. -/
def State.dropAccount (s : State) (c : Nat) : State :=
  let k := s.core c
  { s with cores := s.cores.set c { k with gauger := { k.gauger with accounts := k.gauger.accounts.drop 1 } } }
/-- ENERGY_RECORD (R438, R439): the record of the core's oldest invocation, once it has ended. -/
def execEnergyRecord (c : CoreId) (s : State) : Out :=
  .next (
    let h := s.house
    if !s.firmwareRuns ∨ h.services.contains 3 ∨ h.tripped ∨ !h.energyCfg.getLsbD 16 ∨ s.fenced c then s
    else match (s.core c).gauger.accounts with
    | ⟨num, began, some ended, f1, f2, f3, low, d, st, tr⟩ :: _ =>
      let size := 2 ^ min 20 (max 6 (bitsOf h.energyCfg.toNat 21 17))
      let dva := h.erepBase.toNat * 64 + h.erepSeq % size * 64
      let (hit, s') := s.recall 11 (masterId 7 5) dva 64 true
      if hit then s'
      else ({ s with house := { h with erepSeq := h.erepSeq + 1 } }.dropAccount c).writeRecord .house (masterId 7 5) dva
        (energyBytes h.erepSeq c ⟨num, began, some ended, f1, f2, f3, low, d, st, tr⟩ ended)
    | _ => s)

end Sys2Proof.Machine
end

