-- ==== Sys2Proof/Machine/ScrivenerRows.lean ====
section
/-! DEFINITION. Meanings of the Scrivener's commands (15_snapshots_and_context.md) and of SNAPSHOT, SNAPSHOT_CANCEL and RESTORE
(16_host_interface.md). -/

namespace Sys2Proof.Machine

/-- The command that SNAPSHOT_CANCEL, or a snapshot or restore request, ends with what applies first of Table 16.14: `fields`
says whether the request block's fields are right, `bad` that the block was delivered poisoned. -/
def State.requestStatus (s : State) (c : Cmd) (bad fields state : Bool) : Option Nat :=
  match s.precheck c (c.fieldsOk && (bad || fields)) state with
  | some st => some st
  | none => if bad then some 6 else none

/-- SNAPSHOT (R380, R386, R390, Table 16.12). -/
def execSnapshot (s : State) : Out :=
  .next (
    let s' := s.settleCmds
    if !s.port.linkUp ∨ !s.scrivenerRuns then s
    else match s'.commandFor 0x20 with
      | none => s
      | some c =>
        let (bs, bad) := s'.deviceRead (c.q 1 63 0) 1152
        let free := s'.house.dev = .ready && s'.snapshot.isNone && s'.restore.isNone
        match s'.requestStatus c bad (snapshotFieldsOk bs) free with
        | some st => s'.rejectCmd c st
        | none =>
          let x := snapshotOf c.num bs
          let refuse := fun (r : Nat) => (s'.raise 0x61 [wd x.step, wd r, 0]).endCmd c 8 r
          if !s'.requestOk x (fieldAt bs 24 8) then refuse 2
          else if !s'.linksOk x then refuse 3
          else { s'.startCmd c .running with snapshot := some x }.setDev .capture)
/-- The release word written to every live core (R384). -/
def State.releaseCores (s : State) (w : Word) : State :=
  s.liveCores.foldl (fun (s : State) c => s.atCore c (fun e => e.mail w)) s
/-- SNAPSHOT_CANCEL (R391): during CAPTURE the release words are still written. -/
def execSnapshotCancel (s : State) : Out :=
  .next (s.runCommand 0x21 (fun s _ => (s.house.dev = .capture || s.house.dev = .send) && s.snapshot.isSome) (fun s c =>
    match s.snapshot with
    | some x =>
      let s := if x.released then s else s.releaseCores x.release
      (s.failSnapshot x 5).endCmd c 0 0
    | none => s))

/-- CONTEXT_CAPTURE (R380, R382): the first waits until every live core is quiescent; a fenced core's image is zeros. -/
def execContextCapture (c : CoreId) (s : State) : Out :=
  .next (match s.snapshot with
    | some x =>
      if !s.scrivenerRuns ∨ x.frozen ∨ x.captured.contains c.val ∨
        !(if x.captured.isEmpty then s.allQuiescent else s.fenced c || s.quiescent c) then s
      else
        let a := x.ctxBase + c * imageBytes
        let (hit, s') := s.recall 11 scrivMaster a imageBytes true
        if hit then s'
        else
          let im := if s.fenced c then markAll false (natLe imageBytes 0) else s.contextImage c
          let (_, s) := s.writeRange .house scrivMaster 3 a im
          let s := if s.fenced c then s else s.atCore c (fun e => { e with k := e.k.captured })
          { s with snapshot := some { x with captured := x.captured ++ [c.val] } }
    | none => s)
/-- CAPTURE_TIMEOUT (R380): nothing has been captured when it strikes. -/
def execCaptureTimeout (s : State) : Out :=
  .next (match s.snapshot with
    | some x => if s.scrivenerRuns ∧ x.captured.isEmpty ∧ !s.allQuiescent then s.failSnapshot x 1 else s
    | none => s)
/-- SNAPSHOT_FREEZE (R384): frozen bits set and caches invalidated together; the release words follow once every access
translated before is performed (R253). -/
def execSnapshotFreeze (s : State) : Out :=
  .next (match s.snapshot with
    | some x =>
      if !s.scrivenerRuns ∨ x.released ∨ !(List.range 1024).all (fun c => x.captured.contains c) then s
      else
        let (x, s) : Snapshot × State := if x.frozen then (x, s)
          else
            let s := ((List.range x.count).map x.page).foldl (fun (s : State) p => s.setFrozen p true) s
            let s := s.uncache (fun _ => true)
            ({ x with frozen := true, waits := s.translated x.has }, s)
        if s.performedAll x.waits then
          ({ s with snapshot := some { x with released := true, waits := [] } }.releaseCores x.release).proceed .send
        else { s with snapshot := some x }
    | none => s)
/-- SNAPSHOT_PAGE_SEND (R385 to R387, R390, R391). -/
def execSnapshotPageSend (s : State) : Out :=
  .next (s.withAnswers (· = .house) 3 (fun answers s => match s.snapshot with
    | some x => if s.scrivenerRuns ∧ x.released ∧ x.next < x.count then s.sendPage x answers else s
    | none => s))
/-- COPY_ON_WRITE (R385, R386, Table 15.3): a write is held on the page, which is not yet being sent. -/
def execCopyOnWrite (page : BitVec 25) (s : State) : Out :=
  .next (s.withAnswers (· = .house) 3 (fun answers s => match s.snapshot with
    | some x =>
      let p := page.toNat
      if s.scrivenerRuns ∧ x.frozen ∧ x.has p ∧ ptFrozen (s.tableEntry p) ∧ x.unsent p ∧ s.txns.any (fun t => t.heldOn p) then
        s.copyPage x p answers
      else s
    | none => s))
/-- MANIFEST_WRITE (R388, R389): after the last page is written and acknowledged. -/
def execManifestWrite (s : State) : Out :=
  .next (match s.snapshot with
    | some x =>
      if !s.scrivenerRuns ∨ !x.released ∨ x.next < x.count ∨ s.unacked then s
      else if x.manifest then s.finishSnapshot x
      else s.sendManifest x
    | none => s)

/-! ## Restore -/

/-- Are the fields of a restore request right (Table 16.12)? `n` is the block's length. -/
def restoreFieldsOk (bs : List Byte) (a n : Nat) : Bool :=
  let k := fieldAt bs 56 8
  let maps := bitsOf k 14 8
  decide (a % 8192 + n ≤ 8192) && decide (fieldAt bs 24 8 < 2 ^ 36) && decide (fieldAt bs 32 8 < 2 ^ 36) && decide (k % 4 ≠ 3) &&
  (!bitOf k 4 || decide (bitsOf k 3 2 ≠ 3)) && bitsOf k 7 7 = 0 && decide (k < 2 ^ 15) && decide (maps ≤ 64) &&
  zeroBytes ((bs.drop 64).take 64) && (List.range maps).all (fun r => fieldAt bs (140 + 16 * r) 4 = 0) &&
  (!bitOf k 6 || (List.range 1024).all (fun c => let t := fieldAt bs (1152 + 2 * c) 2; decide (t < 1024) || t = 0xFFFF))

/-- Everything a restore checks before it writes (R394, R395): the refusal reason with the first page concerned when there
is one, or the restore. -/
def State.checkRestore (s : State) (cmd : Nat) (bs : List Byte) (answers : List PeerAnswer) :
    ((Nat × Option Nat) ⊕ Restore) × State :=
  let k := fieldAt bs 56 8
  let step := fieldAt bs 0 8
  let ctx := fieldAt bs 40 8
  let s0 : RestoreSource := ⟨k % 4, fieldAt bs 8 8, fieldAt bs 24 8, false⟩
  let s1 : RestoreSource := ⟨bitsOf k 3 2, fieldAt bs 16 8, fieldAt bs 32 8, false⟩
  let sources := if bitOf k 4 then [s0, s1] else [s0]
  let maps := (List.range (bitsOf k 14 8)).map (fun r => (fieldAt bs (128 + 16 * r) 4, fieldAt bs (132 + 16 * r) 4, fieldAt bs (136 + 16 * r) 4))
  if ctx % pageBytes ≠ 0 ∨ !s.mappedRun (ctx / pageBytes) 20480 ∨
    sources.any (fun x => x.base % pageBytes ≠ 0 || !s.mapped (x.base / pageBytes)) then (.inl (2, none), s)
  else
    match s.readManifest s0.base step (bitOf k 5) answers with
    | (.inl r, s) => (.inl (r, none), s)
    | (.inr m0, s) =>
      let other := if bitOf k 4 then s.readManifest s1.base step (bitOf k 5) answers else (.inr m0, s)
      match other with
      | (.inl r, s) => (.inl (r, none), s)
      | (.inr m1, s) =>
        let differ := (m0.entries.zip m1.entries).find? (fun y => y.1 ≠ y.2)
        if m0.entries ≠ m1.entries then (.inl (9, differ.map (·.1.page)), s)
        else
          let live := (List.range 1024).filter (fun c => !bitOf m0.absent c)
          let target := fun (c : Nat) => if bitOf k 6 then fieldAt bs (1152 + 2 * c) 2 else c
          let tos := live.map target
          if tos.any (fun t => t ≥ 1024 || s.fenced t) ∨ !allDifferent tos then (.inl (0x0B, none), s)
          else match m0.entries.find? (fun y => let p := mapPage maps y.page
              !s.mapped p || ptFrozen (s.tableEntry p)) with
            | some y => (.inl (0x0B, some y.page), s)
            | none => (.inr { cmd := cmd, step := step, sources := (sources.zip [m0.signed, m1.signed]).map (fun z => { z.1 with signed := z.2 }),
                              ctxBase := ctx, release := wd (fieldAt bs 48 8), pageMap := maps, coreMap := live.zip tos,
                              entries := m0.entries, cores := live }, s)

/-- RESTORE (R392 to R395): the request and its manifests are checked; nothing is written yet. -/
def execRestore (s : State) : Out :=
  .next (s.withAnswers (· = .house) 3 (fun answers s =>
    let s' := s.settleCmds
    if !s.port.linkUp ∨ !s.scrivenerRuns then s
    else match s'.commandFor 0x22 with
      | none => s
      | some c =>
        let a := c.q 1 63 0
        let (bs0, bad0) := s'.deviceRead a 1152
        let n := if bitOf (fieldAt bs0 56 8) 6 then 3200 else 1152
        let (bs, bad) := s'.deviceRead a n
        let free := s'.house.dev = .ready && s'.snapshot.isNone && s'.restore.isNone && s'.allQuiescent &&
          s'.liveCores.all (fun c => (s'.core c).allHalted)
        match s'.requestStatus c (bad0 || bad) (restoreFieldsOk bs a n) free with
        | some st => s'.rejectCmd c st
        | none => match s'.checkRestore c.num bs answers with
          | (.inl (r, page), s1) =>
            let (w, s1) := s1.takeFree
            let p := page.getD (w.toNat % 2 ^ 25)
            (s1.raise 0x63 [wd (fieldAt bs 0 8), wd r, wd p]).endCmd c 8 (r + p * 256)
          | (.inr r, s1) => { s1.startCmd c .running with restore := some r }.setDev .restore))
/-- RESTORE_PAGE_LOAD (R394, R395). -/
def execRestorePageLoad (s : State) : Out :=
  .next (s.withAnswers (· = .house) 3 (fun answers s => match s.restore with
    | some r => match r.entries[r.next]? with
      | some y => if s.scrivenerRuns then s.loadPage r y answers else s
      | none => s
    | none => s))
/-- The restore is done (R398): the module is READY again. -/
def State.restoreDone (s : State) (r : Restore) : State :=
  ({ s with restore := none, house := { s.house with lastRestore := r.step } }.raise 0x62 [wd r.step, wd r.second]).endScrivener r.cmd [] 0 0
/-- One core of the snapshot restored; `left` are those still to restore. -/
def State.restoredCore (s : State) (r : Restore) (left : List Nat) : State :=
  if left.isEmpty then s.restoreDone r else { s with restore := some { r with cores := left } }
/-- The image of snapshot core `c` read and loaded into core `home` (R396). -/
def State.loadImage (s : State) (r : Restore) (c home : Nat) (answers : List PeerAnswer) : State :=
  let x := s.readRange .house scrivMaster (r.ctxBase + c * imageBytes) imageBytes answers
  (x.2.2.atCore home (fun e => e.restoreContext x.1 r.release)).restoredCore r (r.cores.filter (· ≠ c))
/-- CONTEXT_RESTORE (R396, R398): once every page is loaded; after the last core the restore is done. -/
def execContextRestore (c : CoreId) (s : State) : Out :=
  .next (s.withAnswers (· = .house) 3 (fun answers s => match s.restore with
    | some r =>
      if !s.scrivenerRuns ∨ r.next < r.entries.length ∨ !r.cores.contains c.val then s
      else
        let x := s.recall 11 scrivMaster (r.ctxBase + c * imageBytes) imageBytes false
        if x.1 then x.2
        else match r.coreMap.find? (fun x : Nat × Nat => x.1 = c.val) with
          | none => s
          | some y => s.loadImage r c y.2 answers
    | none => s))

end Sys2Proof.Machine
end

