-- ==== Sys2Proof/Machine/Dispatch.lean ====
section
/-! DEFINITION. The dispatch of commands to their meanings. -/

namespace Sys2Proof.Machine

/-- The effect of a command on everything but the queue. -/
def exec (i : Instr) (s : State) : Host.Outcome State Fault Refusal :=
  match i with
  | .powerOn => Sys2Proof.Machine.execPowerOn s
  | .perstNAssert ns => Sys2Proof.Machine.execPerstNAssert ns s
  | .cxlReset => Sys2Proof.Machine.execCxlReset s
  | .startUp tests => Sys2Proof.Machine.execStartUp tests s
  | .powerLoss => Sys2Proof.Machine.execPowerLoss s
  | .cxlLinkDown hot => Sys2Proof.Machine.execCxlLinkDown hot s
  | .cxlLinkUp => Sys2Proof.Machine.execCxlLinkUp s
  | .refclkLoss => Sys2Proof.Machine.execRefclkLoss s
  | .thermalTrip sensor reading => Sys2Proof.Machine.execThermalTrip sensor reading s
  | .brake current => Sys2Proof.Machine.execBrake current s
  | .fwWatchdogExpiry service => Sys2Proof.Machine.execFwWatchdogExpiry service s
  | .plannerWindow m => Sys2Proof.Machine.execPlannerWindow m s
  | .idleEntry => Sys2Proof.Machine.execIdleEntry s
  | .wake => Sys2Proof.Machine.execWake s
  | .energyRecord c => Sys2Proof.Machine.execEnergyRecord c s
  | .sqTail q v => Sys2Proof.Machine.execSqTail q v s
  | .cqHead q v => Sys2Proof.Machine.execCqHead q v s
  | .sqEntryFetch q => Sys2Proof.Machine.execSqEntryFetch q s
  | .nop => Sys2Proof.Machine.execNop s
  | .tallyLoad => Sys2Proof.Machine.execTallyLoad s
  | .threadStart => Sys2Proof.Machine.execThreadStart s
  | .mailboxWrite => Sys2Proof.Machine.execMailboxWrite s
  | .coreRecover => Sys2Proof.Machine.execCoreRecover s
  | .place => Sys2Proof.Machine.execPlace s
  | .placeRead => Sys2Proof.Machine.execPlaceRead s
  | .snapshot => Sys2Proof.Machine.execSnapshot s
  | .snapshotCancel => Sys2Proof.Machine.execSnapshotCancel s
  | .restore => Sys2Proof.Machine.execRestore s
  | .zeroise hottest lost => Sys2Proof.Machine.execZeroise hottest lost s
  | .setPowerCap => Sys2Proof.Machine.execSetPowerCap s
  | .setWakeLatency => Sys2Proof.Machine.execSetWakeLatency s
  | .cqCompletionWrite q => Sys2Proof.Machine.execCqCompletionWrite q s
  | .cqIntDelayExpiry q => Sys2Proof.Machine.execCqIntDelayExpiry q s
  | .msixVectorUnmask v => Sys2Proof.Machine.execMsixVectorUnmask v s
  | .sqEnable q v => Sys2Proof.Machine.execSqEnable q v s
  | .sqDisable q => Sys2Proof.Machine.execSqDisable q s
  | .cqEnable q v => Sys2Proof.Machine.execCqEnable q v s
  | .cqDisable q => Sys2Proof.Machine.execCqDisable q s
  | .evqEnable v => Sys2Proof.Machine.execEvqEnable v s
  | .evqDisable => Sys2Proof.Machine.execEvqDisable s
  | .evPendingClear w v => Sys2Proof.Machine.execEvPendingClear w v s
  | .eventOccurrence => Sys2Proof.Machine.execEventOccurrence s
  | .hdmWindowRead x cached => Sys2Proof.Machine.execHdmWindowRead x cached s
  | .hdmWindowWrite x mask data mark => Sys2Proof.Machine.execHdmWindowWrite x mask data mark s
  | .statusMirrorRead x => Sys2Proof.Machine.execStatusMirrorRead x s
  | .hostSnoop => Sys2Proof.Machine.execHostSnoop s
  | .birsp key wb => Sys2Proof.Machine.execBirsp key wb s
  | .ideCheckFail io mem => Sys2Proof.Machine.execIdeCheckFail io mem s
  | .spdmRequest req => Sys2Proof.Machine.execSpdmRequest req s
  | .pldmFirmwareUpdate slotB image => Sys2Proof.Machine.execPldmFirmwareUpdate slotB image s
  | .i3cEntdaa addr => Sys2Proof.Machine.execI3cEntdaa addr s
  | .secSvnCommit => Sys2Proof.Machine.execSecSvnCommit s
  | .svnFuseBurnDone => Sys2Proof.Machine.execSvnFuseBurnDone s
  | .secLockWrite v => Sys2Proof.Machine.execSecLockWrite v s
  | .queueModeWrite c v => Sys2Proof.Machine.execQueueModeWrite c v s
  | .queueModeSwitch c => Sys2Proof.Machine.execQueueModeSwitch c s
  | .gauSelWrite c j v => Sys2Proof.Machine.execGauSelWrite c j v s
  | .unitCounterClear u j => Sys2Proof.Machine.execUnitCounterClear u j s
  | .gauBwPeakRead u j => Sys2Proof.Machine.execGauBwPeakRead u j s
  | .bwWindowEnd u => Sys2Proof.Machine.execBwWindowEnd u s
  | .registerWrite a wide v => Sys2Proof.Machine.execRegisterWrite a wide v s
  | .linkEnable l => Sys2Proof.Machine.execLinkEnable l s
  | .linkDisable l => Sys2Proof.Machine.execLinkDisable l s
  | .linkFlitReceive l gap flit corrected lost touched => Sys2Proof.Machine.execLinkFlitReceive l gap flit corrected lost touched s
  | .linkFlitTransmit l gap => Sys2Proof.Machine.execLinkFlitTransmit l gap s
  | .linkRetrainDone l gap => Sys2Proof.Machine.execLinkRetrainDone l gap s
  | .linkStandbyExit l gap far => Sys2Proof.Machine.execLinkStandbyExit l gap far s
  | .linkResponseTimeout l gap => Sys2Proof.Machine.execLinkResponseTimeout l gap s
  | .tagIssue engine n => Sys2Proof.Machine.execTagIssue engine n s
  | .placementWalk half => Sys2Proof.Machine.execPlacementWalk half s
  | .blockHopReceive x u port leaving flips behind => Sys2Proof.Machine.execBlockHopReceive x u port leaving flips behind s
  | .shaleAccess x => Sys2Proof.Machine.execShaleAccess x s
  | .bedrockRead x corrected => Sys2Proof.Machine.execBedrockRead x corrected s
  | .bedrockWrite x corrected => Sys2Proof.Machine.execBedrockWrite x corrected s
  | .bedrockRefresh k rate => Sys2Proof.Machine.execBedrockRefresh k rate s
  | .fabricReadData x => Sys2Proof.Machine.execFabricReadData x s
  | .writeAck x => Sys2Proof.Machine.execWriteAck x s
  | .mcastReserve b => Sys2Proof.Machine.execMcastReserve b s
  | .mcastGrant b => Sys2Proof.Machine.execMcastGrant b s
  | .reduceSlotAdd g => Sys2Proof.Machine.execReduceSlotAdd g s
  | .rowBufferComplete g set off => Sys2Proof.Machine.execRowBufferComplete g set off s
  | .arrival x => Sys2Proof.Machine.execArrival x s
  | .windowIdle c j gap => Sys2Proof.Machine.execWindowIdle c j gap s
  | .draymanDescriptorStart g => Sys2Proof.Machine.execDraymanDescriptorStart g s
  | .draymanToken g => Sys2Proof.Machine.execDraymanToken g s
  | .invocationBoundary c => Sys2Proof.Machine.execInvocationBoundary c s
  | .loomSplitWord c => Sys2Proof.Machine.execLoomSplitWord c s
  | .loomIssueInstance c gap => Sys2Proof.Machine.execLoomIssueInstance c gap s
  | .marker c e gap => Sys2Proof.Machine.execMarker c e gap s
  | .microopComplete c e gap => Sys2Proof.Machine.execMicroopComplete c e gap s
  | .stalemateFreeze c gap => Sys2Proof.Machine.execStalemateFreeze c gap s
  | .matmul c gap => Sys2Proof.Machine.execMatmul c gap s
  | .round c gap => Sys2Proof.Machine.execRound c gap s
  | .exportImage c gap => Sys2Proof.Machine.execExportImage c gap s
  | .merge c gap => Sys2Proof.Machine.execMerge c gap s
  | .tilecfg c gap => Sys2Proof.Machine.execTilecfg c gap s
  | .moveIn c gap => Sys2Proof.Machine.execMoveIn c gap s
  | .moveOut c gap => Sys2Proof.Machine.execMoveOut c gap s
  | .convert c gap => Sys2Proof.Machine.execConvert c gap s
  | .transpose c gap => Sys2Proof.Machine.execTranspose c gap s
  | .vecAdd c gap => Sys2Proof.Machine.execVecAdd c gap s
  | .vecSub c gap => Sys2Proof.Machine.execVecSub c gap s
  | .vecMul c gap => Sys2Proof.Machine.execVecMul c gap s
  | .vecFma c gap => Sys2Proof.Machine.execVecFma c gap s
  | .vecMin c gap => Sys2Proof.Machine.execVecMin c gap s
  | .vecMax c gap => Sys2Proof.Machine.execVecMax c gap s
  | .vecAbs c gap => Sys2Proof.Machine.execVecAbs c gap s
  | .vecNeg c gap => Sys2Proof.Machine.execVecNeg c gap s
  | .vecExp c gap => Sys2Proof.Machine.execVecExp c gap s
  | .vecExp2 c gap => Sys2Proof.Machine.execVecExp2 c gap s
  | .vecLog2 c gap => Sys2Proof.Machine.execVecLog2 c gap s
  | .vecRecip c gap => Sys2Proof.Machine.execVecRecip c gap s
  | .vecRsqrt c gap => Sys2Proof.Machine.execVecRsqrt c gap s
  | .vecTanh c gap => Sys2Proof.Machine.execVecTanh c gap s
  | .vecSigmoid c gap => Sys2Proof.Machine.execVecSigmoid c gap s
  | .vecSin c gap => Sys2Proof.Machine.execVecSin c gap s
  | .vecCos c gap => Sys2Proof.Machine.execVecCos c gap s
  | .rclear c gap => Sys2Proof.Machine.execRclear c gap s
  | .rsum c gap => Sys2Proof.Machine.execRsum c gap s
  | .rsumsq c gap => Sys2Proof.Machine.execRsumsq c gap s
  | .rmax c gap => Sys2Proof.Machine.execRmax c gap s
  | .rout c gap => Sys2Proof.Machine.execRout c gap s
  | .rsetref c gap => Sys2Proof.Machine.execRsetref c gap s
  | .smxExp c gap => Sys2Proof.Machine.execSmxExp c gap s
  | .rsave c gap => Sys2Proof.Machine.execRsave c gap s
  | .rload c gap => Sys2Proof.Machine.execRload c gap s
  | .rmerge c gap => Sys2Proof.Machine.execRmerge c gap s
  | .statsFlush c gap => Sys2Proof.Machine.execStatsFlush c gap s
  | .rdot c gap => Sys2Proof.Machine.execRdot c gap s
  | .smxGrad c gap => Sys2Proof.Machine.execSmxGrad c gap s
  | .normGrad c gap => Sys2Proof.Machine.execNormGrad c gap s
  | .assay c gap => Sys2Proof.Machine.execAssay c gap s
  | .assaySet c gap => Sys2Proof.Machine.execAssaySet c gap s
  | .updSgd c gap => Sys2Proof.Machine.execUpdSgd c gap s
  | .updMomentum c gap => Sys2Proof.Machine.execUpdMomentum c gap s
  | .updAdam c gap => Sys2Proof.Machine.execUpdAdam c gap s
  | .rngSeed c gap => Sys2Proof.Machine.execRngSeed c gap s
  | .rngSave c gap => Sys2Proof.Machine.execRngSave c gap s
  | .rngLoad c gap => Sys2Proof.Machine.execRngLoad c gap s
  | .spikeCheck c gap => Sys2Proof.Machine.execSpikeCheck c gap s
  | .streamIn c gap => Sys2Proof.Machine.execStreamIn c gap s
  | .postWindow c gap => Sys2Proof.Machine.execPostWindow c gap s
  | .fence c gap => Sys2Proof.Machine.execFence c gap s
  | .streamOut c gap => Sys2Proof.Machine.execStreamOut c gap s
  | .prefetch c gap => Sys2Proof.Machine.execPrefetch c gap s
  | .add c t gap rd rs1 rs2 => Sys2Proof.Machine.execAdd c t gap rd rs1 rs2 s
  | .sub c t gap rd rs1 rs2 => Sys2Proof.Machine.execSub c t gap rd rs1 rs2 s
  | .and c t gap rd rs1 rs2 => Sys2Proof.Machine.execAnd c t gap rd rs1 rs2 s
  | .or c t gap rd rs1 rs2 => Sys2Proof.Machine.execOr c t gap rd rs1 rs2 s
  | .xor c t gap rd rs1 rs2 => Sys2Proof.Machine.execXor c t gap rd rs1 rs2 s
  | .sll c t gap rd rs1 rs2 => Sys2Proof.Machine.execSll c t gap rd rs1 rs2 s
  | .srl c t gap rd rs1 rs2 => Sys2Proof.Machine.execSrl c t gap rd rs1 rs2 s
  | .sra c t gap rd rs1 rs2 => Sys2Proof.Machine.execSra c t gap rd rs1 rs2 s
  | .slt c t gap rd rs1 rs2 => Sys2Proof.Machine.execSlt c t gap rd rs1 rs2 s
  | .sltu c t gap rd rs1 rs2 => Sys2Proof.Machine.execSltu c t gap rd rs1 rs2 s
  | .mul c t gap rd rs1 rs2 => Sys2Proof.Machine.execMul c t gap rd rs1 rs2 s
  | .mulhu c t gap rd rs1 rs2 => Sys2Proof.Machine.execMulhu c t gap rd rs1 rs2 s
  | .min c t gap rd rs1 rs2 => Sys2Proof.Machine.execMin c t gap rd rs1 rs2 s
  | .max c t gap rd rs1 rs2 => Sys2Proof.Machine.execMax c t gap rd rs1 rs2 s
  | .amoadd c t gap rd rs1 rs2 => Sys2Proof.Machine.execAmoadd c t gap rd rs1 rs2 s
  | .jr c t gap rd rs1 rs2 => Sys2Proof.Machine.execJr c t gap rd rs1 rs2 s
  | .jalr c t gap rd rs1 rs2 => Sys2Proof.Machine.execJalr c t gap rd rs1 rs2 s
  | .slwx c t gap rd rs1 rs2 => Sys2Proof.Machine.execSlwx c t gap rd rs1 rs2 s
  | .evclr c t gap rd rs1 rs2 => Sys2Proof.Machine.execEvclr c t gap rd rs1 rs2 s
  | .tstart c t gap rd rs1 rs2 => Sys2Proof.Machine.execTstart c t gap rd rs1 rs2 s
  | .tallyFence c t gap rd rs1 rs2 => Sys2Proof.Machine.execTallyFence c t gap rd rs1 rs2 s
  | .ffence c t gap rd rs1 rs2 => Sys2Proof.Machine.execFfence c t gap rd rs1 rs2 s
  | .yield c t gap rd rs1 rs2 => Sys2Proof.Machine.execYield c t gap rd rs1 rs2 s
  | .halt c t gap rd rs1 rs2 => Sys2Proof.Machine.execHalt c t gap rd rs1 rs2 s
  | .eret c t gap rd rs1 rs2 => Sys2Proof.Machine.execEret c t gap rd rs1 rs2 s
  | .addi c t gap rd rs1 v => Sys2Proof.Machine.execAddi c t gap rd rs1 v s
  | .andi c t gap rd rs1 v => Sys2Proof.Machine.execAndi c t gap rd rs1 v s
  | .ori c t gap rd rs1 v => Sys2Proof.Machine.execOri c t gap rd rs1 v s
  | .xori c t gap rd rs1 v => Sys2Proof.Machine.execXori c t gap rd rs1 v s
  | .slli c t gap rd rs1 v => Sys2Proof.Machine.execSlli c t gap rd rs1 v s
  | .srli c t gap rd rs1 v => Sys2Proof.Machine.execSrli c t gap rd rs1 v s
  | .srai c t gap rd rs1 v => Sys2Proof.Machine.execSrai c t gap rd rs1 v s
  | .slti c t gap rd rs1 v => Sys2Proof.Machine.execSlti c t gap rd rs1 v s
  | .sltiu c t gap rd rs1 v => Sys2Proof.Machine.execSltiu c t gap rd rs1 v s
  | .movz c t gap rd q v => Sys2Proof.Machine.execMovz c t gap rd q v s
  | .movk c t gap rd q v => Sys2Proof.Machine.execMovk c t gap rd q v s
  | .ld c t gap rd rs1 v => Sys2Proof.Machine.execLd c t gap rd rs1 v s
  | .lw c t gap rd rs1 v => Sys2Proof.Machine.execLw c t gap rd rs1 v s
  | .lws c t gap rd rs1 v => Sys2Proof.Machine.execLws c t gap rd rs1 v s
  | .lh c t gap rd rs1 v => Sys2Proof.Machine.execLh c t gap rd rs1 v s
  | .lb c t gap rd rs1 v => Sys2Proof.Machine.execLb c t gap rd rs1 v s
  | .sd c t gap rs2 rs1 v => Sys2Proof.Machine.execSd c t gap rs2 rs1 v s
  | .sw c t gap rs2 rs1 v => Sys2Proof.Machine.execSw c t gap rs2 rs1 v s
  | .sh c t gap rs2 rs1 v => Sys2Proof.Machine.execSh c t gap rs2 rs1 v s
  | .sb c t gap rs2 rs1 v => Sys2Proof.Machine.execSb c t gap rs2 rs1 v s
  | .beq c t gap rs1 rs2 off => Sys2Proof.Machine.execBeq c t gap rs1 rs2 off s
  | .bne c t gap rs1 rs2 off => Sys2Proof.Machine.execBne c t gap rs1 rs2 off s
  | .blt c t gap rs1 rs2 off => Sys2Proof.Machine.execBlt c t gap rs1 rs2 off s
  | .bge c t gap rs1 rs2 off => Sys2Proof.Machine.execBge c t gap rs1 rs2 off s
  | .bltu c t gap rs1 rs2 off => Sys2Proof.Machine.execBltu c t gap rs1 rs2 off s
  | .bgeu c t gap rs1 rs2 off => Sys2Proof.Machine.execBgeu c t gap rs1 rs2 off s
  | .j c t gap off => Sys2Proof.Machine.execJ c t gap off s
  | .jal c t gap off => Sys2Proof.Machine.execJal c t gap off s
  | .rds c t gap rd rs1 v => Sys2Proof.Machine.execRds c t gap rd rs1 v s
  | .wrs c t gap rd rs1 v => Sys2Proof.Machine.execWrs c t gap rd rs1 v s
  | .slw c t gap rd rs1 v => Sys2Proof.Machine.execSlw c t gap rd rs1 v s
  | .slr c t gap rd rs1 v => Sys2Proof.Machine.execSlr c t gap rd rs1 v s
  | .nrd c t gap rd rs1 v => Sys2Proof.Machine.execNrd c t gap rd rs1 v s
  | .nwait c t gap rd rs1 v => Sys2Proof.Machine.execNwait c t gap rd rs1 v s
  | .nbump c t gap rd rs1 v => Sys2Proof.Machine.execNbump c t gap rd rs1 v s
  | .launch c t gap rd rs1 v => Sys2Proof.Machine.execLaunch c t gap rd rs1 v s
  | .evwait c t gap rd rs1 v => Sys2Proof.Machine.execEvwait c t gap rd rs1 v s
  | .threadWake c t gap => Sys2Proof.Machine.execThreadWake c t gap s
  | .farReadResponse c t => Sys2Proof.Machine.execFarReadResponse c t s
  | .farWriteAck c t => Sys2Proof.Machine.execFarWriteAck c t s
  | .sampleRecordWrite c => Sys2Proof.Machine.execSampleRecordWrite c s
  | .dumpLatch c gap => Sys2Proof.Machine.execDumpLatch c gap s
  | .planStart c dva lay => Sys2Proof.Machine.execPlanStart c dva lay s
  | .contributionSend c slot owner => Sys2Proof.Machine.execContributionSend c slot owner s
  | .tokenReceive owner slot role relayed => Sys2Proof.Machine.execTokenReceive owner slot role relayed s
  | .slotLate c slot => Sys2Proof.Machine.execSlotLate c slot s
  | .recompute c slot owner => Sys2Proof.Machine.execRecompute c slot owner s
  | .voteSend => Sys2Proof.Machine.execVoteSend s
  | .voteReceive stage slot => Sys2Proof.Machine.execVoteReceive stage slot s
  | .heldStepDecision => Sys2Proof.Machine.execHeldStepDecision s
  | .paramReceive slot owner => Sys2Proof.Machine.execParamReceive slot owner s
  | .permute start => Sys2Proof.Machine.execPermute start s
  | .contextCapture c => Sys2Proof.Machine.execContextCapture c s
  | .captureTimeout => Sys2Proof.Machine.execCaptureTimeout s
  | .snapshotFreeze => Sys2Proof.Machine.execSnapshotFreeze s
  | .snapshotPageSend => Sys2Proof.Machine.execSnapshotPageSend s
  | .copyOnWrite page => Sys2Proof.Machine.execCopyOnWrite page s
  | .manifestWrite => Sys2Proof.Machine.execManifestWrite s
  | .restorePageLoad => Sys2Proof.Machine.execRestorePageLoad s
  | .contextRestore c => Sys2Proof.Machine.execContextRestore c s
  | .illegal c t gap => Sys2Proof.Machine.execIllegal c t gap s
  | .imemEcc c t gap => Sys2Proof.Machine.execImemEcc c t gap s
  | .linkTrainingDone l gap => Sys2Proof.Machine.execLinkTrainingDone l gap s
  | .fibreUnmated l gap => Sys2Proof.Machine.execFibreUnmated l gap s

end Sys2Proof.Machine
end

