-- ==== Sys2Proof/Machine/ReadBack.lean ====
section
/-! DEFINITION. What a BAR0 read answers (R402, R429, R482 to R493): a plain function of the state, since no row of the
operation table is a register read and reading changes nothing (GAU_BW_PEAK apart, whose row is GAU_BW_PEAK_READ). -/

namespace Sys2Proof.Machine

/-- Bit j of a word is 1 where `p j` holds. -/
def bitsWhere (n : Nat) (p : Nat → Bool) : Word := wd ((List.range n).foldl (fun v j => if p j then v + 2 ^ j else v) 0)

/-- CH_BOOT_STATUS (Table 17.5); the live cores are counted once the tests have run. -/
def State.bootStatus (s : State) : Word :=
  let h := s.house
  wd (h.stage * 2 ^ 56 + h.image * 2 ^ 52 + h.cause * 2 ^ 44 + (if h.stage ≥ 6 then s.liveCores.length else 0))
/-- HIF_SQ_STATUS (Table 16.7). -/
def State.sqStatus (s : State) (q : Nat) : Nat :=
  let r := s.sq q
  (if s.cmds.any (fun c => c.sq = q) then 2 ^ 31 else 0) + (if r.cfgErr then 2 ^ 30 else 0) + r.head
/-- HIF_CQ_STATUS. -/
def State.cqStatus (s : State) (q : Nat) : Nat :=
  let r := s.cq q
  (if r.full then 2 ^ 31 else 0) + (if r.cfgErr then 2 ^ 30 else 0) + (if r.phase then 4096 else 0) + r.tail
/-- HIF_EVQ_STATUS (Table 20.3). -/
def State.evqStatus (s : State) : Nat :=
  (if s.evq.cfgErr then 2 ^ 31 else 0) + (if s.evq.phase then 4096 else 0) + s.evq.tail
/-- LNK_STATUS (Table 13.10). -/
def State.linkStatus (s : State) (l : Nat) : Nat :=
  let k := s.link l
  k.farPeer * 2 ^ 20 + k.farLevel * 4096 + min k.retrains 255 * 16 + k.state.code
/-- BRK_STATUS (R492, Table 21.8): TRAINING until the start-up has ended, SELF_REFRESH in I3 (Table 17.9). -/
def State.bedrockStatus (s : State) (k : Nat) : Word :=
  if s.house.fencedCtls.contains k then 3
  else if s.house.stage < 4 then 0
  else wd (s.house.refreshRate.get 0 k % 32 * 256 + (if s.house.idle = 3 then 2 else 1))
/-- SHL_STATUS (R493, Table 21.9). -/
def State.shaleStatus (s : State) (g : Nat) : Word :=
  wd (s.house.failedSlices.get 0 g * 16 + (if s.house.fencedStacks.contains g then 1 else 0))

/-- A register that can be written, as it reads (R483); those of a fenced core read their reset values (R485). -/
def State.readReg (s : State) : Reg → Word
  | .energyCfg => s.house.energyCfg.setWidth 64
  | .erepBase => s.house.erepBase
  | .hdmMap => s.port.hdmMap
  | .sqBase i => (s.sq i).base
  | .sqCfg i => (s.sq i).cfg.setWidth 64
  | .cqBase i => (s.cq i).base
  | .cqCfg i => (s.cq i).cfg.setWidth 64
  | .evqBase => s.evq.base
  | .evqCfg => s.evq.cfg.setWidth 64
  | .evqHead => wd s.evq.head
  | .evPending w => s.evPending.get 0 w
  -- the header's decoder count is the code for two decoders (log 16)
  | .hdm i => if i = 0 then 1 else (s.port.hdm.get 0 i).setWidth 64
  | .msix v p =>
    let e := s.port.msix.get {} v
    (match p with | 0 => e.addr &&& 0xFFFFFFFF#64 | 1 => e.addr >>> 32 | 2 => e.data.setWidth 64 | _ => e.control.setWidth 64)
  | .self => s.self.setWidth 64
  | .linkCtrl l => (s.link l).ctrl.setWidth 64
  | .route p => (s.routes.get 0 p).setWidth 64
  | .land k => s.landing.get 0 k
  | .acl i => (s.acl (i / 64) (i % 64)).setWidth 64
  | .domCore w => s.sec.domCore.get 0 w
  | .domPeer w => s.sec.domPeer.get (BitVec.allOnes 64) w
  | .domHost => s.sec.domHost
  | .lock => if s.sec.locked then 1 else 0
  | .svn => wd (s.sec.runningSvn % 64 * 256 + (if s.sec.commitBusy then 2 ^ 17 else 0) + s.fuses.svn % 64)
  | .lsClass w => s.sec.lsClass.get 0 w
  | .restoreKey k m => s.sec.restoreKey.get 0 (8 * k + m)
  | .setCtrl n => s.sets.get 0 n
  | .setMask i => s.setMasks.get 0 i
  | .coreCfg c =>
    let k := if s.fenced c then {} else s.core c
    wd (k.queueMode * 256 + k.queueModeWanted)
  | .stalemate c => (if s.fenced c then ({} : CoreSt) else s.core c).stalemateCfg.setWidth 64
  | .bwCfg => s.bwCfg.setWidth 64
  | .gauCfg c => (if s.fenced c then ({} : CoreSt) else s.core c).gauger.cfg
  | .smpBase c => (if s.fenced c then ({} : CoreSt) else s.core c).gauger.smpBase
  | .dumpBase c => (if s.fenced c then ({} : CoreSt) else s.core c).gauger.dumpBase
  | .gauSel c j => ((if s.fenced c then ({} : CoreSt) else s.core c).gauger.selOf j).setWidth 64
  | .unit u i => s.mirrorWord u i

/-- The registers only read: width in bytes and value, by the address of their first byte. -/
def State.readOnly (s : State) (a : Nat) : Option (Nat × Word) :=
  if a = 0 then some (8, 0x0D11010100000000)
  else if a = 8 then some (8, s.bootStatus)
  else if 0x40 ≤ a ∧ a < 0xC0 then
    (if a % 8 = 0 then some (8, bitsWhere 64 (fun j => s.fenced (8 * (a - 0x40) + j))) else none)
  else if a = 0xC0 then some (8, bitsWhere 36 s.house.fencedLinks.contains ||| (bitsWhere 12 s.house.fencedCtls.contains <<< 48))
  else if a = 0xC8 then some (8, bitsWhere 32 s.house.fencedStacks.contains)
  else if a = 0x110 then some (8, wd s.house.erepSeq)
  else if 0x10800 ≤ a ∧ a < 0x11000 then
    let i := (a - 0x10800) / 32
    (match a % 32 with | 0xC => some (4, wd (s.sqStatus i)) | 0x1C => some (4, wd (s.cqStatus i)) | _ => none)
  else if a = 0x11010 then some (4, wd s.evqStatus)
  else if 0x11800 ≤ a ∧ a < 0x12000 then
    (if a % 8 = 0 then some (8, (s.evCounts.get {} ((a - 0x11800) / 8)).word) else none)
  else if a = 0x31000 ∨ a = 0x31008 then some (8, bitsWhere 64 (fun j => idxMem s.port.pba (8 * (a - 0x31000) + j)))
  else if 0x40100 ≤ a ∧ a < 0x40220 then
    (if a % 8 = 4 then some (4, wd (s.linkStatus ((a - 0x40100) / 8))) else none)
  else if 0xB0000 ≤ a ∧ a < 0xB0060 then (if a % 8 = 0 then some (8, s.bedrockStatus ((a - 0xB0000) / 8)) else none)
  else if 0xB0100 ≤ a ∧ a < 0xB0200 then (if a % 8 = 0 then some (8, s.shaleStatus ((a - 0xB0100) / 8)) else none)
  else if 0x400000 ≤ a ∧ a < 0x600000 then
    let c := (a - 0x400000) / 2048
    let j := a % 2048 / 8
    (if a % 8 ≠ 0 then none
     else if s.fenced c then some (8, 0)
     else some (8, (s.mirrorOf c j).getD (((s.core c).gauger.counters.get {} j).word)))
  else if 0xC00000 ≤ a ∧ a < 0xD00000 then
    let k := 1024 * ((a - 0xC00000) / 4096) + 0x300 + a % 4096 / 16
    (match a % 16 with | 0 => some (8, s.bwLast.get 0 k) | 8 => some (8, wd (s.bwPeak.get 0 k)) | _ => none)
  else none

/-- Is the read-only register served before READY (R429)? -/
def earlyRead (a : Nat) : Bool := decide (a < 0xD0) || a = 0x31000 || a = 0x31008
/-- The register whose first byte is at `a`, served in the state the module is in: width and value. -/
def State.readAtAddr (s : State) (a : Nat) : Option (Nat × Word) :=
  match s.readOnly a with
  | some x => if s.served ∨ earlyRead a then some x else none
  | none => match regAt a with
    | some r => if s.served ∨ r.early then some (r.bytes, s.readReg r) else none
    | none => none
/-- A 4-byte read: a 32-bit register, or the addressed half of a 64-bit one; 0 where there is none (R482, R483). -/
def State.readHalf (s : State) (a : Nat) : Word :=
  match s.readAtAddr a with
  | some (_, w) => w &&& 0xFFFFFFFF#64
  | none => if a % 8 = 4 then (match s.readAtAddr (a - 4) with
      | some (8, w) => w >>> 32
      | _ => 0) else 0
/-- The answer to a BAR0 read (R402, R483): `none` while the link or the rails are down; 0 when misaligned. -/
def State.readBar (s : State) (a : Nat) (wide : Bool) : Option Word :=
  if !s.house.power ∨ !s.port.linkUp then none
  else if a % (if wide then 8 else 4) ≠ 0 then some 0
  else if !wide then some (s.readHalf a)
  else match s.readAtAddr a with
    | some (8, w) => some w
    | _ => some (s.readHalf a ||| (s.readHalf (a + 4) <<< 32))

/-! ## Configuration space (R481) -/

/-- A DOE protocol of Table 16.1. -/
inductive DoeProtocol where
  | discovery | cma | securedCma | cdat
  deriving DecidableEq, Repr
/-- A structure of Table 21.1 with its content specific to the module. The fields that PCI Express and CXL define for it alike in
every function are not told (log 55). -/
inductive ConfigStruct where
  | pcie (width rate : Nat)
  | msix (entries tableBar table pbaBar pba : Nat)
  | errorReporting
  | doe (protocols : List DoeProtocol)
  | cxlDvsec (vendor id : Nat) (cache io mem : Bool) (hdmCount : Nat)
  | flexBus (id : Nat)
  | locator (id : Nat) (componentBar component : Nat)
  | ide (linkStreams selectiveStreams : Nat) (secure : Bool)
  | secondary (rates : List Nat)
  deriving DecidableEq, Repr
/-- The structures of the configuration space, with their offsets (Table 21.1): they are hard-wired, except that the one link
stream is secure while it has keys (R455). -/
def State.configSpace (s : State) : List (Nat × ConfigStruct) :=
  [(0x040, .pcie 16 64),
   (0x080, .msix 65 0 0x30000 0 0x31000),
   (0x100, .errorReporting),
   (0x148, .doe [.discovery, .cma, .securedCma, .cdat]),
   (0x160, .cxlDvsec 0x1E98 0x0000 true true true 2),
   (0x1A0, .flexBus 0x0007),
   (0x1C0, .locator 0x0008 0 0x20000),
   (0x1E0, .ide 1 0 s.port.ideIo),
   (0x200, .secondary [16, 32, 64])]
/-- The structure at an offset, if one begins there. -/
def State.configAt (s : State) (off : Nat) : Option ConfigStruct := (s.configSpace.find? (fun x => x.1 = off)).map (·.2)

end Sys2Proof.Machine
end

