-- ==== Sys2Proof/Safety.lean ====
section
/-! DEFINITION. What counts as a safe run: the machine answers a next state, its memories keep their canonical form, and
locked access tables stay as they are. -/

namespace Sys2Proof

/-- The canonical form of the five byte memories of a core. -/
def coreWf (k : Machine.CoreSt) : Bool :=
  Mem.wf k.ls.data && Mem.wf k.trf.data && Mem.wf k.pattern.data && Mem.wf k.imem.data && Mem.wf k.dmem.data
/-- The canonical form of every byte memory of the module: those of its cores, and the module's own. -/
def memoriesWf (s : Machine.State) : Bool :=
  s.cores.all (fun p => coreWf p.2) && Mem.wf s.hostMem && Mem.wf s.flash && Mem.wf s.tiers.shale.data && Mem.wf s.tiers.bedrock

/-- The machine answers a next state whose memories have their canonical form. -/
def SafeStep (s : Machine.State) : Prop := ∃ t, Machine.step s = .next t ∧ memoriesWf t = true

/-- Where the first security state is locked, the second is locked with the same registers of Table 18.3, SEC_RESTORE_KEY
and configuration digest (R448). -/
def sameLock (x y : Machine.Security) : Prop :=
  x.locked = true → y.locked = true ∧ y.acl = x.acl ∧ y.domCore = x.domCore ∧ y.domPeer = x.domPeer ∧
    y.domHost = x.domHost ∧ y.lsClass = x.lsClass ∧ y.restoreKey = x.restoreKey ∧ y.digest = x.digest

/-- The commands that clear or reset the security state: ZEROISE, loss of power, and the three cold resets (R448). -/
def clearsLock : Instr → Bool
  | .zeroise .. | .powerOn | .powerLoss | .perstNAssert .. | .cxlReset => true
  | _ => false

end Sys2Proof
end

