-- ==== Sys2Proof/Safety/Threads.lean ====
section
/-! DEFINITION. The words the statements about the Tally use: when a thread issues an instruction, what issuing changes
besides the instruction's own effect, and the results of Tables 5.5 and 5.6 as arithmetic on integers. -/

namespace Sys2Proof

open Machine

/-- Thread `t` of core `c` may issue in this state (R127, R128), and the word at its program counter is intact and encodes `op`
(R130, R136). -/
def Issues (s : State) (c t : Nat) (op : TallyOp) : Prop :=
  s.coreRuns c = true ∧ (s.core c).mayIssue t = true ∧ ∃ w, (s.core c).fetch t = some (w, false) ∧ tallyDecode w = some op

/-- The cycle in which a thread of the core issues: `gap` cycles after the core's last step, and after its last issue (R127). -/
def issueCycle (k : CoreSt) (gap : Nat) : Nat := max (k.cycle + gap) (k.lastIssue + 1)

/-- The core after what issuing alone changes: the shadow writes that are due are performed (R138), a corrected error of the
fetched word is gone (R130), the thread that yielded is forgotten, and the issue's thread and cycle are recorded. -/
def issuedCore (k : CoreSt) (t gap : Nat) (single : List Nat) : CoreSt :=
  { k.performShadow (issueCycle k gap) with
    cycle := issueCycle k gap, lastIssue := issueCycle k gap, lastThread := t, yielded := none, imem := { k.imem with single := single } }

/-- `y` is `x` but for what the passing of cycles and the counting of events change: the Gauger's counters and energy accounts, the
array's plan and its side loader, the count of the stalemate detector, and the note of the present cycle. -/
def Aside (x y : CoreSt) : Prop :=
  y = { x with
    calm := y.calm, note := y.note,
    pipe := { x.pipe with sets := y.pipe.sets, loaderFree := y.pipe.loaderFree, plan := y.pipe.plan },
    gauger := { x.gauger with
      counters := y.gauger.counters, accounts := y.gauger.accounts, unclaimed := y.gauger.unclaimed,
      charged := y.gauger.charged, fresh := y.gauger.fresh, winDynamic := y.gauger.winDynamic,
      winOther := y.gauger.winOther } }

/-- `u` is `s` with core `c` at `k`, the passing of cycles apart. -/
def CoreAt (s u : State) (c : Nat) (k : CoreSt) : Prop := ∃ y, Aside k y ∧ u = { s with cores := s.cores.set c y }

/-- `u` is `s` with core `c` changed by `f`, after what the issue of an instruction by thread `t` alone changes. -/
def Issued (s u : State) (c t gap : Nat) (f : CoreSt → CoreSt) : Prop :=
  ∃ single, CoreAt s u c (f (issuedCore (s.core c) t gap single))

/-- Event bits set in the core cycle of an issue, which a clear in that cycle does not take away (R149). -/
def freshBits (k : CoreSt) (gap : Nat) : Word := if k.note.cycle = issueCycle k gap then k.note.bits else 0

/-- The thread at its next instruction, register `rd` holding `v`; a write to t0 is discarded (R126). -/
def wrote (t : Nat) (rd : Fin 32) (v : Word) (k : CoreSt) : CoreSt :=
  k.setThread t { k.thread t with
    regs := if rd.val = 0 then (k.thread t).regs else (k.thread t).regs.set rd v, pc := (k.thread t).pc + 4, state := .ready, wait := none, met := false }

/-- The command of a register instruction. -/
def regRow (f : RegFn) (c : CoreId) (t : Fin 4) (gap : Nat) (rd rs1 rs2 : Fin 32) : Instr :=
  match f with
  | .add => .add c t gap rd rs1 rs2 | .sub => .sub c t gap rd rs1 rs2 | .and => .and c t gap rd rs1 rs2
  | .or => .or c t gap rd rs1 rs2 | .xor => .xor c t gap rd rs1 rs2 | .sll => .sll c t gap rd rs1 rs2
  | .srl => .srl c t gap rd rs1 rs2 | .sra => .sra c t gap rd rs1 rs2 | .slt => .slt c t gap rd rs1 rs2
  | .sltu => .sltu c t gap rd rs1 rs2 | .mul => .mul c t gap rd rs1 rs2 | .mulhu => .mulhu c t gap rd rs1 rs2
  | .min => .min c t gap rd rs1 rs2 | .max => .max c t gap rd rs1 rs2 | .amoadd => .amoadd c t gap rd rs1 rs2
  | .jr => .jr c t gap rd rs1 rs2 | .jalr => .jalr c t gap rd rs1 rs2 | .slwx => .slwx c t gap rd rs1 rs2
  | .evclr => .evclr c t gap rd rs1 rs2 | .tstart => .tstart c t gap rd rs1 rs2 | .fence => .tallyFence c t gap rd rs1 rs2
  | .ffence => .ffence c t gap rd rs1 rs2 | .yield => .yield c t gap rd rs1 rs2 | .halt => .halt c t gap rd rs1 rs2
  | .eret => .eret c t gap rd rs1 rs2

/-- The command of an immediate instruction. -/
def immRow (o : ImmOp) (c : CoreId) (t : Fin 4) (gap : Nat) (rd rs1 : Fin 32) (v : BitVec 16) : Instr :=
  match o with
  | .addi => .addi c t gap rd rs1 v | .andi => .andi c t gap rd rs1 v | .ori => .ori c t gap rd rs1 v
  | .xori => .xori c t gap rd rs1 v | .slli => .slli c t gap rd rs1 v | .srli => .srli c t gap rd rs1 v
  | .srai => .srai c t gap rd rs1 v | .slti => .slti c t gap rd rs1 v | .sltiu => .sltiu c t gap rd rs1 v
  | .ld => .ld c t gap rd rs1 v | .lw => .lw c t gap rd rs1 v | .lws => .lws c t gap rd rs1 v | .lh => .lh c t gap rd rs1 v
  | .lb => .lb c t gap rd rs1 v | .rds => .rds c t gap rd rs1 v | .wrs => .wrs c t gap rd rs1 v | .slw => .slw c t gap rd rs1 v
  | .slr => .slr c t gap rd rs1 v | .nrd => .nrd c t gap rd rs1 v | .nwait => .nwait c t gap rd rs1 v
  | .nbump => .nbump c t gap rd rs1 v | .launch => .launch c t gap rd rs1 v | .evwait => .evwait c t gap rd rs1 v

/-- The command of a store. -/
def storeRow (o : StoreOp) (c : CoreId) (t : Fin 4) (gap : Nat) (rs2 rs1 : Fin 32) (v : BitVec 16) : Instr :=
  match o with
  | .sd => .sd c t gap rs2 rs1 v | .sw => .sw c t gap rs2 rs1 v | .sh => .sh c t gap rs2 rs1 v | .sb => .sb c t gap rs2 rs1 v

/-- The command of a branch. -/
def branchRow (o : BranchOp) (c : CoreId) (t : Fin 4) (gap : Nat) (rs1 rs2 : Fin 32) (off : BitVec 16) : Instr :=
  match o with
  | .beq => .beq c t gap rs1 rs2 off | .bne => .bne c t gap rs1 rs2 off | .blt => .blt c t gap rs1 rs2 off
  | .bge => .bge c t gap rs1 rs2 off | .bltu => .bltu c t gap rs1 rs2 off | .bgeu => .bgeu c t gap rs1 rs2 off

/-- A 64-bit word of an integer, modulo 2^64 (R137). -/
def wrap (x : Int) : Word := BitVec.ofInt 64 x

/-- Table 5.5: the result of an arithmetic register function on the integers its operands stand for. -/
def regResult (f : RegFn) (a b : Word) : Option Word :=
  let n := b.toNat % 64
  match f with
  | .add => some (wrap (a.toNat + b.toNat))
  | .sub => some (wrap (a.toNat - b.toNat))
  | .and => some (a &&& b)
  | .or => some (a ||| b)
  | .xor => some (a ^^^ b)
  | .sll => some (wrap (a.toNat * 2 ^ n))
  | .srl => some (wrap (a.toNat / 2 ^ n))
  | .sra => some (wrap (a.toInt / 2 ^ n))
  | .slt => some (if a.toInt < b.toInt then 1 else 0)
  | .sltu => some (if a.toNat < b.toNat then 1 else 0)
  | .mul => some (wrap (a.toNat * b.toNat))
  | .mulhu => some (wrap (a.toNat * b.toNat / 2 ^ 64))
  | .min => some (if a.toInt ≤ b.toInt then a else b)
  | .max => some (if a.toInt ≤ b.toInt then b else a)
  | _ => none

/-- Table 5.6: the result of an arithmetic immediate operation; the immediate is signed, but for the logical operations and the
shift amounts. -/
def immResult (o : ImmOp) (a : Word) (v : BitVec 16) : Option Word :=
  let n := v.toNat % 64
  match o with
  | .addi => some (wrap (a.toNat + v.toInt))
  | .andi => some (BitVec.ofNat 64 (a.toNat &&& v.toNat))
  | .ori => some (BitVec.ofNat 64 (a.toNat ||| v.toNat))
  | .xori => some (BitVec.ofNat 64 (a.toNat ^^^ v.toNat))
  | .slli => some (wrap (a.toNat * 2 ^ n))
  | .srli => some (wrap (a.toNat / 2 ^ n))
  | .srai => some (wrap (a.toInt / 2 ^ n))
  | .slti => some (if a.toInt < v.toInt then 1 else 0)
  | .sltiu => some (if a.toNat < (v.toInt % 2 ^ 64).toNat then 1 else 0)
  | _ => none

/-- The condition of a branch on the integers its operands stand for. -/
def branchHolds (o : BranchOp) (a b : Word) : Prop :=
  match o with
  | .beq => a = b | .bne => a ≠ b | .blt => a.toInt < b.toInt | .bge => b.toInt ≤ a.toInt | .bltu => a.toNat < b.toNat
  | .bgeu => b.toNat ≤ a.toNat

/-- The thread at another instruction, register `rd` holding `v` (R137). -/
def went (t : Nat) (rd : Nat) (v target : Word) (k : CoreSt) : CoreSt :=
  k.setThread t { k.thread t with
    regs := if rd = 0 then (k.thread t).regs else (k.thread t).regs.set rd v, pc := target, state := .ready, wait := none, met := false }

/-- A launch request placed at the end of the invocation queue with its number, start index, length and the shadow slots (R139,
R142). -/
def launched (t : Nat) (rd : Fin 32) (a : Word) (k : CoreSt) : CoreSt :=
  wrote t rd ((k.invIssued + 1).setWidth 64) { k with
    invIssued := k.invIssued + 1,
    invQueue := k.invQueue ++ [⟨(k.invIssued + 1).toNat, a.toNat % 2 ^ 12, a.toNat / 2 ^ 16 % 2 ^ 13, k.shadow⟩] }

/-- A load's number of `n` bytes as its register holds it, sign-extended or zero-extended (Table 5.6). -/
def loadedWord (n : Nat) (signed : Bool) (x : Nat) : Word :=
  if signed ∧ 2 ^ (8 * n - 1) ≤ x then wrap (x - 2 ^ (8 * n)) else wrap x

/-- `after` holds the low `n` bytes of `v` from `a` on, least significant first, and every other byte as `before` (R131). -/
def Stored (before after : Mem) (a n v : Nat) : Prop :=
  ∀ x, after.rd x = if a ≤ x ∧ x < a + n then BitVec.ofNat 8 (v / 256 ^ (x - a)) else before.rd x

/-- The array's parts with a local-store line gone from the feeders' operand caches (R73). -/
def withoutLine (p : ArrayPipe) (line : Nat) : ArrayPipe :=
  { p with feeders := p.feeders.map (fun f => (f.1, f.2.filter (fun x => x.line ≠ line))) }

/-- Table 5.3: may an aligned access of `n` bytes be made at `a`? -/
def mapped (a n : Nat) (write : Bool) : Prop :=
  a < 0x10000 ∨ (0x100000 ≤ a ∧ a < 0x180000) ∨ (0x200000 ≤ a ∧ a < 0x201000 ∧ n = 8) ∨
    (0x210000 ≤ a ∧ a < 0x210080 ∧ n = 4 ∧ write = false) ∨ (0x20000000000 ≤ a ∧ a < 0x40000000000)

/-- `n` bytes from bit `8 * o` of a block, as a number. -/
def bytesAt (d o n : Nat) : Nat := d / 2 ^ (8 * o) % 2 ^ (8 * n)

/-- The core after the cycles before a waiting thread's instruction is tried again; a launcher takes its turn (R141). -/
def wokenCore (k : CoreSt) (t gap : Nat) : CoreSt :=
  { k.performShadow (issueCycle k gap) with
    cycle := issueCycle k gap, lastIssue := issueCycle k gap, lastThread := if k.wants t then t else k.lastThread }

/-- `u` is `s` with core `c` changed by `f`, after the cycles before waiting thread `t` goes on. -/
def Woken (s u : State) (c t gap : Nat) (f : CoreSt → CoreSt) : Prop := CoreAt s u c (f (wokenCore (s.core c) t gap))

/-- Thread `t` of core `c` waits at the instruction `op`, which it may try again (R128). -/
def Waits (s : State) (c t : Nat) (op : TallyOp) : Prop :=
  s.coreRuns c = true ∧ (s.core c).mayWake t op = true ∧ ∃ w b, (s.core c).fetch t = some (w, b) ∧ tallyDecode w = some op

/-- The exception words of a thread (R153), and what the core is then: in its handler, or with the thread halted and
thread_exc set (R154). -/
def tookException (t : Nat) (cause : Nat) (addr : Word) (k : CoreSt) : CoreSt :=
  let th := k.thread t
  let x : Thread := { th with excCause := BitVec.ofNat 64 cause, excPc := th.pc, excAddr := addr, wait := none, met := false }
  if th.excVector ≠ 0 ∧ th.handler = false then
    k.setThread t { x with pc := th.excVector, handler := true, state := .ready }
  else { k.setThread t { x with state := .halted } with evPending := k.evPending ||| (1 <<< 5) }

/-- `y` is `x` with `amt` added to notch `n`: a wait that was met stays met, in a queue entry and in a thread (R147, R160). -/
def Bumped (x y : CoreSt) (n amt : Nat) : Prop :=
  y = { x with notches := x.notches.set n (x.notch n + BitVec.ofNat 48 amt), met := y.met, threads := y.threads, calm := y.calm } ∧
  (∀ w ∈ x.met, w ∈ y.met) ∧
  ∀ u, y.thread u = { x.thread u with met := (y.thread u).met } ∧ ((x.thread u).met = true → (y.thread u).met = true) ∧
    ∀ m v, (x.thread u).wait = some (m, v) → (x.notch m - v).toNat < 2 ^ 47 → (y.thread u).met = true

/-- TALLY_EXCEPTION, when the exception halts the thread (R154). -/
def exceptionEvents (c t cause : Nat) (addr : Word) (k : CoreSt) : List Occurrence :=
  let th := k.thread t
  if th.excVector ≠ 0 ∧ th.handler = false then []
  else [⟨0x08, [BitVec.ofNat 64 (c + t * 2 ^ 16 + cause * 2 ^ 20), th.pc, addr]⟩]

end Sys2Proof
end

