-- ==== Sys2Proof/Safety/Engines.lean ====
section
/-! DEFINITION. The words the statements about the engines use: when the head of an engine's queue begins, what beginning and
ending a micro-op do around its effect, and which commands run which operation codes. -/

namespace Sys2Proof

open Machine Numbers

/-- The micro-op `o` is at the head of engine `g`'s queue on core `c`, and it may begin (R113). -/
def Heads (s : State) (c : Nat) (g : Engine) (o : MicroOp) : Prop :=
  s.coreRuns c = true ∧ ((s.core c).queue g).head? = some o ∧ o.eng = g ∧ o.marker = false ∧ (s.core c).mayBegin o = true

/-- The core with the micro-op begun, `gap` cycles after its last step: it has left its queue for the begun ones. -/
def begunBy (s : State) (c gap : Nat) (o : MicroOp) : Eff :=
  Eff.begin ⟨c, { s.core c with cycle := ((s.core c).cycle + gap) % 2 ^ 64 }, []⟩ o 0

/-- The module after a micro-op's effect `e`: its read regions are released (R124), the cycles counted, its events joined. -/
def endedBy (s : State) (c : Nat) (o : MicroOp) (e : Eff) : State := s.landCore c (e.released o)

/-- The command of a core and its cycles. -/
abbrev CoreRow := CoreId → Nat → Instr

/-- The commands of the vector unit with their operation codes (Tables 7.2, 8.3 and 9.2). -/
def vectorRows : List (CoreRow × Nat) :=
  [(.tilecfg, 0x01), (.moveIn, 0x02), (.moveOut, 0x03), (.convert, 0x04), (.transpose, 0x05), (.vecAdd, 0x08), (.vecSub, 0x09),
   (.vecMul, 0x0A), (.vecFma, 0x0B), (.vecMin, 0x0C), (.vecMax, 0x0D), (.vecAbs, 0x0E), (.vecNeg, 0x0F), (.vecExp, 0x10),
   (.vecExp2, 0x11), (.vecLog2, 0x12), (.vecRecip, 0x13), (.vecRsqrt, 0x14), (.vecTanh, 0x15), (.vecSigmoid, 0x16), (.vecSin, 0x17),
   (.vecCos, 0x18), (.rclear, 0x20), (.rsum, 0x21), (.rsumsq, 0x22), (.rmax, 0x23), (.rout, 0x24), (.rsetref, 0x25),
   (.smxExp, 0x26), (.rsave, 0x27), (.rload, 0x28), (.rmerge, 0x29), (.statsFlush, 0x30), (.updSgd, 0x40), (.updMomentum, 0x41),
   (.updAdam, 0x42), (.rngSeed, 0x44), (.rngSave, 0x45), (.rngLoad, 0x46), (.spikeCheck, 0x47), (.rdot, 0x50), (.smxGrad, 0x51),
   (.normGrad, 0x52), (.assay, 0x53), (.assaySet, 0x54)]
/-- The commands of the drain (Table 4.6). -/
def drainRows : List (CoreRow × Nat) := [(.round, 1), (.exportImage, 2), (.merge, 3)]
/-- The commands that begin a micro-op of the array, the vector unit or the drain. -/
def unitRows : List (CoreRow × Engine × Nat) :=
  [(.matmul, .array, 1)] ++ vectorRows.map (fun x => (x.1, .vector, x.2)) ++ drainRows.map (fun x => (x.1, .drain, x.2))

/-- Table 7.2: the function of each element-wise operation on FP32 bits. -/
def arithRows : List (CoreRow × Nat × Arith) :=
  [(.vecAdd, 0x08, .bin fadd), (.vecSub, 0x09, .bin fsub), (.vecMul, 0x0A, .bin fmul),
   (.vecFma, 0x0B, .tern ffma), (.vecMin, 0x0C, .bin fmin), (.vecMax, 0x0D, .bin fmax),
   (.vecAbs, 0x0E, .un fabs), (.vecNeg, 0x0F, .un fneg), (.vecExp, 0x10, .un (Fn.apply .exp)),
   (.vecExp2, 0x11, .un (Fn.apply .exp2)), (.vecLog2, 0x12, .un (Fn.apply .log2)),
   (.vecRecip, 0x13, .un (Fn.apply .recip)), (.vecRsqrt, 0x14, .un (Fn.apply .rsqrt)),
   (.vecTanh, 0x15, .un (Fn.apply .tanh)), (.vecSigmoid, 0x16, .un (Fn.apply .sigmoid)),
   (.vecSin, 0x17, .un (Fn.apply .sin)), (.vecCos, 0x18, .un (Fn.apply .cos))]

/-- Element j of row i of an element-wise operation's result before rounding, on the core as row i finds it (R183, R189). -/
def arithElem (f : Arith) (v : VecOp) (k : CoreSt) (i j : Nat) : Elem :=
  let a := k.trfElem (v.src v.s1) i j
  let b := k.modeElem v v.s2 (v.auxF 49 48) i j
  let d := k.modeElem v v.s3 (v.auxF 51 50) i j
  match f with | .un g => lift1 g a | .bin g => lift2 g a b | .tern g => lift3 g a b d

/-- Element j of row i of the softmax gradient (R216) or the normalisation gradient (R217) before rounding. -/
def gradElem (norm : Bool) (v : VecOp) (k : CoreSt) (i j : Nat) : Elem :=
  let x := k.trfElem (v.src v.s1) i j
  let y := k.trfElem (v.src v.s2) i j
  let s0 := k.trfElem v.rowStats 0 i
  let s1 := k.trfElem v.rowStats 1 i
  let s2 := k.trfElem v.rowStats 2 i
  let rms := v.auxF 54 54 = 1
  if norm then
    (val32 (fmul (ffma (fneg (fp32 y.1)) (fp32 s1.1) (fsub (fp32 x.1) (if rms then 0 else fp32 s0.1)))
      (fp32 s2.1)), x.2 || y.2 || (!decide rms && s0.2) || s1.2 || s2.2)
  else (val32 (fmul (fmul (fp32 x.1) (fp32 s0.1)) (fsub (fp32 y.1) (fp32 s1.1))), x.2 || y.2 || s0.2 || s1.2)

/-- The term element j of row i adds to its reducer entry (R199, R215). -/
def reduceTerm (op : Nat) (v : VecOp) (k : CoreSt) (i j : Nat) : Ledger :=
  let x := k.trfElem v.dst i j
  let m := k.trfElem ((trfWord v.s1 v.inst).asSource 1 v.dst.rows) 0 i
  let y := k.trfElem (v.src v.s1) i j
  let d : Elem := if v.flag then (val32 (fsub (fp32 x.1) (fp32 m.1)), x.2 || m.2) else x
  match op with
  | 0x21 => LedgerOps.ofVal x.2 x.1
  | 0x22 => LedgerOps.product d.2 d.2 d.1 d.1
  | _ => LedgerOps.product x.2 y.2 x.1 y.1

/-- A ledger entry as the array or the drain reads it: a parity error makes it POISON (R61). -/
def entryRead (k : CoreSt) (tile r c : Nat) : Ledger :=
  if (k.ledger tile r c).parityBad then LedgerOps.ofTag .poison else k.ledger tile r c

end Sys2Proof
end

