-- ==== Sys2Proof/Safety/Fabric.lean ====
section
/-! DEFINITION. The words the statements about the Carters, the fabric and the memory tiers use. -/

namespace Sys2Proof

open Machine

/-- Accesses with the numbers they take as they join the pool. -/
def numbered (n : Nat) (ts : List Txn) : List Txn := ts.zipIdx.map (fun x => { x.1 with id := n + x.2 })

/-- The core and the cycle of a Carter micro-op that began: it left its queue and waits for `n` accesses; threads, stores, notches
and the other queues are as before. -/
def CarterBegan (k u : CoreSt) (g : Engine) (gap : Nat) (o : MicroOp) (n : Nat) : Prop :=
  u.cycle = (k.cycle + gap) % 2 ^ 64 ∧ u.queue g = (k.queue g).drop 1 ∧
  (∃ l, u.active g = l ++ [⟨o, n, false⟩] ∧ l.map (·.op) = (k.active g).map (·.op) ∧
    ((∀ r ∈ k.active g, r.op.uid ≠ o.uid) → l = k.active g)) ∧
  (∀ h, h ≠ g → u.queue h = k.queue h ∧ u.active h = k.active h) ∧ u.ls.data = k.ls.data ∧
  Aside { k with
    ls := u.ls, queues := u.queues, running := u.running, scoreboard := u.scoreboard, cycle := u.cycle,
    gauger := { k.gauger with samples := u.gauger.samples } } u

/-- The unit a TAG_ISSUE names: an inbound or outbound Carter, or a Drayman. -/
def issuer (engine : Fin 3) (n : Nat) : Src := if engine = 2 then .drayman n else if engine = 0 then .inbound n else .outbound n
/-- The access an engine issues next: the first in its line, behind nothing, its bank and its tags under their caps (R289 to
R292). -/
def Issuable (s : State) (src : Src) (x : Txn) : Prop :=
  (s.inLine src).head? = some x ∧ s.mustWait x = false ∧ s.tagsHeld src < src.caps.1 ∧
  ∀ b, (s.headed x).bind Loc.bank = some b → s.bankTags src b < src.caps.2

/-- In `t` the access is `y`, and every other of the pool is as in `s`. -/
def Moved (s t : State) (y : Txn) : Prop := t.txn y.id = some y ∧ ∀ m, m ≠ y.id → t.txn m = s.txn m

/-- An access that has set out for a place, at the start of its path (R303). -/
def departed (s : State) (x : Txn) (l : Loc) (link : Nat) : Txn :=
  { x with phase := .sent l, path := hopsOut x.src l link, entered := s.nextIssue, link := link, checkFails := 0 }
/-- An access that has been performed, or refused at its target, on its way back to its issuer. -/
def returned (s : State) (x : Txn) (l : Loc) (code : Nat) : Txn :=
  { x with phase := .done code, path := hopsBack x.src l x.link, entered := s.nextIssue, checkFails := 0, flits := [] }

/-- The access numbered `n` has reached `l` over all its hops; nothing earlier is to be performed there first (R174), and the host
holds no copy of the block (R405). -/
def AtTarget (s : State) (n : Nat) (x : Txn) (l : Loc) : Prop :=
  s.txn n = some x ∧ x.phase = .sent l ∧ x.path = [] ∧ s.inOrder x l = true ∧ s.snooped l = false

/-- The pool after a write is performed: a posted one leaves it, another goes back to be acknowledged (R283). -/
def wroteTxns (ts : List Txn) (x z : Txn) : List Txn :=
  match x.src with
  | .outbound _ | .drayman _ | .tally _ _ | .house | .lib _ => ts.map (fun y => if y.id = x.id then z else y)
  | _ => ts.filter (fun y => y.id ≠ x.id)

/-- A memory with the bytes of a block write in it, `i` the index of the block's first byte. -/
def withRuns (m : Mem) (i : Nat) (runs : Runs) : Mem := runs.foldl (fun m r => m.wrBytes (i + r.1) (r.2.map (·.1))) m

/-- The target cores of a burst in guild `g` whose access table refuses it (R445). -/
def refusedThere (s : State) (b : Burst) (g : Nat) : List Nat :=
  b.targets.filter (fun c => decide (guildOf c = g) && !s.allowed 44 (s.lsClass c) (masterId 2 b.core) true)
/-- Where the first flit of a burst goes. -/
def firstOff (b : Burst) : Nat := match b.flits with | (fs, q) :: _ => flitBase q fs | [] => 0

/-- A burst may be served: the oldest of its core, behind no earlier write of its sender (R174, R315, R316). -/
def BurstFirst (s : State) (b : Burst) : Prop :=
  s.burst b.id = some b ∧ (∀ y ∈ s.bursts, y.core = b.core → b.id ≤ y.id) ∧ s.behindWrites b = false

end Sys2Proof
end

