-- ==== Sys2Proof/Safety/Registers.lean ====
section
/-! DEFINITION. The words the statements about BAR0 use: the registers that hold what is written to them, by address. -/

namespace Sys2Proof

open Machine

/-- A row of registers of one kind: the first address, how many, from one to the next, width in bytes, writable bits. -/
structure RegRow where
  base : Nat
  count : Nat
  stride : Nat
  bytes : Nat
  mask : Word

/-- Set-up registers that hold their writable bits and do nothing else (Tables 12.7, 12.8, 13.9, 13.10, 16.3, 19.5). -/
def plainRows : List RegRow :=
  [⟨0x10000, 1, 8, 8, 0x1FFF0000000⟩, ⟨0x44000, 4096, 4, 4, 0x8000003F⟩,
   ⟨0x48000, 256, 8, 8, 0x80FFFFFC01FFFFFF⟩, ⟨0x90000, 256, 8, 8, 0x803FF8FC00000000⟩, ⟨0x98000, 4096, 8, 8, 0xFFFFFFFFFFFFFFFF⟩,
   ⟨0x100000, 1, 8, 4, 0x3F⟩]
/-- The registers SEC_LOCK locks: those of Table 18.3, and the five words of each SEC_RESTORE_KEY (R448). -/
def lockRows : List RegRow :=
  [⟨0x80000, 3072, 4, 4, 0xFFFFFFFF⟩, ⟨0x84000, 64, 8, 8, 0xFFFFFFFFFFFFFFFF⟩, ⟨0x84800, 256, 8, 8, 0xFFFFFFFFFFFFFFFF⟩,
   ⟨0x85000, 1, 8, 8, 0xF⟩, ⟨0x85400, 128, 8, 8, 0x3F3F3F3F3F3F3F3F⟩,
   ⟨0x86000, 64, 64, 8, 0xFFFFFFFFFFFFFFFF⟩, ⟨0x86008, 64, 64, 8, 0xFFFFFFFFFFFFFFFF⟩, ⟨0x86010, 64, 64, 8, 0xFFFFFFFFFFFFFFFF⟩,
   ⟨0x86018, 64, 64, 8, 0xFFFFFFFFFFFFFFFF⟩, ⟨0x86020, 64, 64, 8, 0x8000000000000FFF⟩]

/-- The rails and the CXL link are up and the module is READY or beyond: BAR0 is served (R402, R429). -/
def Serving (s : State) : Prop :=
  s.house.power = true ∧ s.port.linkUp = true ∧ s.house.dev ≠ .boot ∧ s.house.dev ≠ .failed

/-- Every 32-bit word of BAR0 but those of the `n` bytes at `a` reads in `t` as in `s`. -/
def ReadsElsewhere (s t : State) (a n : Nat) : Prop :=
  ∀ b, b % 4 = 0 → b + 4 ≤ a ∨ a + n ≤ b → t.readBar b false = s.readBar b false

/-- A unit counter (Table 19.4) and nothing else of the module differs from `s` to `t`: it counted one more, modulo 2^48. -/
def CountedOne (s t : State) (u i : Nat) : Prop :=
  t = { s with unitCounters := t.unitCounters } ∧ (t.unitCounter u i).count = ((s.unitCounter u i).count + 1) % 2 ^ 48 ∧
    ∀ v j, j < 1024 → (v, j) ≠ (u, i) → t.unitCounter v j = s.unitCounter v j

end Sys2Proof
end

