-- ==== Sys2Proof/Safety/Links.lean ====
section
/-! DEFINITION. The words the statements about the Ilusk ports use. -/

namespace Sys2Proof

open Machine

/-- A port `gap` link cycles later. -/
def tickedLink (s : State) (l gap : Nat) : LinkSt := { s.link l with cycle := ((s.link l).cycle + gap) % 2 ^ 64 }

/-- `t` is `s` with port `l` at `k`; the unit counters have counted. -/
def LinkOnly (s t : State) (l : Nat) (k : LinkSt) : Prop :=
  t = { s with links := s.links.set l k, unitCounters := t.unitCounters, bwNow := t.bwNow }

/-- The link header of the next flit a port sends: the ack, nak and credit fields of the moment (R327, R333, R334). -/
def sentHeader (k : LinkSt) (seq ftype vc hop dst : Nat) : FlitHeader :=
  { seq := seq, ack := (k.expected + 4095) % 4096, ftype := ftype, nak := k.nakDue, vc := vc, hop := hop, creditVc := k.rotate % 4,
    creditHop := k.rotate / 4, creditCnt := k.freed.get 0 k.rotate % 256, dst := dst }

/-- `t` is `s` with port `l` at `k` after a flit left it, whose 256 bytes the module answers. -/
def Sent (s t : State) (l : Nat) (k : LinkSt) (h : FlitHeader) (body : BitVec 1952) : Prop :=
  t = { s with
    links := s.links.set l { k with nakDue := false, rotate := (k.rotate + 1) % 12 }, unitCounters := t.unitCounters, bwNow := t.bwNow,
    port := { s.port with answer := .bytes (flitBytes h body) } }

/-- A 256-byte flit with these fields, its CRC right. -/
def goodFlit (h : FlitHeader) (body : BitVec 1952) : BitVec 2048 := BitVec.ofNat 2048 (leNat (flitBytes h body))
/-- The fields of a header fit their widths (Table 13.2). -/
def HeaderFits (h : FlitHeader) : Prop :=
  h.seq < 2 ^ 12 ∧ h.ack < 2 ^ 12 ∧ h.ftype < 4 ∧ h.vc < 4 ∧ h.hop < 4 ∧ h.creditVc < 4 ∧ h.creditHop < 4 ∧ h.creditCnt < 2 ^ 8 ∧ h.dst < 2 ^ 12

/-- Every request that waited at port `l` for an answer has ended as LINK_LOST, and the port holds nothing any more (R339). -/
def Lost (s t : State) (l : Nat) : Prop :=
  (t.link l).egress = [] ∧ (t.link l).retry = [] ∧ (t.link l).outstanding = [] ∧
  ∀ o ∈ (s.link l).outstanding, ∀ m ∈ o.txns, ∀ x, s.txn m = some x →
    ∃ y, t.txn m = some y ∧ y.phase = .done 8 ∧ (y.write = false → y.poison = true)

/-- No flit in a receiver's buffer waits for port `l` (R342). -/
def NoneWaits (s : State) (l : Nat) : Prop := ∀ x ∈ s.links, ∀ f ∈ x.2.waiting, f.out ≠ l

/-- A port that takes part in the exchange of flits, `gap` link cycles later; one in TRAINING is then in CONFIG (R337). -/
def flowingLink (s : State) (l gap : Nat) : LinkSt := { tickedLink s l gap with state := (s.link l).state.exchanging }
/-- A port after a flit of which it answers the loss: one nak until the next flit in sequence (R333). -/
def afterLoss (k : LinkSt) : LinkSt := if k.nakSent then k else { k with nakDue := true, nakSent := true }
/-- The egress entry that leaves next: the oldest that may, equal ages local ones first and then by channel (R342). -/
def nextEntry (s : State) (k : LinkSt) : Option Egress :=
  oldest (fun e : Egress => (e.entered, if e.ingress = none then 0 else 1, e.vc)) (k.egress.filter (s.maySend k))

end Sys2Proof
end

