-- ==== Sys2Proof/Safety/Host.lean ====
section
/-! DEFINITION. The words the statements about the host interface use. -/

namespace Sys2Proof

open Machine

/-- No fetched command is about to end by itself: no placement change whose accesses are performed, no startable entry that was
poisoned or has a reserved opcode (R253, R415, R418). -/
def Settled (s : State) : Prop :=
  ∀ c ∈ s.cmds, (∀ ids st d, c.phase = .waitAccesses ids st d → s.performedAll ids = false) ∧
    (c.phase = .fetched → s.mayStart c = true → c.bad = false ∧ opcodeKnown c.opcode = true)

/-- The command service starts `c`, an entry of opcode `o` whose fields are right and whose ring and core allow it (R415, Table 16.14). -/
def Starts (s : State) (o : Nat) (c : Cmd) : Prop :=
  Settled s ∧ s.commandFor o = some c ∧ c.fieldsOk = true ∧ (deviceWide c.opcode = true → (s.sq c.sq).priv = true) ∧
  (c.coreCommand = true → s.fenced c.core = false)

/-- The completion of a command (Table 16.10). -/
def completion (c : Cmd) (status detail : Nat) : Completion :=
  { cmd := c.num, cid := c.cid, sq := c.sq, status := status, index := c.index, detail := detail }

/-- `t` is `u` with command `c` ended: nothing changes but the commands, the completions that wait and the discarded ones' count; the
completion waits at its ring, if that is enabled (R413, R416). -/
def EndedCmd (u t : State) (c : Cmd) (status detail : Nat) : Prop :=
  t = { u with cmds := t.cmds, cqs := t.cqs, unitCounters := t.unitCounters } ∧
  (ringEnabled (u.cq (u.sq c.sq).cqOf).cfg = true → completion c status detail ∈ (t.cq (u.sq c.sq).cqOf).waiting)

/-- The quadword of host memory at an address. -/
def hostWord (s : State) (a : Nat) : Word := BitVec.ofNat 64 (s.hostMem.le a 8)

/-- The block of a DVA lies in a tier: translation under the entry the caches or the table give allows the access (R249 to R252). -/
def InTier (s : State) (g master dva : Nat) (write window : Bool) (l : Loc) (bad : Bool) : Prop :=
  dva < 2 ^ 41 ∧ dva % 64 = 0 ∧ s.judge (s.entryOf g (dva / 65536)).1 master dva write window = .go l bad ∧
  ((∃ k a, l = .shale k a) ∨ ∃ k a, l = .bedrock k a)

end Sys2Proof
end

