-- ==== Sys2Proof/Safety/Collective.lean ====
section
/-! DEFINITION. The words the statements about the collective library and the Scrivener use. -/

namespace Sys2Proof

open Machine Numbers

/-- The library runs under plan `p`, with what its patterns carry in `l` (R351, log 23). -/
def Planned (s : State) (p : Plan) (l : Layout) : Prop := s.coll.stopped = false ∧ s.coll.plan = some p ∧ s.coll.layout = some l
/-- What peers have answered to the library's reads. -/
def libAnswers (s : State) : List PeerAnswer := s.peerAnswers Src.isLib
/-- A step `w` of the units `mine` that needs nothing more from a host or a peer ends in `t`: the answers it used are gone (R345, R405). -/
def Done (mine : Src → Bool) (w t : State) : Prop := w.asks = [] → t = { w with txns := w.txns.filter (fun x => !x.asked mine) }
/-- So for the library. -/
def LibDone (w t : State) : Prop := Done Src.isLib w t
/-- So for the Scrivener. -/
def HouseDone (w t : State) : Prop := Done (· = .house) w t

/-- What block thinning adds up: x_j = rd(g_j + e_j), with its mark (Table 14.3 step 1). -/
def thinInputs (g e : List Fp) : List Fp := (g.zip e).map (fun x => (fp32 (addVal (val32 x.1.1) (val32 x.2.1)), x.1.2 || x.2.2))
/-- The mean magnitude of a block, rounded once (Table 14.3 step 3). -/
def meanMagnitude (xs : List Fp) : Nat :=
  fp32 (mulVal (xs.foldl (fun v x => addVal v (absVal (val32 x.1))) (.fin false 0 0)) (.fin false 1 (-6)))

/-- `t` is `s` with the blocks of slot `k` that its owner's core `q` has thinned on core `c`: the errors are in the other buffer, the thinned
form is in the owner's collective area, and the TOKEN that names both follows them (R356 to R362). The errors of the step before are 0 in the
plan's first step. -/
def Contributed (s t : State) (ans : List PeerAnswer) (p : Plan) (l : Layout) (c k q attempt : Nat) : Prop :=
  ∃ (first n area : Nat) (g e : List (Byte × Bool)) (xs : List (List Fp × List Fp)) (ts : List Thinned) (u v w x : State),
    (first, n) = p.piece k (s.slotCores p l k) q ∧ s.areaOf p l (p.primary p.ownStage k) = some area ∧
    (g, u) = s.libRead ans c (l.gradient.toNat + 256 * first) (256 * n) ∧
    (s.coll.step = p.step0 → e = markAll false (List.replicate (256 * n) 0) ∧ v = u) ∧
    (s.coll.step ≠ p.step0 → (e, v) = u.libRead ans c (p.emem + 4 * p.entries * (s.coll.step % 2) + 256 * first) (256 * n)) ∧
    xs = (chunks 64 (64 * n) (fpsOf g)).zip (chunks 64 (64 * n) (fpsOf e)) ∧ ts = xs.map (fun y => thinBlock y.1 y.2) ∧
    w = (v.libWrote c (xs.flatMap (fun y => thinWrites y.1 y.2))).libWrite c 0
      (p.emem + 4 * p.entries * ((s.coll.step + 1) % 2) + 256 * first) (fpBytes (ts.flatMap (·.err))) ∧
    x = w.libWrite c 2 (area + ((2 * p.ownSlot + p.role) * 1024 + q) * 131072) (markAll false (thinnedBytes ts)) ∧
    ∃ y, y = x.sendTo p l c (p.primary p.ownStage k) (0x400000000 + q / 32 * 262144 + ((2 * p.ownSlot + p.role) * 32 + q % 32) * 64)
        ⟨1, p.role, attempt, s.ownPeer, p.ownSlot, s.coll.step, n, first, thinnedDigest (thinnedBytes ts)⟩ (x.libSince c w.nextTxn) ∧
      t = { y with coll := { y.coll with thinned := if y.coll.thinned.contains (first, n) then y.coll.thinned else y.coll.thinned ++ [(first, n)] } }

/-- The TOKEN in line `n` of owner core `c` is one of the slot and role whose line it is (R360). -/
def TokenFor (s : State) (p : Plan) (c n slot role : Nat) (m : Message) (mark : Bool) : Prop :=
  s.coreRuns c = true ∧ p.role = 0 ∧ slot < p.slotCount ∧ (s.messageAt c n).1 = m ∧ (s.messageAt c n).2.2 = mark ∧
  m.kind = 1 ∧ m.code = role ∧ m.slot = slot ∧ m.attempt ≤ 1

/-- The Scrivener's service and the rails run (R424). -/
def Scrivening (s : State) : Prop := s.house.power = true ∧ s.house.tripped = false ∧ 2 ∉ s.house.services
/-- No access already sent was translated under a page `q` holds of (R253). -/
def NoneTranslated (s : State) (q : Nat → Bool) : Prop := ∀ x ∈ s.txns, ∀ l, x.phase = .sent l → ∀ a, x.target = .dva a → q (a / 65536) = false
/-- The device state after the Scrivener's work: READY, unless the module has failed. -/
def devAfter (s : State) : DevState := if s.house.dev = .failed ∨ s.house.dev = .zeroise then s.house.dev else .ready

end Sys2Proof
end

