-- ==== Sys2Proof/Certificates/Slice0/Obligations.lean ====
section
/-! DEFINITION. The statements about the module, by chapter of the manual. Each docstring names the rules it follows; where it
names a log entry, the statement rests on a choice of the model. -/

open Sys2Proof Sys2Proof.Machine Sys2Proof.Numbers

/-! ## The machine as a whole -/

/-- A step takes the command at the front of the queue and is that command's meaning on the state with the rest of the queue; on
an empty queue the module idles (log 11), and nothing changes but that a bit error may arise in a store (log 26). -/
def Obligations.StepRunsTheFrontCommand : Prop :=
  (∀ (s : State) (i : Instr) (rest : List Instr), s.pending = i :: rest → step s = exec i { s with pending := rest }) ∧
  ∀ s : State, s.pending = [] → ∃ t, step s = .next t ∧ t = { s with cores := t.cores, tiers := t.tiers, free := s.free + 1 } ∧
    (Config.upset s.free = none → t.cores = s.cores ∧ t.tiers = s.tiers) ∧
    ∀ x, Config.upset s.free = some x → t = State.strike { s with free := s.free + 1 } x

/-- No command of the table stops the module: each answers a next state in every state. -/
def Obligations.EveryCommandAnswers : Prop :=
  ∀ (i : Instr) (s : State), ∃ t, exec i s = .next t

/-- No command changes the queue of the commands that wait. -/
def Obligations.QueueLeftAlone : Prop :=
  ∀ (i : Instr) (s t : State), exec i s = .next t → t.pending = s.pending

/-- After a cold reset every memory has its canonical form. -/
def Obligations.MemoriesCanonicalAtReset : Prop :=
  memoriesWf State.reset = true

/-- Every step keeps the canonical form of every byte memory of the module and of its cores. -/
def Obligations.MemoriesStayCanonical : Prop :=
  ∀ s t : State, memoriesWf s = true → step s = .next t → memoriesWf t = true

/-- R448: once SEC_LOCK is set, no step changes the access tables, SEC_RESTORE_KEY or the configuration digest, nor clears the
lock, unless its command is a cold reset or a zeroisation. -/
def Obligations.LockHolds : Prop :=
  ∀ (s t : State) (i : Instr) (rest : List Instr), s.pending = i :: rest → clearsLock i = false → step s = .next t →
    sameLock s.sec t.sec

/-- R136: every Tally instruction whose fields are in range decodes from its own encoding, and every word that decodes is the
encoding of what it decodes to: no two words stand for one instruction. -/
def Obligations.TallyEncoding : Prop :=
  (∀ op : TallyOp, op.legal = true → tallyDecode (tallyEncode op) = some op) ∧
  ∀ (w : BitVec 32) (op : TallyOp), tallyDecode w = some op → tallyEncode op = w

/-- Tables 13.2 to 13.4: the link header, the slot header and the three slots of a body read back as they were written. -/
def Obligations.LinkHeadersReadBack : Prop :=
  (∀ h : FlitHeader, h.seq < 2 ^ 12 → h.ack < 2 ^ 12 → h.ftype < 4 → h.vc < 4 → h.hop < 4 → h.creditVc < 4 → h.creditHop < 4 →
    h.creditCnt < 2 ^ 8 → h.dst < 2 ^ 12 → FlitHeader.ofNat h.toNat = h) ∧
  (∀ h : SlotHeader, h.kind < 2 ^ 4 → h.addr < 2 ^ 35 → h.tag < 2 ^ 12 → h.master < 2 ^ 16 → h.burst < 2 ^ 8 → h.status < 2 ^ 4 →
    SlotHeader.ofBits h.toBits = h) ∧
  ∀ (src : Nat) (xs : List LinkSlot) (i : Nat) (x : LinkSlot), src < 2 ^ 12 → xs.length ≤ 3 → xs[i]? = some x →
    (∀ y ∈ xs, y.mask < 2 ^ 64) →
    bodySrc (slotsBody src xs) = src ∧
    ∃ y, (slotsOf (slotsBody src xs))[i]? = some y ∧ y.header = x.header ∧ y.data = x.data

/-- R25, R26: two terms combined have the state of Table 1.5 and, while that is FINITE, the sum of their values modulo 2^640,
else 0; a new ledger is FINITE 0; what a list of terms leaves does not depend on their order. -/
def Obligations.LedgerAddition : Prop :=
  LedgerOps.zero = ⟨0, .finite, 0⟩ ∧
  (∀ (a b s : Ledger), s = LedgerOps.combine a b →
    s.tag = (if a.tag = .poison ∨ b.tag = .poison then .poison else if a.tag = .nan ∨ b.tag = .nan then .nan
      else if a.tag = .finite then b.tag else if b.tag = .finite then a.tag else if a.tag = b.tag then a.tag else .nan) ∧
    (s.tag = .finite → s.v.toNat = (a.v.toNat + b.v.toNat) % 2 ^ 640) ∧ (s.tag ≠ .finite → s.v = 0)) ∧
  ∀ (start : Ledger) (a b : List Ledger), a.Perm b → a.foldl LedgerOps.combine start = b.foldl LedgerOps.combine start

/-- R37, R39: what a packed term stands for, and the form the sender of a ledger chooses; the form stands for that ledger. -/
def Obligations.LedgerForms : Prop :=
  (∀ (w : BitVec 192) (s : Nat), w.toNat % 2 ^ 16 = s → s ≤ 7 →
    (LedgerOps.ofForm (.packed w)).tag = .finite ∧
    ∀ i < 640, (LedgerOps.ofForm (.packed w)).v.getLsbD i =
      if i < 64 * s then false else if i ≤ 64 * s + 175 then w.getLsbD (16 + (i - 64 * s)) else w.getLsbD 191) ∧
  (∀ (code : Nat) (t : Tag), (code, t) ∈ [(0xFFF0, Tag.pinf), (0xFFF1, .minf), (0xFFF2, .nan), (0xFFF3, .poison)] →
    LedgerOps.ofForm (.packed (BitVec.ofNat 192 code)) = ⟨0, t, 0⟩ ∧
    ∀ l : Ledger, l.tag = t → LedgerOps.toForm l = .packed (BitVec.ofNat 192 code)) ∧
  (∀ l : Ledger, l.tag = .finite → l.v = 0 → LedgerOps.toForm l = .packed 0) ∧
  (∀ (l : Ledger) (n s : Nat), l.tag = .finite → l.v.getLsbD n = true → (∀ i < n, l.v.getLsbD i = false) → s = min 7 (n / 64) →
    ((∀ i, 64 * s + 174 < i → i < 640 → l.v.getLsbD i = l.v.getLsbD 639) →
      ∃ w, LedgerOps.toForm l = .packed w ∧ w.toNat % 2 ^ 16 = s ∧ ∀ i < 176, w.getLsbD (16 + i) = l.v.getLsbD (64 * s + i)) ∧
    ((∃ i, 64 * s + 174 < i ∧ i < 640 ∧ l.v.getLsbD i ≠ l.v.getLsbD 639) → LedgerOps.toForm l = .full l.v)) ∧
  ∀ l : Ledger, l.parityBad = false → (l.tag ≠ .finite → l.v = 0) → LedgerOps.ofForm (LedgerOps.toForm l) = l

/-- The reset values of the set-up registers (Tables 13.10, 17.8, 18.3, 19.2, 19.5, 21.4), but for the HDM decoders and the
fuses, which the spec leaves to the implementation. -/
def Obligations.ResetRegisters : Prop :=
  ∀ r : Reg, (∀ i, r ≠ .hdm i) → r ≠ .svn → State.reset.readReg r = match r with
    | .energyCfg => 0x00180014
    | .linkCtrl _ => 0x00010000
    | .acl i => if i % 64 = 0 then 3 else 0
    | .domPeer _ => 0xFFFFFFFFFFFFFFFF
    | .stalemate _ => 0x14
    | .bwCfg => 0x10
    | .gauCfg _ => 0x00FA0A3C40000000
    | .gauSel _ j => if j < 8 then BitVec.ofNat 64 (0x80000010 + j) else 0
    | .msix _ p => if 2 < p then 1 else 0
    | _ => 0

/-- The state of every core after a cold reset: threads halted with every register 0 (R129), stores, TRF, notches, ledgers and
slots 0 (R71, R76, R158), queues and scoreboard empty, queue mode native, Assayer and generators at their reset values. -/
def Obligations.ResetCores : Prop :=
  ∀ (c t r a n : Nat), let k := State.reset.core c
    (k.thread t).state = .halted ∧ (k.thread t).reg r = 0 ∧ (k.thread t).pc = 0 ∧ (k.thread t).handler = false ∧
    k.ls.data.rd a = 0 ∧ k.trf.data.rd a = 0 ∧ k.pattern.data.rd a = 0 ∧ k.imem.data.rd a = 0 ∧ k.dmem.data.rd a = 0 ∧
    k.notch n = 0 ∧ k.shadow.get 0 n = 0 ∧ k.ledger t r n = ⟨0, .finite, 0⟩ ∧ k.tiles.get 0 n = 0 ∧
    (∀ g, k.queue g = [] ∧ k.active g = []) ∧ k.scoreboard = [] ∧ k.windows = [] ∧ k.invQueue = [] ∧ k.frozen = false ∧
    k.queueMode = 0 ∧ k.evPending = 0 ∧ k.invIssued = 0 ∧ k.assay n = 0x0100F1A200000000 ∧ k.lane n = laneSeed 0 0 n ∧
    k.farCache = [] ∧ State.reset.house.dev = .boot

/-! ## Threads (chapter 5) -/

/-- R137, Table 5.5: an arithmetic register instruction writes its result and nothing else. -/
def Obligations.RegisterArithmetic : Prop :=
  ∀ (s : State) (c : CoreId) (t : Fin 4) (gap : Nat) (f : RegFn) (rd rs1 rs2 : Fin 32) (v : Word),
    Issues s c t (.reg f rd rs1 rs2) →
    regResult f (((s.core c).thread t).reg rs1) (((s.core c).thread t).reg rs2) = some v →
    ∃ u, exec (regRow f c t gap rd rs1 rs2) s = .next u ∧ Issued s u c t gap (wrote t rd v)

/-- R137, Table 5.6: an arithmetic immediate instruction, movz or movk writes its result and nothing else. -/
def Obligations.ImmediateArithmetic : Prop :=
  ∀ (s : State) (c : CoreId) (t : Fin 4) (gap : Nat) (rd rs1 : Fin 32) (q : Fin 4) (v : BitVec 16),
    (∀ o x, Issues s c t (.imm o rd rs1 v) → immResult o (((s.core c).thread t).reg rs1) v = some x →
      ∃ u, exec (immRow o c t gap rd rs1 v) s = .next u ∧ Issued s u c t gap (wrote t rd x)) ∧
    (Issues s c t (.move false rd q v) →
      ∃ u, exec (.movz c t gap rd q v) s = .next u ∧ Issued s u c t gap (wrote t rd (wrap (v.toNat * 2 ^ (16 * q.val))))) ∧
    (Issues s c t (.move true rd q v) →
      ∃ u x, exec (.movk c t gap rd q v) s = .next u ∧ Issued s u c t gap (wrote t rd x) ∧
        ∀ i, x.getLsbD i = if 16 * q.val ≤ i ∧ i < 16 * q.val + 16 then v.getLsbD (i - 16 * q.val)
          else (((s.core c).thread t).reg rd).getLsbD i)

/-- R131, R132, Table 5.6: an aligned load reads intact bytes of the data memory or the local store; an aligned store changes
its bytes there and no other byte. -/
def Obligations.LocalAccesses : Prop :=
  (∀ (s : State) (c : CoreId) (t : Fin 4) (gap : Nat) (o : ImmOp) (n : Nat) (signed : Bool) (rd rs1 : Fin 32) (v : BitVec 16) (a : Word),
     (o, n, signed) ∈ [(.ld, 8, false), (.lw, 4, false), (.lws, 4, true), (.lh, 2, false), (.lb, 1, false)] →
     Issues s c t (.imm o rd rs1 v) → a = wrap ((((s.core c).thread t).reg rs1).toNat + v.toInt) → a.toNat % n = 0 →
     (a.toNat < 0x10000 → (s.core c).dmem.marked a.toNat n = false →
       ∃ u st, exec (immRow o c t gap rd rs1 v) s = .next u ∧ st.data = (s.core c).dmem.data ∧
         Issued s u c t gap (fun k => wrote t rd (loadedWord n signed ((s.core c).dmem.data.le a.toNat n)) { k with dmem := st })) ∧
     (0x100000 ≤ a.toNat → a.toNat < 0x180000 → (s.core c).ls.marked (a.toNat - 0x100000) n = false →
       ∃ u st, exec (immRow o c t gap rd rs1 v) s = .next u ∧ st.data = (s.core c).ls.data ∧
         Issued s u c t gap (fun k => wrote t rd (loadedWord n signed ((s.core c).ls.data.le (a.toNat - 0x100000) n)) { k with ls := st }))) ∧
  (∀ (s : State) (c : CoreId) (t : Fin 4) (gap : Nat) (o : StoreOp) (n : Nat) (rs2 rs1 : Fin 32) (v : BitVec 16) (a : Word),
     (o, n) ∈ [(.sd, 8), (.sw, 4), (.sh, 2), (.sb, 1)] →
     Issues s c t (.store o rs2 rs1 v) → a = wrap ((((s.core c).thread t).reg rs1).toNat + v.toInt) → a.toNat % n = 0 →
     (a.toNat < 0x10000 → Mem.wf (s.core c).dmem.data = true →
       ∃ u st, exec (storeRow o c t gap rs2 rs1 v) s = .next u ∧
         Stored (s.core c).dmem.data st.data a.toNat n (((s.core c).thread t).reg rs2).toNat ∧
         Issued s u c t gap (fun k => wrote t 0 0 { k with dmem := st })) ∧
     (0x100000 ≤ a.toNat → a.toNat < 0x180000 → Mem.wf (s.core c).ls.data = true →
       ∃ u st, exec (storeRow o c t gap rs2 rs1 v) s = .next u ∧
         Stored (s.core c).ls.data st.data (a.toNat - 0x100000) n (((s.core c).thread t).reg rs2).toNat ∧
         Issued s u c t gap (fun k => wrote t 0 0 { k with ls := st, pipe := withoutLine k.pipe ((a.toNat - 0x100000) / 64) })))

/-- R137: branches and jumps. A target is the instruction's address plus four times the offset; the jumps to a register need a
multiple of 4. -/
def Obligations.BranchesAndJumps : Prop :=
  ∀ (s : State) (c : CoreId) (t : Fin 4) (gap : Nat) (rd rs1 rs2 : Fin 32) (off : BitVec 16) (far : BitVec 26) (th : Thread),
    th = (s.core c).thread t →
    (∀ o, Issues s c t (.branch o rs1 rs2 off) →
      ∃ u, exec (branchRow o c t gap rs1 rs2 off) s = .next u ∧
        (branchHolds o (th.reg rs1) (th.reg rs2) → Issued s u c t gap (went t 0 0 (wrap (th.pc.toNat + 4 * off.toInt)))) ∧
        (¬ branchHolds o (th.reg rs1) (th.reg rs2) → Issued s u c t gap (went t 0 0 (th.pc + 4)))) ∧
    (Issues s c t (.jump false far) →
      ∃ u, exec (.j c t gap far) s = .next u ∧ Issued s u c t gap (went t 0 0 (wrap (th.pc.toNat + 4 * far.toInt)))) ∧
    (Issues s c t (.jump true far) →
      ∃ u, exec (.jal c t gap far) s = .next u ∧ Issued s u c t gap (went t 31 (th.pc + 4) (wrap (th.pc.toNat + 4 * far.toInt)))) ∧
    (Issues s c t (.reg .jr rd rs1 rs2) → (th.reg rs1).toNat % 4 = 0 →
      ∃ u, exec (.jr c t gap rd rs1 rs2) s = .next u ∧ Issued s u c t gap (went t 0 0 (th.reg rs1))) ∧
    (Issues s c t (.reg .jalr rd rs1 rs2) → (th.reg rs1).toNat % 4 = 0 →
      ∃ u, exec (.jalr c t gap rd rs1 rs2) s = .next u ∧ Issued s u c t gap (went t rd (th.pc + 4) (th.reg rs1)))

/-- R145, R151, Table 5.7: reads and writes of special words, of shadow slots and of notches. -/
def Obligations.SpecialWordInstructions : Prop :=
  ∀ (s : State) (c : CoreId) (t : Fin 4) (gap : Nat) (rd rs1 : Fin 32) (v : BitVec 16) (k : CoreSt) (a : Word),
    k = s.core c → a = (k.thread t).reg rs1 →
    (Issues s c t (.imm .rds rd rs1 v) →
      (∀ x, (v.toNat, x) ∈ [(0x000, BitVec.ofNat 64 t), (0x001, BitVec.ofNat 64 c), (0x003, k.invIssued.setWidth 64),
          (0x004, k.invDone.setWidth 64), (0x005, k.invFaults.setWidth 64), (0x006, k.invLastFault.setWidth 64),
          (0x007, BitVec.ofNat 64 k.queueMode), (0x008, k.threadWord), (0x010, k.evPending), (0x011, k.mailbox), (0x018, k.nfCount.setWidth 64),
          (0x019, k.nfLimit.setWidth 64), (0x01A, k.spikeCount.setWidth 64), (0x01B, k.spikeLimit.setWidth 64),
          (0x020, (k.thread t).excVector), (0x021, (k.thread t).excCause), (0x022, (k.thread t).excPc), (0x023, (k.thread t).excAddr)] →
        ∃ u, exec (.rds c t gap rd rs1 v) s = .next u ∧ Issued s u c t gap (wrote t rd x)) ∧
      (v.toNat = 0x002 → ∃ u, exec (.rds c t gap rd rs1 v) s = .next u ∧ Issued s u c t gap (fun x => wrote t rd (BitVec.ofNat 64 x.cycle) x))) ∧
    (Issues s c t (.imm .wrs rd rs1 v) →
      (∀ f, (v.toNat, f) ∈ [(0x010, fun x : CoreSt => { x with evPending := k.evPending &&& ~~~(a &&& ~~~freshBits k gap) }),
          (0x019, fun x => { x with nfLimit := a.setWidth 48 }), (0x01B, fun x => { x with spikeLimit := a.setWidth 48 }),
          (0x020, fun x => x.setThread t { k.thread t with excVector := a }), (0x022, fun x => x.setThread t { k.thread t with excPc := a })] →
        ∃ u, exec (.wrs c t gap rd rs1 v) s = .next u ∧ Issued s u c t gap (fun x => wrote t 0 0 (f x))) ∧
      (k.note.cycle ≠ issueCycle k gap → ∀ f, (v.toNat, f) ∈ [(0x018, fun x : CoreSt => { x with nfCount := a.setWidth 48 }),
          (0x01A, fun x => { x with spikeCount := a.setWidth 48 })] →
        ∃ u, exec (.wrs c t gap rd rs1 v) s = .next u ∧ Issued s u c t gap (fun x => wrote t 0 0 (f x))) ∧
      (k.note.cycle = issueCycle k gap → ∀ bit n limit new (f : CoreSt → BitVec 48 → CoreSt),
        (v.toNat, bit, n, limit, new, f) ∈ [(0x018, 2, k.note.nf, k.nfLimit.toNat, k.note.nfNew, fun x z => { x with nfCount := z }),
          (0x01A, 3, k.note.spike, k.spikeLimit.toNat, k.note.spikeNew, fun x z => { x with spikeCount := z })] →
        ∃ u p z, exec (.wrs c t gap rd rs1 v) s = .next u ∧
          Issued s u c t gap (fun x => wrote t 0 0 { f x (BitVec.ofNat 48 z) with evPending := p }) ∧
          z = min (a.toNat % 2 ^ 48 + n) (2 ^ 48 - 1) ∧ (∀ i, i ≠ bit → p.getLsbD i = k.evPending.getLsbD i) ∧
          (p.getLsbD bit = true ↔ k.evPending.getLsbD bit = true ∧ new = false ∨ limit ≠ 0 ∧ a.toNat % 2 ^ 48 < limit ∧ limit ≤ z))) ∧
    (Issues s c t (.imm .slr rd rs1 v) →
      ∃ u, exec (.slr c t gap rd rs1 v) s = .next u ∧ Issued s u c t gap (fun x => wrote t rd (x.shadow.get 0 (v.toNat % 64)) x)) ∧
    (Issues s c t (.imm .nrd rd rs1 v) →
      ∃ u, exec (.nrd c t gap rd rs1 v) s = .next u ∧ Issued s u c t gap (wrote t rd ((k.notch (v.toNat % 32)).setWidth 64)))

/-- R138, R139, R140, R142: writes of shadow slots join the writes to be performed; launch numbers a request and places it, with
the shadow slots, at the end of an invocation queue that has room. -/
def Obligations.SlotWritesAndLaunch : Prop :=
  ∀ (s : State) (c : CoreId) (t : Fin 4) (gap : Nat) (rd rs1 rs2 : Fin 32) (v : BitVec 16) (k : CoreSt) (a : Word),
    k = s.core c → a = (k.thread t).reg rs1 →
    (Issues s c t (.imm .slw rd rs1 v) →
      ∃ u, exec (.slw c t gap rd rs1 v) s = .next u ∧
        Issued s u c t gap (fun x => wrote t 0 0 { x with shadowPend := x.shadowPend ++ [⟨t, v.toNat % 64, a, x.cycle⟩] })) ∧
    (Issues s c t (.reg .slwx rd rs1 rs2) →
      ∃ u, exec (.slwx c t gap rd rs1 rs2) s = .next u ∧
        Issued s u c t gap (fun x => wrote t 0 0 { x with
          shadowPend := x.shadowPend ++ [⟨t, ((k.thread t).reg rs2).toNat % 64, a, x.cycle⟩] })) ∧
    (Issues s c t (.imm .launch rd rs1 v) → k.invQueue.length < 4 →
      ∃ u, exec (.launch c t gap rd rs1 v) s = .next u ∧
        Issued s u c t gap (fun x => launched t rd a
          (if x.shadowPend.any (fun w => w.thread = t) then
            { x.performShadow (x.cycle + 1) with cycle := x.cycle + 1, lastIssue := x.cycle + 1 } else x))) ∧
    (Issues s c t (.imm .launch rd rs1 v) → 4 ≤ k.invQueue.length →
      ∃ u, exec (.launch c t gap rd rs1 v) s = .next u ∧
        Issued s u c t gap (fun x => x.setThread t { k.thread t with state := .waitLaunch }))

/-- R146, R147, R149: bumps of a notch and waits for one, clears of event bits and waits for them. -/
def Obligations.NotchAndEventInstructions : Prop :=
  ∀ (s : State) (c : CoreId) (t : Fin 4) (gap : Nat) (rd rs1 rs2 : Fin 32) (v : BitVec 16) (k : CoreSt) (a : Word) (n : Nat),
    k = s.core c → a = (k.thread t).reg rs1 → n = v.toNat % 32 →
    (Issues s c t (.imm .nbump rd rs1 v) →
      ∃ u, exec (.nbump c t gap rd rs1 v) s = .next u ∧
        ∃ f : CoreSt → CoreSt, (∀ x, Bumped x (f x) n (v.toNat / 32 % 256)) ∧ Issued s u c t gap (fun x => wrote t 0 0 (f x))) ∧
    (Issues s c t (.imm .nwait rd rs1 v) →
      ∃ u, exec (.nwait c t gap rd rs1 v) s = .next u ∧
        ((k.thread t).met = true ∨ (k.notch n - a.setWidth 48).toNat < 2 ^ 47 → Issued s u c t gap (wrote t 0 0)) ∧
        ((k.thread t).met = false → 2 ^ 47 ≤ (k.notch n - a.setWidth 48).toNat →
          Issued s u c t gap (fun x => x.setThread t { k.thread t with state := .waitNotch, wait := some (n, a.setWidth 48) }))) ∧
    (Issues s c t (.reg .evclr rd rs1 rs2) →
      ∃ u, exec (.evclr c t gap rd rs1 rs2) s = .next u ∧
        Issued s u c t gap (fun x => wrote t 0 0 { x with evPending := k.evPending &&& ~~~(a &&& ~~~freshBits k gap) })) ∧
    (Issues s c t (.imm .evwait rd rs1 v) → a ≠ 0 →
      ∃ u, exec (.evwait c t gap rd rs1 v) s = .next u ∧
        (k.evPending &&& a ≠ 0 → Issued s u c t gap (wrote t rd (k.evPending &&& a))) ∧
        (k.evPending &&& a = 0 → Issued s u c t gap (fun x => x.setThread t { k.thread t with state := .waitEvent })))

/-- R129, R132, R134, R137, R148, R153: starting, halting, yielding, fencing and returning, and the indivisible add. -/
def Obligations.ThreadControl : Prop :=
  ∀ (s : State) (c : CoreId) (t : Fin 4) (gap : Nat) (rd rs1 rs2 : Fin 32) (k : CoreSt) (a b : Word),
    k = s.core c → a = (k.thread t).reg rs1 → b = (k.thread t).reg rs2 →
    (Issues s c t (.reg .tstart rd rs1 rs2) →
      ∃ u, exec (.tstart c t gap rd rs1 rs2) s = .next u ∧
        (b.toNat % 4 ≠ t ∧ (k.thread (b.toNat % 4)).state = .halted ∧ a.toNat % 4 = 0 ∧ a.toNat ≤ 0x7FFF →
          Issued s u c t gap (fun x => wrote t rd 1 (x.setThread (b.toNat % 4)
            { k.thread (b.toNat % 4) with pc := a, state := .ready, handler := false }))) ∧
        (¬ (b.toNat % 4 ≠ t ∧ (k.thread (b.toNat % 4)).state = .halted ∧ a.toNat % 4 = 0 ∧ a.toNat ≤ 0x7FFF) →
          Issued s u c t gap (wrote t rd 0))) ∧
    (Issues s c t (.reg .halt rd rs1 rs2) →
      ∃ u, exec (.halt c t gap rd rs1 rs2) s = .next u ∧
        Issued s u c t gap (fun x => x.setThread t { k.thread t with pc := (k.thread t).pc + 4, state := .halted })) ∧
    (Issues s c t (.reg .yield rd rs1 rs2) →
      ∃ u, exec (.yield c t gap rd rs1 rs2) s = .next u ∧ Issued s u c t gap (fun x => wrote t 0 0 { x with yielded := some t })) ∧
    (Issues s c t (.reg .fence rd rs1 rs2) → s.tallyBusy c t = false →
      ∃ u, exec (.tallyFence c t gap rd rs1 rs2) s = .next u ∧ Issued s u c t gap (wrote t 0 0)) ∧
    (Issues s c t (.reg .ffence rd rs1 rs2) → s.tallyOwed c t = false → (k.thread t).posted = 0 → (k.thread t).refused = none →
      ∃ u, exec (.ffence c t gap rd rs1 rs2) s = .next u ∧ Issued s u c t gap (fun x => wrote t 0 0 { x with farCache := [] })) ∧
    (Issues s c t (.reg .eret rd rs1 rs2) → (k.thread t).handler = true → (k.thread t).excPc.toNat % 4 = 0 →
      ∃ u, exec (.eret c t gap rd rs1 rs2) s = .next u ∧
        Issued s u c t gap (fun x => x.setThread t { k.thread t with pc := (k.thread t).excPc, handler := false, state := .ready })) ∧
    (Issues s c t (.reg .amoadd rd rs1 rs2) → a.toNat % 8 = 0 → a.toNat < 0x10000 → k.dmem.marked a.toNat 8 = false →
      Mem.wf k.dmem.data = true →
      ∃ u st, exec (.amoadd c t gap rd rs1 rs2) s = .next u ∧
        Stored k.dmem.data st.data a.toNat 8 (wrap (k.dmem.data.le a.toNat 8 + b.toNat)).toNat ∧
        Issued s u c t gap (fun x => wrote t rd (wrap (k.dmem.data.le a.toNat 8)) { x with dmem := st }))

/-- R136, R152 to R154, Table 5.9: a word that cannot be fetched or decoded takes the exception of its cause; a misaligned,
unmapped or poisoned access, eret outside a handler and evwait for nothing take theirs and write no register. -/
def Obligations.ThreadExceptions : Prop :=
  (∀ (s : State) (c : CoreId) (t : Fin 4) (gap : Nat) (k : CoreSt) (pc : Nat),
     k = s.core c → pc = (k.thread t).pc.toNat → s.coreRuns c = true → k.mayIssue t = true →
     (∀ cause, (cause = 3 ∧ pc % 4 ≠ 0) ∨ (cause = 1 ∧ ∃ w, k.fetch t = some (w, false) ∧ tallyDecode w = none) →
       ∃ u, exec (.illegal c t gap) s = .next u ∧
         Issued { s with occurrences := s.occurrences ++ exceptionEvents c t cause 0 k } u c t gap (tookException t cause 0)) ∧
     (∀ cause, (cause = 4 ∧ pc % 4 = 0 ∧ 0x7FFC < pc) ∨ (cause = 2 ∧ ∃ w, k.fetch t = some (w, true)) →
       ∃ u, exec (.imemEcc c t gap) s = .next u ∧
         Issued { s with occurrences := s.occurrences ++ exceptionEvents c t cause 0 k } u c t gap (tookException t cause 0))) ∧
  (∀ (s : State) (c : CoreId) (t : Fin 4) (gap : Nat) (o : ImmOp) (p : StoreOp) (n : Nat) (rd rs1 rs2 : Fin 32) (v : BitVec 16) (a : Word) (k : CoreSt),
     k = s.core c → a = wrap (((k.thread t).reg rs1).toNat + v.toInt) →
     ((o, n) ∈ [(.ld, 8), (.lw, 4), (.lws, 4), (.lh, 2), (.lb, 1)] → Issues s c t (.imm o rd rs1 v) →
       ∃ u, exec (immRow o c t gap rd rs1 v) s = .next u ∧
         (∀ cause, cause = 3 ∧ a.toNat % n ≠ 0 ∨ cause = 4 ∧ a.toNat % n = 0 ∧ ¬ mapped a.toNat n false →
           Issued { s with occurrences := s.occurrences ++ exceptionEvents c t cause a k } u c t gap (tookException t cause a)) ∧
         (a.toNat % n = 0 → a.toNat < 0x10000 → k.dmem.marked a.toNat n = true → ∃ st, st.data = k.dmem.data ∧
           Issued { s with occurrences := s.occurrences ++ exceptionEvents c t 6 a k } u c t gap
             (fun x => tookException t 6 a { x with dmem := st }))) ∧
     ((p, n) ∈ [(.sd, 8), (.sw, 4), (.sh, 2), (.sb, 1)] → Issues s c t (.store p rs2 rs1 v) →
       ∃ u, exec (storeRow p c t gap rs2 rs1 v) s = .next u ∧
         (∀ cause, cause = 3 ∧ a.toNat % n ≠ 0 ∨ cause = 4 ∧ a.toNat % n = 0 ∧ ¬ mapped a.toNat n true →
           Issued { s with occurrences := s.occurrences ++ exceptionEvents c t cause a k } u c t gap (tookException t cause a))) ∧
     (Issues s c t (.reg .eret rd rs1 rs2) → (k.thread t).handler = false →
       ∃ u, exec (.eret c t gap rd rs1 rs2) s = .next u ∧
         Issued { s with occurrences := s.occurrences ++ exceptionEvents c t 1 0 k } u c t gap (tookException t 1 0)) ∧
     (Issues s c t (.imm .evwait rd rs1 v) → (k.thread t).reg rs1 = 0 →
       ∃ u, exec (.evwait c t gap rd rs1 v) s = .next u ∧
         Issued { s with occurrences := s.occurrences ++ exceptionEvents c t 1 0 k } u c t gap (tookException t 1 0)))

/-- R133, R135: ld and sd of descriptor words (stores while the Loom has nothing queued or split), and loads of tile
descriptors. -/
def Obligations.DescriptorAndTileWords : Prop :=
  ∀ (s : State) (c : CoreId) (t : Fin 4) (gap : Nat) (rd rs1 rs2 : Fin 32) (v : BitVec 16) (a : Word) (o : Nat) (k : CoreSt),
    k = s.core c → a = wrap (((k.thread t).reg rs1).toNat + v.toInt) → o = a.toNat - 0x200000 →
    (Issues s c t (.imm .ld rd rs1 v) → 0x200000 ≤ a.toNat → a.toNat < 0x201000 → a.toNat % 8 = 0 →
      ∃ u, exec (.ld c t gap rd rs1 v) s = .next u ∧
        Issued s u c t gap (wrote t rd (BitVec.ofNat 64 ((k.descs.get 0 (o / 64)).toNat / 2 ^ (8 * (o % 64)))))) ∧
    (Issues s c t (.store .sd rs2 rs1 v) → 0x200000 ≤ a.toNat → a.toNat < 0x201000 → a.toNat % 8 = 0 →
      k.invQueue = [] → k.splitting = none →
      ∃ u d, exec (.sd c t gap rs2 rs1 v) s = .next u ∧
        Issued s u c t gap (fun x => wrote t 0 0 { x with descs := k.descs.set (o / 64) d }) ∧
        ∀ i, d.getLsbD i = if 8 * (o % 64) ≤ i ∧ i < 8 * (o % 64) + 64
          then (((k.thread t).reg rs2) &&& descMask (o % 64 / 8)).getLsbD (i - 8 * (o % 64))
          else (k.descs.get 0 (o / 64)).getLsbD i) ∧
    (∀ l signed, (l, signed) ∈ [(ImmOp.lw, false), (.lws, true)] → Issues s c t (.imm l rd rs1 v) →
      0x210000 ≤ a.toNat → a.toNat < 0x210080 → a.toNat % 4 = 0 →
      ∃ u, exec (immRow l c t gap rd rs1 v) s = .next u ∧
        Issued s u c t gap (wrote t rd (loadedWord 4 signed (k.tiles.get 0 ((a.toNat - 0x210000) / 4)).toNat)))

/-- R134: far loads from a cached line, far loads that miss and far stores, which leave the core as an access, and their
answers. -/
def Obligations.FarAccesses : Prop :=
  ∀ (s : State) (c : CoreId) (t : Fin 4) (gap : Nat) (rd rs1 rs2 : Fin 32) (v : BitVec 16) (a : Word) (dva : Nat) (k : CoreSt),
    k = s.core c → a = wrap (((k.thread t).reg rs1).toNat + v.toInt) → a.toNat = 0x20000000000 + dva → dva < 0x20000000000 →
    (∀ l n signed, (l, n, signed) ∈ [(ImmOp.ld, 8, false), (.lw, 4, false), (.lws, 4, true), (.lh, 2, false), (.lb, 1, false)] →
      dva % n = 0 → Issues s c t (.imm l rd rs1 v) →
      ∃ u, exec (immRow l c t gap rd rs1 v) s = .next u ∧
        (∀ d, k.farLine dva = some d →
          Issued s u c t gap (fun x => wrote t rd (loadedWord n signed (bytesAt d.toNat (dva % 64) n)) (x.farUse dva d))) ∧
        (k.farLine dva = none → ∃ w, u = w.farIssue c t ⟨false, dva, n, 0⟩ ∧
          Issued s w c t gap (fun x => x.setThread t { k.thread t with state := .waitFar }))) ∧
    (∀ st n, (st, n) ∈ [(StoreOp.sd, 8), (.sw, 4), (.sh, 2), (.sb, 1)] → dva % n = 0 → Issues s c t (.store st rs2 rs1 v) →
      (k.thread t).posted < 8 → k.farLine dva = none →
      ∃ u w, exec (storeRow st c t gap rs2 rs1 v) s = .next u ∧
        u = w.farIssue c t ⟨true, dva, n, ((k.thread t).reg rs2).toNat % 2 ^ (8 * n)⟩ ∧
        Issued s w c t gap (fun x => wrote t 0 0 (x.setThread t { k.thread t with posted := (k.thread t).posted + 1 }))) ∧
    (∀ l n signed b x, (l, n, signed) ∈ [(ImmOp.ld, 8, false), (.lw, 4, false), (.lws, 4, true), (.lh, 2, false), (.lb, 1, false)] →
      s.coreRuns c = true → k.fetch t = some (b, false) → tallyDecode b = some (.imm l rd rs1 v) → s.farRead c t = some x →
      x.phase = .done 0 → x.poison = false →
      ∃ u, exec (.farReadResponse c t) s = .next u ∧
        Aside (wrote t rd (loadedWord n signed (bytesAt x.data.toNat (dva % 64) n)) (k.farUse dva x.data)) (u.core c) ∧
        u.txns = s.txns.filter (fun y => y.id ≠ x.id)) ∧
    (∀ x code, s.coreRuns c = true → s.farWrite c t = some x → x.phase = .done code →
      ∃ u, exec (.farWriteAck c t) s = .next u ∧
        ((u.core c).thread t).posted = (k.thread t).posted - 1 ∧
        ((u.core c).thread t).refused = (if code = 0 ∨ (k.thread t).refused.isSome then (k.thread t).refused
          else some (BitVec.ofNat 64 (0x20000000000 + x.target.addr + x.first))) ∧
        u.txns = s.txns.filter (fun y => y.id ≠ x.id))

/-- R128, R142, R146, R149: a waiting thread whose notch has its value, whose event bit is set, whose queue has room or whose
accesses are performed goes on. -/
def Obligations.WaitingThreadsGoOn : Prop :=
  ∀ (s : State) (c : CoreId) (t : Fin 4) (gap : Nat) (rd rs1 rs2 : Fin 32) (v : BitVec 16) (k : CoreSt) (a : Word),
    k = s.core c → a = (k.thread t).reg rs1 →
    (Waits s c t (.imm .nwait rd rs1 v) → (k.thread t).met = true ∨ (k.notch (v.toNat % 32) - a.setWidth 48).toNat < 2 ^ 47 →
      ∃ u, exec (.threadWake c t gap) s = .next u ∧ Woken s u c t gap (wrote t 0 0)) ∧
    (Waits s c t (.imm .evwait rd rs1 v) → k.evPending &&& a ≠ 0 →
      ∃ u, exec (.threadWake c t gap) s = .next u ∧ Woken s u c t gap (wrote t rd (k.evPending &&& a))) ∧
    (Waits s c t (.reg .fence rd rs1 rs2) → s.tallyBusy c t = false →
      ∃ u, exec (.threadWake c t gap) s = .next u ∧ Woken s u c t gap (wrote t 0 0)) ∧
    (Waits s c t (.imm .launch rd rs1 v) → k.invQueue.length < 4 → (∀ w ∈ k.shadowPend, w.thread ≠ t) →
      ∃ u, exec (.threadWake c t gap) s = .next u ∧ Woken s u c t gap (launched t rd a))

/-! ## The Loom and the engines (chapters 2 to 4 and 6 to 9) -/

/-- R80, R85, R95, R97, R98, R102, R108 to R112, R118 to R121, R123: at an invocation boundary the oldest request leaves the
invocation queue, its slots become live and its words are split next; one that runs past the pattern memory ends the queue with
PATTERN_RANGE; the queue mode asked for comes into force once nothing is queued. A word is read when it is split, latched with
the live slots and its descriptors, and checked; a word that does not fit, or holds a double-bit error, issues nothing and
faults its invocation. An instance issues once every queue and the scoreboard have room: each engine's queue takes its micro-op
or marker, and the scoreboard an entry for each micro-op that takes one. -/
def Obligations.LoomWork : Prop :=
  (∀ (s : State) (c : CoreId) (k : CoreSt), k = s.core c → s.coreRuns c = true →
     (∀ r rest, k.invQueue = r :: rest → k.boundaryOpen = true →
       (r.start + r.len ≤ 4096 → 0 < r.len →
         ∃ t, exec (.invocationBoundary c) s = .next t ∧ CoreAt s t c { k with
           invQueue := rest, liveSlots := r.slots, splitting := some ⟨r, 0, none⟩,
           flights := k.flights ++ [⟨r.num, 0, false, false, false, false⟩] }) ∧
       (r.start ≤ 4096 → r.len = 0 →
         ∃ t, exec (.invocationBoundary c) s = .next t ∧ (t.core c).invQueue = rest ∧ (t.core c).liveSlots = r.slots ∧
           (t.core c).splitting = none ∧ t = { s with cores := t.cores }) ∧
       (4096 < r.start + r.len →
         ∃ t, exec (.invocationBoundary c) s = .next t ∧ (t.core c).invQueue = [] ∧ (t.core c).splitting = none ∧
           ((∀ f ∈ k.flights, f.num ≠ r.num) → (∀ x ∈ rest, x.num ≠ r.num) →
             (∀ f ∈ (t.core c).flights, f.num ≠ r.num) ∧ (t.core c).invLastFault = BitVec.ofNat 48 r.num) ∧
           t = { s with cores := t.cores, occurrences := s.occurrences ++
             [⟨0x04, [BitVec.ofNat 64 c, BitVec.ofNat 64 r.num, BitVec.ofNat 64 (r.start + r.len * 2 ^ 16)]⟩] })) ∧
     (k.invQueue = [] ∨ k.frozen = true ∨ k.splitting ≠ none ∨ (∃ f ∈ k.flights, f.fault = true) →
       ∃ t, exec (.invocationBoundary c) s = .next t ∧ CoreAt s t c k) ∧
     ((∀ g, k.queue g = []) → k.invQueue = [] → k.splitting = none →
       ∃ t, exec (.queueModeSwitch c) s = .next t ∧ CoreAt s t c { k with queueMode := k.queueModeWanted })) ∧
  (∀ (s : State) (c : CoreId) (k : CoreSt) (r : InvReq) (i : Nat) (w : BitVec 256) (n : Nat),
     k = s.core c → s.coreRuns c = true → k.frozen = false → k.splitting = some ⟨r, i, none⟩ → i < r.len →
     (∃ f ∈ k.flights, f.num = r.num) → (∀ f ∈ k.flights, f.num = r.num → f.fault = false) →
     w = BitVec.ofNat 256 (k.pattern.data.le (32 * (r.start + i)) 32) → n = wordRepeat w k.liveSlots →
     ∃ t, exec (.loomSplitWord c) s = .next t ∧
       (k.wordDouble (r.start + i) = true →
         (t.core c).splitting = none ∧ (t.core c).splitTiles = k.splitTiles ∧
         t = { s with cores := t.cores, occurrences := s.occurrences ++
           [⟨0x02, [detailWord c r.start i .array 0 0, BitVec.ofNat 64 r.num]⟩] }) ∧
       (k.wordDouble (r.start + i) = false →
         (∀ g cause tile, wordMisfit w k.liveSlots (k.descs.get 0 (cwField w 44 39)) (k.descs.get 0 (cwField w 20 15)) n 0
             k.splitTiles (if n = 0 then codeMisfit w else none) = some (g, cause, tile) →
           (t.core c).splitting = none ∧ (t.core c).splitTiles = k.splitTiles ∧
           t = { s with cores := t.cores, occurrences := s.occurrences ++
             [⟨0x01, [detailWord c r.start i g cause tile, BitVec.ofNat 64 r.num]⟩] }) ∧
         (wordMisfit w k.liveSlots (k.descs.get 0 (cwField w 44 39)) (k.descs.get 0 (cwField w 20 15)) n 0 k.splitTiles
             (if n = 0 then codeMisfit w else none) = none →
           (t.core c).splitTiles = (List.range n).foldl (fun tl j => tilesAfter tl w k.liveSlots j) k.splitTiles ∧
           t = { s with cores := t.cores } ∧
           ((∃ g : Engine, (n ≠ 0 ∧ opField w g ≠ 0) ∨ namedEngine w g = true) →
             (t.core c).splitting = some ⟨r, i + 1, some ⟨i, max n 1, 0, w, k.liveSlots, k.descs.get 0 (cwField w 44 39),
               k.descs.get 0 (cwField w 20 15), k.splitTiles⟩⟩) ∧
           ((∀ g : Engine, ¬ ((n ≠ 0 ∧ opField w g ≠ 0) ∨ namedEngine w g = true)) →
             (t.core c).splitting = if i + 1 < r.len then some ⟨r, i + 1, none⟩ else none)))) ∧
  (∀ (s : State) (c : CoreId) (gap : Nat) (k : CoreSt) (r : InvReq) (nx : Nat) (x : Issue) (es : List MicroOp),
     k = s.core c → s.coreRuns c = true → k.splitting = some ⟨r, nx, some x⟩ → es = instanceEntries r x k.nextUid →
     ((k.frozen = true ∨ k.queueRoom es = false ∨ k.boardRoom es = false) →
       ∃ t, exec (.loomIssueInstance c gap) s = .next t ∧ CoreAt s t c k) ∧
     (k.frozen = false → k.queueRoom es = true → k.boardRoom es = true →
       ∃ t, exec (.loomIssueInstance c gap) s = .next t ∧ t = { s with cores := t.cores } ∧
         (t.core c).cycle = (k.cycle + gap) % 2 ^ 64 ∧ (t.core c).nextUid = k.nextUid + 5 ∧
         (∀ g, (t.core c).queue g = k.queue g ++ es.filter (fun o => o.eng = g)) ∧
         (t.core c).scoreboard.map (·.uid) = k.scoreboard.map (·.uid) ++ (es.filter (·.takesEntry)).map (·.uid) ∧
         (x.next + 1 < x.total → ∃ tiles, (t.core c).splitting = some ⟨r, nx, some { x with next := x.next + 1, tiles := tiles }⟩) ∧
         (x.total ≤ x.next + 1 → (t.core c).splitting = if nx < r.len ∧ (∀ f ∈ k.flights, f.num = r.num → f.fault = false)
           then some ⟨r, nx, none⟩ else none) ∧
         (t.core c).notches = k.notches ∧ (t.core c).threads = k.threads ∧ (t.core c).ledgers = k.ledgers ∧ (t.core c).ls = k.ls))

/-- R109, R110, R124, R178, R179, R282: a marker whose waits are met leaves the queue and performs its bumps after the earlier
work of its engine; a begun micro-op that awaits nothing outside the core completes, performs its bumps and frees its scoreboard
entry; a stalemate freezes the core and raises its record. -/
def Obligations.MarkersCompletionsFreezes : Prop :=
  ∀ (s : State) (c : CoreId) (e : Fin 5) (gap : Nat) (k : CoreSt) (g : Engine) (cyc : Nat),
    k = s.core c → g = engineOf e → s.coreRuns c = true → cyc = (k.cycle + gap) % 2 ^ 64 →
    (∀ o rest, k.queue g = o :: rest → o.marker = true → k.frozen = false → k.waitsMet o = true →
      (o.bumps = [] ∨ (k.active g = [] ∧ (g = .inbound → k.windows = []))) →
      ∃ t, exec (.marker c e gap) s = .next t ∧ t = { s with cores := t.cores } ∧ (t.core c).cycle = cyc ∧
        (t.core c).queue g = rest ∧ (∀ h, h ≠ g → (t.core c).queue h = k.queue h) ∧
        (t.core c).notches = (k.bumps o.bumps).notches ∧ (t.core c).scoreboard = k.scoreboard.filter (fun x => x.uid ≠ o.uid)) ∧
    (∀ r rest, k.active g = r :: rest → r.left = 0 →
      ∃ t, exec (.microopComplete c e gap) s = .next t ∧ t = { s with cores := t.cores } ∧ (t.core c).cycle = cyc ∧
        (t.core c).active g = rest ∧ (∀ h, h ≠ g → (t.core c).active h = k.active h) ∧ (∀ h, (t.core c).queue h = k.queue h) ∧
        (t.core c).notches = (if r.noBump then k.notches else (k.bumps r.op.bumps).notches) ∧
        (t.core c).scoreboard = k.scoreboard.filter (fun x => x.uid ≠ r.op.uid)) ∧
    (k.stalemate = true → k.stalemateCycles ≤ k.calm + gap →
      ∃ t, exec (.stalemateFreeze c gap) s = .next t ∧ (t.core c).frozen = true ∧ (t.core c).cycle = cyc ∧
        t = { s with cores := t.cores, occurrences := s.occurrences ++
          [⟨0x09, BitVec.ofNat 64 (c * 2 ^ 54 + k.waiters.length * 2 ^ 50 + cyc % 2 ^ 48) :: k.waiters.flatMap entryWords⟩] }) ∧
    (k.stalemate = false ∨ k.calm + gap < k.stalemateCycles → ∃ t, exec (.stalemateFreeze c gap) s = .next t ∧ CoreAt s t c k)

/-- R113, R124: a micro-op of the array, the vector unit or the drain that may begin leaves its queue for the begun ones and
releases its read regions; it changes no other queue, no thread, no memory but the stores its engine writes, and nothing outside
its core but the events it raises. -/
def Obligations.UnitMicroOpsBegin : Prop :=
  ∀ (s : State) (c : CoreId) (gap : Nat) (row : CoreRow) (g : Engine) (code : Nat) (o : MicroOp) (k : CoreSt),
    (row, g, code) ∈ unitRows → Heads s c g o → opField o.word g = code → k = s.core c →
    ∃ t u, exec (row c gap) s = .next t ∧ u = t.core c ∧ t = { s with cores := s.cores.set c u, occurrences := t.occurrences } ∧
      s.occurrences <+: t.occurrences ∧
      u.cycle = (k.cycle + gap) % 2 ^ 64 ∧ u.queue g = (k.queue g).drop 1 ∧ u.active g = k.active g ++ [⟨o, 0, false⟩] ∧
      (∀ h, h ≠ g → u.queue h = k.queue h ∧ u.active h = k.active h) ∧ u.scoreboard = (k.releaseReads o.uid).scoreboard ∧
      u = { k with
        ls := u.ls, trf := u.trf, tiles := u.tiles, ledgers := u.ledgers, reducer := u.reducer, hist := u.hist, assayer := u.assayer,
        lanes := u.lanes, prevFmts := u.prevFmts, nfCount := u.nfCount, spikeCount := u.spikeCount, evPending := u.evPending,
        queues := u.queues, running := u.running, scoreboard := u.scoreboard, cycle := u.cycle, pipe := u.pipe,
        calm := u.calm, note := u.note, gauger := u.gauger }

/-- R41, R45, R46, R58, R61, R72: MATMUL leaves in entry (r, c) of its tile the exact sum of the products of row r of A and
column c of B, added to what the entry held where it accumulates; no other entry changes; a feeder's cache keeps at most eight
lines. -/
def Obligations.MatrixMultiply : Prop :=
  ∀ (s : State) (c : CoreId) (gap : Nat) (o : MicroOp) (a : ArrayOp) (b : Eff),
    Heads s c .array o → opField o.word .array = 1 → a = arrayOp o.word o.slots o.inst → b = begunBy s c gap o →
    a.m ≤ 64 → a.n ≤ 32 →
    ∃ e, exec (.matmul c gap) s = .next (endedBy s c o e) ∧ e.id = c ∧
      e.k = { b.k with
        ledgers := e.k.ledgers, ls := e.k.ls, prevFmts := some (a.fa, a.fb), pipe := e.k.pipe, gauger := e.k.gauger } ∧
      e.k.ls.data = b.k.ls.data ∧ (b.k.ls.single = [] → b.k.ls.double = [] → e.k.ls = b.k.ls) ∧
      (∀ t r q, r < 64 → q < 32 → ¬ (t = a.tile ∧ r < a.m ∧ q < a.n) → e.k.ledger t r q = b.k.ledger t r q) ∧
      ((∀ r q, (b.k.ledger a.tile r q).parityBad = false) → e.occ = []) ∧
      ((∀ f, (b.k.pipe.feeders.get [] f).length ≤ 8) → ∀ f, (e.k.pipe.feeders.get [] f).length ≤ 8) ∧
      ∀ r q, r < a.m → q < a.n → e.k.ledger a.tile r q =
        if a.k = 0 then (if a.acc then b.k.ledger a.tile r q else LedgerOps.zero)
        else ((List.range a.k).map (fun j =>
          let x := a.aElem e.k.ls r j
          let y := a.bElem e.k.ls j q
          LedgerOps.product x.2 y.2 x.1 y.1)).foldl LedgerOps.combine (if a.acc then entryRead b.k a.tile r q else LedgerOps.zero)

/-- R39, R61, R88 to R90, R192, R193: ROUND rounds each entry it covers once, EXPORT writes every entry in the form R39 chooses,
and MERGE adds the slots of an image to the entries. -/
def Obligations.DrainMicroOps : Prop :=
  ∀ (s : State) (c : CoreId) (gap : Nat) (o : MicroOp) (d : DrainOp) (b : Eff),
    Heads s c .drain o → d = drainOp o.word o.slots o.inst → b = begunBy s c gap o → Mem.wf b.k.ls.data = true → Mem.wf b.k.trf.data = true →
    (opField o.word .drain = 1 →
      ∃ e, exec (.round c gap) s = .next (endedBy s c o e) ∧ e = b.round o d ∧
        (d.fuse = 0 → d.sr = false → (Numbers.Fmt.ofCode d.fmt).isSome → codeMx d.fmt = false → d.toLs = true → bytesFor d.n d.fmt ≤ d.lsStride →
          ∀ r q, r < d.m → q < d.n → (e.k.ls.elemBits 0 (d.lsBase.toNat + r * d.lsStride) q (codeBits d.fmt)).1 =
            (let l := LedgerOps.drain (entryRead b.k d.tile r q); (outElem (fmtOf d.fmt) .rne l.val l.poison).1.1)) ∧
        (d.fuse = 0 → d.sr = false → (Numbers.Fmt.ofCode d.fmt).isSome → codeMx d.fmt = false → d.toLs = false → 0 ≤ d.trf.row0 →
          d.trf.byte0 + d.trf.bytes ≤ tilePitch (tileOf b.k.tiles d.trf.tile) →
          ∀ r q, r < d.m → q < d.n → (e.k.trf.elemBits 0 (d.trf.addr b.k.tiles r) q (codeBits d.fmt)).1 =
            (let l := LedgerOps.drain (entryRead b.k d.tile r q); (outElem (fmtOf d.fmt) .rne l.val l.poison).1.1))) ∧
    (opField o.word .drain = 2 → 2624 ≤ d.lsStride →
      ∃ e, exec (.exportImage c gap) s = .next (endedBy s c o e) ∧
        e.k = { b.k with ls := e.k.ls, ledgers := e.k.ledgers, pipe := { b.k.pipe with feeders := e.k.pipe.feeders }, gauger := e.k.gauger } ∧
        (∀ t r q, r < 64 → q < 32 → e.k.ledger t r q = if t = d.tile ∧ r < d.m ∧ q < d.n then entryRead b.k t r q else b.k.ledger t r q) ∧
        (∀ r q, r < d.m → q < d.n → e.k.ls.data.bytes (d.lsBase.toNat + r * d.lsStride + 64 + 80 * q) 80 =
          LedgerOps.slotBytes (LedgerOps.toForm (entryRead b.k d.tile r q))) ∧
        (∀ r, r < d.m → ∃ mask, e.k.ls.data.bytes (d.lsBase.toNat + r * d.lsStride) 64 = natLe 64 mask ∧
          ∀ q, mask.testBit q = (decide (q < d.n) && LedgerOps.isFull (LedgerOps.toForm (entryRead b.k d.tile r q))))) ∧
    (opField o.word .drain = 3 →
      ∃ e, ∃ ls : Nat → Store, exec (.merge c gap) s = .next (endedBy s c o e) ∧
        e.k = { b.k with ls := e.k.ls, ledgers := e.k.ledgers, gauger := e.k.gauger } ∧ e.k.ls.data = b.k.ls.data ∧
        ls 0 = b.k.ls ∧ (∀ r, ls (r + 1) = ((ls r).afterRead (d.lsBase.toNat + r * d.lsStride) 2624).1) ∧ e.k.ls = ls d.m ∧
        (∀ t r q, r < 64 → q < 32 → ¬ (t = d.tile ∧ r < d.m ∧ q < d.n) → e.k.ledger t r q = b.k.ledger t r q) ∧
        ∀ r q x, r < d.m → q < d.n → x = d.lsBase.toNat + r * d.lsStride →
          e.k.ledger d.tile r q = LedgerOps.combine (if d.acc then entryRead b.k d.tile r q else LedgerOps.zero)
            (if (ls (r + 1)).marked x 4 ∨ (ls (r + 1)).marked (x + 64 + 80 * q) 80 then LedgerOps.ofTag .poison
             else LedgerOps.ofForm (LedgerOps.formOf ((b.k.ls.data.le x 4).testBit q) (b.k.ls.data.bytes (x + 64 + 80 * q) 80))))

/-- R35, R183 to R186, R189, R214, R216, R217, R36, R185, R189: the element-wise operations, CONVERT and the gradients compute
each row from the operands as it finds them; every result is rounded once to the destination's format, a poisoned one is written
as poison. CONVERT to an MX format writes, row by row, the blocks of 32 elements and their scales. -/
def Obligations.ElementwiseAndBlockMicroOps : Prop :=
  (∀ (s : State) (c : CoreId) (gap : Nat) (o : MicroOp) (v : VecOp) (b : Eff) (row : CoreRow) (code : Nat)
     (elem : CoreSt → Nat → Nat → Elem),
     Heads s c .vector o → opField o.word .vector = code → v = o.vec → b = begunBy s c gap o → Mem.wf b.k.trf.data = true →
     (∃ f, (row, code, f) ∈ arithRows ∧ elem = arithElem f v) ∨
       (row = .convert ∧ code = 0x04 ∧ codeMx v.dst.fmt = false ∧ elem = fun k i j => k.trfElem (v.src v.s1) i j) ∨
       (row = .smxGrad ∧ code = 0x51 ∧ elem = gradElem false v) ∨ (row = .normGrad ∧ code = 0x52 ∧ elem = gradElem true v) →
     ∃ e : Nat → Eff, exec (row c gap) s = .next (endedBy s c o (e v.dst.rows)) ∧
       e 0 = { b with k := { b.k with trf := (e 0).k.trf, gauger := (e 0).k.gauger } } ∧ (e 0).k.trf.data = b.k.trf.data ∧
       ∀ i, i < v.dst.rows →
         (∃ w : Eff, w.k = { (e i).k with trf := w.k.trf, gauger := w.k.gauger } ∧ w.k.trf.data = (e i).k.trf.data ∧ w.id = (e i).id ∧
           w.occ = (e i).occ ∧
           e (i + 1) = w.writeRow o v.dst i v.sr ((List.range v.e).map (elem w.k i)) ∧
           (v.sr = false ∨ v.dst.fmt = 0 → (fmtOf v.dst.fmt).isMx = false → ∀ j, j < v.e →
             ((e (i + 1)).k.trf.elemBits 0 (v.dst.addr b.k.tiles i) j (fmtOf v.dst.fmt).bits).1 =
               (outElem (fmtOf v.dst.fmt) .rne (elem w.k i j).1 (elem w.k i j).2).1.1))) ∧
  (∀ (s : State) (c : CoreId) (gap : Nat) (o : MicroOp) (v : VecOp) (b : Eff),
     Heads s c .vector o → opField o.word .vector = 0x04 → v = o.vec → b = begunBy s c gap o → codeMx v.dst.fmt = true →
     ∃ e : Nat → Eff, exec (.convert c gap) s = .next (endedBy s c o (e v.dst.rows)) ∧
       e 0 = { b with k := { b.k with gauger := (e 0).k.gauger } } ∧
       ∀ i, i < v.dst.rows → ∃ u w, u = (e i).touchTrf ((v.src v.s1).addr b.k.tiles i) (v.src v.s1).bytes ∧
         w = (if codeMx (v.src v.s1).fmt then u.touchTrf ((v.src v.s1).scaleAddr b.k.tiles i 0) ((v.e + 31) / 32) else u) ∧
         e (i + 1) = w.convertMxRow o v.dst i v.sr ((List.range v.e).map (fun j => w.k.trfElem (v.src v.s1) i j)))

/-- R82, R187, R189: TILECFG writes one tile descriptor; MOVE_IN and MOVE_OUT copy bytes between the local store and a tile,
TRANSPOSE elements from columns to rows, all bits unchanged. -/
def Obligations.TileMicroOps : Prop :=
  ∀ (s : State) (c : CoreId) (gap : Nat) (o : MicroOp) (v : VecOp) (b : Eff) (d : TrfOp),
    Heads s c .vector o → v = o.vec → b = begunBy s c gap o → d = v.dst → Mem.wf b.k.trf.data = true → Mem.wf b.k.ls.data = true →
    (opField o.word .vector = 0x01 →
      exec (.tilecfg c gap) s = .next (endedBy s c o { b with k := { b.k with
        tiles := b.k.tiles.set (v.aux % 32) ((v.s0.setWidth 32) &&& 0x8FFFFFBF#32) } })) ∧
    (opField o.word .vector = 0x02 →
      ∃ e, exec (.moveIn c gap) s = .next (endedBy s c o e) ∧
        e.k = { b.k with ls := e.k.ls, trf := e.k.trf, gauger := e.k.gauger } ∧ e.k.ls.data = b.k.ls.data ∧ e.occ = [] ∧
        (codeMx d.fmt = false → 0 ≤ d.row0 → d.byte0 + d.bytes ≤ tilePitch (tileOf b.k.tiles d.tile) →
          (∀ i j, i < d.rows → j < d.bytes → e.k.trf.data.rd (d.addr b.k.tiles i + j) =
            b.k.ls.data.rd (v.moveLs.base.toNat + i * v.moveLs.stride + j)) ∧
          ∀ x, (∀ i, i < d.rows → x < d.addr b.k.tiles i ∨ d.addr b.k.tiles i + d.bytes ≤ x) →
            e.k.trf.data.rd x = b.k.trf.data.rd x)) ∧
    (opField o.word .vector = 0x03 →
      ∃ e, exec (.moveOut c gap) s = .next (endedBy s c o e) ∧
        e.k = { b.k with ls := e.k.ls, trf := e.k.trf, pipe := { b.k.pipe with feeders := e.k.pipe.feeders }, gauger := e.k.gauger } ∧
        e.k.trf.data = b.k.trf.data ∧ e.occ = [] ∧
        (codeMx d.fmt = false → ∀ f x, x ∈ e.k.pipe.feeders.get [] f ↔ x ∈ b.k.pipe.feeders.get [] f ∧
          ∀ i j, i < d.rows → j < d.bytes → (v.moveLs.base.toNat + i * v.moveLs.stride + j) / 64 ≠ x.line) ∧
        (codeMx d.fmt = false → d.rows = 1 ∨ d.bytes ≤ v.moveLs.stride →
          (∀ i j, i < d.rows → j < d.bytes → e.k.ls.data.rd (v.moveLs.base.toNat + i * v.moveLs.stride + j) =
            b.k.trf.data.rd (d.addr b.k.tiles i + j)) ∧
          ∀ x, (∀ i, i < d.rows → x < v.moveLs.base.toNat + i * v.moveLs.stride ∨
              v.moveLs.base.toNat + i * v.moveLs.stride + d.bytes ≤ x) → e.k.ls.data.rd x = b.k.ls.data.rd x)) ∧
    (opField o.word .vector = 0x05 →
      ∃ e, exec (.transpose c gap) s = .next (endedBy s c o e) ∧
        e.k = { b.k with trf := e.k.trf, gauger := e.k.gauger } ∧ e.occ = [] ∧
        (codeBits d.fmt ∈ [16, 32] → v.transposeSrc.fmt = d.fmt → 0 ≤ d.row0 → d.byte0 + d.bytes ≤ tilePitch (tileOf b.k.tiles d.tile) →
          ∀ i j, i < d.rows → j < v.e → (e.k.trf.elemBits 0 (d.addr b.k.tiles i) j (codeBits d.fmt)).1 =
            (b.k.trf.elemBits 0 (v.transposeSrc.addr b.k.tiles j) i (codeBits d.fmt)).1))

/-- R197 to R204, R215: the row reducer's operations on its entries. -/
def Obligations.ReducerMicroOps : Prop :=
  ∀ (s : State) (c : CoreId) (gap : Nat) (o : MicroOp) (v : VecOp) (b : Eff),
    Heads s c .vector o → v = o.vec → b = begunBy s c gap o → Mem.wf b.k.ls.data = true →
    (opField o.word .vector = 0x20 →
      ∃ rs, exec (.rclear c gap) s = .next (endedBy s c o { b with k := { b.k with reducer := rs } }) ∧
        ∀ n, rs.get {} n = if v.e0 ≤ n ∧ n ≤ v.e0 + wField v.s0 5 0 then {} else b.k.red n) ∧
    (∀ row code, (row, code) ∈ [(Instr.rsum, 0x21), (.rsumsq, 0x22), (.rdot, 0x50)] → opField o.word .vector = code →
      ∃ e, exec (row c gap) s = .next (endedBy s c o e) ∧
        e.k = { b.k with trf := e.k.trf, reducer := e.k.reducer, gauger := e.k.gauger } ∧ e.k.trf.data = b.k.trf.data ∧ e.occ = [] ∧
        ∀ n, e.k.red n = if v.e0 ≤ n ∧ n < v.e0 + v.dst.rows then
          { b.k.red n with
            led := ((List.range v.e).map (reduceTerm code v e.k (n - v.e0))).foldl LedgerOps.combine (b.k.red n).led,
            count := min ((b.k.red n).count + v.e) (2 ^ 24) } else b.k.red n) ∧
    (opField o.word .vector = 0x23 →
      ∃ e, exec (.rmax c gap) s = .next (endedBy s c o e) ∧
        e.k = { b.k with trf := e.k.trf, reducer := e.k.reducer, gauger := e.k.gauger } ∧ e.k.trf.data = b.k.trf.data ∧ e.occ = [] ∧
        ∀ n, e.k.red n = if v.e0 ≤ n ∧ n < v.e0 + v.dst.rows then
          { b.k.red n with max := (List.range v.e).foldl (fun m j =>
            let x := e.k.trfElem v.dst (n - v.e0) j
            Numbers.fmax m (if x.2 then Numbers.Fmt.nanCode .fp32 else Numbers.fp32 x.1)) (b.k.red n).max } else b.k.red n) ∧
    (opField o.word .vector = 0x24 →
      ∃ e outs, exec (.rout c gap) s = .next (endedBy s c o e) ∧ e.k = { b.k with trf := e.k.trf, gauger := e.k.gauger } ∧
        outs = (List.range v.dst.rows).map (fun j => routElem (wField v.s2 2 0) (wField v.s2 63 32) (b.k.red (v.e0 + j))) ∧
        e.k.trf = b.k.trf.write (v.entryRow.addr b.k.tiles 0)
          (packRow 32 (outs.map (fun x => (outElem .fp32 .rne x.1.1 x.1.2).1)))) ∧
    (opField o.word .vector = 0x25 →
      ∃ e ok, exec (.rsetref c gap) s = .next (endedBy s c o e) ∧
        e.k = { b.k with trf := e.k.trf, reducer := e.k.reducer, gauger := e.k.gauger } ∧ e.k.trf.data = b.k.trf.data ∧
        ok = (fun j => let x := e.k.trfElem v.entryRow 0 j
          !x.2 && !x.1.isNonFinite && decide (-32768 ≤ floorVal x.1) && decide (floorVal x.1 ≤ 32767)) ∧
        (∀ n, e.k.red n = if v.e0 ≤ n ∧ n < v.e0 + v.dst.rows ∧ ok (n - v.e0) then
          { b.k.red n with k := floorVal (e.k.trfElem v.entryRow 0 (n - v.e0)).1, refSet := true } else b.k.red n) ∧
        e.occ = match (List.range v.dst.rows).find? (fun j => !ok j) with
          | some j => [⟨0x0D, [locus c o, BitVec.ofNat 64 o.inv, BitVec.ofNat 64 (v.e0 + j)]⟩]
          | none => []) ∧
    (opField o.word .vector = 0x26 →
      ∃ e, exec (.smxExp c gap) s = .next (endedBy s c o e) ∧ e = b.smxExp o v ∧
        e.k = { b.k with
          trf := e.k.trf, reducer := e.k.reducer, lanes := e.k.lanes, nfCount := e.k.nfCount, evPending := e.k.evPending,
          note := e.k.note, gauger := e.k.gauger } ∧
        ∀ n, n < v.e0 ∨ v.e0 + (trfWord v.s1 v.inst).rows ≤ n → e.k.red n = b.k.red n) ∧
    (opField o.word .vector = 0x27 →
      ∃ e, exec (.rsave c gap) s = .next (endedBy s c o e) ∧
        e.k = { b.k with ls := e.k.ls, pipe := { b.k.pipe with feeders := e.k.pipe.feeders } } ∧ e.occ = [] ∧
        (128 ≤ v.images.stride →
          (∀ n, n < v.images.rows → e.k.ls.data.bytes (v.images.base.toNat + n * v.images.stride) 128 = (b.k.red (v.e0 + n)).image) ∧
          ∀ x, (∀ n, n < v.images.rows → x < v.images.base.toNat + n * v.images.stride ∨
            v.images.base.toNat + n * v.images.stride + 128 ≤ x) → e.k.ls.data.rd x = b.k.ls.data.rd x)) ∧
    (∀ row code, (row, code) ∈ [(Instr.rload, 0x28), (.rmerge, 0x29)] → opField o.word .vector = code →
      ∃ e, ∃ ls : Nat → Store, exec (row c gap) s = .next (endedBy s c o e) ∧
        e.k = { b.k with ls := e.k.ls, reducer := e.k.reducer, gauger := e.k.gauger } ∧ e.k.ls.data = b.k.ls.data ∧
        ls 0 = b.k.ls ∧ (∀ n, ls (n + 1) = ((ls n).afterRead (v.images.base.toNat + n * v.images.stride) 128).1) ∧
        e.k.ls = ls v.images.rows ∧
        (∀ n, n < v.e0 ∨ v.e0 + v.images.rows ≤ n → e.k.red n = b.k.red n) ∧
        ∀ i a r, i < v.images.rows → a = v.images.base.toNat + i * v.images.stride →
          r = Reducer.ofImage (b.k.ls.data.bytes a 128) ((ls (i + 1)).marked a 128) →
          e.k.red (v.e0 + i) = if code = 0x28 then r else ((b.k.red (v.e0 + i)).merge r).1)

/-- R206, R219 to R222, R228 to R231, R235 to R241: the statistics flush, the Assayer, the weight updates, the lane generators
and SPIKE_CHECK. -/
def Obligations.AssayUpdateAndGenerators : Prop :=
  ∀ (s : State) (c : CoreId) (gap : Nat) (o : MicroOp) (v : VecOp) (b : Eff),
    Heads s c .vector o → v = o.vec → b = begunBy s c gap o → Mem.wf b.k.ls.data = true →
    (opField o.word .vector = 0x30 →
      exec (.statsFlush c gap) s = .next (endedBy s c o { b with k := {
        b.k.writeLs (lsWordBase v.s0) (markAll false (b.k.hist.recordBytes (wField v.s1 15 0))) with hist := {} } })) ∧
    (opField o.word .vector = 0x53 →
      ∃ e, ∃ m : Nat → Merged, exec (.assay c gap) s = .next (endedBy s c o e) ∧
        e.k = { b.k with ls := e.k.ls, assayer := e.k.assayer, pipe := { b.k.pipe with feeders := e.k.pipe.feeders }, gauger := e.k.gauger } ∧
        e.occ = [] ∧
        m 0 = {} ∧ (∀ i, m (i + 1) = if b.k.ls.data.le (v.assayRecords.base.toNat + i * v.assayRecords.stride) 2 = v.aux % 128
          then (m i).add (b.k.ls.data.bytes (v.assayRecords.base.toNat + i * v.assayRecords.stride) 320) else m i) ∧
        (∀ n, e.k.assay n = if n = v.aux % 128 then assaySelect (b.k.assay n) (m v.assayRecords.rows) else b.k.assay n) ∧
        e.k.ls.data.le (wField v.s2 18 0) 8 = (e.k.assay (v.aux % 128)).toNat ∧
        ∀ x, x < wField v.s2 18 0 ∨ wField v.s2 18 0 + 8 ≤ x → e.k.ls.data.rd x = b.k.ls.data.rd x) ∧
    (opField o.word .vector = 0x54 →
      ∃ x, exec (.assaySet c gap) s = .next (endedBy s c o { b with k := { b.k with assayer := b.k.assayer.set (v.aux % 128) x } }) ∧
        x.extractLsb' 63 1 = v.s0.extractLsb' 63 1 ∧ x.extractLsb' 32 28 = v.s0.extractLsb' 32 28 ∧
        x.extractLsb' 60 3 = 0 ∧ x.extractLsb' 28 4 = 0 ∧ x.extractLsb' 0 28 = (b.k.assay (v.aux % 128)).extractLsb' 0 28) ∧
    (∀ row code, (row, code) ∈ [(Instr.updSgd, 0x40), (.updMomentum, 0x41), (.updAdam, 0x42)] → opField o.word .vector = code →
      ∃ e, exec (row c gap) s = .next (endedBy s c o e) ∧ e = b.update o v ∧
        e.k = { b.k with
          trf := e.k.trf, lanes := e.k.lanes, nfCount := e.k.nfCount, evPending := e.k.evPending, note := e.k.note, gauger := e.k.gauger } ∧
        (v.sr = false → e.k.lanes = b.k.lanes)) ∧
    (opField o.word .vector = 0x44 →
      ∃ ls, exec (.rngSeed c gap) s = .next (endedBy s c o { b with k := { b.k with lanes := ls } }) ∧
        ∀ l, ls.find l = if l < 64 then some (laneSeed v.s0 v.s1 l) else b.k.lanes.find l) ∧
    (opField o.word .vector = 0x45 →
      ∃ e, exec (.rngSave c gap) s = .next (endedBy s c o e) ∧
        e.k = { b.k with ls := e.k.ls, pipe := { b.k.pipe with feeders := e.k.pipe.feeders } } ∧ e.occ = [] ∧
        (∀ l, l < 64 → e.k.ls.data.le (lsWordBase v.s0 + 16 * l) 16 = (b.k.lane l).toNat) ∧
        ∀ x, x < lsWordBase v.s0 ∨ lsWordBase v.s0 + 1024 ≤ x → e.k.ls.data.rd x = b.k.ls.data.rd x) ∧
    (opField o.word .vector = 0x46 →
      ∃ e, exec (.rngLoad c gap) s = .next (endedBy s c o e) ∧ e.k = { b.k with ls := e.k.ls, lanes := e.k.lanes, gauger := e.k.gauger } ∧
        e.k.ls.data = b.k.ls.data ∧
        (∀ l, l < 64 → e.k.lane l =
          if e.k.ls.marked (lsWordBase v.s0 + 16 * l) 16 then b.k.lane l
          else if b.k.ls.data.le (lsWordBase v.s0 + 16 * l) 16 = 0 then laneSeed 0 0 l
          else BitVec.ofNat 128 (b.k.ls.data.le (lsWordBase v.s0 + 16 * l) 16)) ∧
        e.occ = ((List.range 64).filter (fun l => e.k.ls.marked (lsWordBase v.s0 + 16 * l) 16)).map (fun l =>
          ⟨0x0E, [BitVec.ofNat 64 (c + l * 65536)]⟩)) ∧
    (opField o.word .vector = 0x47 →
      ∃ e n, exec (.spikeCheck c gap) s = .next (endedBy s c o e) ∧
        e.k = { b.k with trf := e.k.trf, spikeCount := e.k.spikeCount, evPending := e.k.evPending, note := e.k.note, gauger := e.k.gauger } ∧
        e.k.trf.data = b.k.trf.data ∧ e.occ = [] ∧
        n = (((List.range v.dst.rows).flatMap (fun i => (List.range v.e).map (fun j => e.k.trfElem v.dst i j))).filter (fun x =>
          x.2 || x.1.isNan || Numbers.ltVal false (Numbers.val32 (v.s1.toNat % 2 ^ 32))
            (if v.auxF 48 48 = 1 then Numbers.absVal x.1 else x.1))).length ∧
        e.k.spikeCount.toNat = min (b.k.spikeCount.toNat + n) (2 ^ 48 - 1) ∧
        e.k.evPending = if b.k.spikeLimit ≠ 0 ∧ b.k.spikeCount < b.k.spikeLimit ∧ b.k.spikeLimit ≤ e.k.spikeCount
          then b.k.evPending ||| 8 else b.k.evPending)

/-! ## Carters, fabric and memory tiers (chapters 6 and 10 to 12) -/

/-- R94, R165, R167, R273 to R282, R292, R296, R312 to R315: a Carter micro-op that begins, the one before it having issued its
last request, leaves its queue and puts its accesses, bursts or descriptor where they wait, a POST_WINDOW its window; an invalid
set and a busy pattern range are refused whole. -/
def Obligations.CarterMicroOps : Prop :=
  ∀ (s : State) (c : CoreId) (gap : Nat) (o : MicroOp) (d : Stream) (k : CoreSt) (x : GuildSt) (q : DrayDesc),
    k = s.core c → x = s.guild (c / 32) →
    (Heads s c .inbound o → d = o.inStream →
      q = { id := s.nextDray, core := c, op := o, fence := true, stream := d } →
      (ciOp o.word = some .streamIn → s.issuedAll c .inbound = true →
        ∃ t, exec (.streamIn c gap) s = .next t ∧
          (d.total = 0 ∨ ¬ (d.lkind = 1 ∧ d.patternIdx.any k.patternBusy = true) → ∀ ts, ts = (if d.total = 0 then [] else d.readTxns c o) →
            CarterBegan k (t.core c) .inbound gap o ts.length ∧
            t = { s with cores := t.cores, txns := s.txns ++ numbered s.nextTxn ts, nextTxn := s.nextTxn + ts.length }) ∧
          (d.total ≠ 0 → d.lkind = 1 → d.patternIdx.any k.patternBusy = true →
            ∃ w, t = { s with cores := t.cores, occurrences := s.occurrences ++ [⟨0x03, [locus c o, w, BitVec.ofNat 64 o.inv]⟩] } ∧
              (∀ r ∈ (t.core c).active .inbound, r.op.uid = o.uid → r.noBump = true) ∧
              w.toNat % 2 ^ 16 = (d.patternIdx.foldl min 4096) % 2 ^ 16)) ∧
      (ciOp o.word = some .postWindow → ∀ j lo hi w, k.freeWindow = some j → w = (⟨o, lo, hi, d.windowBytes, 0, false, false, (k.cycle + gap) % 2 ^ 64⟩ : Window) →
        (lo, hi) = (match d.hull with | .ls a b :: _ => (a, b) | _ => (1, 0)) →
        0 < d.windowBytes → (∀ y ∈ k.windows, k.windowReady y.2 = false) →
        ∃ t, exec (.postWindow c gap) s = .next t ∧ CoreAt s t c { k.setQueue .inbound ((k.queue .inbound).drop 1) with
          windows := k.windows.set j w, cycle := (k.cycle + gap) % 2 ^ 64 }) ∧
      (ciOp o.word = some .fence → s.issuedAll c .inbound = true → s.fenceReady c o = true → s.drayRoom (c / 32) = true →
        ∃ t, exec (.fence c gap) s = .next t ∧
          (d.total = 0 → CarterBegan k (t.core c) .inbound gap o 0 ∧ t = { s with cores := t.cores }) ∧
          (d.total ≠ 0 → CarterBegan k (t.core c) .inbound gap o 1 ∧
            t = { s with
              cores := t.cores, guilds := s.guilds.set (c / 32) { x with drayQueue := x.drayQueue ++ [q] }, nextDray := s.nextDray + 1 }))) ∧
    (Heads s c .outbound o → d = o.outStream →
      q = { id := s.nextDray, core := c, op := o, fence := false, stream := d, token := d.tokEn } →
      (coOp o.word = some .streamOut → s.issuedAll c .outbound = true →
        ∃ t, exec (.streamOut c gap) s = .next t ∧
          (d.rkind = 2 → s.setOk d.rUnit d.reduce = false →
            t = { s with cores := t.cores, occurrences := s.occurrences ++ [⟨0x0F, [locus c o, BitVec.ofNat 64 d.rUnit]⟩] } ∧
            ∀ r ∈ (t.core c).active .outbound, r.op.uid = o.uid → r.noBump = true) ∧
          (d.rkind ≠ 2 → ∀ ts, ts = (if d.total = 0 then [] else k.writeTxns c o d (s.nextTxn + 1)) →
            CarterBegan k (t.core c) .outbound gap o (if d.source then 0 else ts.length) ∧
            t = { s with cores := t.cores, txns := s.txns ++ numbered s.nextTxn ts, nextTxn := s.nextTxn + ts.length }) ∧
          (d.rkind = 2 → s.setOk d.rUnit d.reduce = true →
            ∀ bs, bs = (if d.total = 0 ∨ s.setTargets d.rUnit = [] then [] else k.bursts c o d) →
            CarterBegan k (t.core c) .outbound gap o (if d.source then 0 else bs.length) ∧
            t = { s with
              cores := t.cores, bursts := s.bursts ++ bs.zipIdx.map (fun y => { y.1 with id := s.nextBurst + y.2 }),
              nextBurst := s.nextBurst + bs.length })) ∧
      (coOp o.word = some .prefetch → s.issuedAll c .outbound = true → d.total = 0 ∧ d.tokEn = false ∨ s.drayRoom (c / 32) = true →
        ∃ t, exec (.prefetch c gap) s = .next t ∧
          CarterBegan k (t.core c) .outbound gap o (if d.psrc = true ∧ d.total ≠ 0 then 1 else 0) ∧
          (d.total = 0 → d.tokEn = false → t = { s with cores := t.cores }) ∧
          (d.total ≠ 0 ∨ d.tokEn = true →
            t = { s with
              cores := t.cores, guilds := s.guilds.set (c / 32) { x with drayQueue := x.drayQueue ++ [q] }, nextDray := s.nextDray + 1 })))

/-- R246, R248 to R252, R255 to R257, R289 to R292: an access takes a tag and sets out over its hops for the place its
translation gives, waits for the walker, is held by a frozen page or is refused; the walker answers from the table block; a
block is checked as it is received at each hop, sent again when it fails, and after its fourth failure goes on marked. -/
def Obligations.AccessesAreTranslated : Prop :=
  (∀ (s w : State) (engine : Fin 3) (n : CoreId) (x y : Txn), Issuable s (issuer engine n) x →
    (if engine = 2 then n.val < 32 else s.coreRuns n = true) → y = { x with issue := s.nextIssue } →
    w = { s.chargeIssue x with nextIssue := s.nextIssue + 1 } → (∀ g o, x.target ≠ .set g o) →
    ∃ t, exec (.tagIssue engine n) s = .next t ∧ s.nextIssue < t.nextIssue ∧
      (x.malformed = true → (∃ d, Moved s t { y with phase := .done 2, poison := true, data := d }) ∧ t.occurrences =
        s.occurrences ++ [⟨0x20, [BitVec.ofNat 64 (x.master + 2 * 65536), BitVec.ofNat 64 x.addr]⟩]) ∧
      (∀ c o, x.malformed = false → x.target = .core c o →
        (s.fenced c = false → Moved s t (departed w y (.ls c o) 0) ∧ t.occurrences = s.occurrences) ∧
        (s.fenced c = true → (∃ d, Moved s t { y with phase := .done 2, poison := true, data := d }) ∧ t.occurrences =
          s.occurrences ++ [⟨0x20, [BitVec.ofNat 64 (x.master + 2 * 65536), BitVec.ofNat 64 x.addr]⟩])) ∧
      ∀ a, x.malformed = false → x.target = .dva a →
        ((s.cached x.src.guild (a / 65536)).1 = none → Moved s t { y with phase := .walking } ∧ t.occurrences = s.occurrences) ∧
        ∀ e v, (s.cached x.src.guild (a / 65536)).1 = some e → v = s.judge (some e) x.master a x.write false →
          (v = .hold → Moved s t { y with phase := .held } ∧ t.occurrences = s.occurrences) ∧
          (∀ r, v = .refuse r → (∃ d, Moved s t { y with phase := .done r, poison := true, data := d }) ∧
            t.occurrences = s.occurrences ++ [⟨0x20, [BitVec.ofNat 64 (x.master + r * 65536), BitVec.ofNat 64 a]⟩]) ∧
          (∀ l bad, v = .go l bad →
            ((w.cached x.src.guild (a / 65536)).2.behind y l = true → Moved s t { y with phase := .walking }) ∧
            ∀ k, (w.cached x.src.guild (a / 65536)).2.behind y l = false →
              (match (generalizing := false) l with | .peer p _ => s.routeOf p = some k | _ => k = 0) → hopsOut x.src l k ≠ [] →
              Moved s t (departed w { y with poison := y.poison || (bad && !y.write) } l k) ∧ t.occurrences = s.occurrences)) ∧
  (∀ (s w : State) (half : Fin 2) (x : Txn) (served : List Txn) (e : Option Word) (page : Nat),
    s.txns.find? (fun t => (t.phase = .walking && t.src.guild / 16 = half.val && s.performedAll t.after) &&
      !(s.headed t).any (s.behind t)) = some x → page = x.target.addr / 65536 →
    served = s.txns.filter (fun t => (t.phase = .walking && t.src.guild / 16 = half.val && s.performedAll t.after) &&
      t.target.addr / 65536 / 8 = page / 8) →
    (e, w) = s.walk x.src.guild page →
    ∃ t, exec (.placementWalk half) s = .next t ∧
      t = served.foldl (fun u y => if e.isNone then u.act y (.refuse 4) else u.translate y) w ∧
      ((s.tableBlock x.src.guild page).1.2 = false → e = some (BitVec.ofNat 64 (s.tiers.bedrock.le (8 * page) 8)) ∧
        PtCache.find (w.guild x.src.guild).cache page = e) ∧
      ((s.tableBlock x.src.guild page).1.2 = true → e = none) ∧ (s.tiers.bedMarked 0 (8 * page) = true → e = none)) ∧
  (∀ (s : State) (n flips behind : Nat) (u port : Fin 256) (leaving : Bool) (x : Txn) (h : Hop) (rest : List Hop) (got : FlitWire)
      (good : Bool) (nx : Txn → Txn), h = ⟨u, port, leaving⟩ →
    s.txn n = some x → x.path = h :: rest → s.hopTaken x h = false → (got, good) = (x.wire x.port).received flips →
    nx = (fun z => { z with path := rest, checkFails := 0, entered := s.nextIssue }) →
    ∃ t, exec (.blockHopReceive n u port leaving flips behind) s = .next t ∧
      (flips = 0 → good = true) ∧
      (good = true → rest ≠ [] ∨ (∃ r, x.phase = .done r) ∨ (∃ c o, x.phase = .sent (.ls c o)) → Moved s t (nx (x.taken (x.wire x.port) got)) ∧
        t = { s with txns := t.txns, nextIssue := s.nextIssue + 1, free := t.free, unitCounters := t.unitCounters, bwNow := t.bwNow }) ∧
      (good = false → x.checkFails < 3 → Moved s t { x with checkFails := x.checkFails + 1 } ∧
        t = { s with txns := t.txns, unitCounters := t.unitCounters, bwNow := t.bwNow }) ∧
      (good = false → 3 ≤ x.checkFails → rest ≠ [] ∨ (∃ r, x.phase = .done r) ∨ (∃ c o, x.phase = .sent (.ls c o)) →
        Moved s t (nx x.marked) ∧
        t = { s with
          txns := t.txns, nextIssue := s.nextIssue + 1, free := t.free, unitCounters := t.unitCounters, bwNow := t.bwNow,
          occurrences := s.occurrences ++ [⟨0x21, [BitVec.ofNat 64 (u + port * 4096), BitVec.ofNat 64 x.addr]⟩] }))

/-- R166 to R171, R254, R261, R265, R266, R269, R277, R283, R293, R405, R443, R444: blocks are read and written in the tiers in
order, each Bedrock block with its stored check, and read data, acknowledgements and arrivals reach their cores. -/
def Obligations.AccessesArePerformed : Prop :=
  (∀ (s : State) (n g a i : Nat) (x : Txn), AtTarget s n x (.shale g a) → i = g * 2 ^ 29 + a / 64 * 64 →
    ∃ t, exec (.shaleAccess n) s = .next t ∧
      (x.write = false → t.txn n = some (returned s { x with
          data := BitVec.ofNat 512 (s.tiers.shale.data.le i 64), poison := x.poison || t.tiers.shale.marked i 64 } (.shale g a) 0) ∧
        t.tiers.shale.data = s.tiers.shale.data) ∧
      (x.write = true → t.tiers.shale.data = withRuns s.tiers.shale.data i x.runs ∧
        t.txns = wroteTxns s.txns x (returned s x (.shale g a) 0)) ∧
      t = { s with
        tiers := { s.tiers with shale := t.tiers.shale }, txns := t.txns, nextIssue := t.nextIssue, free := t.free,
        unitCounters := t.unitCounters, bwNow := t.bwNow, occurrences := t.occurrences }) ∧
  (∀ (s : State) (n k a i corrected : Nat) (x : Txn), AtTarget s n x (.bedrock k a) → i = bedIdx k (a / 64 * 64) →
    (x.write = false → ∃ t, exec (.bedrockRead n corrected) s = .next t ∧
      t.txn n = some (returned s { x with
        data := BitVec.ofNat 512 (s.tiers.bedrock.le i 64), poison := x.poison || s.tiers.bedMarked k a } (.bedrock k a) 0) ∧
      (s.tiers.bedBad k a = false → t.tiers.bedrock = s.tiers.bedrock ∧ t.occurrences = s.occurrences) ∧
      (s.tiers.bedBad k a = true → t.tiers.bedrock = withCheck s.tiers.bedrock k a true ∧
        t.occurrences = s.occurrences ++ [⟨0x23, [BitVec.ofNat 64 (bedrockDpa k (a / 64 * 64))]⟩]) ∧
      t = { s with
        tiers := { s.tiers with bedrock := t.tiers.bedrock }, txns := t.txns, nextIssue := t.nextIssue, free := t.free,
        unitCounters := t.unitCounters, bwNow := t.bwNow, occurrences := t.occurrences }) ∧
    (x.write = true → ∃ t, exec (.bedrockWrite n corrected) s = .next t ∧
      (runsLen x.runs = 64 → t.tiers.bedrock = withCheck (withRuns s.tiers.bedrock i x.runs) k a (runsMarked x.runs)) ∧
      (runsLen x.runs ≠ 64 → s.tiers.bedBad k a = false →
        t.tiers.bedrock = withCheck (withRuns s.tiers.bedrock i x.runs) k a (runsMarked x.runs || s.tiers.bedMarked k a)) ∧
      t.txns = wroteTxns s.txns x (returned s x (.bedrock k a) 0) ∧ t = { s with
        tiers := { s.tiers with bedrock := t.tiers.bedrock }, txns := t.txns, nextIssue := t.nextIssue, free := t.free,
        unitCounters := t.unitCounters, bwNow := t.bwNow, occurrences := t.occurrences })) ∧
  (∀ (s : State) (k : CtlId) (rate : Fin 32), s.house.fencedCtls.contains k.val = false →
    exec (.bedrockRefresh k rate) s = .next { s with house := { s.house with refreshRate := s.house.refreshRate.set k rate } }) ∧
  (∀ (s : State) (n : Nat) (c : CoreId) (x : Txn) (code : Nat) (mine : List Txn),
    s.txn n = some x → x.write = false → x.src = .inbound c → x.phase = .done code → x.path = [] → s.coreRuns c = true →
    mine = (s.txns.map (fun y => if y.id = n then { x with phase := .landed } else y)).filter (fun y => y.src = x.src && y.owner = x.owner) →
    ∃ t, exec (.fabricReadData n) s = .next t ∧
      (t.core c).active .inbound = ((s.core c).active .inbound).map (fun r =>
        if r.op.uid = x.owner then { r with left := r.left - 1 } else r) ∧
      t = { s with cores := t.cores, txns := t.txns } ∧
      ((∃ y ∈ mine, y.phase ≠ .landed) → t.txn n = some { x with phase := .landed } ∧ (t.core c).ls = (s.core c).ls ∧
        (t.core c).pattern = (s.core c).pattern) ∧
      ((∀ y ∈ mine, y.phase = .landed) → t.txns = s.txns.filter (fun y => !(y.src = x.src && y.owner = x.owner)) ∧
        (t.core c).ls = (Eff.streamWritten ⟨c, s.core c, []⟩ mine).k.ls ∧
        (t.core c).pattern = (Eff.streamWritten ⟨c, s.core c, []⟩ mine).k.pattern)) ∧
  (∀ (s : State) (n o : Nat) (c : CoreId) (x : Txn), s.txn n = some x → x.write = false → x.phase = .sent (.ls c o) → x.path = [] →
    s.coreRuns c = true → s.inOrder x (.ls c o) = true → s.allowed 44 (s.lsClass c) x.master false = true →
    ∃ t, exec (.fabricReadData n) s = .next t ∧ (t.core c).ls.data = (s.core c).ls.data ∧ t.occurrences = s.occurrences ∧
      t.txn n = some (returned s { x with
        data := BitVec.ofNat 512 ((s.core c).ls.data.le o 64), poison := x.poison || (t.core c).ls.marked o 64 } (.ls c o) 0)) ∧
  (∀ (s : State) (n c o : Nat) (x : Txn), s.txn n = some x → x.write = true → x.phase = .sent (.ls c o) → x.path = [] →
    s.coreRuns c = true → s.inOrder x (.ls c o) = true →
    ∃ t, exec (.arrival n) s = .next t ∧
      (x.checked = false → s.allowed 44 (s.lsClass c) x.master true = false →
        t = { s with
          txns := t.txns, nextIssue := t.nextIssue, free := t.free, unitCounters := t.unitCounters, bwNow := t.bwNow,
          occurrences := s.occurrences ++ [⟨0x20, [BitVec.ofNat 64 (x.master + 3 * 65536), BitVec.ofNat 64 x.addr]⟩] } ∧
        t.txn n = some (returned s x (.ls c o) 3)) ∧
      (x.checked = true ∨ s.allowed 44 (s.lsClass c) x.master true = true →
        (t.core c).ls.data = withRuns (s.core c).ls.data o x.runs ∧ t.txns = wroteTxns s.txns x (returned s x (.ls c o) 0) ∧
        ∀ off bs i w, x.runs = [(off, bs)] → bs ≠ [] → (s.core c).frozen = false → (s.core c).windows = [(i, w)] → w.lo ≤ o + off →
          o + off + bs.length ≤ w.hi + 1 → w.got + bs.length < w.expect →
          (t.core c).windows = [(i, { w with got := w.got + bs.length, since := (s.core c).cycle })] ∧
          (t.core c).notches = (s.core c).notches)) ∧
  (∀ (s : State) (n : Nat) (c : CoreId) (x : Txn) (code : Nat),
    s.txn n = some x → x.write = true → x.src = .outbound c → x.phase = .done code → x.path = [] → s.coreRuns c = true →
    ∃ t, exec (.writeAck n) s = .next t ∧ t.txns = s.txns.filter (fun y => y.id ≠ n) ∧
      t = { s with cores := t.cores, txns := t.txns } ∧
      (t.core c).active .outbound = ((s.core c).active .outbound).map (fun r =>
        if r.op.uid = x.owner then { r with left := r.left - 1, noBump := r.noBump || decide (code = 8) } else r))

/-- R172, R292 to R295, R311 to R321, R445: bursts reserve their target guilds in ascending order and leave when all have
granted; the ledger adders add slots to their row buffer, which emits its sums once every contributor has delivered; the Draymen
start descriptors and send completion tokens; a window without a byte for the set time is reported once. -/
def Obligations.MulticastAndCopies : Prop :=
  (∀ (s w : State) (b b' : Burst) (g : Nat) (rest : List Nat), BurstFirst s b → b.begun = false → s.setOk b.set b.reduce = true →
    targetGuilds (s.setTargets b.set) = g :: rest →
    b' = { b with begun := true, entry := s.setCtrl b.set, targets := s.setTargets b.set, asking := some g, asked := s.nextIssue } →
    w = { s with nextIssue := s.nextIssue + 1 }.putBurst b' →
    ∃ t, exec (.mcastReserve b.id) s = .next t ∧
      (b.reduce = false → w.landingUse g + b.flits.length ≤ 512 → w.olderWaits b' g = false →
        t = { w.putBurst { b' with asking := none, coming := some g, refused := b.refused ++ refusedThere s b' g } with
          cores := t.cores,
          occurrences := s.occurrences ++ (refusedThere s b' g).map (fun c =>
            ⟨0x20, [BitVec.ofNat 64 (masterId 2 b.core + 3 * 65536), BitVec.ofNat 64 (lsDpa c (firstOff b))]⟩) } ∧
        Aside (s.core b.core) (t.core b.core)) ∧
      (b.reduce = false → 512 < w.landingUse g + b.flits.length ∨ w.olderWaits b' g = true → t = w) ∧
      (b.reduce = true → (s.guild g).mayJoin b' = false → t = w) ∧
      (b.reduce = true → (s.guild g).mayJoin b' = true → ∃ r ∈ (t.guild g).rows, r.set = b.set ∧ r.off = b.rowOff ∧
        (∃ y ∈ r.who, y.core = b.core ∧ y.declared = b.slots) ∧ (t.guild g).rows.length ≤ (s.guild g).rows.length + 1)) ∧
  (∀ (s : State) (b b' : Burst) (g : Nat), s.burst b.id = some b → b.coming = some g →
    b' = { b with coming := none, granted := b.granted ++ [g] } →
    ∃ t, exec (.mcastGrant b.id) s = .next t ∧
      (∀ h rest, (targetGuilds b.targets).filter (fun h => decide (g < h)) = h :: rest →
        t = { s with nextIssue := s.nextIssue + 1 }.putBurst { b' with asking := some h, asked := s.nextIssue }) ∧
      ((targetGuilds b.targets).filter (fun h => decide (g < h)) = [] →
        ∀ ts : List Txn, ts = (flitTxns b.core b.op b.op.outStream (s.nextTxn + 1) b.flits
          (fun a => .set b.set (if b.reduce then b.rowOff else a))).map (fun y => { y with
            checked := true, reduce := b.reduce,
            copies := if b.reduce then b'.granted else b.targets.filter (fun c => !b.refused.contains c) }) →
        (b.reduce = true ∨ ∃ c ∈ b.targets, b.refused.contains c = false) →
        t = { s with
          bursts := s.bursts.filter (fun y => y.id ≠ b.id), txns := s.txns ++ numbered s.nextTxn ts,
          nextTxn := s.nextTxn + ts.length, cores := t.cores } ∧
        (t.core b.core).active .outbound = ((s.core b.core).active .outbound).map (fun r =>
          if r.op.uid = b.op.uid ∧ b.op.outStream.source = false then { r with
            left := r.left - 1 + (if b.reduce then b.slots * (b.granted.length + 1)
              else ts.length * (b.targets.filter (fun c => !b.refused.contains c)).length) } else r))) ∧
  (∀ (s : State) (g : GuildId) (f : AddFlit) (rest : List AddFlit) (r : RowBuffer) (y : Contributor),
    (s.guild g).adds = f :: rest → (s.guild g).row f.set f.off = some r → r.who.find? (fun w => w.core = f.core) = some y →
    ∃ t r' y', exec (.reduceSlotAdd g) s = .next t ∧ (t.guild g).adds = rest ∧ (t.guild g).row f.set f.off = some r' ∧
      r'.who.find? (fun w => w.core = f.core) = some y' ∧
      (∀ off n mask mark, f.flit = .header off n mask mark → r'.leds = r.leds ∧
        y' = { y with header := true, bad := mark || f.mark }) ∧
      (∀ off c v mark, f.flit = .slot off c (.full v) mark → f.second = false → r'.leds = r.leds ∧
        y' = { y with low := (v.setWidth 512, mark || f.mark) }) ∧
      (∀ off c form mark, f.flit = .slot off c form mark → LedgerOps.isFull form = false ∨ f.second = true →
        y' = { y with delivered := y.delivered + 1 } ∧
        ∀ j, r'.leds.get LedgerOps.zero j = if j = c then LedgerOps.combine (r.leds.get LedgerOps.zero c)
          (if mark ∨ f.mark ∨ y.bad ∨ y.refused ∨ (LedgerOps.isFull form ∧ y.low.2) then LedgerOps.ofTag .poison
           else match (generalizing := false) form with
             | .packed _ => LedgerOps.ofForm form
             | .full v => LedgerOps.ofForm (.full (v.extractLsb' 512 128 ++ y.low.1))) else r.leds.get LedgerOps.zero j)) ∧
  (∀ (s : State) (g : GuildId) (set : Fin 256) (off n : Nat) (r : RowBuffer), (s.guild g).row set off = some r →
    (r.complete = false → exec (.rowBufferComplete g set off) s = .next s) ∧
    (r.complete = true → (∀ w ∈ r.who, w.declared = n) → n ≤ 32 →
      ∃ t mask, exec (.rowBufferComplete g set off) s = .next t ∧ (t.guild g).row set off = none ∧
        (∀ c, mask.testBit c = (decide (c < n) && LedgerOps.isFull (LedgerOps.toForm (r.leds.get LedgerOps.zero c)))) ∧
        (t.txns.drop s.txns.length).map (fun x => (x.target, x.runs)) = r.targets.flatMap (fun c =>
          (wireSlots off n (fun j => LedgerOps.toForm (r.leds.get LedgerOps.zero j)) (fun _ _ _ => false) ++
            [([Flit.header off n mask false], false)]).map (fun w => (Target.core c (flitBase w.2 w.1), flitRuns w.2 w.1))) ∧
        (∀ m, m < s.nextTxn → t.txn m = s.txn m) ∧
        ((∀ c ∈ r.targets, s.fenced c = false) → t.occurrences = s.occurrences))) ∧
  (∀ (s : State) (c : CoreId) (j : Fin 32) (gap : Nat) (w : Window), s.coreRuns c = true → (s.core c).windows.find j = some w →
    w.idleSaid = false →
    ((s.core c).windowQuiet w gap = true → ∃ t, exec (.windowIdle c j gap) s = .next t ∧
      CoreAt { s with occurrences := s.occurrences ++ [⟨0x0A, [BitVec.ofNat 64 (c + j * 2 ^ 16), BitVec.ofNat 64 (w.lo + w.hi * 2 ^ 32),
          BitVec.ofNat 64 w.got]⟩] } t c { s.core c with
        windows := (s.core c).windows.set j { w with idleSaid := true }, cycle := ((s.core c).cycle + gap) % 2 ^ 64 }) ∧
    ((s.core c).windowQuiet w gap = false → ∃ t, exec (.windowIdle c j gap) s = .next t ∧ CoreAt s t c (s.core c))) ∧
  (∀ (s : State) (g : GuildId) (q : DrayDesc) (ts : List Txn),
    ((s.guild g).drayQueue.filter (fun d => d.onChannel && s.drayBusy g d)).length + min 4 (s.guild g).scrivQueue.length < 4 →
    (s.guild g).drayQueue.find? (fun d => !d.onChannel) = some q → (q.fromCore = true → s.localReady g q = true) →
    ts = (if q.fromCore then q.localTxns (s.core q.core) g else q.readTxns g) → ts ≠ [] →
    ∃ t, exec (.draymanDescriptorStart g) s = .next t ∧ t.txns = s.txns ++ numbered s.nextTxn ts ∧ t.nextTxn = s.nextTxn + ts.length ∧
      (if q.fromCore then { q with onChannel := true, writesLeft := ts.length }
        else { q with onChannel := true, readsLeft := ts.length }) ∈ (t.guild g).drayQueue) ∧
  (∀ (s : State) (g : GuildId) (q : DrayDesc) (bs : List Byte),
    (s.guild g).drayQueue.find? (fun d => d.finished && d.token && !d.tokenSent) = some q →
    bs = natLe 8 q.copied.length ++ natLe 8 q.poisoned.length ++ List.replicate 48 0 →
    ∃ t x, exec (.draymanToken g) s = .next t ∧ t.txns = s.txns ++ [x] ∧ x.runs = [(0, markAll false bs)] ∧
      x.phase = .waiting ∧ x.target = .core q.core (64 * q.stream.tokLine) ∧ x.write = true ∧ x.src = .drayman g ∧
      ∀ y ∈ (t.guild g).drayQueue, y.id = q.id → y.finished = false)

/-! ## Ilusk links (chapter 13) -/

/-- R324, R326 to R335, R337, R342: a port sends the flits of a resend first, then CONTROL in CONFIG and the oldest entry that
may go in ACTIVE, else IDLE; a first flit sent again for the eighth time ends in RETRAIN; a received flit that fails its check
or is out of sequence is discarded and answered by one nak, a good one gives its ack, nak and credits and is accepted in
sequence. -/
def Obligations.LinkFlits : Prop :=
  (∀ (s : State) (l : LinkId) (gap : Nat) (k : LinkSt), (s.link l).state.flows = true → k = flowingLink s l gap →
    (∀ i f, k.resend = some i → k.retry[i]? = some f →
      ∃ t, exec (.linkFlitTransmit l gap) s = .next t ∧
        (i ≠ 0 ∨ k.resends < 7 → Sent s t l { k with
            resend := if i + 1 < k.retry.length then some (i + 1) else none, resends := if i = 0 then k.resends + 1 else k.resends }
          (sentHeader k f.seq f.ftype f.vc f.hop f.dst) f.body) ∧
        (i = 0 → 7 ≤ k.resends → (t.link l).state = .retrain ∨ (t.link l).state = .fault)) ∧
    (k.resend = none → 512 ≤ k.retry.length ∨ (k.state = .active ∧ ∀ e ∈ k.egress, s.maySend k e = false) →
      ∃ t, exec (.linkFlitTransmit l gap) s = .next t ∧ Sent s t l k (sentHeader k ((k.nextSeq + 4095) % 4096) 0 0 0 0) 0) ∧
    (∀ body, k.resend = none → k.retry.length < 512 → k.state = .config → body = BitVec.ofNat 1952 s.controlBody →
      ∃ t, exec (.linkFlitTransmit l gap) s = .next t ∧
        Sent s t l { k with nextSeq := (k.nextSeq + 1) % 4096, retry := k.retry ++ [⟨k.nextSeq, 3, 0, 0, 0, body, none, none⟩] }
          (sentHeader k k.nextSeq 3 0 0 0) body) ∧
    (∀ e x g body, k.resend = none → k.retry.length < 512 → k.state = .active → nextEntry s k = some e → e.parcel = .slot x →
      e.ingress = none → g = s.slotGroup k e →
      body = slotsBody e.srcPeer (g.filterMap (fun y => match y.parcel with | .slot z => some z | _ => none)) →
      ∃ t, exec (.linkFlitTransmit l gap) s = .next t ∧
        Sent s t l { k with
          egress := g.foldl List.erase k.egress,
          outstanding := k.outstanding.map (fun o => if o.peer = e.dst ∧ g.any (fun y => match y.parcel with
            | .slot z => decide ((SlotHeader.ofBits z.header).tag = o.tag) | .burst z _ none => decide ((SlotHeader.ofBits z.header).tag = o.tag)
            | _ => false) then { o with since := some k.cycle } else o),
          nextSeq := (k.nextSeq + 1) % 4096, credits := k.credits.set (4 * e.hop + e.vc) (k.credit (4 * e.hop + e.vc) - 1),
          retry := k.retry ++ [⟨k.nextSeq, 1, e.vc, e.hop, e.dst, body, none, none⟩] }
          (sentHeader k k.nextSeq 1 e.vc e.hop e.dst) body) ∧
    (∀ e head bs i, k.resend = none → k.retry.length < 512 → k.state = .active → nextEntry s k = some e →
      e.parcel = .burst head bs (some i) → e.ingress = none →
      ∃ t, exec (.linkFlitTransmit l gap) s = .next t ∧
        Sent s t l { k with
          egress := if i + 1 < burstFlits bs.length then
            k.egress.map (fun y => if y = e then { e with parcel := .burst head bs (some (i + 1)) } else y) else k.egress.erase e,
          nextSeq := (k.nextSeq + 1) % 4096, credits := k.credits.set (4 * e.hop + e.vc) (k.credit (4 * e.hop + e.vc) - 1),
          retry := k.retry ++ [⟨k.nextSeq, 2, e.vc, e.hop, e.dst, burstBody e.srcPeer bs i, none, none⟩] }
          (sentHeader k k.nextSeq 2 e.vc e.hop e.dst) (burstBody e.srcPeer bs i))) ∧
  (∀ (s : State) (l : LinkId) (gap corrected lost : Nat) (flit : BitVec 2048) (touched : Bool) (k : LinkSt), k = flowingLink s l gap →
    ((s.link l).state.flows = false → exec (.linkFlitReceive l gap flit corrected lost touched) s = .next s) ∧
    ((s.link l).state.flows = true →
      touched = true ∨ lost ≠ 0 ∨ (crc32 ((natLe 256 flit.toNat).take 252)).toNat ≠ leNat ((natLe 256 flit.toNat).drop 252) →
      ∃ t, exec (.linkFlitReceive l gap flit corrected lost touched) s = .next t ∧ LinkOnly s t l (afterLoss k)) ∧
    ∀ h body, (s.link l).state.flows = true → touched = false → lost = 0 → flit = goodFlit h body → HeaderFits h →
      ∃ t, exec (.linkFlitReceive l gap flit corrected lost touched) s = .next t ∧
        (NoneWaits s l → h.ftype = 0 → LinkOnly s t l (k.take h).1) ∧
        (NoneWaits s l → h.ftype ≠ 0 → h.seq ≠ k.expected → LinkOnly s t l (afterLoss (k.take h).1)) ∧
        (NoneWaits s l → h.ftype ≠ 0 → h.seq = k.expected → k.state = .config → LinkOnly s t l
          { (k.take h).1 with
            expected := (k.expected + 1) % 4096, nakSent := false, control := if h.ftype = 3 then some body else k.control,
            farPeer := if h.ftype = 3 then body.toNat % 2 ^ 12 else k.farPeer,
            farLevel := if h.ftype = 3 then body.toNat / 2 ^ 24 % 2 ^ 8 else k.farLevel }) ∧
        (h.ftype ≠ 0 → h.seq = k.expected →
          (t.link l).expected = (k.expected + 1) % 4096 ∧ (t.link l).nakSent = false ∧ (t.link l).state = k.state) ∧
        (∀ p, (k.take h).1.credit p = if p = 4 * h.creditHop + h.creditVc
          then k.credit p + (h.creditCnt + 256 - k.freedSeen.get 0 p % 256) % 256 else k.credit p) ∧
        (∀ i, k.retry.findIdx? (fun f => f.seq = h.ack) = some i → (k.take h).1.retry = k.retry.drop (i + 1)) ∧
        ((∀ f ∈ k.retry, f.seq ≠ h.ack) → (k.take h).1.retry = k.retry) ∧
        (h.nak = true → (k.take h).1.retry ≠ [] → (k.take h).1.resend = some 0))

/-- R335 to R340, R495: a port is enabled, trains, becomes ACTIVE with an end that agrees, retrains, leaves standby when a flit
is held or the far end leaves it, and ends its requests as LINK_LOST when it is disabled, found incompatible, fails or gets no
response. -/
def Obligations.LinkStates : Prop :=
  ∀ (s : State) (l : LinkId) (gap : Nat) (k : LinkSt), k = s.link l →
    (s.served = true → s.house.fencedLinks.contains l.val = false →
      (k.ctrl.getLsbD 0 = false → exec (.linkEnable l) s = .next { s with
        links := s.links.set l { k with
          ctrl := k.ctrl ||| 1, state := .training, control := none, retrains := 0, retrainAt := [], nextSeq := 0,
          expected := 0 } }) ∧
      (k.ctrl.getLsbD 0 = true → exec (.linkEnable l) s = .next s) ∧
      ∃ t, exec (.linkDisable l) s = .next t ∧ (t.link l).state = .disabled ∧ (t.link l).ctrl = k.ctrl &&& ~~~1 ∧ Lost s t l) ∧
    (∀ (far : BitVec 1952) (own f : Nat), k.state = .config → k.control = some far → own = s.controlBody → f = far.toNat →
      (f / 2 ^ 16 % 2 ^ 8 = 1 → f / 2 ^ 32 % 2 ^ 8 ≤ own / 2 ^ 24 % 2 ^ 8 → own / 2 ^ 32 % 2 ^ 8 ≤ f / 2 ^ 24 % 2 ^ 8 → f % 2 ^ 12 ≠ s.ownPeer →
        ∃ t, exec (.linkTrainingDone l gap) s = .next t ∧ (t.link l).state = .active ∧ (t.link l).nextSeq = 0 ∧
          (t.link l).expected = 0 ∧ (t.link l).retry = [] ∧
          (NoneWaits s l → LinkOnly s t l { tickedLink s l gap with
            state := .active, nextSeq := 0, expected := 0, credits := [], freedSeen := [], freed := [], retry := [], resend := none,
            resends := 0, nakDue := false, nakSent := false, rotate := 0, waiting := k.waiting.map (fun f => { f with owed := false }) })) ∧
      (f / 2 ^ 16 % 2 ^ 8 ≠ 1 ∨ own / 2 ^ 24 % 2 ^ 8 < f / 2 ^ 32 % 2 ^ 8 ∨ f / 2 ^ 24 % 2 ^ 8 < own / 2 ^ 32 % 2 ^ 8 ∨ f % 2 ^ 12 = s.ownPeer →
        ∃ t, exec (.linkTrainingDone l gap) s = .next t ∧ (t.link l).state = .incompatible ∧ Lost s t l ∧
          t.occurrences = s.occurrences ++ [⟨0x41, [BitVec.ofNat 64 l, BitVec.ofNat 64 (own % 2 ^ 48), 0, BitVec.ofNat 64 (f % 2 ^ 48), 0]⟩])) ∧
    (k.state = .retrain → ∃ t, exec (.linkRetrainDone l gap) s = .next t ∧
      LinkOnly s t l { tickedLink s l gap with state := .active, resend := if k.retry = [] then none else some 0 }) ∧
    (∀ far : Bool, k.state = .standby →
      (far = true ∨ k.egress ≠ [] ∨ k.retry ≠ [] →
        ∃ t, exec (.linkStandbyExit l gap far) s = .next t ∧ LinkOnly s t l { tickedLink s l gap with state := .active }) ∧
      (far = false → k.egress = [] → k.retry = [] → exec (.linkStandbyExit l gap far) s = .next s)) ∧
    (∀ o, k.outstanding.find? (fun o => o.since.any (fun c => decide (c + k.ctrl.toNat / 4 % 2 ^ 24 * 1024 ≤ (k.cycle + gap) % 2 ^ 64))) = some o →
      ∃ t, exec (.linkResponseTimeout l gap) s = .next t ∧ (t.link l).outstanding = k.outstanding.filter (fun x => x ≠ o) ∧
        (∀ m ∈ o.txns, ∀ x, s.txn m = some x → ∃ y, t.txn m = some y ∧ y.phase = .done 8 ∧ (y.write = false → y.poison = true)) ∧
        (∀ m, m ∉ o.txns → t.txn m = s.txn m) ∧
        t.occurrences = s.occurrences ++ [⟨0x43, [BitVec.ofNat 64 (l + o.tag * 65536), BitVec.ofNat 64 o.dva]⟩]) ∧
    (∀ (k' : LinkSt) (at_ : List Nat), k.state = .active ∨ k.state = .standby → k' = tickedLink s l gap →
      at_ = (k.retrainAt ++ [k'.cycle]).filter (fun c => decide (k'.cycle < c + 2 ^ 30)) →
      ∃ t, exec (.fibreUnmated l gap) s = .next t ∧
        (at_.length < 3 → LinkOnly s t l { k' with
          state := .retrain, retrains := min 255 (k.retrains + 1), retrainAt := at_, resend := none, resends := 0 }) ∧
        (3 ≤ at_.length → (t.link l).state = .fault ∧ Lost s t l ∧
          ∃ w, t.occurrences = s.occurrences ++ [⟨0x40, [w, BitVec.ofNat 64 k.retry.length]⟩] ∧ w.toNat % 256 = l.val))

/-! ## The host interface (chapters 16, 18 and 20) -/

/-- R410 to R413, R416, R420, R421, R474 to R476: doorbells, ring set-up, the fetch of entries, the writing of completions,
interrupts, and the events service. -/
def Obligations.RingsAndEvents : Prop :=
  (∀ (s : State) (q : RingId) (v : Word32) (r : SubRing) (x : Nat), s.served = true → r = s.sq q → x = v.toNat % 4096 →
    (ringEnabled r.cfg = true → x < ringSize r.cfg →
      exec (.sqTail q v) s = .next { s with sqs := s.sqs.set q { r with tail := x } }) ∧
    (ringEnabled r.cfg = false ∨ ringSize r.cfg ≤ x → ∃ t, exec (.sqTail q v) s = .next t ∧ CountedOne s t 0xC0 2)) ∧
  (∀ (s : State) (q : RingId) (v : Word32) (r : CompRing) (x : Nat), s.served = true → r = s.cq q → x = v.toNat % 4096 →
    (ringEnabled r.cfg = true → x < ringSize r.cfg → ∃ b, (r.full = false → b = false) ∧
      exec (.cqHead q v) s = .next { s with cqs := s.cqs.set q { r with head := x, full := b } }) ∧
    (ringEnabled r.cfg = false ∨ ringSize r.cfg ≤ x → ∃ t, exec (.cqHead q v) s = .next t ∧ CountedOne s t 0xC0 2)) ∧
  (∀ (s : State) (q : RingId) (r : SubRing) (c : Cmd) (a : Nat), s.served = true → Settled s → r = s.sq q → ringEnabled r.cfg = true →
    r.head ≠ r.tail → a = r.base.toNat + 64 * r.head →
    c = { num := s.nextCmd, sq := q, index := r.head, entry := BitVec.ofNat 512 (s.hostMem.le a 64),
          bad := (linesOf a 64).any (idxMem s.hostPoison), phase := .fetched } →
    ∃ t, exec (.sqEntryFetch q) s = .next t ∧ t.nextCmd = s.nextCmd + 1 ∧
      t.sqs = s.sqs.set q { r with head := (r.head + 1) % ringSize r.cfg } ∧
      (c.bad = false → opcodeKnown c.opcode = true → t.cmds = s.cmds ++ [c] ∧ t.cqs = s.cqs) ∧
      (c.bad = true ∨ opcodeKnown c.opcode = false → s.cmds = [] → ringEnabled (s.cq r.cqOf).cfg = true →
        (t.cq r.cqOf).waiting = (s.cq r.cqOf).waiting ++
          [⟨s.nextCmd, if c.bad then 0 else c.cid, q, if c.bad then 7 else 2, r.head, 0, false⟩])) ∧
  (∀ (s : State) (q : RingId) (r : CompRing) (x : Completion) (rest : List Completion), Settled s → s.house.power = true →
    s.port.linkUp = true → r = s.cq q → ringEnabled r.cfg = true → r.waiting = x :: rest → Mem.wf s.hostMem = true →
    ∃ t, exec (.cqCompletionWrite q) s = .next t ∧
      ((r.tail + 1) % ringSize r.cfg = r.head →
        t = { s with cqs := t.cqs, unitCounters := t.unitCounters } ∧ (t.cq q).full = true ∧ (t.cq q).waiting.length = r.waiting.length) ∧
      ((r.tail + 1) % ringSize r.cfg ≠ r.head →
        t.hostMem.bytes (r.base.toNat + 16 * r.tail) 16 = natLe 2 x.cid ++ natLe 1 x.sq ++ natLe 1 x.status ++ natLe 2 x.index ++ [0, 0] ++
          natLe 7 x.detail ++ [if r.phase then 1 else 0] ∧
        (∀ b, b < r.base.toNat + 16 * r.tail ∨ r.base.toNat + 16 * r.tail + 16 ≤ b → t.hostMem.rd b = s.hostMem.rd b) ∧
        (t.cq q).tail = (r.tail + 1) % ringSize r.cfg ∧ (t.cq q).phase = (if (r.tail + 1) % ringSize r.cfg = 0 then !r.phase else r.phase) ∧
        rest <+: (t.cq q).waiting ∧ (∀ d ∈ t.cmds, d.num ≠ x.cmd) ∧
        ∀ v n, v = r.cfg.toNat / 2 ^ 24 % 64 → n = max 1 (r.cfg.toNat / 2 ^ 8 % 256) → r.cfg.getLsbD 30 = true →
          (s.port.msix.get {} v).control.getLsbD 0 = false →
          t.port.interrupts.get 0 v = s.port.interrupts.get 0 v + (if n ≤ r.unsignalled + 1 then 1 else 0))) ∧
  (∀ (s : State) (q : RingId) (r : CompRing) (v : Nat), s.house.power = true → r = s.cq q → ringEnabled r.cfg = true → r.cfg.getLsbD 30 = true →
    r.cfg.toNat % 256 ≠ 0 → 0 < r.unsignalled → v = r.cfg.toNat / 2 ^ 24 % 64 →
    exec (.cqIntDelayExpiry q) s = .next ({ s with cqs := s.cqs.set q { r with unsignalled := 0 } }.sendVector v)) ∧
  (∀ (s : State) (v : Fin 65) (m : Tab MsixEntry), s.house.power = true → s.port.linkUp = true →
    m = s.port.msix.set v { s.port.msix.get {} v with control := 0 } →
    exec (.msixVectorUnmask v) s = .next (if idxMem s.port.pba v then { s with port := { s.port with
      msix := m, pba := idxDel s.port.pba v, interrupts := s.port.interrupts.set v (s.port.interrupts.get 0 v + 1) } }
      else { s with port := { s.port with msix := m } })) ∧
  (∀ (s : State) (q : RingId) (v w : Word32) (r : SubRing), s.served = true → r = s.sq q → w = (v ||| 0x80000000) &&& 0xBF0FFE00 →
    exec (.sqEnable q v) s = .next { s with
      sqs := s.sqs.set q (if ringEnabled r.cfg then { r with cfgErr := true }
       else if ringOk r.base w 64 then { r with cfg := w, cfgErr := false, head := 0, tail := 0 }
       else { r with cfg := w &&& 0x7FFFFFFF, cfgErr := true }) }) ∧
  (∀ (s : State) (q : RingId) (v w : Word32) (r : CompRing), s.served = true → r = s.cq q → w = (v ||| 0x80000000) &&& 0xFF0FFFFF →
    exec (.cqEnable q v) s = .next { s with
      cqs := s.cqs.set q (if ringEnabled r.cfg then { r with cfgErr := true }
       else if ringOk r.base w 16 then { r with cfg := w, cfgErr := false, head := 0, tail := 0, phase := true }
       else { r with cfg := w &&& 0x7FFFFFFF, cfgErr := true }) }) ∧
  (∀ (s : State) (q : RingId) (r : SubRing), s.served = true → 1 ∉ s.house.services → r = s.sq q → ringEnabled r.cfg = true →
    ∃ t, exec (.sqDisable q) s = .next t ∧ t.sqs = s.sqs.set q { r with cfg := r.cfg &&& 0x7FFFFFFF } ∧
      ∀ c ∈ s.cmds, c.sq = q → c.phase = .fetched → ringEnabled (s.cq r.cqOf).cfg = true →
        ∃ e ∈ (t.cq r.cqOf).waiting, e.cmd = c.num ∧ e.status = 9) ∧
  (∀ (s : State) (q : RingId) (r : CompRing), s.served = true → r = s.cq q → ringEnabled r.cfg = true →
    ∃ t, exec (.cqDisable q) s = .next t ∧
      t = { s with
        cqs := s.cqs.set q { r with cfg := r.cfg &&& 0x7FFFFFFF, waiting := [], full := false },
        cmds := s.cmds.filter (fun c => !r.waiting.any (fun x => x.cmd = c.num)), unitCounters := t.unitCounters }) ∧
  (∀ (s : State) (v w : Word32) (r : EventRing), s.served = true → r = s.evq → w = (v ||| 0x80000000) &&& 0xC00FFFFF →
    exec (.evqEnable v) s = .next { s with
      evq := if ringEnabled r.cfg then { r with cfgErr := true }
      else if ringOk r.base w 64 then { r with cfg := w, cfgErr := false, head := 0, tail := 0, phase := true }
      else { r with cfg := w &&& 0x7FFFFFFF, cfgErr := true } } ∧
    (ringEnabled r.cfg = true → exec .evqDisable s = .next { s with evq := { r with cfg := r.cfg &&& 0x7FFFFFFF } })) ∧
  (∀ (s : State) (w : Fin 2) (v : Word), s.served = true →
    exec (.evPendingClear w v) s = .next { s with evPending := s.evPending.set w (s.evPending.get 0 w &&& ~~~v) }) ∧
  (∀ (s : State) (o : Occurrence) (rest : List Occurrence) (r : EventRing) (c : GauCounter), s.occurrences = o :: rest → s.house.power = true →
    4 ∉ s.house.services → (s.house.dev = .failed → s.house.cause ≠ 1) → r = s.evq → c = s.evCounts.get {} o.code → o.code < 128 →
    ∃ t, exec .eventOccurrence s = .next t ∧ t.occurrences = rest ∧ t.eventPending o.code = true ∧
      (∀ x, x < 128 → x ≠ o.code → t.eventPending x = s.eventPending x) ∧
      (t.evCounts.get {} o.code).count = (c.count + 1) % 2 ^ 48 ∧
      (eventFirst o.code = true → s.eventPending o.code = true → t.evq = r) ∧
      (eventFirst o.code = false ∨ s.eventPending o.code = false → t.evq.seq = r.seq + 1 ∧
        (r.enabled = true → recordParts o.words ≤ r.room → o.words.length ≤ 6 → s.port.linkUp = true → Mem.wf s.hostMem = true →
          t.hostMem.bytes (r.base.toNat + 64 * r.tail) 64 = recordBytes o.code 0 1 r.lost r.phase r.seq o.words ∧
          t.evq.tail = (r.tail + 1) % r.size ∧ t.evq.lost = false) ∧
        (r.enabled = false ∨ r.room < recordParts o.words → t.evq.tail = r.tail ∧ t.evq.lost = true ∧ t.hostMem = s.hostMem)))

/-- R129, R157, R248, R253, R386, R415 to R419, R437, R457, R458, R479: the commands of Table 16.11, each when its fields, ring,
core and the device state allow it. -/
def Obligations.HostCommands : Prop :=
  (∀ (s : State) (c : Cmd), Starts s 0x00 c → ∃ t, exec .nop s = .next t ∧ EndedCmd s t c 0 0) ∧
  (∀ (s : State) (c : Cmd), Settled s → s.commandFor 0x00 = some c → c.fieldsOk = false → ∃ t, exec .nop s = .next t ∧ EndedCmd s t c 3 0) ∧
  (∀ (s w : State) (c : Cmd) (answers : List PeerAnswer) (bs : List (Byte × Bool)) (k : CoreSt), Starts s 0x01 c → s.readyOrSend = true →
    (s.core c.core).allHalted = true → (s.core c.core).frozen = false → answers = s.peerAnswers (· = .house) →
    (s.needRange 11 c.master (c.q 1 40 0) (c.q 2 48 32) false).readRange .house c.master (c.q 1 40 0) (c.q 2 48 32) answers = (bs, [], w) →
    w.asks = [] → (∀ b ∈ bs, b.2 = false) → k = w.core c.core → w.allowed 45 (w.sq c.sq).cls c.master true = true →
    ∃ t u, exec .tallyLoad s = .next t ∧ EndedCmd { u with txns := w.txns.filter (fun x => !x.asked (· = .house)) } t c 0 0 ∧
      CoreAt w u c.core (if c.q 2 16 16 = 1 then { k with dmem := k.dmem.write (c.q 2 15 0) bs }
        else { k with imem := k.imem.writeImem (c.q 2 15 0) (bs.map (·.1)) })) ∧
  (∀ (s : State) (c : Cmd) (k : CoreSt) (n : Nat), Starts s 0x02 c → s.readyOrSend = true → k = s.core c.core → n = c.q 1 17 16 →
    (k.thread n).state = .halted → k.frozen = false →
    ∃ t u, exec .threadStart s = .next t ∧ EndedCmd u t c 0 0 ∧ CoreAt s u c.core (k.setThread n
      { k.thread n with pc := BitVec.ofNat 64 (c.q 1 15 0), state := .ready, handler := false })) ∧
  (∀ (s : State) (c : Cmd) (v : Word), Starts s 0x03 c → s.readyOrSend = true → v = BitVec.ofNat 64 (c.q 1 63 0) →
    s.allowed 45 (s.sq c.sq).cls c.master true = true →
    ∃ t u, exec .mailboxWrite s = .next t ∧ EndedCmd u t c 0 0 ∧ u = { s with cores := u.cores } ∧
      ∀ n, n < 1024 → Aside (if (if c.core = 0xFFFF then s.fenced n = false else n = c.core)
        then { s.core n with mailbox := v, evPending := (s.core n).evPending ||| 0x10 } else s.core n) (u.core n)) ∧
  (∀ (s : State) (c : Cmd), Starts s 0x04 c → s.readyOrSend = true → (s.core c.core).frozen = true →
    ∃ t u, exec .coreRecover s = .next t ∧ EndedCmd { s with cores := s.cores.set c.core u } t c 0 0 ∧ u.frozen = false ∧
      u.queues = [] ∧ u.running = [] ∧ u.invQueue = [] ∧ u.splitting = none ∧ u.scoreboard = [] ∧ u.windows = [] ∧ u.flights = [] ∧
      u.ls = (s.core c.core).ls ∧ u.notches = (s.core c.core).notches ∧ u.ledgers = (s.core c.core).ledgers) ∧
  (∀ (s : State) (c : Cmd) (first n a : Nat), Starts s 0x10 c → s.readyOrSend = true → s.port.linkUp = true → first = c.q 1 24 0 → n = c.q 2 25 0 →
    a = c.q 3 63 0 → (∀ i, i < n → ptFrozen (s.tableEntry (first + i)) = false) → (∀ l ∈ linesOf a (8 * n), idxMem s.hostPoison l = false) →
    s.allowed 45 (s.sq c.sq).cls c.master true = true → Mem.wf s.tiers.bedrock = true →
    ∃ t, exec .place s = .next t ∧
      (∀ i, i < n → t.tableEntry (first + i) = hostWord s (a + 8 * i) &&& 0xF7F0FFFFFFFFFFFF) ∧
      (∀ p, p < 2 ^ 25 → p < first ∨ first + n ≤ p → t.tableEntry p = s.tableEntry p) ∧
      (∀ g i, i < n → PtCache.find (t.guild g).cache (first + i) = none ∧ PtCache.find (t.walker g) (first + i) = none) ∧
      ((∀ x ∈ s.txns, ∀ l, x.phase = .sent l → ∀ d, x.target = .dva d → ¬ (first ≤ d / 65536 ∧ d / 65536 < first + n)) →
        ringEnabled (s.cq (s.sq c.sq).cqOf).cfg = true → completion c 0 0 ∈ (t.cq (s.sq c.sq).cqOf).waiting)) ∧
  (∀ (s : State) (c : Cmd) (first n : Nat), Starts s 0x11 c → s.readyOrSend = true → first = c.q 1 24 0 → n = c.q 2 25 0 → s.port.linkUp = true →
    Mem.wf s.hostMem = true → (∀ b, 8 * first < 64 * (b + 1) → 64 * b < 8 * (first + n) → s.tiers.bedMarked 0 (64 * b) = false) →
    ∃ t u, exec .placeRead s = .next t ∧ EndedCmd u t c 0 0 ∧ u = { s with hostMem := u.hostMem, hostPoison := u.hostPoison } ∧
      u.hostMem.bytes (c.q 3 63 0) (8 * n) = s.tiers.bedrock.bytes (8 * first) (8 * n)) ∧
  (∀ (s : State) (c : Cmd) (row : Instr) (o : Nat), (row, o) ∈ [(Instr.setPowerCap, 0x31), (.setWakeLatency, 0x32)] → Starts s o c →
    exec row s = .next { s with cmds := s.cmds.filter (fun d => d.num ≠ c.num) ++ [{ c with phase := .waitBoundary }] }) ∧
  (∀ (s : State) (m : Measures) (c : Cmd), s.firmwareRuns = true → 3 ∉ s.house.services →
    s.cmds.filter (fun d => d.phase = .waitBoundary) = [c] →
    ∃ t, exec (.plannerWindow m) s = .next t ∧ (c.opcode = 0x31 → t.house.cap = c.q 1 10 0 ∧ t.house.wakeLatency = s.house.wakeLatency) ∧
      (c.opcode = 0x32 → t.house.wakeLatency = c.q 1 31 0 ∧ t.house.cap = s.house.cap)) ∧
  (∀ (s : State) (c : Cmd) (hottest : Nat) (lost : LostStores), Starts s 0x30 c →
    s.house.dev = .failed ∨ s.house.dev = .ready ∧ (∀ n, n < 1024 → s.fenced n = false → (s.core n).allHalted = true) →
    ∃ t, exec (.zeroise hottest lost) s = .next t ∧ t.house = { s.house with dev := .zeroise } ∧
      t.cmds = s.cmds.filter (fun d => d.num ≠ c.num) ++ [{ c with phase := .running }] ∧
      (∀ n, s.fenced n = false → (t.core n).allHalted = true) ∧
      ∀ l : LinkId, l.val ∉ s.house.fencedLinks → (t.link l).ctrl.getLsbD 0 = false ∧ (t.link l).state = .disabled) ∧
  (∀ (s : State) (c : Cmd) (hottest : Nat) (lost : LostStores) (d : DevState), Settled s → s.commandFor 0x30 = none →
    s.cmds.find? Cmd.zeroising = some c → 1 ∉ s.house.services → 5 ∉ s.house.services → (s.house.tripped = true → hottest < 95000) →
    d = (if s.house.cause = 0 ∧ s.house.services = [] ∧ s.house.tripped = false then .ready else .failed) →
    (d = .failed → lost.shale = false ∧ lost.bedrock = false ∧ lost.cores = false) →
    ∃ t u, exec (.zeroise hottest lost) s = .next t ∧ EndedCmd u t c 0 0 ∧
      u.house.dev = d ∧ u.house.zeroised = s.house.zeroised + 1 ∧ u.sec.locked = false ∧ u.sec.digest = 0 ∧ u.sec.acl = [] ∧
      u.sec.restoreKey = [] ∧ u.tiers.shale = {} ∧ u.tiers.bedrock = [] ∧ u.txns = [] ∧ u.links = [] ∧ u.occurrences = [] ∧
      u.fuses = s.fuses ∧ u.flash = s.flash ∧ ((∀ x ∈ s.txns, ∀ a, x.phase ≠ .sent (.host a)) → u.hostMem = s.hostMem) ∧
      u.house.cap = s.house.cap ∧
      ∀ n, (u.core n).ls.data = [] ∧ (u.core n).imem.data = [] ∧ (u.core n).dmem.data = [] ∧ (u.core n).ledgers = [] ∧ (u.core n).threads = [] ∧
        (u.core n).queueMode = (s.core n).queueModeWanted)

/-- R397 to R409, R449 to R455, R497, R498: the host's window, its snoops and the status mirror, the loss and return of its
link, IDE, SPDM and the update of the firmware. -/
def Obligations.HostLinkAndManagement : Prop :=
  (∀ (s : State) (x : BitVec 40) (cached : Bool) (a dva : Nat) (l : Loc) (bad : Bool), s.windowOpen a = true → a = x.toNat / 64 * 64 →
    dva = s.windowDva a → s.house.dev ≠ .zeroise → InTier s 7 (8 * 4096 + 0x40) dva false true l bad →
    s.passes .host 0 l = false →
    ∃ t d m, exec (.hdmWindowRead x cached) s = .next t ∧ t.port.answer = .block d m ∧ (bad = true → m = true) ∧
      (∀ g b, l = .shale g b → t.tiers.shale.marked (g * 2 ^ 29 + b / 64 * 64) 64 = true → m = true) ∧
      (∀ k b, l = .bedrock k b → s.tiers.bedMarked k b = true → m = true) ∧
      (∀ g b, l = .shale g b → d = BitVec.ofNat 512 (s.tiers.shale.data.le (g * 2 ^ 29 + b / 64 * 64) 64)) ∧
      (∀ k b, l = .bedrock k b → d = BitVec.ofNat 512 (s.tiers.bedrock.le (k * 2 ^ 37 + b / 64 * 64) 64)) ∧
      t.tiers.shale.data = s.tiers.shale.data ∧
      ((∀ k b, l = .bedrock k b → s.tiers.bedBad k b = false) → t.tiers.bedrock = s.tiers.bedrock) ∧ t.cores = s.cores ∧
      (cached = true → ∀ k, l.snoopKey = some k → k ∈ t.port.snoop) ∧ (cached = false → t.port.snoop = s.port.snoop)) ∧
  (∀ (s : State) (x : BitVec 40) (mask : BitVec 64) (data : BitVec 512) (mark : Bool) (a dva : Nat) (l : Loc) (bad : Bool),
    s.windowOpen a = true → a = x.toNat / 64 * 64 → dva = s.windowDva a → s.house.dev ≠ .zeroise →
    InTier s 7 (8 * 4096 + 0x40) dva true true l bad → (∀ u ∈ s.txns, u.src ≠ .host) → Mem.wf s.tiers.shale.data = true → Mem.wf s.tiers.bedrock = true →
    ∃ t, exec (.hdmWindowWrite x mask data mark) s = .next t ∧ t.cores = s.cores ∧ t.port = s.port ∧
      (∀ g b y, l = .shale g b → t.tiers.shale.data.rd y = (let i := y - (g * 2 ^ 29 + b / 64 * 64)
        if g * 2 ^ 29 + b / 64 * 64 ≤ y ∧ i < 64 ∧ mask.getLsbD i = true then data.extractLsb' (8 * i) 8 else s.tiers.shale.data.rd y)) ∧
      (∀ k b y, l = .bedrock k b → y < checkIdx k b ∨ checkIdx k b + 2 ≤ y → t.tiers.bedrock.rd y = (let i := y - (k * 2 ^ 37 + b / 64 * 64)
        if k * 2 ^ 37 + b / 64 * 64 ≤ y ∧ i < 64 ∧ mask.getLsbD i = true then data.extractLsb' (8 * i) 8 else s.tiers.bedrock.rd y))) ∧
  (∀ (s : State) (x : BitVec 28), s.house.power = true → s.port.linkUp = true → s.port.decoder0 = true →
    exec (.statusMirrorRead x) s = .next { s with port := { s.port with answer := .word (s.mirrorQuad (x.toNat / 8 * 8)) } } ∧
    s.mirrorQuad 0 = BitVec.ofNat 64 s.house.dev.code ∧
    ∀ c n, c < 1024 → n < 32 → s.mirrorQuad (0x10000 + 512 * c + 8 * n) = ((s.core c).notch n).setWidth 64) ∧
  (∀ s : State, s.port.linkUp = true → exec .hostSnoop s = .next { s with port := { s.port with answer := .snoopHit } }) ∧
  (∀ (s : State) (key : Nat) (d : BitVec 512), s.house.power = true → s.port.linkUp = true → key ∈ s.port.backInval →
    exec (.birsp key none) s = .next { s with port := { s.port with backInval := s.port.backInval.filter (· ≠ key) } } ∧
    ∃ t, exec (.birsp key (some d)) s = .next t ∧ t.port.backInval = s.port.backInval.filter (· ≠ key) ∧
      (∀ k b, key * 64 = k * 2 ^ 37 + b → k < 12 → b < 2 ^ 37 → 
        t.tiers.bedrock = withCheck (withRuns s.tiers.bedrock (64 * key) [(0, markAll false (natLe 64 d.toNat))]) k b false) ∧
      (∀ g b, key * 64 = 2 ^ 44 + g * 2 ^ 29 + b → b < 2 ^ 29 →
        t.tiers.shale.data = withRuns s.tiers.shale.data (g * 2 ^ 29 + b) [(0, markAll false (natLe 64 d.toNat))])) ∧
  (∀ (s : State) (hot : Bool), s.house.power = true → s.port.linkUp = true →
    ∃ t, exec (.cxlLinkDown hot) s = .next t ∧ t.port = { s.port with linkUp := false } ∧
      (∀ q, q < 64 → ringEnabled (t.sq q).cfg = false ∧ ringEnabled (t.cq q).cfg = false ∧
        (ringEnabled (s.cq q).cfg = true → (t.cq q).waiting = [])) ∧
      t = { s with
        port := t.port, sqs := t.sqs, cqs := t.cqs, cmds := t.cmds, unitCounters := t.unitCounters,
        occurrences := s.occurrences ++ [⟨0x70, [if hot then 0 else 1]⟩] }) ∧
  (∀ s : State, s.house.power = true → s.port.linkUp = true →
    ∃ t, exec .refclkLoss s = .next t ∧ t.port = { s.port with refclk := false, linkUp := false } ∧
      t.occurrences = s.occurrences ++ [⟨0x70, [1]⟩]) ∧
  (∀ s : State, s.house.power = true → s.house.dev ≠ .boot → s.port.linkUp = false →
    (∃ t, exec .cxlLinkUp s = .next t ∧ t.port.linkUp = true ∧ t.port.refclk = true ∧ t.port.heldWrites = [] ∧ t.port.heldVectors = [] ∧
      t = { s with port := t.port, hostMem := t.hostMem, hostPoison := t.hostPoison } ∧
      ∀ a bs, s.port.heldWrites = [(a, bs)] → Mem.wf s.hostMem = true → t.hostMem.bytes a bs.length = bs)) ∧
  (∀ (s : State) (io mem a b : Bool), s.port.linkUp = true → a = (io && s.port.ideIo) → b = (mem && s.port.ideMem) → (a || b) = true →
    ∃ t, exec (.ideCheckFail io mem) s = .next t ∧ t.port.linkUp = false ∧ t.port.ideIo = (s.port.ideIo && !a) ∧ t.port.ideMem = (s.port.ideMem && !b) ∧
      t.occurrences = s.occurrences ++ [⟨0x70, [1]⟩, ⟨0x71, [BitVec.ofNat 64 ((if a then 1 else 0) + (if b then 2 else 0))]⟩]) ∧
  (∀ (s : State) (req : SpdmMessage), s.firmwareRuns = true → 5 ∉ s.house.services → (s.port.linkUp = true ∨ s.port.i3cAddress.isSome = true) →
    ∃ t, exec (.spdmRequest req) s = .next t ∧ t = { s with port := { s.port with
        answer := t.port.answer, ideIo := req.ioKeys.getD s.port.ideIo, ideMem := req.memKeys.getD s.port.ideMem } } ∧
      (req.measurement = some 2 → t.port.answer = .bytes (s.flash.bytes (slotBase (s.house.image = 2)) 64)) ∧
      (req.measurement = some 4 → s.sec.locked = true → t.port.answer = .bytes (1 :: natLe 32 s.sec.digest)) ∧
      (req.measurement = some 6 → t.port.answer = .bytes (natLe 8 s.house.zeroised ++ natLe 8 s.house.lastRestore))) ∧
  (∀ (s : State) (slotB : Bool) (image : List Byte), s.firmwareRuns = true → s.port.i3cAddress.isSome = true → 5 ∉ s.house.services →
    s.house.image ≠ (if slotB then 2 else 1) → image.length ≤ 31 * 2 ^ 20 →
    ∃ t u, exec (.pldmFirmwareUpdate slotB image) s = .next t ∧ t = { s with flash := t.flash } ∧
      u = { s with flash := s.flash.wrBytes (slotBase slotB) image } ∧ (u.imageOk slotB = false → t = u) ∧
      (u.imageOk slotB = true → t = u.preferSlot slotB)) ∧
  (∀ (s : State) (addr : BitVec 7), s.house.power = true →
    exec (.i3cEntdaa addr) s = .next { s with port := { s.port with i3cAddress := some addr.toNat } })

/-! ## Registers (chapters 18, 19 and 21) -/

/-- R343, R402, R483: a set-up register holds the writable bits of what is written to it, and no other register changes;
LNK_SELF is written only while every port is DISABLED. -/
def Obligations.RegistersHoldWrites : Prop :=
  (∀ (s : State) (v : Word), Serving s →
    ((∀ l < 36, (s.link l).state = .disabled) → ∃ t, exec (.registerWrite 0x40000 false v) s = .next t ∧
      t.readBar 0x40000 false = some (v &&& 0xFFF) ∧ ReadsElsewhere s t 0x40000 4 ∧ t = { s with self := t.self }) ∧
    ((∃ l < 36, (s.link l).state ≠ .disabled) → exec (.registerWrite 0x40000 false v) s = .next s)) ∧
  ∀ (s : State) (a : BitVec 26) (v : Word) (r : RegRow) (i : Nat), Serving s → r ∈ plainRows → i < r.count →
    a.toNat = r.base + i * r.stride →
    ∃ t, exec (.registerWrite a (r.bytes = 8) v) s = .next t ∧
      t.readBar a.toNat (r.bytes = 8) = some (v &&& r.mask) ∧ ReadsElsewhere s t a.toNat r.bytes ∧
      t = { s with port := t.port, routes := t.routes, landing := t.landing, sets := t.sets, setMasks := t.setMasks, bwCfg := t.bwCfg } ∧
      t.port = { s.port with hdmMap := t.port.hdmMap }

/-- R402, R429, R447, R448, R482, R483: the access tables hold what is written to them while SEC_LOCK is clear; once it is set a
write changes none of them and counts SEC_LOCKED_WRITE. A misaligned write, one while the link is down or before READY, and a
4-byte write to a 64-bit register change nothing. -/
def Obligations.AccessTableAndIgnoredWrites : Prop :=
  (∀ (s : State) (a : BitVec 26) (v : Word) (r : RegRow) (i : Nat), Serving s → r ∈ lockRows → i < r.count →
     a.toNat = r.base + i * r.stride →
     ∃ t, exec (.registerWrite a (r.bytes = 8) v) s = .next t ∧
       (s.sec.locked = false → t.readBar a.toNat (r.bytes = 8) = some (v &&& r.mask) ∧ ReadsElsewhere s t a.toNat r.bytes ∧
         t = { s with sec := t.sec }) ∧
       (s.sec.locked = true → CountedOne s t 0xC1 3)) ∧
  (∀ (s : State) (a : BitVec 26) (wide : Bool) (v : Word),
     (a.toNat % (if wide then 8 else 4) ≠ 0 ∨ s.port.linkUp = false ∨ s.house.power = false ∨ regAt a.toNat = none ∧ wide = false ∨
       (∃ r, regAt a.toNat = some r ∧ r.bytes = 8 ∧ (wide = false ∨ s.house.dev = .boot))) →
     exec (.registerWrite a wide v) s = .next s)

/-- R448, R452, R490: SEC_LOCK written 1 locks the access tables and leaves the SHA-256 of the locked registers as the
configuration digest; no later write, and no write of 0, changes it. A commit of a newer version starts a fuse burn, which ends
with the fused version equal to the running one; one while a burn is under way or of no newer version has no effect. -/
def Obligations.LockAndSecurityVersion : Prop :=
  (∀ (s : State) (v : Word), Serving s →
     ∃ t, exec (.secLockWrite v) s = .next t ∧
       (v.getLsbD 0 = true → s.sec.locked = false →
         t = { s with sec := { s.sec with locked := true, digest := t.sec.digest } } ∧ t.sec.digest = digest t.lockedBytes) ∧
       (v.getLsbD 0 = false ∨ s.sec.locked = true → t = s)) ∧
  (∀ s : State,
     (Serving s → ∃ t, exec .secSvnCommit s = .next t ∧
       (s.sec.commitBusy = false → s.fuses.svn < s.sec.runningSvn → t = { s with sec := { s.sec with commitBusy := true } }) ∧
       (s.sec.commitBusy = true ∨ s.sec.runningSvn ≤ s.fuses.svn → t = s)) ∧
     (s.house.power = true → s.sec.commitBusy = true →
       exec .svnFuseBurnDone s = .next { s with fuses := { s.fuses with svn := s.sec.runningSvn }, sec := { s.sec with commitBusy := false } }))

/-- R462, R463, R485, R489: the queue mode asked for and the selection of a counter of a live core; those of a fenced core
ignore writes. -/
def Obligations.CoreSetUpWrites : Prop :=
  ∀ (s : State) (c : CoreId) (j : Fin 256) (v : Word32), Serving s →
    (s.house.fencedCores.contains c.val = false →
      (∃ t, exec (.queueModeWrite c v) s = .next t ∧
        t = { s with cores := s.cores.set c { s.core c with queueModeWanted := v.toNat % 2 } }) ∧
      (∃ t g, exec (.gauSelWrite c j v) s = .next t ∧ t = { s with cores := s.cores.set c { s.core c with gauger := g } } ∧
        g.selOf j = v &&& 0xB0FFFFFF ∧ g.counters.get {} j = ⟨0, false⟩ ∧
        (∀ i, i ≠ j.val → g.selOf i = (s.core c).gauger.selOf i ∧ g.counters.get {} i = (s.core c).gauger.counters.get {} i))) ∧
    (s.house.fencedCores.contains c.val = true →
      exec (.queueModeWrite c v) s = .next s ∧ exec (.gauSelWrite c j v) s = .next s)

/-- R464, R470: a host write clears a unit counter. At the end of a bandwidth window, where the unit's cycle counter is a
multiple of the window, LAST of each bytes counter takes the window's bytes and its done bit, PEAK the larger of the two, a new
count begins and a new bw_log2 comes into force; a read of PEAK answers it and clears it. -/
def Obligations.UnitCounters : Prop :=
  (∀ (s : State) (u i : Fin 256) (n : Fin 1024), Serving s →
     (unitIndex u n = true → ∃ t, exec (.unitCounterClear u n) s = .next t ∧ t = { s with unitCounters := t.unitCounters } ∧
       t.unitCounter u n = ⟨0, false⟩ ∧ ∀ v j, j < 1024 → (v, j) ≠ (u.val, n.val) → t.unitCounter v j = s.unitCounter v j) ∧
     (Tab.wf s.bwPeak = true → ∃ t, exec (.gauBwPeakRead u i) s = .next t ∧
       t = { s with bwPeak := t.bwPeak, port := { s.port with answer := .word (BitVec.ofNat 64 (s.bwPeak.get 0 (1024 * u + 0x300 + i))) } } ∧
       t.bwPeak.get 0 (1024 * u + 0x300 + i) = 0 ∧
       ∀ k, k ≠ 1024 * u.val + 0x300 + i.val → t.bwPeak.get 0 k = s.bwPeak.get 0 k)) ∧
  (∀ (s : State) (u : Fin 256) (i : Nat), s.bwRuns u = true → Tab.wf s.bwNow = true → 0x300 ≤ i → i < 0x400 → unitIndex u i = true →
     ∃ t, exec (.bwWindowEnd u) s = .next t ∧
       t.bwLast.get 0 (1024 * u + i) = BitVec.ofNat 64 (2 ^ 63 + s.bwNow.get 0 (1024 * u + i) % 2 ^ 48) ∧
       t.bwPeak.get 0 (1024 * u + i) = max (s.bwNow.get 0 (1024 * u + i) % 2 ^ 48) (s.bwPeak.get 0 (1024 * u + i)) ∧
       t.bwNow.get 0 (1024 * u + i) = 0 ∧
       (unitIndex u 0 = true → s.bwWindow u ≤ 48 → (t.unitCounter u 0).count % 2 ^ s.bwWindow u = 0) ∧
       t.bwWindow u = min 30 (max 10 (s.bwCfg.toNat % 64)) ∧
       t = { s with bwLast := t.bwLast, bwPeak := t.bwPeak, bwNow := t.bwNow, bwLog := t.bwLog, unitCounters := t.unitCounters, links := t.links })

/-- R439, R467, R469, R471: the oldest completed sample of a core is written to its ring as a record, and leaves the core. In a
core cycle that is a multiple of the dump interval the latched record is written in three steps, its first 64 bytes marked as
being written before and clear after; while the writes of the one before are under way it is skipped. With energy records on, an
ended invocation's figures are written to the next record of the ring. -/
def Obligations.RecordsWritten : Prop :=
  (∀ (s : State) (c : CoreId) (x : Sample) (g : Gauger) (dva : Nat),
     g = (s.core c).gauger → s.coreRuns c = true → g.samples.find? (fun y => y.done.isSome) = some x →
     dva = g.smpBase.toNat * 64 + g.smpSeq % 2 ^ min 20 (max 6 (wField g.cfg 44 40)) * 64 →
     (s.recall (c / 32) (6 * 4096 + c) dva 64 true).1 = false →
     ∃ t w, exec (.sampleRecordWrite c) s = .next t ∧
       CoreAt s w c { s.core c with gauger := { g with samples := g.samples.erase x, smpSeq := g.smpSeq + 1, smpDropped := false } } ∧
       t = w.writeRecord (.gauger c) (6 * 4096 + c) dva (sampleBytes c g.smpSeq g.smpDropped x (x.done.getD 0))) ∧
  (∀ (s w : State) (c : CoreId) (gap : Nat) (g : Gauger) (dva : Nat) (put : State → Nat → List Byte → State),
     g = (s.core c).gauger → s.coreRuns c = true → g.cfg.getLsbD 39 = true →
     ((s.core c).cycle + gap) % 2 ^ 64 % 2 ^ g.dumpLog = 0 →
     w = s.atCore c (fun e => { e with k := { e.k with cycle := ((s.core c).cycle + gap) % 2 ^ 64 } }) →
     dva = g.dumpBase.toNat * 64 + g.dumpSeq % 2 ^ min 16 (wField g.cfg 32 28) * 2368 →
     put = (fun x a bs => (x.writeRange (.gauger c) (6 * 4096 + c) 0 a (markAll false bs)).2) →
     ∃ t, exec (.dumpLatch c gap) s = .next t ∧
       ((∃ x ∈ s.txns, x.src = .gauger c) → (t.core c).gauger.dumpSkipped = true ∧ t = { w with cores := t.cores }) ∧
       ((∀ x ∈ s.txns, x.src ≠ .gauger c) → (w.recall (c / 32) (6 * 4096 + c) dva 2368 true).1 = false →
         ∃ y, y = put (put (put w dva ((w.dumpBytes c true).take 64)) (dva + 64) ((w.dumpBytes c false).drop 64)) dva
             ((w.dumpBytes c false).take 64) ∧
           (t.core c).gauger.dumpSeq = g.dumpSeq + 1 ∧ (t.core c).gauger.dumpSkipped = false ∧ t = { y with cores := t.cores })) ∧
  (∀ (s : State) (c : CoreId) (a : Account) (rest : List Account) (dva : Nat),
     s.firmwareRuns = true → 3 ∉ s.house.services → s.house.tripped = false → s.house.energyCfg.getLsbD 16 = true →
     s.fenced c = false → (s.core c).gauger.accounts = a :: rest →
     dva = s.house.erepBase.toNat * 64 + s.house.erepSeq % 2 ^ min 20 (max 6 (s.house.energyCfg.toNat / 2 ^ 17 % 32)) * 64 →
     (a.ended = none → exec (.energyRecord c) s = .next s) ∧
     ∀ done, a.ended = some done → (s.recall 11 (7 * 4096 + 5) dva 64 true).1 = false →
       exec (.energyRecord c) s = .next (({ s with
         house := { s.house with erepSeq := s.house.erepSeq + 1 },
         cores := s.cores.set c { s.core c with gauger := { (s.core c).gauger with accounts := rest } } }).writeRecord .house
       (7 * 4096 + 5) dva (energyBytes s.house.erepSeq c a done)))

/-! ## The Counting House (chapter 17) -/

/-- R428, R500 to R502, Table 16.1: a cold reset leaves every unit at its reset value, and only host memory, the flash, the
fuses, the count of zeroisations and the waiting commands as they are; loss of power the same with the rails down; a PERST#
pulse under 1 microsecond is ignored. -/
def Obligations.ColdResets : Prop :=
  ∀ (s : State) (ns : Nat) (after : Bool → State),
    after = (fun p => { State.reset with
      hostMem := s.hostMem, hostPoison := s.hostPoison, flash := s.flash, fuses := s.fuses, free := s.free, pending := s.pending,
      house := { State.reset.house with zeroised := s.house.zeroised, power := p, pwrOk := p } }) →
    exec .powerOn s = .next (after true) ∧ exec .powerLoss s = .next (after false) ∧
    (s.house.power = true → exec (.perstNAssert ns) s = .next (if 1000 ≤ ns then after true else s)) ∧
    (s.house.power = true → s.port.linkUp = true → exec .cxlReset s = .next (after true))

/-- R14, R262, R429 to R431: start-up fences what its tests fail, fails the module for what Table 17.5 calls fatal, and leaves
it READY otherwise; without a valid image it fails with cause 1. -/
def Obligations.StartUp : Prop :=
  ∀ (s : State) (x : StartTests), s.house.power = true → s.house.pwrOk = true → s.house.dev = .boot →
    ∃ t, exec (.startUp x) s = .next t ∧ t = { s with port := { s.port with linkUp := s.port.refclk }, house := t.house, sec := t.sec } ∧
      (s.bootSlot = none → t.house.dev = .failed ∧ t.house.cause = 1) ∧
      (∀ b, s.bootSlot = some b →
        (∀ c : CoreId, t.fenced c = x.cores.contains c) ∧
        (∀ k : Fin 12, t.house.fencedCtls.contains k.val = x.ctls.contains k) ∧
        (∀ l : Fin 36, t.house.fencedLinks.contains l.val = (x.ports.contains l || x.engines.any (fun e => e.val = l.val / 4))) ∧
        (∀ g : Fin 32, t.house.fencedStacks.contains g.val = (x.stackList.contains g || x.slices.any (fun y => y.1 = g))) ∧
        t.house.cause = (if x.ctls.contains 0 then 2 else if x.fabric then 3 else if x.house then 4
          else if ∀ c : CoreId, c ∈ x.cores then 5 else 0) ∧
        t.house.dev = (if t.house.cause = 0 then .ready else .failed) ∧ t.house.image = (if b then 2 else 1) ∧
        t.sec = { s.sec with runningSvn := s.flash.le (slotBase b + 16) 4 })

/-- R424, R435, R436: a reading of 110 degrees trips the module; the brake counts once until the next boundary; a service whose
watchdog expires is named with one of its clerk cores, and the module fails. -/
def Obligations.HouseFailures : Prop :=
  ∀ s : State, s.house.power = true →
    (∀ (sensor : Fin 32) (r : Nat), s.house.tripped = false → 110000 ≤ r →
      exec (.thermalTrip sensor r) s = .next { s with
        house := { s.house with tripped := true, dev := .failed },
        occurrences := s.occurrences ++ [⟨0x73, [BitVec.ofNat 64 sensor, BitVec.ofNat 64 r]⟩] }) ∧
    (∀ current : Nat, s.house.brake = false → 1150 * s.house.cap < current * 54 →
      ∃ t, exec (.brake current) s = .next t ∧
        CountedOne { s with house := { s.house with brake := true }, cores := t.cores } t 0xC1 2 ∧
        ∀ n, Aside (s.core n) (t.core n) ∧ (t.core n).gauger.accounts =
          (s.core n).gauger.accounts.map (fun a => if a.ended = none then { a with braked := true } else a)) ∧
    (∀ service : Fin 6, s.firmwareRuns = true →
      ∃ t w, exec (.fwWatchdogExpiry service) s = .next t ∧
        w ∈ nth [] [[0], [1, 2], [3, 4], [5], [6], [7]] service.val ∧
        t = { s with
          house := { s.house with services := s.house.services ++ [service.val], dev := .failed }, free := s.free + 1,
          occurrences := s.occurrences ++ [⟨0x72, [BitVec.ofNat 64 (w + service * 256)]⟩] })

/-- R432, R434, R435: a planner window reports the mean power, lowers every guild at 100 degrees or more by one point, and
otherwise lowers guilds, a point each, while the estimate is above the cap, and raises them, a point each, while it is below
0.95 of it. -/
def Obligations.PlannerWindows : Prop :=
  ∀ (s : State) (m : Measures) (old : Nat → Nat) (e b : Nat),
    s.firmwareRuns = true → 3 ∉ s.house.services → s.house.idle = 0 → (∀ x ∈ s.cmds, x.phase ≠ .waitBoundary) →
    old = (fun g => s.house.points.get 0 g) → (∀ g, old g ≤ 6) → m.temps.length = 32 →
    e = 1000 * m.energy → b = s.house.cap * 2 ^ (min 26 (max 14 (s.house.energyCfg.toNat % 64))) →
    ∃ t new, exec (.plannerWindow m) s = .next t ∧ new = (fun g => t.house.points.get 0 g) ∧
      t.house.lastPower = m.energy * 1000000 / 2 ^ s.house.window ∧ t.house.brake = false ∧
      t.house.window = min 26 (max 14 (s.house.energyCfg.toNat % 64)) ∧
      (∀ g < 32, 100000 ≤ nth 0 m.temps g → new g = min 6 (old g + 1)) ∧
      (b < e → ∀ g < 32, old g ≤ new g ∧ new g ≤ old g + 1) ∧
      (100 * e < 95 * b → ∀ g < 32, nth 0 m.temps g < 100000 → new g ≤ old g ∧ old g ≤ new g + 1) ∧
      (e ≤ b → 95 * b ≤ 100 * e → ∀ g < 32, nth 0 m.temps g < 100000 → new g = old g) ∧
      t = { s with house := t.house, cores := t.cores, unitCounters := t.unitCounters, occurrences := t.occurrences } ∧
      (∀ n, Aside (s.core n) (t.core n)) ∧ t.house.cap = s.house.cap ∧ t.house.dev = s.house.dev

/-- R440, R441: an idle module enters the deepest state its wake latency allows, its guilds at the lowest point, its links in
standby from I2 on; a wake brings the links back and the operating points of before. -/
def Obligations.IdleStates : Prop :=
  ∀ (s : State) (d : Nat),
    (s.firmwareRuns = true → 3 ∉ s.house.services → s.house.tripped = false → s.house.idle = 0 → s.isIdle = true →
      d = (if 30000 ≤ s.house.wakeLatency then 3 else if 5000 ≤ s.house.wakeLatency then 2 else if 1500 ≤ s.house.wakeLatency then 1 else 0) →
      d ≠ 0 →
      ∃ t, exec .idleEntry s = .next t ∧ t.house.idle = d ∧ t.house.fabric = 2 ∧ (∀ g < 32, t.house.points.get 0 g = 6) ∧
        t.house.saved = (s.house.points, s.house.fabric) ∧
        (∀ l k, (l, k) ∈ s.links → (l, if 2 ≤ d ∧ k.state = .active ∧ k.ctrl.getLsbD 1 then { k with state := .standby } else k) ∈ t.links) ∧
        t = { s with house := t.house, links := t.links }) ∧
    (s.house.idle ≠ 0 →
      ∃ t, exec .wake s = .next t ∧
        t.house = { s.house with idle := 0, points := s.house.saved.1, fabric := s.house.saved.2, saved := ([], 0) } ∧
        (∀ l k, (l, k) ∈ s.links → (l, if k.state = .standby then { k with state := .active } else k) ∈ t.links) ∧
        t = { s with house := t.house, links := t.links })

/-! ## The collective library (chapter 14) -/

/-- R357, R358, R361, R362, R364: the thinning of one block by Table 14.3; the scale codes and signs of a thinned piece, and the
fields of a message, read back as written; the digest word by word; the sum of the copies does not depend on their order. -/
def Obligations.ThinningAndMessages : Prop :=
  (∀ (g e xs : List Fp) (a : Nat), g.length = 64 → e.length = 64 → xs = thinInputs g e → a = meanMagnitude xs →
    ((∃ x ∈ xs, x.2 = true ∨ (val32 x.1).isNonFinite = true) → thinBlock g e = ⟨0xFF, 0, e⟩) ∧
    ((∀ x ∈ xs, x.2 = false ∧ (val32 x.1).isNonFinite = false) →
      (a % 2 ^ 31 = 0 → thinBlock g e = ⟨0, 0, xs⟩) ∧
      (a % 2 ^ 31 ≠ 0 → ∃ c y, y = thinBlock g e ∧ y.code = c ∧
        c = max 1 (min 254 (a / 2 ^ 23 % 256 + (if 0x3504F3 ≤ a % 2 ^ 23 then 1 else 0))) ∧ y.err.length = 64 ∧
        ∀ j x, xs[j]? = some x → y.signs.testBit j = x.1.testBit 31 ∧
          y.err[j]? = some (fp32 (addVal (val32 x.1) (negVal (val32 (c * 2 ^ 23 + (if x.1.testBit 31 then 2 ^ 31 else 0))))), false)))) ∧
  (∀ (ts : List Thinned) (b j : Nat), (∀ x ∈ ts, x.code < 256 ∧ x.signs < 2 ^ 64) → j < 64 →
    (thinnedBytes ts).length = (ts.length + 63) / 64 * 576 ∧
    (∀ y, ts[b]? = some y → (thinnedBytes ts)[576 * (b / 64) + b % 64]? = some (BitVec.ofNat 8 y.code) ∧
      ((thinnedBytes ts)[576 * (b / 64) + 64 + 8 * (b % 64) + j / 8]?).map (·.getLsbD (j % 8)) = some (y.signs.testBit j)) ∧
    (ts.length ≤ b → b < (ts.length + 63) / 64 * 64 → (thinnedBytes ts)[576 * (b / 64) + b % 64]? = some 0 ∧
      (thinnedBytes ts)[576 * (b / 64) + 64 + 8 * (b % 64) + j / 8]? = some 0)) ∧
  (∀ m : Message, m.kind < 2 ^ 8 → m.code < 2 ^ 8 → m.attempt < 2 ^ 8 → m.peer < 2 ^ 12 → m.slot < 2 ^ 16 → m.step < 2 ^ 64 →
    m.blocks < 2 ^ 32 → m.first < 2 ^ 32 → m.digest < 2 ^ 64 → m.bytes.length = 64 ∧ Message.ofBytes m.bytes = m) ∧
  thinnedDigest [] = 0 ∧
  (∀ bs w : List Byte, bs.length % 8 = 0 → w.length = 8 →
    thinnedDigest (bs ++ w) = ((thinnedDigest bs ^^^ leNat w) * 0x9E3779B97F4A7C15) % 2 ^ 64) ∧
  ∀ (ys zs : List Copy) (b j : Nat), ys.Perm zs → sumOf ys b j = sumOf zs b j

/-- R351, R355, R356, R360, R363, R366, R367: the plan, contributions, the copies an owner core takes, lateness, divergence and
recomputation. The library's own accesses and what its patterns carry are the model's choice (log 23); a copy that comes before
the reduction phase is compared when the phase begins (log 60). -/
def Obligations.CollectiveContributions : Prop :=
  (∀ (s : State) (c : CoreId) (dva : BitVec 41) (lay : Layout) (bs : List (Byte × Bool)) (u : State), s.coreRuns c = true →
    (bs, u) = s.libRead (libAnswers s) c dva.toNat 33024 → u.asks = [] →
    ∃ t, exec (.planStart c dva lay) s = .next t ∧
      (u.planFault bs = none → LibDone { u with coll :=
        { plan := some (planOf (bs.map (·.1))), layout := some lay, step := leNat (((bs.map (·.1)).drop 24).take 8) } } t) ∧
      (∀ o, u.planFault bs = some o → LibDone { u with occurrences := u.occurrences ++ [⟨0x50, [BitVec.ofNat 64 o]⟩] } t) ∧
      (leNat ((bs.map (·.1)).take 2) ≠ 1 → LibDone { u with occurrences := u.occurrences ++ [⟨0x50, [0]⟩] } t) ∧
      ((∃ d ∈ u.liveCores, (u.core d).gauger.permits 255 = false) → t.coll = u.coll)) ∧
  (∀ (s : State) (p : Plan) (l : Layout) (c : CoreId) (k : Fin 64) (q : CoreId), Planned s p l → s.coreRuns c = true → s.coll.held = false →
    k.val < p.slotCount → 0 < (p.piece k (s.slotCores p l k) q).2 → (s.areaOf p l (p.primary p.ownStage k)).isSome = true →
    ((∀ d ∈ s.liveCores, (s.core d).scheduleDone = true) → s.coll.began ≠ [] →
      ∃ t w, exec (.contributionSend c k q) s = .next t ∧ LibDone w t ∧ Contributed s w (libAnswers s) p l c k q 0) ∧
    ((∀ d ∈ s.liveCores, (s.core d).scheduleDone = true) → s.coll.began = [] →
      ∃ t u w, exec (.contributionSend c k q) s = .next t ∧ LibDone w t ∧ Contributed u w (libAnswers s) p l c k q 0 ∧
        (∀ d ∈ s.ownerCores p, u.coll.began.find d = some ((s.counterWord d 255).toNat % 2 ^ 48)) ∧
        u.coll.copies = s.coll.copies ∧ u.coll.step = s.coll.step) ∧
    ((∃ d ∈ s.liveCores, (s.core d).scheduleDone = false) → ∃ t, exec (.contributionSend c k q) s = .next t ∧ LibDone s t) ∧
    ∀ (d n : Nat) (m : Message), s.lineOf (p.coll + 0x400C00000 + k * 64) = some (d, n) → (s.messageAt d n).1 = m →
      (s.messageAt d n).2.2 = false → m.kind = 3 → m.step = s.coll.step → m.slot = k.val → (s.coll.began ≠ [] ∨ s.ownerCores p = []) →
      ∃ t w, exec (.recompute c k q) s = .next t ∧ LibDone w t ∧ Contributed (s.readLine d n) w (libAnswers s) p l c k q 1) ∧
  (∀ (s : State) (p : Plan) (l : Layout) (q : CoreId) (k : Fin 64) (r : Fin 2) (d n : Nat), Planned s p l →
    s.lineOf (p.coll + 0x400000000 + q / 32 * 262144 + ((2 * k + r) * 32 + q % 32) * 64) = some (d, n) → d ≠ q.val → s.coreRuns d = true →
    ∃ t, exec (.tokenReceive q k r false) s = .next t ∧
      LibDone ((s.readLine d n).sendLine d (.core q (64 * ((l.relay + 2 * k + r) % 8192))) (s.messageAt d n).2.1 []) t) ∧
  (∀ (s : State) (p : Plan) (l : Layout) (c : CoreId) (k : Fin 64) (r : Fin 2) (n : Nat) (relayed : Bool) (m : Message) (mark : Bool) (key : Nat),
    Planned s p l → TokenFor s p c n k r m mark →
    (relayed = true → n = (l.relay + 2 * k + r) % 8192) →
    (relayed = false → s.lineOf (p.coll + 0x400000000 + c / 32 * 262144 + ((2 * k + r) * 32 + c % 32) * 64) = some (c.val, n)) →
    Tab.wf s.coll.taken = true → key = 64 * c + k → (s.receiveToken (libAnswers s) p l c n k r).asks = [] →
    ∃ t y, exec (.tokenReceive c k r relayed) s = .next t ∧
      t.coll.copies = s.coll.copies.filter (fun z => !(z.core = c.val && z.slot = k.val && z.role = r.val &&
        decide (s.coll.step < z.step) = decide (s.coll.step < m.step))) ++ [y] ∧
      y.core = c.val ∧ y.slot = k.val ∧ y.role = r.val ∧ y.attempt = m.attempt ∧ y.step = m.step ∧ y.digest = m.digest ∧ y.first = m.first ∧
      y.blocks = m.blocks ∧ (mark = true → y.poison = true) ∧ (y.poison = false → ∀ b ∈ y.data, b.2 = false) ∧
      ((s.coll.began.find c = none ∨ s.coll.step < m.step) → t.coll.taken = s.coll.taken ∧ t.coll.diverged = s.coll.diverged) ∧
      ((s.coll.began.find c).isSome = true → m.step ≤ s.coll.step →
        (y.poison = false → r.val = 0 → m.step = s.coll.step → s.coll.voted = false → s.coll.copy c k 1 = none →
          s.coll.recomputing.contains key = false → s.coll.diverged.contains key = false → s.coll.taken.find key = none →
          t.coll.taken.find key = some 0) ∧
        (∀ z, s.coll.copy c k (1 - r) = some z → s.coll.recomputing.contains key = false →
          (z.agrees y = true → t.coll.diverged = s.coll.diverged ∧ t.coll.holdDivergence = s.coll.holdDivergence) ∧
          (z.agrees y = false →
            ⟨0x52, [BitVec.ofNat 64 s.coll.step, BitVec.ofNat 64 (k + p.policy * 256 + (if s.coll.voted then 65536 else 0) + c * 2 ^ 32),
              BitVec.ofNat 64 (if r.val = 0 then y.digest else z.digest), BitVec.ofNat 64 (if r.val = 0 then z.digest else y.digest)]⟩
                ∈ t.occurrences ∧
            (s.coll.voted = true → t.coll.diverged = s.coll.diverged) ∧
            (s.coll.voted = false → p.policy < 2 → t.coll.diverged.contains key = true ∧ t.coll.taken.find key = some 0 ∧
              t.coll.holdDivergence = (s.coll.holdDivergence || decide (p.policy = 0))) ∧
            (s.coll.voted = false → p.policy = 2 → y.attempt = 0 → z.attempt = 0 →
              t.coll.recomputing.contains key = true ∧ t.coll.taken.find key = none))))) ∧
  (∀ (s : State) (p : Plan) (l : Layout) (c : CoreId) (k : Fin 64) (c0 : Nat) (w : State), Planned s p l → s.coreRuns c = true → p.role = 0 →
    p.lateCycles ≠ 0 → k.val < p.slotCount → (p.backup p.ownStage k).isSome = true → s.coll.voted = false →
    s.coll.late.contains (64 * c + k) = false → s.coll.began.find c = some c0 →
    p.lateCycles ≤ ((s.counterWord c 255).toNat % 2 ^ 48 + 2 ^ 48 - c0) % 2 ^ 48 →
    (∀ y, s.coll.present c k 0 = some y → y.poison = true) → Tab.wf s.coll.taken = true →
    w = { s with
      coll := { s.coll with late := idxAdd s.coll.late (64 * c.val + k.val) },
      occurrences := s.occurrences ++ [⟨0x51, [BitVec.ofNat 64 s.coll.step, BitVec.ofNat 64 (k + c * 65536)]⟩] } →
    ∃ t u, exec (.slotLate c k) s = .next t ∧ u = w.settleCore (libAnswers s) p l c ∧ LibDone u t ∧
      (u.asks = [] → t.coll.late = w.coll.late ∧ ⟨0x51, [BitVec.ofNat 64 s.coll.step, BitVec.ofNat 64 (k + c * 65536)]⟩ ∈ t.occurrences ∧
        (∀ y, s.coll.present c k 1 = some y → y.poison = false → s.coll.recomputing.contains (64 * c.val + k.val) = false →
          s.coll.diverged.contains (64 * c.val + k.val) = false → s.coll.taken.find (64 * c + k) = none →
          t.coll.taken.find (64 * c + k) = some 1)))

/-- R361, R364, R365, R368 to R375: the staged update of an owner core, the vote of a module, the commit or the hold of a step
and the host's decision, the parameters sent and widened, the boundary, and the permute; a generator image loads as it was
saved. A backup, to which no vote is sent, holds a step when the host's decision comes (log 58). -/
def Obligations.CollectiveVotesAndParameters : Prop :=
  (∀ (s : State) (p : Plan) (l : Layout) (v : Nat) (m : Message) (w : State), Planned s p l → s.voteCore = some v → s.coreRuns v = true → p.role = 0 →
    s.coll.voted = false → (∀ c ∈ s.liveCores, s.ownsPiece p c = true → s.coll.staged.contains c = true) →
    m.code = (if ∃ c ∈ s.ownerCores p, (s.core c).evPending.getLsbD 2 = true then 1
      else if ∃ c ∈ s.ownerCores p, (s.core c).evPending.getLsbD 3 = true then 2 else if s.coll.holdDivergence then 3 else 0) →
    m = ⟨2, m.code, 0, s.ownPeer, p.ownSlot, s.coll.step, 0, 0, 0⟩ →
    w = p.owners.foldl (fun (u : State) i =>
      u.sendTo p l v (p.primary (i / 64) (i % 64)) (0x400800000 + (64 * p.ownStage + p.ownSlot) * 64) m []) s →
    exec .voteSend s = .next { w with coll := { w.coll with voted := true } }) ∧
  (∀ (s : State) (ans : List PeerAnswer) (p : Plan) (l : Layout) (c first n : Nat) (a : Nat) (ss : List (Word32 × Bool)) (ys : List Copy)
    (gen : Tab (BitVec 128)) (u v : State) (ws hy : List (Byte × Bool)) (x y z : State) (outs : List (List UpdOut × Bool)) (e : Eff),
    (first, n) = s.ownPiece p c → l.rule.val = 0 → a = l.home.w.toNat + 128 * first → gen = (s.coll.generators.find c).getD (s.core c).lanes →
    ss = (List.range (64 * n)).map (fun i => sumOf ys (i / 64) (i % 64)) → u = s.libWrote c (sumWrites ss) →
    v = u.atCore c (fun f => { f with k := { f.k with lanes := gen } }) → (ws, x) = v.libRead ans c a (128 * n) →
    (hy, y) = x.libRead ans c l.hyper.toNat 48 → (outs, e) = (Eff.mk c (y.core c) []).updPiece l ss ws [] [] hy →
    z = ((y.atCore c (fun f => { f with k := { f.k with lanes := e.k.lanes } })).libWrote c
      (outs.map (fun o => ((0, o.1.any (fun b => b.out.2)), o.2)))).libWrite c 0 (l.staging.w.toNat + 128 * first) (outBytes outs 0) →
    s.stageUpdate ans p l c ys = { z with coll := { z.coll with
      sums := z.coll.sums.set c ss, generators := z.coll.generators.set c gen, staged := idxAdd z.coll.staged c } }) ∧
  (∀ (s : State) (p : Plan) (l : Layout) (v n i : Nat) (a b : Fin 64) (m : Message) (votes : Tab Nat) (u w : State), Planned s p l →
    s.coreRuns v = true → s.lineOf (p.coll + 0x400800000 + (64 * a + b) * 64) = some (v, n) → (s.messageAt v n).1 = m →
    (s.messageAt v n).2.2 = false → m.kind = 2 → m.code ≤ 3 → m.step = s.coll.step → i = 64 * a + b → p.owners.contains i = true →
    m.peer = p.primary a b → m.slot = b.val → s.coll.committed = false → u = s.readLine v n → votes = u.coll.votes.set i m.code →
    w = { u with coll := { u.coll with votes := votes } } →
    ∃ t, exec (.voteReceive a b) s = .next t ∧
      (u.coll.held = true → LibDone w t) ∧
      (u.coll.held = false → m.code ≠ 0 → ∃ x ws,
        (ws, x) = (w.libWrite v 0 (p.coll + 0x401800000)
          ((List.range 4096).map (fun j => (BitVec.ofNat 8 ((votes.find j).getD 0xFF), false)))).heldWords p ∧
        ws[0]? = some (BitVec.ofNat 64 x.coll.step) ∧
        LibDone { x with coll := { x.coll with held := true }, occurrences := x.occurrences ++ [⟨0x53, ws⟩] } t) ∧
      (u.coll.held = false → m.code = 0 → (p.role = 1 ∨ ∃ j ∈ p.owners, votes.find j ≠ some 0) → LibDone w t) ∧
      (u.coll.held = false → m.code = 0 → p.role = 0 → (∀ j ∈ p.owners, votes.find j = some 0) → LibDone (w.commit (libAnswers s) p l) t)) ∧
  (∀ (s u v : State) (ans : List PeerAnswer) (p : Plan) (l : Layout) (c first n : Nat) (ws : List (Byte × Bool)), (first, n) = s.ownPiece p c →
    l.rule.val = 0 → (ws, u) = s.libRead ans c (l.staging.w.toNat + 128 * first) (128 * n) →
    v = u.libWrite c 0 (l.home.w.toNat + 128 * first) ws → s.commitCore ans p l c = v.sendParams p l c first n ws) ∧
  (∀ (s u : State) (p : Plan) (l : Layout) (q : Nat) (c area first n : Nat) (ws : List (Byte × Bool)), p.holders = [q] → p.gather < 2 →
    s.areaOf p l q = some area → u = s.libWrite c 2 (area + (0x800000000 + 128 * first)) ws →
    s.sendParams p l c first n ws = u.sendTo p l c q (0x401000000 + c / 32 * 262144 + (p.ownSlot * 32 + c % 32) * 64)
      ⟨4, 0, 0, s.ownPeer, p.ownSlot, s.coll.step, n, first, 0⟩ (u.libSince c s.nextTxn)) ∧
  (∀ (s : State) (p : Plan),
    ((s.coll.committed = true ∨ p.role = 1) → p.entries / 64 ≤ s.coll.widened.foldl (fun n y => n + y.2) 0 →
      p.entries / 64 ≤ s.coll.thinned.foldl (fun n y => n + y.2) 0 →
      s.boundary p = { s with coll := {
        plan := s.coll.plan, layout := s.coll.layout, step := s.coll.step + 1, stopped := s.coll.stopped,
        copies := s.coll.copies.filter (fun y => decide (s.coll.step < y.step)) } }) ∧
    ((s.coll.committed = false ∧ p.role ≠ 1 ∨ s.coll.widened.foldl (fun n y => n + y.2) 0 < p.entries / 64 ∨
      s.coll.thinned.foldl (fun n y => n + y.2) 0 < p.entries / 64) → s.boundary p = s)) ∧
  (∀ (s : State) (p : Plan) (l : Layout) (v : Nat) (w : Word), Planned s p l → s.voteCore = some v → s.coreRuns v = true → w = (s.core v).mailbox →
    (s.coll.held = true ∨ p.role = 1) →
    ∃ t u, exec .heldStepDecision s = .next t ∧ (s.coll.held = true → u = s) ∧ (s.coll.held = false → u = s.holdStep p v) ∧
      (w.toNat % 2 ^ 48 ≠ s.coll.step % 2 ^ 48 → LibDone s t) ∧
      (w.toNat / 2 ^ 56 = 0 ∨ 5 ≤ w.toNat / 2 ^ 56 → LibDone s t) ∧
      (w.toNat % 2 ^ 48 = s.coll.step % 2 ^ 48 →
        (w.toNat / 2 ^ 56 = 1 → LibDone (u.commit (libAnswers s) p l) t) ∧
        (w.toNat / 2 ^ 56 = 2 → LibDone (u.commitBackup (libAnswers s) p l) t) ∧
        (w.toNat / 2 ^ 56 = 3 → ∃ x : State, LibDone x t ∧ x.coll = u.coll.fresh u.coll.step ∧
          (Tab.wf u.coll.generators = true → ∀ c g, u.liveCores.contains c = true → u.coll.generators.find c = some g → (x.core c).lanes = g)) ∧
        (w.toNat / 2 ^ 56 = 4 → LibDone { u with coll := { u.coll with stopped := true } } t))) ∧
  (∀ (s : State) (ans : List PeerAnswer) (p : Plan) (l : Layout), Tab.wf s.coll.taken = true →
    (s.commitBackup ans p l).coll.step = s.coll.step → (s.commitBackup ans p l).coll.committed = true ∧
      (s.commitBackup ans p l).coll.held = false ∧ ∀ k ∈ s.coll.diverged, (s.commitBackup ans p l).coll.taken.find k = some 1) ∧
  (∀ (s : State) (p : Plan) (l : Layout) (k : Fin 64) (q : CoreId) (c line n size : Nat) (m : Message) (els scs : List (Byte × Bool))
    (outs : List (OutElem × Bool)) (u w : State), Planned s p l → s.coreRuns c = true →
    s.lineOf (p.coll + 0x401000000 + q / 32 * 262144 + (k * 32 + q % 32) * 64) = some (c, line) → (s.messageAt c line).1 = m →
    (s.messageAt c line).2.2 = false → m.kind = 4 → m.step = s.coll.step → m.slot = k.val → k.val < p.slotCount → n = m.blocks → n ≤ 14528 →
    m.first + n ≤ p.entries / 64 → (m.first, n) ∉ s.coll.widened → size = (if l.form.val = 0 then 4 else 2) →
    (els, u) = (s.readLine c line).libRead (libAnswers s) c (p.coll + (0x800000000 + p.paramBytes * m.first)) (p.paramBytes * n) →
    (scs, w) = u.libRead (libAnswers s) c (p.coll + (0x600000000 + 2 * m.first)) (p.scaleBytes n) →
    outs = (List.range n).flatMap (fun b => widenParams p.gather l.form ((els.drop (p.paramBytes * b)).take p.paramBytes)
      ((scs.drop (2 * b)).take 2)) →
    ∃ t x, exec (.paramReceive k q) s = .next t ∧
      x = (w.libWrote c outs).libWrite c 0 (l.working.toNat + 64 * size * m.first) (outs.flatMap (fun o => markAll o.1.2 (natLe size o.1.1))) ∧
      LibDone ({ x with coll := { x.coll with widened := x.coll.widened ++ [(m.first, n)] } }.boundary p) t) ∧
  (∀ (els scs : List (Byte × Bool)) (g f : Nat), els.length = 128 → (∀ x ∈ els, x.2 = false) → (g = 0 ∧ f = 1 ∨ g = 1 ∧ f = 2) →
    (widenParams g f els scs).flatMap (fun o => markAll o.1.2 (natLe 2 o.1.1)) = els ∧ ∀ o ∈ widenParams g f els scs, o.2 = false) ∧
  (∀ (s : State) (p : Plan) (l : Layout), Planned s p l →
    (∀ (ms : List Move) (as : List Arrival), s.quietLib = true →
      ∃ t, exec (.permute (some (ms, as))) s = .next t ∧ LibDone { s with coll := { s.coll with permute := some ⟨ms, as, []⟩ } } t) ∧
    (∀ (m : Move) (rest : List Move) (as here : List Arrival) (bs : List (Byte × Bool)) (u w x : State),
      s.coll.permute = some ⟨m :: rest, as, here⟩ → s.coreRuns m.core = true → (bs, u) = s.copyRuns (libAnswers s) m.core m.runs →
      (m.generators = none → w = u) →
      (∀ a, m.generators = some a → w = u.libWrite m.core 2 a.toNat (markAll false (u.core m.core).generatorImage)) →
      x = w.sendTo p l m.core m.peer.toNat (0x400000000 + m.target / 32 * 262144 + ((2 * p.ownSlot + p.role) * 32 + m.target % 32) * 64)
        ⟨1, p.role, 0, s.ownPeer, p.ownSlot, s.coll.step, m.blocks.toNat, m.first.toNat, thinnedDigest (bs.map Prod.fst)⟩
        (w.libSince m.core s.nextTxn) →
      ∃ t, exec (.permute none) s = .next t ∧ LibDone { x with coll := { x.coll with permute := some ⟨rest, as, here⟩ } } t) ∧
    (∀ (a : Arrival) (as here : List Arrival), s.coll.permute = some ⟨[], a :: as, here⟩ →
      ∃ t x, exec (.permute none) s = .next t ∧ LibDone x t ∧
        x.coll.permute = some ⟨[], (a :: as).filter (fun m => (s.moveCame p m).isNone),
          here ++ (a :: as).filter (fun m => (s.moveCame p m).isSome)⟩) ∧
    (∀ (m : Arrival) (rest : List Arrival) (u : State), s.coll.permute = some ⟨[], [], m :: rest⟩ → s.coreRuns m.core = true →
      u = (s.copyRuns (libAnswers s) m.core m.runs).2 →
      ∃ t x, exec (.permute none) s = .next t ∧ LibDone { x with coll := { x.coll with permute := some ⟨[], [], rest⟩ } } t ∧
        (m.generators = none → x = u) ∧
        ∀ a im y, m.generators = some a → (im, y) = u.libRead (libAnswers s) m.core a.toNat 1024 →
          x = y.atCore m.core (fun e => e.loadGenerators im)) ∧
    (s.coll.permute = some ⟨[], [], []⟩ → ∃ t, exec (.permute none) s = .next t ∧ LibDone { s with coll := { s.coll with permute := none } } t)) ∧
  ∀ (k k' : CoreSt) (n l : Nat), l < 64 → k.lane l ≠ 0 →
    ((⟨n, k', []⟩ : Eff).loadGenerators (markAll false k.generatorImage)).k.lane l = k.lane l

/-! ## The Scrivener (chapter 15, R380 to R398, R454) -/

/-- R378, R388, Tables 15.2, 15.4: a context image has 1,310,720 bytes and gives a thread back as it was; a manifest has the
bytes of its entries and signature, and says the entries, the absent cores and the step it was written with. -/
def Obligations.ImagesAndManifests : Prop :=
  (∀ (s : State) (c : Nat), (s.contextImage c).length = imageBytes) ∧
  (∀ (old x y : Thread), y = Thread.ofImage old x.image → x.image.length = 512 ∧ (∀ r < 32, y.reg r = x.reg r) ∧ y.pc = x.pc ∧
    y.state = x.state ∧ y.handler = x.handler ∧ y.excVector = x.excVector ∧ y.excCause = x.excCause ∧ y.excPc = x.excPc ∧
    y.excAddr = x.excAddr) ∧
  ∀ (s : State) (x : Snapshot) (bs : List (Byte × Bool)), bs = markAll false (s.manifest x) →
    bs.length = 256 + 40 * x.entries.length + (if x.sign then 17088 else 0) ∧
    (x.step < 2 ^ 64 → x.entries.length < 2 ^ 32 → (∀ y ∈ x.entries, y.page < 2 ^ 25 ∧ y.digest < 2 ^ 256) → s.absentCores < 2 ^ 1024 →
      s.judgeManifest x.step false (bs.take 256) (bs.drop 256) = .inr ⟨s.absentCores, x.entries, x.sign⟩)

/-- R380, R382, R384, R390, R391: a snapshot begins, captures its cores, freezes its pages and releases the cores, and ends by
time-out or cancel with nothing frozen. -/
def Obligations.SnapshotsBeginAndFreeze : Prop :=
  (∀ (s : State) (c : Cmd) (bs : List Byte) (x : Snapshot) (failed : Nat → State), Starts s 0x20 c → s.port.linkUp = true → Scrivening s →
    s.snapshot = none → s.restore = none → bs = s.hostMem.bytes (c.q 1 63 0) 1152 →
    (∀ l ∈ linesOf (c.q 1 63 0) 1152, idxMem s.hostPoison l = false) → snapshotFieldsOk bs = true → x = snapshotOf c.num bs →
    failed = (fun r => { s with occurrences := s.occurrences ++ [⟨0x61, [BitVec.ofNat 64 x.step, BitVec.ofNat 64 r, 0]⟩] }) →
    ∃ t, exec .snapshot s = .next t ∧
      (s.house.dev ≠ .ready → EndedCmd s t c 1 0) ∧
      (s.house.dev = .ready → s.requestOk x (leNat ((bs.drop 24).take 8)) = false → EndedCmd (failed 2) t c 8 2) ∧
      (s.house.dev = .ready → s.requestOk x (leNat ((bs.drop 24).take 8)) = true → s.linksOk x = false → EndedCmd (failed 3) t c 8 3) ∧
      (s.house.dev = .ready → s.requestOk x (leNat ((bs.drop 24).take 8)) = true → s.linksOk x = true →
        t = { s with
          cmds := s.cmds.filter (fun d => d.num ≠ c.num) ++ [{ c with phase := .running }], snapshot := some x,
          house := { s.house with dev := .capture } })) ∧
  (∀ (s : State) (c : CoreId) (x : Snapshot) (a : Nat) (u : State), s.snapshot = some x → Scrivening s → x.frozen = false →
    x.captured.contains c.val = false → (x.captured = [] → s.allQuiescent = true) →
    (x.captured ≠ [] → s.fenced c = true ∨ s.quiescent c = true) → a = x.ctxBase + c * imageBytes →
    (s.recall 11 scrivMaster a imageBytes true).1 = false →
    u = (s.writeRange .house scrivMaster 3 a (if s.fenced c then markAll false (natLe imageBytes 0) else s.contextImage c)).2 →
    ∃ v, (s.fenced c = true → v = u) ∧ (s.fenced c = false → CoreAt u v c (u.core c).captured) ∧
      exec (.contextCapture c) s = .next { v with snapshot := some { x with captured := x.captured ++ [c.val] } }) ∧
  (∀ (s : State) (x : Snapshot), s.snapshot = some x → Scrivening s → x.captured = [] → s.allQuiescent = false →
    ∃ t, exec .captureTimeout s = .next t ∧ t.snapshot = none ∧ t.house.dev = devAfter s ∧
      ⟨0x61, [BitVec.ofNat 64 x.step, 1, BitVec.ofNat 64 x.next]⟩ ∈ t.occurrences) ∧
  (∀ (s : State) (x : Snapshot) (Released : State → Prop), s.snapshot = some x → Scrivening s → x.released = false →
    (∀ c : CoreId, x.captured.contains c.val = true) → (∀ i < x.count, x.page i < 2 ^ 25) → Mem.wf s.tiers.bedrock = true →
    Released = (fun t => t.snapshot = some { x with frozen := true, released := true, waits := [] } ∧
      t.house.dev = (if s.house.dev = .failed ∨ s.house.dev = .zeroise then s.house.dev else .send) ∧ ∀ n < 1024, s.fenced n = false → (t.core n).mailbox = x.release) →
    ∃ t, exec .snapshotFreeze s = .next t ∧
      (x.frozen = false →
        (∀ i < x.count, t.tableEntry (x.page i) = s.tableEntry (x.page i) ||| 0x0800000000000000) ∧
        (∀ p < 2 ^ 25, (∀ i < x.count, x.page i ≠ p) → t.tableEntry p = s.tableEntry p) ∧
        (∀ g p, PtCache.find (t.guild g).cache p = none ∧ PtCache.find (t.walker g) p = none) ∧
        (NoneTranslated s x.has → Released t) ∧
        (¬ NoneTranslated s x.has → t.house = s.house ∧ ∃ ids, ids ≠ [] ∧ t.snapshot = some { x with frozen := true, waits := ids })) ∧
      (x.frozen = true → s.performedAll x.waits = true → Released t) ∧ (x.frozen = true → s.performedAll x.waits = false → t = s)) ∧
  (∀ (s : State) (c : Cmd) (x : Snapshot), Starts s 0x21 c → (s.house.dev = .capture ∨ s.house.dev = .send) → s.snapshot = some x →
    (∀ i < x.count, x.page i < 2 ^ 25) → Mem.wf s.tiers.bedrock = true →
    ∃ t, exec .snapshotCancel s = .next t ∧ t.snapshot = none ∧ t.house.dev = .ready ∧
      ⟨0x61, [BitVec.ofNat 64 x.step, 5, BitVec.ofNat 64 x.next]⟩ ∈ t.occurrences ∧
      (x.frozen = true → ∀ i < x.count, ptFrozen (t.tableEntry (x.page i)) = false) ∧
      (x.released = false → ∀ n < 1024, s.fenced n = false → (t.core n).mailbox = x.release) ∧
      (ringEnabled (s.cq (s.sq c.sq).cqOf).cfg = true → completion c 0 0 ∈ (t.cq (s.sq c.sq).cqOf).waiting))

/-- R292, R385 to R389: the pages of a snapshot go out in list order, from the page or its copy, while the queue of their
Drayman has room, and are frozen no longer; a write that waits for a page gets a copy made; the manifest ends the snapshot. -/
def Obligations.SnapshotPagesAndManifest : Prop :=
  (∀ (s u : State) (x x' : Snapshot) (answers : List PeerAnswer) (p a : Nat) (copy : Option Nat) (out : List (Byte × Bool)) (w : Bool × State),
    s.snapshot = some x → Scrivening s → x.released = true → x.next < x.count → p = x.page x.next → p < 2 ^ 25 →
    (s.guild (s.scrivGuild p)).scrivQueue.length < 16 → answers = s.peerAnswers (· = .house) →
    copy = (x.copies.find? (fun y => y.1 = p)).map (·.2) → a = copy.getD p * pageBytes → (s.recall 11 scrivMaster a pageBytes false).1 = false →
    out = blanked (s.readRange .house scrivMaster a pageBytes answers).1 → u = (s.readRange .house scrivMaster a pageBytes answers).2.2 →
    x' = { x with
      next := x.next + 1, entries := x.entries ++ [⟨p, out.any (·.2), digest (out.map (·.1))⟩], copies := x.copies.filter (fun y => y.1 ≠ p),
      pool := x.pool ++ copy.toList } →
    w = { u with snapshot := some x' }.sendBytes x' p x.next (dataBase x.destBase x.count x.sign + x.next * pageBytes) out →
    Mem.wf s.tiers.bedrock = true →
    ∃ t v, exec .snapshotPageSend s = .next t ∧ HouseDone v t ∧
      (w.1 = true → v.snapshot = some x' ∧ ptFrozen (v.tableEntry p) = false) ∧
      (w.1 = false → v.snapshot = none ∧ v.house.dev = devAfter s ∧
        ⟨0x61, [BitVec.ofNat 64 x.step, 4, BitVec.ofNat 64 x.next]⟩ ∈ v.occurrences)) ∧
  (∀ (s : State) (x : Snapshot), s.snapshot = some x → 16 ≤ (s.guild (s.scrivGuild (x.page x.next))).scrivQueue.length →
    ∃ t, exec .snapshotPageSend s = .next t ∧ HouseDone s t) ∧
  (∀ (s : State) (x : Snapshot) (page : BitVec 25) (answers : List PeerAnswer) (p : Nat), s.snapshot = some x → Scrivening s →
    x.frozen = true → p = page.toNat → x.has p = true → ptFrozen (s.tableEntry p) = true → x.unsent p = true →
    (∃ y ∈ s.txns, y.heldOn p = true) → answers = s.peerAnswers (· = .house) →
    (∀ f u, f ∈ x.pool → (s.stackOf f = s.stackOf p ∨ ∀ g ∈ x.pool, s.stackOf g ≠ s.stackOf p) →
      (∀ y ∈ x.pool.takeWhile (· ≠ f), s.stackOf f = s.stackOf p ∧ s.stackOf y ≠ s.stackOf p) →
      (s.recall 11 scrivMaster (p * pageBytes) pageBytes false).1 = false → (s.recall 11 scrivMaster (f * pageBytes) pageBytes true).1 = false →
      Mem.wf s.tiers.bedrock = true → u = s.readRange .house scrivMaster (p * pageBytes) pageBytes answers →
      ∃ t v w, exec (.copyOnWrite page) s = .next t ∧ HouseDone v t ∧
        w = (u.2.2.writeRange .house scrivMaster 3 (f * pageBytes) u.1).2 ∧
        v = { w with snapshot := some { x with pool := x.pool.filter (· ≠ f), copies := x.copies ++ [(p, f)] } }.preserve p ∧
        ptFrozen (v.tableEntry p) = false) ∧
    (x.pool = [] → x.counted.contains p = false →
      ∃ t v, exec (.copyOnWrite page) s = .next t ∧ HouseDone v t ∧
        CountedOne { s with snapshot := some { x with counted := x.counted ++ [p] } } v 0xC1 1)) ∧
  ∀ (s : State) (x : Snapshot), s.snapshot = some x → Scrivening s → x.released = true → x.count ≤ x.next → s.unacked = false →
    (x.manifest = true → ∃ t, exec .manifestWrite s = .next t ∧ t.snapshot = none ∧
      t.house = { s.house with lastSnapshot := x.step, dev := devAfter s } ∧
      t.occurrences = s.occurrences ++ [⟨0x60, [BitVec.ofNat 64 x.step, BitVec.ofNat 64 x.kind, BitVec.ofNat 64 x.entries.length,
        BitVec.ofNat 64 (x.entries.filter (·.poisoned)).length]⟩]) ∧
    (x.manifest = false → ∃ t, exec .manifestWrite s = .next t ∧ t = s.sendManifest x ∧
      (t.snapshot = none ∨ t.snapshot = some { x with manifest := true }))

/-- R392 to R398: a restore is checked whole before it writes; each page is loaded from the first source whose page has the
digest of its entry, or the restore is refused; each core is restored from its image, and the last ends the restore. -/
def Obligations.Restores : Prop :=
  (∀ (s : State) (c : Cmd) (answers : List PeerAnswer) (bs : List Byte) (a n : Nat) (told : State → Nat → Nat → State), Starts s 0x22 c →
    s.port.linkUp = true → Scrivening s → s.snapshot = none → s.restore = none → s.house.dev = .ready → s.allQuiescent = true →
    (∀ d < 1024, s.fenced d = false → (s.core d).allHalted = true) → a = c.q 1 63 0 →
    n = (if (leNat (((s.hostMem.bytes a 1152).drop 56).take 8)).testBit 6 then 3200 else 1152) → bs = s.hostMem.bytes a n →
    (∀ l, l ∈ linesOf a 1152 ∨ l ∈ linesOf a n → idxMem s.hostPoison l = false) → restoreFieldsOk bs a n = true → answers = s.peerAnswers (· = .house) →
    told = (fun u why p => { u with
      free := u.free + 1,
      occurrences := u.occurrences ++ [⟨0x63, [BitVec.ofNat 64 (leNat (bs.take 8)), BitVec.ofNat 64 why, BitVec.ofNat 64 p]⟩] }) →
    ∃ t v, exec .restore s = .next t ∧ HouseDone v t ∧
      (∀ r u, s.checkRestore c.num bs answers = (.inr r, u) → v = { u with
        cmds := u.cmds.filter (fun d => d.num ≠ c.num) ++ [{ c with phase := .running }], restore := some r,
        house := { u.house with dev := .restore } }) ∧
      (∀ why page u, s.checkRestore c.num bs answers = (.inl (why, page), u) →
        ∃ p, (∀ q, page = some q → p = q) ∧ EndedCmd (told u why p) v c 8 (why + p * 256)) ∧
      (leNat ((bs.drop 40).take 8) % 65536 ≠ 0 → ∃ p, EndedCmd (told s 2 p) v c 8 (2 + p * 256))) ∧
  (∀ (s u : State) (r : Restore) (y : PageEntry) (answers : List PeerAnswer) (home : Nat) (src : RestoreSource) (rest : List RestoreSource)
    (bs : List (Byte × Bool)) (Refused : State → Prop), s.restore = some r → r.entries[r.next]? = some y → Scrivening s → answers = s.peerAnswers (· = .house) →
    home = mapPage r.pageMap y.page * pageBytes → (s.recall 11 scrivMaster home pageBytes true).1 = false → r.sources = src :: rest →
    (bs, u) = s.readSource r src answers →
    Refused = (fun t => t.restore = none ∧ t.house.dev = devAfter s ∧
      ⟨0x63, [BitVec.ofNat 64 r.step, 0x0A, BitVec.ofNat 64 y.page]⟩ ∈ t.occurrences) →
    ∃ t v, exec .restorePageLoad s = .next t ∧ HouseDone v t ∧
      (digest (bs.map (·.1)) = y.digest →
        v = { (u.writeRange .house scrivMaster 3 home bs).2 with restore := some { r with next := r.next + 1 } }) ∧
      (digest (bs.map (·.1)) ≠ y.digest → rest = [] → Refused v) ∧
      (digest (bs.map (·.1)) ≠ y.digest → ∀ other more bs' u', rest = other :: more → (bs', u') = u.readSource r other answers →
        (digest (bs'.map (·.1)) = y.digest →
          v = { (u'.writeRange .house scrivMaster 3 home bs').2 with restore := some { r with next := r.next + 1, second := r.second + 1 } }) ∧
        (digest (bs'.map (·.1)) ≠ y.digest → Refused v))) ∧
  ∀ (s u : State) (c : CoreId) (r : Restore) (home : Nat) (answers : List PeerAnswer) (im : List (Byte × Bool)) (left : List Nat),
    s.restore = some r → Scrivening s → r.entries.length ≤ r.next → r.cores.contains c.val = true →
    (s.recall 11 scrivMaster (r.ctxBase + c * imageBytes) imageBytes false).1 = false → answers = s.peerAnswers (· = .house) →
    r.coreMap.find? (fun x => x.1 = c.val) = some (c.val, home) →
    im = (s.readRange .house scrivMaster (r.ctxBase + c * imageBytes) imageBytes answers).1 →
    u = (s.readRange .house scrivMaster (r.ctxBase + c * imageBytes) imageBytes answers).2.2 → left = r.cores.filter (· ≠ c.val) →
    ∃ t v k, exec (.contextRestore c) s = .next t ∧ HouseDone v t ∧ v.cores = u.cores.set home k ∧ k.mailbox = r.release ∧ k.evPending.getLsbD 4 = true ∧
      (∀ j < 32, k.notch j = BitVec.ofNat 48 (leNat (((im.map (·.1)).drop (0x40 + 8 * j)).take 6))) ∧
      (∀ n < 4, (k.thread n).pc = BitVec.ofNat 64 (leNat (((im.map (·.1)).drop (0x400 + 512 * n + 248)).take 8))) ∧
      k.prevFmts = none ∧ k.farCache = [] ∧ k.pipe.feeders = [] ∧
      (left ≠ [] → v.restore = some { r with cores := left }) ∧
      (left = [] → v.restore = none ∧ v.house.lastRestore = r.step ∧ v.house.dev = devAfter s ∧
        ⟨0x62, [BitVec.ofNat 64 r.step, BitVec.ofNat 64 r.second]⟩ ∈ v.occurrences)
end

