-- ==== Sys2Proof/Laws/Tab.lean ====
section
/-! SUPPORT. Laws of the sparse stores and byte memories: read after write, and the canonical form. -/

namespace Sys2Proof

variable {α : Type}

/-! ## Sparse stores -/

@[simp] theorem Tab.get_nil (d : α) (k : Nat) : Tab.get d [] k = d := rfl
@[simp] theorem Tab.find_nil (k : Nat) : Tab.find ([] : Tab α) k = none := rfl

/-- Reading the index just written gives the value written. -/
@[simp] theorem Tab.get_set_same (d : α) (t : Tab α) (k : Nat) (a : α) : Tab.get d (Tab.set t k a) k = a := by
  induction t with
  | nil => simp [Tab.set, Tab.get]
  | cons x t ih =>
    obtain ⟨i, b⟩ := x
    simp only [Tab.set]
    split
    · simp [Tab.get]
    · split <;> simp_all [Tab.get]

/-- A write leaves every other index alone. -/
theorem Tab.get_set_ne (d : α) (t : Tab α) {k j : Nat} (a : α) (h : j ≠ k) :
    Tab.get d (Tab.set t k a) j = Tab.get d t j := by
  induction t with
  | nil => simp only [Tab.set, Tab.get]; split <;> simp_all
  | cons x t ih =>
    obtain ⟨i, b⟩ := x
    simp only [Tab.set]
    split
    · subst_vars; simp only [Tab.get]; split <;> simp_all
    · split
      · simp only [Tab.get]
        split
        · omega
        · split
          · split
            · omega
            · split
              · rfl
              · omega
          · rfl
      · simp only [Tab.get, ih]

/-- A read after any write. -/
theorem Tab.get_set (d : α) (t : Tab α) (k j : Nat) (a : α) :
    Tab.get d (Tab.set t k a) j = if j = k then a else Tab.get d t j := by
  split
  · subst_vars; simp
  · exact Tab.get_set_ne d t a ‹_›

/-- An update changes its own index by the function. -/
@[simp] theorem Tab.get_upd_same (d : α) (t : Tab α) (k : Nat) (f : α → α) :
    Tab.get d (Tab.upd d t k f) k = f (Tab.get d t k) := by simp [Tab.upd]
/-- An update leaves every other index alone. -/
theorem Tab.get_upd_ne (d e : α) (t : Tab α) {k j : Nat} (f : α → α) (h : j ≠ k) :
    Tab.get d (Tab.upd e t k f) j = Tab.get d t j := by simp [Tab.upd, Tab.get_set_ne, h]

@[simp] theorem Tab.find_set_same (t : Tab α) (k : Nat) (a : α) : Tab.find (Tab.set t k a) k = some a := by
  induction t with
  | nil => simp [Tab.set, Tab.find]
  | cons x t ih =>
    obtain ⟨i, b⟩ := x
    simp only [Tab.set]
    split
    · simp [Tab.find]
    · split <;> simp_all [Tab.find]

/-! ## The canonical form of a store -/

theorem Tab.risingFrom_mono {lo hi : Nat} (h : lo ≤ hi) : ∀ {t : Tab α}, Tab.risingFrom hi t = true → Tab.risingFrom lo t = true
  | [], _ => rfl
  | (i, _) :: _, w => by
    simp only [Tab.risingFrom, Bool.and_eq_true, decide_eq_true_eq] at w ⊢
    exact ⟨by omega, w.2⟩

theorem Tab.risingFrom_set (k : Nat) (a : α) : ∀ {t : Tab α} {lo : Nat}, lo ≤ k → Tab.risingFrom lo t = true →
    Tab.risingFrom lo (Tab.set t k a) = true
  | [], lo, h, _ => by simp [Tab.set, Tab.risingFrom, h]
  | (i, b) :: t, lo, h, w => by
    simp only [Tab.risingFrom, Bool.and_eq_true, decide_eq_true_eq] at w
    simp only [Tab.set]
    split
    · subst_vars; simp [Tab.risingFrom, w]
    · split
      · simp only [Tab.risingFrom, Bool.and_eq_true, decide_eq_true_eq]; exact ⟨h, by omega, w.2⟩
      · simp only [Tab.risingFrom, Bool.and_eq_true, decide_eq_true_eq]
        exact ⟨w.1, Tab.risingFrom_set k a (by omega) w.2⟩

/-- A write keeps the canonical form of a store. -/
theorem Tab.wf_set (k : Nat) (a : α) {t : Tab α} (h : Tab.wf t = true) : Tab.wf (Tab.set t k a) = true :=
  Tab.risingFrom_set k a (Nat.zero_le _) h

theorem Tab.risingFrom_erase (k : Nat) : ∀ {t : Tab α} {lo : Nat}, Tab.risingFrom lo t = true →
    Tab.risingFrom lo (Tab.erase t k) = true
  | [], _, _ => rfl
  | (i, b) :: t, lo, w => by
    simp only [Tab.risingFrom, Bool.and_eq_true, decide_eq_true_eq] at w
    simp only [Tab.erase]
    split
    · exact Tab.risingFrom_mono (by omega) w.2
    · split
      · simp [Tab.risingFrom, w]
      · simp only [Tab.risingFrom, Bool.and_eq_true, decide_eq_true_eq]
        exact ⟨w.1, Tab.risingFrom_erase k w.2⟩

/-- Removing an index keeps the canonical form of a store. -/
theorem Tab.wf_erase (k : Nat) {t : Tab α} (h : Tab.wf t = true) : Tab.wf (Tab.erase t k) = true :=
  Tab.risingFrom_erase k h

theorem Tab.get_of_lt (d : α) : ∀ {t : Tab α} {lo k : Nat}, Tab.risingFrom lo t = true → k < lo → Tab.get d t k = d
  | [], _, _, _, _ => rfl
  | (i, b) :: t, lo, k, w, h => by
    simp only [Tab.risingFrom, Bool.and_eq_true, decide_eq_true_eq] at w
    simp only [Tab.get]
    split
    · omega
    · split
      · rfl
      · omega

/-- A removed index reads as an unlisted one, every other as before. -/
theorem Tab.get_erase (d : α) (k j : Nat) : ∀ {t : Tab α} {lo : Nat}, Tab.risingFrom lo t = true →
    Tab.get d (Tab.erase t k) j = if j = k then d else Tab.get d t j
  | [], _, _ => by simp [Tab.erase]
  | (i, b) :: t, lo, w => by
    simp only [Tab.risingFrom, Bool.and_eq_true, decide_eq_true_eq] at w
    simp only [Tab.erase]
    split
    · subst_vars
      by_cases hj : j = i
      · simp [hj, Tab.get_of_lt d w.2 (Nat.lt_succ_self i)]
      · simp only [hj, if_false, Tab.get]
        split
        · omega
        · split
          · exact Tab.get_of_lt d w.2 (by omega)
          · rfl
    · split
      · by_cases hj : j = k
        · subst_vars; simp only [Tab.get]; split
          · omega
          · simp_all
        · simp [hj]
      · have ih := Tab.get_erase d k j w.2
        simp only [Tab.get, ih]
        by_cases hj : j = k
        · subst_vars; simp [*]
        · simp [hj]

/-! ## Byte memories -/

theorem Tab.all_set (p : Nat × α → Bool) (k : Nat) (a : α) (hk : p (k, a) = true) : ∀ {t : Tab α}, t.all p = true →
    (Tab.set t k a).all p = true
  | [], _ => by simp [Tab.set, hk]
  | (i, b) :: t, w => by
    simp only [List.all_cons, Bool.and_eq_true] at w
    simp only [Tab.set]
    split
    · simp [hk, w.2]
    · split
      · simp [hk, w.1, w.2]
      · simp [w.1, Tab.all_set p k a hk w.2]
theorem Tab.all_erase (p : Nat × α → Bool) (k : Nat) : ∀ {t : Tab α}, t.all p = true → (Tab.erase t k).all p = true
  | [], _ => rfl
  | (i, b) :: t, w => by
    simp only [List.all_cons, Bool.and_eq_true] at w
    simp only [Tab.erase]
    split
    · exact w.2
    · split
      · simp [w.1, w.2]
      · simp [w.1, Tab.all_erase p k w.2]

/-- The empty memory is canonical. -/
@[simp] theorem Mem.wf_nil : Mem.wf [] = true := rfl

/-- A byte write keeps the canonical form. -/
theorem Mem.wf_wr {m : Mem} (a : Nat) (b : Byte) (h : Mem.wf m = true) : Mem.wf (m.wr a b) = true := by
  simp only [Mem.wf, Bool.and_eq_true] at h ⊢
  unfold Mem.wr
  split
  · exact ⟨Tab.wf_erase a h.1, Tab.all_erase _ a h.2⟩
  · exact ⟨Tab.wf_set a b h.1, Tab.all_set _ a b (by simpa using ‹¬b = 0›) h.2⟩

/-- Writing bytes keeps the canonical form. -/
theorem Mem.wf_wrBytes : ∀ (bs : List Byte) {m : Mem} (a : Nat), Mem.wf m = true → Mem.wf (m.wrBytes a bs) = true
  | [], _, _, h => h
  | b :: bs, _, a, h => Mem.wf_wrBytes bs (a + 1) (Mem.wf_wr a b h)

/-- Writing a number keeps the canonical form. -/
theorem Mem.wf_wrLe {m : Mem} (a n v : Nat) (h : Mem.wf m = true) : Mem.wf (m.wrLe a n v) = true := Mem.wf_wrBytes _ a h

/-- A read after a byte write to a canonical memory. -/
theorem Mem.rd_wr {m : Mem} (a j : Nat) (b : Byte) (h : Mem.wf m = true) :
    (m.wr a b).rd j = if j = a then b else m.rd j := by
  simp only [Mem.wf, Bool.and_eq_true] at h
  unfold Mem.wr Mem.rd
  split
  · rw [Tab.get_erase 0 a j h.1]; simp_all
  · exact Tab.get_set 0 m a j b

/-- Bytes outside those written read as before. -/
theorem Mem.rd_wrBytes_ne : ∀ (bs : List Byte) {m : Mem} (a j : Nat), Mem.wf m = true → (j < a ∨ a + bs.length ≤ j) →
    (m.wrBytes a bs).rd j = m.rd j
  | [], _, _, _, _, _ => rfl
  | b :: bs, m, a, j, h, hj => by
    simp only [List.length_cons] at hj
    rw [Mem.wrBytes, Mem.rd_wrBytes_ne bs (a + 1) j (Mem.wf_wr a b h) (by omega), Mem.rd_wr a j b h, if_neg (by omega)]

/-- Bytes written read as written. -/
theorem Mem.rd_wrBytes_at : ∀ (bs : List Byte) {m : Mem} (a i : Nat), Mem.wf m = true → (hi : i < bs.length) →
    (m.wrBytes a bs).rd (a + i) = bs[i]
  | b :: bs, m, a, 0, h, _ => by
    show ((m.wr a b).wrBytes (a + 1) bs).rd a = b
    rw [Mem.rd_wrBytes_ne bs (a + 1) a (Mem.wf_wr a b h) (by omega), Mem.rd_wr a a b h, if_pos rfl]
  | b :: bs, m, a, i + 1, h, hi => by
    simp only [List.length_cons] at hi
    rw [Mem.wrBytes, show a + (i + 1) = a + 1 + i by omega, Mem.rd_wrBytes_at bs (a + 1) i (Mem.wf_wr a b h) (by omega)]
    rfl

/-- The bytes of a number: as many as asked for. -/
@[simp] theorem natLe_length (n : Nat) : ∀ v, (natLe n v).length = n := by
  induction n with
  | zero => intro v; rfl
  | succ n ih => intro v; simp [natLe, ih]

/-- The bytes of a number read back as the number, cut to their width. -/
theorem leNat_natLe (n : Nat) : ∀ v, leNat (natLe n v) = v % 2 ^ (8 * n) := by
  induction n with
  | zero => intro v; simp [natLe, leNat, Nat.mod_one]
  | succ n ih =>
    intro v
    simp only [natLe, leNat, ih, BitVec.toNat_ofNat]
    rw [show 8 * (n + 1) = 8 + 8 * n by ring, Nat.pow_add, Nat.mod_mul]

/-- Reading bytes just written. -/
theorem Mem.bytes_wrBytes (bs : List Byte) {m : Mem} (a : Nat) (h : Mem.wf m = true) :
    (m.wrBytes a bs).bytes a bs.length = bs := by
  apply List.ext_getElem
  · simp [Mem.bytes]
  · intro i h1 h2
    simp only [Mem.bytes, List.getElem_map, List.getElem_range]
    exact Mem.rd_wrBytes_at bs a i h h2

/-- A number just written reads back, cut to its width. -/
theorem Mem.le_wrLe {m : Mem} (a n v : Nat) (h : Mem.wf m = true) : (m.wrLe a n v).le a n = v % 2 ^ (8 * n) := by
  have := Mem.bytes_wrBytes (natLe n v) a h
  rw [natLe_length] at this
  simp only [Mem.le, Mem.wrLe, this, leNat_natLe]

end Sys2Proof
end

