-- ==== Sys2Proof/Laws/CoreState.lean ====
section
/-! SUPPORT. What each named update of a core's state leaves as it was, field by field, and what it leaves in the field it
changes. -/

namespace Sys2Proof.Machine

/-! ### setThread -/

@[simp] theorem CoreSt.setThread_ls (k : CoreSt) (t : Nat) (x : Thread) : (k.setThread t x).ls = k.ls := rfl
@[simp] theorem CoreSt.setThread_trf (k : CoreSt) (t : Nat) (x : Thread) : (k.setThread t x).trf = k.trf := rfl
@[simp] theorem CoreSt.setThread_tiles (k : CoreSt) (t : Nat) (x : Thread) : (k.setThread t x).tiles = k.tiles := rfl
@[simp] theorem CoreSt.setThread_splitTiles (k : CoreSt) (t : Nat) (x : Thread) : (k.setThread t x).splitTiles = k.splitTiles := rfl
@[simp] theorem CoreSt.setThread_pattern (k : CoreSt) (t : Nat) (x : Thread) : (k.setThread t x).pattern = k.pattern := rfl
@[simp] theorem CoreSt.setThread_ledgers (k : CoreSt) (t : Nat) (x : Thread) : (k.setThread t x).ledgers = k.ledgers := rfl
@[simp] theorem CoreSt.setThread_notches (k : CoreSt) (t : Nat) (x : Thread) : (k.setThread t x).notches = k.notches := rfl
@[simp] theorem CoreSt.setThread_liveSlots (k : CoreSt) (t : Nat) (x : Thread) : (k.setThread t x).liveSlots = k.liveSlots := rfl
@[simp] theorem CoreSt.setThread_shadow (k : CoreSt) (t : Nat) (x : Thread) : (k.setThread t x).shadow = k.shadow := rfl
@[simp] theorem CoreSt.setThread_shadowPend (k : CoreSt) (t : Nat) (x : Thread) : (k.setThread t x).shadowPend = k.shadowPend := rfl
@[simp] theorem CoreSt.setThread_descs (k : CoreSt) (t : Nat) (x : Thread) : (k.setThread t x).descs = k.descs := rfl
@[simp] theorem CoreSt.setThread_invQueue (k : CoreSt) (t : Nat) (x : Thread) : (k.setThread t x).invQueue = k.invQueue := rfl
@[simp] theorem CoreSt.setThread_splitting (k : CoreSt) (t : Nat) (x : Thread) : (k.setThread t x).splitting = k.splitting := rfl
@[simp] theorem CoreSt.setThread_flights (k : CoreSt) (t : Nat) (x : Thread) : (k.setThread t x).flights = k.flights := rfl
@[simp] theorem CoreSt.setThread_endedAhead (k : CoreSt) (t : Nat) (x : Thread) : (k.setThread t x).endedAhead = k.endedAhead := rfl
@[simp] theorem CoreSt.setThread_queues (k : CoreSt) (t : Nat) (x : Thread) : (k.setThread t x).queues = k.queues := rfl
@[simp] theorem CoreSt.setThread_running (k : CoreSt) (t : Nat) (x : Thread) : (k.setThread t x).running = k.running := rfl
@[simp] theorem CoreSt.setThread_scoreboard (k : CoreSt) (t : Nat) (x : Thread) : (k.setThread t x).scoreboard = k.scoreboard := rfl
@[simp] theorem CoreSt.setThread_windows (k : CoreSt) (t : Nat) (x : Thread) : (k.setThread t x).windows = k.windows := rfl
@[simp] theorem CoreSt.setThread_nextUid (k : CoreSt) (t : Nat) (x : Thread) : (k.setThread t x).nextUid = k.nextUid := rfl
@[simp] theorem CoreSt.setThread_queueMode (k : CoreSt) (t : Nat) (x : Thread) : (k.setThread t x).queueMode = k.queueMode := rfl
@[simp] theorem CoreSt.setThread_queueModeWanted (k : CoreSt) (t : Nat) (x : Thread) : (k.setThread t x).queueModeWanted = k.queueModeWanted := rfl
@[simp] theorem CoreSt.setThread_frozen (k : CoreSt) (t : Nat) (x : Thread) : (k.setThread t x).frozen = k.frozen := rfl
@[simp] theorem CoreSt.setThread_stalemateCfg (k : CoreSt) (t : Nat) (x : Thread) : (k.setThread t x).stalemateCfg = k.stalemateCfg := rfl
@[simp] theorem CoreSt.setThread_imem (k : CoreSt) (t : Nat) (x : Thread) : (k.setThread t x).imem = k.imem := rfl
@[simp] theorem CoreSt.setThread_dmem (k : CoreSt) (t : Nat) (x : Thread) : (k.setThread t x).dmem = k.dmem := rfl
@[simp] theorem CoreSt.setThread_farCache (k : CoreSt) (t : Nat) (x : Thread) : (k.setThread t x).farCache = k.farCache := rfl
@[simp] theorem CoreSt.setThread_lastIssue (k : CoreSt) (t : Nat) (x : Thread) : (k.setThread t x).lastIssue = k.lastIssue := rfl
@[simp] theorem CoreSt.setThread_yielded (k : CoreSt) (t : Nat) (x : Thread) : (k.setThread t x).yielded = k.yielded := rfl
@[simp] theorem CoreSt.setThread_cycle (k : CoreSt) (t : Nat) (x : Thread) : (k.setThread t x).cycle = k.cycle := rfl
@[simp] theorem CoreSt.setThread_invIssued (k : CoreSt) (t : Nat) (x : Thread) : (k.setThread t x).invIssued = k.invIssued := rfl
@[simp] theorem CoreSt.setThread_invDone (k : CoreSt) (t : Nat) (x : Thread) : (k.setThread t x).invDone = k.invDone := rfl
@[simp] theorem CoreSt.setThread_invFaults (k : CoreSt) (t : Nat) (x : Thread) : (k.setThread t x).invFaults = k.invFaults := rfl
@[simp] theorem CoreSt.setThread_invLastFault (k : CoreSt) (t : Nat) (x : Thread) : (k.setThread t x).invLastFault = k.invLastFault := rfl
@[simp] theorem CoreSt.setThread_evPending (k : CoreSt) (t : Nat) (x : Thread) : (k.setThread t x).evPending = k.evPending := rfl
@[simp] theorem CoreSt.setThread_mailbox (k : CoreSt) (t : Nat) (x : Thread) : (k.setThread t x).mailbox = k.mailbox := rfl
@[simp] theorem CoreSt.setThread_nfCount (k : CoreSt) (t : Nat) (x : Thread) : (k.setThread t x).nfCount = k.nfCount := rfl
@[simp] theorem CoreSt.setThread_nfLimit (k : CoreSt) (t : Nat) (x : Thread) : (k.setThread t x).nfLimit = k.nfLimit := rfl
@[simp] theorem CoreSt.setThread_spikeCount (k : CoreSt) (t : Nat) (x : Thread) : (k.setThread t x).spikeCount = k.spikeCount := rfl
@[simp] theorem CoreSt.setThread_spikeLimit (k : CoreSt) (t : Nat) (x : Thread) : (k.setThread t x).spikeLimit = k.spikeLimit := rfl
@[simp] theorem CoreSt.setThread_reducer (k : CoreSt) (t : Nat) (x : Thread) : (k.setThread t x).reducer = k.reducer := rfl
@[simp] theorem CoreSt.setThread_hist (k : CoreSt) (t : Nat) (x : Thread) : (k.setThread t x).hist = k.hist := rfl
@[simp] theorem CoreSt.setThread_assayer (k : CoreSt) (t : Nat) (x : Thread) : (k.setThread t x).assayer = k.assayer := rfl
@[simp] theorem CoreSt.setThread_lanes (k : CoreSt) (t : Nat) (x : Thread) : (k.setThread t x).lanes = k.lanes := rfl
@[simp] theorem CoreSt.setThread_prevFmts (k : CoreSt) (t : Nat) (x : Thread) : (k.setThread t x).prevFmts = k.prevFmts := rfl
@[simp] theorem CoreSt.setThread_pipe (k : CoreSt) (t : Nat) (x : Thread) : (k.setThread t x).pipe = k.pipe := rfl
@[simp] theorem CoreSt.setThread_met (k : CoreSt) (t : Nat) (x : Thread) : (k.setThread t x).met = k.met := rfl
@[simp] theorem CoreSt.setThread_lastThread (k : CoreSt) (t : Nat) (x : Thread) : (k.setThread t x).lastThread = k.lastThread := rfl
@[simp] theorem CoreSt.setThread_note (k : CoreSt) (t : Nat) (x : Thread) : (k.setThread t x).note = k.note := rfl
@[simp] theorem CoreSt.setThread_calm (k : CoreSt) (t : Nat) (x : Thread) : (k.setThread t x).calm = k.calm := rfl
@[simp] theorem CoreSt.setThread_gauger (k : CoreSt) (t : Nat) (x : Thread) : (k.setThread t x).gauger = k.gauger := rfl

/-! ### setQueue -/

@[simp] theorem CoreSt.setQueue_ls (k : CoreSt) (g : Engine) (q : List MicroOp) : (k.setQueue g q).ls = k.ls := rfl
@[simp] theorem CoreSt.setQueue_trf (k : CoreSt) (g : Engine) (q : List MicroOp) : (k.setQueue g q).trf = k.trf := rfl
@[simp] theorem CoreSt.setQueue_tiles (k : CoreSt) (g : Engine) (q : List MicroOp) : (k.setQueue g q).tiles = k.tiles := rfl
@[simp] theorem CoreSt.setQueue_splitTiles (k : CoreSt) (g : Engine) (q : List MicroOp) : (k.setQueue g q).splitTiles = k.splitTiles := rfl
@[simp] theorem CoreSt.setQueue_pattern (k : CoreSt) (g : Engine) (q : List MicroOp) : (k.setQueue g q).pattern = k.pattern := rfl
@[simp] theorem CoreSt.setQueue_ledgers (k : CoreSt) (g : Engine) (q : List MicroOp) : (k.setQueue g q).ledgers = k.ledgers := rfl
@[simp] theorem CoreSt.setQueue_notches (k : CoreSt) (g : Engine) (q : List MicroOp) : (k.setQueue g q).notches = k.notches := rfl
@[simp] theorem CoreSt.setQueue_liveSlots (k : CoreSt) (g : Engine) (q : List MicroOp) : (k.setQueue g q).liveSlots = k.liveSlots := rfl
@[simp] theorem CoreSt.setQueue_shadow (k : CoreSt) (g : Engine) (q : List MicroOp) : (k.setQueue g q).shadow = k.shadow := rfl
@[simp] theorem CoreSt.setQueue_shadowPend (k : CoreSt) (g : Engine) (q : List MicroOp) : (k.setQueue g q).shadowPend = k.shadowPend := rfl
@[simp] theorem CoreSt.setQueue_descs (k : CoreSt) (g : Engine) (q : List MicroOp) : (k.setQueue g q).descs = k.descs := rfl
@[simp] theorem CoreSt.setQueue_invQueue (k : CoreSt) (g : Engine) (q : List MicroOp) : (k.setQueue g q).invQueue = k.invQueue := rfl
@[simp] theorem CoreSt.setQueue_splitting (k : CoreSt) (g : Engine) (q : List MicroOp) : (k.setQueue g q).splitting = k.splitting := rfl
@[simp] theorem CoreSt.setQueue_flights (k : CoreSt) (g : Engine) (q : List MicroOp) : (k.setQueue g q).flights = k.flights := rfl
@[simp] theorem CoreSt.setQueue_endedAhead (k : CoreSt) (g : Engine) (q : List MicroOp) : (k.setQueue g q).endedAhead = k.endedAhead := rfl
@[simp] theorem CoreSt.setQueue_running (k : CoreSt) (g : Engine) (q : List MicroOp) : (k.setQueue g q).running = k.running := rfl
@[simp] theorem CoreSt.setQueue_scoreboard (k : CoreSt) (g : Engine) (q : List MicroOp) : (k.setQueue g q).scoreboard = k.scoreboard := rfl
@[simp] theorem CoreSt.setQueue_windows (k : CoreSt) (g : Engine) (q : List MicroOp) : (k.setQueue g q).windows = k.windows := rfl
@[simp] theorem CoreSt.setQueue_nextUid (k : CoreSt) (g : Engine) (q : List MicroOp) : (k.setQueue g q).nextUid = k.nextUid := rfl
@[simp] theorem CoreSt.setQueue_queueMode (k : CoreSt) (g : Engine) (q : List MicroOp) : (k.setQueue g q).queueMode = k.queueMode := rfl
@[simp] theorem CoreSt.setQueue_queueModeWanted (k : CoreSt) (g : Engine) (q : List MicroOp) : (k.setQueue g q).queueModeWanted = k.queueModeWanted := rfl
@[simp] theorem CoreSt.setQueue_frozen (k : CoreSt) (g : Engine) (q : List MicroOp) : (k.setQueue g q).frozen = k.frozen := rfl
@[simp] theorem CoreSt.setQueue_stalemateCfg (k : CoreSt) (g : Engine) (q : List MicroOp) : (k.setQueue g q).stalemateCfg = k.stalemateCfg := rfl
@[simp] theorem CoreSt.setQueue_imem (k : CoreSt) (g : Engine) (q : List MicroOp) : (k.setQueue g q).imem = k.imem := rfl
@[simp] theorem CoreSt.setQueue_dmem (k : CoreSt) (g : Engine) (q : List MicroOp) : (k.setQueue g q).dmem = k.dmem := rfl
@[simp] theorem CoreSt.setQueue_farCache (k : CoreSt) (g : Engine) (q : List MicroOp) : (k.setQueue g q).farCache = k.farCache := rfl
@[simp] theorem CoreSt.setQueue_threads (k : CoreSt) (g : Engine) (q : List MicroOp) : (k.setQueue g q).threads = k.threads := rfl
@[simp] theorem CoreSt.setQueue_lastIssue (k : CoreSt) (g : Engine) (q : List MicroOp) : (k.setQueue g q).lastIssue = k.lastIssue := rfl
@[simp] theorem CoreSt.setQueue_yielded (k : CoreSt) (g : Engine) (q : List MicroOp) : (k.setQueue g q).yielded = k.yielded := rfl
@[simp] theorem CoreSt.setQueue_cycle (k : CoreSt) (g : Engine) (q : List MicroOp) : (k.setQueue g q).cycle = k.cycle := rfl
@[simp] theorem CoreSt.setQueue_invIssued (k : CoreSt) (g : Engine) (q : List MicroOp) : (k.setQueue g q).invIssued = k.invIssued := rfl
@[simp] theorem CoreSt.setQueue_invDone (k : CoreSt) (g : Engine) (q : List MicroOp) : (k.setQueue g q).invDone = k.invDone := rfl
@[simp] theorem CoreSt.setQueue_invFaults (k : CoreSt) (g : Engine) (q : List MicroOp) : (k.setQueue g q).invFaults = k.invFaults := rfl
@[simp] theorem CoreSt.setQueue_invLastFault (k : CoreSt) (g : Engine) (q : List MicroOp) : (k.setQueue g q).invLastFault = k.invLastFault := rfl
@[simp] theorem CoreSt.setQueue_evPending (k : CoreSt) (g : Engine) (q : List MicroOp) : (k.setQueue g q).evPending = k.evPending := rfl
@[simp] theorem CoreSt.setQueue_mailbox (k : CoreSt) (g : Engine) (q : List MicroOp) : (k.setQueue g q).mailbox = k.mailbox := rfl
@[simp] theorem CoreSt.setQueue_nfCount (k : CoreSt) (g : Engine) (q : List MicroOp) : (k.setQueue g q).nfCount = k.nfCount := rfl
@[simp] theorem CoreSt.setQueue_nfLimit (k : CoreSt) (g : Engine) (q : List MicroOp) : (k.setQueue g q).nfLimit = k.nfLimit := rfl
@[simp] theorem CoreSt.setQueue_spikeCount (k : CoreSt) (g : Engine) (q : List MicroOp) : (k.setQueue g q).spikeCount = k.spikeCount := rfl
@[simp] theorem CoreSt.setQueue_spikeLimit (k : CoreSt) (g : Engine) (q : List MicroOp) : (k.setQueue g q).spikeLimit = k.spikeLimit := rfl
@[simp] theorem CoreSt.setQueue_reducer (k : CoreSt) (g : Engine) (q : List MicroOp) : (k.setQueue g q).reducer = k.reducer := rfl
@[simp] theorem CoreSt.setQueue_hist (k : CoreSt) (g : Engine) (q : List MicroOp) : (k.setQueue g q).hist = k.hist := rfl
@[simp] theorem CoreSt.setQueue_assayer (k : CoreSt) (g : Engine) (q : List MicroOp) : (k.setQueue g q).assayer = k.assayer := rfl
@[simp] theorem CoreSt.setQueue_lanes (k : CoreSt) (g : Engine) (q : List MicroOp) : (k.setQueue g q).lanes = k.lanes := rfl
@[simp] theorem CoreSt.setQueue_prevFmts (k : CoreSt) (g : Engine) (q : List MicroOp) : (k.setQueue g q).prevFmts = k.prevFmts := rfl
@[simp] theorem CoreSt.setQueue_pipe (k : CoreSt) (g : Engine) (q : List MicroOp) : (k.setQueue g q).pipe = k.pipe := rfl
@[simp] theorem CoreSt.setQueue_met (k : CoreSt) (g : Engine) (q : List MicroOp) : (k.setQueue g q).met = k.met := rfl
@[simp] theorem CoreSt.setQueue_lastThread (k : CoreSt) (g : Engine) (q : List MicroOp) : (k.setQueue g q).lastThread = k.lastThread := rfl
@[simp] theorem CoreSt.setQueue_note (k : CoreSt) (g : Engine) (q : List MicroOp) : (k.setQueue g q).note = k.note := rfl
@[simp] theorem CoreSt.setQueue_calm (k : CoreSt) (g : Engine) (q : List MicroOp) : (k.setQueue g q).calm = k.calm := rfl
@[simp] theorem CoreSt.setQueue_gauger (k : CoreSt) (g : Engine) (q : List MicroOp) : (k.setQueue g q).gauger = k.gauger := rfl

/-! ### setActive -/

@[simp] theorem CoreSt.setActive_ls (k : CoreSt) (g : Engine) (q : List Running) : (k.setActive g q).ls = k.ls := rfl
@[simp] theorem CoreSt.setActive_trf (k : CoreSt) (g : Engine) (q : List Running) : (k.setActive g q).trf = k.trf := rfl
@[simp] theorem CoreSt.setActive_tiles (k : CoreSt) (g : Engine) (q : List Running) : (k.setActive g q).tiles = k.tiles := rfl
@[simp] theorem CoreSt.setActive_splitTiles (k : CoreSt) (g : Engine) (q : List Running) : (k.setActive g q).splitTiles = k.splitTiles := rfl
@[simp] theorem CoreSt.setActive_pattern (k : CoreSt) (g : Engine) (q : List Running) : (k.setActive g q).pattern = k.pattern := rfl
@[simp] theorem CoreSt.setActive_ledgers (k : CoreSt) (g : Engine) (q : List Running) : (k.setActive g q).ledgers = k.ledgers := rfl
@[simp] theorem CoreSt.setActive_notches (k : CoreSt) (g : Engine) (q : List Running) : (k.setActive g q).notches = k.notches := rfl
@[simp] theorem CoreSt.setActive_liveSlots (k : CoreSt) (g : Engine) (q : List Running) : (k.setActive g q).liveSlots = k.liveSlots := rfl
@[simp] theorem CoreSt.setActive_shadow (k : CoreSt) (g : Engine) (q : List Running) : (k.setActive g q).shadow = k.shadow := rfl
@[simp] theorem CoreSt.setActive_shadowPend (k : CoreSt) (g : Engine) (q : List Running) : (k.setActive g q).shadowPend = k.shadowPend := rfl
@[simp] theorem CoreSt.setActive_descs (k : CoreSt) (g : Engine) (q : List Running) : (k.setActive g q).descs = k.descs := rfl
@[simp] theorem CoreSt.setActive_invQueue (k : CoreSt) (g : Engine) (q : List Running) : (k.setActive g q).invQueue = k.invQueue := rfl
@[simp] theorem CoreSt.setActive_splitting (k : CoreSt) (g : Engine) (q : List Running) : (k.setActive g q).splitting = k.splitting := rfl
@[simp] theorem CoreSt.setActive_flights (k : CoreSt) (g : Engine) (q : List Running) : (k.setActive g q).flights = k.flights := rfl
@[simp] theorem CoreSt.setActive_endedAhead (k : CoreSt) (g : Engine) (q : List Running) : (k.setActive g q).endedAhead = k.endedAhead := rfl
@[simp] theorem CoreSt.setActive_queues (k : CoreSt) (g : Engine) (q : List Running) : (k.setActive g q).queues = k.queues := rfl
@[simp] theorem CoreSt.setActive_scoreboard (k : CoreSt) (g : Engine) (q : List Running) : (k.setActive g q).scoreboard = k.scoreboard := rfl
@[simp] theorem CoreSt.setActive_windows (k : CoreSt) (g : Engine) (q : List Running) : (k.setActive g q).windows = k.windows := rfl
@[simp] theorem CoreSt.setActive_nextUid (k : CoreSt) (g : Engine) (q : List Running) : (k.setActive g q).nextUid = k.nextUid := rfl
@[simp] theorem CoreSt.setActive_queueMode (k : CoreSt) (g : Engine) (q : List Running) : (k.setActive g q).queueMode = k.queueMode := rfl
@[simp] theorem CoreSt.setActive_queueModeWanted (k : CoreSt) (g : Engine) (q : List Running) : (k.setActive g q).queueModeWanted = k.queueModeWanted := rfl
@[simp] theorem CoreSt.setActive_frozen (k : CoreSt) (g : Engine) (q : List Running) : (k.setActive g q).frozen = k.frozen := rfl
@[simp] theorem CoreSt.setActive_stalemateCfg (k : CoreSt) (g : Engine) (q : List Running) : (k.setActive g q).stalemateCfg = k.stalemateCfg := rfl
@[simp] theorem CoreSt.setActive_imem (k : CoreSt) (g : Engine) (q : List Running) : (k.setActive g q).imem = k.imem := rfl
@[simp] theorem CoreSt.setActive_dmem (k : CoreSt) (g : Engine) (q : List Running) : (k.setActive g q).dmem = k.dmem := rfl
@[simp] theorem CoreSt.setActive_farCache (k : CoreSt) (g : Engine) (q : List Running) : (k.setActive g q).farCache = k.farCache := rfl
@[simp] theorem CoreSt.setActive_threads (k : CoreSt) (g : Engine) (q : List Running) : (k.setActive g q).threads = k.threads := rfl
@[simp] theorem CoreSt.setActive_lastIssue (k : CoreSt) (g : Engine) (q : List Running) : (k.setActive g q).lastIssue = k.lastIssue := rfl
@[simp] theorem CoreSt.setActive_yielded (k : CoreSt) (g : Engine) (q : List Running) : (k.setActive g q).yielded = k.yielded := rfl
@[simp] theorem CoreSt.setActive_cycle (k : CoreSt) (g : Engine) (q : List Running) : (k.setActive g q).cycle = k.cycle := rfl
@[simp] theorem CoreSt.setActive_invIssued (k : CoreSt) (g : Engine) (q : List Running) : (k.setActive g q).invIssued = k.invIssued := rfl
@[simp] theorem CoreSt.setActive_invDone (k : CoreSt) (g : Engine) (q : List Running) : (k.setActive g q).invDone = k.invDone := rfl
@[simp] theorem CoreSt.setActive_invFaults (k : CoreSt) (g : Engine) (q : List Running) : (k.setActive g q).invFaults = k.invFaults := rfl
@[simp] theorem CoreSt.setActive_invLastFault (k : CoreSt) (g : Engine) (q : List Running) : (k.setActive g q).invLastFault = k.invLastFault := rfl
@[simp] theorem CoreSt.setActive_evPending (k : CoreSt) (g : Engine) (q : List Running) : (k.setActive g q).evPending = k.evPending := rfl
@[simp] theorem CoreSt.setActive_mailbox (k : CoreSt) (g : Engine) (q : List Running) : (k.setActive g q).mailbox = k.mailbox := rfl
@[simp] theorem CoreSt.setActive_nfCount (k : CoreSt) (g : Engine) (q : List Running) : (k.setActive g q).nfCount = k.nfCount := rfl
@[simp] theorem CoreSt.setActive_nfLimit (k : CoreSt) (g : Engine) (q : List Running) : (k.setActive g q).nfLimit = k.nfLimit := rfl
@[simp] theorem CoreSt.setActive_spikeCount (k : CoreSt) (g : Engine) (q : List Running) : (k.setActive g q).spikeCount = k.spikeCount := rfl
@[simp] theorem CoreSt.setActive_spikeLimit (k : CoreSt) (g : Engine) (q : List Running) : (k.setActive g q).spikeLimit = k.spikeLimit := rfl
@[simp] theorem CoreSt.setActive_reducer (k : CoreSt) (g : Engine) (q : List Running) : (k.setActive g q).reducer = k.reducer := rfl
@[simp] theorem CoreSt.setActive_hist (k : CoreSt) (g : Engine) (q : List Running) : (k.setActive g q).hist = k.hist := rfl
@[simp] theorem CoreSt.setActive_assayer (k : CoreSt) (g : Engine) (q : List Running) : (k.setActive g q).assayer = k.assayer := rfl
@[simp] theorem CoreSt.setActive_lanes (k : CoreSt) (g : Engine) (q : List Running) : (k.setActive g q).lanes = k.lanes := rfl
@[simp] theorem CoreSt.setActive_prevFmts (k : CoreSt) (g : Engine) (q : List Running) : (k.setActive g q).prevFmts = k.prevFmts := rfl
@[simp] theorem CoreSt.setActive_pipe (k : CoreSt) (g : Engine) (q : List Running) : (k.setActive g q).pipe = k.pipe := rfl
@[simp] theorem CoreSt.setActive_met (k : CoreSt) (g : Engine) (q : List Running) : (k.setActive g q).met = k.met := rfl
@[simp] theorem CoreSt.setActive_lastThread (k : CoreSt) (g : Engine) (q : List Running) : (k.setActive g q).lastThread = k.lastThread := rfl
@[simp] theorem CoreSt.setActive_note (k : CoreSt) (g : Engine) (q : List Running) : (k.setActive g q).note = k.note := rfl
@[simp] theorem CoreSt.setActive_calm (k : CoreSt) (g : Engine) (q : List Running) : (k.setActive g q).calm = k.calm := rfl
@[simp] theorem CoreSt.setActive_gauger (k : CoreSt) (g : Engine) (q : List Running) : (k.setActive g q).gauger = k.gauger := rfl

/-! ### setLedger -/

@[simp] theorem CoreSt.setLedger_ls (k : CoreSt) (a b c : Nat) (l : Ledger) : (k.setLedger a b c l).ls = k.ls := rfl
@[simp] theorem CoreSt.setLedger_trf (k : CoreSt) (a b c : Nat) (l : Ledger) : (k.setLedger a b c l).trf = k.trf := rfl
@[simp] theorem CoreSt.setLedger_tiles (k : CoreSt) (a b c : Nat) (l : Ledger) : (k.setLedger a b c l).tiles = k.tiles := rfl
@[simp] theorem CoreSt.setLedger_splitTiles (k : CoreSt) (a b c : Nat) (l : Ledger) : (k.setLedger a b c l).splitTiles = k.splitTiles := rfl
@[simp] theorem CoreSt.setLedger_pattern (k : CoreSt) (a b c : Nat) (l : Ledger) : (k.setLedger a b c l).pattern = k.pattern := rfl
@[simp] theorem CoreSt.setLedger_notches (k : CoreSt) (a b c : Nat) (l : Ledger) : (k.setLedger a b c l).notches = k.notches := rfl
@[simp] theorem CoreSt.setLedger_liveSlots (k : CoreSt) (a b c : Nat) (l : Ledger) : (k.setLedger a b c l).liveSlots = k.liveSlots := rfl
@[simp] theorem CoreSt.setLedger_shadow (k : CoreSt) (a b c : Nat) (l : Ledger) : (k.setLedger a b c l).shadow = k.shadow := rfl
@[simp] theorem CoreSt.setLedger_shadowPend (k : CoreSt) (a b c : Nat) (l : Ledger) : (k.setLedger a b c l).shadowPend = k.shadowPend := rfl
@[simp] theorem CoreSt.setLedger_descs (k : CoreSt) (a b c : Nat) (l : Ledger) : (k.setLedger a b c l).descs = k.descs := rfl
@[simp] theorem CoreSt.setLedger_invQueue (k : CoreSt) (a b c : Nat) (l : Ledger) : (k.setLedger a b c l).invQueue = k.invQueue := rfl
@[simp] theorem CoreSt.setLedger_splitting (k : CoreSt) (a b c : Nat) (l : Ledger) : (k.setLedger a b c l).splitting = k.splitting := rfl
@[simp] theorem CoreSt.setLedger_flights (k : CoreSt) (a b c : Nat) (l : Ledger) : (k.setLedger a b c l).flights = k.flights := rfl
@[simp] theorem CoreSt.setLedger_endedAhead (k : CoreSt) (a b c : Nat) (l : Ledger) : (k.setLedger a b c l).endedAhead = k.endedAhead := rfl
@[simp] theorem CoreSt.setLedger_queues (k : CoreSt) (a b c : Nat) (l : Ledger) : (k.setLedger a b c l).queues = k.queues := rfl
@[simp] theorem CoreSt.setLedger_running (k : CoreSt) (a b c : Nat) (l : Ledger) : (k.setLedger a b c l).running = k.running := rfl
@[simp] theorem CoreSt.setLedger_scoreboard (k : CoreSt) (a b c : Nat) (l : Ledger) : (k.setLedger a b c l).scoreboard = k.scoreboard := rfl
@[simp] theorem CoreSt.setLedger_windows (k : CoreSt) (a b c : Nat) (l : Ledger) : (k.setLedger a b c l).windows = k.windows := rfl
@[simp] theorem CoreSt.setLedger_nextUid (k : CoreSt) (a b c : Nat) (l : Ledger) : (k.setLedger a b c l).nextUid = k.nextUid := rfl
@[simp] theorem CoreSt.setLedger_queueMode (k : CoreSt) (a b c : Nat) (l : Ledger) : (k.setLedger a b c l).queueMode = k.queueMode := rfl
@[simp] theorem CoreSt.setLedger_queueModeWanted (k : CoreSt) (a b c : Nat) (l : Ledger) : (k.setLedger a b c l).queueModeWanted = k.queueModeWanted := rfl
@[simp] theorem CoreSt.setLedger_frozen (k : CoreSt) (a b c : Nat) (l : Ledger) : (k.setLedger a b c l).frozen = k.frozen := rfl
@[simp] theorem CoreSt.setLedger_stalemateCfg (k : CoreSt) (a b c : Nat) (l : Ledger) : (k.setLedger a b c l).stalemateCfg = k.stalemateCfg := rfl
@[simp] theorem CoreSt.setLedger_imem (k : CoreSt) (a b c : Nat) (l : Ledger) : (k.setLedger a b c l).imem = k.imem := rfl
@[simp] theorem CoreSt.setLedger_dmem (k : CoreSt) (a b c : Nat) (l : Ledger) : (k.setLedger a b c l).dmem = k.dmem := rfl
@[simp] theorem CoreSt.setLedger_farCache (k : CoreSt) (a b c : Nat) (l : Ledger) : (k.setLedger a b c l).farCache = k.farCache := rfl
@[simp] theorem CoreSt.setLedger_threads (k : CoreSt) (a b c : Nat) (l : Ledger) : (k.setLedger a b c l).threads = k.threads := rfl
@[simp] theorem CoreSt.setLedger_lastIssue (k : CoreSt) (a b c : Nat) (l : Ledger) : (k.setLedger a b c l).lastIssue = k.lastIssue := rfl
@[simp] theorem CoreSt.setLedger_yielded (k : CoreSt) (a b c : Nat) (l : Ledger) : (k.setLedger a b c l).yielded = k.yielded := rfl
@[simp] theorem CoreSt.setLedger_cycle (k : CoreSt) (a b c : Nat) (l : Ledger) : (k.setLedger a b c l).cycle = k.cycle := rfl
@[simp] theorem CoreSt.setLedger_invIssued (k : CoreSt) (a b c : Nat) (l : Ledger) : (k.setLedger a b c l).invIssued = k.invIssued := rfl
@[simp] theorem CoreSt.setLedger_invDone (k : CoreSt) (a b c : Nat) (l : Ledger) : (k.setLedger a b c l).invDone = k.invDone := rfl
@[simp] theorem CoreSt.setLedger_invFaults (k : CoreSt) (a b c : Nat) (l : Ledger) : (k.setLedger a b c l).invFaults = k.invFaults := rfl
@[simp] theorem CoreSt.setLedger_invLastFault (k : CoreSt) (a b c : Nat) (l : Ledger) : (k.setLedger a b c l).invLastFault = k.invLastFault := rfl
@[simp] theorem CoreSt.setLedger_evPending (k : CoreSt) (a b c : Nat) (l : Ledger) : (k.setLedger a b c l).evPending = k.evPending := rfl
@[simp] theorem CoreSt.setLedger_mailbox (k : CoreSt) (a b c : Nat) (l : Ledger) : (k.setLedger a b c l).mailbox = k.mailbox := rfl
@[simp] theorem CoreSt.setLedger_nfCount (k : CoreSt) (a b c : Nat) (l : Ledger) : (k.setLedger a b c l).nfCount = k.nfCount := rfl
@[simp] theorem CoreSt.setLedger_nfLimit (k : CoreSt) (a b c : Nat) (l : Ledger) : (k.setLedger a b c l).nfLimit = k.nfLimit := rfl
@[simp] theorem CoreSt.setLedger_spikeCount (k : CoreSt) (a b c : Nat) (l : Ledger) : (k.setLedger a b c l).spikeCount = k.spikeCount := rfl
@[simp] theorem CoreSt.setLedger_spikeLimit (k : CoreSt) (a b c : Nat) (l : Ledger) : (k.setLedger a b c l).spikeLimit = k.spikeLimit := rfl
@[simp] theorem CoreSt.setLedger_reducer (k : CoreSt) (a b c : Nat) (l : Ledger) : (k.setLedger a b c l).reducer = k.reducer := rfl
@[simp] theorem CoreSt.setLedger_hist (k : CoreSt) (a b c : Nat) (l : Ledger) : (k.setLedger a b c l).hist = k.hist := rfl
@[simp] theorem CoreSt.setLedger_assayer (k : CoreSt) (a b c : Nat) (l : Ledger) : (k.setLedger a b c l).assayer = k.assayer := rfl
@[simp] theorem CoreSt.setLedger_lanes (k : CoreSt) (a b c : Nat) (l : Ledger) : (k.setLedger a b c l).lanes = k.lanes := rfl
@[simp] theorem CoreSt.setLedger_prevFmts (k : CoreSt) (a b c : Nat) (l : Ledger) : (k.setLedger a b c l).prevFmts = k.prevFmts := rfl
@[simp] theorem CoreSt.setLedger_pipe (k : CoreSt) (a b c : Nat) (l : Ledger) : (k.setLedger a b c l).pipe = k.pipe := rfl
@[simp] theorem CoreSt.setLedger_met (k : CoreSt) (a b c : Nat) (l : Ledger) : (k.setLedger a b c l).met = k.met := rfl
@[simp] theorem CoreSt.setLedger_lastThread (k : CoreSt) (a b c : Nat) (l : Ledger) : (k.setLedger a b c l).lastThread = k.lastThread := rfl
@[simp] theorem CoreSt.setLedger_note (k : CoreSt) (a b c : Nat) (l : Ledger) : (k.setLedger a b c l).note = k.note := rfl
@[simp] theorem CoreSt.setLedger_calm (k : CoreSt) (a b c : Nat) (l : Ledger) : (k.setLedger a b c l).calm = k.calm := rfl
@[simp] theorem CoreSt.setLedger_gauger (k : CoreSt) (a b c : Nat) (l : Ledger) : (k.setLedger a b c l).gauger = k.gauger := rfl

/-! ### bump -/

@[simp] theorem CoreSt.bump_ls (k : CoreSt) (n a : Nat) : (k.bump n a).ls = k.ls := rfl
@[simp] theorem CoreSt.bump_trf (k : CoreSt) (n a : Nat) : (k.bump n a).trf = k.trf := rfl
@[simp] theorem CoreSt.bump_tiles (k : CoreSt) (n a : Nat) : (k.bump n a).tiles = k.tiles := rfl
@[simp] theorem CoreSt.bump_splitTiles (k : CoreSt) (n a : Nat) : (k.bump n a).splitTiles = k.splitTiles := rfl
@[simp] theorem CoreSt.bump_pattern (k : CoreSt) (n a : Nat) : (k.bump n a).pattern = k.pattern := rfl
@[simp] theorem CoreSt.bump_ledgers (k : CoreSt) (n a : Nat) : (k.bump n a).ledgers = k.ledgers := rfl
@[simp] theorem CoreSt.bump_liveSlots (k : CoreSt) (n a : Nat) : (k.bump n a).liveSlots = k.liveSlots := rfl
@[simp] theorem CoreSt.bump_shadow (k : CoreSt) (n a : Nat) : (k.bump n a).shadow = k.shadow := rfl
@[simp] theorem CoreSt.bump_shadowPend (k : CoreSt) (n a : Nat) : (k.bump n a).shadowPend = k.shadowPend := rfl
@[simp] theorem CoreSt.bump_descs (k : CoreSt) (n a : Nat) : (k.bump n a).descs = k.descs := rfl
@[simp] theorem CoreSt.bump_invQueue (k : CoreSt) (n a : Nat) : (k.bump n a).invQueue = k.invQueue := rfl
@[simp] theorem CoreSt.bump_splitting (k : CoreSt) (n a : Nat) : (k.bump n a).splitting = k.splitting := rfl
@[simp] theorem CoreSt.bump_flights (k : CoreSt) (n a : Nat) : (k.bump n a).flights = k.flights := rfl
@[simp] theorem CoreSt.bump_endedAhead (k : CoreSt) (n a : Nat) : (k.bump n a).endedAhead = k.endedAhead := rfl
@[simp] theorem CoreSt.bump_queues (k : CoreSt) (n a : Nat) : (k.bump n a).queues = k.queues := rfl
@[simp] theorem CoreSt.bump_running (k : CoreSt) (n a : Nat) : (k.bump n a).running = k.running := rfl
@[simp] theorem CoreSt.bump_scoreboard (k : CoreSt) (n a : Nat) : (k.bump n a).scoreboard = k.scoreboard := rfl
@[simp] theorem CoreSt.bump_windows (k : CoreSt) (n a : Nat) : (k.bump n a).windows = k.windows := rfl
@[simp] theorem CoreSt.bump_nextUid (k : CoreSt) (n a : Nat) : (k.bump n a).nextUid = k.nextUid := rfl
@[simp] theorem CoreSt.bump_queueMode (k : CoreSt) (n a : Nat) : (k.bump n a).queueMode = k.queueMode := rfl
@[simp] theorem CoreSt.bump_queueModeWanted (k : CoreSt) (n a : Nat) : (k.bump n a).queueModeWanted = k.queueModeWanted := rfl
@[simp] theorem CoreSt.bump_frozen (k : CoreSt) (n a : Nat) : (k.bump n a).frozen = k.frozen := rfl
@[simp] theorem CoreSt.bump_stalemateCfg (k : CoreSt) (n a : Nat) : (k.bump n a).stalemateCfg = k.stalemateCfg := rfl
@[simp] theorem CoreSt.bump_imem (k : CoreSt) (n a : Nat) : (k.bump n a).imem = k.imem := rfl
@[simp] theorem CoreSt.bump_dmem (k : CoreSt) (n a : Nat) : (k.bump n a).dmem = k.dmem := rfl
@[simp] theorem CoreSt.bump_farCache (k : CoreSt) (n a : Nat) : (k.bump n a).farCache = k.farCache := rfl
@[simp] theorem CoreSt.bump_lastIssue (k : CoreSt) (n a : Nat) : (k.bump n a).lastIssue = k.lastIssue := rfl
@[simp] theorem CoreSt.bump_yielded (k : CoreSt) (n a : Nat) : (k.bump n a).yielded = k.yielded := rfl
@[simp] theorem CoreSt.bump_cycle (k : CoreSt) (n a : Nat) : (k.bump n a).cycle = k.cycle := rfl
@[simp] theorem CoreSt.bump_invIssued (k : CoreSt) (n a : Nat) : (k.bump n a).invIssued = k.invIssued := rfl
@[simp] theorem CoreSt.bump_invDone (k : CoreSt) (n a : Nat) : (k.bump n a).invDone = k.invDone := rfl
@[simp] theorem CoreSt.bump_invFaults (k : CoreSt) (n a : Nat) : (k.bump n a).invFaults = k.invFaults := rfl
@[simp] theorem CoreSt.bump_invLastFault (k : CoreSt) (n a : Nat) : (k.bump n a).invLastFault = k.invLastFault := rfl
@[simp] theorem CoreSt.bump_evPending (k : CoreSt) (n a : Nat) : (k.bump n a).evPending = k.evPending := rfl
@[simp] theorem CoreSt.bump_mailbox (k : CoreSt) (n a : Nat) : (k.bump n a).mailbox = k.mailbox := rfl
@[simp] theorem CoreSt.bump_nfCount (k : CoreSt) (n a : Nat) : (k.bump n a).nfCount = k.nfCount := rfl
@[simp] theorem CoreSt.bump_nfLimit (k : CoreSt) (n a : Nat) : (k.bump n a).nfLimit = k.nfLimit := rfl
@[simp] theorem CoreSt.bump_spikeCount (k : CoreSt) (n a : Nat) : (k.bump n a).spikeCount = k.spikeCount := rfl
@[simp] theorem CoreSt.bump_spikeLimit (k : CoreSt) (n a : Nat) : (k.bump n a).spikeLimit = k.spikeLimit := rfl
@[simp] theorem CoreSt.bump_reducer (k : CoreSt) (n a : Nat) : (k.bump n a).reducer = k.reducer := rfl
@[simp] theorem CoreSt.bump_hist (k : CoreSt) (n a : Nat) : (k.bump n a).hist = k.hist := rfl
@[simp] theorem CoreSt.bump_assayer (k : CoreSt) (n a : Nat) : (k.bump n a).assayer = k.assayer := rfl
@[simp] theorem CoreSt.bump_lanes (k : CoreSt) (n a : Nat) : (k.bump n a).lanes = k.lanes := rfl
@[simp] theorem CoreSt.bump_prevFmts (k : CoreSt) (n a : Nat) : (k.bump n a).prevFmts = k.prevFmts := rfl
@[simp] theorem CoreSt.bump_pipe (k : CoreSt) (n a : Nat) : (k.bump n a).pipe = k.pipe := rfl
@[simp] theorem CoreSt.bump_lastThread (k : CoreSt) (n a : Nat) : (k.bump n a).lastThread = k.lastThread := rfl
@[simp] theorem CoreSt.bump_note (k : CoreSt) (n a : Nat) : (k.bump n a).note = k.note := rfl
@[simp] theorem CoreSt.bump_gauger (k : CoreSt) (n a : Nat) : (k.bump n a).gauger = k.gauger := rfl

/-! ### freeEntry -/

@[simp] theorem CoreSt.freeEntry_ls (k : CoreSt) (u : Nat) : (k.freeEntry u).ls = k.ls := rfl
@[simp] theorem CoreSt.freeEntry_trf (k : CoreSt) (u : Nat) : (k.freeEntry u).trf = k.trf := rfl
@[simp] theorem CoreSt.freeEntry_tiles (k : CoreSt) (u : Nat) : (k.freeEntry u).tiles = k.tiles := rfl
@[simp] theorem CoreSt.freeEntry_splitTiles (k : CoreSt) (u : Nat) : (k.freeEntry u).splitTiles = k.splitTiles := rfl
@[simp] theorem CoreSt.freeEntry_pattern (k : CoreSt) (u : Nat) : (k.freeEntry u).pattern = k.pattern := rfl
@[simp] theorem CoreSt.freeEntry_ledgers (k : CoreSt) (u : Nat) : (k.freeEntry u).ledgers = k.ledgers := rfl
@[simp] theorem CoreSt.freeEntry_notches (k : CoreSt) (u : Nat) : (k.freeEntry u).notches = k.notches := rfl
@[simp] theorem CoreSt.freeEntry_liveSlots (k : CoreSt) (u : Nat) : (k.freeEntry u).liveSlots = k.liveSlots := rfl
@[simp] theorem CoreSt.freeEntry_shadow (k : CoreSt) (u : Nat) : (k.freeEntry u).shadow = k.shadow := rfl
@[simp] theorem CoreSt.freeEntry_shadowPend (k : CoreSt) (u : Nat) : (k.freeEntry u).shadowPend = k.shadowPend := rfl
@[simp] theorem CoreSt.freeEntry_descs (k : CoreSt) (u : Nat) : (k.freeEntry u).descs = k.descs := rfl
@[simp] theorem CoreSt.freeEntry_invQueue (k : CoreSt) (u : Nat) : (k.freeEntry u).invQueue = k.invQueue := rfl
@[simp] theorem CoreSt.freeEntry_splitting (k : CoreSt) (u : Nat) : (k.freeEntry u).splitting = k.splitting := rfl
@[simp] theorem CoreSt.freeEntry_flights (k : CoreSt) (u : Nat) : (k.freeEntry u).flights = k.flights := rfl
@[simp] theorem CoreSt.freeEntry_endedAhead (k : CoreSt) (u : Nat) : (k.freeEntry u).endedAhead = k.endedAhead := rfl
@[simp] theorem CoreSt.freeEntry_queues (k : CoreSt) (u : Nat) : (k.freeEntry u).queues = k.queues := rfl
@[simp] theorem CoreSt.freeEntry_running (k : CoreSt) (u : Nat) : (k.freeEntry u).running = k.running := rfl
@[simp] theorem CoreSt.freeEntry_windows (k : CoreSt) (u : Nat) : (k.freeEntry u).windows = k.windows := rfl
@[simp] theorem CoreSt.freeEntry_nextUid (k : CoreSt) (u : Nat) : (k.freeEntry u).nextUid = k.nextUid := rfl
@[simp] theorem CoreSt.freeEntry_queueMode (k : CoreSt) (u : Nat) : (k.freeEntry u).queueMode = k.queueMode := rfl
@[simp] theorem CoreSt.freeEntry_queueModeWanted (k : CoreSt) (u : Nat) : (k.freeEntry u).queueModeWanted = k.queueModeWanted := rfl
@[simp] theorem CoreSt.freeEntry_frozen (k : CoreSt) (u : Nat) : (k.freeEntry u).frozen = k.frozen := rfl
@[simp] theorem CoreSt.freeEntry_stalemateCfg (k : CoreSt) (u : Nat) : (k.freeEntry u).stalemateCfg = k.stalemateCfg := rfl
@[simp] theorem CoreSt.freeEntry_imem (k : CoreSt) (u : Nat) : (k.freeEntry u).imem = k.imem := rfl
@[simp] theorem CoreSt.freeEntry_dmem (k : CoreSt) (u : Nat) : (k.freeEntry u).dmem = k.dmem := rfl
@[simp] theorem CoreSt.freeEntry_farCache (k : CoreSt) (u : Nat) : (k.freeEntry u).farCache = k.farCache := rfl
@[simp] theorem CoreSt.freeEntry_threads (k : CoreSt) (u : Nat) : (k.freeEntry u).threads = k.threads := rfl
@[simp] theorem CoreSt.freeEntry_lastIssue (k : CoreSt) (u : Nat) : (k.freeEntry u).lastIssue = k.lastIssue := rfl
@[simp] theorem CoreSt.freeEntry_yielded (k : CoreSt) (u : Nat) : (k.freeEntry u).yielded = k.yielded := rfl
@[simp] theorem CoreSt.freeEntry_cycle (k : CoreSt) (u : Nat) : (k.freeEntry u).cycle = k.cycle := rfl
@[simp] theorem CoreSt.freeEntry_invIssued (k : CoreSt) (u : Nat) : (k.freeEntry u).invIssued = k.invIssued := rfl
@[simp] theorem CoreSt.freeEntry_invDone (k : CoreSt) (u : Nat) : (k.freeEntry u).invDone = k.invDone := rfl
@[simp] theorem CoreSt.freeEntry_invFaults (k : CoreSt) (u : Nat) : (k.freeEntry u).invFaults = k.invFaults := rfl
@[simp] theorem CoreSt.freeEntry_invLastFault (k : CoreSt) (u : Nat) : (k.freeEntry u).invLastFault = k.invLastFault := rfl
@[simp] theorem CoreSt.freeEntry_evPending (k : CoreSt) (u : Nat) : (k.freeEntry u).evPending = k.evPending := rfl
@[simp] theorem CoreSt.freeEntry_mailbox (k : CoreSt) (u : Nat) : (k.freeEntry u).mailbox = k.mailbox := rfl
@[simp] theorem CoreSt.freeEntry_nfCount (k : CoreSt) (u : Nat) : (k.freeEntry u).nfCount = k.nfCount := rfl
@[simp] theorem CoreSt.freeEntry_nfLimit (k : CoreSt) (u : Nat) : (k.freeEntry u).nfLimit = k.nfLimit := rfl
@[simp] theorem CoreSt.freeEntry_spikeCount (k : CoreSt) (u : Nat) : (k.freeEntry u).spikeCount = k.spikeCount := rfl
@[simp] theorem CoreSt.freeEntry_spikeLimit (k : CoreSt) (u : Nat) : (k.freeEntry u).spikeLimit = k.spikeLimit := rfl
@[simp] theorem CoreSt.freeEntry_reducer (k : CoreSt) (u : Nat) : (k.freeEntry u).reducer = k.reducer := rfl
@[simp] theorem CoreSt.freeEntry_hist (k : CoreSt) (u : Nat) : (k.freeEntry u).hist = k.hist := rfl
@[simp] theorem CoreSt.freeEntry_assayer (k : CoreSt) (u : Nat) : (k.freeEntry u).assayer = k.assayer := rfl
@[simp] theorem CoreSt.freeEntry_lanes (k : CoreSt) (u : Nat) : (k.freeEntry u).lanes = k.lanes := rfl
@[simp] theorem CoreSt.freeEntry_prevFmts (k : CoreSt) (u : Nat) : (k.freeEntry u).prevFmts = k.prevFmts := rfl
@[simp] theorem CoreSt.freeEntry_pipe (k : CoreSt) (u : Nat) : (k.freeEntry u).pipe = k.pipe := rfl
@[simp] theorem CoreSt.freeEntry_met (k : CoreSt) (u : Nat) : (k.freeEntry u).met = k.met := rfl
@[simp] theorem CoreSt.freeEntry_lastThread (k : CoreSt) (u : Nat) : (k.freeEntry u).lastThread = k.lastThread := rfl
@[simp] theorem CoreSt.freeEntry_note (k : CoreSt) (u : Nat) : (k.freeEntry u).note = k.note := rfl
@[simp] theorem CoreSt.freeEntry_calm (k : CoreSt) (u : Nat) : (k.freeEntry u).calm = k.calm := rfl
@[simp] theorem CoreSt.freeEntry_gauger (k : CoreSt) (u : Nat) : (k.freeEntry u).gauger = k.gauger := rfl

/-! ### releaseReads -/

@[simp] theorem CoreSt.releaseReads_ls (k : CoreSt) (u : Nat) : (k.releaseReads u).ls = k.ls := rfl
@[simp] theorem CoreSt.releaseReads_trf (k : CoreSt) (u : Nat) : (k.releaseReads u).trf = k.trf := rfl
@[simp] theorem CoreSt.releaseReads_tiles (k : CoreSt) (u : Nat) : (k.releaseReads u).tiles = k.tiles := rfl
@[simp] theorem CoreSt.releaseReads_splitTiles (k : CoreSt) (u : Nat) : (k.releaseReads u).splitTiles = k.splitTiles := rfl
@[simp] theorem CoreSt.releaseReads_pattern (k : CoreSt) (u : Nat) : (k.releaseReads u).pattern = k.pattern := rfl
@[simp] theorem CoreSt.releaseReads_ledgers (k : CoreSt) (u : Nat) : (k.releaseReads u).ledgers = k.ledgers := rfl
@[simp] theorem CoreSt.releaseReads_notches (k : CoreSt) (u : Nat) : (k.releaseReads u).notches = k.notches := rfl
@[simp] theorem CoreSt.releaseReads_liveSlots (k : CoreSt) (u : Nat) : (k.releaseReads u).liveSlots = k.liveSlots := rfl
@[simp] theorem CoreSt.releaseReads_shadow (k : CoreSt) (u : Nat) : (k.releaseReads u).shadow = k.shadow := rfl
@[simp] theorem CoreSt.releaseReads_shadowPend (k : CoreSt) (u : Nat) : (k.releaseReads u).shadowPend = k.shadowPend := rfl
@[simp] theorem CoreSt.releaseReads_descs (k : CoreSt) (u : Nat) : (k.releaseReads u).descs = k.descs := rfl
@[simp] theorem CoreSt.releaseReads_invQueue (k : CoreSt) (u : Nat) : (k.releaseReads u).invQueue = k.invQueue := rfl
@[simp] theorem CoreSt.releaseReads_splitting (k : CoreSt) (u : Nat) : (k.releaseReads u).splitting = k.splitting := rfl
@[simp] theorem CoreSt.releaseReads_flights (k : CoreSt) (u : Nat) : (k.releaseReads u).flights = k.flights := rfl
@[simp] theorem CoreSt.releaseReads_endedAhead (k : CoreSt) (u : Nat) : (k.releaseReads u).endedAhead = k.endedAhead := rfl
@[simp] theorem CoreSt.releaseReads_queues (k : CoreSt) (u : Nat) : (k.releaseReads u).queues = k.queues := rfl
@[simp] theorem CoreSt.releaseReads_running (k : CoreSt) (u : Nat) : (k.releaseReads u).running = k.running := rfl
@[simp] theorem CoreSt.releaseReads_windows (k : CoreSt) (u : Nat) : (k.releaseReads u).windows = k.windows := rfl
@[simp] theorem CoreSt.releaseReads_nextUid (k : CoreSt) (u : Nat) : (k.releaseReads u).nextUid = k.nextUid := rfl
@[simp] theorem CoreSt.releaseReads_queueMode (k : CoreSt) (u : Nat) : (k.releaseReads u).queueMode = k.queueMode := rfl
@[simp] theorem CoreSt.releaseReads_queueModeWanted (k : CoreSt) (u : Nat) : (k.releaseReads u).queueModeWanted = k.queueModeWanted := rfl
@[simp] theorem CoreSt.releaseReads_frozen (k : CoreSt) (u : Nat) : (k.releaseReads u).frozen = k.frozen := rfl
@[simp] theorem CoreSt.releaseReads_stalemateCfg (k : CoreSt) (u : Nat) : (k.releaseReads u).stalemateCfg = k.stalemateCfg := rfl
@[simp] theorem CoreSt.releaseReads_imem (k : CoreSt) (u : Nat) : (k.releaseReads u).imem = k.imem := rfl
@[simp] theorem CoreSt.releaseReads_dmem (k : CoreSt) (u : Nat) : (k.releaseReads u).dmem = k.dmem := rfl
@[simp] theorem CoreSt.releaseReads_farCache (k : CoreSt) (u : Nat) : (k.releaseReads u).farCache = k.farCache := rfl
@[simp] theorem CoreSt.releaseReads_threads (k : CoreSt) (u : Nat) : (k.releaseReads u).threads = k.threads := rfl
@[simp] theorem CoreSt.releaseReads_lastIssue (k : CoreSt) (u : Nat) : (k.releaseReads u).lastIssue = k.lastIssue := rfl
@[simp] theorem CoreSt.releaseReads_yielded (k : CoreSt) (u : Nat) : (k.releaseReads u).yielded = k.yielded := rfl
@[simp] theorem CoreSt.releaseReads_cycle (k : CoreSt) (u : Nat) : (k.releaseReads u).cycle = k.cycle := rfl
@[simp] theorem CoreSt.releaseReads_invIssued (k : CoreSt) (u : Nat) : (k.releaseReads u).invIssued = k.invIssued := rfl
@[simp] theorem CoreSt.releaseReads_invDone (k : CoreSt) (u : Nat) : (k.releaseReads u).invDone = k.invDone := rfl
@[simp] theorem CoreSt.releaseReads_invFaults (k : CoreSt) (u : Nat) : (k.releaseReads u).invFaults = k.invFaults := rfl
@[simp] theorem CoreSt.releaseReads_invLastFault (k : CoreSt) (u : Nat) : (k.releaseReads u).invLastFault = k.invLastFault := rfl
@[simp] theorem CoreSt.releaseReads_evPending (k : CoreSt) (u : Nat) : (k.releaseReads u).evPending = k.evPending := rfl
@[simp] theorem CoreSt.releaseReads_mailbox (k : CoreSt) (u : Nat) : (k.releaseReads u).mailbox = k.mailbox := rfl
@[simp] theorem CoreSt.releaseReads_nfCount (k : CoreSt) (u : Nat) : (k.releaseReads u).nfCount = k.nfCount := rfl
@[simp] theorem CoreSt.releaseReads_nfLimit (k : CoreSt) (u : Nat) : (k.releaseReads u).nfLimit = k.nfLimit := rfl
@[simp] theorem CoreSt.releaseReads_spikeCount (k : CoreSt) (u : Nat) : (k.releaseReads u).spikeCount = k.spikeCount := rfl
@[simp] theorem CoreSt.releaseReads_spikeLimit (k : CoreSt) (u : Nat) : (k.releaseReads u).spikeLimit = k.spikeLimit := rfl
@[simp] theorem CoreSt.releaseReads_reducer (k : CoreSt) (u : Nat) : (k.releaseReads u).reducer = k.reducer := rfl
@[simp] theorem CoreSt.releaseReads_hist (k : CoreSt) (u : Nat) : (k.releaseReads u).hist = k.hist := rfl
@[simp] theorem CoreSt.releaseReads_assayer (k : CoreSt) (u : Nat) : (k.releaseReads u).assayer = k.assayer := rfl
@[simp] theorem CoreSt.releaseReads_lanes (k : CoreSt) (u : Nat) : (k.releaseReads u).lanes = k.lanes := rfl
@[simp] theorem CoreSt.releaseReads_prevFmts (k : CoreSt) (u : Nat) : (k.releaseReads u).prevFmts = k.prevFmts := rfl
@[simp] theorem CoreSt.releaseReads_pipe (k : CoreSt) (u : Nat) : (k.releaseReads u).pipe = k.pipe := rfl
@[simp] theorem CoreSt.releaseReads_met (k : CoreSt) (u : Nat) : (k.releaseReads u).met = k.met := rfl
@[simp] theorem CoreSt.releaseReads_lastThread (k : CoreSt) (u : Nat) : (k.releaseReads u).lastThread = k.lastThread := rfl
@[simp] theorem CoreSt.releaseReads_note (k : CoreSt) (u : Nat) : (k.releaseReads u).note = k.note := rfl
@[simp] theorem CoreSt.releaseReads_calm (k : CoreSt) (u : Nat) : (k.releaseReads u).calm = k.calm := rfl
@[simp] theorem CoreSt.releaseReads_gauger (k : CoreSt) (u : Nat) : (k.releaseReads u).gauger = k.gauger := rfl

/-! ### Reading what was put -/

@[simp] theorem CoreSt.thread_setThread (k : CoreSt) (t : Nat) (x : Thread) : (k.setThread t x).thread t = x := by
  simp [CoreSt.thread, CoreSt.setThread]
theorem CoreSt.thread_setThread_ne (k : CoreSt) {t u : Nat} (x : Thread) (n : t ≠ u) : (k.setThread t x).thread u = k.thread u := by
  simp [CoreSt.thread, CoreSt.setThread, Tab.get_set, n.symm]
@[simp] theorem CoreSt.queue_setQueue (k : CoreSt) (g : Engine) (q : List MicroOp) : (k.setQueue g q).queue g = q := by
  simp [CoreSt.queue, CoreSt.setQueue]
@[simp] theorem CoreSt.active_setActive (k : CoreSt) (g : Engine) (q : List Running) : (k.setActive g q).active g = q := by
  simp [CoreSt.active, CoreSt.setActive]
@[simp] theorem CoreSt.notch_bump (k : CoreSt) (n a : Nat) : (k.bump n a).notch n = k.notch n + BitVec.ofNat 48 a := by
  simp [CoreSt.notch, CoreSt.bump]
theorem CoreSt.notch_bump_ne (k : CoreSt) {n m : Nat} (a : Nat) (h : n ≠ m) : (k.bump n a).notch m = k.notch m := by
  simp [CoreSt.notch, CoreSt.bump, Tab.get_set, h.symm]

end Sys2Proof.Machine
end

