-- ==== Sys2Proof/Laws/KeepsCore.lean ====
section
/-! SUPPORT. Every operation on a core keeps the canonical form of the core's byte memories. One lemma for each operation over
Eff, cited by the lemmas of the commands. -/

namespace Sys2Proof.Machine

/-- The byte memories of a core. -/
structure Mems where
  ls : Mem
  trf : Mem
  pattern : Mem
  imem : Mem
  dmem : Mem

/-- The byte memories of a core. -/
def CoreSt.mems (k : CoreSt) : Mems := ⟨k.ls.data, k.trf.data, k.pattern.data, k.imem.data, k.dmem.data⟩
/-- All five have their canonical form. -/
structure Mems.wf (m : Mems) : Prop where
  ls : Mem.wf m.ls = true
  trf : Mem.wf m.trf = true
  pattern : Mem.wf m.pattern = true
  imem : Mem.wf m.imem = true
  dmem : Mem.wf m.dmem = true

theorem store_afterRead_data (st : Store) (a n : Nat) : (st.afterRead a n).1.data = st.data := by
  unfold Store.afterRead
  split <;> rfl

theorem store_write_wf {st : Store} (h : Mem.wf st.data = true) (a : Nat) (bs : List (Byte × Bool)) :
    Mem.wf (st.write a bs).data = true := by
  unfold Store.write
  dsimp only
  split
  · exact h
  · exact Mem.wf_wrBytes _ _ h

theorem mems_lit {k : CoreSt}
    {x_tiles : Tab Word32} {x_splitTiles : Tab Word32} {x_ledgers : Tab Ledger} {x_notches : Tab (BitVec 48)} {x_liveSlots
    : Tab Word} {x_shadow : Tab Word} {x_shadowPend : List ShadowWrite} {x_descs : Tab (BitVec 512)} {x_invQueue : List
    InvReq} {x_splitting : Option Splitting} {x_flights : List Flight} {x_endedAhead : List Nat} {x_queues : Tab (List
    MicroOp)} {x_running : Tab (List Running)} {x_scoreboard : List SbEntry} {x_windows : Tab Window} {x_nextUid : Nat}
    {x_queueMode : Nat} {x_queueModeWanted : Nat} {x_frozen : Bool} {x_stalemateCfg : Word32} {x_farCache : Tab (List (Nat
    × BitVec 512))} {x_threads : Tab Thread} {x_lastIssue : Nat} {x_yielded : Option Nat} {x_cycle : Nat} {x_invIssued :
    BitVec 48} {x_invDone : BitVec 48} {x_invFaults : BitVec 48} {x_invLastFault : BitVec 48} {x_evPending : Word}
    {x_mailbox : Word} {x_nfCount : BitVec 48} {x_nfLimit : BitVec 48} {x_spikeCount : BitVec 48} {x_spikeLimit : BitVec
    48} {x_reducer : Tab Reducer} {x_hist : Histogram} {x_assayer : Tab Word} {x_lanes : Tab (BitVec 128)} {x_prevFmts :
    Option (Nat × Nat)} {x_pipe : ArrayPipe} {x_met : List (Nat × Nat × Nat)} {x_lastThread : Nat} {x_note : CycleNote}
    {x_calm : Nat} {x_gauger : Gauger} :
    CoreSt.mems (CoreSt.mk k.ls k.trf x_tiles x_splitTiles k.pattern x_ledgers x_notches x_liveSlots x_shadow x_shadowPend x_descs x_invQueue
      x_splitting x_flights x_endedAhead x_queues x_running x_scoreboard x_windows x_nextUid x_queueMode x_queueModeWanted
      x_frozen x_stalemateCfg k.imem k.dmem x_farCache x_threads x_lastIssue x_yielded x_cycle x_invIssued x_invDone
      x_invFaults x_invLastFault x_evPending x_mailbox x_nfCount x_nfLimit x_spikeCount x_spikeLimit x_reducer x_hist
      x_assayer x_lanes x_prevFmts x_pipe x_met x_lastThread x_note x_calm x_gauger) = k.mems := rfl

theorem mems_ls {k : CoreSt} (h : k.mems.wf) {st : Store} (hs : Mem.wf k.ls.data = true → Mem.wf st.data = true)
    {x_tiles : Tab Word32} {x_splitTiles : Tab Word32} {x_ledgers : Tab Ledger} {x_notches : Tab (BitVec 48)} {x_liveSlots
    : Tab Word} {x_shadow : Tab Word} {x_shadowPend : List ShadowWrite} {x_descs : Tab (BitVec 512)} {x_invQueue : List
    InvReq} {x_splitting : Option Splitting} {x_flights : List Flight} {x_endedAhead : List Nat} {x_queues : Tab (List
    MicroOp)} {x_running : Tab (List Running)} {x_scoreboard : List SbEntry} {x_windows : Tab Window} {x_nextUid : Nat}
    {x_queueMode : Nat} {x_queueModeWanted : Nat} {x_frozen : Bool} {x_stalemateCfg : Word32} {x_farCache : Tab (List (Nat
    × BitVec 512))} {x_threads : Tab Thread} {x_lastIssue : Nat} {x_yielded : Option Nat} {x_cycle : Nat} {x_invIssued :
    BitVec 48} {x_invDone : BitVec 48} {x_invFaults : BitVec 48} {x_invLastFault : BitVec 48} {x_evPending : Word}
    {x_mailbox : Word} {x_nfCount : BitVec 48} {x_nfLimit : BitVec 48} {x_spikeCount : BitVec 48} {x_spikeLimit : BitVec
    48} {x_reducer : Tab Reducer} {x_hist : Histogram} {x_assayer : Tab Word} {x_lanes : Tab (BitVec 128)} {x_prevFmts :
    Option (Nat × Nat)} {x_pipe : ArrayPipe} {x_met : List (Nat × Nat × Nat)} {x_lastThread : Nat} {x_note : CycleNote}
    {x_calm : Nat} {x_gauger : Gauger} :
    (CoreSt.mems (CoreSt.mk st k.trf x_tiles x_splitTiles k.pattern x_ledgers x_notches x_liveSlots x_shadow x_shadowPend x_descs x_invQueue
      x_splitting x_flights x_endedAhead x_queues x_running x_scoreboard x_windows x_nextUid x_queueMode x_queueModeWanted
      x_frozen x_stalemateCfg k.imem k.dmem x_farCache x_threads x_lastIssue x_yielded x_cycle x_invIssued x_invDone
      x_invFaults x_invLastFault x_evPending x_mailbox x_nfCount x_nfLimit x_spikeCount x_spikeLimit x_reducer x_hist
      x_assayer x_lanes x_prevFmts x_pipe x_met x_lastThread x_note x_calm x_gauger)).wf := ⟨hs h.ls, h.trf, h.pattern, h.imem, h.dmem⟩

theorem mems_trf {k : CoreSt} (h : k.mems.wf) {st : Store} (hs : Mem.wf k.trf.data = true → Mem.wf st.data = true)
    {x_tiles : Tab Word32} {x_splitTiles : Tab Word32} {x_ledgers : Tab Ledger} {x_notches : Tab (BitVec 48)} {x_liveSlots
    : Tab Word} {x_shadow : Tab Word} {x_shadowPend : List ShadowWrite} {x_descs : Tab (BitVec 512)} {x_invQueue : List
    InvReq} {x_splitting : Option Splitting} {x_flights : List Flight} {x_endedAhead : List Nat} {x_queues : Tab (List
    MicroOp)} {x_running : Tab (List Running)} {x_scoreboard : List SbEntry} {x_windows : Tab Window} {x_nextUid : Nat}
    {x_queueMode : Nat} {x_queueModeWanted : Nat} {x_frozen : Bool} {x_stalemateCfg : Word32} {x_farCache : Tab (List (Nat
    × BitVec 512))} {x_threads : Tab Thread} {x_lastIssue : Nat} {x_yielded : Option Nat} {x_cycle : Nat} {x_invIssued :
    BitVec 48} {x_invDone : BitVec 48} {x_invFaults : BitVec 48} {x_invLastFault : BitVec 48} {x_evPending : Word}
    {x_mailbox : Word} {x_nfCount : BitVec 48} {x_nfLimit : BitVec 48} {x_spikeCount : BitVec 48} {x_spikeLimit : BitVec
    48} {x_reducer : Tab Reducer} {x_hist : Histogram} {x_assayer : Tab Word} {x_lanes : Tab (BitVec 128)} {x_prevFmts :
    Option (Nat × Nat)} {x_pipe : ArrayPipe} {x_met : List (Nat × Nat × Nat)} {x_lastThread : Nat} {x_note : CycleNote}
    {x_calm : Nat} {x_gauger : Gauger} :
    (CoreSt.mems (CoreSt.mk k.ls st x_tiles x_splitTiles k.pattern x_ledgers x_notches x_liveSlots x_shadow x_shadowPend x_descs x_invQueue
      x_splitting x_flights x_endedAhead x_queues x_running x_scoreboard x_windows x_nextUid x_queueMode x_queueModeWanted
      x_frozen x_stalemateCfg k.imem k.dmem x_farCache x_threads x_lastIssue x_yielded x_cycle x_invIssued x_invDone
      x_invFaults x_invLastFault x_evPending x_mailbox x_nfCount x_nfLimit x_spikeCount x_spikeLimit x_reducer x_hist
      x_assayer x_lanes x_prevFmts x_pipe x_met x_lastThread x_note x_calm x_gauger)).wf := ⟨h.ls, hs h.trf, h.pattern, h.imem, h.dmem⟩

theorem mems_pattern {k : CoreSt} (h : k.mems.wf) {st : Store} (hs : Mem.wf k.pattern.data = true → Mem.wf st.data = true)
    {x_tiles : Tab Word32} {x_splitTiles : Tab Word32} {x_ledgers : Tab Ledger} {x_notches : Tab (BitVec 48)} {x_liveSlots
    : Tab Word} {x_shadow : Tab Word} {x_shadowPend : List ShadowWrite} {x_descs : Tab (BitVec 512)} {x_invQueue : List
    InvReq} {x_splitting : Option Splitting} {x_flights : List Flight} {x_endedAhead : List Nat} {x_queues : Tab (List
    MicroOp)} {x_running : Tab (List Running)} {x_scoreboard : List SbEntry} {x_windows : Tab Window} {x_nextUid : Nat}
    {x_queueMode : Nat} {x_queueModeWanted : Nat} {x_frozen : Bool} {x_stalemateCfg : Word32} {x_farCache : Tab (List (Nat
    × BitVec 512))} {x_threads : Tab Thread} {x_lastIssue : Nat} {x_yielded : Option Nat} {x_cycle : Nat} {x_invIssued :
    BitVec 48} {x_invDone : BitVec 48} {x_invFaults : BitVec 48} {x_invLastFault : BitVec 48} {x_evPending : Word}
    {x_mailbox : Word} {x_nfCount : BitVec 48} {x_nfLimit : BitVec 48} {x_spikeCount : BitVec 48} {x_spikeLimit : BitVec
    48} {x_reducer : Tab Reducer} {x_hist : Histogram} {x_assayer : Tab Word} {x_lanes : Tab (BitVec 128)} {x_prevFmts :
    Option (Nat × Nat)} {x_pipe : ArrayPipe} {x_met : List (Nat × Nat × Nat)} {x_lastThread : Nat} {x_note : CycleNote}
    {x_calm : Nat} {x_gauger : Gauger} :
    (CoreSt.mems (CoreSt.mk k.ls k.trf x_tiles x_splitTiles st x_ledgers x_notches x_liveSlots x_shadow x_shadowPend x_descs x_invQueue
      x_splitting x_flights x_endedAhead x_queues x_running x_scoreboard x_windows x_nextUid x_queueMode x_queueModeWanted
      x_frozen x_stalemateCfg k.imem k.dmem x_farCache x_threads x_lastIssue x_yielded x_cycle x_invIssued x_invDone
      x_invFaults x_invLastFault x_evPending x_mailbox x_nfCount x_nfLimit x_spikeCount x_spikeLimit x_reducer x_hist
      x_assayer x_lanes x_prevFmts x_pipe x_met x_lastThread x_note x_calm x_gauger)).wf := ⟨h.ls, h.trf, hs h.pattern, h.imem, h.dmem⟩

theorem mems_imem {k : CoreSt} (h : k.mems.wf) {st : Store} (hs : Mem.wf k.imem.data = true → Mem.wf st.data = true)
    {x_tiles : Tab Word32} {x_splitTiles : Tab Word32} {x_ledgers : Tab Ledger} {x_notches : Tab (BitVec 48)} {x_liveSlots
    : Tab Word} {x_shadow : Tab Word} {x_shadowPend : List ShadowWrite} {x_descs : Tab (BitVec 512)} {x_invQueue : List
    InvReq} {x_splitting : Option Splitting} {x_flights : List Flight} {x_endedAhead : List Nat} {x_queues : Tab (List
    MicroOp)} {x_running : Tab (List Running)} {x_scoreboard : List SbEntry} {x_windows : Tab Window} {x_nextUid : Nat}
    {x_queueMode : Nat} {x_queueModeWanted : Nat} {x_frozen : Bool} {x_stalemateCfg : Word32} {x_farCache : Tab (List (Nat
    × BitVec 512))} {x_threads : Tab Thread} {x_lastIssue : Nat} {x_yielded : Option Nat} {x_cycle : Nat} {x_invIssued :
    BitVec 48} {x_invDone : BitVec 48} {x_invFaults : BitVec 48} {x_invLastFault : BitVec 48} {x_evPending : Word}
    {x_mailbox : Word} {x_nfCount : BitVec 48} {x_nfLimit : BitVec 48} {x_spikeCount : BitVec 48} {x_spikeLimit : BitVec
    48} {x_reducer : Tab Reducer} {x_hist : Histogram} {x_assayer : Tab Word} {x_lanes : Tab (BitVec 128)} {x_prevFmts :
    Option (Nat × Nat)} {x_pipe : ArrayPipe} {x_met : List (Nat × Nat × Nat)} {x_lastThread : Nat} {x_note : CycleNote}
    {x_calm : Nat} {x_gauger : Gauger} :
    (CoreSt.mems (CoreSt.mk k.ls k.trf x_tiles x_splitTiles k.pattern x_ledgers x_notches x_liveSlots x_shadow x_shadowPend x_descs x_invQueue
      x_splitting x_flights x_endedAhead x_queues x_running x_scoreboard x_windows x_nextUid x_queueMode x_queueModeWanted
      x_frozen x_stalemateCfg st k.dmem x_farCache x_threads x_lastIssue x_yielded x_cycle x_invIssued x_invDone x_invFaults
      x_invLastFault x_evPending x_mailbox x_nfCount x_nfLimit x_spikeCount x_spikeLimit x_reducer x_hist x_assayer x_lanes
      x_prevFmts x_pipe x_met x_lastThread x_note x_calm x_gauger)).wf := ⟨h.ls, h.trf, h.pattern, hs h.imem, h.dmem⟩

theorem mems_dmem {k : CoreSt} (h : k.mems.wf) {st : Store} (hs : Mem.wf k.dmem.data = true → Mem.wf st.data = true)
    {x_tiles : Tab Word32} {x_splitTiles : Tab Word32} {x_ledgers : Tab Ledger} {x_notches : Tab (BitVec 48)} {x_liveSlots
    : Tab Word} {x_shadow : Tab Word} {x_shadowPend : List ShadowWrite} {x_descs : Tab (BitVec 512)} {x_invQueue : List
    InvReq} {x_splitting : Option Splitting} {x_flights : List Flight} {x_endedAhead : List Nat} {x_queues : Tab (List
    MicroOp)} {x_running : Tab (List Running)} {x_scoreboard : List SbEntry} {x_windows : Tab Window} {x_nextUid : Nat}
    {x_queueMode : Nat} {x_queueModeWanted : Nat} {x_frozen : Bool} {x_stalemateCfg : Word32} {x_farCache : Tab (List (Nat
    × BitVec 512))} {x_threads : Tab Thread} {x_lastIssue : Nat} {x_yielded : Option Nat} {x_cycle : Nat} {x_invIssued :
    BitVec 48} {x_invDone : BitVec 48} {x_invFaults : BitVec 48} {x_invLastFault : BitVec 48} {x_evPending : Word}
    {x_mailbox : Word} {x_nfCount : BitVec 48} {x_nfLimit : BitVec 48} {x_spikeCount : BitVec 48} {x_spikeLimit : BitVec
    48} {x_reducer : Tab Reducer} {x_hist : Histogram} {x_assayer : Tab Word} {x_lanes : Tab (BitVec 128)} {x_prevFmts :
    Option (Nat × Nat)} {x_pipe : ArrayPipe} {x_met : List (Nat × Nat × Nat)} {x_lastThread : Nat} {x_note : CycleNote}
    {x_calm : Nat} {x_gauger : Gauger} :
    (CoreSt.mems (CoreSt.mk k.ls k.trf x_tiles x_splitTiles k.pattern x_ledgers x_notches x_liveSlots x_shadow x_shadowPend x_descs x_invQueue
      x_splitting x_flights x_endedAhead x_queues x_running x_scoreboard x_windows x_nextUid x_queueMode x_queueModeWanted
      x_frozen x_stalemateCfg k.imem st x_farCache x_threads x_lastIssue x_yielded x_cycle x_invIssued x_invDone x_invFaults
      x_invLastFault x_evPending x_mailbox x_nfCount x_nfLimit x_spikeCount x_spikeLimit x_reducer x_hist x_assayer x_lanes
      x_prevFmts x_pipe x_met x_lastThread x_note x_calm x_gauger)).wf := ⟨h.ls, h.trf, h.pattern, h.imem, hs h.dmem⟩

theorem ew_ite {p : Prop} [Decidable p] {a b : Eff} (ha : a.k.mems.wf) (hb : b.k.mems.wf) : (if p then a else b).k.mems.wf := by
  split
  · exact ha
  · exact hb

theorem ew_fold {α : Type} {f : Eff → α → Eff} {l : List α} {e : Eff} (h : e.k.mems.wf)
    (hf : ∀ e a, e.k.mems.wf → (f e a).k.mems.wf) : (l.foldl f e).k.mems.wf := by
  induction l generalizing e with
  | nil => exact h
  | cons a l ih => exact ih (hf _ a h)

theorem cw_fold {α : Type} {f : CoreSt → α → CoreSt} {l : List α} {e : CoreSt} (h : e.mems.wf)
    (hf : ∀ e a, e.mems.wf → (f e a).mems.wf) : (l.foldl f e).mems.wf := by
  induction l generalizing e with
  | nil => exact h
  | cons a l ih => exact ih (hf _ a h)

theorem ew_fold1 {α β : Type} {f : Eff × β → α → Eff × β} {l : List α} {p : Eff × β} (h : p.1.k.mems.wf)
    (hf : ∀ p a, p.1.k.mems.wf → (f p a).1.k.mems.wf) : (l.foldl f p).1.k.mems.wf := by
  induction l generalizing p with
  | nil => exact h
  | cons a l ih => exact ih (hf _ a h)

theorem ew_fold2 {α β : Type} {f : β × Eff → α → β × Eff} {l : List α} {p : β × Eff} (h : p.2.k.mems.wf)
    (hf : ∀ p a, p.2.k.mems.wf → (f p a).2.k.mems.wf) : (l.foldl f p).2.k.mems.wf := by
  induction l generalizing p with
  | nil => exact h
  | cons a l ih => exact ih (hf _ a h)

theorem ew_fold3 {α β γ : Type} {f : β × γ × Eff → α → β × γ × Eff} {l : List α} {p : β × γ × Eff} (h : p.2.2.k.mems.wf)
    (hf : ∀ p a, p.2.2.k.mems.wf → (f p a).2.2.k.mems.wf) : (l.foldl f p).2.2.k.mems.wf := by
  induction l generalizing p with
  | nil => exact h
  | cons a l ih => exact ih (hf _ a h)

theorem ew_fst {β : Type} {p : Eff × β} {e : Eff} {x : β} (he : p = (e, x)) (h : p.1.k.mems.wf) : e.k.mems.wf := by
  subst he; exact h

theorem ew_snd {β : Type} {p : β × Eff} {e : Eff} {x : β} (he : p = (x, e)) (h : p.2.k.mems.wf) : e.k.mems.wf := by
  subst he; exact h

theorem ew_trd {β γ : Type} {p : β × γ × Eff} {e : Eff} {x : β} {y : γ} (he : p = (x, y, e)) (h : p.2.2.k.mems.wf) :
    e.k.mems.wf := by
  subst he; exact h

theorem Eff.raise_wf {e : Eff} (h : e.k.mems.wf) (code : Nat) (words : List Word) :
    (e.raise code words).k.mems.wf := by
  unfold Eff.raise
  repeat' first
    | with_reducible assumption

theorem Eff.count_wf {e : Eff} (h : e.k.mems.wf) (ev n : Nat) :
    (e.count ev n).k.mems.wf := by
  unfold Eff.count
  repeat' first
    | with_reducible assumption
    | simp only [mems_lit]

theorem Eff.setPending_wf {e : Eff} (h : e.k.mems.wf) (bit : Nat) :
    (e.setPending bit).k.mems.wf := by
  unfold Eff.setPending
  repeat' first
    | with_reducible assumption
    | simp only [mems_lit]

theorem Eff.addNf_wf {e : Eff} (h : e.k.mems.wf) (n : Nat) :
    (e.addNf n).k.mems.wf := by
  unfold Eff.addNf
  repeat' first
    | with_reducible assumption
    | with_reducible apply ew_ite
    | with_reducible apply Eff.setPending_wf
    | simp only [mems_lit]

theorem Eff.addSpike_wf {e : Eff} (h : e.k.mems.wf) (n : Nat) :
    (e.addSpike n).k.mems.wf := by
  unfold Eff.addSpike
  repeat' first
    | with_reducible assumption
    | with_reducible apply ew_ite
    | with_reducible apply Eff.setPending_wf
    | simp only [mems_lit]

theorem CoreSt.clearEvents_wf {k : CoreSt} (h : k.mems.wf) (v : Word) :
    (k.clearEvents v).mems.wf := by
  unfold CoreSt.clearEvents
  repeat' first
    | with_reducible assumption
    | simp only [mems_lit]

theorem Eff.writeNf_wf {e : Eff} (h : e.k.mems.wf) (v : BitVec 48) :
    (e.writeNf v).k.mems.wf := by
  unfold Eff.writeNf
  repeat' first
    | with_reducible assumption
    | with_reducible apply Eff.addNf_wf
    | simp only [mems_lit]

theorem Eff.writeSpike_wf {e : Eff} (h : e.k.mems.wf) (v : BitVec 48) :
    (e.writeSpike v).k.mems.wf := by
  unfold Eff.writeSpike
  repeat' first
    | with_reducible assumption
    | with_reducible apply Eff.addSpike_wf
    | simp only [mems_lit]

theorem wf_of_eq {a b : Mem} (h : b = a) (x : Mem.wf a = true) : Mem.wf b = true := by rw [h]; exact x

theorem Eff.touchLs_wf {e : Eff} (h : e.k.mems.wf) (a n : Nat) : (e.touchLs a n).k.mems.wf := by
  unfold Eff.touchLs
  exact Eff.count_wf (mems_ls h (fun x => wf_of_eq (store_afterRead_data _ _ _) x)) _ _

theorem Eff.touchTrf_wf {e : Eff} (h : e.k.mems.wf) (a n : Nat) : (e.touchTrf a n).k.mems.wf := by
  unfold Eff.touchTrf
  exact Eff.count_wf (mems_trf h (fun x => wf_of_eq (store_afterRead_data _ _ _) x)) _ _

theorem CoreSt.writeLs_wf {k : CoreSt} (h : k.mems.wf) (a : Nat) (bs : List (Byte × Bool)) : (k.writeLs a bs).mems.wf :=
  mems_ls h (fun x => store_write_wf x _ _)

theorem Eff.writeLs_wf {e : Eff} (h : e.k.mems.wf) (a : Nat) (bs : List (Byte × Bool)) : (e.writeLs a bs).k.mems.wf :=
  CoreSt.writeLs_wf h _ _

theorem Eff.touchLines_wf {e : Eff} (h : e.k.mems.wf) (ls : List Nat) :
    (e.touchLines ls).k.mems.wf := by
  unfold Eff.touchLines
  repeat' first
    | with_reducible assumption
    | intro _
    | with_reducible apply ew_fold
    | with_reducible apply Eff.touchLs_wf

theorem Eff.writeTrf_wf {e : Eff} (h : e.k.mems.wf) (a : Nat) (bs : List (Byte × Bool)) : (e.writeTrf a bs).k.mems.wf :=
  mems_trf h (fun x => store_write_wf x _ _)

theorem CoreSt.setLedger_wf {k : CoreSt} (h : k.mems.wf) (tile r c : Nat) (l : Ledger) :
    (k.setLedger tile r c l).mems.wf := by
  unfold CoreSt.setLedger
  repeat' first
    | with_reducible assumption
    | simp only [mems_lit]

theorem Eff.readLedger_wf {e : Eff} (h : e.k.mems.wf) (tile r c : Nat) :
    (e.readLedger tile r c).2.k.mems.wf := by
  unfold Eff.readLedger
  try dsimp only
  repeat' first
    | with_reducible assumption
    | split
    | with_reducible apply Eff.raise_wf
    | with_reducible apply CoreSt.setLedger_wf

theorem Eff.draw_wf {e : Eff} (h : e.k.mems.wf) (l : Nat) :
    (e.draw l).2.k.mems.wf := by
  unfold Eff.draw
  repeat' first
    | with_reducible assumption
    | simp only [mems_lit]

theorem Eff.mode_wf {e : Eff} (h : e.k.mems.wf) (sr : Bool) (lane : Nat) :
    (e.mode sr lane).2.k.mems.wf := by
  unfold Eff.mode
  try dsimp only
  repeat' first
    | with_reducible assumption
    | split
    | with_reducible apply Eff.draw_wf

theorem CoreSt.setQueue_wf {k : CoreSt} (h : k.mems.wf) (g : Engine) (q : List MicroOp) :
    (k.setQueue g q).mems.wf := by
  unfold CoreSt.setQueue
  repeat' first
    | with_reducible assumption
    | simp only [mems_lit]

theorem CoreSt.setActive_wf {k : CoreSt} (h : k.mems.wf) (g : Engine) (q : List Running) :
    (k.setActive g q).mems.wf := by
  unfold CoreSt.setActive
  repeat' first
    | with_reducible assumption
    | simp only [mems_lit]

theorem CoreSt.bump_wf {k : CoreSt} (h : k.mems.wf) (n amt : Nat) :
    (k.bump n amt).mems.wf := by
  unfold CoreSt.bump
  repeat' first
    | with_reducible assumption
    | simp only [mems_lit]

theorem CoreSt.bumps_wf {k : CoreSt} (h : k.mems.wf) (l : List (Nat × Nat)) :
    (k.bumps l).mems.wf := by
  unfold CoreSt.bumps
  repeat' first
    | with_reducible assumption
    | intro _
    | with_reducible apply cw_fold
    | with_reducible apply CoreSt.bump_wf

theorem CoreSt.freeEntry_wf {k : CoreSt} (h : k.mems.wf) (uid : Nat) :
    (k.freeEntry uid).mems.wf := by
  unfold CoreSt.freeEntry
  repeat' first
    | with_reducible assumption
    | simp only [mems_lit]

theorem CoreSt.releaseReads_wf {k : CoreSt} (h : k.mems.wf) (uid : Nat) :
    (k.releaseReads uid).mems.wf := by
  unfold CoreSt.releaseReads
  repeat' first
    | with_reducible assumption
    | simp only [mems_lit]

theorem Eff.endInv_wf {e : Eff} (h : e.k.mems.wf) (f : Flight) :
    (e.endInv f).k.mems.wf := by
  unfold Eff.endInv
  repeat' first
    | with_reducible assumption
    | split
    | with_reducible apply Eff.setPending_wf
    | simp only [mems_lit]

theorem Eff.settle_wf {e : Eff} (h : e.k.mems.wf) :
    (e.settle).k.mems.wf := by
  unfold Eff.settle
  repeat' first
    | with_reducible assumption
    | intro _
    | with_reducible apply ew_fold
    | with_reducible apply Eff.endInv_wf
    | simp only [mems_lit]

theorem Eff.faultInv_wf {e : Eff} (h : e.k.mems.wf) (num : Nat) (hard : Bool) (drain : Bool) :
    (e.faultInv num hard drain).k.mems.wf := by
  unfold Eff.faultInv
  repeat' first
    | with_reducible assumption
    | with_reducible apply ew_ite
    | with_reducible apply Eff.settle_wf
    | simp only [mems_lit]

theorem Eff.opDone_wf {e : Eff} (h : e.k.mems.wf) (o : MicroOp) (bump : Bool) :
    (e.opDone o bump).k.mems.wf := by
  unfold Eff.opDone
  repeat' first
    | with_reducible assumption
    | split
    | with_reducible apply CoreSt.bumps_wf
    | with_reducible apply CoreSt.freeEntry_wf
    | with_reducible apply Eff.settle_wf
    | simp only [mems_lit]

theorem Eff.begin_wf {e : Eff} (h : e.k.mems.wf) (o : MicroOp) (left : Nat) :
    (e.begin o left).k.mems.wf := by
  unfold Eff.begin
  repeat' first
    | with_reducible assumption
    | with_reducible apply CoreSt.setQueue_wf
    | with_reducible apply CoreSt.setActive_wf
    | simp only [mems_lit]

theorem Eff.atHead_wf {e : Eff} (h : e.k.mems.wf) (g : Engine) (gap : Nat) (p : MicroOp → Bool) (f : Eff → MicroOp → Eff)
    (hf : ∀ e o, e.k.mems.wf → (f e o).k.mems.wf) : (e.atHead g gap p f).k.mems.wf := by
  unfold Eff.atHead
  split
  · rename_i o _ _
    refine ew_ite (hf _ _ (Eff.begin_wf ?_ o 0)) h
    exact h
  · exact h

theorem Eff.closeSplit_wf {e : Eff} (h : e.k.mems.wf) :
    (e.closeSplit).k.mems.wf := by
  unfold Eff.closeSplit
  repeat' first
    | with_reducible assumption
    | split
    | with_reducible apply Eff.settle_wf
    | simp only [mems_lit]

theorem Eff.boundary_wf {e : Eff} (h : e.k.mems.wf) :
    (e.boundary).k.mems.wf := by
  unfold Eff.boundary
  repeat' first
    | with_reducible assumption
    | split
    | with_reducible apply Eff.raise_wf
    | with_reducible apply Eff.faultInv_wf
    | with_reducible apply Eff.closeSplit_wf
    | simp only [mems_lit]

theorem Eff.misfit_wf {e : Eff} (h : e.k.mems.wf) (r : InvReq) (code : Nat) (detail : Word) :
    (e.misfit r code detail).k.mems.wf := by
  unfold Eff.misfit
  repeat' first
    | with_reducible assumption
    | with_reducible apply Eff.raise_wf
    | with_reducible apply Eff.faultInv_wf

theorem Eff.splitWord_wf {e : Eff} (h : e.k.mems.wf) :
    (e.splitWord).k.mems.wf := by
  unfold Eff.splitWord
  repeat' first
    | with_reducible assumption
    | split
    | with_reducible apply Eff.count_wf
    | with_reducible apply Eff.closeSplit_wf
    | with_reducible apply Eff.misfit_wf
    | simp only [mems_lit]

theorem Eff.sampleIssue_wf {e : Eff} (h : e.k.mems.wf) (o : MicroOp) :
    (e.sampleIssue o).k.mems.wf := by
  unfold Eff.sampleIssue
  repeat' first
    | with_reducible assumption
    | with_reducible apply ew_ite
    | with_reducible apply Eff.count_wf
    | simp only [mems_lit]

theorem Eff.issueInstance_wf {e : Eff} (h : e.k.mems.wf) (gap : Nat) :
    (e.issueInstance gap).k.mems.wf := by
  unfold Eff.issueInstance
  repeat' first
    | with_reducible assumption
    | intro _
    | split
    | with_reducible apply ew_fold
    | with_reducible apply cw_fold
    | with_reducible apply CoreSt.setQueue_wf
    | with_reducible apply Eff.closeSplit_wf
    | with_reducible apply Eff.sampleIssue_wf
    | simp only [mems_lit]

theorem Eff.marker_wf {e : Eff} (h : e.k.mems.wf) (g : Engine) (gap : Nat) :
    (e.marker g gap).k.mems.wf := by
  unfold Eff.marker
  repeat' first
    | with_reducible assumption
    | split
    | with_reducible apply CoreSt.setQueue_wf
    | with_reducible apply Eff.opDone_wf
    | simp only [mems_lit]

theorem Eff.completeOp_wf {e : Eff} (h : e.k.mems.wf) (g : Engine) (gap : Nat) :
    (e.completeOp g gap).k.mems.wf := by
  unfold Eff.completeOp
  repeat' first
    | with_reducible assumption
    | split
    | with_reducible apply CoreSt.setActive_wf
    | with_reducible apply Eff.opDone_wf
    | simp only [mems_lit]

theorem Eff.switchMode_wf {e : Eff} (h : e.k.mems.wf) :
    (e.switchMode).k.mems.wf := by
  unfold Eff.switchMode
  repeat' first
    | with_reducible assumption
    | with_reducible apply ew_ite
    | simp only [mems_lit]

theorem Eff.feed_wf {e : Eff} (h : e.k.mems.wf) (f line : Nat) :
    (e.feed f line).k.mems.wf := by
  unfold Eff.feed
  repeat' first
    | with_reducible assumption
    | split
    | with_reducible apply Eff.count_wf
    | with_reducible apply Eff.touchLs_wf
    | simp only [mems_lit]

theorem Eff.feedChunk_wf {e : Eff} (h : e.k.mems.wf) (o : ArrayOp) (q : Nat) :
    (e.feedChunk o q).k.mems.wf := by
  unfold Eff.feedChunk
  repeat' first
    | with_reducible assumption
    | intro _
    | with_reducible apply ew_fold
    | with_reducible apply Eff.feed_wf

theorem Eff.matmulRow_wf {e : Eff} (h : e.k.mems.wf) (o : ArrayOp) (arow : List Elem) (bcols : List (List Elem)) (r : Nat) :
    (e.matmulRow o arow bcols r).k.mems.wf := by
  unfold Eff.matmulRow
  try dsimp only
  repeat' first
    | with_reducible assumption
    | intro _
    | split
    | with_reducible apply ew_fold
    | with_reducible apply CoreSt.setLedger_wf
    | with_reducible apply Eff.readLedger_wf

theorem Eff.matmul_wf {e : Eff} (h : e.k.mems.wf) (uid gap : Nat) (o : ArrayOp) :
    (e.matmul uid gap o).k.mems.wf := by
  unfold Eff.matmul
  repeat' first
    | with_reducible assumption
    | intro _
    | with_reducible apply ew_ite
    | with_reducible apply ew_fold
    | with_reducible apply cw_fold
    | with_reducible apply Eff.touchLines_wf
    | with_reducible apply CoreSt.setLedger_wf
    | with_reducible apply Eff.feedChunk_wf
    | with_reducible apply Eff.matmulRow_wf
    | simp only [mems_lit]

theorem Eff.touchTrfOp_wf {e : Eff} (h : e.k.mems.wf) (o : TrfOp) :
    (e.touchTrfOp o).k.mems.wf := by
  unfold Eff.touchTrfOp
  repeat' first
    | with_reducible assumption
    | intro _
    | with_reducible apply ew_ite
    | with_reducible apply ew_fold
    | with_reducible apply Eff.touchTrf_wf

theorem Eff.wrote_wf {e : Eff} (h : e.k.mems.wf) (o : MicroOp) (nf poisoned : Nat) :
    (e.wrote o nf poisoned).k.mems.wf := by
  unfold Eff.wrote
  repeat' first
    | with_reducible assumption
    | intro _
    | with_reducible apply ew_fold
    | with_reducible apply Eff.raise_wf
    | with_reducible apply Eff.addNf_wf

theorem Eff.roundValue_wf {e : Eff} (h : e.k.mems.wf) (op : MicroOp) (o : DrainOp) (r c : Nat) :
    (e.roundValue op o r c).2.k.mems.wf := by
  unfold Eff.roundValue
  try dsimp only
  repeat' first
    | with_reducible assumption
    | split
    | with_reducible apply Eff.raise_wf
    | with_reducible apply Eff.readLedger_wf

theorem Eff.roundRow_wf {e : Eff} (h : e.k.mems.wf) (op : MicroOp) (o : DrainOp) (r : Nat) :
    (e.roundRow op o r).2.k.mems.wf := by
  unfold Eff.roundRow
  repeat' first
    | with_reducible assumption
    | intro _
    | with_reducible apply ew_fold2
    | with_reducible apply Eff.mode_wf
    | with_reducible apply Eff.roundValue_wf

theorem Eff.placeRow_wf {e : Eff} (h : e.k.mems.wf) (o : DrainOp) (r : Nat) (bs : List (Byte × Bool)) (scale : Option (Byte × Bool)) :
    (e.placeRow o r bs scale).k.mems.wf := by
  unfold Eff.placeRow
  repeat' first
    | with_reducible assumption
    | split
    | with_reducible apply Eff.writeLs_wf
    | with_reducible apply Eff.writeTrf_wf

theorem Eff.round_wf {e : Eff} (h : e.k.mems.wf) (op : MicroOp) (o : DrainOp) :
    (e.round op o).k.mems.wf := by
  unfold Eff.round
  repeat' first
    | with_reducible assumption
    | intro _
    | with_reducible apply ew_ite
    | with_reducible apply ew_fold
    | with_reducible apply Eff.count_wf
    | with_reducible apply Eff.touchTrfOp_wf
    | with_reducible apply Eff.wrote_wf
    | with_reducible apply Eff.roundRow_wf
    | with_reducible apply Eff.placeRow_wf
    | simp only [mems_lit]

theorem Eff.exportImage_wf {e : Eff} (h : e.k.mems.wf) (o : DrainOp) :
    (e.exportImage o).k.mems.wf := by
  unfold Eff.exportImage
  repeat' first
    | with_reducible assumption
    | intro _
    | with_reducible apply ew_fold
    | with_reducible apply ew_fold2
    | with_reducible apply Eff.count_wf
    | with_reducible apply Eff.writeLs_wf
    | with_reducible apply Eff.readLedger_wf

theorem Eff.mergeImage_wf {e : Eff} (h : e.k.mems.wf) (o : DrainOp) :
    (e.mergeImage o).k.mems.wf := by
  unfold Eff.mergeImage
  repeat' first
    | with_reducible assumption
    | intro _
    | split
    | with_reducible apply ew_fold
    | with_reducible apply Eff.raise_wf
    | with_reducible apply Eff.touchLs_wf
    | with_reducible apply CoreSt.setLedger_wf
    | with_reducible apply Eff.readLedger_wf

theorem Eff.tilecfg_wf {e : Eff} (h : e.k.mems.wf) (v : VecOp) :
    (e.tilecfg v).k.mems.wf := by
  unfold Eff.tilecfg
  repeat' first
    | with_reducible assumption
    | simp only [mems_lit]

theorem Eff.rows_wf {e : Eff} (h : e.k.mems.wf) (n : Nat) :
    (e.rows n).k.mems.wf := by
  unfold Eff.rows
  repeat' first
    | with_reducible assumption
    | with_reducible apply Eff.count_wf

theorem Eff.moveIn_wf {e : Eff} (h : e.k.mems.wf) (v : VecOp) :
    (e.moveIn v).k.mems.wf := by
  unfold Eff.moveIn
  repeat' first
    | with_reducible assumption
    | intro _
    | with_reducible apply ew_ite
    | with_reducible apply ew_fold
    | with_reducible apply Eff.touchLs_wf
    | with_reducible apply Eff.writeTrf_wf
    | with_reducible apply Eff.rows_wf

theorem Eff.moveOut_wf {e : Eff} (h : e.k.mems.wf) (v : VecOp) :
    (e.moveOut v).k.mems.wf := by
  unfold Eff.moveOut
  repeat' first
    | with_reducible assumption
    | intro _
    | with_reducible apply ew_ite
    | with_reducible apply ew_fold
    | with_reducible apply Eff.touchTrf_wf
    | with_reducible apply Eff.writeLs_wf
    | with_reducible apply Eff.rows_wf

theorem Eff.transpose_wf {e : Eff} (h : e.k.mems.wf) (v : VecOp) :
    (e.transpose v).k.mems.wf := by
  unfold Eff.transpose
  repeat' first
    | with_reducible assumption
    | intro _
    | with_reducible apply ew_fold
    | with_reducible apply Eff.writeTrf_wf
    | with_reducible apply Eff.touchTrfOp_wf
    | with_reducible apply Eff.rows_wf

theorem Eff.rowModes_wf {e : Eff} (h : e.k.mems.wf) (sr : Bool) (n : Nat) :
    (e.rowModes sr n).2.k.mems.wf := by
  unfold Eff.rowModes
  repeat' first
    | with_reducible assumption
    | intro _
    | with_reducible apply ew_fold2
    | with_reducible apply Eff.mode_wf

theorem Eff.writeRow_wf {e : Eff} (h : e.k.mems.wf) (op : MicroOp) (d : TrfOp) (i : Nat) (sr : Bool) (vals : List Elem) :
    (e.writeRow op d i sr vals).k.mems.wf := by
  unfold Eff.writeRow
  repeat' first
    | with_reducible assumption
    | with_reducible apply Eff.writeTrf_wf
    | with_reducible apply Eff.wrote_wf
    | with_reducible apply Eff.rowModes_wf

theorem Eff.convertMxRow_wf {e : Eff} (h : e.k.mems.wf) (op : MicroOp) (d : TrfOp) (i : Nat) (sr : Bool) (vals : List Elem) :
    (e.convertMxRow op d i sr vals).k.mems.wf := by
  unfold Eff.convertMxRow
  repeat' first
    | with_reducible assumption
    | with_reducible apply Eff.writeTrf_wf
    | with_reducible apply Eff.wrote_wf
    | with_reducible apply Eff.rowModes_wf

theorem Eff.convert_wf {e : Eff} (h : e.k.mems.wf) (op : MicroOp) (v : VecOp) :
    (e.convert op v).k.mems.wf := by
  unfold Eff.convert
  repeat' first
    | with_reducible assumption
    | intro _
    | with_reducible apply ew_ite
    | with_reducible apply ew_fold
    | with_reducible apply Eff.touchTrf_wf
    | with_reducible apply Eff.rows_wf
    | with_reducible apply Eff.writeRow_wf
    | with_reducible apply Eff.convertMxRow_wf

theorem Eff.arith_wf {e : Eff} (h : e.k.mems.wf) (op : MicroOp) (v : VecOp) (f : Arith) :
    (e.arith op v f).k.mems.wf := by
  unfold Eff.arith
  try dsimp only
  repeat' first
    | with_reducible assumption
    | intro _
    | split
    | with_reducible apply ew_fold
    | with_reducible apply Eff.touchTrfOp_wf
    | with_reducible apply Eff.rows_wf
    | with_reducible apply Eff.writeRow_wf

theorem Eff.setRed_wf {e : Eff} (h : e.k.mems.wf) (n : Nat) (r : Reducer) :
    (e.setRed n r).k.mems.wf := by
  unfold Eff.setRed
  repeat' first
    | with_reducible assumption
    | simp only [mems_lit]

theorem Eff.rclear_wf {e : Eff} (h : e.k.mems.wf) (v : VecOp) :
    (e.rclear v).k.mems.wf := by
  unfold Eff.rclear
  repeat' first
    | with_reducible assumption
    | intro _
    | with_reducible apply ew_fold
    | with_reducible apply Eff.setRed_wf

theorem Eff.fold_wf {e : Eff} (h : e.k.mems.wf) (n lanes : Nat) (ts : List Ledger) :
    (e.fold n lanes ts).k.mems.wf := by
  unfold Eff.fold
  repeat' first
    | with_reducible assumption
    | with_reducible apply Eff.count_wf
    | with_reducible apply Eff.setRed_wf

theorem Eff.rsum_wf {e : Eff} (h : e.k.mems.wf) (v : VecOp) (square : Bool) :
    (e.rsum v square).k.mems.wf := by
  unfold Eff.rsum
  repeat' first
    | with_reducible assumption
    | intro _
    | with_reducible apply ew_ite
    | with_reducible apply ew_fold
    | with_reducible apply Eff.touchTrfOp_wf
    | with_reducible apply Eff.rows_wf
    | with_reducible apply Eff.fold_wf

theorem Eff.rmax_wf {e : Eff} (h : e.k.mems.wf) (v : VecOp) :
    (e.rmax v).k.mems.wf := by
  unfold Eff.rmax
  repeat' first
    | with_reducible assumption
    | intro _
    | with_reducible apply ew_fold
    | with_reducible apply Eff.touchTrfOp_wf
    | with_reducible apply Eff.rows_wf
    | with_reducible apply Eff.setRed_wf

theorem Eff.rdot_wf {e : Eff} (h : e.k.mems.wf) (v : VecOp) :
    (e.rdot v).k.mems.wf := by
  unfold Eff.rdot
  repeat' first
    | with_reducible assumption
    | intro _
    | with_reducible apply ew_fold
    | with_reducible apply Eff.touchTrfOp_wf
    | with_reducible apply Eff.rows_wf
    | with_reducible apply Eff.fold_wf

theorem Eff.rout_wf {e : Eff} (h : e.k.mems.wf) (op : MicroOp) (v : VecOp) :
    (e.rout op v).k.mems.wf := by
  unfold Eff.rout
  repeat' first
    | with_reducible assumption
    | intro _
    | with_reducible apply ew_ite
    | with_reducible apply ew_fold
    | with_reducible apply Eff.raise_wf
    | with_reducible apply Eff.writeTrf_wf
    | with_reducible apply Eff.rows_wf

theorem Eff.reduceRange_wf {e : Eff} (h : e.k.mems.wf) (op : MicroOp) (n : Option Nat) : (e.reduceRange op n).k.mems.wf := by
  cases n <;> exact h

theorem Eff.rsetref_wf {e : Eff} (h : e.k.mems.wf) (op : MicroOp) (v : VecOp) :
    (e.rsetref op v).k.mems.wf := by
  unfold Eff.rsetref
  try dsimp only
  repeat' first
    | with_reducible assumption
    | intro _
    | split
    | with_reducible apply ew_fold1
    | with_reducible apply Eff.touchTrfOp_wf
    | with_reducible apply Eff.rows_wf
    | with_reducible apply Eff.setRed_wf
    | with_reducible apply Eff.reduceRange_wf

theorem SmxRow.element_wf {z : SmxRow} (h : z.e.k.mems.wf) (v : VecOp) (p : TrfOp) (j : Nat) (x : Elem) (m r : Bool) :
    (z.element v p j x m r).e.k.mems.wf := by
  unfold SmxRow.element
  have h1 := Eff.mode_wf h v.sr (j % 64)
  dsimp only
  split
  · exact h1
  · split <;> exact h1

theorem SmxRow.elements_wf {v : VecOp} {p : TrfOp} {r : Bool} {l : List (Nat × Elem × Bool)} {z : SmxRow} (h : z.e.k.mems.wf) :
    (l.foldl (fun (z : SmxRow) x => z.element v p x.1 x.2.1 x.2.2 r) z).e.k.mems.wf := by
  induction l generalizing z with
  | nil => exact h
  | cons a l ih => exact ih (SmxRow.element_wf h _ _ _ _ _ _)

theorem Eff.smxRow_wf {e : Eff} (h : e.k.mems.wf) (op : MicroOp) (v : VecOp) (s p : TrfOp) (n i : Nat) :
    (e.smxRow op v s p n i).1.k.mems.wf := by
  unfold Eff.smxRow
  simp only []
  refine Eff.wrote_wf (Eff.writeTrf_wf (Eff.count_wf (Eff.setRed_wf (SmxRow.elements_wf ?_) _ _) _ _) _ _) _ _ _
  exact h

theorem Eff.smxExp_wf {e : Eff} (h : e.k.mems.wf) (op : MicroOp) (v : VecOp) :
    (e.smxExp op v).k.mems.wf := by
  unfold Eff.smxExp
  repeat' first
    | with_reducible assumption
    | intro _
    | with_reducible apply ew_fold1
    | with_reducible apply Eff.touchTrfOp_wf
    | with_reducible apply Eff.rows_wf
    | with_reducible apply Eff.reduceRange_wf
    | with_reducible apply Eff.smxRow_wf

theorem Eff.rsave_wf {e : Eff} (h : e.k.mems.wf) (v : VecOp) :
    (e.rsave v).k.mems.wf := by
  unfold Eff.rsave
  repeat' first
    | with_reducible assumption
    | intro _
    | with_reducible apply ew_fold
    | with_reducible apply Eff.writeLs_wf

theorem Eff.rload_wf {e : Eff} (h : e.k.mems.wf) (op : MicroOp) (v : VecOp) (merge : Bool) :
    (e.rload op v merge).k.mems.wf := by
  unfold Eff.rload
  try dsimp only
  repeat' first
    | with_reducible assumption
    | intro _
    | split
    | with_reducible apply ew_fold1
    | with_reducible apply Eff.touchLs_wf
    | with_reducible apply Eff.setRed_wf
    | with_reducible apply Eff.reduceRange_wf

theorem Eff.statsFlush_wf {e : Eff} (h : e.k.mems.wf) (v : VecOp) :
    (e.statsFlush v).k.mems.wf := by
  unfold Eff.statsFlush
  repeat' first
    | with_reducible assumption
    | with_reducible apply Eff.writeLs_wf
    | simp only [mems_lit]

theorem Eff.gradRows_wf {e : Eff} (h : e.k.mems.wf) (op : MicroOp) (v : VecOp) (norm : Bool) :
    (e.gradRows op v norm).k.mems.wf := by
  unfold Eff.gradRows
  repeat' first
    | with_reducible assumption
    | intro _
    | with_reducible apply ew_fold
    | with_reducible apply Eff.touchTrfOp_wf
    | with_reducible apply Eff.rows_wf
    | with_reducible apply Eff.writeRow_wf

theorem Eff.assay_wf {e : Eff} (h : e.k.mems.wf) (v : VecOp) :
    (e.assay v).k.mems.wf := by
  unfold Eff.assay
  repeat' first
    | with_reducible assumption
    | intro _
    | split
    | with_reducible apply ew_fold1
    | with_reducible apply Eff.count_wf
    | with_reducible apply Eff.touchLs_wf
    | with_reducible apply Eff.writeLs_wf
    | simp only [mems_lit]

theorem Eff.assaySet_wf {e : Eff} (h : e.k.mems.wf) (v : VecOp) :
    (e.assaySet v).k.mems.wf := by
  unfold Eff.assaySet
  repeat' first
    | with_reducible assumption
    | simp only [mems_lit]

theorem Eff.updElem_wf {e : Eff} (h : e.k.mems.wf) (v : UpdRule) (j : Nat) (w m vv g : Elem) (h : Nat → Elem) :
    (e.updElem v j w m vv g h).2.2.k.mems.wf := by
  unfold Eff.updElem
  repeat' first
    | with_reducible assumption
    | split
    | with_reducible apply Eff.mode_wf

theorem Eff.update_wf {e : Eff} (h : e.k.mems.wf) (op : MicroOp) (v : VecOp) :
    (e.update op v).k.mems.wf := by
  unfold Eff.update
  repeat' first
    | with_reducible assumption
    | intro _
    | with_reducible apply ew_fold
    | with_reducible apply ew_fold3
    | with_reducible apply Eff.writeTrf_wf
    | with_reducible apply Eff.touchTrfOp_wf
    | with_reducible apply Eff.wrote_wf
    | with_reducible apply Eff.rows_wf
    | with_reducible apply Eff.updElem_wf

theorem Eff.rngSeed_wf {e : Eff} (h : e.k.mems.wf) (v : VecOp) :
    (e.rngSeed v).k.mems.wf := by
  unfold Eff.rngSeed
  repeat' first
    | with_reducible assumption
    | simp only [mems_lit]

theorem Eff.rngSave_wf {e : Eff} (h : e.k.mems.wf) (v : VecOp) :
    (e.rngSave v).k.mems.wf := by
  unfold Eff.rngSave
  repeat' first
    | with_reducible assumption
    | with_reducible apply Eff.writeLs_wf

theorem Eff.rngLoad_wf {e : Eff} (h : e.k.mems.wf) (v : VecOp) :
    (e.rngLoad v).k.mems.wf := by
  unfold Eff.rngLoad
  repeat' first
    | with_reducible assumption
    | intro _
    | with_reducible apply ew_ite
    | with_reducible apply ew_fold
    | with_reducible apply Eff.raise_wf
    | with_reducible apply Eff.touchLs_wf
    | simp only [mems_lit]

theorem Eff.spikeCheck_wf {e : Eff} (h : e.k.mems.wf) (v : VecOp) :
    (e.spikeCheck v).k.mems.wf := by
  unfold Eff.spikeCheck
  repeat' first
    | with_reducible assumption
    | with_reducible apply Eff.addSpike_wf
    | with_reducible apply Eff.touchTrfOp_wf
    | with_reducible apply Eff.rows_wf

theorem CoreSt.setThread_wf {k : CoreSt} (h : k.mems.wf) (t : Nat) (th : Thread) :
    (k.setThread t th).mems.wf := by
  unfold CoreSt.setThread
  repeat' first
    | with_reducible assumption
    | simp only [mems_lit]

theorem Eff.onThread_wf {e : Eff} (h : e.k.mems.wf) (t : Nat) (f : Thread → Thread) :
    (e.onThread t f).k.mems.wf := by
  unfold Eff.onThread
  repeat' first
    | with_reducible assumption
    | with_reducible apply CoreSt.setThread_wf

theorem Eff.tallyExc_wf {e : Eff} (h : e.k.mems.wf) (t cause : Nat) (addr : Word) :
    (e.tallyExc t cause addr).k.mems.wf := by
  unfold Eff.tallyExc
  repeat' first
    | with_reducible assumption
    | with_reducible apply ew_ite
    | with_reducible apply Eff.raise_wf
    | with_reducible apply Eff.setPending_wf
    | with_reducible apply Eff.onThread_wf

theorem Eff.retire_wf {e : Eff} (h : e.k.mems.wf) (t : Nat) (rd : Nat) (v : Word) :
    (e.retire t rd v).k.mems.wf := by
  unfold Eff.retire
  repeat' first
    | with_reducible assumption
    | with_reducible apply Eff.onThread_wf

theorem Eff.advance_wf {e : Eff} (h : e.k.mems.wf) (t : Nat) :
    (e.advance t).k.mems.wf := by
  unfold Eff.advance
  repeat' first
    | with_reducible assumption
    | with_reducible apply Eff.onThread_wf

theorem Eff.jumpTo_wf {e : Eff} (h : e.k.mems.wf) (t : Nat) (rd : Nat) (v target : Word) :
    (e.jumpTo t rd v target).k.mems.wf := by
  unfold Eff.jumpTo
  repeat' first
    | with_reducible assumption
    | with_reducible apply Eff.onThread_wf

theorem Eff.park_wf {e : Eff} (h : e.k.mems.wf) (t : Nat) (st : ThreadState) :
    (e.park t st).k.mems.wf := by
  unfold Eff.park
  repeat' first
    | with_reducible assumption
    | with_reducible apply Eff.onThread_wf

theorem Eff.readPlace_wf {e : Eff} (h : e.k.mems.wf) (p : Place) (w : Nat) : (e.readPlace p w).2.k.mems.wf := by
  cases p with
  | dmem o => exact mems_dmem h (fun x => wf_of_eq (store_afterRead_data _ _ _) x)
  | ls o => exact Eff.touchLs_wf h _ _
  | desc o => exact h
  | tile n => exact h
  | far a => exact h

theorem Eff.writePlace_wf {e : Eff} (h : e.k.mems.wf) (p : Place) (w v : Nat) : (e.writePlace p w v).k.mems.wf := by
  cases p with
  | dmem o => exact mems_dmem h (fun x => store_write_wf x _ _)
  | ls o => exact Eff.writeLs_wf h _ _
  | desc o => exact h
  | tile n => exact h
  | far a => exact h

theorem CoreSt.farUse_wf {k : CoreSt} (h : k.mems.wf) (dva : Nat) (data : BitVec 512) :
    (k.farUse dva data).mems.wf := by
  unfold CoreSt.farUse
  repeat' first
    | with_reducible assumption
    | simp only [mems_lit]

theorem CoreSt.performShadow_wf {k : CoreSt} (h : k.mems.wf) (t : Nat) :
    (k.performShadow t).mems.wf := by
  unfold CoreSt.performShadow
  repeat' first
    | with_reducible assumption
    | simp only [mems_lit]

theorem CoreSt.writeNf_wf {k : CoreSt} (h : k.mems.wf) (v : BitVec 48) :
    (k.writeNf v).mems.wf := by
  unfold CoreSt.writeNf
  repeat' first
    | with_reducible assumption
    | with_reducible apply Eff.writeNf_wf

theorem CoreSt.writeSpike_wf {k : CoreSt} (h : k.mems.wf) (v : BitVec 48) :
    (k.writeSpike v).mems.wf := by
  unfold CoreSt.writeSpike
  repeat' first
    | with_reducible assumption
    | with_reducible apply Eff.writeSpike_wf

theorem CoreSt.writeSpecial_wf {k x : CoreSt} (h : k.mems.wf) {t idx : Nat} {v : Word} (hx : k.writeSpecial t idx v = some x) :
    x.mems.wf := by
  unfold CoreSt.writeSpecial at hx
  dsimp only at hx
  split at hx <;> cases hx
  · exact CoreSt.clearEvents_wf h _
  · exact CoreSt.writeNf_wf h _
  · exact h
  · exact CoreSt.writeSpike_wf h _
  · exact h
  · exact CoreSt.setThread_wf h _ _
  · exact CoreSt.setThread_wf h _ _

theorem Eff.finishLoad_wf {e : Eff} (h : e.k.mems.wf) (t : Nat) (rd : Fin 32) (a : Word) (w : Nat) (sx : Bool) (l : Loaded) :
    (e.finishLoad t rd a w sx l).k.mems.wf := by
  unfold Eff.finishLoad
  repeat' first
    | with_reducible assumption
    | with_reducible apply ew_ite
    | with_reducible apply Eff.tallyExc_wf
    | with_reducible apply Eff.retire_wf

theorem Eff.load_wf {e : Eff} (h : e.k.mems.wf) (t : Nat) (rd : Fin 32) (a : Word) (w : Nat) (sx : Bool) :
    (e.load t rd a w sx).1.k.mems.wf := by
  unfold Eff.load
  try dsimp only
  repeat' first
    | with_reducible assumption
    | split
    | with_reducible apply Eff.count_wf
    | with_reducible apply Eff.tallyExc_wf
    | with_reducible apply Eff.park_wf
    | with_reducible apply Eff.readPlace_wf
    | with_reducible apply CoreSt.farUse_wf
    | with_reducible apply Eff.finishLoad_wf

theorem Eff.store_wf {e : Eff} (h : e.k.mems.wf) (t : Nat) (a : Word) (w : Nat) (v : Word) :
    (e.store t a w v).1.k.mems.wf := by
  unfold Eff.store
  repeat' first
    | with_reducible assumption
    | split
    | with_reducible apply Eff.onThread_wf
    | with_reducible apply Eff.tallyExc_wf
    | with_reducible apply Eff.advance_wf
    | with_reducible apply Eff.park_wf
    | with_reducible apply Eff.writePlace_wf
    | with_reducible apply CoreSt.farUse_wf

theorem Eff.launch_wf {e : Eff} (h : e.k.mems.wf) (t : Nat) (rd : Fin 32) (d : Word) :
    (e.launch t rd d).k.mems.wf := by
  unfold Eff.launch
  repeat' first
    | with_reducible assumption
    | with_reducible apply ew_ite
    | with_reducible apply Eff.retire_wf
    | with_reducible apply Eff.park_wf
    | with_reducible apply CoreSt.performShadow_wf
    | simp only [mems_lit]

theorem Eff.regOp_wf {e : Eff} (h : e.k.mems.wf) (t : Nat) (f : RegFn) (rd rs1 rs2 : Fin 32) (busy owed : Bool) :
    (e.regOp t f rd rs1 rs2 busy owed).k.mems.wf := by
  unfold Eff.regOp
  repeat' first
    | with_reducible assumption
    | split
    | with_reducible apply CoreSt.clearEvents_wf
    | with_reducible apply Eff.onThread_wf
    | with_reducible apply Eff.tallyExc_wf
    | with_reducible apply Eff.retire_wf
    | with_reducible apply Eff.advance_wf
    | with_reducible apply Eff.jumpTo_wf
    | with_reducible apply Eff.park_wf
    | with_reducible apply Eff.readPlace_wf
    | with_reducible apply Eff.writePlace_wf
    | simp only [mems_lit]

theorem Eff.immOp_wf {e : Eff} (h : e.k.mems.wf) (t : Nat) (o : ImmOp) (rd rs1 : Fin 32) (v : BitVec 16) (mirror : Nat → Option Word) :
    (e.immOp t o rd rs1 v mirror).k.mems.wf := by
  unfold Eff.immOp
  dsimp only
  repeat' first
    | with_reducible assumption
    | split
    | with_reducible apply Eff.tallyExc_wf
    | with_reducible apply Eff.retire_wf
    | with_reducible apply Eff.advance_wf
    | with_reducible apply Eff.park_wf
    | with_reducible apply Eff.launch_wf
    | exact CoreSt.writeSpecial_wf h (by assumption)
    | with_reducible apply CoreSt.bump_wf
    | with_reducible apply Eff.onThread_wf
    | simp only [mems_lit]

theorem Eff.tallyOp_wf {e : Eff} (h : e.k.mems.wf) (t : Nat) (op : TallyOp) (busy owed : Bool) (mirror : Nat → Option Word) :
    (e.tallyOp t op busy owed mirror).1.k.mems.wf := by
  unfold Eff.tallyOp
  try dsimp only
  repeat' first
    | with_reducible assumption
    | split
    | with_reducible apply Eff.retire_wf
    | with_reducible apply Eff.advance_wf
    | with_reducible apply Eff.jumpTo_wf
    | with_reducible apply Eff.load_wf
    | with_reducible apply Eff.store_wf
    | with_reducible apply Eff.regOp_wf
    | with_reducible apply Eff.immOp_wf

theorem Eff.issueTime_wf {e : Eff} (h : e.k.mems.wf) (t gap : Nat) : (e.issueTime t gap).k.mems.wf := by
  unfold Eff.issueTime
  dsimp only
  refine Eff.count_wf (Eff.count_wf ?_ _ _) _ _
  exact CoreSt.performShadow_wf h _

theorem Eff.tallyIssue_wf {e : Eff} (h : e.k.mems.wf) (t gap : Nat) (op : TallyOp) (busy owed : Bool) (mirror : Nat → Option Word) :
    (e.tallyIssue t gap op busy owed mirror).1.k.mems.wf := by
  unfold Eff.tallyIssue
  repeat' first
    | with_reducible assumption
    | split
    | with_reducible apply Eff.tallyOp_wf
    | with_reducible apply Eff.issueTime_wf

theorem Eff.fetchExc_wf {e : Eff} (h : e.k.mems.wf) (t gap : Nat) (causes : List Nat) :
    (e.fetchExc t gap causes).k.mems.wf := by
  unfold Eff.fetchExc
  repeat' first
    | with_reducible assumption
    | split
    | with_reducible apply Eff.tallyExc_wf
    | with_reducible apply Eff.issueTime_wf

theorem Eff.tallyWake_wf {e : Eff} (h : e.k.mems.wf) (t gap : Nat) (busy owed : Bool) (mirror : Nat → Option Word) :
    (e.tallyWake t gap busy owed mirror).1.k.mems.wf := by
  unfold Eff.tallyWake
  repeat' first
    | with_reducible assumption
    | split
    | with_reducible apply CoreSt.performShadow_wf
    | with_reducible apply Eff.tallyOp_wf
    | simp only [mems_lit]

theorem Eff.farAnswer_wf {e : Eff} (h : e.k.mems.wf) (t : Nat) (refused : Bool) (data : BitVec 512) (poison : Bool) :
    (e.farAnswer t refused data poison).k.mems.wf := by
  unfold Eff.farAnswer
  repeat' first
    | with_reducible assumption
    | split
    | with_reducible apply Eff.tallyExc_wf
    | with_reducible apply CoreSt.farUse_wf
    | with_reducible apply Eff.finishLoad_wf

theorem Eff.completeWindows_wf {e : Eff} (h : e.k.mems.wf) (n : Nat) : (Eff.completeWindows n e).k.mems.wf := by
  induction n generalizing e with
  | zero => exact h
  | succ n ih =>
    unfold Eff.completeWindows
    split
    · refine ih (Eff.opDone_wf ?_ _ _)
      exact h
    · exact h

theorem Eff.enterWindow_wf {e : Eff} (h : e.k.mems.wf) (o : MicroOp) (i : Nat) :
    (e.enterWindow o i).k.mems.wf := by
  unfold Eff.enterWindow
  repeat' first
    | with_reducible assumption
    | with_reducible apply CoreSt.setQueue_wf
    | with_reducible apply Eff.completeWindows_wf
    | simp only [mems_lit]

theorem Eff.postWindow_wf {e : Eff} (h : e.k.mems.wf) (gap : Nat) :
    (e.postWindow gap).k.mems.wf := by
  unfold Eff.postWindow
  repeat' first
    | with_reducible assumption
    | split
    | with_reducible apply Eff.enterWindow_wf
    | simp only [mems_lit]

theorem Eff.arrive_wf {e : Eff} (h : e.k.mems.wf) (m a : Nat) (bs : List (Byte × Bool)) :
    (e.arrive m a bs).k.mems.wf := by
  unfold Eff.arrive
  repeat' first
    | with_reducible assumption
    | split
    | with_reducible apply Eff.raise_wf
    | with_reducible apply Eff.count_wf
    | with_reducible apply Eff.writeLs_wf
    | with_reducible apply Eff.completeWindows_wf
    | simp only [mems_lit]

theorem Eff.arriveBlock_wf {e : Eff} (h : e.k.mems.wf) (m line mask : Nat) (data : BitVec 512) (mark : Bool) :
    (e.arriveBlock m line mask data mark).k.mems.wf := by
  unfold Eff.arriveBlock
  repeat' first
    | with_reducible assumption
    | intro _
    | with_reducible apply ew_fold
    | with_reducible apply Eff.arrive_wf

theorem Eff.windowIdle_wf {e : Eff} (h : e.k.mems.wf) (i gap : Nat) :
    (e.windowIdle i gap).k.mems.wf := by
  unfold Eff.windowIdle
  repeat' first
    | with_reducible assumption
    | split
    | with_reducible apply Eff.raise_wf
    | simp only [mems_lit]

theorem Eff.freeze_wf {e : Eff} (h : e.k.mems.wf) (gap : Nat) :
    (e.freeze gap).k.mems.wf := by
  unfold Eff.freeze
  repeat' first
    | with_reducible assumption
    | with_reducible apply ew_ite
    | with_reducible apply Eff.raise_wf
    | simp only [mems_lit]

theorem Eff.recover_wf {e : Eff} (h : e.k.mems.wf) :
    (e.recover).k.mems.wf := by
  unfold Eff.recover
  repeat' first
    | with_reducible assumption
    | intro _
    | split
    | with_reducible apply cw_fold
    | with_reducible apply Eff.settle_wf
    | with_reducible apply CoreSt.setThread_wf
    | simp only [mems_lit]

theorem Eff.elapsed_wf {e : Eff} (h : e.k.mems.wf) (k : CoreSt) (fabric : List Nat) :
    (e.elapsed k fabric).k.mems.wf := by
  unfold Eff.elapsed
  repeat' first
    | with_reducible assumption
    | intro _
    | with_reducible apply ew_ite
    | with_reducible apply ew_fold
    | with_reducible apply Eff.count_wf
    | simp only [mems_lit]

theorem CoreSt.accessDone_wf {k : CoreSt} (h : k.mems.wf) (g : Engine) (uid : Nat) :
    (k.accessDone g uid).mems.wf := by
  unfold CoreSt.accessDone
  repeat' first
    | with_reducible assumption
    | with_reducible apply CoreSt.setActive_wf

theorem CoreSt.noBump_wf {k : CoreSt} (h : k.mems.wf) (g : Engine) (uid : Nat) :
    (k.noBump g uid).mems.wf := by
  unfold CoreSt.noBump
  repeat' first
    | with_reducible assumption
    | with_reducible apply CoreSt.setActive_wf

theorem CoreSt.writePattern_wf {k : CoreSt} (h : k.mems.wf) (a : Nat) (bs : List (Byte × Bool)) : (k.writePattern a bs).mems.wf :=
  mems_pattern h (fun x => Mem.wf_wrBytes _ _ x)

theorem Eff.streamWritten_wf {e : Eff} (h : e.k.mems.wf) (ts : List Txn) :
    (e.streamWritten ts).k.mems.wf := by
  unfold Eff.streamWritten
  repeat' first
    | with_reducible assumption
    | intro _
    | split
    | with_reducible apply ew_fold
    | with_reducible apply Eff.count_wf
    | with_reducible apply Eff.writeLs_wf
    | with_reducible apply CoreSt.writePattern_wf

theorem Eff.writeEnded_wf {e : Eff} (h : e.k.mems.wf) (uid inv code : Nat) :
    (e.writeEnded uid inv code).k.mems.wf := by
  unfold Eff.writeEnded
  repeat' first
    | with_reducible assumption
    | with_reducible apply ew_ite
    | with_reducible apply Eff.count_wf
    | with_reducible apply Eff.faultInv_wf
    | with_reducible apply CoreSt.accessDone_wf
    | with_reducible apply CoreSt.noBump_wf

theorem Eff.mail_wf {e : Eff} (h : e.k.mems.wf) (v : Word) :
    (e.mail v).k.mems.wf := by
  unfold Eff.mail
  repeat' first
    | with_reducible assumption
    | with_reducible apply Eff.setPending_wf
    | simp only [mems_lit]

theorem CoreSt.captured_wf {k : CoreSt} (h : k.mems.wf) : k.captured.mems.wf := by
  unfold CoreSt.captured
  exact ⟨wf_of_eq (store_afterRead_data _ _ _) h.ls, wf_of_eq (store_afterRead_data _ _ _) h.trf, h.pattern, h.imem,
    wf_of_eq (store_afterRead_data _ _ _) h.dmem⟩

theorem CoreSt.loadPort_wf {k : CoreSt} (h : k.mems.wf) (im : List (Byte × Bool)) : (k.loadPort im).mems.wf := by
  unfold CoreSt.loadPort
  dsimp only
  refine cw_fold (CoreSt.writePattern_wf ?_ _ _) (fun _ _ hk => CoreSt.setThread_wf hk _ _)
  exact ⟨h.ls, h.trf, h.pattern, Mem.wf_wrBytes _ _ h.imem, store_write_wf h.dmem _ _⟩

theorem Eff.restoreContext_wf {e : Eff} (h : e.k.mems.wf) (im : List (Byte × Bool)) (release : Word) :
    (e.restoreContext im release).k.mems.wf := by
  unfold Eff.restoreContext
  repeat' first
    | with_reducible assumption
    | with_reducible apply Eff.writeLs_wf
    | with_reducible apply Eff.writeTrf_wf
    | with_reducible apply Eff.mergeImage_wf
    | with_reducible apply Eff.mail_wf
    | with_reducible apply CoreSt.loadPort_wf

theorem CoreSt.setLeft_wf {k : CoreSt} (h : k.mems.wf) (g : Engine) (uid n : Nat) :
    (k.setLeft g uid n).mems.wf := by
  unfold CoreSt.setLeft
  repeat' first
    | with_reducible assumption
    | with_reducible apply CoreSt.setActive_wf

theorem Eff.refuseOp_wf {e : Eff} (h : e.k.mems.wf) (g : Engine) (o : MicroOp) (hard : Bool) :
    (e.refuseOp g o hard).k.mems.wf := by
  unfold Eff.refuseOp
  repeat' first
    | with_reducible assumption
    | with_reducible apply Eff.faultInv_wf
    | with_reducible apply CoreSt.noBump_wf

theorem Eff.setInvalid_wf {e : Eff} (h : e.k.mems.wf) (o : MicroOp) (set : Nat) :
    (e.setInvalid o set).k.mems.wf := by
  unfold Eff.setInvalid
  repeat' first
    | with_reducible assumption
    | with_reducible apply Eff.raise_wf
    | with_reducible apply Eff.refuseOp_wf

theorem Eff.released_wf {e : Eff} (h : e.k.mems.wf) (o : MicroOp) :
    (e.released o).k.mems.wf := by
  unfold Eff.released
  repeat' first
    | with_reducible assumption
    | with_reducible apply CoreSt.releaseReads_wf

theorem Eff.vecRow_wf {e : Eff} (h : e.k.mems.wf) (gap code : Nat) (f : Eff → MicroOp → VecOp → Eff)
    (hf : ∀ e o v, e.k.mems.wf → (f e o v).k.mems.wf) : (e.vecRow gap code f).k.mems.wf :=
  Eff.atHead_wf h _ _ _ _ (fun _ _ he => Eff.released_wf (hf _ _ _ he) _)

theorem Eff.drainRow_wf {e : Eff} (h : e.k.mems.wf) (gap code : Nat) (f : Eff → MicroOp → DrainOp → Eff)
    (hf : ∀ e o v, e.k.mems.wf → (f e o v).k.mems.wf) : (e.drainRow gap code f).k.mems.wf :=
  Eff.atHead_wf h _ _ _ _ (fun _ _ he => Eff.released_wf (hf _ _ _ he) _)

theorem Eff.updPiece_wf {e : Eff} (h : e.k.mems.wf) (l : Layout) (ss : List (Word32 × Bool)) (w m v hy : List (Byte × Bool)) :
    (e.updPiece l ss w m v hy).2.k.mems.wf := by
  unfold Eff.updPiece
  repeat' first
    | with_reducible assumption
    | intro _
    | with_reducible apply ew_fold2
    | with_reducible apply Eff.updElem_wf

theorem Eff.loadGenerators_wf {e : Eff} (h : e.k.mems.wf) (im : List (Byte × Bool)) :
    (e.loadGenerators im).k.mems.wf := by
  unfold Eff.loadGenerators
  repeat' first
    | with_reducible assumption
    | intro _
    | with_reducible apply ew_ite
    | with_reducible apply ew_fold
    | with_reducible apply Eff.raise_wf
    | simp only [mems_lit]

theorem CoreSt.zeroised_wf (k : CoreSt) : k.zeroised.mems.wf := ⟨rfl, rfl, rfl, rfl, rfl⟩

theorem CoreSt.halted_wf {k : CoreSt} (h : k.mems.wf) :
    (k.halted).mems.wf := by
  unfold CoreSt.halted
  repeat' first
    | with_reducible assumption
    | simp only [mems_lit]

end Sys2Proof.Machine
end

