-- ==== Sys2Proof/Laws/Keeps.lean ====
section
/-! SUPPORT. What every operation leaves alone: the queue of commands, the canonical form of every memory, and the locked access
tables. One lemma for each operation over State, cited by the lemmas of the commands. -/

namespace Sys2Proof.Machine

/-- What `Keeps` speaks about. -/
structure Held where
  cores : Tab CoreSt
  pending : List Instr
  hostMem : Mem
  flash : Mem
  shale : Mem
  bedrock : Mem
  sec : Security

/-- The held part of a state. -/
def State.held (s : State) : Held := ⟨s.cores, s.pending, s.hostMem, s.flash, s.tiers.shale.data, s.tiers.bedrock, s.sec⟩

/-- All memories have their canonical form. -/
def Held.wf (h : Held) : Prop :=
  Mem.wf h.hostMem = true ∧ Mem.wf h.flash = true ∧ Mem.wf h.shale = true ∧ Mem.wf h.bedrock = true ∧
    ∀ p ∈ h.cores, p.2.mems.wf

theorem sameLock_refl (x : Security) : sameLock x x := fun h => ⟨h, rfl, rfl, rfl, rfl, rfl, rfl, rfl⟩

theorem sameLock_trans {x y z : Security} (p : sameLock x y) (q : sameLock y z) : sameLock x z := by
  intro h
  obtain ⟨a, a1, a2, a3, a4, a5, a6, a7⟩ := p h
  obtain ⟨c, c1, c2, c3, c4, c5, c6, c7⟩ := q a
  exact ⟨c, c1.trans a1, c2.trans a2, c3.trans a3, c4.trans a4, c5.trans a5, c6.trans a6, c7.trans a7⟩

/-- From `g` to `h` the queue is the same and the memories keep their form; `lk` says that the lock is kept as well. -/
structure Keeps (lk : Bool) (g h : Held) : Prop where
  pending : h.pending = g.pending
  wf : g.wf → h.wf
  lock : lk = true → sameLock g.sec h.sec

theorem Keeps.refl {lk : Bool} (g : Held) : Keeps lk g g := ⟨rfl, id, fun _ => sameLock_refl _⟩

theorem Keeps.trans {lk : Bool} {g h i : Held} (p : Keeps lk g h) (q : Keeps lk h i) : Keeps lk g i :=
  ⟨q.pending.trans p.pending, fun x => q.wf (p.wf x), fun x => sameLock_trans (p.lock x) (q.lock x)⟩

variable {lk : Bool} {z0 : Held}

theorem held_lit {s : State}
    {x_guilds : Tab GuildSt} {x_txns : List Txn} {x_nextTxn : Nat} {x_nextIssue : Nat}
    {x_bursts : List Burst} {x_nextBurst : Nat} {x_nextDray : Nat} {x_sets : Tab Word} {x_setMasks : Tab Word}
    {x_self : Word32} {x_links : Tab LinkSt} {x_routes : Tab Word32} {x_landing : Tab Word} {x_sqs : Tab SubRing}
    {x_cqs : Tab CompRing} {x_evq : EventRing} {x_cmds : List Cmd} {x_nextCmd : Nat} {x_occurrences : List Occurrence}
    {x_evPending : Tab Word} {x_evCounts : Tab GauCounter} {x_port : HostPort} {x_hostPoison : List Nat} {x_house : House}
    {x_fuses : Fuses} {x_snapshot : Option Snapshot} {x_restore : Option Restore} {x_coll : Collective}
    {x_unitCounters : Tab GauCounter} {x_bwCfg : Word32} {x_bwLog : Tab Nat} {x_bwNow : Tab Nat} {x_bwLast : Tab Word}
    {x_bwPeak : Tab Nat} {x_asks : List Ask} {x_free : Nat} :
    State.held (State.mk
      s.cores x_guilds s.tiers x_txns x_nextTxn x_nextIssue x_bursts x_nextBurst x_nextDray x_sets x_setMasks x_self x_links
      x_routes x_landing x_sqs x_cqs x_evq x_cmds x_nextCmd x_occurrences x_evPending x_evCounts x_port s.hostMem
      x_hostPoison x_house s.sec x_fuses s.flash x_snapshot x_restore x_coll x_unitCounters x_bwCfg x_bwLog x_bwNow x_bwLast
      x_bwPeak x_asks x_free s.pending) = s.held := rfl

theorem held_tiers {s : State} {w : Tab PtCache}
    {x_guilds : Tab GuildSt} {x_txns : List Txn} {x_nextTxn : Nat} {x_nextIssue : Nat}
    {x_bursts : List Burst} {x_nextBurst : Nat} {x_nextDray : Nat} {x_sets : Tab Word} {x_setMasks : Tab Word}
    {x_self : Word32} {x_links : Tab LinkSt} {x_routes : Tab Word32} {x_landing : Tab Word} {x_sqs : Tab SubRing}
    {x_cqs : Tab CompRing} {x_evq : EventRing} {x_cmds : List Cmd} {x_nextCmd : Nat} {x_occurrences : List Occurrence}
    {x_evPending : Tab Word} {x_evCounts : Tab GauCounter} {x_port : HostPort} {x_hostPoison : List Nat} {x_house : House}
    {x_fuses : Fuses} {x_snapshot : Option Snapshot} {x_restore : Option Restore} {x_coll : Collective}
    {x_unitCounters : Tab GauCounter} {x_bwCfg : Word32} {x_bwLog : Tab Nat} {x_bwNow : Tab Nat} {x_bwLast : Tab Word}
    {x_bwPeak : Tab Nat} {x_asks : List Ask} {x_free : Nat} :
    State.held (State.mk
      s.cores x_guilds (Tiers.mk s.tiers.shale s.tiers.bedrock w) x_txns x_nextTxn x_nextIssue x_bursts x_nextBurst
      x_nextDray x_sets x_setMasks x_self x_links x_routes x_landing x_sqs x_cqs x_evq x_cmds x_nextCmd x_occurrences
      x_evPending x_evCounts x_port s.hostMem x_hostPoison x_house s.sec x_fuses s.flash x_snapshot x_restore x_coll
      x_unitCounters x_bwCfg x_bwLog x_bwNow x_bwLast x_bwPeak x_asks x_free s.pending) = s.held := rfl

theorem keeps_sec {s : State} (h : Keeps lk z0 s.held) {n : Nat} {c : Bool}
    {x_guilds : Tab GuildSt} {x_txns : List Txn} {x_nextTxn : Nat} {x_nextIssue : Nat}
    {x_bursts : List Burst} {x_nextBurst : Nat} {x_nextDray : Nat} {x_sets : Tab Word} {x_setMasks : Tab Word}
    {x_self : Word32} {x_links : Tab LinkSt} {x_routes : Tab Word32} {x_landing : Tab Word} {x_sqs : Tab SubRing}
    {x_cqs : Tab CompRing} {x_evq : EventRing} {x_cmds : List Cmd} {x_nextCmd : Nat} {x_occurrences : List Occurrence}
    {x_evPending : Tab Word} {x_evCounts : Tab GauCounter} {x_port : HostPort} {x_hostPoison : List Nat} {x_house : House}
    {x_fuses : Fuses} {x_snapshot : Option Snapshot} {x_restore : Option Restore} {x_coll : Collective}
    {x_unitCounters : Tab GauCounter} {x_bwCfg : Word32} {x_bwLog : Tab Nat} {x_bwNow : Tab Nat} {x_bwLast : Tab Word}
    {x_bwPeak : Tab Nat} {x_asks : List Ask} {x_free : Nat} :
    Keeps lk z0 (State.held (State.mk
      s.cores x_guilds s.tiers x_txns x_nextTxn x_nextIssue x_bursts x_nextBurst x_nextDray x_sets x_setMasks x_self x_links
      x_routes x_landing x_sqs x_cqs x_evq x_cmds x_nextCmd x_occurrences x_evPending x_evCounts x_port s.hostMem
      x_hostPoison x_house (Security.mk s.sec.acl s.sec.domCore s.sec.domPeer s.sec.domHost s.sec.lsClass s.sec.locked s.sec.digest s.sec.restoreKey n c) x_fuses s.flash x_snapshot x_restore x_coll x_unitCounters x_bwCfg x_bwLog x_bwNow
      x_bwLast x_bwPeak x_asks x_free s.pending)) :=
  ⟨h.pending, h.wf, fun x => h.lock x⟩

theorem keeps_flash {s : State} (h : Keeps lk z0 s.held) {m : Mem} (hm : Mem.wf s.flash = true → Mem.wf m = true)
    {x_guilds : Tab GuildSt} {x_txns : List Txn} {x_nextTxn : Nat} {x_nextIssue : Nat}
    {x_bursts : List Burst} {x_nextBurst : Nat} {x_nextDray : Nat} {x_sets : Tab Word} {x_setMasks : Tab Word}
    {x_self : Word32} {x_links : Tab LinkSt} {x_routes : Tab Word32} {x_landing : Tab Word} {x_sqs : Tab SubRing}
    {x_cqs : Tab CompRing} {x_evq : EventRing} {x_cmds : List Cmd} {x_nextCmd : Nat} {x_occurrences : List Occurrence}
    {x_evPending : Tab Word} {x_evCounts : Tab GauCounter} {x_port : HostPort} {x_hostPoison : List Nat} {x_house : House}
    {x_fuses : Fuses} {x_snapshot : Option Snapshot} {x_restore : Option Restore} {x_coll : Collective}
    {x_unitCounters : Tab GauCounter} {x_bwCfg : Word32} {x_bwLog : Tab Nat} {x_bwNow : Tab Nat} {x_bwLast : Tab Word}
    {x_bwPeak : Tab Nat} {x_asks : List Ask} {x_free : Nat} :
    Keeps lk z0 (State.held (State.mk
      s.cores x_guilds s.tiers x_txns x_nextTxn x_nextIssue x_bursts x_nextBurst x_nextDray x_sets x_setMasks x_self x_links
      x_routes x_landing x_sqs x_cqs x_evq x_cmds x_nextCmd x_occurrences x_evPending x_evCounts x_port s.hostMem
      x_hostPoison x_house s.sec x_fuses m x_snapshot x_restore x_coll x_unitCounters x_bwCfg x_bwLog x_bwNow x_bwLast
      x_bwPeak x_asks x_free s.pending)) :=
  ⟨h.pending, fun x => ⟨(h.wf x).1, hm (h.wf x).2.1, (h.wf x).2.2⟩, h.lock⟩

theorem keeps_shale {s : State} (h : Keeps lk z0 s.held) {st : Store} (hm : Mem.wf s.tiers.shale.data = true → Mem.wf st.data = true) :
    Keeps lk z0 ({ s with tiers := { s.tiers with shale := st } } : State).held :=
  ⟨h.pending, fun x => ⟨(h.wf x).1, (h.wf x).2.1, hm (h.wf x).2.2.1, (h.wf x).2.2.2⟩, h.lock⟩

theorem keeps_bedrock {s : State} (h : Keeps lk z0 s.held) {m : Mem} (hm : Mem.wf s.tiers.bedrock = true → Mem.wf m = true) :
    Keeps lk z0 ({ s with tiers := { s.tiers with bedrock := m } } : State).held :=
  ⟨h.pending, fun x => ⟨(h.wf x).1, (h.wf x).2.1, (h.wf x).2.2.1, hm (h.wf x).2.2.2.1, (h.wf x).2.2.2.2⟩, h.lock⟩

theorem keeps_hostMem {s : State} (h : Keeps lk z0 s.held) {m : Mem} (hm : Mem.wf s.hostMem = true → Mem.wf m = true)
    {x_guilds : Tab GuildSt} {x_txns : List Txn} {x_nextTxn : Nat} {x_nextIssue : Nat}
    {x_bursts : List Burst} {x_nextBurst : Nat} {x_nextDray : Nat} {x_sets : Tab Word} {x_setMasks : Tab Word}
    {x_self : Word32} {x_links : Tab LinkSt} {x_routes : Tab Word32} {x_landing : Tab Word} {x_sqs : Tab SubRing}
    {x_cqs : Tab CompRing} {x_evq : EventRing} {x_cmds : List Cmd} {x_nextCmd : Nat} {x_occurrences : List Occurrence}
    {x_evPending : Tab Word} {x_evCounts : Tab GauCounter} {x_port : HostPort} {x_hostPoison : List Nat} {x_house : House}
    {x_fuses : Fuses} {x_snapshot : Option Snapshot} {x_restore : Option Restore} {x_coll : Collective}
    {x_unitCounters : Tab GauCounter} {x_bwCfg : Word32} {x_bwLog : Tab Nat} {x_bwNow : Tab Nat} {x_bwLast : Tab Word}
    {x_bwPeak : Tab Nat} {x_asks : List Ask} {x_free : Nat} :
    Keeps lk z0 (State.held (State.mk
      s.cores x_guilds s.tiers x_txns x_nextTxn x_nextIssue x_bursts x_nextBurst x_nextDray x_sets x_setMasks x_self x_links
      x_routes x_landing x_sqs x_cqs x_evq x_cmds x_nextCmd x_occurrences x_evPending x_evCounts x_port m
      x_hostPoison x_house s.sec x_fuses s.flash x_snapshot x_restore x_coll x_unitCounters x_bwCfg x_bwLog x_bwNow x_bwLast
      x_bwPeak x_asks x_free s.pending)) :=
  ⟨h.pending, fun x => ⟨hm (h.wf x).1, (h.wf x).2⟩, h.lock⟩

theorem store_strike_data (st : Store) (w : Nat) (two : Bool) : (st.strike w two).data = st.data := by
  unfold Store.strike
  split <;> rfl

theorem store_writeImem_wf {st : Store} (h : Mem.wf st.data = true) (a : Nat) (bs : List Byte) :
    Mem.wf (st.writeImem a bs).data = true := Mem.wf_wrBytes _ _ h

theorem store_writes_wf (i : Nat) (runs : Runs) {st : Store} (h : Mem.wf st.data = true) :
    Mem.wf (runs.foldl (fun (st : Store) r => st.write (i + r.1) r.2) st).data = true := by
  induction runs generalizing st with
  | nil => exact h
  | cons r rs ih => exact ih (store_write_wf h _ _)

theorem mem_writes_wf (i : Nat) (runs : Runs) {m : Mem} (h : Mem.wf m = true) :
    Mem.wf (runs.foldl (fun (m : Mem) r => m.wrBytes (i + r.1) (r.2.map (·.1))) m) = true := by
  induction runs generalizing m with
  | nil => exact h
  | cons r rs ih => exact ih (Mem.wf_wrBytes _ _ h)

theorem keeps_ite {p : Prop} [Decidable p] {s t : State} (hs : Keeps lk z0 s.held) (ht : Keeps lk z0 t.held) :
    Keeps lk z0 (if p then s else t).held := by
  split
  · exact hs
  · exact ht

theorem keeps_fold {α : Type} {f : State → α → State} {l : List α} {s : State} (h : Keeps lk z0 s.held)
    (hf : ∀ s a, Keeps lk z0 s.held → Keeps lk z0 (f s a).held) : Keeps lk z0 (l.foldl f s).held := by
  induction l generalizing s with
  | nil => exact h
  | cons a l ih => exact ih (hf _ a h)

theorem keeps_fold2 {α β : Type} {f : β × State → α → β × State} {l : List α} {p : β × State} (h : Keeps lk z0 p.2.held)
    (hf : ∀ p a, Keeps lk z0 p.2.held → Keeps lk z0 (f p a).2.held) : Keeps lk z0 (l.foldl f p).2.held := by
  induction l generalizing p with
  | nil => exact h
  | cons a l ih => exact ih (hf _ a h)

theorem keeps_fold3 {α β γ : Type} {f : β × γ × State → α → β × γ × State} {l : List α} {p : β × γ × State}
    (h : Keeps lk z0 p.2.2.held) (hf : ∀ p a, Keeps lk z0 p.2.2.held → Keeps lk z0 (f p a).2.2.held) :
    Keeps lk z0 (l.foldl f p).2.2.held := by
  induction l generalizing p with
  | nil => exact h
  | cons a l ih => exact ih (hf _ a h)

theorem keeps_snd {β : Type} {p : β × State} {s : State} {x : β} (he : p = (x, s)) (h : Keeps lk z0 p.2.held) :
    Keeps lk z0 s.held := by subst he; exact h

theorem keeps_trd {β γ : Type} {p : β × γ × State} {s : State} {x : β} {y : γ} (he : p = (x, y, s))
    (h : Keeps lk z0 p.2.2.held) : Keeps lk z0 s.held := by subst he; exact h

theorem keeps_some {α : Type} {o : Option α} {a : α} {f : α → State} (he : o = some a) (h : ∀ x, o = some x → Keeps lk z0 (f x).held) :
    Keeps lk z0 (f a).held := h a he
/-- What a meaning answers keeps the held part. -/
def OutKeeps (lk : Bool) (z0 : Held) (o : Out) : Prop := ∀ t, o = .next t → Keeps lk z0 t.held

theorem outKeeps_next {s : State} (h : Keeps lk z0 s.held) : OutKeeps lk z0 (.next s) := by
  intro t ht; cases ht; exact h

theorem tab_all_set {α : Type} {P : α → Prop} {a : α} (ha : P a) (k : Nat) : ∀ {t : Tab α}, (∀ p ∈ t, P p.2) → ∀ p ∈ t.set k a, P p.2 := by
  intro t
  induction t with
  | nil =>
    intro _ p hp
    cases hp with
    | head => exact ha
    | tail _ x => cases x
  | cons x t ih =>
    intro h p hp
    unfold Tab.set at hp
    have ht : ∀ p ∈ t, P p.2 := fun p m => h p (List.mem_cons_of_mem _ m)
    split at hp
    · cases hp with
      | head => exact ha
      | tail _ m => exact ht p m
    · split at hp
      · cases hp with
        | head => exact ha
        | tail _ m => exact h p m
      · cases hp with
        | head => exact h _ (List.mem_cons_self ..)
        | tail _ m => exact ih ht p m

theorem tab_all_get {α : Type} {P : α → Prop} {d : α} (hd : P d) (k : Nat) : ∀ {t : Tab α}, (∀ p ∈ t, P p.2) → P (t.get d k) := by
  intro t
  induction t with
  | nil => intro _; exact hd
  | cons x t ih =>
    intro h
    unfold Tab.get
    split
    · exact h _ (List.mem_cons_self ..)
    · split
      · exact hd
      · exact ih (fun p m => h p (List.mem_cons_of_mem _ m))
/-- The memories of one core of a module whose memories have their canonical form. -/

theorem State.core_wf {s : State} (h : s.held.wf) (c : Nat) : (s.core c).mems.wf :=
  tab_all_get (P := fun k : CoreSt => k.mems.wf) ⟨rfl, rfl, rfl, rfl, rfl⟩ c h.2.2.2.2

theorem keeps_cores {s : State} (h : Keeps lk z0 s.held) {t : Tab CoreSt} (ht : s.held.wf → ∀ p ∈ t, p.2.mems.wf) :
    Keeps lk z0 ({ s with cores := t } : State).held :=
  ⟨h.pending, fun x => ⟨(h.wf x).1, (h.wf x).2.1, (h.wf x).2.2.1, (h.wf x).2.2.2.1, ht (h.wf x)⟩, h.lock⟩

theorem keeps_core {s : State} (h : Keeps lk z0 s.held) {k : CoreSt} (c : Nat) (hk : s.held.wf → k.mems.wf) :
    Keeps lk z0 ({ s with cores := s.cores.set c k } : State).held :=
  keeps_cores h (fun w => tab_all_set (P := fun k : CoreSt => k.mems.wf) (hk w) c w.2.2.2.2)

theorem keeps_map {s : State} (h : Keeps lk z0 s.held) {f : Nat × CoreSt → Nat × CoreSt} (hf : ∀ x, x.2.mems.wf → (f x).2.mems.wf) :
    Keeps lk z0 ({ s with cores := s.cores.map f } : State).held := by
  refine keeps_cores h (fun w p hp => ?_)
  obtain ⟨q, hq, rfl⟩ := List.mem_map.mp hp
  exact hf q (w.2.2.2.2 q hq)

theorem State.takeFree_keeps {s : State} (h : Keeps lk z0 s.held) :
    Keeps lk z0 (s.takeFree).2.held := by
  unfold State.takeFree
  repeat' first
    | with_reducible assumption

    | simp only [held_lit]

theorem State.takeBlock_keeps {s : State} (h : Keeps lk z0 s.held) :
    Keeps lk z0 (s.takeBlock).2.held := by
  unfold State.takeBlock
  repeat' first
    | with_reducible assumption

    | simp only [held_lit]

theorem State.meter_wf {s : State} {k : CoreSt} (h : k.mems.wf) (c : Nat) : (s.meter c k).mems.wf := h

theorem State.landCore_keeps {s : State} (h : Keeps lk z0 s.held) (c : Nat) (e : Eff) (he : s.held.wf → e.k.mems.wf) :
    Keeps lk z0 (s.landCore c e).held := by
  unfold State.landCore
  refine keeps_core h c (fun w => State.meter_wf ?_ c)
  exact ew_ite (he w) (Eff.elapsed_wf (he w) _ _)

theorem State.atCore_keeps {s : State} (h : Keeps lk z0 s.held) (c : Nat) (f : Eff → Eff)
    (hf : ∀ e, e.k.mems.wf → (f e).k.mems.wf) : Keeps lk z0 (s.atCore c f).held :=
  State.landCore_keeps h c _ (fun w => hf _ (State.core_wf w c))

theorem State.onCore_keeps {s : State} (h : Keeps lk z0 s.held) (c : Nat) (f : Eff → Eff)
    (hf : ∀ e, e.k.mems.wf → (f e).k.mems.wf) : Keeps lk z0 (s.onCore c f).held :=
  keeps_ite (State.atCore_keeps h c f hf) h

theorem State.countCore_keeps {s : State} (h : Keeps lk z0 s.held) (c ev n : Nat) :
    Keeps lk z0 (s.countCore c ev n).held := by
  unfold State.countCore
  repeat' first
    | with_reducible assumption
    | intro _
    | with_reducible apply State.onCore_keeps
    | with_reducible apply Eff.count_wf

theorem State.raise_keeps {s : State} (h : Keeps lk z0 s.held) (code : Nat) (words : List Word) :
    Keeps lk z0 (s.raise code words).held := by
  unfold State.raise
  repeat' first
    | with_reducible assumption

    | simp only [held_lit]

theorem State.setGuild_keeps {s : State} (h : Keeps lk z0 s.held) (g : Nat) (x : GuildSt) :
    Keeps lk z0 (s.setGuild g x).held := by
  unfold State.setGuild
  repeat' first
    | with_reducible assumption

    | simp only [held_lit]

theorem State.setLink_keeps {s : State} (h : Keeps lk z0 s.held) (l : Nat) (x : LinkSt) :
    Keeps lk z0 (s.setLink l x).held := by
  unfold State.setLink
  repeat' first
    | with_reducible assumption

    | simp only [held_lit]

theorem State.countUnit_keeps {s : State} (h : Keeps lk z0 s.held) (u i n : Nat) :
    Keeps lk z0 (s.countUnit u i n).held := by
  unfold State.countUnit
  repeat' first
    | with_reducible assumption
    | with_reducible apply keeps_ite

    | simp only [held_lit]

theorem State.refusedEvent_keeps {s : State} (h : Keeps lk z0 s.held) (master reason addr : Nat) :
    Keeps lk z0 (s.refusedEvent master reason addr).held := by
  unfold State.refusedEvent
  repeat' first
    | with_reducible assumption
    | with_reducible apply State.raise_keeps

theorem State.useGuild_keeps {s : State} (h : Keeps lk z0 s.held) (g page : Nat) (e : Word) :
    Keeps lk z0 (s.useGuild g page e).held := by
  unfold State.useGuild
  repeat' first
    | with_reducible assumption
    | with_reducible apply State.setGuild_keeps

theorem State.useWalker_keeps {s : State} (h : Keeps lk z0 s.held) (h page : Nat) (e : Word) :
    Keeps lk z0 (s.useWalker h page e).held := by
  unfold State.useWalker
  repeat' first
    | with_reducible assumption

    | simp only [held_tiers]

theorem State.shaleRead_keeps {s : State} (h : Keeps lk z0 s.held) (g a : Nat) : Keeps lk z0 (s.shaleRead g a).2.held := by
  unfold State.shaleRead
  generalize g * 2 ^ 29 + a / 64 * 64 = i
  have h1 := keeps_shale h (fun x => wf_of_eq (store_afterRead_data s.tiers.shale i 64) x)
  dsimp only at h1 ⊢
  split
  · exact State.raise_keeps (State.countUnit_keeps (State.countUnit_keeps h1 _ _ _) _ _ _) _ _
  · exact State.countUnit_keeps (State.countUnit_keeps h1 _ _ _) _ _ _

theorem State.shaleWrite_keeps {s : State} (h : Keeps lk z0 s.held) (g a : Nat) (runs : Runs) :
    Keeps lk z0 (s.shaleWrite g a runs).held := by
  unfold State.shaleWrite
  generalize g * 2 ^ 29 + a / 64 * 64 = i
  refine State.countUnit_keeps ?_ _ _ _
  dsimp only
  refine keeps_shale (keeps_ite (State.shaleRead_keeps h g a) h) (fun w => ?_)
  exact store_writes_wf i runs w

theorem withCheck_wf {m : Mem} (h : Mem.wf m = true) (k a : Nat) (bad : Bool) : Mem.wf (withCheck m k a bad) = true :=
  Mem.wf_wrLe _ _ _ h

theorem State.bedrockLook_keeps {s : State} (h : Keeps lk z0 s.held) (k a : Nat) : Keeps lk z0 (s.bedrockLook k a).2.held := by
  unfold State.bedrockLook
  have h1 := keeps_bedrock h (fun x => withCheck_wf x k a true)
  generalize withCheck s.tiers.bedrock k a true = m at h1 ⊢
  dsimp only
  split
  · exact State.raise_keeps h1 _ _
  · exact h

theorem State.bedrockRead_keeps {s : State} (h : Keeps lk z0 s.held) (k a : Nat) :
    Keeps lk z0 (s.bedrockRead k a).2.held := by
  unfold State.bedrockRead
  repeat' first
    | with_reducible assumption
    | with_reducible apply State.countUnit_keeps
    | with_reducible apply State.bedrockLook_keeps

theorem State.bedrockWrite_keeps {s : State} (h : Keeps lk z0 s.held) (k a : Nat) (runs : Runs) :
    Keeps lk z0 (s.bedrockWrite k a runs).held := by
  unfold State.bedrockWrite
  have h1 : Keeps lk z0 (if runsLen runs = 64 then (((0, false), s) : Delivered × State) else s.bedrockLook k a).2.held := by
    split
    · exact h
    · exact State.bedrockLook_keeps h _ _
  dsimp only
  generalize (if runsLen runs = 64 then (((0, false), s) : Delivered × State) else s.bedrockLook k a) = x at h1 ⊢
  refine State.countUnit_keeps ?_ _ _ _
  refine keeps_bedrock h1 (fun w => ?_)
  exact withCheck_wf (mem_writes_wf (bedIdx k (a / 64 * 64)) runs w) _ _ _

theorem CoreSt.strike_wf {k : CoreSt} (h : k.mems.wf) (store w : Nat) (two : Bool) : (k.strike store w two).mems.wf := by
  unfold CoreSt.strike
  split
  · exact mems_ls h (fun x => wf_of_eq (store_strike_data _ _ _) x)
  · exact mems_trf h (fun x => wf_of_eq (store_strike_data _ _ _) x)
  · exact mems_pattern h (fun x => wf_of_eq (store_strike_data _ _ _) x)
  · exact mems_imem h (fun x => wf_of_eq (store_strike_data _ _ _) x)
  · exact mems_dmem h (fun x => wf_of_eq (store_strike_data _ _ _) x)

theorem State.strike_keeps {s : State} (h : Keeps lk z0 s.held) (x : Config.Upset) : Keeps lk z0 (s.strike x).held := by
  cases x with
  | core c store w two => exact keeps_core h _ (fun x => CoreSt.strike_wf (State.core_wf x _) _ _ _)
  | ledger c tile r col seg => exact keeps_core h _ (fun x => State.core_wf x _)
  | feeder c f way => exact keeps_core h _ (fun x => State.core_wf x _)
  | shale g w two => exact keeps_shale h (fun x => wf_of_eq (store_strike_data _ _ _) x)
  | bedrock k block bit => exact keeps_bedrock h (fun x => Mem.wf_wrBytes _ _ x)

theorem State.idle_keeps {s : State} (h : Keeps lk z0 s.held) :
    Keeps lk z0 (s.idle).held := by
  unfold State.idle
  repeat' first
    | with_reducible assumption
    | split
    | with_reducible apply State.strike_keeps
    | simp only [held_lit]

theorem State.hostWrite_keeps {s : State} (h : Keeps lk z0 s.held) (a : Nat) (runs : Runs) :
    Keeps lk z0 (s.hostWrite a runs).held := keeps_hostMem h (fun x => mem_writes_wf _ _ x)

theorem State.readAt_keeps {s : State} (h : Keeps lk z0 s.held) (z_ : Loc) :
    Keeps lk z0 (s.readAt z_).2.held := by
  cases z_ <;> unfold State.readAt
  repeat' first
    | with_reducible assumption
    | with_reducible apply State.shaleRead_keeps
    | with_reducible apply State.bedrockRead_keeps

theorem State.writeAt_keeps {s : State} (h : Keeps lk z0 s.held) (runs : Runs) (z_ : Loc) :
    Keeps lk z0 (s.writeAt runs z_).held := by
  cases z_ <;> unfold State.writeAt
  repeat' first
    | with_reducible assumption
    | with_reducible apply State.shaleWrite_keeps
    | with_reducible apply State.bedrockWrite_keeps
    | with_reducible apply State.hostWrite_keeps

theorem State.ferry_keeps {s : State} (h : Keeps lk z0 s.held) (hops : List Hop) (addr : Nat) :
    Keeps lk z0 (s.ferry hops addr).2.held := by
  unfold State.ferry
  repeat' first
    | with_reducible assumption
    | split
    | with_reducible apply State.raise_keeps
    | with_reducible apply State.countUnit_keeps
    | simp only [held_lit]

theorem State.linkEcc_keeps {s : State} (h : Keeps lk z0 s.held) (z_ : Loc) :
    Keeps lk z0 (s.linkEcc z_).held := by
  cases z_ <;> unfold State.linkEcc
  repeat' first
    | with_reducible assumption
    | with_reducible apply State.countUnit_keeps
    | simp only [held_lit]

theorem State.tableBlock_keeps {s : State} (h : Keeps lk z0 s.held) (g page : Nat) :
    Keeps lk z0 (s.tableBlock g page).2.held := by
  unfold State.tableBlock
  repeat' first
    | with_reducible assumption
    | with_reducible apply State.bedrockLook_keeps
    | with_reducible apply State.ferry_keeps
    | with_reducible apply State.linkEcc_keeps

theorem State.walk_keeps {s : State} (h : Keeps lk z0 s.held) (g page : Nat) :
    Keeps lk z0 (s.walk g page).2.held := by
  unfold State.walk
  try dsimp only
  repeat' first
    | with_reducible assumption
    | intro _
    | split
    | with_reducible apply keeps_fold
    | with_reducible apply State.useGuild_keeps
    | with_reducible apply State.useWalker_keeps
    | with_reducible apply State.tableBlock_keeps

theorem State.cached_keeps {s : State} (h : Keeps lk z0 s.held) (g page : Nat) :
    Keeps lk z0 (s.cached g page).2.held := by
  unfold State.cached
  repeat' first
    | with_reducible assumption
    | split
    | with_reducible apply State.useGuild_keeps
    | with_reducible apply State.useWalker_keeps

theorem State.entryOf_keeps {s : State} (h : Keeps lk z0 s.held) (g page : Nat) :
    Keeps lk z0 (s.entryOf g page).2.held := by
  unfold State.entryOf
  repeat' first
    | with_reducible assumption
    | split
    | with_reducible refine keeps_snd (by assumption) ?_
    | with_reducible apply State.walk_keeps
    | with_reducible apply State.cached_keeps

theorem State.backInvalidate_keeps {s : State} (h : Keeps lk z0 s.held) (k : Nat) :
    Keeps lk z0 (s.backInvalidate k).held := by
  unfold State.backInvalidate
  repeat' first
    | with_reducible assumption
    | with_reducible apply keeps_ite
    | with_reducible apply State.countUnit_keeps
    | simp only [held_lit]

theorem State.backInvalidateAt_keeps {s : State} (h : Keeps lk z0 s.held) (l : Loc) :
    Keeps lk z0 (s.backInvalidateAt l).held := by
  unfold State.backInvalidateAt
  repeat' first
    | with_reducible assumption
    | split
    | with_reducible apply State.backInvalidate_keeps

theorem State.putTxn_keeps {s : State} (h : Keeps lk z0 s.held) (t : Txn) :
    Keeps lk z0 (s.putTxn t).held := by
  unfold State.putTxn
  repeat' first
    | with_reducible assumption

    | simp only [held_lit]

theorem State.dropTxn_keeps {s : State} (h : Keeps lk z0 s.held) (x : Nat) :
    Keeps lk z0 (s.dropTxn x).held := by
  unfold State.dropTxn
  repeat' first
    | with_reducible assumption

    | simp only [held_lit]

theorem State.addTxn_keeps {s : State} (h : Keeps lk z0 s.held) (t : Txn) :
    Keeps lk z0 (s.addTxn t).held := by
  unfold State.addTxn
  repeat' first
    | with_reducible assumption

    | simp only [held_lit]

theorem State.spoil_keeps {s : State} (h : Keeps lk z0 s.held) (t : Txn) (code : Nat) :
    Keeps lk z0 (s.spoil t code).held := by
  unfold State.spoil
  repeat' first
    | with_reducible assumption
    | with_reducible apply keeps_ite
    | with_reducible apply State.takeBlock_keeps
    | with_reducible apply State.putTxn_keeps

theorem State.portBusy_keeps {s : State} (h : Keeps lk z0 s.held) (u i : Nat) :
    Keeps lk z0 (s.portBusy u i).held := by
  unfold State.portBusy
  repeat' first
    | with_reducible assumption
    | with_reducible apply State.countUnit_keeps
    | simp only [held_lit]

theorem State.countPath_keeps {s : State} (h : Keeps lk z0 s.held) (g pin h pout bytes : Nat) :
    Keeps lk z0 (s.countPath g pin h pout bytes).held := by
  unfold State.countPath
  repeat' first
    | with_reducible assumption
    | intro _
    | with_reducible apply keeps_ite
    | with_reducible apply keeps_fold
    | with_reducible apply State.countUnit_keeps
    | with_reducible apply State.portBusy_keeps

theorem State.depart_keeps {s : State} (h : Keeps lk z0 s.held) (t : Txn) (l : Loc) (link : Nat) :
    Keeps lk z0 (s.depart t l link).2.held := by
  unfold State.depart
  repeat' first
    | with_reducible assumption
    | with_reducible apply State.countPath_keeps
    | simp only [held_lit]

theorem State.comeBack_keeps {s : State} (h : Keeps lk z0 s.held) (t : Txn) (l : Loc) (code : Nat) :
    Keeps lk z0 (s.comeBack t l code).2.held := by
  unfold State.comeBack
  repeat' first
    | with_reducible assumption
    | with_reducible apply State.countPath_keeps
    | simp only [held_lit]

theorem State.cameBack_keeps {s : State} (h : Keeps lk z0 s.held) (t : Txn) (l : Loc) (code : Nat) :
    Keeps lk z0 (s.cameBack t l code).held := by
  unfold State.cameBack
  repeat' first
    | with_reducible assumption
    | with_reducible apply State.putTxn_keeps
    | with_reducible apply State.comeBack_keeps

theorem State.fromPort_keeps {s : State} (h : Keeps lk z0 s.held) (t : Txn) (code : Nat) :
    Keeps lk z0 (s.fromPort t code).held := by
  unfold State.fromPort
  repeat' first
    | with_reducible assumption
    | split
    | with_reducible apply State.putTxn_keeps
    | with_reducible apply State.cameBack_keeps

theorem State.lose_keeps {s : State} (h : Keeps lk z0 s.held) (t : Txn) :
    Keeps lk z0 (s.lose t).held := by
  unfold State.lose
  repeat' first
    | with_reducible assumption
    | with_reducible apply keeps_ite
    | with_reducible apply State.takeBlock_keeps
    | with_reducible apply State.fromPort_keeps

theorem State.egressRequest_keeps {s : State} (h : Keeps lk z0 s.held) (l : Nat) (t : Txn) (peer addr : Nat) :
    Keeps lk z0 (s.egressRequest l t peer addr).held := by
  unfold State.egressRequest
  try dsimp only
  repeat' first
    | with_reducible assumption
    | split
    | with_reducible apply State.setLink_keeps
    | with_reducible apply State.putTxn_keeps
    | with_reducible apply State.lose_keeps

theorem State.respond_keeps {s : State} (h : Keeps lk z0 s.held) (peer : Nat) (h : SlotHeader) (data : BitVec 512) :
    Keeps lk z0 (s.respond peer h data).held := by
  unfold State.respond
  try dsimp only
  repeat' first
    | with_reducible assumption
    | split
    | with_reducible apply State.setLink_keeps

theorem State.answerSlot_keeps {s : State} (h : Keeps lk z0 s.held) (status : Nat) (q : Nat × LinkSlot) :
    Keeps lk z0 (s.answerSlot status q).held := by
  unfold State.answerSlot
  try dsimp only
  repeat' first
    | with_reducible assumption
    | split
    | with_reducible apply State.takeBlock_keeps
    | with_reducible apply State.respond_keeps

theorem State.answerAll_keeps {s : State} (h : Keeps lk z0 s.held) (status : Nat) (qs : List (Nat × LinkSlot)) :
    Keeps lk z0 (s.answerAll status qs).held := by
  unfold State.answerAll
  repeat' first
    | with_reducible assumption
    | intro _
    | with_reducible apply keeps_fold
    | with_reducible apply State.answerSlot_keeps

theorem State.lost_keeps {s : State} (h : Keeps lk z0 s.held) (ids : List Nat) :
    Keeps lk z0 (s.lost ids).held := by
  unfold State.lost
  repeat' first
    | with_reducible assumption
    | intro _
    | with_reducible apply keeps_fold
    | with_reducible apply State.lose_keeps

theorem State.loseLink_keeps {s : State} (h : Keeps lk z0 s.held) (l : Nat) :
    Keeps lk z0 (s.loseLink l).held := by
  unfold State.loseLink
  repeat' first
    | with_reducible assumption
    | with_reducible apply State.setLink_keeps
    | with_reducible apply State.answerAll_keeps
    | with_reducible apply State.lost_keeps
    | simp only [held_lit]

theorem State.enterRetrain_keeps {s : State} (h : Keeps lk z0 s.held) (l : Nat) :
    Keeps lk z0 (s.enterRetrain l).held := by
  unfold State.enterRetrain
  repeat' first
    | with_reducible assumption
    | with_reducible apply keeps_ite
    | with_reducible apply State.takeFree_keeps
    | with_reducible apply State.raise_keeps
    | with_reducible apply State.setLink_keeps
    | with_reducible apply State.loseLink_keeps

theorem State.linkTick_keeps {s : State} (h : Keeps lk z0 s.held) (l gap : Nat) :
    Keeps lk z0 (s.linkTick l gap).held := by
  unfold State.linkTick
  repeat' first
    | with_reducible assumption
    | with_reducible apply State.setLink_keeps
    | with_reducible apply State.countUnit_keeps

theorem State.forwardOne_keeps {s t : State} (h : Keeps lk z0 s.held) {out : Nat} (ht : s.forwardOne out = some t) :
    Keeps lk z0 t.held := by
  unfold State.forwardOne at ht
  dsimp only at ht
  split at ht
  · cases ht
  · obtain ⟨x, -, rfl⟩ := Option.map_eq_some_iff.mp ht
    exact State.countPath_keeps (State.setLink_keeps (State.setLink_keeps h _ _) _ _) _ _ _ _ _

theorem State.forwardFrom_keeps {s : State} (h : Keeps lk z0 s.held) (n out : Nat) : Keeps lk z0 (State.forwardFrom n s out).held := by
  induction n generalizing s with
  | zero => exact h
  | succ n ih =>
    unfold State.forwardFrom
    split
    · exact ih (State.forwardOne_keeps h (by assumption))
    · exact h

theorem State.forwards_keeps {s : State} (h : Keeps lk z0 s.held) (out : Nat) : Keeps lk z0 (s.forwards out).held :=
  State.forwardFrom_keeps h _ _

theorem State.landed_keeps {s : State} (h : Keeps lk z0 s.held) (t : Txn) (g off : Nat) :
    Keeps lk z0 (s.landed t g off).held := by
  unfold State.landed
  repeat' first
    | with_reducible assumption
    | intro _
    | with_reducible apply keeps_fold
    | with_reducible apply State.dropTxn_keeps
    | with_reducible apply State.addTxn_keeps
    | simp only [held_lit]

theorem State.toAdder_keeps {s : State} (h : Keeps lk z0 s.held) (t : Txn) (g off : Nat) :
    Keeps lk z0 (s.toAdder t g off).held := by
  unfold State.toAdder
  repeat' first
    | with_reducible assumption
    | with_reducible apply State.setGuild_keeps
    | with_reducible apply State.dropTxn_keeps

theorem State.reached_keeps {s : State} (h : Keeps lk z0 s.held) (t : Txn) :
    Keeps lk z0 (s.reached t).held := by
  unfold State.reached
  repeat' first
    | with_reducible assumption
    | split
    | with_reducible apply State.hostWrite_keeps
    | with_reducible apply State.putTxn_keeps
    | with_reducible apply State.cameBack_keeps
    | with_reducible apply State.egressRequest_keeps
    | with_reducible apply State.landed_keeps
    | with_reducible apply State.toAdder_keeps

theorem State.send_keeps {s : State} (h : Keeps lk z0 s.held) (t : Txn) (l : Loc) (link : Nat) :
    Keeps lk z0 (s.send t l link).held := by
  unfold State.send
  repeat' first
    | with_reducible assumption
    | with_reducible apply keeps_ite
    | with_reducible apply State.putTxn_keeps
    | with_reducible apply State.depart_keeps
    | with_reducible apply State.reached_keeps

theorem State.hop_keeps {s : State} (h : Keeps lk z0 s.held) (t : Txn) (h : Hop) (rest : List Hop) (flips behind : Nat) :
    Keeps lk z0 (s.hop t h rest flips behind).held := by
  unfold State.hop
  repeat' first
    | with_reducible assumption
    | intro _
    | with_reducible apply keeps_ite
    | with_reducible apply keeps_fold
    | with_reducible apply State.raise_keeps
    | with_reducible apply State.countUnit_keeps
    | with_reducible apply State.putTxn_keeps
    | with_reducible apply State.portBusy_keeps
    | with_reducible apply State.reached_keeps
    | simp only [held_lit]

theorem State.hopReceive_keeps {s : State} (h : Keeps lk z0 s.held) (x : Nat) (h : Hop) (flips behind : Nat) :
    Keeps lk z0 (s.hopReceive x h flips behind).held := by
  unfold State.hopReceive
  repeat' first
    | with_reducible assumption
    | split
    | with_reducible apply State.hop_keeps

theorem State.carried_keeps {s : State} (h : Keeps lk z0 s.held) (src : Src) (l : Loc) (dva : Nat) (write : Bool) :
    Keeps lk z0 (s.carried src l dva write).2.held := by
  unfold State.carried
  repeat' first
    | with_reducible assumption
    | with_reducible apply State.ferry_keeps
    | with_reducible apply State.linkEcc_keeps

theorem State.readBlock_keeps {s : State} (h : Keeps lk z0 s.held) (src : Src) (master dva : Nat) (window : Bool) :
    Keeps lk z0 (s.readBlock src master dva window).2.held := by
  unfold State.readBlock
  try dsimp only
  repeat' first
    | with_reducible assumption
    | split
    | with_reducible apply State.refusedEvent_keeps
    | with_reducible apply State.readAt_keeps
    | with_reducible apply State.entryOf_keeps
    | with_reducible apply State.carried_keeps

theorem State.writeBlock_keeps {s : State} (h : Keeps lk z0 s.held) (src : Src) (master cls dva : Nat) (window : Bool) (runs : Runs) :
    Keeps lk z0 (s.writeBlock src master cls dva window runs).2.held := by
  unfold State.writeBlock
  try dsimp only
  repeat' first
    | with_reducible assumption
    | split
    | with_reducible apply State.refusedEvent_keeps
    | with_reducible apply State.writeAt_keeps
    | with_reducible apply State.entryOf_keeps
    | with_reducible apply State.addTxn_keeps
    | with_reducible apply State.send_keeps
    | with_reducible apply State.carried_keeps
    | simp only [held_lit]

theorem State.readPart_keeps {s : State} (h : Keeps lk z0 s.held) (src : Src) (m : Nat) (p : Nat × Nat × Nat × Nat)
    (answers : List PeerAnswer) : Keeps lk z0 (s.readPart src m p answers).2.2.held := by
  unfold State.readPart
  have h1 := State.readBlock_keeps h src m p.1 false
  generalize s.readBlock src m p.1 false = x at h1 ⊢
  obtain ⟨got, t⟩ := x
  cases got with
  | data d k => exact h1
  | refused r => exact State.takeBlock_keeps h1
  | peer i a b =>
    dsimp only
    split <;> exact h1

theorem State.readRange_keeps {s : State} (h : Keeps lk z0 s.held) (src : Src) (m a n : Nat) (answers : List PeerAnswer) :
    Keeps lk z0 (s.readRange src m a n answers).2.2.held := by
  unfold State.readRange
  exact keeps_fold3 h (fun p _ hp => State.readPart_keeps hp _ _ _ _)

theorem State.askPeer_keeps {s : State} (h : Keeps lk z0 s.held) (cls : Nat) (q : PeerAsk) :
    Keeps lk z0 (s.askPeer cls q).held := by
  unfold State.askPeer
  repeat' first
    | with_reducible assumption
    | split
    | with_reducible apply State.addTxn_keeps
    | with_reducible apply State.send_keeps
    | simp only [held_lit]

theorem State.ask_keeps {s : State} (h : Keeps lk z0 s.held) (cls : Nat) (z_ : Ask) :
    Keeps lk z0 (s.ask cls z_).held := by
  cases z_ <;> unfold State.ask
  repeat' first
    | with_reducible assumption
    | with_reducible apply State.backInvalidateAt_keeps
    | with_reducible apply State.askPeer_keeps

theorem State.withAnswers_keeps {s : State} (h : Keeps lk z0 s.held) (mine : Src → Bool) (cls : Nat)
    (f : List PeerAnswer → State → State) (hf : ∀ l t, Keeps lk z0 t.held → Keeps lk z0 (f l t).held) :
    Keeps lk z0 (s.withAnswers mine cls f).held := by
  unfold State.withAnswers
  exact keeps_ite (hf _ _ h) (keeps_fold h (fun _ _ ht => State.ask_keeps ht _ _))

theorem State.writeRange_keeps {s : State} (h : Keeps lk z0 s.held) (src : Src) (master cls dva : Nat) (bs : List (Byte × Bool)) :
    Keeps lk z0 (s.writeRange src master cls dva bs).2.held := by
  unfold State.writeRange
  repeat' first
    | with_reducible assumption
    | intro _
    | with_reducible apply keeps_fold2
    | with_reducible apply State.writeBlock_keeps

theorem State.writeRecord_keeps {s : State} (h : Keeps lk z0 s.held) (src : Src) (master dva : Nat) (bs : List Byte) :
    Keeps lk z0 (s.writeRecord src master dva bs).held := by
  unfold State.writeRecord
  repeat' first
    | with_reducible assumption
    | with_reducible apply State.writeBlock_keeps

theorem State.needRange_keeps {s : State} (h : Keeps lk z0 s.held) (g master dva n : Nat) (write : Bool) :
    Keeps lk z0 (s.needRange g master dva n write).held := by
  unfold State.needRange
  repeat' first
    | with_reducible assumption

    | simp only [held_lit]

theorem State.recall_keeps {s : State} (h : Keeps lk z0 s.held) (g master dva n : Nat) (write : Bool) :
    Keeps lk z0 (s.recall g master dva n write).2.held := by
  unfold State.recall
  repeat' first
    | with_reducible assumption
    | intro _
    | with_reducible apply keeps_fold
    | with_reducible apply State.backInvalidateAt_keeps

theorem State.setEventPending_keeps {s : State} (h : Keeps lk z0 s.held) (c : Nat) :
    Keeps lk z0 (s.setEventPending c).held := by
  unfold State.setEventPending
  repeat' first
    | with_reducible assumption

    | simp only [held_lit]

theorem State.countEvent_keeps {s : State} (h : Keeps lk z0 s.held) (c : Nat) :
    Keeps lk z0 (s.countEvent c).held := by
  unfold State.countEvent
  repeat' first
    | with_reducible assumption

    | simp only [held_lit]

theorem State.deviceWrite_keeps {s : State} (h : Keeps lk z0 s.held) (a : Nat) (bs : List Byte) :
    Keeps lk z0 (s.deviceWrite a bs).held := by
  unfold State.deviceWrite
  repeat' first
    | with_reducible assumption
    | intro _
    | with_reducible apply keeps_ite
    | with_reducible apply keeps_fold
    | with_reducible apply State.hostWrite_keeps
    | simp only [held_lit]

theorem State.sendVector_keeps {s : State} (h : Keeps lk z0 s.held) (v : Nat) :
    Keeps lk z0 (s.sendVector v).held := by
  unfold State.sendVector
  repeat' first
    | with_reducible assumption
    | with_reducible apply keeps_ite

    | simp only [held_lit]

theorem State.writePart_keeps {s : State} (h : Keeps lk z0 s.held) (code part parts seq : Nat) (words : List Word) :
    Keeps lk z0 (s.writePart code part parts seq words).held := by
  unfold State.writePart
  repeat' first
    | with_reducible assumption
    | with_reducible apply keeps_ite
    | with_reducible apply State.deviceWrite_keeps
    | with_reducible apply State.sendVector_keeps
    | simp only [held_lit]

theorem State.writeEventRecord_keeps {s : State} (h : Keeps lk z0 s.held) (o : Occurrence) :
    Keeps lk z0 (s.writeEventRecord o).held := by
  unfold State.writeEventRecord
  repeat' first
    | with_reducible assumption
    | intro _
    | with_reducible apply keeps_ite
    | with_reducible apply keeps_fold
    | with_reducible apply State.writePart_keeps
    | simp only [held_lit]

theorem State.takeOccurrence_keeps {s : State} (h : Keeps lk z0 s.held) (o : Occurrence) :
    Keeps lk z0 (s.takeOccurrence o).held := by
  unfold State.takeOccurrence
  repeat' first
    | with_reducible assumption
    | with_reducible apply keeps_ite
    | with_reducible apply State.setEventPending_keeps
    | with_reducible apply State.countEvent_keeps
    | with_reducible apply State.writeEventRecord_keeps

theorem coreWf_mems (k : CoreSt) : coreWf k = true ↔ k.mems.wf := by
  unfold coreWf
  simp only [Bool.and_eq_true]
  exact ⟨fun ⟨⟨⟨⟨a, b⟩, c⟩, d⟩, e⟩ => ⟨a, b, c, d, e⟩, fun h => ⟨⟨⟨⟨h.ls, h.trf⟩, h.pattern⟩, h.imem⟩, h.dmem⟩⟩

/-- The held part has its canonical form where every memory of the module has it. -/
theorem State.held_wf (s : State) : s.held.wf ↔ memoriesWf s = true := by
  unfold memoriesWf Held.wf
  simp only [Bool.and_eq_true, List.all_eq_true, coreWf_mems]
  exact ⟨fun ⟨a, b, c, d, e⟩ => ⟨⟨⟨⟨e, a⟩, b⟩, c⟩, d⟩, fun ⟨⟨⟨⟨e, a⟩, b⟩, c⟩, d⟩ => ⟨a, b, c, d, e⟩⟩

end Sys2Proof.Machine
end

