-- ==== Sys2Proof/Laws/KeepsHost.lean ====
section
/-! SUPPORT. What the host, register and set-up commands leave alone. -/

namespace Sys2Proof.Machine

variable {lk : Bool} {z0 : Held}

theorem State.act_keeps {s : State} (h : Keeps lk z0 s.held) (t : Txn) (z_ : Verdict) :
    Keeps lk z0 (s.act t z_).held := by
  cases z_ <;> unfold State.act
  repeat' first
    | with_reducible assumption
    | split
    | with_reducible apply State.refusedEvent_keeps
    | with_reducible apply State.putTxn_keeps
    | with_reducible apply State.spoil_keeps
    | with_reducible apply State.send_keeps

theorem State.onDray_keeps {s : State} (h : Keeps lk z0 s.held) (g id : Nat) (f : DrayDesc → DrayDesc) :
    Keeps lk z0 (s.onDray g id f).held := by
  unfold State.onDray
  repeat' first
    | with_reducible assumption
    | with_reducible apply State.setGuild_keeps

theorem State.fanOut_keeps {s : State} (h : Keeps lk z0 s.held) (t : Txn) (n off : Nat) :
    Keeps lk z0 (s.fanOut t n off).held := by
  unfold State.fanOut
  repeat' first
    | with_reducible assumption
    | intro _
    | with_reducible apply keeps_ite
    | with_reducible apply keeps_fold
    | with_reducible apply State.takeBlock_keeps
    | with_reducible apply State.putTxn_keeps
    | with_reducible apply State.dropTxn_keeps
    | with_reducible apply State.addTxn_keeps
    | with_reducible apply State.send_keeps
    | with_reducible apply State.onDray_keeps

theorem State.translate_keeps {s : State} (h : Keeps lk z0 s.held) (t : Txn) :
    Keeps lk z0 (s.translate t).held := by
  unfold State.translate
  try dsimp only
  repeat' first
    | with_reducible assumption
    | split
    | with_reducible refine keeps_snd (by assumption) ?_
    | with_reducible apply State.cached_keeps
    | with_reducible apply State.putTxn_keeps
    | with_reducible apply State.act_keeps
    | with_reducible apply State.fanOut_keeps

theorem State.serveWalk_keeps {s : State} (h : Keeps lk z0 s.held) (half : Nat) :
    Keeps lk z0 (s.serveWalk half).held := by
  unfold State.serveWalk
  try dsimp only
  repeat' first
    | with_reducible assumption
    | intro _
    | split
    | with_reducible apply keeps_fold
    | with_reducible apply State.walk_keeps
    | with_reducible apply State.act_keeps
    | with_reducible apply State.translate_keeps

theorem State.noteHot_keeps {s : State} (h : Keeps lk z0 s.held) (t : Txn) (l : Loc) :
    Keeps lk z0 (s.noteHot t l).held := by
  unfold State.noteHot
  repeat' first
    | with_reducible assumption
    | with_reducible apply keeps_ite
    | with_reducible apply State.countCore_keeps
    | with_reducible apply State.raise_keeps
    | with_reducible apply State.putTxn_keeps

theorem State.pickTag_keeps {s : State} (h : Keeps lk z0 s.held) (src : Src) (shut : List (Nat × Nat)) (z_ : List Txn) :
    Keeps lk z0 (s.pickTag src shut z_).2.held := by
  induction z_ generalizing s shut with
  | nil => exact h
  | cons t ts ih =>
    unfold State.pickTag
    repeat' first
      | with_reducible assumption
      | split
      | with_reducible apply ih
      | with_reducible apply State.noteHot_keeps

theorem State.chargeBlocks_keeps {s : State} (h : Keeps lk z0 s.held) (c inv : Nat) (ls : List (Option Loc)) :
    Keeps lk z0 (s.chargeBlocks c inv ls).held := by
  unfold State.chargeBlocks
  repeat' first
    | with_reducible assumption
    | intro _

    | exact State.core_wf (by assumption) _
    | with_reducible refine keeps_core ?_ _ ?_

theorem State.chargeIssue_keeps {s : State} (h : Keeps lk z0 s.held) (t : Txn) :
    Keeps lk z0 (s.chargeIssue t).held := by
  unfold State.chargeIssue
  try dsimp only
  repeat' first
    | with_reducible assumption
    | split
    | with_reducible apply State.chargeBlocks_keeps

theorem State.issueTag_keeps {s : State} (h : Keeps lk z0 s.held) (src : Src) :
    Keeps lk z0 (s.issueTag src).held := by
  unfold State.issueTag
  repeat' first
    | with_reducible assumption
    | split
    | with_reducible refine keeps_snd (by assumption) ?_
    | with_reducible apply State.translate_keeps
    | with_reducible apply State.pickTag_keeps
    | with_reducible apply State.chargeIssue_keeps
    | simp only [held_lit]

theorem State.performed_keeps {s : State} (h : Keeps lk z0 s.held) (t : Txn) (l : Loc) :
    Keeps lk z0 (s.performed t l).held := by
  unfold State.performed
  repeat' first
    | with_reducible assumption
    | split
    | with_reducible apply State.dropTxn_keeps
    | with_reducible apply State.cameBack_keeps

theorem State.eccAt_keeps {s : State} (h : Keeps lk z0 s.held) (l : Loc) (ecc : Nat) :
    Keeps lk z0 (s.eccAt l ecc).held := by
  unfold State.eccAt
  repeat' first
    | with_reducible assumption
    | split
    | with_reducible apply State.countUnit_keeps

theorem State.perform_keeps {s : State} (h : Keeps lk z0 s.held) (t : Txn) (l : Loc) (ecc : Nat) :
    Keeps lk z0 (s.perform t l ecc).held := by
  unfold State.perform
  repeat' first
    | with_reducible assumption
    | with_reducible apply keeps_ite
    | with_reducible apply State.readAt_keeps
    | with_reducible apply State.writeAt_keeps
    | with_reducible apply State.backInvalidateAt_keeps
    | with_reducible apply State.cameBack_keeps
    | with_reducible apply State.performed_keeps
    | with_reducible apply State.eccAt_keeps

theorem State.settleDray_keeps {s : State} (h : Keeps lk z0 s.held) (g : Nat) :
    Keeps lk z0 (s.settleDray g).held := by
  unfold State.settleDray
  repeat' first
    | with_reducible assumption
    | intro _
    | with_reducible apply keeps_ite
    | with_reducible apply keeps_fold
    | with_reducible apply State.atCore_keeps
    | with_reducible apply State.setGuild_keeps
    | with_reducible apply CoreSt.accessDone_wf

theorem State.deliverRead_keeps {s : State} (h : Keeps lk z0 s.held) (t : Txn) :
    Keeps lk z0 (s.deliverRead t).held := by
  unfold State.deliverRead
  repeat' first
    | with_reducible assumption
    | intro _
    | split
    | with_reducible apply keeps_fold
    | with_reducible apply State.atCore_keeps
    | with_reducible apply State.putTxn_keeps
    | with_reducible apply State.dropTxn_keeps
    | with_reducible apply State.addTxn_keeps
    | with_reducible apply State.respond_keeps
    | with_reducible apply State.onDray_keeps
    | with_reducible apply State.settleDray_keeps
    | with_reducible apply CoreSt.accessDone_wf
    | with_reducible apply Eff.streamWritten_wf
    | simp only [held_lit]

theorem State.libAck_keeps {s : State} (h : Keeps lk z0 s.held) (t : Txn) (c code : Nat) :
    Keeps lk z0 (s.libAck t c code).held := by
  unfold State.libAck
  repeat' first
    | with_reducible assumption
    | intro _
    | with_reducible apply keeps_ite
    | with_reducible apply keeps_fold
    | with_reducible apply State.countCore_keeps
    | with_reducible apply State.dropTxn_keeps
    | with_reducible apply State.translate_keeps
    | simp only [held_lit]

theorem State.deliverAck_keeps {s : State} (h : Keeps lk z0 s.held) (t : Txn) (code : Nat) :
    Keeps lk z0 (s.deliverAck t code).held := by
  unfold State.deliverAck
  repeat' first
    | with_reducible assumption
    | intro _
    | split
    | with_reducible apply State.atCore_keeps
    | with_reducible apply State.countCore_keeps
    | with_reducible apply State.dropTxn_keeps
    | with_reducible apply State.onDray_keeps
    | with_reducible apply State.settleDray_keeps
    | with_reducible apply State.libAck_keeps
    | with_reducible apply Eff.writeEnded_wf

theorem State.arrive_keeps {s : State} (h : Keeps lk z0 s.held) (t : Txn) (c o : Nat) :
    Keeps lk z0 (s.arrive t c o).held := by
  unfold State.arrive
  repeat' first
    | with_reducible assumption
    | intro _
    | with_reducible apply keeps_ite
    | with_reducible apply State.atCore_keeps
    | with_reducible apply State.refusedEvent_keeps
    | with_reducible apply State.cameBack_keeps
    | with_reducible apply State.performed_keeps
    | with_reducible apply ew_fold
    | with_reducible apply Eff.arrive_wf

theorem State.readCore_keeps {s : State} (h : Keeps lk z0 s.held) (t : Txn) (c o : Nat) :
    Keeps lk z0 (s.readCore t c o).held := by
  unfold State.readCore
  repeat' first
    | with_reducible assumption
    | intro _
    | with_reducible apply keeps_ite
    | with_reducible apply State.atCore_keeps
    | with_reducible apply State.refusedEvent_keeps
    | with_reducible apply State.spoil_keeps
    | with_reducible apply State.cameBack_keeps
    | with_reducible apply Eff.touchLs_wf

theorem State.setDev_keeps {s : State} (h : Keeps lk z0 s.held) (d : DevState) :
    Keeps lk z0 (s.setDev d).held := by
  unfold State.setDev
  repeat' first
    | with_reducible assumption

    | simp only [held_lit]

theorem State.proceed_keeps {s : State} (h : Keeps lk z0 s.held) (d : DevState) :
    Keeps lk z0 (s.proceed d).held := by
  unfold State.proceed
  repeat' first
    | with_reducible assumption
    | with_reducible apply keeps_ite
    | with_reducible apply State.setDev_keeps

theorem State.setSq_keeps {s : State} (h : Keeps lk z0 s.held) (q : Nat) (r : SubRing) :
    Keeps lk z0 (s.setSq q r).held := by
  unfold State.setSq
  repeat' first
    | with_reducible assumption

    | simp only [held_lit]

theorem State.setCq_keeps {s : State} (h : Keeps lk z0 s.held) (q : Nat) (r : CompRing) :
    Keeps lk z0 (s.setCq q r).held := by
  unfold State.setCq
  repeat' first
    | with_reducible assumption

    | simp only [held_lit]

theorem State.dropCmd_keeps {s : State} (h : Keeps lk z0 s.held) (num : Nat) :
    Keeps lk z0 (s.dropCmd num).held := by
  unfold State.dropCmd
  repeat' first
    | with_reducible assumption

    | simp only [held_lit]

theorem State.startCmd_keeps {s : State} (h : Keeps lk z0 s.held) (c : Cmd) (p : CmdPhase) :
    Keeps lk z0 (s.startCmd c p).held := by
  unfold State.startCmd
  repeat' first
    | with_reducible assumption

    | simp only [held_lit]

theorem State.finishCmd_keeps {s : State} (h : Keeps lk z0 s.held) (c : Cmd) (status detail : Nat) :
    Keeps lk z0 (s.finishCmd c status detail).held := by
  unfold State.finishCmd
  repeat' first
    | with_reducible assumption
    | with_reducible apply keeps_ite
    | with_reducible apply State.countUnit_keeps
    | with_reducible apply State.setCq_keeps
    | with_reducible apply State.dropCmd_keeps
    | simp only [held_lit]

theorem State.settleOne_keeps {s : State} (h : Keeps lk z0 s.held) :
    Keeps lk z0 (s.settleOne).held := by
  unfold State.settleOne
  repeat' first
    | with_reducible assumption
    | split
    | with_reducible apply State.finishCmd_keeps

theorem State.settleCmds_keeps {s : State} (h : Keeps lk z0 s.held) :
    Keeps lk z0 (s.settleCmds).held := by
  unfold State.settleCmds
  repeat' first
    | with_reducible assumption
    | intro _
    | with_reducible apply keeps_fold
    | with_reducible apply State.settleOne_keeps

theorem State.endCmd_keeps {s : State} (h : Keeps lk z0 s.held) (c : Cmd) (status detail : Nat) :
    Keeps lk z0 (s.endCmd c status detail).held := by
  unfold State.endCmd
  repeat' first
    | with_reducible assumption
    | with_reducible apply State.finishCmd_keeps
    | with_reducible apply State.settleCmds_keeps

theorem State.rejectCmd_keeps {s : State} (h : Keeps lk z0 s.held) (c : Cmd) (status : Nat) :
    Keeps lk z0 (s.rejectCmd c status).held := by
  unfold State.rejectCmd
  repeat' first
    | with_reducible assumption
    | with_reducible apply keeps_ite
    | with_reducible apply State.countUnit_keeps
    | with_reducible apply State.endCmd_keeps

theorem State.serviceCheck_keeps {s : State} (h : Keeps lk z0 s.held) (c : Cmd) :
    Keeps lk z0 (s.serviceCheck c).2.held := by
  unfold State.serviceCheck
  try dsimp only
  repeat' first
    | with_reducible assumption
    | split
    | with_reducible apply State.takeFree_keeps
    | with_reducible apply State.raise_keeps

theorem State.uncache_keeps {s : State} (h : Keeps lk z0 s.held) (p : Nat → Bool) :
    Keeps lk z0 (s.uncache p).held := by
  unfold State.uncache
  repeat' first
    | with_reducible assumption

    | simp only [held_tiers]

theorem State.writeEntries_keeps {s : State} (h : Keeps lk z0 s.held) (first : Nat) (es : List Word) :
    Keeps lk z0 (s.writeEntries first es).held := by
  unfold State.writeEntries
  repeat' first
    | with_reducible assumption
    | intro _
    | with_reducible apply keeps_fold
    | with_reducible apply State.bedrockWrite_keeps

theorem State.abortRing_keeps {s : State} (h : Keeps lk z0 s.held) (q : Nat) :
    Keeps lk z0 (s.abortRing q).held := by
  unfold State.abortRing
  repeat' first
    | with_reducible assumption
    | intro _
    | with_reducible apply keeps_fold
    | with_reducible apply State.finishCmd_keeps

theorem State.disableSq_keeps {s : State} (h : Keeps lk z0 s.held) (q : Nat) :
    Keeps lk z0 (s.disableSq q).held := by
  unfold State.disableSq
  repeat' first
    | with_reducible assumption
    | with_reducible apply keeps_ite
    | with_reducible apply State.setSq_keeps
    | with_reducible apply State.abortRing_keeps

theorem State.disableCq_keeps {s : State} (h : Keeps lk z0 s.held) (q : Nat) :
    Keeps lk z0 (s.disableCq q).held := by
  unfold State.disableCq
  repeat' first
    | with_reducible assumption
    | intro _
    | with_reducible apply keeps_ite
    | with_reducible apply keeps_fold
    | with_reducible apply State.countUnit_keeps
    | with_reducible apply State.setCq_keeps
    | with_reducible apply State.dropCmd_keeps

theorem State.hostLinkDown_keeps {s : State} (h : Keeps lk z0 s.held) (code : Nat) :
    Keeps lk z0 (s.hostLinkDown code).held := by
  unfold State.hostLinkDown
  repeat' first
    | with_reducible assumption
    | intro _
    | with_reducible apply keeps_ite
    | with_reducible apply keeps_fold
    | with_reducible apply State.raise_keeps
    | with_reducible apply State.disableSq_keeps
    | with_reducible apply State.disableCq_keeps
    | simp only [held_lit]

theorem State.hostLinkUp_keeps {s : State} (h : Keeps lk z0 s.held) :
    Keeps lk z0 (s.hostLinkUp).held := by
  unfold State.hostLinkUp
  repeat' first
    | with_reducible assumption
    | intro _
    | with_reducible apply keeps_fold
    | with_reducible apply State.deviceWrite_keeps
    | with_reducible apply State.sendVector_keeps
    | simp only [held_lit]

theorem State.writeSqCfg_keeps {s : State} (h : Keeps lk z0 s.held) (q : Nat) (v : Word32) :
    Keeps lk z0 (s.writeSqCfg q v).held := by
  unfold State.writeSqCfg
  repeat' first
    | with_reducible assumption
    | with_reducible apply keeps_ite
    | with_reducible apply State.setSq_keeps
    | with_reducible apply State.disableSq_keeps

theorem State.writeCqCfg_keeps {s : State} (h : Keeps lk z0 s.held) (q : Nat) (v : Word32) :
    Keeps lk z0 (s.writeCqCfg q v).held := by
  unfold State.writeCqCfg
  repeat' first
    | with_reducible assumption
    | with_reducible apply keeps_ite
    | with_reducible apply State.setCq_keeps
    | with_reducible apply State.disableCq_keeps

theorem State.writeEvqCfg_keeps {s : State} (h : Keeps lk z0 s.held) (v : Word32) :
    Keeps lk z0 (s.writeEvqCfg v).held := by
  unfold State.writeEvqCfg
  repeat' first
    | with_reducible assumption
    | with_reducible apply keeps_ite

    | simp only [held_lit]

theorem State.writeMsixControl_keeps {s : State} (h : Keeps lk z0 s.held) (v : Nat) (x : Word32) :
    Keeps lk z0 (s.writeMsixControl v x).held := by
  unfold State.writeMsixControl
  repeat' first
    | with_reducible assumption
    | with_reducible apply keeps_ite
    | with_reducible apply State.sendVector_keeps
    | simp only [held_lit]

theorem execSqTail_keeps {s : State} (h : Keeps lk z0 s.held) (q : RingId) (v : Word32) :
    OutKeeps lk z0 (execSqTail q v s) := by
  unfold execSqTail
  refine outKeeps_next ?_
  repeat' first
    | with_reducible assumption
    | with_reducible apply keeps_ite
    | with_reducible apply State.countUnit_keeps
    | with_reducible apply State.setSq_keeps

theorem execCqHead_keeps {s : State} (h : Keeps lk z0 s.held) (q : RingId) (v : Word32) :
    OutKeeps lk z0 (execCqHead q v s) := by
  unfold execCqHead
  refine outKeeps_next ?_
  repeat' first
    | with_reducible assumption
    | with_reducible apply keeps_ite
    | with_reducible apply State.countUnit_keeps
    | with_reducible apply State.setCq_keeps

theorem execSqEntryFetch_keeps {s : State} (h : Keeps lk z0 s.held) (q : RingId) :
    OutKeeps lk z0 (execSqEntryFetch q s) := by
  unfold execSqEntryFetch
  refine outKeeps_next ?_
  repeat' first
    | with_reducible assumption
    | with_reducible apply keeps_ite
    | with_reducible apply State.setSq_keeps
    | with_reducible apply State.settleCmds_keeps
    | simp only [held_lit]

theorem execCqCompletionWrite_keeps {s : State} (h : Keeps lk z0 s.held) (q : RingId) :
    OutKeeps lk z0 (execCqCompletionWrite q s) := by
  unfold execCqCompletionWrite
  refine outKeeps_next ?_
  try dsimp only
  repeat' first
    | with_reducible assumption
    | split
    | with_reducible apply State.countUnit_keeps
    | with_reducible apply State.deviceWrite_keeps
    | with_reducible apply State.sendVector_keeps
    | with_reducible apply State.setCq_keeps
    | with_reducible apply State.dropCmd_keeps
    | with_reducible apply State.settleCmds_keeps

theorem execCqIntDelayExpiry_keeps {s : State} (h : Keeps lk z0 s.held) (q : RingId) :
    OutKeeps lk z0 (execCqIntDelayExpiry q s) := by
  unfold execCqIntDelayExpiry
  refine outKeeps_next ?_
  repeat' first
    | with_reducible assumption
    | with_reducible apply keeps_ite
    | with_reducible apply State.sendVector_keeps
    | with_reducible apply State.setCq_keeps

theorem execMsixVectorUnmask_keeps {s : State} (h : Keeps lk z0 s.held) (v : Fin 65) :
    OutKeeps lk z0 (execMsixVectorUnmask v s) := by
  unfold execMsixVectorUnmask
  refine outKeeps_next ?_
  repeat' first
    | with_reducible assumption
    | with_reducible apply keeps_ite
    | with_reducible apply State.writeMsixControl_keeps

theorem execSqEnable_keeps {s : State} (h : Keeps lk z0 s.held) (q : RingId) (v : Word32) :
    OutKeeps lk z0 (execSqEnable q v s) := by
  unfold execSqEnable
  refine outKeeps_next ?_
  repeat' first
    | with_reducible assumption
    | with_reducible apply keeps_ite
    | with_reducible apply State.writeSqCfg_keeps

theorem execSqDisable_keeps {s : State} (h : Keeps lk z0 s.held) (q : RingId) :
    OutKeeps lk z0 (execSqDisable q s) := by
  unfold execSqDisable
  refine outKeeps_next ?_
  repeat' first
    | with_reducible assumption
    | with_reducible apply keeps_ite
    | with_reducible apply State.disableSq_keeps

theorem execCqEnable_keeps {s : State} (h : Keeps lk z0 s.held) (q : RingId) (v : Word32) :
    OutKeeps lk z0 (execCqEnable q v s) := by
  unfold execCqEnable
  refine outKeeps_next ?_
  repeat' first
    | with_reducible assumption
    | with_reducible apply keeps_ite
    | with_reducible apply State.writeCqCfg_keeps

theorem execCqDisable_keeps {s : State} (h : Keeps lk z0 s.held) (q : RingId) :
    OutKeeps lk z0 (execCqDisable q s) := by
  unfold execCqDisable
  refine outKeeps_next ?_
  repeat' first
    | with_reducible assumption
    | with_reducible apply keeps_ite
    | with_reducible apply State.disableCq_keeps

theorem execEvqEnable_keeps {s : State} (h : Keeps lk z0 s.held) (v : Word32) :
    OutKeeps lk z0 (execEvqEnable v s) := by
  unfold execEvqEnable
  refine outKeeps_next ?_
  repeat' first
    | with_reducible assumption
    | with_reducible apply keeps_ite
    | with_reducible apply State.writeEvqCfg_keeps

theorem execEvqDisable_keeps {s : State} (h : Keeps lk z0 s.held) :
    OutKeeps lk z0 (execEvqDisable s) := by
  unfold execEvqDisable
  refine outKeeps_next ?_
  repeat' first
    | with_reducible assumption
    | with_reducible apply keeps_ite
    | with_reducible apply State.writeEvqCfg_keeps

theorem execEvPendingClear_keeps {s : State} (h : Keeps lk z0 s.held) (w : Fin 2) (v : Word) :
    OutKeeps lk z0 (execEvPendingClear w v s) := by
  unfold execEvPendingClear
  refine outKeeps_next ?_
  repeat' first
    | with_reducible assumption
    | with_reducible apply keeps_ite

    | simp only [held_lit]

theorem execEventOccurrence_keeps {s : State} (h : Keeps lk z0 s.held) :
    OutKeeps lk z0 (execEventOccurrence s) := by
  unfold execEventOccurrence
  refine outKeeps_next ?_
  repeat' first
    | with_reducible assumption
    | split
    | with_reducible apply State.takeOccurrence_keeps
    | simp only [held_lit]

theorem execCxlLinkDown_keeps {s : State} (h : Keeps lk z0 s.held) (hot : Bool) :
    OutKeeps lk z0 (execCxlLinkDown hot s) := by
  unfold execCxlLinkDown
  refine outKeeps_next ?_
  repeat' first
    | with_reducible assumption
    | with_reducible apply keeps_ite
    | with_reducible apply State.hostLinkDown_keeps

theorem execCxlLinkUp_keeps {s : State} (h : Keeps lk z0 s.held) :
    OutKeeps lk z0 (execCxlLinkUp s) := by
  unfold execCxlLinkUp
  refine outKeeps_next ?_
  repeat' first
    | with_reducible assumption
    | with_reducible apply keeps_ite
    | with_reducible apply State.hostLinkUp_keeps
    | simp only [held_lit]

theorem execRefclkLoss_keeps {s : State} (h : Keeps lk z0 s.held) :
    OutKeeps lk z0 (execRefclkLoss s) := by
  unfold execRefclkLoss
  refine outKeeps_next ?_
  repeat' first
    | with_reducible assumption
    | with_reducible apply keeps_ite
    | with_reducible apply State.hostLinkDown_keeps
    | simp only [held_lit]

theorem execIdeCheckFail_keeps {s : State} (h : Keeps lk z0 s.held) (io mem : Bool) :
    OutKeeps lk z0 (execIdeCheckFail io mem s) := by
  unfold execIdeCheckFail
  refine outKeeps_next ?_
  repeat' first
    | with_reducible assumption
    | with_reducible apply keeps_ite
    | with_reducible apply State.raise_keeps
    | with_reducible apply State.hostLinkDown_keeps
    | simp only [held_lit]

theorem execHostSnoop_keeps {s : State} (h : Keeps lk z0 s.held) :
    OutKeeps lk z0 (execHostSnoop s) := by
  unfold execHostSnoop
  refine outKeeps_next ?_
  repeat' first
    | with_reducible assumption
    | with_reducible apply keeps_ite

    | simp only [held_lit]

theorem State.answered_keeps {s : State} (h : Keeps lk z0 s.held) (a : Answer) :
    Keeps lk z0 (s.answered a).held := by
  unfold State.answered
  repeat' first
    | with_reducible assumption

    | simp only [held_lit]

theorem State.recordSnoop_keeps {s : State} (h : Keeps lk z0 s.held) (k : Nat) :
    Keeps lk z0 (s.recordSnoop k).held := by
  unfold State.recordSnoop
  repeat' first
    | with_reducible assumption
    | split
    | with_reducible apply State.backInvalidate_keeps
    | simp only [held_lit]

theorem State.windowRefused_keeps {s : State} (h : Keeps lk z0 s.held) :
    Keeps lk z0 (s.windowRefused).held := by
  unfold State.windowRefused
  repeat' first
    | with_reducible assumption
    | with_reducible apply State.takeBlock_keeps
    | with_reducible apply State.answered_keeps

theorem State.snoopAfter_keeps {s : State} (h : Keeps lk z0 s.held) (loc : Option Loc) (cached : Bool) :
    Keeps lk z0 (s.snoopAfter loc cached).held := by
  unfold State.snoopAfter
  repeat' first
    | with_reducible assumption
    | split
    | with_reducible apply State.recordSnoop_keeps

theorem State.windowData_keeps {s : State} (h : Keeps lk z0 s.held) (dva : Nat) (cached : Bool) :
    Keeps lk z0 (s.windowData dva cached).held := by
  unfold State.windowData
  repeat' first
    | with_reducible assumption
    | split
    | with_reducible apply State.readBlock_keeps
    | with_reducible apply State.answered_keeps
    | with_reducible apply State.windowRefused_keeps
    | with_reducible apply State.snoopAfter_keeps

theorem execHdmWindowRead_keeps {s : State} (h : Keeps lk z0 s.held) (x : BitVec 40) (cached : Bool) :
    OutKeeps lk z0 (execHdmWindowRead x cached s) := by
  unfold execHdmWindowRead
  refine outKeeps_next ?_
  repeat' first
    | with_reducible assumption
    | with_reducible apply keeps_ite
    | with_reducible apply State.countUnit_keeps
    | with_reducible apply State.refusedEvent_keeps
    | with_reducible apply State.windowRefused_keeps
    | with_reducible apply State.windowData_keeps

theorem execHdmWindowWrite_keeps {s : State} (h : Keeps lk z0 s.held) (x : BitVec 40) (mask : BitVec 64) (data : BitVec 512) (mark : Bool) :
    OutKeeps lk z0 (execHdmWindowWrite x mask data mark s) := by
  unfold execHdmWindowWrite
  refine outKeeps_next ?_
  repeat' first
    | with_reducible assumption
    | with_reducible apply keeps_ite
    | with_reducible apply State.countUnit_keeps
    | with_reducible apply State.refusedEvent_keeps
    | with_reducible apply State.writeBlock_keeps

theorem execStatusMirrorRead_keeps {s : State} (h : Keeps lk z0 s.held) (x : BitVec 28) :
    OutKeeps lk z0 (execStatusMirrorRead x s) := by
  unfold execStatusMirrorRead
  refine outKeeps_next ?_
  repeat' first
    | with_reducible assumption
    | with_reducible apply keeps_ite
    | with_reducible apply State.answered_keeps

theorem execBirsp_keeps {s : State} (h : Keeps lk z0 s.held) (key : Nat) (wb : Option (BitVec 512)) :
    OutKeeps lk z0 (execBirsp key wb s) := by
  unfold execBirsp
  refine outKeeps_next ?_
  repeat' first
    | with_reducible assumption
    | split
    | with_reducible apply State.writeAt_keeps
    | simp only [held_lit]

theorem execI3cEntdaa_keeps {s : State} (h : Keeps lk z0 s.held) (addr : BitVec 7) :
    OutKeeps lk z0 (execI3cEntdaa addr s) := by
  unfold execI3cEntdaa
  refine outKeeps_next ?_
  repeat' first
    | with_reducible assumption
    | with_reducible apply keeps_ite

    | simp only [held_lit]

theorem execNop_keeps {s : State} (h : Keeps lk z0 s.held) :
    OutKeeps lk z0 (execNop s) := by
  unfold execNop
  refine outKeeps_next ?_
  try dsimp only
  repeat' first
    | with_reducible assumption
    | split
    | with_reducible apply State.settleCmds_keeps
    | with_reducible apply State.endCmd_keeps
    | with_reducible apply State.rejectCmd_keeps

theorem State.runCommand_keeps {s : State} (h : Keeps lk z0 s.held) (o : Nat) (state : State → Cmd → Bool)
    (f : State → Cmd → State) (hf : ∀ t c, Keeps lk z0 t.held → Keeps lk z0 (f t c).held) :
    Keeps lk z0 (s.runCommand o state f).held := by
  unfold State.runCommand
  have h1 := State.settleCmds_keeps h
  dsimp only
  split
  · split
    · exact State.rejectCmd_keeps h1 _ _
    · exact hf _ _ h1
  · exact h

theorem State.runService_keeps {s : State} (h : Keeps lk z0 s.held) (o : Nat) (state : State → Cmd → Bool)
    (f : State → Cmd → State) (hf : ∀ t c, Keeps lk z0 t.held → Keeps lk z0 (f t c).held) :
    Keeps lk z0 (s.runService o state f).held := by
  refine State.runCommand_keeps h _ _ _ (fun t c ht => ?_)
  have h1 := State.serviceCheck_keeps ht c
  split
  · exact hf _ _ (keeps_snd (by assumption) h1)
  · exact State.endCmd_keeps (keeps_snd (by assumption) h1) _ _ _

theorem execTallyLoad_keeps {s : State} (h : Keeps lk z0 s.held) :
    OutKeeps lk z0 (execTallyLoad s) := by
  unfold execTallyLoad
  refine outKeeps_next ?_
  try dsimp only
  repeat' first
    | with_reducible assumption
    | intro _
    | split
    | with_reducible refine keeps_snd (by assumption) ?_
    | with_reducible apply State.atCore_keeps
    | with_reducible apply State.readRange_keeps
    | with_reducible apply State.withAnswers_keeps
    | with_reducible apply State.needRange_keeps
    | with_reducible apply State.endCmd_keeps
    | with_reducible apply State.serviceCheck_keeps
    | with_reducible apply State.runCommand_keeps
    | exact mems_dmem (by assumption) (fun x => store_write_wf x _ _)
    | exact mems_imem (by assumption) (fun x => store_writeImem_wf x _ _)

theorem execThreadStart_keeps {s : State} (h : Keeps lk z0 s.held) :
    OutKeeps lk z0 (execThreadStart s) := by
  unfold execThreadStart
  refine outKeeps_next ?_
  repeat' first
    | with_reducible assumption
    | intro _
    | with_reducible apply State.atCore_keeps
    | with_reducible apply State.endCmd_keeps
    | with_reducible apply State.runCommand_keeps
    | with_reducible apply Eff.onThread_wf

theorem execMailboxWrite_keeps {s : State} (h : Keeps lk z0 s.held) :
    OutKeeps lk z0 (execMailboxWrite s) := by
  unfold execMailboxWrite
  refine outKeeps_next ?_
  repeat' first
    | with_reducible assumption
    | intro _
    | with_reducible apply keeps_fold
    | with_reducible apply State.atCore_keeps
    | with_reducible apply State.endCmd_keeps
    | with_reducible apply State.runService_keeps
    | with_reducible apply Eff.mail_wf

theorem execCoreRecover_keeps {s : State} (h : Keeps lk z0 s.held) :
    OutKeeps lk z0 (execCoreRecover s) := by
  unfold execCoreRecover
  refine outKeeps_next ?_
  repeat' first
    | with_reducible assumption
    | intro _
    | with_reducible apply State.atCore_keeps
    | with_reducible apply State.endCmd_keeps
    | with_reducible apply State.runCommand_keeps
    | with_reducible apply Eff.recover_wf

theorem execPlace_keeps {s : State} (h : Keeps lk z0 s.held) :
    OutKeeps lk z0 (execPlace s) := by
  unfold execPlace
  refine outKeeps_next ?_
  repeat' first
    | with_reducible assumption
    | intro _
    | split
    | with_reducible refine keeps_snd (by assumption) ?_
    | with_reducible apply State.startCmd_keeps
    | with_reducible apply State.settleCmds_keeps
    | with_reducible apply State.endCmd_keeps
    | with_reducible apply State.serviceCheck_keeps
    | with_reducible apply State.uncache_keeps
    | with_reducible apply State.writeEntries_keeps
    | with_reducible apply State.runCommand_keeps

theorem execPlaceRead_keeps {s : State} (h : Keeps lk z0 s.held) :
    OutKeeps lk z0 (execPlaceRead s) := by
  unfold execPlaceRead
  refine outKeeps_next ?_
  repeat' first
    | with_reducible assumption
    | intro _
    | with_reducible apply keeps_ite
    | with_reducible apply keeps_fold2
    | with_reducible apply State.bedrockLook_keeps
    | with_reducible apply State.deviceWrite_keeps
    | with_reducible apply State.endCmd_keeps
    | with_reducible apply State.runCommand_keeps

theorem execSetPowerCap_keeps {s : State} (h : Keeps lk z0 s.held) :
    OutKeeps lk z0 (execSetPowerCap s) := by
  unfold execSetPowerCap
  refine outKeeps_next ?_
  repeat' first
    | with_reducible assumption
    | intro _
    | with_reducible apply State.startCmd_keeps
    | with_reducible apply State.runCommand_keeps

theorem execSetWakeLatency_keeps {s : State} (h : Keeps lk z0 s.held) :
    OutKeeps lk z0 (execSetWakeLatency s) := by
  unfold execSetWakeLatency
  refine outKeeps_next ?_
  repeat' first
    | with_reducible assumption
    | intro _
    | with_reducible apply State.startCmd_keeps
    | with_reducible apply State.runCommand_keeps

theorem State.enableLink_keeps {s : State} (h : Keeps lk z0 s.held) (l : Nat) :
    Keeps lk z0 (s.enableLink l).held := by
  unfold State.enableLink
  repeat' first
    | with_reducible assumption
    | with_reducible apply keeps_ite
    | with_reducible apply State.setLink_keeps

theorem State.disableLink_keeps {s : State} (h : Keeps lk z0 s.held) (l : Nat) :
    Keeps lk z0 (s.disableLink l).held := by
  unfold State.disableLink
  repeat' first
    | with_reducible assumption
    | with_reducible apply keeps_ite
    | with_reducible apply State.setLink_keeps
    | with_reducible apply State.loseLink_keeps

theorem State.writeLinkCtrl_keeps {s : State} (h : Keeps lk z0 s.held) (l : Nat) (v : Word32) :
    Keeps lk z0 (s.writeLinkCtrl l v).held := by
  unfold State.writeLinkCtrl
  repeat' first
    | with_reducible assumption
    | with_reducible apply keeps_ite
    | with_reducible apply State.setLink_keeps
    | with_reducible apply State.enableLink_keeps
    | with_reducible apply State.disableLink_keeps

theorem State.lockable_keeps {s : State} (h : Keeps lk z0 s.held) (f : Security → Security) : Keeps lk z0 (s.lockable f).held := by
  unfold State.lockable
  split
  · exact State.countUnit_keeps h _ _ _
  · rename_i hl
    refine ⟨h.pending, h.wf, fun x y => absurd (h.lock x y).1 hl⟩

theorem State.writeLock_keeps {s : State} (h : Keeps lk z0 s.held) (v : Word) : Keeps lk z0 (s.writeLock v).held := by
  unfold State.writeLock
  split
  · rename_i hl
    refine ⟨h.pending, h.wf, fun x y => ?_⟩
    have := (h.lock x y).1
    simp only [State.held] at this
    simp [this] at hl
  · exact h

theorem State.commitSvn_keeps {s : State} (h : Keeps lk z0 s.held) : Keeps lk z0 s.commitSvn.held := by
  unfold State.commitSvn
  split
  · exact h
  · exact ⟨h.pending, h.wf, fun x => h.lock x⟩

theorem State.setUpCore_keeps {s : State} (h : Keeps lk z0 s.held) (c : Nat) (f : CoreSt → CoreSt)
    (hf : ∀ k, k.mems.wf → (f k).mems.wf) : Keeps lk z0 (s.setUpCore c f).held :=
  keeps_ite h (keeps_core h c (fun w => hf _ (State.core_wf w c)))

theorem State.writeGauSel_keeps {s : State} (h : Keeps lk z0 s.held) (c j : Nat) (v : Word32) :
    Keeps lk z0 (s.writeGauSel c j v).held := by
  unfold State.writeGauSel
  repeat' first
    | with_reducible assumption
    | intro _
    | with_reducible apply State.setUpCore_keeps
    | simp only [mems_lit]

theorem State.writeQueueMode_keeps {s : State} (h : Keeps lk z0 s.held) (c : Nat) (v : Word32) :
    Keeps lk z0 (s.writeQueueMode c v).held := by
  unfold State.writeQueueMode
  repeat' first
    | with_reducible assumption
    | intro _
    | with_reducible apply State.setUpCore_keeps
    | simp only [mems_lit]

theorem State.clearUnit_keeps {s : State} (h : Keeps lk z0 s.held) (u i : Nat) :
    Keeps lk z0 (s.clearUnit u i).held := by
  unfold State.clearUnit
  repeat' first
    | with_reducible assumption
    | with_reducible apply keeps_ite

    | simp only [held_lit]

theorem State.writeReg_keeps {s : State} (h : Keeps lk z0 s.held) (r : Reg) (v : Word) :
    Keeps lk z0 (s.writeReg r v).held := by
  unfold State.writeReg
  repeat' first
    | with_reducible assumption
    | intro _
    | split
    | with_reducible apply State.setSq_keeps
    | with_reducible apply State.setCq_keeps
    | with_reducible apply State.writeSqCfg_keeps
    | with_reducible apply State.writeCqCfg_keeps
    | with_reducible apply State.writeEvqCfg_keeps
    | with_reducible apply State.writeMsixControl_keeps
    | with_reducible apply State.writeLinkCtrl_keeps
    | with_reducible apply State.lockable_keeps
    | with_reducible apply State.writeLock_keeps
    | with_reducible apply State.commitSvn_keeps
    | with_reducible apply State.setUpCore_keeps
    | with_reducible apply State.writeGauSel_keeps
    | with_reducible apply State.writeQueueMode_keeps
    | with_reducible apply State.clearUnit_keeps
    | simp only [mems_lit]
    | simp only [held_lit]

theorem State.writeAtAddr_keeps {s : State} (h : Keeps lk z0 s.held) (a bytes : Nat) (v : Word) :
    Keeps lk z0 (s.writeAtAddr a bytes v).held := by
  unfold State.writeAtAddr
  repeat' first
    | with_reducible assumption
    | split
    | with_reducible apply State.writeReg_keeps

theorem State.writeBar_keeps {s : State} (h : Keeps lk z0 s.held) (a : Nat) (wide : Bool) (v : Word) :
    Keeps lk z0 (s.writeBar a wide v).held := by
  unfold State.writeBar
  repeat' first
    | with_reducible assumption
    | split
    | with_reducible apply State.writeAtAddr_keeps

end Sys2Proof.Machine
end

