-- ==== Sys2Proof/Laws/KeepsFabric.lean ====
section
/-! SUPPORT. What the fabric, engine and Tally commands leave alone. -/

namespace Sys2Proof.Machine

variable {lk : Bool} {z0 : Held}

theorem execRegisterWrite_keeps {s : State} (h : Keeps lk z0 s.held) (a : BitVec 26) (wide : Bool) (v : Word) :
    OutKeeps lk z0 (execRegisterWrite a wide v s) := by
  unfold execRegisterWrite
  refine outKeeps_next ?_
  repeat' first
    | with_reducible assumption
    | with_reducible apply State.writeBar_keeps

theorem execQueueModeWrite_keeps {s : State} (h : Keeps lk z0 s.held) (c : CoreId) (v : Word32) :
    OutKeeps lk z0 (execQueueModeWrite c v s) := by
  unfold execQueueModeWrite
  refine outKeeps_next ?_
  repeat' first
    | with_reducible assumption
    | with_reducible apply keeps_ite
    | with_reducible apply State.writeQueueMode_keeps

theorem execGauSelWrite_keeps {s : State} (h : Keeps lk z0 s.held) (c : CoreId) (j : Fin 256) (v : Word32) :
    OutKeeps lk z0 (execGauSelWrite c j v s) := by
  unfold execGauSelWrite
  refine outKeeps_next ?_
  repeat' first
    | with_reducible assumption
    | with_reducible apply keeps_ite
    | with_reducible apply State.writeGauSel_keeps

theorem execUnitCounterClear_keeps {s : State} (h : Keeps lk z0 s.held) (u : Fin 256) (i : Fin 1024) :
    OutKeeps lk z0 (execUnitCounterClear u i s) := by
  unfold execUnitCounterClear
  refine outKeeps_next ?_
  repeat' first
    | with_reducible assumption
    | with_reducible apply keeps_ite
    | with_reducible apply State.clearUnit_keeps

theorem execSecLockWrite_keeps {s : State} (h : Keeps lk z0 s.held) (v : Word) :
    OutKeeps lk z0 (execSecLockWrite v s) := by
  unfold execSecLockWrite
  refine outKeeps_next ?_
  repeat' first
    | with_reducible assumption
    | with_reducible apply keeps_ite
    | with_reducible apply State.writeLock_keeps

theorem execSecSvnCommit_keeps {s : State} (h : Keeps lk z0 s.held) :
    OutKeeps lk z0 (execSecSvnCommit s) := by
  unfold execSecSvnCommit
  refine outKeeps_next ?_
  repeat' first
    | with_reducible assumption
    | with_reducible apply keeps_ite
    | with_reducible apply State.commitSvn_keeps

theorem execSvnFuseBurnDone_keeps {s : State} (h : Keeps lk z0 s.held) : OutKeeps lk z0 (execSvnFuseBurnDone s) := by
  unfold execSvnFuseBurnDone
  refine outKeeps_next ?_
  split
  · exact ⟨h.pending, h.wf, fun x => h.lock x⟩
  · exact h

theorem execBwWindowEnd_keeps {s : State} (h : Keeps lk z0 s.held) (u : Fin 256) :
    OutKeeps lk z0 (execBwWindowEnd u s) := by
  unfold execBwWindowEnd
  refine outKeeps_next ?_
  repeat' first
    | with_reducible assumption
    | intro _
    | with_reducible apply keeps_ite
    | with_reducible apply keeps_fold
    | with_reducible apply State.countUnit_keeps
    | with_reducible apply State.linkTick_keeps
    | simp only [held_lit]

theorem execGauBwPeakRead_keeps {s : State} (h : Keeps lk z0 s.held) (u i : Fin 256) :
    OutKeeps lk z0 (execGauBwPeakRead u i s) := by
  unfold execGauBwPeakRead
  refine outKeeps_next ?_
  repeat' first
    | with_reducible assumption
    | with_reducible apply keeps_ite

    | simp only [held_lit]

theorem execSampleRecordWrite_keeps {s : State} (h : Keeps lk z0 s.held) (c : CoreId) :
    OutKeeps lk z0 (execSampleRecordWrite c s) := by
  unfold execSampleRecordWrite
  refine outKeeps_next ?_
  repeat' first
    | with_reducible assumption
    | intro _
    | split
    | with_reducible apply State.atCore_keeps
    | with_reducible apply State.writeRecord_keeps
    | with_reducible apply State.recall_keeps
    | simp only [mems_lit]

theorem execDumpLatch_keeps {s : State} (h : Keeps lk z0 s.held) (c : CoreId) (gap : Nat) :
    OutKeeps lk z0 (execDumpLatch c gap s) := by
  unfold execDumpLatch
  refine outKeeps_next ?_
  repeat' first
    | with_reducible assumption
    | intro _
    | with_reducible apply keeps_ite
    | with_reducible apply State.atCore_keeps
    | with_reducible apply State.writeRange_keeps
    | with_reducible apply State.recall_keeps
    | simp only [mems_lit]

theorem State.scrivenerDone_keeps {s : State} (h : Keeps lk z0 s.held) :
    Keeps lk z0 (s.scrivenerDone).held := by
  unfold State.scrivenerDone
  repeat' first
    | with_reducible assumption
    | with_reducible apply State.proceed_keeps

theorem State.endScrivener_keeps {s : State} (h : Keeps lk z0 s.held) (cmd : Nat) (ids : List Nat) (status detail : Nat) :
    Keeps lk z0 (s.endScrivener cmd ids status detail).held := by
  unfold State.endScrivener
  repeat' first
    | with_reducible assumption
    | split
    | with_reducible apply State.startCmd_keeps
    | with_reducible apply State.settleCmds_keeps
    | with_reducible apply State.endCmd_keeps
    | with_reducible apply State.scrivenerDone_keeps

theorem State.setFrozen_keeps {s : State} (h : Keeps lk z0 s.held) (p : Nat) (b : Bool) :
    Keeps lk z0 (s.setFrozen p b).held := by
  unfold State.setFrozen
  repeat' first
    | with_reducible assumption
    | with_reducible apply State.writeEntries_keeps

theorem State.releaseHeld_keeps {s : State} (h : Keeps lk z0 s.held) (p : Nat) :
    Keeps lk z0 (s.releaseHeld p).held := by
  unfold State.releaseHeld
  repeat' first
    | with_reducible assumption
    | intro _
    | with_reducible apply keeps_fold
    | with_reducible apply State.entryOf_keeps
    | with_reducible apply State.act_keeps

theorem State.preserve_keeps {s : State} (h : Keeps lk z0 s.held) (p : Nat) :
    Keeps lk z0 (s.preserve p).held := by
  unfold State.preserve
  repeat' first
    | with_reducible assumption
    | with_reducible apply keeps_ite
    | with_reducible apply State.uncache_keeps
    | with_reducible apply State.setFrozen_keeps
    | with_reducible apply State.releaseHeld_keeps
    | simp only [held_lit]

theorem State.scrivLeave_keeps {s : State} (h : Keeps lk z0 s.held) (p : Nat) :
    Keeps lk z0 (s.scrivLeave p).held := by
  unfold State.scrivLeave
  repeat' first
    | with_reducible assumption

    | simp only [held_lit]

theorem State.failSnapshot_keeps {s : State} (h : Keeps lk z0 s.held) (x : Snapshot) (reason : Nat) :
    Keeps lk z0 (s.failSnapshot x reason).held := by
  unfold State.failSnapshot
  repeat' first
    | with_reducible assumption
    | intro _
    | with_reducible apply keeps_ite
    | with_reducible apply keeps_fold
    | with_reducible apply State.raise_keeps
    | with_reducible apply State.endScrivener_keeps
    | with_reducible apply State.preserve_keeps
    | simp only [held_lit]

theorem State.houseAck_keeps {s : State} (h : Keeps lk z0 s.held) (t : Txn) (code : Nat) :
    Keeps lk z0 (s.houseAck t code).held := by
  unfold State.houseAck
  try dsimp only
  repeat' first
    | with_reducible assumption
    | split
    | with_reducible apply State.dropTxn_keeps
    | with_reducible apply State.scrivLeave_keeps
    | with_reducible apply State.failSnapshot_keeps

theorem State.sendBytes_keeps {s : State} (h : Keeps lk z0 s.held) (x : Snapshot) (p0 idx dva : Nat) (bs : List (Byte × Bool)) :
    Keeps lk z0 (s.sendBytes x p0 idx dva bs).2.held := by
  unfold State.sendBytes
  try dsimp only
  repeat' first
    | with_reducible assumption
    | intro _
    | split
    | with_reducible apply keeps_fold2
    | with_reducible apply State.entryOf_keeps
    | with_reducible apply State.addTxn_keeps
    | with_reducible apply State.send_keeps
    | with_reducible apply State.writeBlock_keeps

theorem State.sendOut_keeps {s : State} (h : Keeps lk z0 s.held) (x : Snapshot) (p : Nat) (copy : Option Nat) (out : List (Byte × Bool)) :
    Keeps lk z0 (s.sendOut x p copy out).held := by
  unfold State.sendOut
  repeat' first
    | with_reducible assumption
    | with_reducible apply keeps_ite
    | with_reducible apply State.setGuild_keeps
    | with_reducible apply State.preserve_keeps
    | with_reducible apply State.failSnapshot_keeps
    | with_reducible apply State.sendBytes_keeps
    | simp only [held_lit]

theorem State.sendPage_keeps {s : State} (h : Keeps lk z0 s.held) (x : Snapshot) (answers : List PeerAnswer) :
    Keeps lk z0 (s.sendPage x answers).held := by
  unfold State.sendPage
  repeat' first
    | with_reducible assumption
    | with_reducible apply keeps_ite
    | with_reducible apply State.readRange_keeps
    | with_reducible apply State.recall_keeps
    | with_reducible apply State.sendOut_keeps

theorem State.copyInto_keeps {s : State} (h : Keeps lk z0 s.held) (x : Snapshot) (p f : Nat) (answers : List PeerAnswer) :
    Keeps lk z0 (s.copyInto x p f answers).held := by
  have h1 := State.readRange_keeps h .house scrivMaster (p * pageBytes) pageBytes answers
  unfold State.copyInto
  generalize s.readRange .house scrivMaster (p * pageBytes) pageBytes answers = y at h1 ⊢
  have h2 := State.writeRange_keeps h1 .house scrivMaster 3 (f * pageBytes) y.1
  dsimp only
  generalize (y.2.2.writeRange .house scrivMaster 3 (f * pageBytes) y.1).2 = z at h2 ⊢
  refine State.preserve_keeps ?_ _
  exact h2

theorem State.copyPage_keeps {s : State} (h : Keeps lk z0 s.held) (x : Snapshot) (p : Nat) (answers : List PeerAnswer) :
    Keeps lk z0 (s.copyPage x p answers).held := by
  unfold State.copyPage
  repeat' first
    | with_reducible assumption
    | split
    | with_reducible apply State.countUnit_keeps
    | with_reducible apply State.recall_keeps
    | with_reducible apply State.copyInto_keeps
    | simp only [held_lit]

theorem State.finishSnapshot_keeps {s : State} (h : Keeps lk z0 s.held) (x : Snapshot) :
    Keeps lk z0 (s.finishSnapshot x).held := by
  unfold State.finishSnapshot
  repeat' first
    | with_reducible assumption
    | with_reducible apply State.raise_keeps
    | with_reducible apply State.endScrivener_keeps
    | simp only [held_lit]

theorem State.sendManifest_keeps {s : State} (h : Keeps lk z0 s.held) (x : Snapshot) :
    Keeps lk z0 (s.sendManifest x).held := by
  unfold State.sendManifest
  repeat' first
    | with_reducible assumption
    | intro _
    | with_reducible apply keeps_ite
    | with_reducible apply keeps_fold2
    | with_reducible apply State.failSnapshot_keeps
    | with_reducible apply State.sendBytes_keeps
    | with_reducible apply State.finishSnapshot_keeps
    | simp only [held_lit]

theorem State.refuseRestore_keeps {s : State} (h : Keeps lk z0 s.held) (cmd step reason page : Nat) :
    Keeps lk z0 (s.refuseRestore cmd step reason page).held := by
  unfold State.refuseRestore
  repeat' first
    | with_reducible assumption
    | with_reducible apply State.raise_keeps
    | with_reducible apply State.endScrivener_keeps
    | simp only [held_lit]

theorem State.readManifest_keeps {s : State} (h : Keeps lk z0 s.held) (base step : Nat) (needSig : Bool) (answers : List PeerAnswer) :
    Keeps lk z0 (s.readManifest base step needSig answers).2.held := by
  unfold State.readManifest
  try dsimp only
  repeat' first
    | with_reducible assumption
    | split
    | with_reducible apply State.readRange_keeps
    | with_reducible apply State.needRange_keeps

theorem pageRead_keeps {x : List (Byte × Bool) × List Nat × State} (h : Keeps lk z0 x.2.2.held) : Keeps lk z0 (pageRead x).2.held := h

theorem State.readSource_keeps {s : State} (h : Keeps lk z0 s.held) (r : Restore) (src : RestoreSource) (answers : List PeerAnswer) :
    Keeps lk z0 (State.readSource s r src answers).2.held :=
  pageRead_keeps (State.readRange_keeps (State.needRange_keeps h _ _ _ _ _) _ _ _ _ _)

theorem State.putPage_keeps {s : State} (h : Keeps lk z0 s.held) (r : Restore) (home : Nat) (bs : List (Byte × Bool)) (n : Nat) :
    Keeps lk z0 (s.putPage r home bs n).held := by
  have h1 := State.writeRange_keeps h .house scrivMaster 3 home bs
  unfold State.putPage
  exact h1

theorem State.undefineBlock_keeps {s : State} (h : Keeps lk z0 s.held) (dva : Nat) :
    Keeps lk z0 (s.undefineBlock dva).held := by
  unfold State.undefineBlock
  repeat' first
    | with_reducible assumption
    | split
    | with_reducible apply State.takeFree_keeps
    | with_reducible apply State.takeBlock_keeps
    | with_reducible apply State.writeAt_keeps

theorem State.undefinePages_keeps {s : State} (h : Keeps lk z0 s.held) (r : Restore) :
    Keeps lk z0 (s.undefinePages r).held := by
  unfold State.undefinePages
  repeat' first
    | with_reducible assumption
    | intro _
    | with_reducible apply keeps_fold
    | with_reducible apply State.undefineBlock_keeps

theorem State.refusePage_keeps {s : State} (h : Keeps lk z0 s.held) (r : Restore) (y : PageEntry) :
    Keeps lk z0 (s.refusePage r y).held := by
  unfold State.refusePage
  repeat' first
    | with_reducible assumption
    | with_reducible apply State.refuseRestore_keeps
    | with_reducible apply State.undefinePages_keeps

theorem State.loadPage_keeps {s : State} (h : Keeps lk z0 s.held) (r : Restore) (y : PageEntry) (answers : List PeerAnswer) :
    Keeps lk z0 (s.loadPage r y answers).held := by
  unfold State.loadPage
  generalize pageBytes = n
  try dsimp only
  repeat' first
    | with_reducible assumption
    | split
    | with_reducible apply State.recall_keeps
    | with_reducible apply State.readSource_keeps
    | with_reducible apply State.putPage_keeps
    | with_reducible apply State.refusePage_keeps

theorem State.beginHead_keeps {s t : State} (h : Keeps lk z0 s.held) {c : Nat} {e : Engine} {gap : Nat} {p : MicroOp → Bool}
    {o : MicroOp} (ht : s.beginHead c e gap p = some (o, t)) : Keeps lk z0 t.held := by
  unfold State.beginHead at ht
  split at ht
  · cases ht
  · split at ht
    · split at ht
      · cases ht
        refine State.atCore_keeps h _ _ (fun e he => Eff.begin_wf ?_ _ _)
        exact he
      · cases ht
    · cases ht

theorem State.setLeft_keeps {s : State} (h : Keeps lk z0 s.held) (c : Nat) (g : Engine) (uid n : Nat) :
    Keeps lk z0 (s.setLeft c g uid n).held := by
  unfold State.setLeft
  repeat' first
    | with_reducible assumption
    | intro _
    | with_reducible apply State.atCore_keeps
    | with_reducible apply CoreSt.setLeft_wf

theorem State.streamIn_keeps {s : State} (h : Keeps lk z0 s.held) (c : Nat) (o : MicroOp) :
    Keeps lk z0 (s.streamIn c o).held := by
  unfold State.streamIn
  repeat' first
    | with_reducible assumption
    | intro _
    | with_reducible apply keeps_ite
    | with_reducible apply keeps_fold
    | with_reducible apply State.atCore_keeps
    | with_reducible apply State.addTxn_keeps
    | with_reducible apply State.setLeft_keeps
    | with_reducible apply Eff.raise_wf
    | with_reducible apply Eff.refuseOp_wf

theorem State.streamOut_keeps {s : State} (h : Keeps lk z0 s.held) (c : Nat) (o : MicroOp) :
    Keeps lk z0 (s.streamOut c o).held := by
  unfold State.streamOut
  repeat' first
    | with_reducible assumption
    | intro _
    | with_reducible apply keeps_ite
    | with_reducible apply keeps_fold
    | with_reducible apply State.atCore_keeps
    | with_reducible apply State.addTxn_keeps
    | with_reducible apply State.setLeft_keeps
    | with_reducible apply ew_fold
    | with_reducible apply Eff.count_wf
    | with_reducible apply Eff.touchLs_wf
    | with_reducible apply CoreSt.releaseReads_wf
    | with_reducible apply Eff.setInvalid_wf
    | simp only [held_lit]

theorem State.drayAccept_keeps {s : State} (h : Keeps lk z0 s.held) (c : Nat) (o : MicroOp) (d : Stream) (fence : Bool) :
    Keeps lk z0 (s.drayAccept c o d fence).held := by
  unfold State.drayAccept
  repeat' first
    | with_reducible assumption
    | with_reducible apply State.setGuild_keeps
    | simp only [held_lit]

theorem State.prefetch_keeps {s : State} (h : Keeps lk z0 s.held) (c : Nat) (o : MicroOp) :
    Keeps lk z0 (s.prefetch c o).held := by
  unfold State.prefetch
  repeat' first
    | with_reducible assumption
    | with_reducible apply keeps_ite
    | with_reducible apply State.chargeBlocks_keeps
    | with_reducible apply State.setLeft_keeps
    | with_reducible apply State.drayAccept_keeps

theorem State.fenceStart_keeps {s : State} (h : Keeps lk z0 s.held) (c : Nat) (o : MicroOp) :
    Keeps lk z0 (s.fenceStart c o).held := by
  unfold State.fenceStart
  repeat' first
    | with_reducible assumption
    | with_reducible apply keeps_ite
    | with_reducible apply State.setLeft_keeps
    | with_reducible apply State.drayAccept_keeps

theorem State.drayStart_keeps {s : State} (h : Keeps lk z0 s.held) (g : Nat) :
    Keeps lk z0 (s.drayStart g).held := by
  unfold State.drayStart
  try dsimp only
  repeat' first
    | with_reducible assumption
    | intro _
    | split
    | with_reducible apply keeps_fold
    | with_reducible apply State.atCore_keeps
    | with_reducible apply State.addTxn_keeps
    | with_reducible apply State.onDray_keeps
    | with_reducible apply State.settleDray_keeps
    | with_reducible apply ew_fold
    | with_reducible apply Eff.touchLs_wf
    | with_reducible apply CoreSt.releaseReads_wf
    | with_reducible apply CoreSt.accessDone_wf

theorem State.drayToken_keeps {s : State} (h : Keeps lk z0 s.held) (g : Nat) :
    Keeps lk z0 (s.drayToken g).held := by
  unfold State.drayToken
  repeat' first
    | with_reducible assumption
    | split
    | with_reducible apply State.addTxn_keeps
    | with_reducible apply State.onDray_keeps

theorem State.putBurst_keeps {s : State} (h : Keeps lk z0 s.held) (b : Burst) :
    Keeps lk z0 (s.putBurst b).held := by
  unfold State.putBurst
  repeat' first
    | with_reducible assumption

    | simp only [held_lit]

theorem State.dropBurst_keeps {s : State} (h : Keeps lk z0 s.held) (b : Nat) :
    Keeps lk z0 (s.dropBurst b).held := by
  unfold State.dropBurst
  repeat' first
    | with_reducible assumption

    | simp only [held_lit]

theorem State.endBurst_keeps {s : State} (h : Keeps lk z0 s.held) (b : Burst) :
    Keeps lk z0 (s.endBurst b).held := by
  unfold State.endBurst
  repeat' first
    | with_reducible assumption
    | intro _
    | split
    | with_reducible apply State.atCore_keeps
    | with_reducible apply State.dropBurst_keeps
    | with_reducible apply CoreSt.accessDone_wf

theorem State.joinRow_keeps {s t : State} (h : Keeps lk z0 s.held) {x : Burst} {u : Nat} (ht : s.joinRow x u = some t) :
    Keeps lk z0 t.held := by
  unfold State.joinRow at ht
  dsimp only at ht
  have h1 : ∀ o : Option Nat, Keeps lk z0 (match o with
      | some c => s.refusedEvent (masterId 2 x.core) 3 (lsDpa c x.rowOff)
      | none => s : State).held := by
    intro o
    cases o with
    | none => exact h
    | some c => exact State.refusedEvent_keeps h _ _ _
  split at ht
  · cases ht
  · split at ht
    · cases ht
      exact State.setGuild_keeps (h1 _) _ _
    · cases ht
      exact State.setGuild_keeps (h1 _) _ _

theorem State.beginBurst_keeps {s : State} (h : Keeps lk z0 s.held) (b : Burst) :
    Keeps lk z0 (s.beginBurst b).held := by
  unfold State.beginBurst
  repeat' first
    | with_reducible assumption
    | intro _
    | split
    | with_reducible apply State.atCore_keeps
    | with_reducible apply State.putBurst_keeps
    | with_reducible apply State.dropBurst_keeps
    | with_reducible apply State.endBurst_keeps
    | with_reducible apply CoreSt.accessDone_wf
    | with_reducible apply Eff.setInvalid_wf
    | simp only [held_lit]

theorem State.granted_keeps {s : State} (h : Keeps lk z0 s.held) (b : Burst) (g : Nat) :
    Keeps lk z0 (s.granted b g).held := by
  unfold State.granted
  repeat' first
    | with_reducible assumption
    | intro _
    | with_reducible apply keeps_fold
    | with_reducible apply State.countCore_keeps
    | with_reducible apply State.refusedEvent_keeps
    | with_reducible apply State.putBurst_keeps

theorem State.askGrant_keeps {s : State} (h : Keeps lk z0 s.held) (x : Burst) : Keeps lk z0 (s.askGrant x).held := by
  unfold State.askGrant
  split
  · exact h
  · refine keeps_ite ?_ (keeps_ite (State.granted_keeps h _ _) h)
    split
    · rename_i hj
      exact State.putBurst_keeps (State.joinRow_keeps h hj) _
    · exact h

theorem State.mcastReserve_keeps {s : State} (h : Keeps lk z0 s.held) (n : Nat) :
    Keeps lk z0 (s.mcastReserve n).held := by
  unfold State.mcastReserve
  try dsimp only
  repeat' first
    | with_reducible assumption
    | split
    | with_reducible apply State.beginBurst_keeps
    | with_reducible apply State.askGrant_keeps

theorem State.sendBurst_keeps {s : State} (h : Keeps lk z0 s.held) (b : Burst) :
    Keeps lk z0 (s.sendBurst b).held := by
  unfold State.sendBurst
  repeat' first
    | with_reducible assumption
    | intro _
    | split
    | with_reducible apply keeps_fold
    | with_reducible apply State.atCore_keeps
    | with_reducible apply State.addTxn_keeps
    | with_reducible apply State.dropBurst_keeps
    | with_reducible apply CoreSt.setActive_wf

theorem State.mcastGrant_keeps {s : State} (h : Keeps lk z0 s.held) (n : Nat) :
    Keeps lk z0 (s.mcastGrant n).held := by
  unfold State.mcastGrant
  repeat' first
    | with_reducible assumption
    | split
    | with_reducible apply State.putBurst_keeps
    | with_reducible apply State.sendBurst_keeps
    | simp only [held_lit]

theorem State.addSlot_keeps {s : State} (h : Keeps lk z0 s.held) (g : Nat) :
    Keeps lk z0 (s.addSlot g).held := by
  unfold State.addSlot
  try dsimp only
  repeat' first
    | with_reducible assumption
    | intro _
    | split
    | with_reducible apply State.atCore_keeps
    | with_reducible apply State.raise_keeps
    | with_reducible apply State.setGuild_keeps
    | with_reducible apply State.countUnit_keeps
    | with_reducible apply CoreSt.accessDone_wf

theorem State.emitRow_keeps {s : State} (h : Keeps lk z0 s.held) (g set off : Nat) :
    Keeps lk z0 (s.emitRow g set off).held := by
  unfold State.emitRow
  repeat' first
    | with_reducible assumption
    | intro _
    | split
    | with_reducible apply keeps_fold
    | with_reducible apply State.raise_keeps
    | with_reducible apply State.setGuild_keeps
    | with_reducible apply State.addTxn_keeps
    | with_reducible apply State.translate_keeps
    | simp only [held_lit]

theorem execTagIssue_keeps {s : State} (h : Keeps lk z0 s.held) (engine : Fin 3) (n : CoreId) :
    OutKeeps lk z0 (execTagIssue engine n s) := by
  unfold execTagIssue
  refine outKeeps_next ?_
  repeat' first
    | with_reducible assumption
    | with_reducible apply keeps_ite
    | with_reducible apply State.issueTag_keeps

theorem execPlacementWalk_keeps {s : State} (h : Keeps lk z0 s.held) (half : Fin 2) :
    OutKeeps lk z0 (execPlacementWalk half s) := by
  unfold execPlacementWalk
  refine outKeeps_next ?_
  repeat' first
    | with_reducible assumption
    | with_reducible apply State.serveWalk_keeps

theorem execBlockHopReceive_keeps {s : State} (h : Keeps lk z0 s.held) (x : Nat) (u port : Fin 256) (leaving : Bool) (flips behind : Nat) :
    OutKeeps lk z0 (execBlockHopReceive x u port leaving flips behind s) := by
  unfold execBlockHopReceive
  refine outKeeps_next ?_
  repeat' first
    | with_reducible assumption
    | with_reducible apply State.hopReceive_keeps

theorem execShaleAccess_keeps {s : State} (h : Keeps lk z0 s.held) (x : Nat) :
    OutKeeps lk z0 (execShaleAccess x s) := by
  unfold execShaleAccess
  refine outKeeps_next ?_
  repeat' first
    | with_reducible assumption
    | split
    | with_reducible apply State.perform_keeps

theorem execBedrockRead_keeps {s : State} (h : Keeps lk z0 s.held) (x corrected : Nat) :
    OutKeeps lk z0 (execBedrockRead x corrected s) := by
  unfold execBedrockRead
  refine outKeeps_next ?_
  repeat' first
    | with_reducible assumption
    | split
    | with_reducible apply State.perform_keeps

theorem execBedrockWrite_keeps {s : State} (h : Keeps lk z0 s.held) (x corrected : Nat) :
    OutKeeps lk z0 (execBedrockWrite x corrected s) := by
  unfold execBedrockWrite
  refine outKeeps_next ?_
  repeat' first
    | with_reducible assumption
    | split
    | with_reducible apply State.perform_keeps

theorem execBedrockRefresh_keeps {s : State} (h : Keeps lk z0 s.held) (k : CtlId) (rate : Fin 32) :
    OutKeeps lk z0 (execBedrockRefresh k rate s) := by
  unfold execBedrockRefresh
  refine outKeeps_next ?_
  repeat' first
    | with_reducible assumption
    | with_reducible apply keeps_ite

    | simp only [held_lit]

theorem execFabricReadData_keeps {s : State} (h : Keeps lk z0 s.held) (x : Nat) :
    OutKeeps lk z0 (execFabricReadData x s) := by
  unfold execFabricReadData
  refine outKeeps_next ?_
  repeat' first
    | with_reducible assumption
    | split
    | with_reducible apply State.deliverRead_keeps
    | with_reducible apply State.readCore_keeps

theorem execWriteAck_keeps {s : State} (h : Keeps lk z0 s.held) (x : Nat) :
    OutKeeps lk z0 (execWriteAck x s) := by
  unfold execWriteAck
  refine outKeeps_next ?_
  repeat' first
    | with_reducible assumption
    | split
    | with_reducible apply State.deliverAck_keeps
    | with_reducible apply State.houseAck_keeps

theorem execMcastReserve_keeps {s : State} (h : Keeps lk z0 s.held) (b : Nat) :
    OutKeeps lk z0 (execMcastReserve b s) := by
  unfold execMcastReserve
  refine outKeeps_next ?_
  repeat' first
    | with_reducible assumption
    | with_reducible apply State.mcastReserve_keeps

theorem execMcastGrant_keeps {s : State} (h : Keeps lk z0 s.held) (b : Nat) :
    OutKeeps lk z0 (execMcastGrant b s) := by
  unfold execMcastGrant
  refine outKeeps_next ?_
  repeat' first
    | with_reducible assumption
    | with_reducible apply State.mcastGrant_keeps

theorem execReduceSlotAdd_keeps {s : State} (h : Keeps lk z0 s.held) (g : GuildId) :
    OutKeeps lk z0 (execReduceSlotAdd g s) := by
  unfold execReduceSlotAdd
  refine outKeeps_next ?_
  repeat' first
    | with_reducible assumption
    | with_reducible apply State.addSlot_keeps

theorem execRowBufferComplete_keeps {s : State} (h : Keeps lk z0 s.held) (g : GuildId) (set : Fin 256) (off : Nat) :
    OutKeeps lk z0 (execRowBufferComplete g set off s) := by
  unfold execRowBufferComplete
  refine outKeeps_next ?_
  repeat' first
    | with_reducible assumption
    | with_reducible apply State.emitRow_keeps

theorem execArrival_keeps {s : State} (h : Keeps lk z0 s.held) (x : Nat) :
    OutKeeps lk z0 (execArrival x s) := by
  unfold execArrival
  refine outKeeps_next ?_
  repeat' first
    | with_reducible assumption
    | split
    | with_reducible apply State.arrive_keeps

theorem execWindowIdle_keeps {s : State} (h : Keeps lk z0 s.held) (c : CoreId) (i : Fin 32) (gap : Nat) :
    OutKeeps lk z0 (execWindowIdle c i gap s) := by
  unfold execWindowIdle
  refine outKeeps_next ?_
  repeat' first
    | with_reducible assumption
    | intro _
    | with_reducible apply State.onCore_keeps
    | with_reducible apply Eff.windowIdle_wf

theorem execDraymanDescriptorStart_keeps {s : State} (h : Keeps lk z0 s.held) (g : GuildId) :
    OutKeeps lk z0 (execDraymanDescriptorStart g s) := by
  unfold execDraymanDescriptorStart
  refine outKeeps_next ?_
  repeat' first
    | with_reducible assumption
    | with_reducible apply State.drayStart_keeps

theorem execDraymanToken_keeps {s : State} (h : Keeps lk z0 s.held) (g : GuildId) :
    OutKeeps lk z0 (execDraymanToken g s) := by
  unfold execDraymanToken
  refine outKeeps_next ?_
  repeat' first
    | with_reducible assumption
    | with_reducible apply State.drayToken_keeps

theorem execStreamIn_keeps {s : State} (h : Keeps lk z0 s.held) (c : CoreId) (gap : Nat) : OutKeeps lk z0 (execStreamIn c gap s) := by
  unfold execStreamIn
  refine outKeeps_next ?_
  split
  · rename_i hb
    exact State.streamIn_keeps (State.beginHead_keeps h hb) _ _
  · exact h

theorem execPostWindow_keeps {s : State} (h : Keeps lk z0 s.held) (c : CoreId) (gap : Nat) :
    OutKeeps lk z0 (execPostWindow c gap s) := by
  unfold execPostWindow
  refine outKeeps_next ?_
  repeat' first
    | with_reducible assumption
    | intro _
    | with_reducible apply State.onCore_keeps
    | with_reducible apply Eff.postWindow_wf

theorem execFence_keeps {s : State} (h : Keeps lk z0 s.held) (c : CoreId) (gap : Nat) : OutKeeps lk z0 (execFence c gap s) := by
  unfold execFence
  refine outKeeps_next ?_
  split
  · rename_i hb
    exact State.fenceStart_keeps (State.beginHead_keeps h hb) _ _
  · exact h

theorem execStreamOut_keeps {s : State} (h : Keeps lk z0 s.held) (c : CoreId) (gap : Nat) : OutKeeps lk z0 (execStreamOut c gap s) := by
  unfold execStreamOut
  refine outKeeps_next ?_
  split
  · rename_i hb
    exact State.streamOut_keeps (State.beginHead_keeps h hb) _ _
  · exact h

theorem execPrefetch_keeps {s : State} (h : Keeps lk z0 s.held) (c : CoreId) (gap : Nat) : OutKeeps lk z0 (execPrefetch c gap s) := by
  unfold execPrefetch
  refine outKeeps_next ?_
  split
  · rename_i hb
    exact State.prefetch_keeps (State.beginHead_keeps h hb) _ _
  · exact h

theorem State.farIssue_keeps {s : State} (h : Keeps lk z0 s.held) (c t : Nat) (q : FarReq) :
    Keeps lk z0 (s.farIssue c t q).held := by
  unfold State.farIssue
  repeat' first
    | with_reducible assumption
    | with_reducible apply State.addTxn_keeps
    | with_reducible apply State.translate_keeps
    | simp only [held_lit]

theorem State.tallyRow_keeps {s : State} (h : Keeps lk z0 s.held) (c : CoreId) (t : Fin 4) (gap : Nat) (op : TallyOp) :
    Keeps lk z0 (s.tallyRow c t gap op).held := by
  unfold State.tallyRow
  try dsimp only
  repeat' first
    | with_reducible assumption
    | intro _
    | split
    | with_reducible apply State.landCore_keeps
    | with_reducible apply State.farIssue_keeps
    | with_reducible exact State.core_wf (by assumption) _
    | with_reducible apply Eff.tallyIssue_wf

theorem execAdd_keeps {s : State} (h : Keeps lk z0 s.held) (c : CoreId) (t : Fin 4) (gap : Nat) (rd : Fin 32) (rs1 : Fin 32) (rs2 : Fin 32) :
    OutKeeps lk z0 (execAdd c t gap rd rs1 rs2 s) := by
  unfold execAdd
  refine outKeeps_next ?_
  repeat' first
    | with_reducible assumption
    | with_reducible apply State.tallyRow_keeps

theorem execSub_keeps {s : State} (h : Keeps lk z0 s.held) (c : CoreId) (t : Fin 4) (gap : Nat) (rd : Fin 32) (rs1 : Fin 32) (rs2 : Fin 32) :
    OutKeeps lk z0 (execSub c t gap rd rs1 rs2 s) := by
  unfold execSub
  refine outKeeps_next ?_
  repeat' first
    | with_reducible assumption
    | with_reducible apply State.tallyRow_keeps

theorem execAnd_keeps {s : State} (h : Keeps lk z0 s.held) (c : CoreId) (t : Fin 4) (gap : Nat) (rd : Fin 32) (rs1 : Fin 32) (rs2 : Fin 32) :
    OutKeeps lk z0 (execAnd c t gap rd rs1 rs2 s) := by
  unfold execAnd
  refine outKeeps_next ?_
  repeat' first
    | with_reducible assumption
    | with_reducible apply State.tallyRow_keeps

theorem execOr_keeps {s : State} (h : Keeps lk z0 s.held) (c : CoreId) (t : Fin 4) (gap : Nat) (rd : Fin 32) (rs1 : Fin 32) (rs2 : Fin 32) :
    OutKeeps lk z0 (execOr c t gap rd rs1 rs2 s) := by
  unfold execOr
  refine outKeeps_next ?_
  repeat' first
    | with_reducible assumption
    | with_reducible apply State.tallyRow_keeps

theorem execXor_keeps {s : State} (h : Keeps lk z0 s.held) (c : CoreId) (t : Fin 4) (gap : Nat) (rd : Fin 32) (rs1 : Fin 32) (rs2 : Fin 32) :
    OutKeeps lk z0 (execXor c t gap rd rs1 rs2 s) := by
  unfold execXor
  refine outKeeps_next ?_
  repeat' first
    | with_reducible assumption
    | with_reducible apply State.tallyRow_keeps

theorem execSll_keeps {s : State} (h : Keeps lk z0 s.held) (c : CoreId) (t : Fin 4) (gap : Nat) (rd : Fin 32) (rs1 : Fin 32) (rs2 : Fin 32) :
    OutKeeps lk z0 (execSll c t gap rd rs1 rs2 s) := by
  unfold execSll
  refine outKeeps_next ?_
  repeat' first
    | with_reducible assumption
    | with_reducible apply State.tallyRow_keeps

theorem execSrl_keeps {s : State} (h : Keeps lk z0 s.held) (c : CoreId) (t : Fin 4) (gap : Nat) (rd : Fin 32) (rs1 : Fin 32) (rs2 : Fin 32) :
    OutKeeps lk z0 (execSrl c t gap rd rs1 rs2 s) := by
  unfold execSrl
  refine outKeeps_next ?_
  repeat' first
    | with_reducible assumption
    | with_reducible apply State.tallyRow_keeps

theorem execSra_keeps {s : State} (h : Keeps lk z0 s.held) (c : CoreId) (t : Fin 4) (gap : Nat) (rd : Fin 32) (rs1 : Fin 32) (rs2 : Fin 32) :
    OutKeeps lk z0 (execSra c t gap rd rs1 rs2 s) := by
  unfold execSra
  refine outKeeps_next ?_
  repeat' first
    | with_reducible assumption
    | with_reducible apply State.tallyRow_keeps

theorem execSlt_keeps {s : State} (h : Keeps lk z0 s.held) (c : CoreId) (t : Fin 4) (gap : Nat) (rd : Fin 32) (rs1 : Fin 32) (rs2 : Fin 32) :
    OutKeeps lk z0 (execSlt c t gap rd rs1 rs2 s) := by
  unfold execSlt
  refine outKeeps_next ?_
  repeat' first
    | with_reducible assumption
    | with_reducible apply State.tallyRow_keeps

theorem execSltu_keeps {s : State} (h : Keeps lk z0 s.held) (c : CoreId) (t : Fin 4) (gap : Nat) (rd : Fin 32) (rs1 : Fin 32) (rs2 : Fin 32) :
    OutKeeps lk z0 (execSltu c t gap rd rs1 rs2 s) := by
  unfold execSltu
  refine outKeeps_next ?_
  repeat' first
    | with_reducible assumption
    | with_reducible apply State.tallyRow_keeps

theorem execMul_keeps {s : State} (h : Keeps lk z0 s.held) (c : CoreId) (t : Fin 4) (gap : Nat) (rd : Fin 32) (rs1 : Fin 32) (rs2 : Fin 32) :
    OutKeeps lk z0 (execMul c t gap rd rs1 rs2 s) := by
  unfold execMul
  refine outKeeps_next ?_
  repeat' first
    | with_reducible assumption
    | with_reducible apply State.tallyRow_keeps

theorem execMulhu_keeps {s : State} (h : Keeps lk z0 s.held) (c : CoreId) (t : Fin 4) (gap : Nat) (rd : Fin 32) (rs1 : Fin 32) (rs2 : Fin 32) :
    OutKeeps lk z0 (execMulhu c t gap rd rs1 rs2 s) := by
  unfold execMulhu
  refine outKeeps_next ?_
  repeat' first
    | with_reducible assumption
    | with_reducible apply State.tallyRow_keeps

theorem execMin_keeps {s : State} (h : Keeps lk z0 s.held) (c : CoreId) (t : Fin 4) (gap : Nat) (rd : Fin 32) (rs1 : Fin 32) (rs2 : Fin 32) :
    OutKeeps lk z0 (execMin c t gap rd rs1 rs2 s) := by
  unfold execMin
  refine outKeeps_next ?_
  repeat' first
    | with_reducible assumption
    | with_reducible apply State.tallyRow_keeps

theorem execMax_keeps {s : State} (h : Keeps lk z0 s.held) (c : CoreId) (t : Fin 4) (gap : Nat) (rd : Fin 32) (rs1 : Fin 32) (rs2 : Fin 32) :
    OutKeeps lk z0 (execMax c t gap rd rs1 rs2 s) := by
  unfold execMax
  refine outKeeps_next ?_
  repeat' first
    | with_reducible assumption
    | with_reducible apply State.tallyRow_keeps

theorem execAmoadd_keeps {s : State} (h : Keeps lk z0 s.held) (c : CoreId) (t : Fin 4) (gap : Nat) (rd : Fin 32) (rs1 : Fin 32) (rs2 : Fin 32) :
    OutKeeps lk z0 (execAmoadd c t gap rd rs1 rs2 s) := by
  unfold execAmoadd
  refine outKeeps_next ?_
  repeat' first
    | with_reducible assumption
    | with_reducible apply State.tallyRow_keeps

theorem execJr_keeps {s : State} (h : Keeps lk z0 s.held) (c : CoreId) (t : Fin 4) (gap : Nat) (rd : Fin 32) (rs1 : Fin 32) (rs2 : Fin 32) :
    OutKeeps lk z0 (execJr c t gap rd rs1 rs2 s) := by
  unfold execJr
  refine outKeeps_next ?_
  repeat' first
    | with_reducible assumption
    | with_reducible apply State.tallyRow_keeps

theorem execJalr_keeps {s : State} (h : Keeps lk z0 s.held) (c : CoreId) (t : Fin 4) (gap : Nat) (rd : Fin 32) (rs1 : Fin 32) (rs2 : Fin 32) :
    OutKeeps lk z0 (execJalr c t gap rd rs1 rs2 s) := by
  unfold execJalr
  refine outKeeps_next ?_
  repeat' first
    | with_reducible assumption
    | with_reducible apply State.tallyRow_keeps

theorem execSlwx_keeps {s : State} (h : Keeps lk z0 s.held) (c : CoreId) (t : Fin 4) (gap : Nat) (rd : Fin 32) (rs1 : Fin 32) (rs2 : Fin 32) :
    OutKeeps lk z0 (execSlwx c t gap rd rs1 rs2 s) := by
  unfold execSlwx
  refine outKeeps_next ?_
  repeat' first
    | with_reducible assumption
    | with_reducible apply State.tallyRow_keeps

theorem execEvclr_keeps {s : State} (h : Keeps lk z0 s.held) (c : CoreId) (t : Fin 4) (gap : Nat) (rd : Fin 32) (rs1 : Fin 32) (rs2 : Fin 32) :
    OutKeeps lk z0 (execEvclr c t gap rd rs1 rs2 s) := by
  unfold execEvclr
  refine outKeeps_next ?_
  repeat' first
    | with_reducible assumption
    | with_reducible apply State.tallyRow_keeps

theorem execTstart_keeps {s : State} (h : Keeps lk z0 s.held) (c : CoreId) (t : Fin 4) (gap : Nat) (rd : Fin 32) (rs1 : Fin 32) (rs2 : Fin 32) :
    OutKeeps lk z0 (execTstart c t gap rd rs1 rs2 s) := by
  unfold execTstart
  refine outKeeps_next ?_
  repeat' first
    | with_reducible assumption
    | with_reducible apply State.tallyRow_keeps

theorem execTallyFence_keeps {s : State} (h : Keeps lk z0 s.held) (c : CoreId) (t : Fin 4) (gap : Nat) (rd : Fin 32) (rs1 : Fin 32) (rs2 : Fin 32) :
    OutKeeps lk z0 (execTallyFence c t gap rd rs1 rs2 s) := by
  unfold execTallyFence
  refine outKeeps_next ?_
  repeat' first
    | with_reducible assumption
    | with_reducible apply State.tallyRow_keeps

theorem execFfence_keeps {s : State} (h : Keeps lk z0 s.held) (c : CoreId) (t : Fin 4) (gap : Nat) (rd : Fin 32) (rs1 : Fin 32) (rs2 : Fin 32) :
    OutKeeps lk z0 (execFfence c t gap rd rs1 rs2 s) := by
  unfold execFfence
  refine outKeeps_next ?_
  repeat' first
    | with_reducible assumption
    | with_reducible apply State.tallyRow_keeps

theorem execYield_keeps {s : State} (h : Keeps lk z0 s.held) (c : CoreId) (t : Fin 4) (gap : Nat) (rd : Fin 32) (rs1 : Fin 32) (rs2 : Fin 32) :
    OutKeeps lk z0 (execYield c t gap rd rs1 rs2 s) := by
  unfold execYield
  refine outKeeps_next ?_
  repeat' first
    | with_reducible assumption
    | with_reducible apply State.tallyRow_keeps

theorem execHalt_keeps {s : State} (h : Keeps lk z0 s.held) (c : CoreId) (t : Fin 4) (gap : Nat) (rd : Fin 32) (rs1 : Fin 32) (rs2 : Fin 32) :
    OutKeeps lk z0 (execHalt c t gap rd rs1 rs2 s) := by
  unfold execHalt
  refine outKeeps_next ?_
  repeat' first
    | with_reducible assumption
    | with_reducible apply State.tallyRow_keeps

theorem execEret_keeps {s : State} (h : Keeps lk z0 s.held) (c : CoreId) (t : Fin 4) (gap : Nat) (rd : Fin 32) (rs1 : Fin 32) (rs2 : Fin 32) :
    OutKeeps lk z0 (execEret c t gap rd rs1 rs2 s) := by
  unfold execEret
  refine outKeeps_next ?_
  repeat' first
    | with_reducible assumption
    | with_reducible apply State.tallyRow_keeps

theorem execAddi_keeps {s : State} (h : Keeps lk z0 s.held) (c : CoreId) (t : Fin 4) (gap : Nat) (rd : Fin 32) (rs1 : Fin 32) (v : BitVec 16) :
    OutKeeps lk z0 (execAddi c t gap rd rs1 v s) := by
  unfold execAddi
  refine outKeeps_next ?_
  repeat' first
    | with_reducible assumption
    | with_reducible apply State.tallyRow_keeps

theorem execAndi_keeps {s : State} (h : Keeps lk z0 s.held) (c : CoreId) (t : Fin 4) (gap : Nat) (rd : Fin 32) (rs1 : Fin 32) (v : BitVec 16) :
    OutKeeps lk z0 (execAndi c t gap rd rs1 v s) := by
  unfold execAndi
  refine outKeeps_next ?_
  repeat' first
    | with_reducible assumption
    | with_reducible apply State.tallyRow_keeps

theorem execOri_keeps {s : State} (h : Keeps lk z0 s.held) (c : CoreId) (t : Fin 4) (gap : Nat) (rd : Fin 32) (rs1 : Fin 32) (v : BitVec 16) :
    OutKeeps lk z0 (execOri c t gap rd rs1 v s) := by
  unfold execOri
  refine outKeeps_next ?_
  repeat' first
    | with_reducible assumption
    | with_reducible apply State.tallyRow_keeps

theorem execXori_keeps {s : State} (h : Keeps lk z0 s.held) (c : CoreId) (t : Fin 4) (gap : Nat) (rd : Fin 32) (rs1 : Fin 32) (v : BitVec 16) :
    OutKeeps lk z0 (execXori c t gap rd rs1 v s) := by
  unfold execXori
  refine outKeeps_next ?_
  repeat' first
    | with_reducible assumption
    | with_reducible apply State.tallyRow_keeps

theorem execSlli_keeps {s : State} (h : Keeps lk z0 s.held) (c : CoreId) (t : Fin 4) (gap : Nat) (rd : Fin 32) (rs1 : Fin 32) (v : BitVec 16) :
    OutKeeps lk z0 (execSlli c t gap rd rs1 v s) := by
  unfold execSlli
  refine outKeeps_next ?_
  repeat' first
    | with_reducible assumption
    | with_reducible apply State.tallyRow_keeps

theorem execSrli_keeps {s : State} (h : Keeps lk z0 s.held) (c : CoreId) (t : Fin 4) (gap : Nat) (rd : Fin 32) (rs1 : Fin 32) (v : BitVec 16) :
    OutKeeps lk z0 (execSrli c t gap rd rs1 v s) := by
  unfold execSrli
  refine outKeeps_next ?_
  repeat' first
    | with_reducible assumption
    | with_reducible apply State.tallyRow_keeps

theorem execSrai_keeps {s : State} (h : Keeps lk z0 s.held) (c : CoreId) (t : Fin 4) (gap : Nat) (rd : Fin 32) (rs1 : Fin 32) (v : BitVec 16) :
    OutKeeps lk z0 (execSrai c t gap rd rs1 v s) := by
  unfold execSrai
  refine outKeeps_next ?_
  repeat' first
    | with_reducible assumption
    | with_reducible apply State.tallyRow_keeps

theorem execSlti_keeps {s : State} (h : Keeps lk z0 s.held) (c : CoreId) (t : Fin 4) (gap : Nat) (rd : Fin 32) (rs1 : Fin 32) (v : BitVec 16) :
    OutKeeps lk z0 (execSlti c t gap rd rs1 v s) := by
  unfold execSlti
  refine outKeeps_next ?_
  repeat' first
    | with_reducible assumption
    | with_reducible apply State.tallyRow_keeps

theorem execSltiu_keeps {s : State} (h : Keeps lk z0 s.held) (c : CoreId) (t : Fin 4) (gap : Nat) (rd : Fin 32) (rs1 : Fin 32) (v : BitVec 16) :
    OutKeeps lk z0 (execSltiu c t gap rd rs1 v s) := by
  unfold execSltiu
  refine outKeeps_next ?_
  repeat' first
    | with_reducible assumption
    | with_reducible apply State.tallyRow_keeps

theorem execMovz_keeps {s : State} (h : Keeps lk z0 s.held) (c : CoreId) (t : Fin 4) (gap : Nat) (rd : Fin 32) (q : Fin 4) (v : BitVec 16) :
    OutKeeps lk z0 (execMovz c t gap rd q v s) := by
  unfold execMovz
  refine outKeeps_next ?_
  repeat' first
    | with_reducible assumption
    | with_reducible apply State.tallyRow_keeps

theorem execMovk_keeps {s : State} (h : Keeps lk z0 s.held) (c : CoreId) (t : Fin 4) (gap : Nat) (rd : Fin 32) (q : Fin 4) (v : BitVec 16) :
    OutKeeps lk z0 (execMovk c t gap rd q v s) := by
  unfold execMovk
  refine outKeeps_next ?_
  repeat' first
    | with_reducible assumption
    | with_reducible apply State.tallyRow_keeps

theorem execLd_keeps {s : State} (h : Keeps lk z0 s.held) (c : CoreId) (t : Fin 4) (gap : Nat) (rd : Fin 32) (rs1 : Fin 32) (v : BitVec 16) :
    OutKeeps lk z0 (execLd c t gap rd rs1 v s) := by
  unfold execLd
  refine outKeeps_next ?_
  repeat' first
    | with_reducible assumption
    | with_reducible apply State.tallyRow_keeps

theorem execLw_keeps {s : State} (h : Keeps lk z0 s.held) (c : CoreId) (t : Fin 4) (gap : Nat) (rd : Fin 32) (rs1 : Fin 32) (v : BitVec 16) :
    OutKeeps lk z0 (execLw c t gap rd rs1 v s) := by
  unfold execLw
  refine outKeeps_next ?_
  repeat' first
    | with_reducible assumption
    | with_reducible apply State.tallyRow_keeps

theorem execLws_keeps {s : State} (h : Keeps lk z0 s.held) (c : CoreId) (t : Fin 4) (gap : Nat) (rd : Fin 32) (rs1 : Fin 32) (v : BitVec 16) :
    OutKeeps lk z0 (execLws c t gap rd rs1 v s) := by
  unfold execLws
  refine outKeeps_next ?_
  repeat' first
    | with_reducible assumption
    | with_reducible apply State.tallyRow_keeps

theorem execLh_keeps {s : State} (h : Keeps lk z0 s.held) (c : CoreId) (t : Fin 4) (gap : Nat) (rd : Fin 32) (rs1 : Fin 32) (v : BitVec 16) :
    OutKeeps lk z0 (execLh c t gap rd rs1 v s) := by
  unfold execLh
  refine outKeeps_next ?_
  repeat' first
    | with_reducible assumption
    | with_reducible apply State.tallyRow_keeps

theorem execLb_keeps {s : State} (h : Keeps lk z0 s.held) (c : CoreId) (t : Fin 4) (gap : Nat) (rd : Fin 32) (rs1 : Fin 32) (v : BitVec 16) :
    OutKeeps lk z0 (execLb c t gap rd rs1 v s) := by
  unfold execLb
  refine outKeeps_next ?_
  repeat' first
    | with_reducible assumption
    | with_reducible apply State.tallyRow_keeps

theorem execSd_keeps {s : State} (h : Keeps lk z0 s.held) (c : CoreId) (t : Fin 4) (gap : Nat) (rs2 : Fin 32) (rs1 : Fin 32) (v : BitVec 16) :
    OutKeeps lk z0 (execSd c t gap rs2 rs1 v s) := by
  unfold execSd
  refine outKeeps_next ?_
  repeat' first
    | with_reducible assumption
    | with_reducible apply State.tallyRow_keeps

theorem execSw_keeps {s : State} (h : Keeps lk z0 s.held) (c : CoreId) (t : Fin 4) (gap : Nat) (rs2 : Fin 32) (rs1 : Fin 32) (v : BitVec 16) :
    OutKeeps lk z0 (execSw c t gap rs2 rs1 v s) := by
  unfold execSw
  refine outKeeps_next ?_
  repeat' first
    | with_reducible assumption
    | with_reducible apply State.tallyRow_keeps

theorem execSh_keeps {s : State} (h : Keeps lk z0 s.held) (c : CoreId) (t : Fin 4) (gap : Nat) (rs2 : Fin 32) (rs1 : Fin 32) (v : BitVec 16) :
    OutKeeps lk z0 (execSh c t gap rs2 rs1 v s) := by
  unfold execSh
  refine outKeeps_next ?_
  repeat' first
    | with_reducible assumption
    | with_reducible apply State.tallyRow_keeps

theorem execSb_keeps {s : State} (h : Keeps lk z0 s.held) (c : CoreId) (t : Fin 4) (gap : Nat) (rs2 : Fin 32) (rs1 : Fin 32) (v : BitVec 16) :
    OutKeeps lk z0 (execSb c t gap rs2 rs1 v s) := by
  unfold execSb
  refine outKeeps_next ?_
  repeat' first
    | with_reducible assumption
    | with_reducible apply State.tallyRow_keeps

theorem execBeq_keeps {s : State} (h : Keeps lk z0 s.held) (c : CoreId) (t : Fin 4) (gap : Nat) (rs1 : Fin 32) (rs2 : Fin 32) (off : BitVec 16) :
    OutKeeps lk z0 (execBeq c t gap rs1 rs2 off s) := by
  unfold execBeq
  refine outKeeps_next ?_
  repeat' first
    | with_reducible assumption
    | with_reducible apply State.tallyRow_keeps

theorem execBne_keeps {s : State} (h : Keeps lk z0 s.held) (c : CoreId) (t : Fin 4) (gap : Nat) (rs1 : Fin 32) (rs2 : Fin 32) (off : BitVec 16) :
    OutKeeps lk z0 (execBne c t gap rs1 rs2 off s) := by
  unfold execBne
  refine outKeeps_next ?_
  repeat' first
    | with_reducible assumption
    | with_reducible apply State.tallyRow_keeps

theorem execBlt_keeps {s : State} (h : Keeps lk z0 s.held) (c : CoreId) (t : Fin 4) (gap : Nat) (rs1 : Fin 32) (rs2 : Fin 32) (off : BitVec 16) :
    OutKeeps lk z0 (execBlt c t gap rs1 rs2 off s) := by
  unfold execBlt
  refine outKeeps_next ?_
  repeat' first
    | with_reducible assumption
    | with_reducible apply State.tallyRow_keeps

theorem execBge_keeps {s : State} (h : Keeps lk z0 s.held) (c : CoreId) (t : Fin 4) (gap : Nat) (rs1 : Fin 32) (rs2 : Fin 32) (off : BitVec 16) :
    OutKeeps lk z0 (execBge c t gap rs1 rs2 off s) := by
  unfold execBge
  refine outKeeps_next ?_
  repeat' first
    | with_reducible assumption
    | with_reducible apply State.tallyRow_keeps

theorem execBltu_keeps {s : State} (h : Keeps lk z0 s.held) (c : CoreId) (t : Fin 4) (gap : Nat) (rs1 : Fin 32) (rs2 : Fin 32) (off : BitVec 16) :
    OutKeeps lk z0 (execBltu c t gap rs1 rs2 off s) := by
  unfold execBltu
  refine outKeeps_next ?_
  repeat' first
    | with_reducible assumption
    | with_reducible apply State.tallyRow_keeps

theorem execBgeu_keeps {s : State} (h : Keeps lk z0 s.held) (c : CoreId) (t : Fin 4) (gap : Nat) (rs1 : Fin 32) (rs2 : Fin 32) (off : BitVec 16) :
    OutKeeps lk z0 (execBgeu c t gap rs1 rs2 off s) := by
  unfold execBgeu
  refine outKeeps_next ?_
  repeat' first
    | with_reducible assumption
    | with_reducible apply State.tallyRow_keeps

theorem execJ_keeps {s : State} (h : Keeps lk z0 s.held) (c : CoreId) (t : Fin 4) (gap : Nat) (off : BitVec 26) :
    OutKeeps lk z0 (execJ c t gap off s) := by
  unfold execJ
  refine outKeeps_next ?_
  repeat' first
    | with_reducible assumption
    | with_reducible apply State.tallyRow_keeps

theorem execJal_keeps {s : State} (h : Keeps lk z0 s.held) (c : CoreId) (t : Fin 4) (gap : Nat) (off : BitVec 26) :
    OutKeeps lk z0 (execJal c t gap off s) := by
  unfold execJal
  refine outKeeps_next ?_
  repeat' first
    | with_reducible assumption
    | with_reducible apply State.tallyRow_keeps

theorem execRds_keeps {s : State} (h : Keeps lk z0 s.held) (c : CoreId) (t : Fin 4) (gap : Nat) (rd : Fin 32) (rs1 : Fin 32) (v : BitVec 16) :
    OutKeeps lk z0 (execRds c t gap rd rs1 v s) := by
  unfold execRds
  refine outKeeps_next ?_
  repeat' first
    | with_reducible assumption
    | with_reducible apply State.tallyRow_keeps

theorem execWrs_keeps {s : State} (h : Keeps lk z0 s.held) (c : CoreId) (t : Fin 4) (gap : Nat) (rd : Fin 32) (rs1 : Fin 32) (v : BitVec 16) :
    OutKeeps lk z0 (execWrs c t gap rd rs1 v s) := by
  unfold execWrs
  refine outKeeps_next ?_
  repeat' first
    | with_reducible assumption
    | with_reducible apply State.tallyRow_keeps

theorem execSlw_keeps {s : State} (h : Keeps lk z0 s.held) (c : CoreId) (t : Fin 4) (gap : Nat) (rd : Fin 32) (rs1 : Fin 32) (v : BitVec 16) :
    OutKeeps lk z0 (execSlw c t gap rd rs1 v s) := by
  unfold execSlw
  refine outKeeps_next ?_
  repeat' first
    | with_reducible assumption
    | with_reducible apply State.tallyRow_keeps

theorem execSlr_keeps {s : State} (h : Keeps lk z0 s.held) (c : CoreId) (t : Fin 4) (gap : Nat) (rd : Fin 32) (rs1 : Fin 32) (v : BitVec 16) :
    OutKeeps lk z0 (execSlr c t gap rd rs1 v s) := by
  unfold execSlr
  refine outKeeps_next ?_
  repeat' first
    | with_reducible assumption
    | with_reducible apply State.tallyRow_keeps

theorem execNrd_keeps {s : State} (h : Keeps lk z0 s.held) (c : CoreId) (t : Fin 4) (gap : Nat) (rd : Fin 32) (rs1 : Fin 32) (v : BitVec 16) :
    OutKeeps lk z0 (execNrd c t gap rd rs1 v s) := by
  unfold execNrd
  refine outKeeps_next ?_
  repeat' first
    | with_reducible assumption
    | with_reducible apply State.tallyRow_keeps

theorem execNwait_keeps {s : State} (h : Keeps lk z0 s.held) (c : CoreId) (t : Fin 4) (gap : Nat) (rd : Fin 32) (rs1 : Fin 32) (v : BitVec 16) :
    OutKeeps lk z0 (execNwait c t gap rd rs1 v s) := by
  unfold execNwait
  refine outKeeps_next ?_
  repeat' first
    | with_reducible assumption
    | with_reducible apply State.tallyRow_keeps

theorem execNbump_keeps {s : State} (h : Keeps lk z0 s.held) (c : CoreId) (t : Fin 4) (gap : Nat) (rd : Fin 32) (rs1 : Fin 32) (v : BitVec 16) :
    OutKeeps lk z0 (execNbump c t gap rd rs1 v s) := by
  unfold execNbump
  refine outKeeps_next ?_
  repeat' first
    | with_reducible assumption
    | with_reducible apply State.tallyRow_keeps

theorem execLaunch_keeps {s : State} (h : Keeps lk z0 s.held) (c : CoreId) (t : Fin 4) (gap : Nat) (rd : Fin 32) (rs1 : Fin 32) (v : BitVec 16) :
    OutKeeps lk z0 (execLaunch c t gap rd rs1 v s) := by
  unfold execLaunch
  refine outKeeps_next ?_
  repeat' first
    | with_reducible assumption
    | with_reducible apply State.tallyRow_keeps

theorem execEvwait_keeps {s : State} (h : Keeps lk z0 s.held) (c : CoreId) (t : Fin 4) (gap : Nat) (rd : Fin 32) (rs1 : Fin 32) (v : BitVec 16) :
    OutKeeps lk z0 (execEvwait c t gap rd rs1 v s) := by
  unfold execEvwait
  refine outKeeps_next ?_
  repeat' first
    | with_reducible assumption
    | with_reducible apply State.tallyRow_keeps

theorem execThreadWake_keeps {s : State} (h : Keeps lk z0 s.held) (c : CoreId) (t : Fin 4) (gap : Nat) :
    OutKeeps lk z0 (execThreadWake c t gap s) := by
  unfold execThreadWake
  refine outKeeps_next ?_
  try dsimp only
  repeat' first
    | with_reducible assumption
    | intro _
    | split
    | with_reducible apply State.landCore_keeps
    | with_reducible apply State.farIssue_keeps
    | with_reducible exact State.core_wf (by assumption) _
    | with_reducible apply Eff.tallyWake_wf

theorem execFarReadResponse_keeps {s : State} (h : Keeps lk z0 s.held) (c : CoreId) (t : Fin 4) :
    OutKeeps lk z0 (execFarReadResponse c t s) := by
  unfold execFarReadResponse
  refine outKeeps_next ?_
  repeat' first
    | with_reducible assumption
    | intro _
    | split
    | with_reducible apply State.atCore_keeps
    | with_reducible apply State.dropTxn_keeps
    | with_reducible apply Eff.farAnswer_wf

theorem execFarWriteAck_keeps {s : State} (h : Keeps lk z0 s.held) (c : CoreId) (t : Fin 4) :
    OutKeeps lk z0 (execFarWriteAck c t s) := by
  unfold execFarWriteAck
  refine outKeeps_next ?_
  repeat' first
    | with_reducible assumption
    | intro _
    | split
    | with_reducible apply State.atCore_keeps
    | with_reducible apply State.dropTxn_keeps
    | with_reducible apply Eff.count_wf
    | with_reducible apply Eff.onThread_wf

theorem execIllegal_keeps {s : State} (h : Keeps lk z0 s.held) (c : CoreId) (t : Fin 4) (gap : Nat) :
    OutKeeps lk z0 (execIllegal c t gap s) := by
  unfold execIllegal
  refine outKeeps_next ?_
  repeat' first
    | with_reducible assumption
    | intro _
    | with_reducible apply State.onCore_keeps
    | with_reducible apply Eff.fetchExc_wf

theorem execImemEcc_keeps {s : State} (h : Keeps lk z0 s.held) (c : CoreId) (t : Fin 4) (gap : Nat) :
    OutKeeps lk z0 (execImemEcc c t gap s) := by
  unfold execImemEcc
  refine outKeeps_next ?_
  repeat' first
    | with_reducible assumption
    | intro _
    | with_reducible apply State.onCore_keeps
    | with_reducible apply Eff.fetchExc_wf

theorem execInvocationBoundary_keeps {s : State} (h : Keeps lk z0 s.held) (c : CoreId) :
    OutKeeps lk z0 (execInvocationBoundary c s) := by
  unfold execInvocationBoundary
  refine outKeeps_next ?_
  repeat' first
    | with_reducible assumption
    | with_reducible apply State.onCore_keeps
    | with_reducible apply Eff.boundary_wf

theorem execLoomSplitWord_keeps {s : State} (h : Keeps lk z0 s.held) (c : CoreId) :
    OutKeeps lk z0 (execLoomSplitWord c s) := by
  unfold execLoomSplitWord
  refine outKeeps_next ?_
  repeat' first
    | with_reducible assumption
    | with_reducible apply State.onCore_keeps
    | with_reducible apply Eff.splitWord_wf

theorem execLoomIssueInstance_keeps {s : State} (h : Keeps lk z0 s.held) (c : CoreId) (gap : Nat) :
    OutKeeps lk z0 (execLoomIssueInstance c gap s) := by
  unfold execLoomIssueInstance
  refine outKeeps_next ?_
  repeat' first
    | with_reducible assumption
    | intro _
    | with_reducible apply State.onCore_keeps
    | with_reducible apply Eff.issueInstance_wf

theorem execMarker_keeps {s : State} (h : Keeps lk z0 s.held) (c : CoreId) (e : Fin 5) (gap : Nat) :
    OutKeeps lk z0 (execMarker c e gap s) := by
  unfold execMarker
  refine outKeeps_next ?_
  repeat' first
    | with_reducible assumption
    | intro _
    | with_reducible apply State.onCore_keeps
    | with_reducible apply Eff.marker_wf

theorem execMicroopComplete_keeps {s : State} (h : Keeps lk z0 s.held) (c : CoreId) (e : Fin 5) (gap : Nat) :
    OutKeeps lk z0 (execMicroopComplete c e gap s) := by
  unfold execMicroopComplete
  refine outKeeps_next ?_
  repeat' first
    | with_reducible assumption
    | intro _
    | with_reducible apply State.onCore_keeps
    | with_reducible apply Eff.completeOp_wf

theorem execStalemateFreeze_keeps {s : State} (h : Keeps lk z0 s.held) (c : CoreId) (gap : Nat) :
    OutKeeps lk z0 (execStalemateFreeze c gap s) := by
  unfold execStalemateFreeze
  refine outKeeps_next ?_
  repeat' first
    | with_reducible assumption
    | intro _
    | with_reducible apply State.onCore_keeps
    | with_reducible apply Eff.freeze_wf

theorem execQueueModeSwitch_keeps {s : State} (h : Keeps lk z0 s.held) (c : CoreId) :
    OutKeeps lk z0 (execQueueModeSwitch c s) := by
  unfold execQueueModeSwitch
  refine outKeeps_next ?_
  repeat' first
    | with_reducible assumption
    | with_reducible apply State.onCore_keeps
    | with_reducible apply Eff.switchMode_wf

theorem execMatmul_keeps {s : State} (h : Keeps lk z0 s.held) (c : CoreId) (gap : Nat) :
    OutKeeps lk z0 (execMatmul c gap s) := by
  unfold execMatmul
  refine outKeeps_next ?_
  repeat' first
    | with_reducible assumption
    | intro _
    | with_reducible apply State.onCore_keeps
    | with_reducible apply Eff.atHead_wf
    | with_reducible apply Eff.matmul_wf
    | with_reducible apply Eff.released_wf

theorem execRound_keeps {s : State} (h : Keeps lk z0 s.held) (c : CoreId) (gap : Nat) :
    OutKeeps lk z0 (execRound c gap s) := by
  unfold execRound
  refine outKeeps_next ?_
  repeat' first
    | with_reducible assumption
    | intro _
    | with_reducible apply State.onCore_keeps
    | with_reducible apply Eff.round_wf
    | with_reducible apply Eff.drainRow_wf

theorem execExportImage_keeps {s : State} (h : Keeps lk z0 s.held) (c : CoreId) (gap : Nat) :
    OutKeeps lk z0 (execExportImage c gap s) := by
  unfold execExportImage
  refine outKeeps_next ?_
  repeat' first
    | with_reducible assumption
    | intro _
    | with_reducible apply State.onCore_keeps
    | with_reducible apply Eff.exportImage_wf
    | with_reducible apply Eff.drainRow_wf

theorem execMerge_keeps {s : State} (h : Keeps lk z0 s.held) (c : CoreId) (gap : Nat) :
    OutKeeps lk z0 (execMerge c gap s) := by
  unfold execMerge
  refine outKeeps_next ?_
  repeat' first
    | with_reducible assumption
    | intro _
    | with_reducible apply State.onCore_keeps
    | with_reducible apply Eff.mergeImage_wf
    | with_reducible apply Eff.drainRow_wf

theorem execTilecfg_keeps {s : State} (h : Keeps lk z0 s.held) (c : CoreId) (gap : Nat) :
    OutKeeps lk z0 (execTilecfg c gap s) := by
  unfold execTilecfg
  refine outKeeps_next ?_
  repeat' first
    | with_reducible assumption
    | intro _
    | with_reducible apply State.onCore_keeps
    | with_reducible apply Eff.tilecfg_wf
    | with_reducible apply Eff.vecRow_wf

theorem execMoveIn_keeps {s : State} (h : Keeps lk z0 s.held) (c : CoreId) (gap : Nat) :
    OutKeeps lk z0 (execMoveIn c gap s) := by
  unfold execMoveIn
  refine outKeeps_next ?_
  repeat' first
    | with_reducible assumption
    | intro _
    | with_reducible apply State.onCore_keeps
    | with_reducible apply Eff.moveIn_wf
    | with_reducible apply Eff.vecRow_wf

theorem execMoveOut_keeps {s : State} (h : Keeps lk z0 s.held) (c : CoreId) (gap : Nat) :
    OutKeeps lk z0 (execMoveOut c gap s) := by
  unfold execMoveOut
  refine outKeeps_next ?_
  repeat' first
    | with_reducible assumption
    | intro _
    | with_reducible apply State.onCore_keeps
    | with_reducible apply Eff.moveOut_wf
    | with_reducible apply Eff.vecRow_wf

theorem execConvert_keeps {s : State} (h : Keeps lk z0 s.held) (c : CoreId) (gap : Nat) :
    OutKeeps lk z0 (execConvert c gap s) := by
  unfold execConvert
  refine outKeeps_next ?_
  repeat' first
    | with_reducible assumption
    | intro _
    | with_reducible apply State.onCore_keeps
    | with_reducible apply Eff.convert_wf
    | with_reducible apply Eff.vecRow_wf

theorem execTranspose_keeps {s : State} (h : Keeps lk z0 s.held) (c : CoreId) (gap : Nat) :
    OutKeeps lk z0 (execTranspose c gap s) := by
  unfold execTranspose
  refine outKeeps_next ?_
  repeat' first
    | with_reducible assumption
    | intro _
    | with_reducible apply State.onCore_keeps
    | with_reducible apply Eff.transpose_wf
    | with_reducible apply Eff.vecRow_wf

theorem execVecAdd_keeps {s : State} (h : Keeps lk z0 s.held) (c : CoreId) (gap : Nat) :
    OutKeeps lk z0 (execVecAdd c gap s) := by
  unfold execVecAdd
  refine outKeeps_next ?_
  repeat' first
    | with_reducible assumption
    | intro _
    | with_reducible apply State.onCore_keeps
    | with_reducible apply Eff.arith_wf
    | with_reducible apply Eff.vecRow_wf

theorem execVecSub_keeps {s : State} (h : Keeps lk z0 s.held) (c : CoreId) (gap : Nat) :
    OutKeeps lk z0 (execVecSub c gap s) := by
  unfold execVecSub
  refine outKeeps_next ?_
  repeat' first
    | with_reducible assumption
    | intro _
    | with_reducible apply State.onCore_keeps
    | with_reducible apply Eff.arith_wf
    | with_reducible apply Eff.vecRow_wf

theorem execVecMul_keeps {s : State} (h : Keeps lk z0 s.held) (c : CoreId) (gap : Nat) :
    OutKeeps lk z0 (execVecMul c gap s) := by
  unfold execVecMul
  refine outKeeps_next ?_
  repeat' first
    | with_reducible assumption
    | intro _
    | with_reducible apply State.onCore_keeps
    | with_reducible apply Eff.arith_wf
    | with_reducible apply Eff.vecRow_wf

theorem execVecFma_keeps {s : State} (h : Keeps lk z0 s.held) (c : CoreId) (gap : Nat) :
    OutKeeps lk z0 (execVecFma c gap s) := by
  unfold execVecFma
  refine outKeeps_next ?_
  repeat' first
    | with_reducible assumption
    | intro _
    | with_reducible apply State.onCore_keeps
    | with_reducible apply Eff.arith_wf
    | with_reducible apply Eff.vecRow_wf

theorem execVecMin_keeps {s : State} (h : Keeps lk z0 s.held) (c : CoreId) (gap : Nat) :
    OutKeeps lk z0 (execVecMin c gap s) := by
  unfold execVecMin
  refine outKeeps_next ?_
  repeat' first
    | with_reducible assumption
    | intro _
    | with_reducible apply State.onCore_keeps
    | with_reducible apply Eff.arith_wf
    | with_reducible apply Eff.vecRow_wf

theorem execVecMax_keeps {s : State} (h : Keeps lk z0 s.held) (c : CoreId) (gap : Nat) :
    OutKeeps lk z0 (execVecMax c gap s) := by
  unfold execVecMax
  refine outKeeps_next ?_
  repeat' first
    | with_reducible assumption
    | intro _
    | with_reducible apply State.onCore_keeps
    | with_reducible apply Eff.arith_wf
    | with_reducible apply Eff.vecRow_wf

theorem execVecAbs_keeps {s : State} (h : Keeps lk z0 s.held) (c : CoreId) (gap : Nat) :
    OutKeeps lk z0 (execVecAbs c gap s) := by
  unfold execVecAbs
  refine outKeeps_next ?_
  repeat' first
    | with_reducible assumption
    | intro _
    | with_reducible apply State.onCore_keeps
    | with_reducible apply Eff.arith_wf
    | with_reducible apply Eff.vecRow_wf

theorem execVecNeg_keeps {s : State} (h : Keeps lk z0 s.held) (c : CoreId) (gap : Nat) :
    OutKeeps lk z0 (execVecNeg c gap s) := by
  unfold execVecNeg
  refine outKeeps_next ?_
  repeat' first
    | with_reducible assumption
    | intro _
    | with_reducible apply State.onCore_keeps
    | with_reducible apply Eff.arith_wf
    | with_reducible apply Eff.vecRow_wf

theorem execVecExp_keeps {s : State} (h : Keeps lk z0 s.held) (c : CoreId) (gap : Nat) :
    OutKeeps lk z0 (execVecExp c gap s) := by
  unfold execVecExp
  refine outKeeps_next ?_
  repeat' first
    | with_reducible assumption
    | intro _
    | with_reducible apply State.onCore_keeps
    | with_reducible apply Eff.arith_wf
    | with_reducible apply Eff.vecRow_wf

theorem execVecExp2_keeps {s : State} (h : Keeps lk z0 s.held) (c : CoreId) (gap : Nat) :
    OutKeeps lk z0 (execVecExp2 c gap s) := by
  unfold execVecExp2
  refine outKeeps_next ?_
  repeat' first
    | with_reducible assumption
    | intro _
    | with_reducible apply State.onCore_keeps
    | with_reducible apply Eff.arith_wf
    | with_reducible apply Eff.vecRow_wf

theorem execVecLog2_keeps {s : State} (h : Keeps lk z0 s.held) (c : CoreId) (gap : Nat) :
    OutKeeps lk z0 (execVecLog2 c gap s) := by
  unfold execVecLog2
  refine outKeeps_next ?_
  repeat' first
    | with_reducible assumption
    | intro _
    | with_reducible apply State.onCore_keeps
    | with_reducible apply Eff.arith_wf
    | with_reducible apply Eff.vecRow_wf

theorem execVecRecip_keeps {s : State} (h : Keeps lk z0 s.held) (c : CoreId) (gap : Nat) :
    OutKeeps lk z0 (execVecRecip c gap s) := by
  unfold execVecRecip
  refine outKeeps_next ?_
  repeat' first
    | with_reducible assumption
    | intro _
    | with_reducible apply State.onCore_keeps
    | with_reducible apply Eff.arith_wf
    | with_reducible apply Eff.vecRow_wf

theorem execVecRsqrt_keeps {s : State} (h : Keeps lk z0 s.held) (c : CoreId) (gap : Nat) :
    OutKeeps lk z0 (execVecRsqrt c gap s) := by
  unfold execVecRsqrt
  refine outKeeps_next ?_
  repeat' first
    | with_reducible assumption
    | intro _
    | with_reducible apply State.onCore_keeps
    | with_reducible apply Eff.arith_wf
    | with_reducible apply Eff.vecRow_wf

theorem execVecTanh_keeps {s : State} (h : Keeps lk z0 s.held) (c : CoreId) (gap : Nat) :
    OutKeeps lk z0 (execVecTanh c gap s) := by
  unfold execVecTanh
  refine outKeeps_next ?_
  repeat' first
    | with_reducible assumption
    | intro _
    | with_reducible apply State.onCore_keeps
    | with_reducible apply Eff.arith_wf
    | with_reducible apply Eff.vecRow_wf

theorem execVecSigmoid_keeps {s : State} (h : Keeps lk z0 s.held) (c : CoreId) (gap : Nat) :
    OutKeeps lk z0 (execVecSigmoid c gap s) := by
  unfold execVecSigmoid
  refine outKeeps_next ?_
  repeat' first
    | with_reducible assumption
    | intro _
    | with_reducible apply State.onCore_keeps
    | with_reducible apply Eff.arith_wf
    | with_reducible apply Eff.vecRow_wf

theorem execVecSin_keeps {s : State} (h : Keeps lk z0 s.held) (c : CoreId) (gap : Nat) :
    OutKeeps lk z0 (execVecSin c gap s) := by
  unfold execVecSin
  refine outKeeps_next ?_
  repeat' first
    | with_reducible assumption
    | intro _
    | with_reducible apply State.onCore_keeps
    | with_reducible apply Eff.arith_wf
    | with_reducible apply Eff.vecRow_wf

theorem execVecCos_keeps {s : State} (h : Keeps lk z0 s.held) (c : CoreId) (gap : Nat) :
    OutKeeps lk z0 (execVecCos c gap s) := by
  unfold execVecCos
  refine outKeeps_next ?_
  repeat' first
    | with_reducible assumption
    | intro _
    | with_reducible apply State.onCore_keeps
    | with_reducible apply Eff.arith_wf
    | with_reducible apply Eff.vecRow_wf

theorem execRclear_keeps {s : State} (h : Keeps lk z0 s.held) (c : CoreId) (gap : Nat) :
    OutKeeps lk z0 (execRclear c gap s) := by
  unfold execRclear
  refine outKeeps_next ?_
  repeat' first
    | with_reducible assumption
    | intro _
    | with_reducible apply State.onCore_keeps
    | with_reducible apply Eff.rclear_wf
    | with_reducible apply Eff.vecRow_wf

theorem execRsum_keeps {s : State} (h : Keeps lk z0 s.held) (c : CoreId) (gap : Nat) :
    OutKeeps lk z0 (execRsum c gap s) := by
  unfold execRsum
  refine outKeeps_next ?_
  repeat' first
    | with_reducible assumption
    | intro _
    | with_reducible apply State.onCore_keeps
    | with_reducible apply Eff.rsum_wf
    | with_reducible apply Eff.vecRow_wf

theorem execRsumsq_keeps {s : State} (h : Keeps lk z0 s.held) (c : CoreId) (gap : Nat) :
    OutKeeps lk z0 (execRsumsq c gap s) := by
  unfold execRsumsq
  refine outKeeps_next ?_
  repeat' first
    | with_reducible assumption
    | intro _
    | with_reducible apply State.onCore_keeps
    | with_reducible apply Eff.rsum_wf
    | with_reducible apply Eff.vecRow_wf

theorem execRmax_keeps {s : State} (h : Keeps lk z0 s.held) (c : CoreId) (gap : Nat) :
    OutKeeps lk z0 (execRmax c gap s) := by
  unfold execRmax
  refine outKeeps_next ?_
  repeat' first
    | with_reducible assumption
    | intro _
    | with_reducible apply State.onCore_keeps
    | with_reducible apply Eff.rmax_wf
    | with_reducible apply Eff.vecRow_wf

theorem execRout_keeps {s : State} (h : Keeps lk z0 s.held) (c : CoreId) (gap : Nat) :
    OutKeeps lk z0 (execRout c gap s) := by
  unfold execRout
  refine outKeeps_next ?_
  repeat' first
    | with_reducible assumption
    | intro _
    | with_reducible apply State.onCore_keeps
    | with_reducible apply Eff.rout_wf
    | with_reducible apply Eff.vecRow_wf

theorem execRsetref_keeps {s : State} (h : Keeps lk z0 s.held) (c : CoreId) (gap : Nat) :
    OutKeeps lk z0 (execRsetref c gap s) := by
  unfold execRsetref
  refine outKeeps_next ?_
  repeat' first
    | with_reducible assumption
    | intro _
    | with_reducible apply State.onCore_keeps
    | with_reducible apply Eff.rsetref_wf
    | with_reducible apply Eff.vecRow_wf

theorem execSmxExp_keeps {s : State} (h : Keeps lk z0 s.held) (c : CoreId) (gap : Nat) :
    OutKeeps lk z0 (execSmxExp c gap s) := by
  unfold execSmxExp
  refine outKeeps_next ?_
  repeat' first
    | with_reducible assumption
    | intro _
    | with_reducible apply State.onCore_keeps
    | with_reducible apply Eff.smxExp_wf
    | with_reducible apply Eff.vecRow_wf

theorem execRsave_keeps {s : State} (h : Keeps lk z0 s.held) (c : CoreId) (gap : Nat) :
    OutKeeps lk z0 (execRsave c gap s) := by
  unfold execRsave
  refine outKeeps_next ?_
  repeat' first
    | with_reducible assumption
    | intro _
    | with_reducible apply State.onCore_keeps
    | with_reducible apply Eff.rsave_wf
    | with_reducible apply Eff.vecRow_wf

theorem execRload_keeps {s : State} (h : Keeps lk z0 s.held) (c : CoreId) (gap : Nat) :
    OutKeeps lk z0 (execRload c gap s) := by
  unfold execRload
  refine outKeeps_next ?_
  repeat' first
    | with_reducible assumption
    | intro _
    | with_reducible apply State.onCore_keeps
    | with_reducible apply Eff.rload_wf
    | with_reducible apply Eff.vecRow_wf

theorem execRmerge_keeps {s : State} (h : Keeps lk z0 s.held) (c : CoreId) (gap : Nat) :
    OutKeeps lk z0 (execRmerge c gap s) := by
  unfold execRmerge
  refine outKeeps_next ?_
  repeat' first
    | with_reducible assumption
    | intro _
    | with_reducible apply State.onCore_keeps
    | with_reducible apply Eff.rload_wf
    | with_reducible apply Eff.vecRow_wf

theorem execStatsFlush_keeps {s : State} (h : Keeps lk z0 s.held) (c : CoreId) (gap : Nat) :
    OutKeeps lk z0 (execStatsFlush c gap s) := by
  unfold execStatsFlush
  refine outKeeps_next ?_
  repeat' first
    | with_reducible assumption
    | intro _
    | with_reducible apply State.onCore_keeps
    | with_reducible apply Eff.statsFlush_wf
    | with_reducible apply Eff.vecRow_wf

theorem execRdot_keeps {s : State} (h : Keeps lk z0 s.held) (c : CoreId) (gap : Nat) :
    OutKeeps lk z0 (execRdot c gap s) := by
  unfold execRdot
  refine outKeeps_next ?_
  repeat' first
    | with_reducible assumption
    | intro _
    | with_reducible apply State.onCore_keeps
    | with_reducible apply Eff.rdot_wf
    | with_reducible apply Eff.vecRow_wf

theorem execSmxGrad_keeps {s : State} (h : Keeps lk z0 s.held) (c : CoreId) (gap : Nat) :
    OutKeeps lk z0 (execSmxGrad c gap s) := by
  unfold execSmxGrad
  refine outKeeps_next ?_
  repeat' first
    | with_reducible assumption
    | intro _
    | with_reducible apply State.onCore_keeps
    | with_reducible apply Eff.gradRows_wf
    | with_reducible apply Eff.vecRow_wf

theorem execNormGrad_keeps {s : State} (h : Keeps lk z0 s.held) (c : CoreId) (gap : Nat) :
    OutKeeps lk z0 (execNormGrad c gap s) := by
  unfold execNormGrad
  refine outKeeps_next ?_
  repeat' first
    | with_reducible assumption
    | intro _
    | with_reducible apply State.onCore_keeps
    | with_reducible apply Eff.gradRows_wf
    | with_reducible apply Eff.vecRow_wf

theorem execAssay_keeps {s : State} (h : Keeps lk z0 s.held) (c : CoreId) (gap : Nat) :
    OutKeeps lk z0 (execAssay c gap s) := by
  unfold execAssay
  refine outKeeps_next ?_
  repeat' first
    | with_reducible assumption
    | intro _
    | with_reducible apply State.onCore_keeps
    | with_reducible apply Eff.assay_wf
    | with_reducible apply Eff.vecRow_wf

theorem execAssaySet_keeps {s : State} (h : Keeps lk z0 s.held) (c : CoreId) (gap : Nat) :
    OutKeeps lk z0 (execAssaySet c gap s) := by
  unfold execAssaySet
  refine outKeeps_next ?_
  repeat' first
    | with_reducible assumption
    | intro _
    | with_reducible apply State.onCore_keeps
    | with_reducible apply Eff.assaySet_wf
    | with_reducible apply Eff.vecRow_wf

theorem execUpdSgd_keeps {s : State} (h : Keeps lk z0 s.held) (c : CoreId) (gap : Nat) :
    OutKeeps lk z0 (execUpdSgd c gap s) := by
  unfold execUpdSgd
  refine outKeeps_next ?_
  repeat' first
    | with_reducible assumption
    | intro _
    | with_reducible apply State.onCore_keeps
    | with_reducible apply Eff.update_wf
    | with_reducible apply Eff.vecRow_wf

theorem execUpdMomentum_keeps {s : State} (h : Keeps lk z0 s.held) (c : CoreId) (gap : Nat) :
    OutKeeps lk z0 (execUpdMomentum c gap s) := by
  unfold execUpdMomentum
  refine outKeeps_next ?_
  repeat' first
    | with_reducible assumption
    | intro _
    | with_reducible apply State.onCore_keeps
    | with_reducible apply Eff.update_wf
    | with_reducible apply Eff.vecRow_wf

theorem execUpdAdam_keeps {s : State} (h : Keeps lk z0 s.held) (c : CoreId) (gap : Nat) :
    OutKeeps lk z0 (execUpdAdam c gap s) := by
  unfold execUpdAdam
  refine outKeeps_next ?_
  repeat' first
    | with_reducible assumption
    | intro _
    | with_reducible apply State.onCore_keeps
    | with_reducible apply Eff.update_wf
    | with_reducible apply Eff.vecRow_wf

theorem execRngSeed_keeps {s : State} (h : Keeps lk z0 s.held) (c : CoreId) (gap : Nat) :
    OutKeeps lk z0 (execRngSeed c gap s) := by
  unfold execRngSeed
  refine outKeeps_next ?_
  repeat' first
    | with_reducible assumption
    | intro _
    | with_reducible apply State.onCore_keeps
    | with_reducible apply Eff.rngSeed_wf
    | with_reducible apply Eff.vecRow_wf

theorem execRngSave_keeps {s : State} (h : Keeps lk z0 s.held) (c : CoreId) (gap : Nat) :
    OutKeeps lk z0 (execRngSave c gap s) := by
  unfold execRngSave
  refine outKeeps_next ?_
  repeat' first
    | with_reducible assumption
    | intro _
    | with_reducible apply State.onCore_keeps
    | with_reducible apply Eff.rngSave_wf
    | with_reducible apply Eff.vecRow_wf

theorem execRngLoad_keeps {s : State} (h : Keeps lk z0 s.held) (c : CoreId) (gap : Nat) :
    OutKeeps lk z0 (execRngLoad c gap s) := by
  unfold execRngLoad
  refine outKeeps_next ?_
  repeat' first
    | with_reducible assumption
    | intro _
    | with_reducible apply State.onCore_keeps
    | with_reducible apply Eff.rngLoad_wf
    | with_reducible apply Eff.vecRow_wf

theorem execSpikeCheck_keeps {s : State} (h : Keeps lk z0 s.held) (c : CoreId) (gap : Nat) :
    OutKeeps lk z0 (execSpikeCheck c gap s) := by
  unfold execSpikeCheck
  refine outKeeps_next ?_
  repeat' first
    | with_reducible assumption
    | intro _
    | with_reducible apply State.onCore_keeps
    | with_reducible apply Eff.spikeCheck_wf
    | with_reducible apply Eff.vecRow_wf

end Sys2Proof.Machine
end

