-- ==== Sys2Proof/Laws/KeepsModule.lean ====
section
/-! SUPPORT. What the link, collective, security, Counting House and Scrivener commands leave alone. -/

namespace Sys2Proof.Machine

variable {lk : Bool} {z0 : Held}

theorem State.peerWrite_keeps {s : State} (h : Keeps lk z0 s.held) (l peer cls dva : Nat) (runs : Runs) :
    Keeps lk z0 (s.peerWrite l peer cls dva runs).2.held := by
  unfold State.peerWrite
  try dsimp only
  repeat' first
    | with_reducible assumption
    | split
    | with_reducible apply State.refusedEvent_keeps
    | with_reducible apply State.entryOf_keeps
    | with_reducible apply State.addTxn_keeps
    | with_reducible apply State.send_keeps
    | with_reducible apply State.translate_keeps
    | simp only [held_lit]

theorem State.peerRead_keeps {s : State} (h : Keeps lk z0 s.held) (l peer : Nat) (h : SlotHeader) (cls dva : Nat) :
    Keeps lk z0 (s.peerRead l peer h cls dva).held := by
  unfold State.peerRead
  repeat' first
    | with_reducible assumption
    | with_reducible apply State.addTxn_keeps
    | with_reducible apply State.translate_keeps
    | simp only [held_lit]

theorem State.peerAnswer_keeps {s : State} (h : Keeps lk z0 s.held) (peer : Nat) (h : SlotHeader) (data : BitVec 512) :
    Keeps lk z0 (s.peerAnswer peer h data).held := by
  unfold State.peerAnswer
  repeat' first
    | with_reducible assumption
    | intro _
    | split
    | with_reducible apply keeps_fold
    | with_reducible apply State.setLink_keeps
    | with_reducible apply State.dropTxn_keeps
    | with_reducible apply State.fromPort_keeps

theorem State.takeSlot_keeps {s : State} (h : Keeps lk z0 s.held) (l vc src : Nat) (x : LinkSlot) :
    Keeps lk z0 (s.takeSlot l vc src x).held := by
  unfold State.takeSlot
  try dsimp only
  repeat' first
    | with_reducible assumption
    | split
    | with_reducible apply State.raise_keeps
    | with_reducible apply State.setLink_keeps
    | with_reducible apply State.respond_keeps
    | with_reducible apply State.peerWrite_keeps
    | with_reducible apply State.peerRead_keeps
    | with_reducible apply State.peerAnswer_keeps

theorem State.endBurstRx_keeps {s : State} (h : Keeps lk z0 s.held) (l vc : Nat) (b : RxBurst) :
    Keeps lk z0 (s.endBurstRx l vc b).held := by
  unfold State.endBurstRx
  repeat' first
    | with_reducible assumption
    | intro _
    | with_reducible apply keeps_fold2
    | with_reducible apply State.respond_keeps
    | with_reducible apply State.peerWrite_keeps

theorem State.takeBurst_keeps {s : State} (h : Keeps lk z0 s.held) (l vc : Nat) (body : BitVec 1952) :
    Keeps lk z0 (s.takeBurst l vc body).held := by
  unfold State.takeBurst
  try dsimp only
  repeat' first
    | with_reducible assumption
    | split
    | with_reducible apply State.setLink_keeps
    | with_reducible apply State.endBurstRx_keeps

theorem State.forwardTo_keeps {s : State} (h : Keeps lk z0 s.held) (l : Nat) (h : FlitHeader) (body : BitVec 1952) :
    Keeps lk z0 (s.forwardTo l h body).2.held := by
  unfold State.forwardTo
  repeat' first
    | with_reducible assumption
    | split
    | with_reducible apply State.raise_keeps

theorem State.forwardFlit_keeps {s : State} (h : Keeps lk z0 s.held) (l : Nat) (h : FlitHeader) (body : BitVec 1952) :
    Keeps lk z0 (s.forwardFlit l h body).held := by
  unfold State.forwardFlit
  try dsimp only
  repeat' first
    | with_reducible assumption
    | split
    | with_reducible apply State.setLink_keeps
    | with_reducible apply State.answerAll_keeps
    | with_reducible apply State.forwards_keeps
    | with_reducible apply State.forwardTo_keeps

theorem State.acceptFlit_keeps {s : State} (h : Keeps lk z0 s.held) (l : Nat) (h : FlitHeader) (body : BitVec 1952) :
    Keeps lk z0 (s.acceptFlit l h body).held := by
  unfold State.acceptFlit
  repeat' first
    | with_reducible assumption
    | intro _
    | with_reducible apply keeps_ite
    | with_reducible apply keeps_fold
    | with_reducible apply State.setLink_keeps
    | with_reducible apply State.takeSlot_keeps
    | with_reducible apply State.takeBurst_keeps
    | with_reducible apply State.forwardFlit_keeps

theorem execLinkFlitReceive_keeps {s : State} (h : Keeps lk z0 s.held) (l : LinkId) (gap : Nat) (flit : BitVec 2048) (corrected lost : Nat) (touched : Bool) :
    OutKeeps lk z0 (execLinkFlitReceive l gap flit corrected lost touched s) := by
  unfold execLinkFlitReceive
  refine outKeeps_next ?_
  repeat' first
    | with_reducible assumption
    | with_reducible apply keeps_ite
    | with_reducible apply State.setLink_keeps
    | with_reducible apply State.countUnit_keeps
    | with_reducible apply State.linkTick_keeps
    | with_reducible apply State.forwards_keeps
    | with_reducible apply State.acceptFlit_keeps

theorem State.emitFlit_keeps {s : State} (h : Keeps lk z0 s.held) (l : Nat) (k : LinkSt) (seq ft vc hop dst : Nat) (body : BitVec 1952) :
    Keeps lk z0 (s.emitFlit l k seq ft vc hop dst body).held := by
  unfold State.emitFlit
  repeat' first
    | with_reducible assumption
    | with_reducible apply State.setLink_keeps
    | with_reducible apply State.countUnit_keeps
    | simp only [held_lit]

theorem State.sendNew_keeps {s : State} (h : Keeps lk z0 s.held) (l : Nat) (k : LinkSt) (ft vc hop dst : Nat) (body : BitVec 1952) (ingress : Option Nat) (head : Option LinkSlot) :
    Keeps lk z0 (s.sendNew l k ft vc hop dst body ingress head).held := by
  unfold State.sendNew
  repeat' first
    | with_reducible assumption
    | with_reducible apply State.emitFlit_keeps

theorem State.sendIdle_keeps {s : State} (h : Keeps lk z0 s.held) (l : Nat) (k : LinkSt) :
    Keeps lk z0 (s.sendIdle l k).held := by
  unfold State.sendIdle
  repeat' first
    | with_reducible assumption
    | with_reducible apply State.emitFlit_keeps

theorem State.sendAgain_keeps {s : State} (h : Keeps lk z0 s.held) (l : Nat) (k : LinkSt) (i : Nat) :
    Keeps lk z0 (s.sendAgain l k i).held := by
  unfold State.sendAgain
  try dsimp only
  repeat' first
    | with_reducible assumption
    | split
    | with_reducible apply State.enterRetrain_keeps
    | with_reducible apply State.emitFlit_keeps
    | with_reducible apply State.sendIdle_keeps

theorem State.sendEntry_keeps {s : State} (h : Keeps lk z0 s.held) (l : Nat) (k : LinkSt) (e : Egress) :
    Keeps lk z0 (s.sendEntry l k e).held := by
  unfold State.sendEntry
  generalize s.buildFlit k e = x
  dsimp only
  split <;> exact State.sendNew_keeps h _ _ _ _ _ _ _ _ _

theorem execLinkFlitTransmit_keeps {s : State} (h : Keeps lk z0 s.held) (l : LinkId) (gap : Nat) :
    OutKeeps lk z0 (execLinkFlitTransmit l gap s) := by
  unfold execLinkFlitTransmit
  refine outKeeps_next ?_
  try dsimp only
  repeat' first
    | with_reducible assumption
    | split
    | with_reducible apply State.linkTick_keeps
    | with_reducible apply State.sendNew_keeps
    | with_reducible apply State.sendIdle_keeps
    | with_reducible apply State.sendAgain_keeps
    | with_reducible apply State.sendEntry_keeps

theorem execLinkEnable_keeps {s : State} (h : Keeps lk z0 s.held) (l : LinkId) :
    OutKeeps lk z0 (execLinkEnable l s) := by
  unfold execLinkEnable
  refine outKeeps_next ?_
  repeat' first
    | with_reducible assumption
    | with_reducible apply keeps_ite
    | with_reducible apply State.enableLink_keeps

theorem execLinkDisable_keeps {s : State} (h : Keeps lk z0 s.held) (l : LinkId) :
    OutKeeps lk z0 (execLinkDisable l s) := by
  unfold execLinkDisable
  refine outKeeps_next ?_
  repeat' first
    | with_reducible assumption
    | with_reducible apply keeps_ite
    | with_reducible apply State.disableLink_keeps

theorem execLinkTrainingDone_keeps {s : State} (h : Keeps lk z0 s.held) (l : LinkId) (gap : Nat) :
    OutKeeps lk z0 (execLinkTrainingDone l gap s) := by
  unfold execLinkTrainingDone
  refine outKeeps_next ?_
  try dsimp only
  repeat' first
    | with_reducible assumption
    | split
    | with_reducible apply State.raise_keeps
    | with_reducible apply State.setLink_keeps
    | with_reducible apply State.loseLink_keeps
    | with_reducible apply State.linkTick_keeps
    | with_reducible apply State.forwards_keeps

theorem execLinkRetrainDone_keeps {s : State} (h : Keeps lk z0 s.held) (l : LinkId) (gap : Nat) :
    OutKeeps lk z0 (execLinkRetrainDone l gap s) := by
  unfold execLinkRetrainDone
  refine outKeeps_next ?_
  repeat' first
    | with_reducible assumption
    | with_reducible apply keeps_ite
    | with_reducible apply State.setLink_keeps
    | with_reducible apply State.linkTick_keeps

theorem execLinkStandbyExit_keeps {s : State} (h : Keeps lk z0 s.held) (l : LinkId) (gap : Nat) (far : Bool) :
    OutKeeps lk z0 (execLinkStandbyExit l gap far s) := by
  unfold execLinkStandbyExit
  refine outKeeps_next ?_
  repeat' first
    | with_reducible assumption
    | with_reducible apply keeps_ite
    | with_reducible apply State.setLink_keeps
    | with_reducible apply State.linkTick_keeps

theorem execLinkResponseTimeout_keeps {s : State} (h : Keeps lk z0 s.held) (l : LinkId) (gap : Nat) :
    OutKeeps lk z0 (execLinkResponseTimeout l gap s) := by
  unfold execLinkResponseTimeout
  refine outKeeps_next ?_
  try dsimp only
  repeat' first
    | with_reducible assumption
    | split
    | with_reducible apply State.raise_keeps
    | with_reducible apply State.setLink_keeps
    | with_reducible apply State.lost_keeps
    | with_reducible apply State.linkTick_keeps

theorem execFibreUnmated_keeps {s : State} (h : Keeps lk z0 s.held) (l : LinkId) (gap : Nat) :
    OutKeeps lk z0 (execFibreUnmated l gap s) := by
  unfold execFibreUnmated
  refine outKeeps_next ?_
  repeat' first
    | with_reducible assumption
    | with_reducible apply keeps_ite
    | with_reducible apply State.enterRetrain_keeps
    | with_reducible apply State.linkTick_keeps

theorem State.readLine_keeps {s : State} (h : Keeps lk z0 s.held) (c line : Nat) :
    Keeps lk z0 (s.readLine c line).held := by
  unfold State.readLine
  repeat' first
    | with_reducible assumption
    | intro _
    | with_reducible apply State.atCore_keeps
    | with_reducible apply Eff.touchLs_wf

theorem State.libRead_keeps {s : State} (h : Keeps lk z0 s.held) (ans : List PeerAnswer) (c a n : Nat) :
    Keeps lk z0 (s.libRead ans c a n).2.held := by
  unfold State.libRead
  repeat' first
    | with_reducible assumption
    | with_reducible apply State.readRange_keeps
    | with_reducible apply State.needRange_keeps

theorem State.libWrite_keeps {s : State} (h : Keeps lk z0 s.held) (c cls a : Nat) (bs : List (Byte × Bool)) :
    Keeps lk z0 (s.libWrite c cls a bs).held := by
  unfold State.libWrite
  repeat' first
    | with_reducible assumption
    | with_reducible apply State.countCore_keeps
    | with_reducible apply State.writeRange_keeps
    | with_reducible apply State.needRange_keeps

theorem State.libWrote_keeps {s : State} (h : Keeps lk z0 s.held) (c : Nat) (outs : List (OutElem × Bool)) :
    Keeps lk z0 (s.libWrote c outs).held := by
  unfold State.libWrote
  repeat' first
    | with_reducible assumption
    | intro _
    | with_reducible apply keeps_fold
    | with_reducible apply State.takeFree_keeps
    | with_reducible apply State.atCore_keeps
    | with_reducible apply Eff.raise_wf
    | with_reducible apply Eff.addNf_wf

theorem State.sendLine_keeps {s : State} (h : Keeps lk z0 s.held) (c : Nat) (dst : Target) (bs : List (Byte × Bool)) (after : List Nat) :
    Keeps lk z0 (s.sendLine c dst bs after).held := by
  unfold State.sendLine
  repeat' first
    | with_reducible assumption
    | with_reducible apply keeps_ite
    | with_reducible apply State.addTxn_keeps
    | with_reducible apply State.translate_keeps

theorem State.sendMessage_keeps {s : State} (h : Keeps lk z0 s.held) (c : Nat) (dst : Target) (m : Message) (after : List Nat) :
    Keeps lk z0 (s.sendMessage c dst m after).held := by
  unfold State.sendMessage
  repeat' first
    | with_reducible assumption
    | with_reducible apply State.sendLine_keeps

theorem State.sendTo_keeps {s : State} (h : Keeps lk z0 s.held) (p : Plan) (l : Layout) (c peer off : Nat) (m : Message) (after : List Nat) :
    Keeps lk z0 (s.sendTo p l c peer off m after).held := by
  unfold State.sendTo
  repeat' first
    | with_reducible assumption
    | split
    | with_reducible apply State.sendMessage_keeps

theorem State.beginPhase_keeps {s : State} (h : Keeps lk z0 s.held) (p : Plan) :
    Keeps lk z0 (s.beginPhase p).held := by
  unfold State.beginPhase
  repeat' first
    | with_reducible assumption
    | with_reducible apply keeps_ite

    | simp only [held_lit]

theorem State.readError_keeps {s : State} (h : Keeps lk z0 s.held) (ans : List PeerAnswer) (p : Plan) (c t first n : Nat) :
    Keeps lk z0 (s.readError ans p c t first n).2.held := by
  unfold State.readError
  repeat' first
    | with_reducible assumption
    | split
    | with_reducible apply State.libRead_keeps

theorem State.sendPiece_keeps {s : State} (h : Keeps lk z0 s.held) (ans : List PeerAnswer) (p : Plan) (l : Layout)
    (c k q area first n attempt : Nat) : Keeps lk z0 (s.sendPiece ans p l c k q area first n attempt).held := by
  unfold State.sendPiece
  simp only [held_lit]
  refine State.sendTo_keeps (State.libWrite_keeps (State.libWrite_keeps (State.libWrote_keeps ?_ _ _) _ _ _ _) _ _ _ _) _ _ _ _ _ _ _
  exact State.readError_keeps (State.libRead_keeps h _ _ _ _) _ _ _ _ _ _

theorem State.contribute_keeps {s : State} (h : Keeps lk z0 s.held) (ans : List PeerAnswer) (p : Plan) (l : Layout) (c k q attempt : Nat) :
    Keeps lk z0 (s.contribute ans p l c k q attempt).held := by
  unfold State.contribute
  try dsimp only
  repeat' first
    | with_reducible assumption
    | split
    | with_reducible apply State.beginPhase_keeps
    | with_reducible apply State.sendPiece_keeps

theorem State.stageUpdate_keeps {s : State} (h : Keeps lk z0 s.held) (ans : List PeerAnswer) (p : Plan) (l : Layout) (c : Nat) (ys : List Copy) :
    Keeps lk z0 (s.stageUpdate ans p l c ys).held := by
  unfold State.stageUpdate
  repeat' first
    | with_reducible assumption
    | intro _
    | with_reducible apply keeps_fold
    | with_reducible apply keeps_fold2
    | with_reducible apply State.atCore_keeps
    | with_reducible apply State.libRead_keeps
    | with_reducible apply State.libWrite_keeps
    | with_reducible apply State.libWrote_keeps
    | simp only [mems_lit]
    | simp only [held_lit]

theorem State.settleSlot_keeps {s : State} (h : Keeps lk z0 s.held) (ans : List PeerAnswer) (p : Plan) (l : Layout) (c k : Nat) :
    Keeps lk z0 (s.settleSlot ans p l c k).held := by
  unfold State.settleSlot
  repeat' first
    | with_reducible assumption
    | split
    | with_reducible apply State.stageUpdate_keeps
    | simp only [held_lit]

theorem State.settleCore_keeps {s : State} (h : Keeps lk z0 s.held) (ans : List PeerAnswer) (p : Plan) (l : Layout) (c : Nat) :
    Keeps lk z0 (s.settleCore ans p l c).held := by
  unfold State.settleCore
  repeat' first
    | with_reducible assumption
    | intro _
    | with_reducible apply keeps_ite
    | with_reducible apply keeps_fold
    | with_reducible apply State.settleSlot_keeps

theorem State.divergence_keeps {s : State} (h : Keeps lk z0 s.held) (p : Plan) (c k : Nat) (a b : Copy) :
    Keeps lk z0 (s.divergence p c k a b).held := by
  unfold State.divergence
  repeat' first
    | with_reducible assumption
    | with_reducible apply State.raise_keeps

theorem State.askAgain_keeps {s : State} (h : Keeps lk z0 s.held) (p : Plan) (l : Layout) (c k : Nat) :
    Keeps lk z0 (s.askAgain p l c k).held := by
  unfold State.askAgain
  repeat' first
    | with_reducible assumption
    | intro _
    | with_reducible apply keeps_fold
    | with_reducible apply State.sendTo_keeps

theorem State.compareCopies_keeps {s : State} (h : Keeps lk z0 s.held) (p : Plan) (l : Layout) (c k : Nat) :
    Keeps lk z0 (s.compareCopies p l c k).held := by
  unfold State.compareCopies
  repeat' first
    | with_reducible assumption
    | split
    | with_reducible apply State.divergence_keeps
    | with_reducible apply State.askAgain_keeps
    | simp only [held_lit]

theorem State.takeToken_keeps {s : State} (h : Keeps lk z0 s.held) (ans : List PeerAnswer) (p : Plan) (c : Nat) (m : Message) (mark : Bool) :
    Keeps lk z0 (s.takeToken ans p c m mark).held := by
  unfold State.takeToken
  repeat' first
    | with_reducible assumption
    | with_reducible apply State.libRead_keeps
    | simp only [held_lit]

theorem State.boundary_keeps {s : State} (h : Keeps lk z0 s.held) (p : Plan) :
    Keeps lk z0 (s.boundary p).held := by
  unfold State.boundary
  repeat' first
    | with_reducible assumption
    | with_reducible apply keeps_ite

    | simp only [held_lit]

theorem State.sendParams_keeps {s : State} (h : Keeps lk z0 s.held) (p : Plan) (l : Layout) (c first n : Nat) (ws : List (Byte × Bool)) :
    Keeps lk z0 (s.sendParams p l c first n ws).held := by
  unfold State.sendParams
  repeat' first
    | with_reducible assumption
    | intro _
    | split
    | with_reducible apply keeps_fold
    | with_reducible apply State.libWrite_keeps
    | with_reducible apply State.libWrote_keeps
    | with_reducible apply State.sendTo_keeps

theorem State.commitCore_keeps {s : State} (h : Keeps lk z0 s.held) (ans : List PeerAnswer) (p : Plan) (l : Layout) (c : Nat) :
    Keeps lk z0 (s.commitCore ans p l c).held := by
  unfold State.commitCore
  repeat' first
    | with_reducible assumption
    | intro _
    | with_reducible apply keeps_fold2
    | with_reducible apply State.libRead_keeps
    | with_reducible apply State.libWrite_keeps
    | with_reducible apply State.sendParams_keeps

theorem State.commit_keeps {s : State} (h : Keeps lk z0 s.held) (ans : List PeerAnswer) (p : Plan) (l : Layout) :
    Keeps lk z0 (s.commit ans p l).held := by
  unfold State.commit
  repeat' first
    | with_reducible assumption
    | intro _
    | with_reducible apply keeps_fold
    | with_reducible apply State.boundary_keeps
    | with_reducible apply State.commitCore_keeps
    | simp only [held_lit]

theorem State.heldWords_keeps {s : State} (h : Keeps lk z0 s.held) (p : Plan) :
    Keeps lk z0 (s.heldWords p).2.held := by
  unfold State.heldWords
  repeat' first
    | with_reducible assumption
    | with_reducible apply State.takeFree_keeps

theorem held_raise {x : List Word × State} (h : Keeps lk z0 x.2.held) :
    Keeps lk z0 (match x with | (ws, s) => ({ s with coll := { s.coll with held := true } } : State).raise 0x53 ws : State).held := by
  obtain ⟨ws, t⟩ := x
  refine State.raise_keeps ?_ _ _
  exact h

theorem State.holdStep_keeps {s : State} (h : Keeps lk z0 s.held) (p : Plan) (c : Nat) : Keeps lk z0 (s.holdStep p c).held :=
  held_raise (State.heldWords_keeps (State.libWrite_keeps h c 0 _ _) p)

theorem State.restoreGenerators_keeps {s : State} (h : Keeps lk z0 s.held) (cores : List Nat) :
    Keeps lk z0 (s.restoreGenerators cores).held := by
  unfold State.restoreGenerators
  repeat' first
    | with_reducible assumption
    | intro _
    | with_reducible apply keeps_fold
    | with_reducible apply State.atCore_keeps
    | simp only [mems_lit]

theorem State.commitBackup_keeps {s : State} (h : Keeps lk z0 s.held) (ans : List PeerAnswer) (p : Plan) (l : Layout) :
    Keeps lk z0 (s.commitBackup ans p l).held := by
  unfold State.commitBackup
  repeat' first
    | with_reducible assumption
    | intro _
    | split
    | with_reducible apply keeps_fold
    | with_reducible apply State.stageUpdate_keeps
    | with_reducible apply State.commit_keeps
    | with_reducible apply State.restoreGenerators_keeps
    | simp only [held_lit]

theorem State.takePlan_keeps {s : State} (h : Keeps lk z0 s.held) (lay : Layout) (bs : List (Byte × Bool)) :
    Keeps lk z0 (s.takePlan lay bs).held := by
  unfold State.takePlan
  repeat' first
    | with_reducible assumption
    | split
    | with_reducible apply State.raise_keeps
    | simp only [held_lit]

theorem State.startPhase_keeps {s : State} (h : Keeps lk z0 s.held) (ans : List PeerAnswer) (p : Plan) (l : Layout) :
    Keeps lk z0 (s.startPhase ans p l).held := by
  unfold State.startPhase
  repeat' first
    | with_reducible assumption
    | intro _
    | with_reducible apply keeps_ite
    | with_reducible apply keeps_fold
    | with_reducible apply State.beginPhase_keeps
    | with_reducible apply State.settleCore_keeps
    | with_reducible apply State.compareCopies_keeps

theorem execPlanStart_keeps {s : State} (h : Keeps lk z0 s.held) (c : CoreId) (dva : BitVec 41) (lay : Layout) :
    OutKeeps lk z0 (execPlanStart c dva lay s) := by
  unfold execPlanStart
  refine outKeeps_next ?_
  repeat' first
    | with_reducible assumption
    | intro _
    | with_reducible apply keeps_ite
    | with_reducible apply State.withAnswers_keeps
    | with_reducible apply State.libRead_keeps
    | with_reducible apply State.takePlan_keeps

theorem execContributionSend_keeps {s : State} (h : Keeps lk z0 s.held) (c : CoreId) (slot : Fin 64) (owner : CoreId) :
    OutKeeps lk z0 (execContributionSend c slot owner s) := by
  unfold execContributionSend
  refine outKeeps_next ?_
  repeat' first
    | with_reducible assumption
    | intro _
    | split
    | with_reducible apply State.withAnswers_keeps
    | with_reducible apply State.contribute_keeps
    | with_reducible apply State.startPhase_keeps

theorem State.receiveToken_keeps {s : State} (h : Keeps lk z0 s.held) (ans : List PeerAnswer) (p : Plan) (l : Layout) (c n slot role : Nat) :
    Keeps lk z0 (s.receiveToken ans p l c n slot role).held := by
  unfold State.receiveToken
  repeat' first
    | with_reducible assumption
    | with_reducible apply keeps_ite
    | with_reducible apply State.readLine_keeps
    | with_reducible apply State.settleCore_keeps
    | with_reducible apply State.compareCopies_keeps
    | with_reducible apply State.takeToken_keeps

theorem execTokenReceive_keeps {s : State} (h : Keeps lk z0 s.held) (owner : CoreId) (slot : Fin 64) (role : Fin 2) (relayed : Bool) :
    OutKeeps lk z0 (execTokenReceive owner slot role relayed s) := by
  unfold execTokenReceive
  refine outKeeps_next ?_
  repeat' first
    | with_reducible assumption
    | intro _
    | split
    | with_reducible apply State.withAnswers_keeps
    | with_reducible apply State.readLine_keeps
    | with_reducible apply State.sendLine_keeps
    | with_reducible apply State.receiveToken_keeps

theorem execSlotLate_keeps {s : State} (h : Keeps lk z0 s.held) (c : CoreId) (slot : Fin 64) :
    OutKeeps lk z0 (execSlotLate c slot s) := by
  unfold execSlotLate
  refine outKeeps_next ?_
  repeat' first
    | with_reducible assumption
    | intro _
    | split
    | with_reducible apply State.raise_keeps
    | with_reducible apply State.withAnswers_keeps
    | with_reducible apply State.settleCore_keeps
    | simp only [held_lit]

theorem execRecompute_keeps {s : State} (h : Keeps lk z0 s.held) (c : CoreId) (slot : Fin 64) (owner : CoreId) :
    OutKeeps lk z0 (execRecompute c slot owner s) := by
  unfold execRecompute
  refine outKeeps_next ?_
  repeat' first
    | with_reducible assumption
    | intro _
    | split
    | with_reducible apply State.withAnswers_keeps
    | with_reducible apply State.readLine_keeps
    | with_reducible apply State.contribute_keeps

theorem State.sendVotes_keeps {s : State} (h : Keeps lk z0 s.held) (p : Plan) (l : Layout) (v : Nat) :
    Keeps lk z0 (s.sendVotes p l v).held := by
  unfold State.sendVotes
  repeat' first
    | with_reducible assumption
    | intro _
    | with_reducible apply keeps_fold
    | with_reducible apply State.sendTo_keeps

theorem execVoteSend_keeps {s : State} (h : Keeps lk z0 s.held) :
    OutKeeps lk z0 (execVoteSend s) := by
  unfold execVoteSend
  refine outKeeps_next ?_
  repeat' first
    | with_reducible assumption
    | split
    | with_reducible apply State.sendVotes_keeps
    | simp only [held_lit]

theorem State.takeVote_keeps {s : State} (h : Keeps lk z0 s.held) (ans : List PeerAnswer) (p : Plan) (l : Layout) (v i code : Nat) :
    Keeps lk z0 (s.takeVote ans p l v i code).held := by
  unfold State.takeVote
  repeat' first
    | with_reducible assumption
    | with_reducible apply keeps_ite
    | with_reducible apply State.commit_keeps
    | with_reducible apply State.holdStep_keeps
    | simp only [held_lit]

theorem execVoteReceive_keeps {s : State} (h : Keeps lk z0 s.held) (stage slot : Fin 64) :
    OutKeeps lk z0 (execVoteReceive stage slot s) := by
  unfold execVoteReceive
  refine outKeeps_next ?_
  try dsimp only
  repeat' first
    | with_reducible assumption
    | intro _
    | split
    | with_reducible apply State.withAnswers_keeps
    | with_reducible apply State.readLine_keeps
    | with_reducible apply State.takeVote_keeps

theorem State.carryOut_keeps {s : State} (h : Keeps lk z0 s.held) (ans : List PeerAnswer) (p : Plan) (l : Layout) (z_ : Nat) :
    Keeps lk z0 (s.carryOut ans p l z_).held := by
  cases z_ <;> unfold State.carryOut
  repeat' first
    | with_reducible assumption
    | split
    | with_reducible apply State.commit_keeps
    | with_reducible apply State.restoreGenerators_keeps
    | with_reducible apply State.commitBackup_keeps
    | simp only [held_lit]

theorem execHeldStepDecision_keeps {s : State} (h : Keeps lk z0 s.held) :
    OutKeeps lk z0 (execHeldStepDecision s) := by
  unfold execHeldStepDecision
  refine outKeeps_next ?_
  try dsimp only
  repeat' first
    | with_reducible assumption
    | intro _
    | split
    | with_reducible apply State.withAnswers_keeps
    | with_reducible apply State.holdStep_keeps
    | with_reducible apply State.carryOut_keeps

theorem State.widen_keeps {s : State} (h : Keeps lk z0 s.held) (ans : List PeerAnswer) (p : Plan) (l : Layout) (c first n : Nat) :
    Keeps lk z0 (s.widen ans p l c first n).held := by
  unfold State.widen
  repeat' first
    | with_reducible assumption
    | with_reducible apply State.libRead_keeps
    | with_reducible apply State.libWrite_keeps
    | with_reducible apply State.libWrote_keeps
    | with_reducible apply State.boundary_keeps
    | simp only [held_lit]

theorem execParamReceive_keeps {s : State} (h : Keeps lk z0 s.held) (slot : Fin 64) (owner : CoreId) :
    OutKeeps lk z0 (execParamReceive slot owner s) := by
  unfold execParamReceive
  refine outKeeps_next ?_
  repeat' first
    | with_reducible assumption
    | intro _
    | split
    | with_reducible apply State.withAnswers_keeps
    | with_reducible apply State.readLine_keeps
    | with_reducible apply State.widen_keeps

theorem State.copyRuns_keeps {s : State} (h : Keeps lk z0 s.held) (ans : List PeerAnswer) (c : Nat) (runs : List (BitVec 41 × BitVec 41 × Nat)) :
    Keeps lk z0 (s.copyRuns ans c runs).2.held := by
  unfold State.copyRuns
  repeat' first
    | with_reducible assumption
    | intro _
    | with_reducible apply keeps_fold2
    | with_reducible apply State.libRead_keeps
    | with_reducible apply State.libWrite_keeps

theorem State.moveOver_keeps {s : State} (h : Keeps lk z0 s.held) (ans : List PeerAnswer) (p : Plan) (l : Layout) (m : Move) :
    Keeps lk z0 (s.moveOver ans p l m).held := by
  unfold State.moveOver
  repeat' first
    | with_reducible assumption
    | split
    | with_reducible apply State.libWrite_keeps
    | with_reducible apply State.sendTo_keeps
    | with_reducible apply State.copyRuns_keeps

theorem State.moveHome_keeps {s : State} (h : Keeps lk z0 s.held) (ans : List PeerAnswer) (m : Arrival) :
    Keeps lk z0 (s.moveHome ans m).held := by
  unfold State.moveHome
  repeat' first
    | with_reducible assumption
    | intro _
    | split
    | with_reducible apply State.atCore_keeps
    | with_reducible apply State.libRead_keeps
    | with_reducible apply State.copyRuns_keeps
    | with_reducible apply Eff.loadGenerators_wf

theorem State.movePart_keeps {s : State} (h : Keeps lk z0 s.held) (ans : List PeerAnswer) (p : Plan) (l : Layout) (x : Permute) :
    Keeps lk z0 (s.movePart ans p l x).held := by
  unfold State.movePart
  repeat' first
    | with_reducible assumption
    | intro _
    | split
    | with_reducible apply keeps_fold
    | with_reducible apply State.readLine_keeps
    | with_reducible apply State.moveOver_keeps
    | with_reducible apply State.moveHome_keeps
    | simp only [held_lit]

theorem execPermute_keeps {s : State} (h : Keeps lk z0 s.held) (start : Option (List Move × List Arrival)) :
    OutKeeps lk z0 (execPermute start s) := by
  unfold execPermute
  refine outKeeps_next ?_
  repeat' first
    | with_reducible assumption
    | intro _
    | split
    | with_reducible apply State.withAnswers_keeps
    | with_reducible apply State.movePart_keeps
    | simp only [held_lit]

theorem State.preferSlot_keeps {s : State} (h : Keeps lk z0 s.held) (b : Bool) : Keeps lk z0 (s.preferSlot b).held := by
  unfold State.preferSlot
  exact keeps_flash h (fun w => Mem.wf_wrBytes _ _ w)

theorem execPldmFirmwareUpdate_keeps {s : State} (h : Keeps lk z0 s.held) (b : Bool) (image : List Byte) :
    OutKeeps lk z0 (execPldmFirmwareUpdate b image s) := by
  unfold execPldmFirmwareUpdate
  refine outKeeps_next (keeps_ite h ?_)
  have h1 : Keeps lk z0 ({ s with flash := s.flash.wrBytes (slotBase b) image } : State).held :=
    keeps_flash h (fun w => Mem.wf_wrBytes _ _ w)
  exact keeps_ite (State.preferSlot_keeps h1 b) h1

theorem execSpdmRequest_keeps {s : State} (h : Keeps lk z0 s.held) (req : SpdmMessage) :
    OutKeeps lk z0 (execSpdmRequest req s) := by
  unfold execSpdmRequest
  refine outKeeps_next ?_
  repeat' first
    | with_reducible assumption
    | with_reducible apply keeps_ite

    | simp only [held_lit]

theorem State.performedHost_keeps {s : State} (h : Keeps lk z0 s.held) :
    Keeps lk z0 (s.performedHost).held := by
  unfold State.performedHost
  repeat' first
    | with_reducible assumption
    | intro _
    | split
    | with_reducible apply keeps_fold
    | with_reducible apply State.hostWrite_keeps

theorem State.zeroise_keeps {s : State} (h : Keeps false z0 s.held) (lost : LostStores) : Keeps false z0 (s.zeroise lost).held := by
  unfold State.zeroise
  refine ⟨h.pending, fun w => ⟨(h.wf w).1, (h.wf w).2.1, ?_, ?_, ?_⟩, fun x => nomatch x⟩
  · simp only [State.held]
    split
    · exact (h.wf w).2.2.1
    · rfl
  · simp only [State.held]
    split
    · exact (h.wf w).2.2.2.1
    · rfl
  · simp only [State.held]
    split
    · exact (h.wf w).2.2.2.2
    · intro p hp
      obtain ⟨q, -, rfl⟩ := List.mem_map.mp hp
      exact CoreSt.zeroised_wf _

theorem State.startZeroise_keeps {s : State} (h : Keeps lk z0 s.held) (c : Cmd) :
    Keeps lk z0 (s.startZeroise c).held := by
  unfold State.startZeroise
  repeat' first
    | with_reducible assumption
    | intro _
    | split
    | with_reducible apply keeps_fold
    | with_reducible apply State.setDev_keeps
    | with_reducible apply State.startCmd_keeps
    | with_reducible apply State.disableLink_keeps
    | with_reducible apply CoreSt.halted_wf
    | with_reducible refine keeps_map ?_ ?_

theorem execZeroise_keeps {s : State} (h : Keeps false z0 s.held) (hottest : Nat) (lost : LostStores) :
    OutKeeps false z0 (execZeroise hottest lost s) := by
  unfold execZeroise
  refine outKeeps_next ?_
  split
  · exact State.runCommand_keeps h _ _ _ (fun t c ht => State.startZeroise_keeps ht _)
  · split
    · refine keeps_ite h ?_
      exact State.endCmd_keeps (State.setDev_keeps (State.zeroise_keeps (State.performedHost_keeps h) _) _) _ _ _
    · exact h

theorem State.coldReset_keeps {s : State} (h : Keeps false z0 s.held) (power : Bool) : Keeps false z0 (s.coldReset power).held :=
  ⟨h.pending, fun w => ⟨(h.wf w).1, (h.wf w).2.1, rfl, rfl, fun _ x => nomatch x⟩, fun x => nomatch x⟩

theorem execPowerOn_keeps {s : State} (h : Keeps false z0 s.held) : OutKeeps false z0 (execPowerOn s) :=
  outKeeps_next (State.coldReset_keeps h _)

theorem execPerstNAssert_keeps {s : State} (h : Keeps false z0 s.held) (ns : Nat) : OutKeeps false z0 (execPerstNAssert ns s) := by
  unfold execPerstNAssert
  refine outKeeps_next ?_
  split
  · exact State.coldReset_keeps h _
  · exact h

theorem execCxlReset_keeps {s : State} (h : Keeps false z0 s.held) : OutKeeps false z0 (execCxlReset s) := by
  unfold execCxlReset
  refine outKeeps_next ?_
  split
  · exact State.coldReset_keeps h _
  · exact h

theorem execPowerLoss_keeps {s : State} (h : Keeps false z0 s.held) : OutKeeps false z0 (execPowerLoss s) :=
  outKeeps_next (State.coldReset_keeps h _)

theorem execStartUp_keeps {s : State} (h : Keeps lk z0 s.held) (tests : StartTests) : OutKeeps lk z0 (execStartUp tests s) := by
  unfold execStartUp
  refine outKeeps_next ?_
  split
  · exact h
  · dsimp only
    split
    · exact h
    · exact ⟨h.pending, h.wf, fun x => h.lock x⟩

theorem execThermalTrip_keeps {s : State} (h : Keeps lk z0 s.held) (sensor : Fin 32) (reading : Nat) :
    OutKeeps lk z0 (execThermalTrip sensor reading s) := by
  unfold execThermalTrip
  refine outKeeps_next ?_
  repeat' first
    | with_reducible assumption
    | with_reducible apply keeps_ite
    | with_reducible apply State.raise_keeps
    | simp only [held_lit]

theorem State.onAccounts_keeps {s : State} (h : Keeps lk z0 s.held) (f : Nat → Account → Account) :
    Keeps lk z0 (s.onAccounts f).held := by
  unfold State.onAccounts
  repeat' first
    | with_reducible assumption
    | intro _

    | simp only [mems_lit]
    | with_reducible refine keeps_map ?_ ?_

theorem State.braked_keeps {s : State} (h : Keeps lk z0 s.held) :
    Keeps lk z0 (s.braked).held := by
  unfold State.braked
  repeat' first
    | with_reducible assumption
    | with_reducible apply State.onAccounts_keeps

theorem State.pointsMoved_keeps {s : State} (h : Keeps lk z0 s.held) (old : Tab Nat) :
    Keeps lk z0 (s.pointsMoved old).held := by
  unfold State.pointsMoved
  repeat' first
    | with_reducible assumption
    | with_reducible apply State.onAccounts_keeps

theorem execBrake_keeps {s : State} (h : Keeps lk z0 s.held) (current : Nat) :
    OutKeeps lk z0 (execBrake current s) := by
  unfold execBrake
  refine outKeeps_next ?_
  repeat' first
    | with_reducible assumption
    | with_reducible apply keeps_ite
    | with_reducible apply State.countUnit_keeps
    | with_reducible apply State.braked_keeps
    | simp only [held_lit]

theorem execFwWatchdogExpiry_keeps {s : State} (h : Keeps lk z0 s.held) (service : Fin 6) :
    OutKeeps lk z0 (execFwWatchdogExpiry service s) := by
  unfold execFwWatchdogExpiry
  refine outKeeps_next ?_
  repeat' first
    | with_reducible assumption
    | with_reducible apply keeps_ite
    | with_reducible apply State.takeFree_keeps
    | with_reducible apply State.raise_keeps
    | simp only [held_lit]

theorem State.newWindow_keeps {s : State} (h : Keeps lk z0 s.held) :
    Keeps lk z0 (s.newWindow).held := by
  unfold State.newWindow
  repeat' first
    | with_reducible assumption
    | intro _

    | simp only [mems_lit]
    | with_reducible refine keeps_map ?_ ?_

theorem State.atBoundary_keeps {s : State} (h : Keeps lk z0 s.held) (c : Cmd) :
    Keeps lk z0 (s.atBoundary c).held := by
  unfold State.atBoundary
  repeat' first
    | with_reducible assumption
    | with_reducible apply State.endCmd_keeps
    | simp only [held_lit]

theorem execPlannerWindow_keeps {s : State} (h : Keeps lk z0 s.held) (m : Measures) :
    OutKeeps lk z0 (execPlannerWindow m s) := by
  unfold execPlannerWindow
  refine outKeeps_next ?_
  repeat' first
    | with_reducible assumption
    | intro _
    | with_reducible apply keeps_ite
    | with_reducible apply keeps_fold
    | with_reducible apply State.raise_keeps
    | with_reducible apply State.countUnit_keeps
    | with_reducible apply State.pointsMoved_keeps
    | with_reducible apply State.newWindow_keeps
    | with_reducible apply State.atBoundary_keeps
    | simp only [held_lit]

theorem execIdleEntry_keeps {s : State} (h : Keeps lk z0 s.held) :
    OutKeeps lk z0 (execIdleEntry s) := by
  unfold execIdleEntry
  refine outKeeps_next ?_
  repeat' first
    | with_reducible assumption
    | with_reducible apply keeps_ite
    | simp only [held_lit]

theorem execWake_keeps {s : State} (h : Keeps lk z0 s.held) :
    OutKeeps lk z0 (execWake s) := by
  unfold execWake
  refine outKeeps_next ?_
  repeat' first
    | with_reducible assumption
    | with_reducible apply keeps_ite
    | simp only [held_lit]

theorem State.dropAccount_keeps {s : State} (h : Keeps lk z0 s.held) (c : Nat) :
    Keeps lk z0 (s.dropAccount c).held := by
  unfold State.dropAccount
  repeat' first
    | with_reducible assumption
    | intro _

    | with_reducible exact State.core_wf (by assumption) _
    | simp only [mems_lit]
    | with_reducible refine keeps_core ?_ _ ?_

theorem execEnergyRecord_keeps {s : State} (h : Keeps lk z0 s.held) (c : CoreId) :
    OutKeeps lk z0 (execEnergyRecord c s) := by
  unfold execEnergyRecord
  refine outKeeps_next ?_
  repeat' first
    | with_reducible assumption
    | split
    | with_reducible apply State.writeRecord_keeps
    | with_reducible apply State.recall_keeps
    | with_reducible apply State.dropAccount_keeps
    | simp only [held_lit]

theorem execSnapshot_keeps {s : State} (h : Keeps lk z0 s.held) :
    OutKeeps lk z0 (execSnapshot s) := by
  unfold execSnapshot
  refine outKeeps_next ?_
  repeat' first
    | with_reducible assumption
    | split
    | with_reducible apply State.raise_keeps
    | with_reducible apply State.setDev_keeps
    | with_reducible apply State.startCmd_keeps
    | with_reducible apply State.settleCmds_keeps
    | with_reducible apply State.endCmd_keeps
    | with_reducible apply State.rejectCmd_keeps
    | simp only [held_lit]

theorem State.releaseCores_keeps {s : State} (h : Keeps lk z0 s.held) (w : Word) :
    Keeps lk z0 (s.releaseCores w).held := by
  unfold State.releaseCores
  repeat' first
    | with_reducible assumption
    | intro _
    | with_reducible apply keeps_fold
    | with_reducible apply State.atCore_keeps
    | with_reducible apply Eff.mail_wf

theorem execSnapshotCancel_keeps {s : State} (h : Keeps lk z0 s.held) :
    OutKeeps lk z0 (execSnapshotCancel s) := by
  unfold execSnapshotCancel
  refine outKeeps_next ?_
  repeat' first
    | with_reducible assumption
    | intro _
    | split
    | with_reducible apply State.endCmd_keeps
    | with_reducible apply State.runCommand_keeps
    | with_reducible apply State.failSnapshot_keeps
    | with_reducible apply State.releaseCores_keeps

theorem execContextCapture_keeps {s : State} (h : Keeps lk z0 s.held) (c : CoreId) : OutKeeps lk z0 (execContextCapture c s) := by
  unfold execContextCapture
  generalize imageBytes = n
  refine outKeeps_next ?_
  cases s.snapshot with
  | none => exact h
  | some x =>
    dsimp only
    refine keeps_ite h ?_
    have h1 := State.recall_keeps h 11 scrivMaster (x.ctxBase + c * n) n true
    generalize s.recall 11 scrivMaster (x.ctxBase + c * n) n true = r at h1 ⊢
    obtain ⟨hit, s1⟩ := r
    dsimp only at h1 ⊢
    refine keeps_ite h1 ?_
    generalize (if s.fenced c = true then markAll false (natLe n 0) else s.contextImage c) = im
    have h2 := State.writeRange_keeps h .house scrivMaster 3 (x.ctxBase + c * n) im
    generalize s.writeRange .house scrivMaster 3 (x.ctxBase + c * n) im = r at h2 ⊢
    obtain ⟨l, s2⟩ := r
    dsimp only at h2 ⊢
    simp only [held_lit]
    exact keeps_ite h2 (State.atCore_keeps h2 _ _ (fun e he => CoreSt.captured_wf he))

theorem execCaptureTimeout_keeps {s : State} (h : Keeps lk z0 s.held) :
    OutKeeps lk z0 (execCaptureTimeout s) := by
  unfold execCaptureTimeout
  refine outKeeps_next ?_
  repeat' first
    | with_reducible assumption
    | split
    | with_reducible apply State.failSnapshot_keeps

theorem execSnapshotFreeze_keeps {s : State} (h : Keeps lk z0 s.held) :
    OutKeeps lk z0 (execSnapshotFreeze s) := by
  unfold execSnapshotFreeze
  refine outKeeps_next ?_
  try dsimp only
  repeat' first
    | with_reducible assumption
    | intro _
    | split
    | with_reducible apply keeps_fold
    | with_reducible apply State.proceed_keeps
    | with_reducible apply State.uncache_keeps
    | with_reducible apply State.setFrozen_keeps
    | with_reducible apply State.releaseCores_keeps
    | simp only [held_lit]

theorem execSnapshotPageSend_keeps {s : State} (h : Keeps lk z0 s.held) :
    OutKeeps lk z0 (execSnapshotPageSend s) := by
  unfold execSnapshotPageSend
  refine outKeeps_next ?_
  repeat' first
    | with_reducible assumption
    | intro _
    | split
    | with_reducible apply State.withAnswers_keeps
    | with_reducible apply State.sendPage_keeps

theorem execCopyOnWrite_keeps {s : State} (h : Keeps lk z0 s.held) (page : BitVec 25) :
    OutKeeps lk z0 (execCopyOnWrite page s) := by
  unfold execCopyOnWrite
  refine outKeeps_next ?_
  try dsimp only
  repeat' first
    | with_reducible assumption
    | intro _
    | split
    | with_reducible apply State.withAnswers_keeps
    | with_reducible apply State.copyPage_keeps

theorem execManifestWrite_keeps {s : State} (h : Keeps lk z0 s.held) :
    OutKeeps lk z0 (execManifestWrite s) := by
  unfold execManifestWrite
  refine outKeeps_next ?_
  repeat' first
    | with_reducible assumption
    | split
    | with_reducible apply State.finishSnapshot_keeps
    | with_reducible apply State.sendManifest_keeps

theorem State.checkRestore_keeps {s : State} (h : Keeps lk z0 s.held) (cmd : Nat) (bs : List Byte) (answers : List PeerAnswer) :
    Keeps lk z0 (s.checkRestore cmd bs answers).2.held := by
  unfold State.checkRestore
  try dsimp only
  repeat' first
    | with_reducible assumption
    | split
    | with_reducible refine keeps_snd (by assumption) ?_
    | with_reducible apply State.readManifest_keeps

theorem execRestore_keeps {s : State} (h : Keeps lk z0 s.held) :
    OutKeeps lk z0 (execRestore s) := by
  unfold execRestore
  refine outKeeps_next ?_
  repeat' first
    | with_reducible assumption
    | intro _
    | split
    | with_reducible refine keeps_snd (by assumption) ?_
    | with_reducible apply State.takeFree_keeps
    | with_reducible apply State.raise_keeps
    | with_reducible apply State.withAnswers_keeps
    | with_reducible apply State.setDev_keeps
    | with_reducible apply State.startCmd_keeps
    | with_reducible apply State.settleCmds_keeps
    | with_reducible apply State.endCmd_keeps
    | with_reducible apply State.rejectCmd_keeps
    | with_reducible apply State.checkRestore_keeps
    | simp only [held_lit]

theorem execRestorePageLoad_keeps {s : State} (h : Keeps lk z0 s.held) :
    OutKeeps lk z0 (execRestorePageLoad s) := by
  unfold execRestorePageLoad
  refine outKeeps_next ?_
  repeat' first
    | with_reducible assumption
    | intro _
    | split
    | with_reducible apply State.withAnswers_keeps
    | with_reducible apply State.loadPage_keeps

theorem State.restoreDone_keeps {s : State} (h : Keeps lk z0 s.held) (r : Restore) :
    Keeps lk z0 (s.restoreDone r).held := by
  unfold State.restoreDone
  repeat' first
    | with_reducible assumption
    | with_reducible apply State.raise_keeps
    | with_reducible apply State.endScrivener_keeps
    | simp only [held_lit]

theorem State.restoredCore_keeps {s : State} (h : Keeps lk z0 s.held) (r : Restore) (left : List Nat) :
    Keeps lk z0 (s.restoredCore r left).held := by
  unfold State.restoredCore
  repeat' first
    | with_reducible assumption
    | with_reducible apply keeps_ite
    | with_reducible apply State.restoreDone_keeps
    | simp only [held_lit]

theorem State.loadImage_keeps {s : State} (h : Keeps lk z0 s.held) (r : Restore) (c home : Nat) (answers : List PeerAnswer) :
    Keeps lk z0 (s.loadImage r c home answers).held := by
  unfold State.loadImage
  exact State.restoredCore_keeps (State.atCore_keeps (State.readRange_keeps h _ _ _ _ _) _ _ (fun e he => Eff.restoreContext_wf he _ _)) _ _

theorem execContextRestore_keeps {s : State} (h : Keeps lk z0 s.held) (c : CoreId) : OutKeeps lk z0 (execContextRestore c s) := by
  unfold execContextRestore
  refine outKeeps_next (State.withAnswers_keeps h _ _ _ (fun l t ht => ?_))
  split
  · refine keeps_ite ht (keeps_ite (State.recall_keeps ht _ _ _ _ _) ?_)
    split
    · exact ht
    · exact State.loadImage_keeps ht _ _ _ _
  · exact ht

end Sys2Proof.Machine
end

