-- ==== Sys2Proof/Laws/State.lean ====
section
/-! SUPPORT. What each named update of the module's state leaves as it was, field by field, and what it leaves in the field it
changes. -/

namespace Sys2Proof.Machine

/-! ### setGuild -/

@[simp] theorem State.setGuild_cores (s : State) (g : Nat) (x : GuildSt) : (s.setGuild g x).cores = s.cores := rfl
@[simp] theorem State.setGuild_tiers (s : State) (g : Nat) (x : GuildSt) : (s.setGuild g x).tiers = s.tiers := rfl
@[simp] theorem State.setGuild_txns (s : State) (g : Nat) (x : GuildSt) : (s.setGuild g x).txns = s.txns := rfl
@[simp] theorem State.setGuild_nextTxn (s : State) (g : Nat) (x : GuildSt) : (s.setGuild g x).nextTxn = s.nextTxn := rfl
@[simp] theorem State.setGuild_nextIssue (s : State) (g : Nat) (x : GuildSt) : (s.setGuild g x).nextIssue = s.nextIssue := rfl
@[simp] theorem State.setGuild_bursts (s : State) (g : Nat) (x : GuildSt) : (s.setGuild g x).bursts = s.bursts := rfl
@[simp] theorem State.setGuild_nextBurst (s : State) (g : Nat) (x : GuildSt) : (s.setGuild g x).nextBurst = s.nextBurst := rfl
@[simp] theorem State.setGuild_nextDray (s : State) (g : Nat) (x : GuildSt) : (s.setGuild g x).nextDray = s.nextDray := rfl
@[simp] theorem State.setGuild_sets (s : State) (g : Nat) (x : GuildSt) : (s.setGuild g x).sets = s.sets := rfl
@[simp] theorem State.setGuild_setMasks (s : State) (g : Nat) (x : GuildSt) : (s.setGuild g x).setMasks = s.setMasks := rfl
@[simp] theorem State.setGuild_self (s : State) (g : Nat) (x : GuildSt) : (s.setGuild g x).self = s.self := rfl
@[simp] theorem State.setGuild_links (s : State) (g : Nat) (x : GuildSt) : (s.setGuild g x).links = s.links := rfl
@[simp] theorem State.setGuild_routes (s : State) (g : Nat) (x : GuildSt) : (s.setGuild g x).routes = s.routes := rfl
@[simp] theorem State.setGuild_landing (s : State) (g : Nat) (x : GuildSt) : (s.setGuild g x).landing = s.landing := rfl
@[simp] theorem State.setGuild_sqs (s : State) (g : Nat) (x : GuildSt) : (s.setGuild g x).sqs = s.sqs := rfl
@[simp] theorem State.setGuild_cqs (s : State) (g : Nat) (x : GuildSt) : (s.setGuild g x).cqs = s.cqs := rfl
@[simp] theorem State.setGuild_evq (s : State) (g : Nat) (x : GuildSt) : (s.setGuild g x).evq = s.evq := rfl
@[simp] theorem State.setGuild_cmds (s : State) (g : Nat) (x : GuildSt) : (s.setGuild g x).cmds = s.cmds := rfl
@[simp] theorem State.setGuild_nextCmd (s : State) (g : Nat) (x : GuildSt) : (s.setGuild g x).nextCmd = s.nextCmd := rfl
@[simp] theorem State.setGuild_occurrences (s : State) (g : Nat) (x : GuildSt) : (s.setGuild g x).occurrences = s.occurrences := rfl
@[simp] theorem State.setGuild_evPending (s : State) (g : Nat) (x : GuildSt) : (s.setGuild g x).evPending = s.evPending := rfl
@[simp] theorem State.setGuild_evCounts (s : State) (g : Nat) (x : GuildSt) : (s.setGuild g x).evCounts = s.evCounts := rfl
@[simp] theorem State.setGuild_port (s : State) (g : Nat) (x : GuildSt) : (s.setGuild g x).port = s.port := rfl
@[simp] theorem State.setGuild_hostMem (s : State) (g : Nat) (x : GuildSt) : (s.setGuild g x).hostMem = s.hostMem := rfl
@[simp] theorem State.setGuild_hostPoison (s : State) (g : Nat) (x : GuildSt) : (s.setGuild g x).hostPoison = s.hostPoison := rfl
@[simp] theorem State.setGuild_house (s : State) (g : Nat) (x : GuildSt) : (s.setGuild g x).house = s.house := rfl
@[simp] theorem State.setGuild_sec (s : State) (g : Nat) (x : GuildSt) : (s.setGuild g x).sec = s.sec := rfl
@[simp] theorem State.setGuild_fuses (s : State) (g : Nat) (x : GuildSt) : (s.setGuild g x).fuses = s.fuses := rfl
@[simp] theorem State.setGuild_flash (s : State) (g : Nat) (x : GuildSt) : (s.setGuild g x).flash = s.flash := rfl
@[simp] theorem State.setGuild_snapshot (s : State) (g : Nat) (x : GuildSt) : (s.setGuild g x).snapshot = s.snapshot := rfl
@[simp] theorem State.setGuild_restore (s : State) (g : Nat) (x : GuildSt) : (s.setGuild g x).restore = s.restore := rfl
@[simp] theorem State.setGuild_coll (s : State) (g : Nat) (x : GuildSt) : (s.setGuild g x).coll = s.coll := rfl
@[simp] theorem State.setGuild_unitCounters (s : State) (g : Nat) (x : GuildSt) : (s.setGuild g x).unitCounters = s.unitCounters := rfl
@[simp] theorem State.setGuild_bwCfg (s : State) (g : Nat) (x : GuildSt) : (s.setGuild g x).bwCfg = s.bwCfg := rfl
@[simp] theorem State.setGuild_bwLog (s : State) (g : Nat) (x : GuildSt) : (s.setGuild g x).bwLog = s.bwLog := rfl
@[simp] theorem State.setGuild_bwNow (s : State) (g : Nat) (x : GuildSt) : (s.setGuild g x).bwNow = s.bwNow := rfl
@[simp] theorem State.setGuild_bwLast (s : State) (g : Nat) (x : GuildSt) : (s.setGuild g x).bwLast = s.bwLast := rfl
@[simp] theorem State.setGuild_bwPeak (s : State) (g : Nat) (x : GuildSt) : (s.setGuild g x).bwPeak = s.bwPeak := rfl
@[simp] theorem State.setGuild_asks (s : State) (g : Nat) (x : GuildSt) : (s.setGuild g x).asks = s.asks := rfl
@[simp] theorem State.setGuild_free (s : State) (g : Nat) (x : GuildSt) : (s.setGuild g x).free = s.free := rfl
@[simp] theorem State.setGuild_pending (s : State) (g : Nat) (x : GuildSt) : (s.setGuild g x).pending = s.pending := rfl

/-! ### setLink -/

@[simp] theorem State.setLink_cores (s : State) (l : Nat) (x : LinkSt) : (s.setLink l x).cores = s.cores := rfl
@[simp] theorem State.setLink_guilds (s : State) (l : Nat) (x : LinkSt) : (s.setLink l x).guilds = s.guilds := rfl
@[simp] theorem State.setLink_tiers (s : State) (l : Nat) (x : LinkSt) : (s.setLink l x).tiers = s.tiers := rfl
@[simp] theorem State.setLink_txns (s : State) (l : Nat) (x : LinkSt) : (s.setLink l x).txns = s.txns := rfl
@[simp] theorem State.setLink_nextTxn (s : State) (l : Nat) (x : LinkSt) : (s.setLink l x).nextTxn = s.nextTxn := rfl
@[simp] theorem State.setLink_nextIssue (s : State) (l : Nat) (x : LinkSt) : (s.setLink l x).nextIssue = s.nextIssue := rfl
@[simp] theorem State.setLink_bursts (s : State) (l : Nat) (x : LinkSt) : (s.setLink l x).bursts = s.bursts := rfl
@[simp] theorem State.setLink_nextBurst (s : State) (l : Nat) (x : LinkSt) : (s.setLink l x).nextBurst = s.nextBurst := rfl
@[simp] theorem State.setLink_nextDray (s : State) (l : Nat) (x : LinkSt) : (s.setLink l x).nextDray = s.nextDray := rfl
@[simp] theorem State.setLink_sets (s : State) (l : Nat) (x : LinkSt) : (s.setLink l x).sets = s.sets := rfl
@[simp] theorem State.setLink_setMasks (s : State) (l : Nat) (x : LinkSt) : (s.setLink l x).setMasks = s.setMasks := rfl
@[simp] theorem State.setLink_self (s : State) (l : Nat) (x : LinkSt) : (s.setLink l x).self = s.self := rfl
@[simp] theorem State.setLink_routes (s : State) (l : Nat) (x : LinkSt) : (s.setLink l x).routes = s.routes := rfl
@[simp] theorem State.setLink_landing (s : State) (l : Nat) (x : LinkSt) : (s.setLink l x).landing = s.landing := rfl
@[simp] theorem State.setLink_sqs (s : State) (l : Nat) (x : LinkSt) : (s.setLink l x).sqs = s.sqs := rfl
@[simp] theorem State.setLink_cqs (s : State) (l : Nat) (x : LinkSt) : (s.setLink l x).cqs = s.cqs := rfl
@[simp] theorem State.setLink_evq (s : State) (l : Nat) (x : LinkSt) : (s.setLink l x).evq = s.evq := rfl
@[simp] theorem State.setLink_cmds (s : State) (l : Nat) (x : LinkSt) : (s.setLink l x).cmds = s.cmds := rfl
@[simp] theorem State.setLink_nextCmd (s : State) (l : Nat) (x : LinkSt) : (s.setLink l x).nextCmd = s.nextCmd := rfl
@[simp] theorem State.setLink_occurrences (s : State) (l : Nat) (x : LinkSt) : (s.setLink l x).occurrences = s.occurrences := rfl
@[simp] theorem State.setLink_evPending (s : State) (l : Nat) (x : LinkSt) : (s.setLink l x).evPending = s.evPending := rfl
@[simp] theorem State.setLink_evCounts (s : State) (l : Nat) (x : LinkSt) : (s.setLink l x).evCounts = s.evCounts := rfl
@[simp] theorem State.setLink_port (s : State) (l : Nat) (x : LinkSt) : (s.setLink l x).port = s.port := rfl
@[simp] theorem State.setLink_hostMem (s : State) (l : Nat) (x : LinkSt) : (s.setLink l x).hostMem = s.hostMem := rfl
@[simp] theorem State.setLink_hostPoison (s : State) (l : Nat) (x : LinkSt) : (s.setLink l x).hostPoison = s.hostPoison := rfl
@[simp] theorem State.setLink_house (s : State) (l : Nat) (x : LinkSt) : (s.setLink l x).house = s.house := rfl
@[simp] theorem State.setLink_sec (s : State) (l : Nat) (x : LinkSt) : (s.setLink l x).sec = s.sec := rfl
@[simp] theorem State.setLink_fuses (s : State) (l : Nat) (x : LinkSt) : (s.setLink l x).fuses = s.fuses := rfl
@[simp] theorem State.setLink_flash (s : State) (l : Nat) (x : LinkSt) : (s.setLink l x).flash = s.flash := rfl
@[simp] theorem State.setLink_snapshot (s : State) (l : Nat) (x : LinkSt) : (s.setLink l x).snapshot = s.snapshot := rfl
@[simp] theorem State.setLink_restore (s : State) (l : Nat) (x : LinkSt) : (s.setLink l x).restore = s.restore := rfl
@[simp] theorem State.setLink_coll (s : State) (l : Nat) (x : LinkSt) : (s.setLink l x).coll = s.coll := rfl
@[simp] theorem State.setLink_unitCounters (s : State) (l : Nat) (x : LinkSt) : (s.setLink l x).unitCounters = s.unitCounters := rfl
@[simp] theorem State.setLink_bwCfg (s : State) (l : Nat) (x : LinkSt) : (s.setLink l x).bwCfg = s.bwCfg := rfl
@[simp] theorem State.setLink_bwLog (s : State) (l : Nat) (x : LinkSt) : (s.setLink l x).bwLog = s.bwLog := rfl
@[simp] theorem State.setLink_bwNow (s : State) (l : Nat) (x : LinkSt) : (s.setLink l x).bwNow = s.bwNow := rfl
@[simp] theorem State.setLink_bwLast (s : State) (l : Nat) (x : LinkSt) : (s.setLink l x).bwLast = s.bwLast := rfl
@[simp] theorem State.setLink_bwPeak (s : State) (l : Nat) (x : LinkSt) : (s.setLink l x).bwPeak = s.bwPeak := rfl
@[simp] theorem State.setLink_asks (s : State) (l : Nat) (x : LinkSt) : (s.setLink l x).asks = s.asks := rfl
@[simp] theorem State.setLink_free (s : State) (l : Nat) (x : LinkSt) : (s.setLink l x).free = s.free := rfl
@[simp] theorem State.setLink_pending (s : State) (l : Nat) (x : LinkSt) : (s.setLink l x).pending = s.pending := rfl

/-! ### addTxn -/

@[simp] theorem State.addTxn_cores (s : State) (t : Txn) : (s.addTxn t).cores = s.cores := rfl
@[simp] theorem State.addTxn_guilds (s : State) (t : Txn) : (s.addTxn t).guilds = s.guilds := rfl
@[simp] theorem State.addTxn_tiers (s : State) (t : Txn) : (s.addTxn t).tiers = s.tiers := rfl
@[simp] theorem State.addTxn_nextIssue (s : State) (t : Txn) : (s.addTxn t).nextIssue = s.nextIssue := rfl
@[simp] theorem State.addTxn_bursts (s : State) (t : Txn) : (s.addTxn t).bursts = s.bursts := rfl
@[simp] theorem State.addTxn_nextBurst (s : State) (t : Txn) : (s.addTxn t).nextBurst = s.nextBurst := rfl
@[simp] theorem State.addTxn_nextDray (s : State) (t : Txn) : (s.addTxn t).nextDray = s.nextDray := rfl
@[simp] theorem State.addTxn_sets (s : State) (t : Txn) : (s.addTxn t).sets = s.sets := rfl
@[simp] theorem State.addTxn_setMasks (s : State) (t : Txn) : (s.addTxn t).setMasks = s.setMasks := rfl
@[simp] theorem State.addTxn_self (s : State) (t : Txn) : (s.addTxn t).self = s.self := rfl
@[simp] theorem State.addTxn_links (s : State) (t : Txn) : (s.addTxn t).links = s.links := rfl
@[simp] theorem State.addTxn_routes (s : State) (t : Txn) : (s.addTxn t).routes = s.routes := rfl
@[simp] theorem State.addTxn_landing (s : State) (t : Txn) : (s.addTxn t).landing = s.landing := rfl
@[simp] theorem State.addTxn_sqs (s : State) (t : Txn) : (s.addTxn t).sqs = s.sqs := rfl
@[simp] theorem State.addTxn_cqs (s : State) (t : Txn) : (s.addTxn t).cqs = s.cqs := rfl
@[simp] theorem State.addTxn_evq (s : State) (t : Txn) : (s.addTxn t).evq = s.evq := rfl
@[simp] theorem State.addTxn_cmds (s : State) (t : Txn) : (s.addTxn t).cmds = s.cmds := rfl
@[simp] theorem State.addTxn_nextCmd (s : State) (t : Txn) : (s.addTxn t).nextCmd = s.nextCmd := rfl
@[simp] theorem State.addTxn_occurrences (s : State) (t : Txn) : (s.addTxn t).occurrences = s.occurrences := rfl
@[simp] theorem State.addTxn_evPending (s : State) (t : Txn) : (s.addTxn t).evPending = s.evPending := rfl
@[simp] theorem State.addTxn_evCounts (s : State) (t : Txn) : (s.addTxn t).evCounts = s.evCounts := rfl
@[simp] theorem State.addTxn_port (s : State) (t : Txn) : (s.addTxn t).port = s.port := rfl
@[simp] theorem State.addTxn_hostMem (s : State) (t : Txn) : (s.addTxn t).hostMem = s.hostMem := rfl
@[simp] theorem State.addTxn_hostPoison (s : State) (t : Txn) : (s.addTxn t).hostPoison = s.hostPoison := rfl
@[simp] theorem State.addTxn_house (s : State) (t : Txn) : (s.addTxn t).house = s.house := rfl
@[simp] theorem State.addTxn_sec (s : State) (t : Txn) : (s.addTxn t).sec = s.sec := rfl
@[simp] theorem State.addTxn_fuses (s : State) (t : Txn) : (s.addTxn t).fuses = s.fuses := rfl
@[simp] theorem State.addTxn_flash (s : State) (t : Txn) : (s.addTxn t).flash = s.flash := rfl
@[simp] theorem State.addTxn_snapshot (s : State) (t : Txn) : (s.addTxn t).snapshot = s.snapshot := rfl
@[simp] theorem State.addTxn_restore (s : State) (t : Txn) : (s.addTxn t).restore = s.restore := rfl
@[simp] theorem State.addTxn_coll (s : State) (t : Txn) : (s.addTxn t).coll = s.coll := rfl
@[simp] theorem State.addTxn_unitCounters (s : State) (t : Txn) : (s.addTxn t).unitCounters = s.unitCounters := rfl
@[simp] theorem State.addTxn_bwCfg (s : State) (t : Txn) : (s.addTxn t).bwCfg = s.bwCfg := rfl
@[simp] theorem State.addTxn_bwLog (s : State) (t : Txn) : (s.addTxn t).bwLog = s.bwLog := rfl
@[simp] theorem State.addTxn_bwNow (s : State) (t : Txn) : (s.addTxn t).bwNow = s.bwNow := rfl
@[simp] theorem State.addTxn_bwLast (s : State) (t : Txn) : (s.addTxn t).bwLast = s.bwLast := rfl
@[simp] theorem State.addTxn_bwPeak (s : State) (t : Txn) : (s.addTxn t).bwPeak = s.bwPeak := rfl
@[simp] theorem State.addTxn_asks (s : State) (t : Txn) : (s.addTxn t).asks = s.asks := rfl
@[simp] theorem State.addTxn_free (s : State) (t : Txn) : (s.addTxn t).free = s.free := rfl
@[simp] theorem State.addTxn_pending (s : State) (t : Txn) : (s.addTxn t).pending = s.pending := rfl

/-! ### dropTxn -/

@[simp] theorem State.dropTxn_cores (s : State) (n : Nat) : (s.dropTxn n).cores = s.cores := rfl
@[simp] theorem State.dropTxn_guilds (s : State) (n : Nat) : (s.dropTxn n).guilds = s.guilds := rfl
@[simp] theorem State.dropTxn_tiers (s : State) (n : Nat) : (s.dropTxn n).tiers = s.tiers := rfl
@[simp] theorem State.dropTxn_nextTxn (s : State) (n : Nat) : (s.dropTxn n).nextTxn = s.nextTxn := rfl
@[simp] theorem State.dropTxn_nextIssue (s : State) (n : Nat) : (s.dropTxn n).nextIssue = s.nextIssue := rfl
@[simp] theorem State.dropTxn_bursts (s : State) (n : Nat) : (s.dropTxn n).bursts = s.bursts := rfl
@[simp] theorem State.dropTxn_nextBurst (s : State) (n : Nat) : (s.dropTxn n).nextBurst = s.nextBurst := rfl
@[simp] theorem State.dropTxn_nextDray (s : State) (n : Nat) : (s.dropTxn n).nextDray = s.nextDray := rfl
@[simp] theorem State.dropTxn_sets (s : State) (n : Nat) : (s.dropTxn n).sets = s.sets := rfl
@[simp] theorem State.dropTxn_setMasks (s : State) (n : Nat) : (s.dropTxn n).setMasks = s.setMasks := rfl
@[simp] theorem State.dropTxn_self (s : State) (n : Nat) : (s.dropTxn n).self = s.self := rfl
@[simp] theorem State.dropTxn_links (s : State) (n : Nat) : (s.dropTxn n).links = s.links := rfl
@[simp] theorem State.dropTxn_routes (s : State) (n : Nat) : (s.dropTxn n).routes = s.routes := rfl
@[simp] theorem State.dropTxn_landing (s : State) (n : Nat) : (s.dropTxn n).landing = s.landing := rfl
@[simp] theorem State.dropTxn_sqs (s : State) (n : Nat) : (s.dropTxn n).sqs = s.sqs := rfl
@[simp] theorem State.dropTxn_cqs (s : State) (n : Nat) : (s.dropTxn n).cqs = s.cqs := rfl
@[simp] theorem State.dropTxn_evq (s : State) (n : Nat) : (s.dropTxn n).evq = s.evq := rfl
@[simp] theorem State.dropTxn_cmds (s : State) (n : Nat) : (s.dropTxn n).cmds = s.cmds := rfl
@[simp] theorem State.dropTxn_nextCmd (s : State) (n : Nat) : (s.dropTxn n).nextCmd = s.nextCmd := rfl
@[simp] theorem State.dropTxn_occurrences (s : State) (n : Nat) : (s.dropTxn n).occurrences = s.occurrences := rfl
@[simp] theorem State.dropTxn_evPending (s : State) (n : Nat) : (s.dropTxn n).evPending = s.evPending := rfl
@[simp] theorem State.dropTxn_evCounts (s : State) (n : Nat) : (s.dropTxn n).evCounts = s.evCounts := rfl
@[simp] theorem State.dropTxn_port (s : State) (n : Nat) : (s.dropTxn n).port = s.port := rfl
@[simp] theorem State.dropTxn_hostMem (s : State) (n : Nat) : (s.dropTxn n).hostMem = s.hostMem := rfl
@[simp] theorem State.dropTxn_hostPoison (s : State) (n : Nat) : (s.dropTxn n).hostPoison = s.hostPoison := rfl
@[simp] theorem State.dropTxn_house (s : State) (n : Nat) : (s.dropTxn n).house = s.house := rfl
@[simp] theorem State.dropTxn_sec (s : State) (n : Nat) : (s.dropTxn n).sec = s.sec := rfl
@[simp] theorem State.dropTxn_fuses (s : State) (n : Nat) : (s.dropTxn n).fuses = s.fuses := rfl
@[simp] theorem State.dropTxn_flash (s : State) (n : Nat) : (s.dropTxn n).flash = s.flash := rfl
@[simp] theorem State.dropTxn_snapshot (s : State) (n : Nat) : (s.dropTxn n).snapshot = s.snapshot := rfl
@[simp] theorem State.dropTxn_restore (s : State) (n : Nat) : (s.dropTxn n).restore = s.restore := rfl
@[simp] theorem State.dropTxn_coll (s : State) (n : Nat) : (s.dropTxn n).coll = s.coll := rfl
@[simp] theorem State.dropTxn_unitCounters (s : State) (n : Nat) : (s.dropTxn n).unitCounters = s.unitCounters := rfl
@[simp] theorem State.dropTxn_bwCfg (s : State) (n : Nat) : (s.dropTxn n).bwCfg = s.bwCfg := rfl
@[simp] theorem State.dropTxn_bwLog (s : State) (n : Nat) : (s.dropTxn n).bwLog = s.bwLog := rfl
@[simp] theorem State.dropTxn_bwNow (s : State) (n : Nat) : (s.dropTxn n).bwNow = s.bwNow := rfl
@[simp] theorem State.dropTxn_bwLast (s : State) (n : Nat) : (s.dropTxn n).bwLast = s.bwLast := rfl
@[simp] theorem State.dropTxn_bwPeak (s : State) (n : Nat) : (s.dropTxn n).bwPeak = s.bwPeak := rfl
@[simp] theorem State.dropTxn_asks (s : State) (n : Nat) : (s.dropTxn n).asks = s.asks := rfl
@[simp] theorem State.dropTxn_free (s : State) (n : Nat) : (s.dropTxn n).free = s.free := rfl
@[simp] theorem State.dropTxn_pending (s : State) (n : Nat) : (s.dropTxn n).pending = s.pending := rfl

/-! ### putTxn -/

@[simp] theorem State.putTxn_cores (s : State) (t : Txn) : (s.putTxn t).cores = s.cores := rfl
@[simp] theorem State.putTxn_guilds (s : State) (t : Txn) : (s.putTxn t).guilds = s.guilds := rfl
@[simp] theorem State.putTxn_tiers (s : State) (t : Txn) : (s.putTxn t).tiers = s.tiers := rfl
@[simp] theorem State.putTxn_nextTxn (s : State) (t : Txn) : (s.putTxn t).nextTxn = s.nextTxn := rfl
@[simp] theorem State.putTxn_nextIssue (s : State) (t : Txn) : (s.putTxn t).nextIssue = s.nextIssue := rfl
@[simp] theorem State.putTxn_bursts (s : State) (t : Txn) : (s.putTxn t).bursts = s.bursts := rfl
@[simp] theorem State.putTxn_nextBurst (s : State) (t : Txn) : (s.putTxn t).nextBurst = s.nextBurst := rfl
@[simp] theorem State.putTxn_nextDray (s : State) (t : Txn) : (s.putTxn t).nextDray = s.nextDray := rfl
@[simp] theorem State.putTxn_sets (s : State) (t : Txn) : (s.putTxn t).sets = s.sets := rfl
@[simp] theorem State.putTxn_setMasks (s : State) (t : Txn) : (s.putTxn t).setMasks = s.setMasks := rfl
@[simp] theorem State.putTxn_self (s : State) (t : Txn) : (s.putTxn t).self = s.self := rfl
@[simp] theorem State.putTxn_links (s : State) (t : Txn) : (s.putTxn t).links = s.links := rfl
@[simp] theorem State.putTxn_routes (s : State) (t : Txn) : (s.putTxn t).routes = s.routes := rfl
@[simp] theorem State.putTxn_landing (s : State) (t : Txn) : (s.putTxn t).landing = s.landing := rfl
@[simp] theorem State.putTxn_sqs (s : State) (t : Txn) : (s.putTxn t).sqs = s.sqs := rfl
@[simp] theorem State.putTxn_cqs (s : State) (t : Txn) : (s.putTxn t).cqs = s.cqs := rfl
@[simp] theorem State.putTxn_evq (s : State) (t : Txn) : (s.putTxn t).evq = s.evq := rfl
@[simp] theorem State.putTxn_cmds (s : State) (t : Txn) : (s.putTxn t).cmds = s.cmds := rfl
@[simp] theorem State.putTxn_nextCmd (s : State) (t : Txn) : (s.putTxn t).nextCmd = s.nextCmd := rfl
@[simp] theorem State.putTxn_occurrences (s : State) (t : Txn) : (s.putTxn t).occurrences = s.occurrences := rfl
@[simp] theorem State.putTxn_evPending (s : State) (t : Txn) : (s.putTxn t).evPending = s.evPending := rfl
@[simp] theorem State.putTxn_evCounts (s : State) (t : Txn) : (s.putTxn t).evCounts = s.evCounts := rfl
@[simp] theorem State.putTxn_port (s : State) (t : Txn) : (s.putTxn t).port = s.port := rfl
@[simp] theorem State.putTxn_hostMem (s : State) (t : Txn) : (s.putTxn t).hostMem = s.hostMem := rfl
@[simp] theorem State.putTxn_hostPoison (s : State) (t : Txn) : (s.putTxn t).hostPoison = s.hostPoison := rfl
@[simp] theorem State.putTxn_house (s : State) (t : Txn) : (s.putTxn t).house = s.house := rfl
@[simp] theorem State.putTxn_sec (s : State) (t : Txn) : (s.putTxn t).sec = s.sec := rfl
@[simp] theorem State.putTxn_fuses (s : State) (t : Txn) : (s.putTxn t).fuses = s.fuses := rfl
@[simp] theorem State.putTxn_flash (s : State) (t : Txn) : (s.putTxn t).flash = s.flash := rfl
@[simp] theorem State.putTxn_snapshot (s : State) (t : Txn) : (s.putTxn t).snapshot = s.snapshot := rfl
@[simp] theorem State.putTxn_restore (s : State) (t : Txn) : (s.putTxn t).restore = s.restore := rfl
@[simp] theorem State.putTxn_coll (s : State) (t : Txn) : (s.putTxn t).coll = s.coll := rfl
@[simp] theorem State.putTxn_unitCounters (s : State) (t : Txn) : (s.putTxn t).unitCounters = s.unitCounters := rfl
@[simp] theorem State.putTxn_bwCfg (s : State) (t : Txn) : (s.putTxn t).bwCfg = s.bwCfg := rfl
@[simp] theorem State.putTxn_bwLog (s : State) (t : Txn) : (s.putTxn t).bwLog = s.bwLog := rfl
@[simp] theorem State.putTxn_bwNow (s : State) (t : Txn) : (s.putTxn t).bwNow = s.bwNow := rfl
@[simp] theorem State.putTxn_bwLast (s : State) (t : Txn) : (s.putTxn t).bwLast = s.bwLast := rfl
@[simp] theorem State.putTxn_bwPeak (s : State) (t : Txn) : (s.putTxn t).bwPeak = s.bwPeak := rfl
@[simp] theorem State.putTxn_asks (s : State) (t : Txn) : (s.putTxn t).asks = s.asks := rfl
@[simp] theorem State.putTxn_free (s : State) (t : Txn) : (s.putTxn t).free = s.free := rfl
@[simp] theorem State.putTxn_pending (s : State) (t : Txn) : (s.putTxn t).pending = s.pending := rfl

/-! ### raise -/

@[simp] theorem State.raise_cores (s : State) (code : Nat) (ws : List Word) : (s.raise code ws).cores = s.cores := rfl
@[simp] theorem State.raise_guilds (s : State) (code : Nat) (ws : List Word) : (s.raise code ws).guilds = s.guilds := rfl
@[simp] theorem State.raise_tiers (s : State) (code : Nat) (ws : List Word) : (s.raise code ws).tiers = s.tiers := rfl
@[simp] theorem State.raise_txns (s : State) (code : Nat) (ws : List Word) : (s.raise code ws).txns = s.txns := rfl
@[simp] theorem State.raise_nextTxn (s : State) (code : Nat) (ws : List Word) : (s.raise code ws).nextTxn = s.nextTxn := rfl
@[simp] theorem State.raise_nextIssue (s : State) (code : Nat) (ws : List Word) : (s.raise code ws).nextIssue = s.nextIssue := rfl
@[simp] theorem State.raise_bursts (s : State) (code : Nat) (ws : List Word) : (s.raise code ws).bursts = s.bursts := rfl
@[simp] theorem State.raise_nextBurst (s : State) (code : Nat) (ws : List Word) : (s.raise code ws).nextBurst = s.nextBurst := rfl
@[simp] theorem State.raise_nextDray (s : State) (code : Nat) (ws : List Word) : (s.raise code ws).nextDray = s.nextDray := rfl
@[simp] theorem State.raise_sets (s : State) (code : Nat) (ws : List Word) : (s.raise code ws).sets = s.sets := rfl
@[simp] theorem State.raise_setMasks (s : State) (code : Nat) (ws : List Word) : (s.raise code ws).setMasks = s.setMasks := rfl
@[simp] theorem State.raise_self (s : State) (code : Nat) (ws : List Word) : (s.raise code ws).self = s.self := rfl
@[simp] theorem State.raise_links (s : State) (code : Nat) (ws : List Word) : (s.raise code ws).links = s.links := rfl
@[simp] theorem State.raise_routes (s : State) (code : Nat) (ws : List Word) : (s.raise code ws).routes = s.routes := rfl
@[simp] theorem State.raise_landing (s : State) (code : Nat) (ws : List Word) : (s.raise code ws).landing = s.landing := rfl
@[simp] theorem State.raise_sqs (s : State) (code : Nat) (ws : List Word) : (s.raise code ws).sqs = s.sqs := rfl
@[simp] theorem State.raise_cqs (s : State) (code : Nat) (ws : List Word) : (s.raise code ws).cqs = s.cqs := rfl
@[simp] theorem State.raise_evq (s : State) (code : Nat) (ws : List Word) : (s.raise code ws).evq = s.evq := rfl
@[simp] theorem State.raise_cmds (s : State) (code : Nat) (ws : List Word) : (s.raise code ws).cmds = s.cmds := rfl
@[simp] theorem State.raise_nextCmd (s : State) (code : Nat) (ws : List Word) : (s.raise code ws).nextCmd = s.nextCmd := rfl
@[simp] theorem State.raise_evPending (s : State) (code : Nat) (ws : List Word) : (s.raise code ws).evPending = s.evPending := rfl
@[simp] theorem State.raise_evCounts (s : State) (code : Nat) (ws : List Word) : (s.raise code ws).evCounts = s.evCounts := rfl
@[simp] theorem State.raise_port (s : State) (code : Nat) (ws : List Word) : (s.raise code ws).port = s.port := rfl
@[simp] theorem State.raise_hostMem (s : State) (code : Nat) (ws : List Word) : (s.raise code ws).hostMem = s.hostMem := rfl
@[simp] theorem State.raise_hostPoison (s : State) (code : Nat) (ws : List Word) : (s.raise code ws).hostPoison = s.hostPoison := rfl
@[simp] theorem State.raise_house (s : State) (code : Nat) (ws : List Word) : (s.raise code ws).house = s.house := rfl
@[simp] theorem State.raise_sec (s : State) (code : Nat) (ws : List Word) : (s.raise code ws).sec = s.sec := rfl
@[simp] theorem State.raise_fuses (s : State) (code : Nat) (ws : List Word) : (s.raise code ws).fuses = s.fuses := rfl
@[simp] theorem State.raise_flash (s : State) (code : Nat) (ws : List Word) : (s.raise code ws).flash = s.flash := rfl
@[simp] theorem State.raise_snapshot (s : State) (code : Nat) (ws : List Word) : (s.raise code ws).snapshot = s.snapshot := rfl
@[simp] theorem State.raise_restore (s : State) (code : Nat) (ws : List Word) : (s.raise code ws).restore = s.restore := rfl
@[simp] theorem State.raise_coll (s : State) (code : Nat) (ws : List Word) : (s.raise code ws).coll = s.coll := rfl
@[simp] theorem State.raise_unitCounters (s : State) (code : Nat) (ws : List Word) : (s.raise code ws).unitCounters = s.unitCounters := rfl
@[simp] theorem State.raise_bwCfg (s : State) (code : Nat) (ws : List Word) : (s.raise code ws).bwCfg = s.bwCfg := rfl
@[simp] theorem State.raise_bwLog (s : State) (code : Nat) (ws : List Word) : (s.raise code ws).bwLog = s.bwLog := rfl
@[simp] theorem State.raise_bwNow (s : State) (code : Nat) (ws : List Word) : (s.raise code ws).bwNow = s.bwNow := rfl
@[simp] theorem State.raise_bwLast (s : State) (code : Nat) (ws : List Word) : (s.raise code ws).bwLast = s.bwLast := rfl
@[simp] theorem State.raise_bwPeak (s : State) (code : Nat) (ws : List Word) : (s.raise code ws).bwPeak = s.bwPeak := rfl
@[simp] theorem State.raise_asks (s : State) (code : Nat) (ws : List Word) : (s.raise code ws).asks = s.asks := rfl
@[simp] theorem State.raise_free (s : State) (code : Nat) (ws : List Word) : (s.raise code ws).free = s.free := rfl
@[simp] theorem State.raise_pending (s : State) (code : Nat) (ws : List Word) : (s.raise code ws).pending = s.pending := rfl

/-! ### setSq -/

@[simp] theorem State.setSq_cores (s : State) (q : Nat) (r : SubRing) : (s.setSq q r).cores = s.cores := rfl
@[simp] theorem State.setSq_guilds (s : State) (q : Nat) (r : SubRing) : (s.setSq q r).guilds = s.guilds := rfl
@[simp] theorem State.setSq_tiers (s : State) (q : Nat) (r : SubRing) : (s.setSq q r).tiers = s.tiers := rfl
@[simp] theorem State.setSq_txns (s : State) (q : Nat) (r : SubRing) : (s.setSq q r).txns = s.txns := rfl
@[simp] theorem State.setSq_nextTxn (s : State) (q : Nat) (r : SubRing) : (s.setSq q r).nextTxn = s.nextTxn := rfl
@[simp] theorem State.setSq_nextIssue (s : State) (q : Nat) (r : SubRing) : (s.setSq q r).nextIssue = s.nextIssue := rfl
@[simp] theorem State.setSq_bursts (s : State) (q : Nat) (r : SubRing) : (s.setSq q r).bursts = s.bursts := rfl
@[simp] theorem State.setSq_nextBurst (s : State) (q : Nat) (r : SubRing) : (s.setSq q r).nextBurst = s.nextBurst := rfl
@[simp] theorem State.setSq_nextDray (s : State) (q : Nat) (r : SubRing) : (s.setSq q r).nextDray = s.nextDray := rfl
@[simp] theorem State.setSq_sets (s : State) (q : Nat) (r : SubRing) : (s.setSq q r).sets = s.sets := rfl
@[simp] theorem State.setSq_setMasks (s : State) (q : Nat) (r : SubRing) : (s.setSq q r).setMasks = s.setMasks := rfl
@[simp] theorem State.setSq_self (s : State) (q : Nat) (r : SubRing) : (s.setSq q r).self = s.self := rfl
@[simp] theorem State.setSq_links (s : State) (q : Nat) (r : SubRing) : (s.setSq q r).links = s.links := rfl
@[simp] theorem State.setSq_routes (s : State) (q : Nat) (r : SubRing) : (s.setSq q r).routes = s.routes := rfl
@[simp] theorem State.setSq_landing (s : State) (q : Nat) (r : SubRing) : (s.setSq q r).landing = s.landing := rfl
@[simp] theorem State.setSq_cqs (s : State) (q : Nat) (r : SubRing) : (s.setSq q r).cqs = s.cqs := rfl
@[simp] theorem State.setSq_evq (s : State) (q : Nat) (r : SubRing) : (s.setSq q r).evq = s.evq := rfl
@[simp] theorem State.setSq_cmds (s : State) (q : Nat) (r : SubRing) : (s.setSq q r).cmds = s.cmds := rfl
@[simp] theorem State.setSq_nextCmd (s : State) (q : Nat) (r : SubRing) : (s.setSq q r).nextCmd = s.nextCmd := rfl
@[simp] theorem State.setSq_occurrences (s : State) (q : Nat) (r : SubRing) : (s.setSq q r).occurrences = s.occurrences := rfl
@[simp] theorem State.setSq_evPending (s : State) (q : Nat) (r : SubRing) : (s.setSq q r).evPending = s.evPending := rfl
@[simp] theorem State.setSq_evCounts (s : State) (q : Nat) (r : SubRing) : (s.setSq q r).evCounts = s.evCounts := rfl
@[simp] theorem State.setSq_port (s : State) (q : Nat) (r : SubRing) : (s.setSq q r).port = s.port := rfl
@[simp] theorem State.setSq_hostMem (s : State) (q : Nat) (r : SubRing) : (s.setSq q r).hostMem = s.hostMem := rfl
@[simp] theorem State.setSq_hostPoison (s : State) (q : Nat) (r : SubRing) : (s.setSq q r).hostPoison = s.hostPoison := rfl
@[simp] theorem State.setSq_house (s : State) (q : Nat) (r : SubRing) : (s.setSq q r).house = s.house := rfl
@[simp] theorem State.setSq_sec (s : State) (q : Nat) (r : SubRing) : (s.setSq q r).sec = s.sec := rfl
@[simp] theorem State.setSq_fuses (s : State) (q : Nat) (r : SubRing) : (s.setSq q r).fuses = s.fuses := rfl
@[simp] theorem State.setSq_flash (s : State) (q : Nat) (r : SubRing) : (s.setSq q r).flash = s.flash := rfl
@[simp] theorem State.setSq_snapshot (s : State) (q : Nat) (r : SubRing) : (s.setSq q r).snapshot = s.snapshot := rfl
@[simp] theorem State.setSq_restore (s : State) (q : Nat) (r : SubRing) : (s.setSq q r).restore = s.restore := rfl
@[simp] theorem State.setSq_coll (s : State) (q : Nat) (r : SubRing) : (s.setSq q r).coll = s.coll := rfl
@[simp] theorem State.setSq_unitCounters (s : State) (q : Nat) (r : SubRing) : (s.setSq q r).unitCounters = s.unitCounters := rfl
@[simp] theorem State.setSq_bwCfg (s : State) (q : Nat) (r : SubRing) : (s.setSq q r).bwCfg = s.bwCfg := rfl
@[simp] theorem State.setSq_bwLog (s : State) (q : Nat) (r : SubRing) : (s.setSq q r).bwLog = s.bwLog := rfl
@[simp] theorem State.setSq_bwNow (s : State) (q : Nat) (r : SubRing) : (s.setSq q r).bwNow = s.bwNow := rfl
@[simp] theorem State.setSq_bwLast (s : State) (q : Nat) (r : SubRing) : (s.setSq q r).bwLast = s.bwLast := rfl
@[simp] theorem State.setSq_bwPeak (s : State) (q : Nat) (r : SubRing) : (s.setSq q r).bwPeak = s.bwPeak := rfl
@[simp] theorem State.setSq_asks (s : State) (q : Nat) (r : SubRing) : (s.setSq q r).asks = s.asks := rfl
@[simp] theorem State.setSq_free (s : State) (q : Nat) (r : SubRing) : (s.setSq q r).free = s.free := rfl
@[simp] theorem State.setSq_pending (s : State) (q : Nat) (r : SubRing) : (s.setSq q r).pending = s.pending := rfl

/-! ### setCq -/

@[simp] theorem State.setCq_cores (s : State) (q : Nat) (r : CompRing) : (s.setCq q r).cores = s.cores := rfl
@[simp] theorem State.setCq_guilds (s : State) (q : Nat) (r : CompRing) : (s.setCq q r).guilds = s.guilds := rfl
@[simp] theorem State.setCq_tiers (s : State) (q : Nat) (r : CompRing) : (s.setCq q r).tiers = s.tiers := rfl
@[simp] theorem State.setCq_txns (s : State) (q : Nat) (r : CompRing) : (s.setCq q r).txns = s.txns := rfl
@[simp] theorem State.setCq_nextTxn (s : State) (q : Nat) (r : CompRing) : (s.setCq q r).nextTxn = s.nextTxn := rfl
@[simp] theorem State.setCq_nextIssue (s : State) (q : Nat) (r : CompRing) : (s.setCq q r).nextIssue = s.nextIssue := rfl
@[simp] theorem State.setCq_bursts (s : State) (q : Nat) (r : CompRing) : (s.setCq q r).bursts = s.bursts := rfl
@[simp] theorem State.setCq_nextBurst (s : State) (q : Nat) (r : CompRing) : (s.setCq q r).nextBurst = s.nextBurst := rfl
@[simp] theorem State.setCq_nextDray (s : State) (q : Nat) (r : CompRing) : (s.setCq q r).nextDray = s.nextDray := rfl
@[simp] theorem State.setCq_sets (s : State) (q : Nat) (r : CompRing) : (s.setCq q r).sets = s.sets := rfl
@[simp] theorem State.setCq_setMasks (s : State) (q : Nat) (r : CompRing) : (s.setCq q r).setMasks = s.setMasks := rfl
@[simp] theorem State.setCq_self (s : State) (q : Nat) (r : CompRing) : (s.setCq q r).self = s.self := rfl
@[simp] theorem State.setCq_links (s : State) (q : Nat) (r : CompRing) : (s.setCq q r).links = s.links := rfl
@[simp] theorem State.setCq_routes (s : State) (q : Nat) (r : CompRing) : (s.setCq q r).routes = s.routes := rfl
@[simp] theorem State.setCq_landing (s : State) (q : Nat) (r : CompRing) : (s.setCq q r).landing = s.landing := rfl
@[simp] theorem State.setCq_sqs (s : State) (q : Nat) (r : CompRing) : (s.setCq q r).sqs = s.sqs := rfl
@[simp] theorem State.setCq_evq (s : State) (q : Nat) (r : CompRing) : (s.setCq q r).evq = s.evq := rfl
@[simp] theorem State.setCq_cmds (s : State) (q : Nat) (r : CompRing) : (s.setCq q r).cmds = s.cmds := rfl
@[simp] theorem State.setCq_nextCmd (s : State) (q : Nat) (r : CompRing) : (s.setCq q r).nextCmd = s.nextCmd := rfl
@[simp] theorem State.setCq_occurrences (s : State) (q : Nat) (r : CompRing) : (s.setCq q r).occurrences = s.occurrences := rfl
@[simp] theorem State.setCq_evPending (s : State) (q : Nat) (r : CompRing) : (s.setCq q r).evPending = s.evPending := rfl
@[simp] theorem State.setCq_evCounts (s : State) (q : Nat) (r : CompRing) : (s.setCq q r).evCounts = s.evCounts := rfl
@[simp] theorem State.setCq_port (s : State) (q : Nat) (r : CompRing) : (s.setCq q r).port = s.port := rfl
@[simp] theorem State.setCq_hostMem (s : State) (q : Nat) (r : CompRing) : (s.setCq q r).hostMem = s.hostMem := rfl
@[simp] theorem State.setCq_hostPoison (s : State) (q : Nat) (r : CompRing) : (s.setCq q r).hostPoison = s.hostPoison := rfl
@[simp] theorem State.setCq_house (s : State) (q : Nat) (r : CompRing) : (s.setCq q r).house = s.house := rfl
@[simp] theorem State.setCq_sec (s : State) (q : Nat) (r : CompRing) : (s.setCq q r).sec = s.sec := rfl
@[simp] theorem State.setCq_fuses (s : State) (q : Nat) (r : CompRing) : (s.setCq q r).fuses = s.fuses := rfl
@[simp] theorem State.setCq_flash (s : State) (q : Nat) (r : CompRing) : (s.setCq q r).flash = s.flash := rfl
@[simp] theorem State.setCq_snapshot (s : State) (q : Nat) (r : CompRing) : (s.setCq q r).snapshot = s.snapshot := rfl
@[simp] theorem State.setCq_restore (s : State) (q : Nat) (r : CompRing) : (s.setCq q r).restore = s.restore := rfl
@[simp] theorem State.setCq_coll (s : State) (q : Nat) (r : CompRing) : (s.setCq q r).coll = s.coll := rfl
@[simp] theorem State.setCq_unitCounters (s : State) (q : Nat) (r : CompRing) : (s.setCq q r).unitCounters = s.unitCounters := rfl
@[simp] theorem State.setCq_bwCfg (s : State) (q : Nat) (r : CompRing) : (s.setCq q r).bwCfg = s.bwCfg := rfl
@[simp] theorem State.setCq_bwLog (s : State) (q : Nat) (r : CompRing) : (s.setCq q r).bwLog = s.bwLog := rfl
@[simp] theorem State.setCq_bwNow (s : State) (q : Nat) (r : CompRing) : (s.setCq q r).bwNow = s.bwNow := rfl
@[simp] theorem State.setCq_bwLast (s : State) (q : Nat) (r : CompRing) : (s.setCq q r).bwLast = s.bwLast := rfl
@[simp] theorem State.setCq_bwPeak (s : State) (q : Nat) (r : CompRing) : (s.setCq q r).bwPeak = s.bwPeak := rfl
@[simp] theorem State.setCq_asks (s : State) (q : Nat) (r : CompRing) : (s.setCq q r).asks = s.asks := rfl
@[simp] theorem State.setCq_free (s : State) (q : Nat) (r : CompRing) : (s.setCq q r).free = s.free := rfl
@[simp] theorem State.setCq_pending (s : State) (q : Nat) (r : CompRing) : (s.setCq q r).pending = s.pending := rfl

/-! ### setDev -/

@[simp] theorem State.setDev_cores (s : State) (d : DevState) : (s.setDev d).cores = s.cores := rfl
@[simp] theorem State.setDev_guilds (s : State) (d : DevState) : (s.setDev d).guilds = s.guilds := rfl
@[simp] theorem State.setDev_tiers (s : State) (d : DevState) : (s.setDev d).tiers = s.tiers := rfl
@[simp] theorem State.setDev_txns (s : State) (d : DevState) : (s.setDev d).txns = s.txns := rfl
@[simp] theorem State.setDev_nextTxn (s : State) (d : DevState) : (s.setDev d).nextTxn = s.nextTxn := rfl
@[simp] theorem State.setDev_nextIssue (s : State) (d : DevState) : (s.setDev d).nextIssue = s.nextIssue := rfl
@[simp] theorem State.setDev_bursts (s : State) (d : DevState) : (s.setDev d).bursts = s.bursts := rfl
@[simp] theorem State.setDev_nextBurst (s : State) (d : DevState) : (s.setDev d).nextBurst = s.nextBurst := rfl
@[simp] theorem State.setDev_nextDray (s : State) (d : DevState) : (s.setDev d).nextDray = s.nextDray := rfl
@[simp] theorem State.setDev_sets (s : State) (d : DevState) : (s.setDev d).sets = s.sets := rfl
@[simp] theorem State.setDev_setMasks (s : State) (d : DevState) : (s.setDev d).setMasks = s.setMasks := rfl
@[simp] theorem State.setDev_self (s : State) (d : DevState) : (s.setDev d).self = s.self := rfl
@[simp] theorem State.setDev_links (s : State) (d : DevState) : (s.setDev d).links = s.links := rfl
@[simp] theorem State.setDev_routes (s : State) (d : DevState) : (s.setDev d).routes = s.routes := rfl
@[simp] theorem State.setDev_landing (s : State) (d : DevState) : (s.setDev d).landing = s.landing := rfl
@[simp] theorem State.setDev_sqs (s : State) (d : DevState) : (s.setDev d).sqs = s.sqs := rfl
@[simp] theorem State.setDev_cqs (s : State) (d : DevState) : (s.setDev d).cqs = s.cqs := rfl
@[simp] theorem State.setDev_evq (s : State) (d : DevState) : (s.setDev d).evq = s.evq := rfl
@[simp] theorem State.setDev_cmds (s : State) (d : DevState) : (s.setDev d).cmds = s.cmds := rfl
@[simp] theorem State.setDev_nextCmd (s : State) (d : DevState) : (s.setDev d).nextCmd = s.nextCmd := rfl
@[simp] theorem State.setDev_occurrences (s : State) (d : DevState) : (s.setDev d).occurrences = s.occurrences := rfl
@[simp] theorem State.setDev_evPending (s : State) (d : DevState) : (s.setDev d).evPending = s.evPending := rfl
@[simp] theorem State.setDev_evCounts (s : State) (d : DevState) : (s.setDev d).evCounts = s.evCounts := rfl
@[simp] theorem State.setDev_port (s : State) (d : DevState) : (s.setDev d).port = s.port := rfl
@[simp] theorem State.setDev_hostMem (s : State) (d : DevState) : (s.setDev d).hostMem = s.hostMem := rfl
@[simp] theorem State.setDev_hostPoison (s : State) (d : DevState) : (s.setDev d).hostPoison = s.hostPoison := rfl
@[simp] theorem State.setDev_sec (s : State) (d : DevState) : (s.setDev d).sec = s.sec := rfl
@[simp] theorem State.setDev_fuses (s : State) (d : DevState) : (s.setDev d).fuses = s.fuses := rfl
@[simp] theorem State.setDev_flash (s : State) (d : DevState) : (s.setDev d).flash = s.flash := rfl
@[simp] theorem State.setDev_snapshot (s : State) (d : DevState) : (s.setDev d).snapshot = s.snapshot := rfl
@[simp] theorem State.setDev_restore (s : State) (d : DevState) : (s.setDev d).restore = s.restore := rfl
@[simp] theorem State.setDev_coll (s : State) (d : DevState) : (s.setDev d).coll = s.coll := rfl
@[simp] theorem State.setDev_unitCounters (s : State) (d : DevState) : (s.setDev d).unitCounters = s.unitCounters := rfl
@[simp] theorem State.setDev_bwCfg (s : State) (d : DevState) : (s.setDev d).bwCfg = s.bwCfg := rfl
@[simp] theorem State.setDev_bwLog (s : State) (d : DevState) : (s.setDev d).bwLog = s.bwLog := rfl
@[simp] theorem State.setDev_bwNow (s : State) (d : DevState) : (s.setDev d).bwNow = s.bwNow := rfl
@[simp] theorem State.setDev_bwLast (s : State) (d : DevState) : (s.setDev d).bwLast = s.bwLast := rfl
@[simp] theorem State.setDev_bwPeak (s : State) (d : DevState) : (s.setDev d).bwPeak = s.bwPeak := rfl
@[simp] theorem State.setDev_asks (s : State) (d : DevState) : (s.setDev d).asks = s.asks := rfl
@[simp] theorem State.setDev_free (s : State) (d : DevState) : (s.setDev d).free = s.free := rfl
@[simp] theorem State.setDev_pending (s : State) (d : DevState) : (s.setDev d).pending = s.pending := rfl

/-! ### dropCmd -/

@[simp] theorem State.dropCmd_cores (s : State) (n : Nat) : (s.dropCmd n).cores = s.cores := rfl
@[simp] theorem State.dropCmd_guilds (s : State) (n : Nat) : (s.dropCmd n).guilds = s.guilds := rfl
@[simp] theorem State.dropCmd_tiers (s : State) (n : Nat) : (s.dropCmd n).tiers = s.tiers := rfl
@[simp] theorem State.dropCmd_txns (s : State) (n : Nat) : (s.dropCmd n).txns = s.txns := rfl
@[simp] theorem State.dropCmd_nextTxn (s : State) (n : Nat) : (s.dropCmd n).nextTxn = s.nextTxn := rfl
@[simp] theorem State.dropCmd_nextIssue (s : State) (n : Nat) : (s.dropCmd n).nextIssue = s.nextIssue := rfl
@[simp] theorem State.dropCmd_bursts (s : State) (n : Nat) : (s.dropCmd n).bursts = s.bursts := rfl
@[simp] theorem State.dropCmd_nextBurst (s : State) (n : Nat) : (s.dropCmd n).nextBurst = s.nextBurst := rfl
@[simp] theorem State.dropCmd_nextDray (s : State) (n : Nat) : (s.dropCmd n).nextDray = s.nextDray := rfl
@[simp] theorem State.dropCmd_sets (s : State) (n : Nat) : (s.dropCmd n).sets = s.sets := rfl
@[simp] theorem State.dropCmd_setMasks (s : State) (n : Nat) : (s.dropCmd n).setMasks = s.setMasks := rfl
@[simp] theorem State.dropCmd_self (s : State) (n : Nat) : (s.dropCmd n).self = s.self := rfl
@[simp] theorem State.dropCmd_links (s : State) (n : Nat) : (s.dropCmd n).links = s.links := rfl
@[simp] theorem State.dropCmd_routes (s : State) (n : Nat) : (s.dropCmd n).routes = s.routes := rfl
@[simp] theorem State.dropCmd_landing (s : State) (n : Nat) : (s.dropCmd n).landing = s.landing := rfl
@[simp] theorem State.dropCmd_sqs (s : State) (n : Nat) : (s.dropCmd n).sqs = s.sqs := rfl
@[simp] theorem State.dropCmd_cqs (s : State) (n : Nat) : (s.dropCmd n).cqs = s.cqs := rfl
@[simp] theorem State.dropCmd_evq (s : State) (n : Nat) : (s.dropCmd n).evq = s.evq := rfl
@[simp] theorem State.dropCmd_nextCmd (s : State) (n : Nat) : (s.dropCmd n).nextCmd = s.nextCmd := rfl
@[simp] theorem State.dropCmd_occurrences (s : State) (n : Nat) : (s.dropCmd n).occurrences = s.occurrences := rfl
@[simp] theorem State.dropCmd_evPending (s : State) (n : Nat) : (s.dropCmd n).evPending = s.evPending := rfl
@[simp] theorem State.dropCmd_evCounts (s : State) (n : Nat) : (s.dropCmd n).evCounts = s.evCounts := rfl
@[simp] theorem State.dropCmd_port (s : State) (n : Nat) : (s.dropCmd n).port = s.port := rfl
@[simp] theorem State.dropCmd_hostMem (s : State) (n : Nat) : (s.dropCmd n).hostMem = s.hostMem := rfl
@[simp] theorem State.dropCmd_hostPoison (s : State) (n : Nat) : (s.dropCmd n).hostPoison = s.hostPoison := rfl
@[simp] theorem State.dropCmd_house (s : State) (n : Nat) : (s.dropCmd n).house = s.house := rfl
@[simp] theorem State.dropCmd_sec (s : State) (n : Nat) : (s.dropCmd n).sec = s.sec := rfl
@[simp] theorem State.dropCmd_fuses (s : State) (n : Nat) : (s.dropCmd n).fuses = s.fuses := rfl
@[simp] theorem State.dropCmd_flash (s : State) (n : Nat) : (s.dropCmd n).flash = s.flash := rfl
@[simp] theorem State.dropCmd_snapshot (s : State) (n : Nat) : (s.dropCmd n).snapshot = s.snapshot := rfl
@[simp] theorem State.dropCmd_restore (s : State) (n : Nat) : (s.dropCmd n).restore = s.restore := rfl
@[simp] theorem State.dropCmd_coll (s : State) (n : Nat) : (s.dropCmd n).coll = s.coll := rfl
@[simp] theorem State.dropCmd_unitCounters (s : State) (n : Nat) : (s.dropCmd n).unitCounters = s.unitCounters := rfl
@[simp] theorem State.dropCmd_bwCfg (s : State) (n : Nat) : (s.dropCmd n).bwCfg = s.bwCfg := rfl
@[simp] theorem State.dropCmd_bwLog (s : State) (n : Nat) : (s.dropCmd n).bwLog = s.bwLog := rfl
@[simp] theorem State.dropCmd_bwNow (s : State) (n : Nat) : (s.dropCmd n).bwNow = s.bwNow := rfl
@[simp] theorem State.dropCmd_bwLast (s : State) (n : Nat) : (s.dropCmd n).bwLast = s.bwLast := rfl
@[simp] theorem State.dropCmd_bwPeak (s : State) (n : Nat) : (s.dropCmd n).bwPeak = s.bwPeak := rfl
@[simp] theorem State.dropCmd_asks (s : State) (n : Nat) : (s.dropCmd n).asks = s.asks := rfl
@[simp] theorem State.dropCmd_free (s : State) (n : Nat) : (s.dropCmd n).free = s.free := rfl
@[simp] theorem State.dropCmd_pending (s : State) (n : Nat) : (s.dropCmd n).pending = s.pending := rfl

/-! ### startCmd -/

@[simp] theorem State.startCmd_cores (s : State) (c : Cmd) (p : CmdPhase) : (s.startCmd c p).cores = s.cores := rfl
@[simp] theorem State.startCmd_guilds (s : State) (c : Cmd) (p : CmdPhase) : (s.startCmd c p).guilds = s.guilds := rfl
@[simp] theorem State.startCmd_tiers (s : State) (c : Cmd) (p : CmdPhase) : (s.startCmd c p).tiers = s.tiers := rfl
@[simp] theorem State.startCmd_txns (s : State) (c : Cmd) (p : CmdPhase) : (s.startCmd c p).txns = s.txns := rfl
@[simp] theorem State.startCmd_nextTxn (s : State) (c : Cmd) (p : CmdPhase) : (s.startCmd c p).nextTxn = s.nextTxn := rfl
@[simp] theorem State.startCmd_nextIssue (s : State) (c : Cmd) (p : CmdPhase) : (s.startCmd c p).nextIssue = s.nextIssue := rfl
@[simp] theorem State.startCmd_bursts (s : State) (c : Cmd) (p : CmdPhase) : (s.startCmd c p).bursts = s.bursts := rfl
@[simp] theorem State.startCmd_nextBurst (s : State) (c : Cmd) (p : CmdPhase) : (s.startCmd c p).nextBurst = s.nextBurst := rfl
@[simp] theorem State.startCmd_nextDray (s : State) (c : Cmd) (p : CmdPhase) : (s.startCmd c p).nextDray = s.nextDray := rfl
@[simp] theorem State.startCmd_sets (s : State) (c : Cmd) (p : CmdPhase) : (s.startCmd c p).sets = s.sets := rfl
@[simp] theorem State.startCmd_setMasks (s : State) (c : Cmd) (p : CmdPhase) : (s.startCmd c p).setMasks = s.setMasks := rfl
@[simp] theorem State.startCmd_self (s : State) (c : Cmd) (p : CmdPhase) : (s.startCmd c p).self = s.self := rfl
@[simp] theorem State.startCmd_links (s : State) (c : Cmd) (p : CmdPhase) : (s.startCmd c p).links = s.links := rfl
@[simp] theorem State.startCmd_routes (s : State) (c : Cmd) (p : CmdPhase) : (s.startCmd c p).routes = s.routes := rfl
@[simp] theorem State.startCmd_landing (s : State) (c : Cmd) (p : CmdPhase) : (s.startCmd c p).landing = s.landing := rfl
@[simp] theorem State.startCmd_sqs (s : State) (c : Cmd) (p : CmdPhase) : (s.startCmd c p).sqs = s.sqs := rfl
@[simp] theorem State.startCmd_cqs (s : State) (c : Cmd) (p : CmdPhase) : (s.startCmd c p).cqs = s.cqs := rfl
@[simp] theorem State.startCmd_evq (s : State) (c : Cmd) (p : CmdPhase) : (s.startCmd c p).evq = s.evq := rfl
@[simp] theorem State.startCmd_nextCmd (s : State) (c : Cmd) (p : CmdPhase) : (s.startCmd c p).nextCmd = s.nextCmd := rfl
@[simp] theorem State.startCmd_occurrences (s : State) (c : Cmd) (p : CmdPhase) : (s.startCmd c p).occurrences = s.occurrences := rfl
@[simp] theorem State.startCmd_evPending (s : State) (c : Cmd) (p : CmdPhase) : (s.startCmd c p).evPending = s.evPending := rfl
@[simp] theorem State.startCmd_evCounts (s : State) (c : Cmd) (p : CmdPhase) : (s.startCmd c p).evCounts = s.evCounts := rfl
@[simp] theorem State.startCmd_port (s : State) (c : Cmd) (p : CmdPhase) : (s.startCmd c p).port = s.port := rfl
@[simp] theorem State.startCmd_hostMem (s : State) (c : Cmd) (p : CmdPhase) : (s.startCmd c p).hostMem = s.hostMem := rfl
@[simp] theorem State.startCmd_hostPoison (s : State) (c : Cmd) (p : CmdPhase) : (s.startCmd c p).hostPoison = s.hostPoison := rfl
@[simp] theorem State.startCmd_house (s : State) (c : Cmd) (p : CmdPhase) : (s.startCmd c p).house = s.house := rfl
@[simp] theorem State.startCmd_sec (s : State) (c : Cmd) (p : CmdPhase) : (s.startCmd c p).sec = s.sec := rfl
@[simp] theorem State.startCmd_fuses (s : State) (c : Cmd) (p : CmdPhase) : (s.startCmd c p).fuses = s.fuses := rfl
@[simp] theorem State.startCmd_flash (s : State) (c : Cmd) (p : CmdPhase) : (s.startCmd c p).flash = s.flash := rfl
@[simp] theorem State.startCmd_snapshot (s : State) (c : Cmd) (p : CmdPhase) : (s.startCmd c p).snapshot = s.snapshot := rfl
@[simp] theorem State.startCmd_restore (s : State) (c : Cmd) (p : CmdPhase) : (s.startCmd c p).restore = s.restore := rfl
@[simp] theorem State.startCmd_coll (s : State) (c : Cmd) (p : CmdPhase) : (s.startCmd c p).coll = s.coll := rfl
@[simp] theorem State.startCmd_unitCounters (s : State) (c : Cmd) (p : CmdPhase) : (s.startCmd c p).unitCounters = s.unitCounters := rfl
@[simp] theorem State.startCmd_bwCfg (s : State) (c : Cmd) (p : CmdPhase) : (s.startCmd c p).bwCfg = s.bwCfg := rfl
@[simp] theorem State.startCmd_bwLog (s : State) (c : Cmd) (p : CmdPhase) : (s.startCmd c p).bwLog = s.bwLog := rfl
@[simp] theorem State.startCmd_bwNow (s : State) (c : Cmd) (p : CmdPhase) : (s.startCmd c p).bwNow = s.bwNow := rfl
@[simp] theorem State.startCmd_bwLast (s : State) (c : Cmd) (p : CmdPhase) : (s.startCmd c p).bwLast = s.bwLast := rfl
@[simp] theorem State.startCmd_bwPeak (s : State) (c : Cmd) (p : CmdPhase) : (s.startCmd c p).bwPeak = s.bwPeak := rfl
@[simp] theorem State.startCmd_asks (s : State) (c : Cmd) (p : CmdPhase) : (s.startCmd c p).asks = s.asks := rfl
@[simp] theorem State.startCmd_free (s : State) (c : Cmd) (p : CmdPhase) : (s.startCmd c p).free = s.free := rfl
@[simp] theorem State.startCmd_pending (s : State) (c : Cmd) (p : CmdPhase) : (s.startCmd c p).pending = s.pending := rfl

/-! ### answered -/

@[simp] theorem State.answered_cores (s : State) (a : Answer) : (s.answered a).cores = s.cores := rfl
@[simp] theorem State.answered_guilds (s : State) (a : Answer) : (s.answered a).guilds = s.guilds := rfl
@[simp] theorem State.answered_tiers (s : State) (a : Answer) : (s.answered a).tiers = s.tiers := rfl
@[simp] theorem State.answered_txns (s : State) (a : Answer) : (s.answered a).txns = s.txns := rfl
@[simp] theorem State.answered_nextTxn (s : State) (a : Answer) : (s.answered a).nextTxn = s.nextTxn := rfl
@[simp] theorem State.answered_nextIssue (s : State) (a : Answer) : (s.answered a).nextIssue = s.nextIssue := rfl
@[simp] theorem State.answered_bursts (s : State) (a : Answer) : (s.answered a).bursts = s.bursts := rfl
@[simp] theorem State.answered_nextBurst (s : State) (a : Answer) : (s.answered a).nextBurst = s.nextBurst := rfl
@[simp] theorem State.answered_nextDray (s : State) (a : Answer) : (s.answered a).nextDray = s.nextDray := rfl
@[simp] theorem State.answered_sets (s : State) (a : Answer) : (s.answered a).sets = s.sets := rfl
@[simp] theorem State.answered_setMasks (s : State) (a : Answer) : (s.answered a).setMasks = s.setMasks := rfl
@[simp] theorem State.answered_self (s : State) (a : Answer) : (s.answered a).self = s.self := rfl
@[simp] theorem State.answered_links (s : State) (a : Answer) : (s.answered a).links = s.links := rfl
@[simp] theorem State.answered_routes (s : State) (a : Answer) : (s.answered a).routes = s.routes := rfl
@[simp] theorem State.answered_landing (s : State) (a : Answer) : (s.answered a).landing = s.landing := rfl
@[simp] theorem State.answered_sqs (s : State) (a : Answer) : (s.answered a).sqs = s.sqs := rfl
@[simp] theorem State.answered_cqs (s : State) (a : Answer) : (s.answered a).cqs = s.cqs := rfl
@[simp] theorem State.answered_evq (s : State) (a : Answer) : (s.answered a).evq = s.evq := rfl
@[simp] theorem State.answered_cmds (s : State) (a : Answer) : (s.answered a).cmds = s.cmds := rfl
@[simp] theorem State.answered_nextCmd (s : State) (a : Answer) : (s.answered a).nextCmd = s.nextCmd := rfl
@[simp] theorem State.answered_occurrences (s : State) (a : Answer) : (s.answered a).occurrences = s.occurrences := rfl
@[simp] theorem State.answered_evPending (s : State) (a : Answer) : (s.answered a).evPending = s.evPending := rfl
@[simp] theorem State.answered_evCounts (s : State) (a : Answer) : (s.answered a).evCounts = s.evCounts := rfl
@[simp] theorem State.answered_hostMem (s : State) (a : Answer) : (s.answered a).hostMem = s.hostMem := rfl
@[simp] theorem State.answered_hostPoison (s : State) (a : Answer) : (s.answered a).hostPoison = s.hostPoison := rfl
@[simp] theorem State.answered_house (s : State) (a : Answer) : (s.answered a).house = s.house := rfl
@[simp] theorem State.answered_sec (s : State) (a : Answer) : (s.answered a).sec = s.sec := rfl
@[simp] theorem State.answered_fuses (s : State) (a : Answer) : (s.answered a).fuses = s.fuses := rfl
@[simp] theorem State.answered_flash (s : State) (a : Answer) : (s.answered a).flash = s.flash := rfl
@[simp] theorem State.answered_snapshot (s : State) (a : Answer) : (s.answered a).snapshot = s.snapshot := rfl
@[simp] theorem State.answered_restore (s : State) (a : Answer) : (s.answered a).restore = s.restore := rfl
@[simp] theorem State.answered_coll (s : State) (a : Answer) : (s.answered a).coll = s.coll := rfl
@[simp] theorem State.answered_unitCounters (s : State) (a : Answer) : (s.answered a).unitCounters = s.unitCounters := rfl
@[simp] theorem State.answered_bwCfg (s : State) (a : Answer) : (s.answered a).bwCfg = s.bwCfg := rfl
@[simp] theorem State.answered_bwLog (s : State) (a : Answer) : (s.answered a).bwLog = s.bwLog := rfl
@[simp] theorem State.answered_bwNow (s : State) (a : Answer) : (s.answered a).bwNow = s.bwNow := rfl
@[simp] theorem State.answered_bwLast (s : State) (a : Answer) : (s.answered a).bwLast = s.bwLast := rfl
@[simp] theorem State.answered_bwPeak (s : State) (a : Answer) : (s.answered a).bwPeak = s.bwPeak := rfl
@[simp] theorem State.answered_asks (s : State) (a : Answer) : (s.answered a).asks = s.asks := rfl
@[simp] theorem State.answered_free (s : State) (a : Answer) : (s.answered a).free = s.free := rfl
@[simp] theorem State.answered_pending (s : State) (a : Answer) : (s.answered a).pending = s.pending := rfl

/-! ### setEventPending -/

@[simp] theorem State.setEventPending_cores (s : State) (c : Nat) : (s.setEventPending c).cores = s.cores := rfl
@[simp] theorem State.setEventPending_guilds (s : State) (c : Nat) : (s.setEventPending c).guilds = s.guilds := rfl
@[simp] theorem State.setEventPending_tiers (s : State) (c : Nat) : (s.setEventPending c).tiers = s.tiers := rfl
@[simp] theorem State.setEventPending_txns (s : State) (c : Nat) : (s.setEventPending c).txns = s.txns := rfl
@[simp] theorem State.setEventPending_nextTxn (s : State) (c : Nat) : (s.setEventPending c).nextTxn = s.nextTxn := rfl
@[simp] theorem State.setEventPending_nextIssue (s : State) (c : Nat) : (s.setEventPending c).nextIssue = s.nextIssue := rfl
@[simp] theorem State.setEventPending_bursts (s : State) (c : Nat) : (s.setEventPending c).bursts = s.bursts := rfl
@[simp] theorem State.setEventPending_nextBurst (s : State) (c : Nat) : (s.setEventPending c).nextBurst = s.nextBurst := rfl
@[simp] theorem State.setEventPending_nextDray (s : State) (c : Nat) : (s.setEventPending c).nextDray = s.nextDray := rfl
@[simp] theorem State.setEventPending_sets (s : State) (c : Nat) : (s.setEventPending c).sets = s.sets := rfl
@[simp] theorem State.setEventPending_setMasks (s : State) (c : Nat) : (s.setEventPending c).setMasks = s.setMasks := rfl
@[simp] theorem State.setEventPending_self (s : State) (c : Nat) : (s.setEventPending c).self = s.self := rfl
@[simp] theorem State.setEventPending_links (s : State) (c : Nat) : (s.setEventPending c).links = s.links := rfl
@[simp] theorem State.setEventPending_routes (s : State) (c : Nat) : (s.setEventPending c).routes = s.routes := rfl
@[simp] theorem State.setEventPending_landing (s : State) (c : Nat) : (s.setEventPending c).landing = s.landing := rfl
@[simp] theorem State.setEventPending_sqs (s : State) (c : Nat) : (s.setEventPending c).sqs = s.sqs := rfl
@[simp] theorem State.setEventPending_cqs (s : State) (c : Nat) : (s.setEventPending c).cqs = s.cqs := rfl
@[simp] theorem State.setEventPending_evq (s : State) (c : Nat) : (s.setEventPending c).evq = s.evq := rfl
@[simp] theorem State.setEventPending_cmds (s : State) (c : Nat) : (s.setEventPending c).cmds = s.cmds := rfl
@[simp] theorem State.setEventPending_nextCmd (s : State) (c : Nat) : (s.setEventPending c).nextCmd = s.nextCmd := rfl
@[simp] theorem State.setEventPending_occurrences (s : State) (c : Nat) : (s.setEventPending c).occurrences = s.occurrences := rfl
@[simp] theorem State.setEventPending_evCounts (s : State) (c : Nat) : (s.setEventPending c).evCounts = s.evCounts := rfl
@[simp] theorem State.setEventPending_port (s : State) (c : Nat) : (s.setEventPending c).port = s.port := rfl
@[simp] theorem State.setEventPending_hostMem (s : State) (c : Nat) : (s.setEventPending c).hostMem = s.hostMem := rfl
@[simp] theorem State.setEventPending_hostPoison (s : State) (c : Nat) : (s.setEventPending c).hostPoison = s.hostPoison := rfl
@[simp] theorem State.setEventPending_house (s : State) (c : Nat) : (s.setEventPending c).house = s.house := rfl
@[simp] theorem State.setEventPending_sec (s : State) (c : Nat) : (s.setEventPending c).sec = s.sec := rfl
@[simp] theorem State.setEventPending_fuses (s : State) (c : Nat) : (s.setEventPending c).fuses = s.fuses := rfl
@[simp] theorem State.setEventPending_flash (s : State) (c : Nat) : (s.setEventPending c).flash = s.flash := rfl
@[simp] theorem State.setEventPending_snapshot (s : State) (c : Nat) : (s.setEventPending c).snapshot = s.snapshot := rfl
@[simp] theorem State.setEventPending_restore (s : State) (c : Nat) : (s.setEventPending c).restore = s.restore := rfl
@[simp] theorem State.setEventPending_coll (s : State) (c : Nat) : (s.setEventPending c).coll = s.coll := rfl
@[simp] theorem State.setEventPending_unitCounters (s : State) (c : Nat) : (s.setEventPending c).unitCounters = s.unitCounters := rfl
@[simp] theorem State.setEventPending_bwCfg (s : State) (c : Nat) : (s.setEventPending c).bwCfg = s.bwCfg := rfl
@[simp] theorem State.setEventPending_bwLog (s : State) (c : Nat) : (s.setEventPending c).bwLog = s.bwLog := rfl
@[simp] theorem State.setEventPending_bwNow (s : State) (c : Nat) : (s.setEventPending c).bwNow = s.bwNow := rfl
@[simp] theorem State.setEventPending_bwLast (s : State) (c : Nat) : (s.setEventPending c).bwLast = s.bwLast := rfl
@[simp] theorem State.setEventPending_bwPeak (s : State) (c : Nat) : (s.setEventPending c).bwPeak = s.bwPeak := rfl
@[simp] theorem State.setEventPending_asks (s : State) (c : Nat) : (s.setEventPending c).asks = s.asks := rfl
@[simp] theorem State.setEventPending_free (s : State) (c : Nat) : (s.setEventPending c).free = s.free := rfl
@[simp] theorem State.setEventPending_pending (s : State) (c : Nat) : (s.setEventPending c).pending = s.pending := rfl

/-! ### countEvent -/

@[simp] theorem State.countEvent_cores (s : State) (c : Nat) : (s.countEvent c).cores = s.cores := rfl
@[simp] theorem State.countEvent_guilds (s : State) (c : Nat) : (s.countEvent c).guilds = s.guilds := rfl
@[simp] theorem State.countEvent_tiers (s : State) (c : Nat) : (s.countEvent c).tiers = s.tiers := rfl
@[simp] theorem State.countEvent_txns (s : State) (c : Nat) : (s.countEvent c).txns = s.txns := rfl
@[simp] theorem State.countEvent_nextTxn (s : State) (c : Nat) : (s.countEvent c).nextTxn = s.nextTxn := rfl
@[simp] theorem State.countEvent_nextIssue (s : State) (c : Nat) : (s.countEvent c).nextIssue = s.nextIssue := rfl
@[simp] theorem State.countEvent_bursts (s : State) (c : Nat) : (s.countEvent c).bursts = s.bursts := rfl
@[simp] theorem State.countEvent_nextBurst (s : State) (c : Nat) : (s.countEvent c).nextBurst = s.nextBurst := rfl
@[simp] theorem State.countEvent_nextDray (s : State) (c : Nat) : (s.countEvent c).nextDray = s.nextDray := rfl
@[simp] theorem State.countEvent_sets (s : State) (c : Nat) : (s.countEvent c).sets = s.sets := rfl
@[simp] theorem State.countEvent_setMasks (s : State) (c : Nat) : (s.countEvent c).setMasks = s.setMasks := rfl
@[simp] theorem State.countEvent_self (s : State) (c : Nat) : (s.countEvent c).self = s.self := rfl
@[simp] theorem State.countEvent_links (s : State) (c : Nat) : (s.countEvent c).links = s.links := rfl
@[simp] theorem State.countEvent_routes (s : State) (c : Nat) : (s.countEvent c).routes = s.routes := rfl
@[simp] theorem State.countEvent_landing (s : State) (c : Nat) : (s.countEvent c).landing = s.landing := rfl
@[simp] theorem State.countEvent_sqs (s : State) (c : Nat) : (s.countEvent c).sqs = s.sqs := rfl
@[simp] theorem State.countEvent_cqs (s : State) (c : Nat) : (s.countEvent c).cqs = s.cqs := rfl
@[simp] theorem State.countEvent_evq (s : State) (c : Nat) : (s.countEvent c).evq = s.evq := rfl
@[simp] theorem State.countEvent_cmds (s : State) (c : Nat) : (s.countEvent c).cmds = s.cmds := rfl
@[simp] theorem State.countEvent_nextCmd (s : State) (c : Nat) : (s.countEvent c).nextCmd = s.nextCmd := rfl
@[simp] theorem State.countEvent_occurrences (s : State) (c : Nat) : (s.countEvent c).occurrences = s.occurrences := rfl
@[simp] theorem State.countEvent_evPending (s : State) (c : Nat) : (s.countEvent c).evPending = s.evPending := rfl
@[simp] theorem State.countEvent_port (s : State) (c : Nat) : (s.countEvent c).port = s.port := rfl
@[simp] theorem State.countEvent_hostMem (s : State) (c : Nat) : (s.countEvent c).hostMem = s.hostMem := rfl
@[simp] theorem State.countEvent_hostPoison (s : State) (c : Nat) : (s.countEvent c).hostPoison = s.hostPoison := rfl
@[simp] theorem State.countEvent_house (s : State) (c : Nat) : (s.countEvent c).house = s.house := rfl
@[simp] theorem State.countEvent_sec (s : State) (c : Nat) : (s.countEvent c).sec = s.sec := rfl
@[simp] theorem State.countEvent_fuses (s : State) (c : Nat) : (s.countEvent c).fuses = s.fuses := rfl
@[simp] theorem State.countEvent_flash (s : State) (c : Nat) : (s.countEvent c).flash = s.flash := rfl
@[simp] theorem State.countEvent_snapshot (s : State) (c : Nat) : (s.countEvent c).snapshot = s.snapshot := rfl
@[simp] theorem State.countEvent_restore (s : State) (c : Nat) : (s.countEvent c).restore = s.restore := rfl
@[simp] theorem State.countEvent_coll (s : State) (c : Nat) : (s.countEvent c).coll = s.coll := rfl
@[simp] theorem State.countEvent_unitCounters (s : State) (c : Nat) : (s.countEvent c).unitCounters = s.unitCounters := rfl
@[simp] theorem State.countEvent_bwCfg (s : State) (c : Nat) : (s.countEvent c).bwCfg = s.bwCfg := rfl
@[simp] theorem State.countEvent_bwLog (s : State) (c : Nat) : (s.countEvent c).bwLog = s.bwLog := rfl
@[simp] theorem State.countEvent_bwNow (s : State) (c : Nat) : (s.countEvent c).bwNow = s.bwNow := rfl
@[simp] theorem State.countEvent_bwLast (s : State) (c : Nat) : (s.countEvent c).bwLast = s.bwLast := rfl
@[simp] theorem State.countEvent_bwPeak (s : State) (c : Nat) : (s.countEvent c).bwPeak = s.bwPeak := rfl
@[simp] theorem State.countEvent_asks (s : State) (c : Nat) : (s.countEvent c).asks = s.asks := rfl
@[simp] theorem State.countEvent_free (s : State) (c : Nat) : (s.countEvent c).free = s.free := rfl
@[simp] theorem State.countEvent_pending (s : State) (c : Nat) : (s.countEvent c).pending = s.pending := rfl

/-! ### landCore -/

@[simp] theorem State.landCore_guilds (s : State) (c : Nat) (e : Eff) : (s.landCore c e).guilds = s.guilds := rfl
@[simp] theorem State.landCore_tiers (s : State) (c : Nat) (e : Eff) : (s.landCore c e).tiers = s.tiers := rfl
@[simp] theorem State.landCore_txns (s : State) (c : Nat) (e : Eff) : (s.landCore c e).txns = s.txns := rfl
@[simp] theorem State.landCore_nextTxn (s : State) (c : Nat) (e : Eff) : (s.landCore c e).nextTxn = s.nextTxn := rfl
@[simp] theorem State.landCore_nextIssue (s : State) (c : Nat) (e : Eff) : (s.landCore c e).nextIssue = s.nextIssue := rfl
@[simp] theorem State.landCore_bursts (s : State) (c : Nat) (e : Eff) : (s.landCore c e).bursts = s.bursts := rfl
@[simp] theorem State.landCore_nextBurst (s : State) (c : Nat) (e : Eff) : (s.landCore c e).nextBurst = s.nextBurst := rfl
@[simp] theorem State.landCore_nextDray (s : State) (c : Nat) (e : Eff) : (s.landCore c e).nextDray = s.nextDray := rfl
@[simp] theorem State.landCore_sets (s : State) (c : Nat) (e : Eff) : (s.landCore c e).sets = s.sets := rfl
@[simp] theorem State.landCore_setMasks (s : State) (c : Nat) (e : Eff) : (s.landCore c e).setMasks = s.setMasks := rfl
@[simp] theorem State.landCore_self (s : State) (c : Nat) (e : Eff) : (s.landCore c e).self = s.self := rfl
@[simp] theorem State.landCore_links (s : State) (c : Nat) (e : Eff) : (s.landCore c e).links = s.links := rfl
@[simp] theorem State.landCore_routes (s : State) (c : Nat) (e : Eff) : (s.landCore c e).routes = s.routes := rfl
@[simp] theorem State.landCore_landing (s : State) (c : Nat) (e : Eff) : (s.landCore c e).landing = s.landing := rfl
@[simp] theorem State.landCore_sqs (s : State) (c : Nat) (e : Eff) : (s.landCore c e).sqs = s.sqs := rfl
@[simp] theorem State.landCore_cqs (s : State) (c : Nat) (e : Eff) : (s.landCore c e).cqs = s.cqs := rfl
@[simp] theorem State.landCore_evq (s : State) (c : Nat) (e : Eff) : (s.landCore c e).evq = s.evq := rfl
@[simp] theorem State.landCore_cmds (s : State) (c : Nat) (e : Eff) : (s.landCore c e).cmds = s.cmds := rfl
@[simp] theorem State.landCore_nextCmd (s : State) (c : Nat) (e : Eff) : (s.landCore c e).nextCmd = s.nextCmd := rfl
@[simp] theorem State.landCore_evPending (s : State) (c : Nat) (e : Eff) : (s.landCore c e).evPending = s.evPending := rfl
@[simp] theorem State.landCore_evCounts (s : State) (c : Nat) (e : Eff) : (s.landCore c e).evCounts = s.evCounts := rfl
@[simp] theorem State.landCore_port (s : State) (c : Nat) (e : Eff) : (s.landCore c e).port = s.port := rfl
@[simp] theorem State.landCore_hostMem (s : State) (c : Nat) (e : Eff) : (s.landCore c e).hostMem = s.hostMem := rfl
@[simp] theorem State.landCore_hostPoison (s : State) (c : Nat) (e : Eff) : (s.landCore c e).hostPoison = s.hostPoison := rfl
@[simp] theorem State.landCore_house (s : State) (c : Nat) (e : Eff) : (s.landCore c e).house = s.house := rfl
@[simp] theorem State.landCore_sec (s : State) (c : Nat) (e : Eff) : (s.landCore c e).sec = s.sec := rfl
@[simp] theorem State.landCore_fuses (s : State) (c : Nat) (e : Eff) : (s.landCore c e).fuses = s.fuses := rfl
@[simp] theorem State.landCore_flash (s : State) (c : Nat) (e : Eff) : (s.landCore c e).flash = s.flash := rfl
@[simp] theorem State.landCore_snapshot (s : State) (c : Nat) (e : Eff) : (s.landCore c e).snapshot = s.snapshot := rfl
@[simp] theorem State.landCore_restore (s : State) (c : Nat) (e : Eff) : (s.landCore c e).restore = s.restore := rfl
@[simp] theorem State.landCore_coll (s : State) (c : Nat) (e : Eff) : (s.landCore c e).coll = s.coll := rfl
@[simp] theorem State.landCore_unitCounters (s : State) (c : Nat) (e : Eff) : (s.landCore c e).unitCounters = s.unitCounters := rfl
@[simp] theorem State.landCore_bwCfg (s : State) (c : Nat) (e : Eff) : (s.landCore c e).bwCfg = s.bwCfg := rfl
@[simp] theorem State.landCore_bwLog (s : State) (c : Nat) (e : Eff) : (s.landCore c e).bwLog = s.bwLog := rfl
@[simp] theorem State.landCore_bwNow (s : State) (c : Nat) (e : Eff) : (s.landCore c e).bwNow = s.bwNow := rfl
@[simp] theorem State.landCore_bwLast (s : State) (c : Nat) (e : Eff) : (s.landCore c e).bwLast = s.bwLast := rfl
@[simp] theorem State.landCore_bwPeak (s : State) (c : Nat) (e : Eff) : (s.landCore c e).bwPeak = s.bwPeak := rfl
@[simp] theorem State.landCore_asks (s : State) (c : Nat) (e : Eff) : (s.landCore c e).asks = s.asks := rfl
@[simp] theorem State.landCore_free (s : State) (c : Nat) (e : Eff) : (s.landCore c e).free = s.free := rfl
@[simp] theorem State.landCore_pending (s : State) (c : Nat) (e : Eff) : (s.landCore c e).pending = s.pending := rfl

/-! ### The fields that change -/

@[simp] theorem State.addTxn_txns (s : State) (t : Txn) : (s.addTxn t).txns = s.txns ++ [{ t with id := s.nextTxn }] := rfl
@[simp] theorem State.addTxn_nextTxn (s : State) (t : Txn) : (s.addTxn t).nextTxn = s.nextTxn + 1 := rfl
@[simp] theorem State.dropTxn_txns (s : State) (n : Nat) : (s.dropTxn n).txns = s.txns.filter (fun t => t.id ≠ n) := rfl
@[simp] theorem State.raise_occurrences (s : State) (code : Nat) (ws : List Word) :
    (s.raise code ws).occurrences = s.occurrences ++ [⟨code, ws⟩] := rfl
@[simp] theorem State.setDev_house (s : State) (d : DevState) : (s.setDev d).house = { s.house with dev := d } := rfl
@[simp] theorem State.landCore_occurrences_nil (s : State) (c n : Nat) (k : CoreSt) (h : k.cycle = (s.core c).cycle) :
    (s.landCore c ⟨n, k, []⟩).occurrences = s.occurrences := by simp [State.landCore, h]

/-! ### Reading what was put -/

@[simp] theorem State.guild_setGuild (s : State) (g : Nat) (x : GuildSt) : (s.setGuild g x).guild g = x := by
  simp [State.guild, State.setGuild]
@[simp] theorem State.link_setLink (s : State) (l : Nat) (x : LinkSt) : (s.setLink l x).link l = x := by
  simp [State.link, State.setLink]
@[simp] theorem State.sq_setSq (s : State) (q : Nat) (r : SubRing) : (s.setSq q r).sq q = r := by simp [State.sq, State.setSq]
@[simp] theorem State.cq_setCq (s : State) (q : Nat) (r : CompRing) : (s.setCq q r).cq q = r := by simp [State.cq, State.setCq]
theorem State.guild_setGuild_ne (s : State) {g h : Nat} (x : GuildSt) (n : g ≠ h) : (s.setGuild g x).guild h = s.guild h := by
  simp [State.guild, State.setGuild, Tab.get_set, n.symm]
theorem State.link_setLink_ne (s : State) {l m : Nat} (x : LinkSt) (n : l ≠ m) : (s.setLink l x).link m = s.link m := by
  simp [State.link, State.setLink, Tab.get_set, n.symm]
theorem State.sq_setSq_ne (s : State) {q p : Nat} (r : SubRing) (n : q ≠ p) : (s.setSq q r).sq p = s.sq p := by
  simp [State.sq, State.setSq, Tab.get_set, n.symm]
theorem State.cq_setCq_ne (s : State) {q p : Nat} (r : CompRing) (n : q ≠ p) : (s.setCq q r).cq p = s.cq p := by
  simp [State.cq, State.setCq, Tab.get_set, n.symm]
theorem State.core_landCore (s : State) (c : Nat) (e : Eff) (h : e.k.cycle = (s.core c).cycle) : (s.landCore c e).core c = s.meter c e.k := by
  simp [State.landCore, h, State.core]
theorem State.core_landCore_ne (s : State) {c d : Nat} (e : Eff) (n : c ≠ d) : (s.landCore c e).core d = s.core d := by
  simp [State.landCore, State.core, Tab.get_set, n.symm]

end Sys2Proof.Machine
end

