-- ==== Sys2Proof/WellFormed.lean ====
section
/-! DEFINITION. Well-formedness of commands: the relations between operands that the operand types do not say. -/

namespace Sys2Proof

/-- Whole blocks of 64 entries, of two bytes at least, on block boundaries of memory. -/
def runsWf (l : List (BitVec 41 × BitVec 41 × Nat)) : Bool :=
  l.all (fun x => x.1.toNat % 64 = 0 && x.2.1.toNat % 64 = 0 && x.2.2 % 128 = 0)
/-- Does the command keep the shapes the spec gives its operands? A measurement names every guild (R432 to R435), a
firmware image fits a slot of 31 MiB (R449), an SPDM message asks one thing (R453), a BAR0 write is naturally aligned
(R402), a window or mirror access names a block or a quadword, and the runs of a permuted move are whole blocks of 64 entries, of two bytes
at least, on block boundaries of memory (R373). -/
def Instr.wf : Instr → Bool
  | .plannerWindow m => m.temps.length = 32
  | .pldmFirmwareUpdate _ image => decide (image.length ≤ 31 * 2 ^ 20)
  | .spdmRequest q => (if q.measurement.isSome then 1 else 0) + (if q.ioKeys.isSome then 1 else 0) +
      (if q.memKeys.isSome then 1 else 0) + (if q.other.isEmpty then 0 else 1) = 1
  | .registerWrite a wide _ => a.toNat % (if wide then 8 else 4) = 0
  | .hdmWindowRead x _ => x.toNat % 64 = 0
  | .hdmWindowWrite x _ _ _ => x.toNat % 64 = 0
  | .statusMirrorRead x => x.toNat % 8 = 0
  | .permute (some x) => x.1.all (fun m => runsWf m.runs) && x.2.all (fun m => runsWf m.runs)
  | _ => true

end Sys2Proof
end

