-- ==== Sys2Proof/Tests/Slice0.lean ====
section
/-! SUPPORT. Tests of single operations against worked examples and tables of the manual, and for every statement with
hypotheses a state and operands that meet them. -/

set_option Elab.async false

namespace Sys2Proof.Tests

open Machine Numbers

/-! ## Small states -/

/-- The module READY, its rails and its CXL link up. -/
def up : State := { State.reset with house := { dev := .ready }, port := { linkUp := true } }
/-- The module READY with core 3 as given. -/
def on3 (k : CoreSt) : State := { up with cores := [(3, k)] }
/-- A core whose thread 1 is ready at address 0, where the word `w` is, with these registers. -/
def thread1 (w : BitVec 32) (regs : Tab Word) : CoreSt :=
  { threads := [(1, { regs := regs, state := .ready })], imem := { data := Mem.wrLe [] 0 4 w.toNat }, cycle := 5 }
/-- Core 3 with thread 1 ready at an instruction. -/
def at1 (op : TallyOp) (regs : Tab Word) : State := on3 (thread1 (tallyEncode op) regs)

/-! ## Threads (chapter 5) -/

/-- Table 5.10: the encoded instructions of the worked example, and one branch, jump, store and register word written out from
Tables 5.4 to 5.6. -/
theorem test_decode_words :
    tallyDecode 0x28C00200 = some (.move false 6 0 0x0200) ∧ tallyDecode 0x2CC10003 = some (.move true 6 1 3) ∧
    tallyDecode 0x04E70004 = some (.imm .addi 7 7 4) ∧ tallyDecode 0xA8070002 = some (.imm .slw 0 7 2) ∧
    tallyDecode 0xBCA60000 = some (.imm .launch 5 6 0) ∧ tallyDecode 0xB4090006 = some (.imm .nwait 0 9 6) ∧
    tallyDecode 0xA1400018 = some (.imm .rds 10 0 0x018) ∧ tallyDecode 0xB8000021 = some (.imm .nbump 0 0 0x21) ∧
    tallyDecode 0b100001_00010_00011_1111111111111110 = some (.branch .bne 2 3 0xFFFE) ∧
    tallyDecode 0b100111_00000000000000000000000101 = some (.jump true 5) ∧
    tallyDecode 0b010101_00010_00011_0000000000001000 = some (.store .sd 2 3 8) ∧
    tallyDecode 0b000000_00001_00010_00011_00000_001011 = some (.reg .mulhu 1 2 3) := by decide +kernel
/-- R136: a reserved function code, a nonzero bit [10:6] and a nonzero MOVE bit [18] do not decode. -/
theorem test_decode_illegal :
    tallyDecode 0x0000000E = none ∧ tallyDecode 0x00000040 = none ∧ tallyDecode 0x28040000 = none := by decide +kernel
/-- R136: every operation of the tables is encoded so that it decodes. -/
theorem test_encode_reg : ∀ f : RegFn, (TallyOp.reg f 0 0 0).legal = true ∧ (TallyOp.reg f 0 5 0).legal = true := by
  intro f; cases f <;> decide

/-- May the thread issue the instruction? -/
def mayRun (s : State) (c t : Nat) (op : TallyOp) : Bool :=
  s.coreRuns c && (s.core c).mayIssue t && match (s.core c).fetch t with
    | some (w, false) => decide (tallyDecode w = some op)
    | _ => false
/-- May the waiting thread try its instruction again? -/
def mayTry (s : State) (c t : Nat) (op : TallyOp) : Bool :=
  s.coreRuns c && (s.core c).mayWake t op && match (s.core c).fetch t with
    | some (w, _) => decide (tallyDecode w = some op)
    | _ => false
theorem issues_of {s : State} {c t : Nat} {op : TallyOp} (h : mayRun s c t op = true) : Issues s c t op := by
  simp only [mayRun, Bool.and_eq_true] at h
  obtain ⟨⟨h1, h2⟩, h3⟩ := h
  refine ⟨h1, h2, ?_⟩
  split at h3
  · exact ⟨_, ‹_›, of_decide_eq_true h3⟩
  · cases h3
theorem waits_of {s : State} {c t : Nat} {op : TallyOp} (h : mayTry s c t op = true) : Waits s c t op := by
  simp only [mayTry, Bool.and_eq_true] at h
  obtain ⟨⟨h1, h2⟩, h3⟩ := h
  refine ⟨h1, h2, ?_⟩
  split at h3
  · exact ⟨_, _, ‹_›, of_decide_eq_true h3⟩
  · cases h3

/-- RegisterArithmetic: every arithmetic function, with a register written and with t0. -/
theorem test_meets_registerArithmetic : ∀ f : RegFn, regResult f 7 (BitVec.ofInt 64 (-2)) ≠ none →
    Issues (at1 (.reg f 1 2 3) [(2, 7), (3, BitVec.ofInt 64 (-2))]) 3 1 (.reg f 1 2 3) ∧
    Issues (at1 (.reg f 0 2 3) [(2, 7), (3, BitVec.ofInt 64 (-2))]) 3 1 (.reg f 0 2 3) := by
  intro f h
  cases f <;> first
    | exact ⟨issues_of (by decide +kernel), issues_of (by decide +kernel)⟩
    | exact absurd h (by decide)
/-- ImmediateArithmetic: every arithmetic operation, movz and movk. -/
theorem test_meets_immediateArithmetic : (∀ o : ImmOp, immResult o 7 9 ≠ none →
      Issues (at1 (.imm o 1 2 9) [(2, 7)]) 3 1 (.imm o 1 2 9)) ∧
    ∀ keep, Issues (at1 (.move keep 6 3 0x8001) [(6, 5)]) 3 1 (.move keep 6 3 0x8001) := by
  refine ⟨?_, fun keep => by cases keep <;> exact issues_of (by decide +kernel)⟩
  intro o h
  cases o <;> first
    | exact issues_of (by decide +kernel)
    | exact absurd h (by decide)

/-- The last aligned access of `n` bytes of data memory, and the first and last of the local store. -/
def lastDmem (n : Nat) : Tab Word := [(2, BitVec.ofNat 64 (0x10000 - n))]
def firstLs : Tab Word := [(2, 0x100000)]
def lastLs (n : Nat) : Tab Word := [(2, BitVec.ofNat 64 (0x180000 - n))]

/-- LocalAccesses: every load and store, in the data memory and the local store, at the ends of their ranges. -/
theorem test_meets_localAccesses :
    (∀ x ∈ [(ImmOp.ld, 8, false), (.lw, 4, false), (.lws, 4, true), (.lh, 2, false), (.lb, 1, false)],
      ∀ regs ∈ [lastDmem x.2.1, firstLs, lastLs x.2.1], Issues (at1 (.imm x.1 1 2 0) regs) 3 1 (.imm x.1 1 2 0)) ∧
    (∀ x ∈ [(StoreOp.sd, 8), (.sw, 4), (.sh, 2), (.sb, 1)],
      ∀ regs ∈ [lastDmem x.2, firstLs, lastLs x.2], Issues (at1 (.store x.1 1 2 0) regs) 3 1 (.store x.1 1 2 0)) ∧
    (∀ n ∈ [1, 2, 4, 8], (thread1 0 (lastDmem n)).dmem.marked (0x10000 - n) n = false ∧
      (thread1 0 []).ls.marked 0 n = false ∧ (thread1 0 []).ls.marked (0x80000 - n) n = false) ∧
    Mem.wf (thread1 0 []).dmem.data = true ∧ Mem.wf (thread1 0 []).ls.data = true := by
  refine ⟨?_, ?_, by decide +kernel⟩ <;> intro x hx regs hr
  · simp only [List.mem_cons, List.mem_nil_iff, or_false] at hx hr
    rcases hx with rfl | rfl | rfl | rfl | rfl <;> rcases hr with rfl | rfl | rfl <;> exact issues_of (by decide +kernel)
  · simp only [List.mem_cons, List.mem_nil_iff, or_false] at hx hr
    rcases hx with rfl | rfl | rfl | rfl <;> rcases hr with rfl | rfl | rfl <;> exact issues_of (by decide +kernel)

/-- BranchesAndJumps: every branch, taken and not taken, and the jumps. -/
theorem test_meets_branchesAndJumps :
    (∀ o : BranchOp, Issues (at1 (.branch o 1 2 0x8000) [(1, 4), (2, 9)]) 3 1 (.branch o 1 2 0x8000) ∧
      Issues (at1 (.branch o 2 1 0x8000) [(1, 4), (2, 9)]) 3 1 (.branch o 2 1 0x8000)) ∧
    (∀ link, Issues (at1 (.jump link 0x2000000) []) 3 1 (.jump link 0x2000000)) ∧
    Issues (at1 (.reg .jr 0 1 0) [(1, 0x40)]) 3 1 (.reg .jr 0 1 0) ∧
    Issues (at1 (.reg .jalr 1 1 0) [(1, 0x40)]) 3 1 (.reg .jalr 1 1 0) := by
  refine ⟨fun o => ?_, fun link => ?_, ?_, ?_⟩
  · cases o <;> exact ⟨issues_of (by decide +kernel), issues_of (by decide +kernel)⟩
  · cases link <;> exact issues_of (by decide +kernel)
  all_goals exact issues_of (by decide +kernel)

/-- A core whose counts were raised in the cycle in which its thread issues. -/
def counted : CoreSt := { thread1 (tallyEncode (.imm .wrs 0 2 0x018)) [(2, 5)] with note := { cycle := 5, nf := 3 } }
/-- SpecialWordInstructions: rds of the first and last words, wrs, also of a count raised in the same cycle, slr and nrd. -/
theorem test_meets_specialWords : (∀ n ∈ [(0 : BitVec 16), 2, 0x023], Issues (at1 (.imm .rds 1 0 n) []) 3 1 (.imm .rds 1 0 n)) ∧
    (∀ n ∈ [(0x010 : BitVec 16), 0x022], Issues (at1 (.imm .wrs 0 2 n) [(2, 5)]) 3 1 (.imm .wrs 0 2 n)) ∧
    Issues (at1 (.imm .slr 1 0 63) []) 3 1 (.imm .slr 1 0 63) ∧ Issues (at1 (.imm .nrd 1 0 31) []) 3 1 (.imm .nrd 1 0 31) ∧
    (Issues (on3 counted) 3 1 (.imm .wrs 0 2 0x018) ∧ counted.note.cycle = issueCycle counted 0 ∧ counted.note.cycle ≠ issueCycle counted 3) := by
  refine ⟨?_, ?_, issues_of (by decide +kernel), issues_of (by decide +kernel), issues_of (by decide +kernel), by decide +kernel, by decide +kernel⟩ <;>
    intro n hn <;>
    simp only [List.mem_cons, List.mem_nil_iff, or_false] at hn
  · rcases hn with rfl | rfl | rfl <;> exact issues_of (by decide +kernel)
  · rcases hn with rfl | rfl <;> exact issues_of (by decide +kernel)

/-- A core whose invocation queue is full. -/
def fullQueue (op : TallyOp) : State :=
  on3 { thread1 (tallyEncode op) [(2, 0x30200)] with invQueue := List.replicate 4 ⟨1, 0, 1, []⟩ }

/-- SlotWritesAndLaunch: both slot writes, a launch into a queue with room and one into a full queue. -/
theorem test_meets_slotWritesAndLaunch : Issues (at1 (.imm .slw 0 2 63) [(2, 9)]) 3 1 (.imm .slw 0 2 63) ∧
    Issues (at1 (.reg .slwx 0 2 3) [(2, 9), (3, 66)]) 3 1 (.reg .slwx 0 2 3) ∧
    (Issues (at1 (.imm .launch 1 2 0) [(2, 0x30200)]) 3 1 (.imm .launch 1 2 0) ∧
      ((at1 (.imm .launch 1 2 0) [(2, 0x30200)]).core 3).invQueue.length < 4) ∧
    (Issues (fullQueue (.imm .launch 1 2 0)) 3 1 (.imm .launch 1 2 0) ∧
      4 ≤ ((fullQueue (.imm .launch 1 2 0)).core 3).invQueue.length) :=
  ⟨issues_of (by decide +kernel), issues_of (by decide +kernel), ⟨issues_of (by decide +kernel), by decide +kernel⟩,
    issues_of (by decide +kernel), by decide +kernel⟩

/-- NotchAndEventInstructions: a bump, a wait that ends at once and one that does not, and the event instructions. -/
theorem test_meets_notchAndEvents : Issues (at1 (.imm .nbump 0 0 0x1FFF) []) 3 1 (.imm .nbump 0 0 0x1FFF) ∧
    (Issues (at1 (.imm .nwait 0 2 6) [(2, 0)]) 3 1 (.imm .nwait 0 2 6) ∧ ((0 : BitVec 48) - (0 : Word).setWidth 48).toNat < 2 ^ 47) ∧
    (Issues (at1 (.imm .nwait 0 2 6) [(2, 1)]) 3 1 (.imm .nwait 0 2 6) ∧ 2 ^ 47 ≤ ((0 : BitVec 48) - (1 : Word).setWidth 48).toNat) ∧
    Issues (at1 (.reg .evclr 0 2 0) [(2, 1)]) 3 1 (.reg .evclr 0 2 0) ∧
    Issues (at1 (.imm .evwait 1 2 0) [(2, 1)]) 3 1 (.imm .evwait 1 2 0) :=
  ⟨issues_of (by decide +kernel), ⟨issues_of (by decide +kernel), by decide⟩, ⟨issues_of (by decide +kernel), by decide⟩,
    issues_of (by decide +kernel), issues_of (by decide +kernel)⟩

/-- Core 3 with thread 1 in its exception handler. -/
def handling : State := on3 { thread1 (tallyEncode (.reg .eret 0 0 0)) [] with
  threads := [(1, { state := .ready, handler := true, excPc := 0x40 })] }

/-- ThreadControl: a start that succeeds and one of the own thread, the fences with nothing under way, eret and amoadd. -/
theorem test_meets_threadControl :
    (Issues (at1 (.reg .tstart 1 2 3) [(2, 0x7FFC), (3, 2)]) 3 1 (.reg .tstart 1 2 3) ∧
      (((at1 (.reg .tstart 1 2 3) []).core 3).thread 2).state = .halted) ∧
    Issues (at1 (.reg .tstart 1 2 3) [(2, 0x40), (3, 1)]) 3 1 (.reg .tstart 1 2 3) ∧
    Issues (at1 (.reg .halt 0 0 0) []) 3 1 (.reg .halt 0 0 0) ∧ Issues (at1 (.reg .yield 0 0 0) []) 3 1 (.reg .yield 0 0 0) ∧
    (Issues (at1 (.reg .fence 0 0 0) []) 3 1 (.reg .fence 0 0 0) ∧ (at1 (.reg .fence 0 0 0) []).tallyBusy 3 1 = false) ∧
    (Issues (at1 (.reg .ffence 0 0 0) []) 3 1 (.reg .ffence 0 0 0) ∧ (at1 (.reg .ffence 0 0 0) []).tallyOwed 3 1 = false ∧
      (((at1 (.reg .ffence 0 0 0) []).core 3).thread 1).posted = 0 ∧
      (((at1 (.reg .ffence 0 0 0) []).core 3).thread 1).refused = none) ∧
    (Issues handling 3 1 (.reg .eret 0 0 0) ∧ ((handling.core 3).thread 1).handler = true) ∧
    (Issues (at1 (.reg .amoadd 1 2 3) [(2, 0xFFF8), (3, 1)]) 3 1 (.reg .amoadd 1 2 3) ∧
      ((at1 (.reg .amoadd 1 2 3) []).core 3).dmem.marked 0xFFF8 8 = false) :=
  ⟨⟨issues_of (by decide +kernel), by decide +kernel⟩, issues_of (by decide +kernel), issues_of (by decide +kernel),
    issues_of (by decide +kernel), ⟨issues_of (by decide +kernel), by decide +kernel⟩,
    ⟨issues_of (by decide +kernel), by decide +kernel, by decide +kernel, by decide +kernel⟩,
    ⟨issues_of (by decide +kernel), by decide +kernel⟩, issues_of (by decide +kernel), by decide +kernel⟩

/-- Core 3 with thread 1 at an address, and instruction memory as given. -/
def fetching (pc : Word) (imem : Store) : State := on3 { threads := [(1, { pc := pc, state := .ready })], imem := imem }

/-- ThreadExceptions: a misaligned and an unmapped program counter, an undefined word, a double-bit error; misaligned, unmapped and
poisoned accesses; eret outside a handler; evwait for nothing. -/
theorem test_meets_threadExceptions :
    (∀ pc ∈ [2, 0x8000, 0], (fetching (BitVec.ofNat 64 pc) {}).coreRuns 3 = true ∧
      ((fetching (BitVec.ofNat 64 pc) {}).core 3).mayIssue 1 = true) ∧
    (((fetching 0 { data := [(0, 0x0E)] }).core 3).fetch 1 = some (0x0E, false) ∧ tallyDecode 0x0E = none) ∧
    ((fetching 0 { double := [0] }).core 3).fetch 1 = some (0, true) ∧
    Issues (at1 (.imm .lw 1 2 0) [(2, 2)]) 3 1 (.imm .lw 1 2 0) ∧
    Issues (at1 (.store .sw 1 2 0) [(2, 0x180000)]) 3 1 (.store .sw 1 2 0) ∧ ¬ mapped 0x180000 4 true ∧
    (Issues (on3 { thread1 (tallyEncode (.imm .lb 1 2 0)) [(2, 0x40)] with dmem := { poison := [1] } }) 3 1 (.imm .lb 1 2 0) ∧
      ({ poison := [1] } : Store).marked 0x40 1 = true) ∧
    (Issues (at1 (.reg .eret 0 0 0) []) 3 1 (.reg .eret 0 0 0) ∧ (((at1 (.reg .eret 0 0 0) []).core 3).thread 1).handler = false) ∧
    Issues (at1 (.imm .evwait 1 2 0) []) 3 1 (.imm .evwait 1 2 0) :=
  ⟨by decide +kernel, by decide +kernel, by decide +kernel, issues_of (by decide +kernel), issues_of (by decide +kernel),
    by unfold mapped; decide, ⟨issues_of (by decide +kernel), by decide +kernel⟩, ⟨issues_of (by decide +kernel), by decide +kernel⟩,
    issues_of (by decide +kernel)⟩

/-- DescriptorAndTileWords: the last descriptor word, loaded and stored, and the last tile descriptor. -/
theorem test_meets_descriptors : Issues (at1 (.imm .ld 1 2 0) [(2, 0x200FF8)]) 3 1 (.imm .ld 1 2 0) ∧
    Issues (at1 (.store .sd 1 2 0) [(1, BitVec.allOnes 64), (2, 0x200FF8)]) 3 1 (.store .sd 1 2 0) ∧
    (∀ l ∈ [ImmOp.lw, .lws], Issues (at1 (.imm l 1 2 0) [(2, 0x21007C)]) 3 1 (.imm l 1 2 0)) := by
  refine ⟨issues_of (by decide +kernel), issues_of (by decide +kernel), fun l hl => ?_⟩
  simp only [List.mem_cons, List.mem_nil_iff, or_false] at hl
  rcases hl with rfl | rfl <;> exact issues_of (by decide +kernel)

/-- A far access of thread 1 of core 3 that has ended. -/
def farDone (write : Bool) (code : Nat) : Txn :=
  { id := 4, src := .tally 3 1, owner := 0, master := masterId 3 13, cls := 3, write := write, target := .dva 0x40, phase := .done code }
/-- Core 3 with a far access ended. -/
def farBack (write : Bool) (code : Nat) : State := { on3 { thread1 (tallyEncode (.imm .ld 1 2 0)) [(2, 0x20000000040)] with
  threads := [(1, { regs := [(2, 0x20000000040)], state := .waitFar, posted := 1 })] } with txns := [farDone write code] }

/-- FarAccesses: a load that misses, one from a cached line, a store, and the answers of both. -/
theorem test_meets_farAccesses :
    (Issues (at1 (.imm .ld 1 2 0) [(2, 0x20000000040)]) 3 1 (.imm .ld 1 2 0) ∧
      ((at1 (.imm .ld 1 2 0) []).core 3).farLine 0x40 = none) ∧
    (Issues (on3 { thread1 (tallyEncode (.imm .lb 1 2 0)) [(2, 0x3FFFFFFFFFF)] with farCache := [(31, [(0x7FFFFFFFF, 5)])] }) 3 1
      (.imm .lb 1 2 0) ∧ ({ farCache := [(31, [(0x7FFFFFFFF, 5)])] } : CoreSt).farLine 0x1FFFFFFFFFF = some 5) ∧
    Issues (at1 (.store .sh 1 2 0) [(1, 7), (2, 0x20000000002)]) 3 1 (.store .sh 1 2 0) ∧
    ((farBack false 0).coreRuns 3 = true ∧ (farBack false 0).farRead 3 1 = some (farDone false 0)) ∧
    ∀ code ∈ [0, 1], (farBack true code).farWrite 3 1 = some (farDone true code) :=
  ⟨⟨issues_of (by decide +kernel), by decide +kernel⟩, ⟨issues_of (by decide +kernel), by decide +kernel⟩,
    issues_of (by decide +kernel), by decide +kernel, by decide +kernel⟩

/-- Core 3 with thread 1 waiting at an instruction whose condition holds. -/
def waiting (op : TallyOp) (st : ThreadState) : State := on3 { thread1 (tallyEncode op) [(2, 1)] with
  threads := [(1, { regs := [(2, 1)], state := st, wait := if st = .waitNotch then some (6, 1) else none })],
  notches := [(6, 1)], evPending := 1 }
/-- WaitingThreadsGoOn: a notch reached, an event bit set, a fence with nothing under way, a launch with room. -/
theorem test_meets_waitingThreads : Waits (waiting (.imm .nwait 0 2 6) .waitNotch) 3 1 (.imm .nwait 0 2 6) ∧
    Waits (waiting (.imm .evwait 1 2 0) .waitEvent) 3 1 (.imm .evwait 1 2 0) ∧
    (Waits (waiting (.reg .fence 0 0 0) .waitFar) 3 1 (.reg .fence 0 0 0) ∧
      (waiting (.reg .fence 0 0 0) .waitFar).tallyBusy 3 1 = false) ∧
    Waits (waiting (.imm .launch 1 2 0) .waitLaunch) 3 1 (.imm .launch 1 2 0) :=
  ⟨waits_of (by decide +kernel), waits_of (by decide +kernel), ⟨waits_of (by decide +kernel), by decide +kernel⟩,
    waits_of (by decide +kernel)⟩

/-! ## The Loom and the engines -/

/-- A number from its fields, each a lowest bit and a value. -/
def fields (l : List (Nat × Nat)) : Nat := l.foldl (fun n x => n + x.2 * 2 ^ x.1) 0
/-- A control word from its fields; no engine is named by a wait or a bump. -/
def ctl (l : List (Nat × Nat)) : BitVec 256 := BitVec.ofNat 256 (fields ([(229, 7), (199, 7), (169, 7), (153, 7)] ++ l))
/-- A queue entry with this word and these slots. -/
def uop (g : Engine) (w : BitVec 256) (slots : Tab Word) : MicroOp :=
  { uid := 5, inv := 1, start := 0, idx := 0, inst := 0, eng := g, marker := false, word := w, slots := slots, desc := 0 }
/-- Core 3 with one micro-op at the head of its engine's queue. -/
def queued (k : CoreSt) (o : MicroOp) : State := on3 { k with queues := [(o.eng.code, [o])], cycle := 7 }
/-- The lowest bit of an engine's operation field (Table 4.1). -/
def opBit : Engine → Nat | .array => 138 | .vector => 62 | .drain => 103 | .inbound => 45 | .outbound => 21
/-- May the micro-op at the head begin? -/
def mayStart (s : State) (c : Nat) (g : Engine) (o : MicroOp) : Bool :=
  s.coreRuns c && decide (((s.core c).queue g).head? = some o) && decide (o.eng = g) && !o.marker && (s.core c).mayBegin o
theorem heads_of {s : State} {c : Nat} {g : Engine} {o : MicroOp} (h : mayStart s c g o = true) : Heads s c g o := by
  simp only [mayStart, Bool.and_eq_true, decide_eq_true_eq, Bool.not_eq_true'] at h
  exact ⟨h.1.1.1.1, h.1.1.1.2, h.1.1.2, h.1.2, h.2⟩

/-- A bare micro-op of each operation code. -/
def bare (g : Engine) (code : Nat) (slots : Tab Word) : MicroOp := uop g (ctl [(opBit g, code)]) slots

/-- UnitMicroOpsBegin: every operation of the array, the vector unit and the drain. -/
theorem test_meets_unitMicroOps : ∀ x ∈ unitRows.map (fun x => (x.2.1, x.2.2)),
    mayStart (queued {} (bare x.1 x.2 [])) 3 x.1 (bare x.1 x.2 []) = true ∧ opField (bare x.1 x.2 []).word x.1 = x.2 := by
  decide +kernel

/-- A MATMUL of m = 64 rows, n = 2 columns and k = 2, from 0x100 and 0x200; `acc` adds to what the tile holds. -/
def matmulOp (acc k : Nat) : MicroOp :=
  uop .array (ctl [(138, 1), (134, 1), (130, 1), (125, acc), (117, 64), (111, 2)]) [(0, 0x200100), (1, 0x200200), (2, BitVec.ofNat 64 k)]
/-- A local store with four BF16 numbers at 0x100 and at 0x200, and an entry of ledger tile 0. -/
def operands : CoreSt :=
  { ls := { data := [(0x100, 0x80), (0x101, 0x3F), (0x102, 0x40), (0x103, 0x40), (0x201, 0x40), (0x203, 0x41)] }, ledgers := [(1, ⟨5, .finite, 0⟩)] }
/-- MatrixMultiply: with and without accumulation, and with k = 0. -/
theorem test_meets_matmul : ∀ acc ∈ [0, 1], ∀ k ∈ [0, 2], mayStart (queued operands (matmulOp acc k)) 3 .array (matmulOp acc k) = true ∧
    opField (matmulOp acc k).word .array = 1 ∧
    (arrayOp (matmulOp acc k).word (matmulOp acc k).slots (matmulOp acc k).inst).m ≤ 64 ∧
    (arrayOp (matmulOp acc k).word (matmulOp acc k).slots (matmulOp acc k).inst).n ≤ 32 := by decide +kernel

/-- A drain micro-op of two rows and two columns: ROUND to BF16 in the local store or in tile 1, EXPORT or MERGE at 0x1000. -/
def drainUop (op toLs acc : Nat) : MicroOp :=
  uop .drain (ctl [(103, op), (97, 1), (95, acc), (88, toLs), (82, 1), (77, 1)])
    (if op = 1 ∧ toLs = 0 then [(0, 1)] else [(0, BitVec.ofNat 64 (0x1000 + 2624 * 2 ^ 19))])
/-- Tile 1: two rows of 16 bytes from byte 0 of the TRF. -/
def tiled : CoreSt := { operands with tiles := [(1, 0x80000080)] }
/-- DrainMicroOps: ROUND to the local store and to a tile, EXPORT and MERGE. -/
theorem test_meets_drain :
    (∀ x ∈ [(1, 1, 0), (1, 0, 0), (2, 0, 0), (3, 0, 0), (3, 0, 1)],
      mayStart (queued tiled (drainUop x.1 x.2.1 x.2.2)) 3 .drain (drainUop x.1 x.2.1 x.2.2) = true ∧
      opField (drainUop x.1 x.2.1 x.2.2).word .drain = x.1) ∧
    (let d := drainOp (drainUop 1 1 0).word (drainUop 1 1 0).slots 0
     d.fuse = 0 ∧ d.sr = false ∧ (Fmt.ofCode d.fmt).isSome ∧ codeMx d.fmt = false ∧ d.toLs = true ∧ bytesFor d.n d.fmt ≤ d.lsStride) ∧
    (let d := drainOp (drainUop 1 0 0).word (drainUop 1 0 0).slots 0
     d.fuse = 0 ∧ d.sr = false ∧ (Fmt.ofCode d.fmt).isSome ∧ codeMx d.fmt = false ∧ d.toLs = false ∧ 0 ≤ d.trf.row0 ∧
     d.trf.byte0 + d.trf.bytes ≤ tilePitch (tileOf tiled.tiles d.trf.tile)) ∧
    2624 ≤ (drainOp (drainUop 2 0 0).word (drainUop 2 0 0).slots 0).lsStride ∧
    Mem.wf tiled.ls.data = true ∧ Mem.wf tiled.trf.data = true := by decide +kernel

/-- A TRF operand word: tile, rows, bytes and format, from row 0 and byte 0. -/
def trfW (tile rows bytes fmt : Nat) : Word := BitVec.ofNat 64 (fields [(0, tile), (13, rows - 1), (27, bytes / 16 - 1), (33, fmt)])
/-- A local-store operand word. -/
def lsW (base stride : Nat) : Word := BitVec.ofNat 64 (fields [(0, base), (19, stride)])
/-- A vector micro-op with these slots. -/
def vecUop (code aux : Nat) (slots : Tab Word) : MicroOp := uop .vector (ctl [(62, code), (48, aux)]) slots
/-- Three tiles of two rows of 64 bytes, and a TRF that holds a few bytes of each. -/
def tiled3 : CoreSt := { operands with
  tiles := [(1, 0x80000083), (2, 0x80040083), (3, 0x80080083)],
  trf := { data := [(2, 0x80), (3, 0x3F), (64, 0x40), (130, 0x12), (131, 0x40), (257, 0x41)] } }

/-- ElementwiseAndBlockMicroOps: every element-wise operation, CONVERT to a scalar and to an MX format, the gradients. -/
theorem test_meets_elementwise :
    (∀ code ∈ arithRows.map (fun x => x.2.1), let o := vecUop code 0 [(0, trfW 1 2 32 1), (1, trfW 2 1 16 0), (2, trfW 3 1 16 0)]
      mayStart (queued tiled3 o) 3 .vector o = true ∧ opField o.word .vector = code ∧ o.vec.dst.rows = 2 ∧ o.vec.sr = false ∧
        (fmtOf o.vec.dst.fmt).isMx = false) ∧
    (∀ fmt ∈ [1, 5], let o := vecUop 0x04 0 [(0, trfW 1 2 32 fmt), (1, trfW 2 1 16 0)]
      mayStart (queued tiled3 o) 3 .vector o = true ∧ opField o.word .vector = 0x04 ∧ codeMx o.vec.dst.fmt = decide (fmt = 5)) ∧
    ∀ code ∈ [0x51, 0x52], let o := vecUop code 0 [(0, trfW 1 2 32 1), (1, trfW 2 1 16 1), (2, trfW 3 1 16 1), (3, trfW 3 1 16 0)]
      mayStart (queued tiled3 o) 3 .vector o = true ∧ opField o.word .vector = code := by decide +kernel

/-- Bytes are copied between tile 1 and the local store from 0x100 on. -/
def moveOp (code stride : Nat) : MicroOp := vecUop code 0 [(0, trfW 1 2 32 1), (1, lsW 0x100 stride)]
/-- TILECFG of tile 4. -/
def tilecfgOp : MicroOp := vecUop 0x01 4 [(0, 0x80000083)]
/-- Two rows of two FP32 elements of tile 1 from tile 2. -/
def transposeOp : MicroOp := vecUop 0x05 0 [(0, trfW 1 2 16 0), (1, trfW 2 1 16 0)]
/-- TileMicroOps: the four operations, within the pitch of their tile and with rows of the local store apart. -/
theorem test_meets_tileOps :
    mayStart (queued tiled3 tilecfgOp) 3 .vector tilecfgOp = true ∧ opField tilecfgOp.word .vector = 0x01 ∧
    (∀ code ∈ [0x02, 0x03], mayStart (queued tiled3 (moveOp code 64)) 3 .vector (moveOp code 64) = true ∧
      opField (moveOp code 64).word .vector = code) ∧
    (let d := (moveOp 2 64).vec.dst
     codeMx d.fmt = false ∧ 0 ≤ d.row0 ∧ d.byte0 + d.bytes ≤ tilePitch (tileOf tiled3.tiles d.tile) ∧
       d.bytes ≤ (moveOp 3 64).vec.moveLs.stride) ∧
    (let v := transposeOp.vec
     mayStart (queued tiled3 transposeOp) 3 .vector transposeOp = true ∧ opField transposeOp.word .vector = 0x05 ∧
       codeBits v.dst.fmt ∈ [16, 32] ∧ v.transposeSrc.fmt = v.dst.fmt ∧ 0 ≤ v.dst.row0 ∧
       v.dst.byte0 + v.dst.bytes ≤ tilePitch (tileOf tiled3.tiles v.dst.tile)) := by decide +kernel

/-- A reducer operation on entries from 2 on: RSAVE, RLOAD and RMERGE at 0x1000 with a stride of 128. -/
def redOp (code : Nat) : MicroOp := vecUop code 2
  (if code = 0x27 ∨ code = 0x28 ∨ code = 0x29 then [(0, lsW 0x1000 128), (1, 1)] else [(0, trfW 1 2 32 1), (1, trfW 2 2 32 1)])
/-- ReducerMicroOps: every reducer operation; RSAVE with images apart. -/
theorem test_meets_reducer :
    (∀ code ∈ [0x20, 0x21, 0x22, 0x23, 0x24, 0x25, 0x26, 0x27, 0x28, 0x29, 0x50],
      mayStart (queued tiled3 (redOp code)) 3 .vector (redOp code) = true ∧ opField (redOp code).word .vector = code) ∧
    128 ≤ (redOp 0x27).vec.images.stride ∧ (redOp 0x27).vec.images.rows = 2 := by decide +kernel

/-- AssayUpdateAndGenerators: each of its operations. -/
def auxOp (code : Nat) : MicroOp := vecUop code 1 (if code = 0x53 then [(0, lsW 0x1000 320), (1, 0), (2, 0x2000)]
  else if code = 0x54 then [(0, 0x81001F4000000000)] else if code = 0x44 then [(0, 5), (1, 9)]
  else if code = 0x47 then [(0, trfW 1 2 32 0), (1, 0x3F800000)] else if code < 0x40 then [(0, lsW 0x1000 0), (1, 1)]
  else if code < 0x44 then [(0, trfW 1 2 32 1), (1, BitVec.ofNat 64 (2 + 3 * 2 ^ 38)), (2, BitVec.ofNat 64 (2 + 3 * 2 ^ 19)), (3, 3)]
  else [(0, lsW 0x1000 0)])
theorem test_meets_assayAndUpdates : ∀ code ∈ [0x30, 0x53, 0x54, 0x40, 0x41, 0x42, 0x44, 0x45, 0x46, 0x47],
    mayStart (queued tiled3 (auxOp code)) 3 .vector (auxOp code) = true ∧ opField (auxOp code).word .vector = code := by decide +kernel

/-- A launch request of `n` words from word `a` on. -/
def req (a n : Nat) : InvReq := ⟨1, a, n, [(2, 9)]⟩
/-- A core about to take a request. -/
def bound (r : InvReq) : CoreSt := { invQueue := [r], cycle := 4 }
/-- A core whose next word to split is `w`, in a tile configuration. -/
def splits (w : BitVec 256) : CoreSt :=
  { tiled3 with splitting := some ⟨req 0 2, 0, none⟩, flights := [⟨1, 0, false, false, false, false⟩], splitTiles := tiled3.tiles,
                pattern := { data := Mem.wrLe [] 0 32 w.toNat } }
/-- A word with two instances of TILECFG of tile 4; one with a MOVE_IN that names an unconfigured tile; one that no engine receives. -/
def goodWord : BitVec 256 := ctl [(240, 2), (62, 1), (48, 4)]
def badWord : BitVec 256 := ctl [(240, 1), (62, 2)]
def idleWord : BitVec 256 := ctl []
/-- A core issuing the first of the two instances of `goodWord`. -/
def issuing : CoreSt := { splits goodWord with splitting := some ⟨req 0 2, 1, some ⟨0, 2, 0, goodWord, [], 0, 0, []⟩⟩ }

/-- LoomWork: requests that run, are empty, or run past the pattern memory, a core that takes none, a mode switch; words that
are split, misfit, go nowhere or hold a double-bit error; an instance that issues, the last one, and one that finds no room. -/
theorem test_meets_loom :
    (∀ r ∈ [req 4095 1, req 4096 0, req 4095 2], (on3 (bound r)).coreRuns 3 = true ∧ (bound r).boundaryOpen = true) ∧
    ((∀ g : Engine, ({ queueModeWanted := 1 } : CoreSt).queue g = []) ∧ ({ queueModeWanted := 1 } : CoreSt).invQueue = []) ∧
    (∀ x ∈ [(goodWord, 2), (badWord, 1), (idleWord, 0)], let k := splits x.1
      (on3 k).coreRuns 3 = true ∧ (∃ f ∈ k.flights, f.num = 1) ∧ BitVec.ofNat 256 (k.pattern.data.le 0 32) = x.1 ∧
        wordRepeat x.1 k.liveSlots = x.2 ∧ k.wordDouble 0 = false) ∧
    wordMisfit goodWord [] 0 0 2 0 (splits goodWord).splitTiles none = none ∧
    wordMisfit badWord [] 0 0 1 0 (splits badWord).splitTiles none = some (.vector, 0x01, 0) ∧
    { splits goodWord with pattern := { double := [3] } }.wordDouble 0 = true ∧
    (let es := instanceEntries (req 0 2) ⟨0, 2, 0, goodWord, [], 0, 0, []⟩ 0
     issuing.queueRoom es = true ∧ issuing.boardRoom es = true ∧
       { issuing with queues := [(1, List.replicate 256 tilecfgOp)] }.queueRoom es = false) := by
  refine ⟨by decide +kernel, ⟨?_, rfl⟩, by decide +kernel, by decide +kernel, by decide +kernel, by decide +kernel, by decide +kernel⟩
  intro g; cases g <;> rfl

/-- A word that bumps notch 3 by 2 for the vector engine, and a marker with or without it. -/
def markerWord : BitVec 256 := BitVec.ofNat 256 (fields [(229, 7), (199, 7), (169, 1), (164, 3), (156, 2), (153, 7)])
def markerOp (bump : Bool) : MicroOp := { uop .vector (if bump then markerWord else ctl []) [] with marker := true }
/-- Core 3 with a micro-op begun that waits for `n` accesses. -/
def begunCore (n : Nat) (no : Bool) : CoreSt := { running := [(1, [⟨uop .vector markerWord [], n, no⟩])], cycle := 7 }
/-- A core on which every engine waits for work that cannot come. -/
def stale : CoreSt := { queues := [(1, [{ uop .vector (BitVec.ofNat 256 (fields [(229, 1), (206, 5), (199, 7), (62, 1)])) [] with inv := 1 }])],
                        flights := [⟨1, 1, true, false, false, false⟩] }
/-- MarkersCompletionsFreezes: a marker with and without a bump, a completion that bumps and one that does not, a stalemate. -/
theorem test_meets_markers :
    (∀ b ∈ [true, false], let k := (queued {} (markerOp b)).core 3
      k.queue .vector = [markerOp b] ∧ (markerOp b).marker = true ∧ k.waitsMet (markerOp b) = true ∧ k.active .vector = []) ∧
    (∀ no ∈ [true, false], (on3 (begunCore 0 no)).coreRuns 3 = true ∧
      (begunCore 0 no).active .vector = [⟨uop .vector markerWord [], 0, no⟩]) ∧
    (on3 stale).coreRuns 3 = true ∧ stale.stalemate = true ∧ stale.stalemateCycles ≤ stale.calm + 2 ^ 20 := by decide +kernel

/-! ## Carters, fabric and memory tiers -/

/-- A stream descriptor: remote DVA 0x10000 and local offset 0x200, one row of `n` bytes, with further fields. -/
def desc (n : Nat) (l : List (Nat × Nat)) : BitVec 512 := BitVec.ofNat 512
  (fields ([(29, n), (0, 0x200), (64, 0x10000), (128, 1), (144, 1), (160, 1), (176, 1)] ++ l))
/-- A Carter micro-op of an operation with that descriptor. -/
def carterOp (g : Engine) (code : Nat) (d : BitVec 512) : MicroOp := { bare g code [] with desc := d }
/-- Core 3 with pattern words 0 to 9 in the range of a queued invocation. -/
def busyPattern : CoreSt := { invQueue := [req 0 10] }
/-- The module with multicast set 7 live, its target core 40. -/
def withSet (s : State) : State := { s with sets := [(7, BitVec.ofNat 64 (2 ^ 63 + 2 ^ 53))], setMasks := [(112, BitVec.ofNat 64 (2 ^ 40))] }
def inOp (code n : Nat) : MicroOp := carterOp .inbound code (desc n [])
def patternOp : MicroOp := carterOp .inbound 1 (desc 64 [(59, 1)])
def windowOp : MicroOp := carterOp .inbound 2 (desc 64 [])
def outOp (code n : Nat) : MicroOp := carterOp .outbound code (desc n [])
def mcastOp : MicroOp := carterOp .outbound 1 (desc 64 [(61, 2), (93, 7)])

/-- CarterMicroOps: each operation with and without bytes; a busy pattern range; an absent and a live set. -/
theorem test_meets_carters :
    (∀ n ∈ [0, 100], mayStart (queued {} (inOp 1 n)) 3 .inbound (inOp 1 n) = true ∧ ciOp (inOp 1 n).word = some .streamIn ∧
      ((inOp 1 n).inStream.total = 0 ∨ ¬ ((inOp 1 n).inStream.lkind = 1 ∧ (inOp 1 n).inStream.patternIdx.any ({} : CoreSt).patternBusy = true))) ∧
    (mayStart (queued busyPattern patternOp) 3 .inbound patternOp = true ∧ patternOp.inStream.total ≠ 0 ∧ patternOp.inStream.lkind = 1 ∧
      patternOp.inStream.patternIdx = [16, 17] ∧
      [16, 17].any ({ busyPattern with invQueue := [req 17 1] } : CoreSt).patternBusy = true) ∧
    (mayStart (queued {} windowOp) 3 .inbound windowOp = true ∧ ciOp windowOp.word = some .postWindow ∧
      ({} : CoreSt).freeWindow = some 0 ∧ windowOp.inStream.windowBytes = 64 ∧ (queued {} windowOp).issuedAll 3 .inbound = true) ∧
    (∀ n ∈ [0, 100], let s := queued {} (inOp 3 n)
      mayStart s 3 .inbound (inOp 3 n) = true ∧ ciOp (inOp 3 n).word = some .fence ∧ s.fenceReady 3 (inOp 3 n) = true ∧
        s.drayRoom 0 = true) ∧
    (∀ n ∈ [0, 100], mayStart (queued {} (outOp 1 n)) 3 .outbound (outOp 1 n) = true ∧ coOp (outOp 1 n).word = some .streamOut ∧
      (outOp 1 n).outStream.rkind ≠ 2) ∧
    (∀ s ∈ [queued {} mcastOp, withSet (queued {} mcastOp)], mayStart s 3 .outbound mcastOp = true ∧ mcastOp.outStream.rkind = 2 ∧
      s.setOk mcastOp.outStream.rUnit mcastOp.outStream.reduce = decide (s.sets ≠ [])) ∧
    ∀ n ∈ [0, 100], let s := queued {} (outOp 2 n)
      mayStart s 3 .outbound (outOp 2 n) = true ∧ coOp (outOp 2 n).word = some .prefetch ∧ s.drayRoom 0 = true := by decide +kernel

/-- An access of the inbound Carter of core 3: block 0 of page 1, or what is given. -/
def access (write : Bool) (phase : Phase) : Txn :=
  { id := 4, src := .inbound 3, owner := 5, master := masterId 1 3, cls := 0, write := write, target := .dva 0x10000,
    runs := if write then [(8, [(1, false), (2, false)])] else [], len := 64, phase := phase }
/-- The module with one access, and page 1 translated by entry `e` in the cache of guild 0. -/
def oneAccess (x : Txn) (e : Word) : State := { up with txns := [x], nextTxn := 5, guilds := [(0, { cache := [(1, e)] })] }
/-- Placement entries: a Shale frame, a Bedrock frame past the first 256 MiB, a host frame, a frozen frame, an invalid entry. -/
def shaleEntry : Word := BitVec.ofNat 64 (fields [(63, 1), (60, 1), (0, 2 * 8192 + 3)])
def bedrockEntry : Word := BitVec.ofNat 64 (fields [(63, 1), (60, 2), (0, 2 ^ 21 + 5000)])
def hostEntry : Word := BitVec.ofNat 64 (fields [(63, 1), (60, 3), (0, 1)])
def frozenEntry : Word := BitVec.ofNat 64 (fields [(63, 1), (60, 1), (59, 1), (0, 3)])
/-- One of the five, and whether a write is tried on it. -/
def entryNo (n : Nat) : Word :=
  match n with | 0 => shaleEntry | 1 => bedrockEntry | 2 => hostEntry | 3 => frozenEntry | _ => 0
/-- May the engine issue the access next, as far as the lists show? -/
def issuableB (s : State) (src : Src) (x : Txn) : Bool :=
  decide ((s.inLine src).head? = some x) && !s.mustWait x && decide (s.tagsHeld src < src.caps.1) && decide (s.txns.length < src.caps.2)
theorem issuable_of {s : State} {src : Src} {x : Txn} (h : issuableB s src x = true) : Issuable s src x := by
  simp only [issuableB, Bool.and_eq_true, decide_eq_true_eq, Bool.not_eq_true'] at h
  exact ⟨h.1.1.1, h.1.1.2, h.1.2, fun b _ => Nat.lt_of_le_of_lt (List.length_filter_le _ _) h.2⟩
/-- AccessesAreTranslated: a read or write that is sent, held, refused, delivered from the host or misses. -/
theorem test_meets_issue :
    (∀ n ∈ [0, 1, 2, 3, 4], ∀ w ∈ [true, false], issuableB (oneAccess (access w .waiting) (entryNo n)) (.inbound 3) (access w .waiting) = true) ∧
    (∀ n ∈ [0, 1, 2, 3, 4], ((oneAccess (access false .waiting) (entryNo n)).cached 0 1).1 = some (entryNo n)) ∧
    issuableB { up with txns := [access false .waiting] } (.inbound 3) (access false .waiting) = true ∧
    (({ up with txns := [access false .waiting] } : State).cached 0 1).1 = none ∧ (oneAccess (access false .waiting) 0).coreRuns 3 = true := by
  decide +kernel
/-- AccessesAreTranslated: what the entries say of a read, and of a write to the frozen page. -/
theorem test_meets_judge :
    (∀ x ∈ [(0, Verdict.go (.shale 2 0x30000) false), (1, .go (.bedrock 1 0x13880000) false), (2, .go (.host 0x10000) false), (4, .refuse 1)],
      up.judge (some (entryNo x.1)) (masterId 1 3) 0x10000 false false = x.2) ∧
    up.judge (some frozenEntry) (masterId 1 3) 0x10000 true false = .hold := by decide +kernel
/-- AccessesAreTranslated: a live and a fenced core as a target, and a malformed address. -/
theorem test_meets_coreTarget :
    (∀ fenced ∈ [[], [40]], issuableB { up with txns := [{ access true .waiting with target := .core 40 0 }], house := { dev := .ready, fencedCores := fenced } }
      (.inbound 3) { access true .waiting with target := .core 40 0 } = true) ∧
    issuableB { up with txns := [{ access true .waiting with target := .core 40 0, malformed := true }] }
      (.inbound 3) { access true .waiting with target := .core 40 0, malformed := true } = true := by decide +kernel
/-- A block on its way to stack 2 over its crossbar output, having failed its check three times or not at all. -/
def hopping (fails : Nat) : Txn := { access true (.sent (.shale 2 0)) with path := [⟨0, 35, true⟩], checkFails := fails }
/-- AccessesAreTranslated: walks over an intact and a poisoned table block; a block received intact, broken, and broken for the fourth
time. -/
theorem test_meets_walksAndHops :
    (∀ bad ∈ [[], [(0x1F00000000, 1)]], (({ up with txns := [access false .walking], tiers := { bedrock := bad } } : State).txns.find?
        (fun t => (t.phase = .walking && t.src.guild / 16 = 0 && ({ up with txns := [access false .walking] } : State).performedAll t.after))) =
        some (access false .walking)) ∧
    (∀ n ∈ [0, 3], (oneAccess (hopping n) 0).txn 4 = some (hopping n) ∧ (oneAccess (hopping n) 0).hopTaken (hopping n) ⟨0, 35, true⟩ = false) := by decide +kernel

/-- AccessesArePerformed: accesses at Shale and Bedrock, deliveries, an arrival with and without leave, acknowledgements. -/
theorem test_meets_performed :
    (∀ w ∈ [true, false], ∀ l ∈ [Loc.shale 31 0x1FFFFFFF, .bedrock 11 0x1FFFFFFFFF], let x := access w (.sent l)
      (oneAccess x 0).txn 4 = some x ∧ (oneAccess x 0).inOrder x l = true ∧ (oneAccess x 0).snooped l = false) ∧
    (∀ more ∈ [[], [{ access false .waiting with id := 6 }]], let x := access false (.done 0)
      let s := { oneAccess x 0 with txns := x :: more }
      s.txn 4 = some x ∧ s.coreRuns 3 = true ∧
        ((s.txns.map (fun y => if y.id = 4 then { x with phase := .landed } else y)).all (fun y => y.phase = .landed)) = decide (more = [])) ∧
    (∀ a ∈ [0, 0xFFFFFFFF], let x := { access true (.sent (.ls 40 0)) with src := .outbound 3 }
      let s : State := { oneAccess x 0 with sec := { acl := [(64 * 44, BitVec.ofNat 32 a)] } }
      s.txn 4 = some x ∧ s.coreRuns 40 = true ∧ s.inOrder x (.ls 40 0) = true ∧ s.allowed 44 (s.lsClass 40) x.master true = decide (a ≠ 0)) ∧
    ∀ code ∈ [0, 3, 8], let x := { access true (.done code) with src := .outbound 3 }
      (oneAccess x 0).txn 4 = some x := by decide +kernel

/-- A burst of core 3 to set 7 with one run of bytes. -/
def burst1 (reduce : Bool) : Burst :=
  { id := 2, core := 3, op := mcastOp, set := 7, cls := 2, reduce := reduce, rowOff := 0x400, slots := if reduce then 1 else 0,
    flits := if reduce then [([.slot 0x440 0 (.packed 0) false], false), ([.header 0x400 1 0 false], false)] else [([.bytes 0x400 [(1, false)]], false)] }
/-- The module with that burst. -/
def bursting (b : Burst) : State := { withSet up with bursts := [b], nextBurst := 3 }
/-- A row buffer of guild 1 for set 7 with core 3 as its one contributor. -/
def rowBuf (delivered : Nat) : RowBuffer :=
  { set := 7, off := 0x400, entry := BitVec.ofNat 64 (2 ^ 63 + 2 ^ 53), targets := [40], who := [{ core := 3, declared := 1, delivered := delivered, header := true }] }
/-- A copy of 100 bytes with a token. -/
def copyDesc (started : Bool) : DrayDesc :=
  { id := 2, core := 3, op := outOp 2 100, fence := false, stream := (outOp 2 100).outStream, onChannel := started, token := true }

/-- MulticastAndCopies: reservations of multicast and reduce, and the last grant. -/
theorem test_meets_bursts :
    (∀ r ∈ [true, false], let s := bursting (burst1 r)
      s.burst 2 = some (burst1 r) ∧ s.behindWrites (burst1 r) = false ∧ s.setOk 7 r = true ∧
        targetGuilds (s.setTargets 7) = [1] ∧ (s.guild 1).mayJoin (burst1 r) = true ∧ s.landingUse 1 + (burst1 r).flits.length ≤ 512 ∧
        s.olderWaits (burst1 r) 1 = false) ∧
    (let b := { burst1 false with begun := true, targets := [40], coming := some 1 }
     (bursting b).burst 2 = some b ∧ (targetGuilds b.targets).filter (fun h => decide (1 < h)) = [] ∧ b.refused.contains 40 = false) := by
  decide +kernel
/-- MulticastAndCopies: additions, an incomplete and a complete row, an idle window, a descriptor and its token. -/
theorem test_meets_rowsAndCopies :
    (∀ f ∈ [Flit.header 0x400 1 0 false, .slot 0x440 0 (.packed 0) false, .slot 0x440 0 (.full 1) false], ∀ second ∈ [false, true],
      let g : GuildSt := { rows := [rowBuf 0], adds := [⟨3, 5, false, second, 7, 0x400, f, false⟩] }
      g.row 7 0x400 = some (rowBuf 0) ∧ ((rowBuf 0).who.find? (fun w => w.core = 3)).isSome = true) ∧
    (∀ d ∈ [0, 1], (rowBuf d).complete = decide (d = 1) ∧ ({ rows := [rowBuf d] } : GuildSt).row 7 0x400 = some (rowBuf d)) ∧
    (let w : Window := ⟨windowOp, 0x200, 0x23F, 64, 1, false, false, 0⟩
     let k : CoreSt := { windows := [(31, w)], stalemateCfg := 0x100 }
     (on3 k).coreRuns 3 = true ∧ k.windows.find 31 = some w ∧ k.windowQuiet w (2 ^ 41) = true ∧ k.windowQuiet w 0 = false) ∧
    ((copyDesc false).onChannel = false ∧ (copyDesc false).fromCore = false ∧ (copyDesc false).readTxns 0 ≠ []) ∧
    ((copyDesc true).finished = true ∧ (copyDesc true).token = true ∧ (copyDesc true).tokenSent = false) := by decide +kernel

/-! ## Ilusk links (chapter 13) -/

/-- The module with port 4 as given. -/
def linked (k : LinkSt) : State := { up with links := [(4, k)] }
/-- A slot of a READ_REQ, waiting for peer 5 in virtual channel 1. -/
def oneSlot : LinkSlot := ⟨BitVec.ofNat 96 0, 0, 0⟩
def slotEntry : Egress := ⟨1, 0, 5, 0, .slot oneSlot, 3, none⟩
def burstEntry (i : Nat) : Egress := ⟨1, 0, 5, 0, .burst oneSlot [(0, false), (0, false)] (some i), 3, none⟩
def sentFlit (n : Nat) : SentFlit := ⟨n, 1, 0, 0, 5, 0, none, none⟩
/-- A port in a state, with pools of 32 buffers. -/
def portIn (st : LinkState) (es : List Egress) : LinkSt := { state := st, egress := es, credits := [(1, 32)], nextSeq := 7, expected := 9 }

/-- LinkFlits: a resend of a first flit, of one for the eighth time and of a later flit; nothing to send, CONTROL, a slot, a burst. -/
theorem test_meets_transmit :
    (∀ st ∈ [LinkState.training, .config, .active], st.flows = true) ∧
    (let k := { portIn .active [] with retry := [sentFlit 5, sentFlit 6] }
     k.retry[0]? = some (sentFlit 5) ∧ k.retry[1]? = some (sentFlit 6)) ∧
    (∀ es ∈ [[], [slotEntry]], let s := linked { portIn .active es with credits := [(1, 0)] }
      let k := flowingLink s 4 0
      k.resend = none ∧ k.state = .active ∧ ∀ e ∈ k.egress, s.maySend k e = false) ∧
    (flowingLink (linked (portIn .training [])) 4 0).state = .config ∧
    (∀ e ∈ [slotEntry, burstEntry 0, burstEntry 2], nextEntry (linked (portIn .active [e])) (flowingLink (linked (portIn .active [e])) 4 0) = some e) := by
  decide +kernel
/-- LinkFlits: an idle flit, one in sequence and one out of it; no flit waits for the port. -/
theorem test_meets_receive :
    (∀ x ∈ [(0, 9), (1, 9), (1, 8), (3, 9)], HeaderFits ⟨x.2, 4095, x.1, true, 3, 2, 3, 2, 255, 4095⟩) ∧
    NoneWaits (linked (portIn .active [])) 4 ∧ NoneWaits (linked (portIn .config [])) 4 := by
  refine ⟨?_, ?_, ?_⟩
  · intro x hx
    simp only [List.mem_cons, List.mem_nil_iff, or_false] at hx
    rcases hx with rfl | rfl | rfl | rfl <;> (unfold HeaderFits; decide)
  all_goals
    intro x hx f hf
    simp only [linked, List.mem_cons, List.mem_nil_iff, or_false] at hx
    subst hx
    simp [portIn] at hf
/-- Chapter 13, the worked example of forwarding: the fields of its link header, the landing entry's core and offset, the first block's
place by the placement entry of the sender. -/
theorem test_forwarded_burst :
    FlitHeader.ofNat 0x2A71139281858200 = ⟨0x2A7, 0x113, 2, false, 2, 1, 1, 0, 12, 705⟩ ∧
    ({ up with landing := [(3, 0x8014C784000F0000)] } : State).landing? 0x0F00002000 = some (481, 0x42000, 5) ∧
    ({ up with routes := [(705, 0x80000007)] } : State).place 0xC0200005820F0000 0x2000 false = some (.peer 705 0x0F00002000) ∧
    burstFlits 256 = 69 := by decide +kernel
/-- The far end's CONTROL body: its peer, version 1, level 255, any level accepted. -/
def farBody (peer : Nat) : BitVec 1952 := BitVec.ofNat 1952 (peer + 2 ^ 16 + 255 * 2 ^ 24)
/-- LinkStates: a port that is disabled or enabled; ends that agree and do not; retraining; standby with and without a flit; a request
out of time; a port that is unmated for the first and the third time. -/
theorem test_meets_linkStates :
    (linked {}).served = true ∧ (linked {}).house.fencedLinks.contains 4 = false ∧ ((linked {}).link 4).ctrl.getLsbD 0 = false ∧
    ((linked { ctrl := 0x10001 }).link 4).ctrl.getLsbD 0 = true ∧
    (∀ st ∈ [LinkState.retrain, .standby], ∀ r ∈ [[], [sentFlit 5]], ((linked { state := st, retry := r }).link 4).state = st) ∧
    (let o : Outstanding := ⟨3, 5, [2], 0x40, some 0⟩
     let k : LinkSt := { outstanding := [o] }
     k.outstanding.find? (fun o => o.since.any (fun c => decide (c + k.ctrl.toNat / 4 % 2 ^ 24 * 1024 ≤ (k.cycle + 2 ^ 40) % 2 ^ 64))) = some o) ∧
    (∀ n ∈ [0, 2], let k : LinkSt := { state := .active, retrainAt := List.replicate n 0 }
      ((k.retrainAt ++ [k.cycle]).filter (fun c => decide (k.cycle < c + 2 ^ 30))).length = n + 1) := by decide +kernel
/-- LinkStates: ends that agree, and one with the module's own peer. -/
theorem test_meets_config (s : State) : ((linked { state := .config, control := some (farBody 5) }).link 4).control = some (farBody 5) ∧
    (∀ p ∈ [5, 0], (farBody p).toNat / 2 ^ 16 % 2 ^ 8 = 1 ∧ (farBody p).toNat / 2 ^ 24 % 2 ^ 8 = 255 ∧ (farBody p).toNat / 2 ^ 32 % 2 ^ 8 = 0 ∧
      (farBody p).toNat % 2 ^ 12 = p) ∧ up.ownPeer = 0 ∧ s.controlBody / 2 ^ 32 % 2 ^ 8 ≤ 255 :=
  ⟨by decide +kernel, by decide +kernel, by decide +kernel, by omega⟩

/-! ## The host interface (chapters 16, 18 and 20) -/

/-- A fetched command of an opcode with further fields, each a lowest bit and a value. -/
def cmd (o : Nat) (l : List (Nat × Nat)) : Cmd := { num := 1, sq := 0, index := 0, entry := BitVec.ofNat 512 (fields ((0, o) :: l)), phase := .fetched }
/-- The module with that command, privileged ring 0 of 16 entries and its completion ring enabled. -/
def hosting (c : Cmd) : State :=
  { up with cmds := [c], sqs := [(0, { cfg := 0x80040200, tail := 1 })], cqs := [(0, { cfg := 0xC0040001 })] }
/-- May the service start the command now? -/
def startsB (s : State) (o : Nat) (c : Cmd) : Bool :=
  decide (s.cmds = [c] ∧ c.phase = .fetched ∧ c.bad = false ∧ opcodeKnown c.opcode = true ∧ s.commandFor o = some c ∧ c.fieldsOk = true ∧
    (deviceWide c.opcode = true → (s.sq c.sq).priv = true) ∧ (c.coreCommand = true → s.fenced c.core = false))
theorem settled_of {s : State} {c : Cmd} (h : s.cmds = [c]) (p : c.phase = .fetched) (b : c.bad = false) (k : opcodeKnown c.opcode = true) :
    Settled s := by
  intro d hd
  rw [h, List.mem_singleton] at hd
  subst hd
  exact ⟨fun _ _ _ e => absurd (p.symm.trans e) (by simp), fun _ _ => ⟨b, k⟩⟩
theorem starts_of {s : State} {o : Nat} {c : Cmd} (h : startsB s o c = true) : Starts s o c := by
  unfold startsB at h
  obtain ⟨a, b, d, e, rest⟩ := of_decide_eq_true h
  exact ⟨settled_of a b d e, rest⟩

/-- The commands of Table 16.11 but those of the Scrivener, with operands at the ends of their ranges. -/
def cmdNo (n : Nat) : Cmd :=
  match n with
  | 0x01 => cmd 1 [(64, 0x10000), (160, 8)]
  | 0x02 => cmd 2 [(32, 1023), (64, 0x7FFC + 3 * 2 ^ 16)]
  | 0x03 => cmd 3 [(32, 0xFFFF), (64, 5)]
  | 0x04 => cmd 4 [(32, 1023)]
  | 0x10 => cmd 0x10 [(64, 2 ^ 25 - 1), (128, 1)]
  | 0x11 => cmd 0x11 [(64, 2 ^ 25 - 1), (128, 1)]
  | 0x31 => cmd 0x31 [(64, 600)]
  | 0x32 => cmd 0x32 [(64, 5)]
  | n => cmd n []
/-- HostCommands: each command starts; one of bad fields does not; the module serves them. -/
theorem test_meets_starts :
    (∀ n ∈ [0, 1, 2, 3, 4, 0x10, 0x11, 0x30, 0x31, 0x32, 0x21], startsB (hosting (cmdNo n)) n (cmdNo n) = true) ∧
    ((hosting (cmd 0 [(9, 1)])).commandFor 0 = some (cmd 0 [(9, 1)]) ∧ (cmd 0 [(9, 1)]).fieldsOk = false) ∧
    up.readyOrSend = true ∧ (up.core 1023).allHalted = true ∧ (up.core 1023).frozen = false ∧
    up.allowed 45 ((hosting (cmdNo 3)).sq 0).cls (cmdNo 3).master true = true := by decide +kernel
/-- A PEER page of module 5 that guild 11 holds the entry of, and the answer to a read of its first block. -/
def answered5 : State := { hosting (cmdNo 1) with
  guilds := [(11, { cache := [(1, BitVec.ofNat 64 (fields [(63, 1), (60, 4), (25, 5)]))] })], routes := [(5, 0x80000004)],
  txns := [{ id := 0, src := .house, owner := askOwner, master := 0, cls := 3, write := false, target := .dva 0x10000, phase := .done 0 }], nextTxn := 1 }
/-- HostCommands: a TALLY_LOAD whose block has come from a peer. -/
theorem test_meets_tallyLoad :
    let x := (answered5.needRange 11 (cmdNo 1).master 0x10000 8 false).readRange .house (cmdNo 1).master 0x10000 8 (answered5.peerAnswers (· = .house))
    startsB answered5 1 (cmdNo 1) = true ∧ (cmdNo 1).q 1 40 0 = 0x10000 ∧ (cmdNo 1).q 2 48 32 = 8 ∧ x.2.1 = [] ∧ x.2.2.asks = [] ∧
      x.1 = List.replicate 8 (0, false) ∧ x.2.2.allowed 45 (x.2.2.sq 0).cls (cmdNo 1).master true = true := by decide +kernel
/-- HostCommands: pages of PLACE that are not frozen, a frozen core, a window boundary with one command, a failed module. -/
theorem test_meets_commandStates :
    ptFrozen (up.tableEntry (2 ^ 25 - 1)) = false ∧ Mem.wf up.tiers.bedrock = true ∧
    ((on3 { frozen := true }).core 3).frozen = true ∧
    (let c := { cmdNo 0x31 with phase := .waitBoundary }
     let s : State := { hosting c with house := { dev := .ready, image := 1 } }
     s.firmwareRuns = true ∧ s.cmds.filter (fun d => d.phase = .waitBoundary) = [c]) ∧
    (let s : State := { hosting (cmdNo 0x30) with house := { dev := .failed, cause := 2 } }
     startsB s 0x30 (cmdNo 0x30) = true ∧ s.house.dev = .failed) ∧
    (∀ h ∈ [{ dev := .zeroise }, { dev := .zeroise, cause := 2 }], let c := { cmdNo 0x30 with phase := .running }
      let s : State := { hosting c with house := h }
      s.commandFor 0x30 = none ∧ s.cmds.find? Cmd.zeroising = some c ∧ s.house.services = [] ∧ s.house.tripped = false) := by decide +kernel
/-- ZEROISE takes two steps: the device state shows ZEROISE between them, and the command completes after the second. -/
theorem test_zeroise :
    (match exec (.zeroise 0 ⟨false, false, false⟩) (hosting (cmdNo 0x30)) with
     | .next t => t.house.dev = .zeroise && t.cmds.any Cmd.zeroising &&
        (match exec (.zeroise 0 ⟨false, false, false⟩) t with
         | .next u => u.house.dev = .ready && u.house.zeroised = 1 && (u.cq 0).waiting.map (fun x => x.status) = [0]
         | _ => false)
     | _ => false) = true := by decide +kernel
/-- R506's example: link 22 lies at FC5, transmits on positions 5 and 6 and receives on 12 and 11; a type-B trunk leads position 5
to lane 0 receive of link 6; it joins links of the same m only, so that of link 7 is not reached. -/
theorem test_fibres :
    fibreConnector 22 = 5 ∧ fibreConnector 35 = 8 ∧ [fibreOut 22 0, fibreOut 22 1, fibreIn 22 0, fibreIn 22 1] = [5, 6, 12, 11] ∧
    trunkEnd (fibreOut 22 0) = fibreIn 6 0 ∧ fibreIn 7 0 = 10 ∧
    (∀ l < 36, ∀ n < 36, ∀ lane < 2, trunkEnd (fibreOut l lane) = fibreIn n lane ↔ l % 4 = n % 4) := by decide +kernel

/-- RingsAndEvents: rings enabled and disabled, a tail in range and past it, an entry to fetch, a completion with room and one without. -/
theorem test_meets_rings :
    (hosting (cmdNo 0)).served = true ∧ ringEnabled ((hosting (cmdNo 0)).sq 0).cfg = true ∧ ringEnabled ((hosting (cmdNo 0)).sq 1).cfg = false ∧
    ringSize ((hosting (cmdNo 0)).sq 0).cfg = 16 ∧ ((hosting (cmdNo 0)).sq 0).head ≠ ((hosting (cmdNo 0)).sq 0).tail ∧
    (∀ head ∈ [0, 1], let r : CompRing := { cfg := 0xC0040001, head := head, unsignalled := 1, waiting := [⟨1, 0, 0, 0, 0, 0, false⟩] }
      ringEnabled r.cfg = true ∧ r.cfg.getLsbD 30 = true ∧ r.cfg.toNat % 256 ≠ 0 ∧ ((r.tail + 1) % ringSize r.cfg = r.head ↔ head = 1)) ∧
    ({ hosting (cmdNo 0) with cmds := [] } : State).cmds = [] ∧ Mem.wf up.hostMem = true ∧
    (∀ c ∈ [0x00, 0x51], let s : State := { up with occurrences := [⟨c, [1]⟩], evq := { cfg := 0x80040000 } }
      s.evq.enabled = true ∧ recordParts [1] ≤ s.evq.room ∧ c < 128 ∧ s.house.services.contains 4 = false) := by decide +kernel

/-- The window claims 256 MiB from DVA 0 on, page 1 lies in Shale or Bedrock. -/
def windowed (n : Nat) : State := { oneAccess (access false .waiting) 0 with
  txns := [], port := { linkUp := true, decoder1 := 1, decoder0 := true, backInval := [5], snoop := [] }, guilds := [(7, { cache := [(1, entryNo n)] })] }
/-- HostLinkAndManagement: reads and writes of the window, the mirror, a snooped block that comes back, the link, IDE, services. -/
theorem test_meets_window :
    (∀ n ∈ [0, 1], ∀ w ∈ [true, false], let s := windowed n
      let l : Loc := if n = 0 then .shale 2 0x30000 else .bedrock 1 0x13880000
      s.windowOpen 0x10000 = true ∧ s.windowDva 0x10000 = 0x10000 ∧ s.house.dev ≠ .zeroise ∧
      s.judge (s.entryOf 7 1).1 (8 * 4096 + 0x40) 0x10000 w true = .go l false ∧ s.passes .host 0 l = false) ∧
    (windowed 0).house.power = true ∧ (windowed 0).port.decoder0 = true ∧ 5 ∈ (windowed 0).port.backInval ∧
    (let s : State := { up with house := { dev := .ready, image := 1 }, port := { linkUp := true, ideIo := true, i3cAddress := some 9 } }
     s.firmwareRuns = true ∧ (true && s.port.ideIo || true && s.port.ideMem) = true ∧ s.port.i3cAddress.isSome = true ∧
       s.house.services = [] ∧ s.house.image ≠ 2) ∧
    (let s : State := { up with port := { refclk := false, heldWrites := [(64, [1, 2])] } }
     s.house.dev ≠ .boot ∧ s.port.linkUp = false) := by decide +kernel

/-! ## Registers (chapters 18, 19 and 21) and the Counting House (chapter 17) -/

/-- R482, R489, chapter 21's worked example: GAU_SEL[300][12] is at 0x24B030, and CH_INFO reads 0x0D11_0101_0000_0000; R480: Bedrock
8's status at 0xB0040 is no register that is written. -/
theorem test_registerMap :
    regAt 0x24B030 = some (.gauSel 300 12) ∧ regAt 0xB0040 = none ∧ up.readBar 0 true = some 0x0D11010100000000 ∧
    up.readBar 4 false = some 0x0D110101 ∧ (State.reset).readBar 0 true = none := by decide +kernel
/-- FIPS 180's example: SHA-256 of "abc" begins BA 78. -/
theorem test_sha256 : digest [0x61, 0x62, 0x63] % 2 ^ 16 = 0x78BA := by decide +kernel

/-- RegistersHoldWrites, AccessTableWrites, LockingTheTables, CoreSetUpWrites: a serving module, open and locked, its links disabled or not,
a core fenced or not; each row's last register lies where its kind does. -/
theorem test_meets_registers :
    let locked : State := { up with sec := { locked := true }, links := [(35, { state := .active })] }
    (up.house.power = true ∧ up.port.linkUp = true ∧ up.house.dev ≠ .boot ∧ up.house.dev ≠ .failed ∧ up.sec.locked = false) ∧
    (locked.house.power = true ∧ locked.port.linkUp = true ∧ locked.house.dev = .ready ∧ locked.sec.locked = true ∧
      (locked.link 35).state ≠ .disabled) ∧
    (∀ l < 36, (up.link l).state = .disabled) ∧ up.house.fencedCores.contains 3 = false ∧
    ({ up with house := { dev := .ready, fencedCores := [3] } } : State).house.fencedCores.contains 3 = true ∧
    (plainRows ++ lockRows).all (fun r => (regAt r.base).isSome && (regAt (r.base + (r.count - 1) * r.stride)).isSome &&
      r.base + r.count * r.stride < 2 ^ 26) = true := by decide +kernel
/-- RegisterWritesIgnored: an address for each of its cases. -/
theorem test_meets_ignored :
    0x12 % 4 ≠ 0 ∧ (State.reset).port.linkUp = false ∧ regAt 0xC0000 = none ∧
    (regAt 0x84000).map (·.bytes) = some 8 := by
  decide +kernel
/-- SecurityVersionCommit, UnitCounterAccesses, BandwidthWindowEnds. -/
theorem test_meets_counters :
    (let s : State := { up with sec := { runningSvn := 5 }, fuses := { svn := 4 } }
     s.sec.commitBusy = false ∧ s.fuses.svn < s.sec.runningSvn) ∧
    (let s : State := { up with sec := { runningSvn := 5, commitBusy := true }, fuses := { svn := 5 } }
     s.sec.commitBusy = true ∧ s.sec.runningSvn ≤ s.fuses.svn ∧ s.house.power = true) ∧
    unitIndex 0xC1 2 = true ∧ unitIndex 0x80 0x300 = true ∧ unitIndex 0x80 0 = true ∧ Tab.wf up.bwPeak = true ∧ Tab.wf up.bwNow = true ∧
    up.bwRuns 0x80 = true ∧ up.bwWindow 0x80 ≤ 48 := by decide +kernel

/-- Nothing has to be recalled where the host holds no block. -/
theorem recall_none {s : State} (h : s.port.snoop = [] ∧ s.port.backInval = []) (g m d n : Nat) (w : Bool) :
    (s.recall g m d n w).1 = false := by
  have e : s.snoopedOf g m d n w = [] :=
    List.filter_eq_nil_iff.mpr (fun l _ => by cases x : l.snoopKey <;> simp [State.snooped, h.1, h.2, x])
  simp [State.recall, e]
/-- A micro-op whose sample is complete. -/
def sampled : Sample := { op := uop .inbound 0 [], issue := 5, began := 6, done := some 9, faulted := false }
/-- SampleRecords, DumpRecords: a completed sample and its ring; a dump on a multiple of the interval, with and without one under way. -/
theorem test_meets_records :
    (let s := on3 { gauger := { samples := [sampled] } }
     s.coreRuns 3 = true ∧ ((s.core 3).gauger.samples.find? (fun y => y.done.isSome)).isSome = true ∧ s.port.snoop = [] ∧ s.port.backInval = []) ∧
    (let s := on3 { cycle := 2 ^ 64 - 3, gauger := { cfg := 0x00FA0ABC40000000 } }
     s.coreRuns 3 = true ∧ (s.core 3).gauger.cfg.getLsbD 39 = true ∧ ((s.core 3).cycle + 3) % 2 ^ 64 % 2 ^ (s.core 3).gauger.dumpLog = 0 ∧
      s.txns = [] ∧ (s.atCore 3 (fun e => { e with k := { e.k with cycle := ((s.core 3).cycle + 3) % 2 ^ 64 } })).port.snoop = []) ∧
    ({ access true (.sent (.host 0)) with src := Src.gauger 3 }).src = .gauger 3 := by decide +kernel

/-- ColdResets, HouseFailures: rails and link up, the brake off or on, a service and its clerk core. -/
theorem test_meets_house :
    up.house.power = true ∧ up.port.linkUp = true ∧ up.house.tripped = false ∧ up.house.brake = false ∧ 1150 * up.house.cap < 40000 * 54 ∧
    ({ up with house := { dev := .ready, image := 2 } } : State).firmwareRuns = true ∧
    2 ∈ nth [] [[0], [1, 2], [3, 4], [5], [6], [7]] 1 := by decide +kernel
/-- StartUp: without an image no slot boots; with one whose digests agree, and whose signature verifies, that slot does. -/
theorem test_meets_startUp :
    (State.reset).house.dev = .boot ∧ (State.reset).house.power = true ∧ (State.reset).house.pwrOk = true ∧ (State.reset).bootSlot = none ∧
    ((∀ k d g, Config.slhVerify k d g = true) →
      ({ State.reset with
        flash := (((Mem.wrLe [] 0x100000 4 0x49554455).wrLe 0x100004 2 1).wrLe 0x100010 4 7).wrLe 0x100020 32 (digest []),
        fuses := { keyDigest := [(0, digest (natLe 64 0))], svn := 7 } } : State).bootSlot = some false) := by
  refine ⟨by decide +kernel, by decide +kernel, by decide +kernel, by decide +kernel, fun h => ?_⟩
  simp only [State.bootSlot, State.imageOk, h, Bool.and_true]
  decide +kernel

/-- The figures of a window: an energy, every guild at a temperature. -/
def figures (energy temp : Nat) : Measures :=
  { energy := energy, fabricCost := 1, temps := List.replicate 32 temp }
/-- PlannerWindows, IdleStates, EnergyRecords: estimates above the cap, below 0.95 of it and between; an idle module; an invocation's figures. -/
theorem test_meets_planner :
    let s : State := { up with house := { dev := .ready, image := 1, wakeLatency := 5000, points := [(0, 6), (1, 3)] } }
    let b := s.house.cap * 2 ^ (min 26 (max 14 (s.house.energyCfg.toNat % 64)))
    (s.firmwareRuns = true ∧ 3 ∉ s.house.services ∧ s.house.idle = 0 ∧ s.cmds = [] ∧ s.house.tripped = false ∧ s.isIdle = true) ∧
    (∀ g : Nat, g < 32 → s.house.points.get 0 g ≤ 6) ∧ (figures 0 0).temps.length = 32 ∧
    b < 1000 * (figures (b / 1000 + 1) 0).energy ∧ 100 * (1000 * (figures 0 100000).energy) < 95 * b ∧
    (1000 * (figures (b / 1000) 0).energy ≤ b ∧ 95 * b ≤ 100 * (1000 * (figures (b / 1000) 0).energy)) ∧
    (let s : State := { on3 { gauger := { accounts := [{ num := 0, began := 5, ended := some 9 }] } } with
                        house := { dev := .ready, image := 1, energyCfg := 0x00190014 } }
     s.house.energyCfg.getLsbD 16 = true ∧ s.fenced 3 = false ∧ ((s.core 3).gauger.accounts.head?.bind (·.ended)) = some 9 ∧ s.port.snoop = [] ∧ s.port.backInval = []) ∧
    ({ s with house := { s.house with idle := 3 } } : State).house.idle ≠ 0 := by decide +kernel

/-! ## The collective library (chapter 14) -/

/-- A plan of one stage and two slots over 2,048 blocks; slot 0 is this module's (peer 0), with a backup, slot 1 is peer 6's. -/
def plan9 : Plan :=
  { stages := 1, slotCount := 2, ownStage := 0, ownSlot := 0, role := 0, policy := 2, gather := 0, latePort := 4, lateCycles := 64, step0 := 3,
    entries := 64 * 2048, emem := 0, coll := 0x1000000000, slots := [(0, 0x8000100700000000), (1, 0x8000000000000006)] }
/-- What its patterns carry: peer 6 has cores 0 and 1. -/
def layout9 : Layout :=
  { gradient := 0, hyper := 0, home := ⟨0, 0, 0⟩, staging := ⟨0, 0, 0⟩, rule := 0, wHalf := false, mHalf := false, vHalf := false,
    stochastic := false, working := 0, form := 1, relay := 100, mates := [⟨6, 0x1800000000, [0, 1]⟩, ⟨7, 0x1000000000, [0]⟩] }
/-- The module with that plan in step 3; the TOKEN, VOTE, RECOMPUTE and PARAM lines land in core 0's first lines. -/
def planning : State :=
  { up with coll := { plan := some plan9, layout := some layout9, step := 3 },
            landing := [(0, 0x8000000000140000), (1, 0x8000100000140080), (2, 0x80002000001400C0), (3, 0x8000300000140100)] }
/-- The module with a library's record, and a message in a line of core 0. -/
def holding (x : Collective) (line : Nat) (m : Message) : State :=
  { planning with coll := x, cores := [(0, { ls := { data := Mem.wrBytes [] (64 * line) m.bytes } })] }
/-- Its record in step 3. -/
def record9 : Collective := { plan := some plan9, layout := some layout9, step := 3 }

/-- ThinningAndMessages: blocks with a NaN, of zeros, and of numbers; chapter 14's examples of a scale code: 0x3E99999A gives 0x7D and
0x3FC00000 gives 0x80. -/
theorem test_thinning :
    (thinInputs (List.replicate 64 (0x7FC00000, false)) (List.replicate 64 (0, false))).any (fun x => (val32 x.1).isNonFinite) = true ∧
    meanMagnitude (thinInputs (List.replicate 64 (0x80000000, false)) (List.replicate 64 (0, false))) % 2 ^ 31 = 0 ∧
    (thinInputs (List.replicate 64 (0x3E99999A, false)) (List.replicate 64 (0, false))).any (fun x => x.2 || (val32 x.1).isNonFinite) = false ∧
    (thinBlock (List.replicate 64 (0x3E99999A, false)) (List.replicate 64 (0, false))).code = 0x7D ∧
    (thinBlock (List.replicate 64 (0x3FC00000, false)) (List.replicate 64 (0, false))).code = 0x80 ∧
    (([⟨0xFF, 2 ^ 64 - 1, []⟩] : List Thinned).all fun x => x.code < 256 && x.signs < 2 ^ 64) = true := by decide +kernel
/-- Table 14.5's worked example: the piece and the TOKEN of backup slot 3 for core 300, and the shares of a shard over live cores. -/
theorem test_collectiveArea :
    pieceOff 3 1 300 = 0x3A580000 ∧ tokenOff 3 1 300 = 0x400243B00 ∧ plan9.piece 0 [0, 1, 5] 0 = (0, 342) ∧ plan9.piece 0 [0, 1, 5] 5 = (683, 341) ∧
    plan9.piece 1 [0] 0 = (1024, 1024) := by decide +kernel

/-- CollectiveContributions: the plan's state; a first piece to slot 0 and one to slot 1; a core still at work; a RECOMPUTE that came. -/
theorem test_meets_contributions :
    (planning.coll.stopped = false ∧ planning.coll.plan = some plan9 ∧ planning.coll.layout = some layout9) ∧
    planning.coreRuns 1 = true ∧ planning.coll.held = false ∧ planning.coll.began = [] ∧
    (∀ k : Fin 2, 0 < (plan9.piece k (planning.slotCores plan9 layout9 k) 1).2 ∧ (planning.areaOf plan9 layout9 (plan9.primary 0 k)).isSome = true) ∧
    planning.liveCores.all (fun d => (planning.core d).scheduleDone) = true ∧
    planning.liveCores.any (fun d => !(({ planning with cores := [(1, { invQueue := [⟨1, 0, 1, []⟩] })] } : State).core d).scheduleDone) = true ∧
    (let s := holding { record9 with began := [(0, 5)] } 0x2000 ⟨3, 0, 0, 6, 1, 3, 0, 0, 0⟩
     s.lineOf (plan9.coll + 0x400C00000 + 1 * 64) = some (0, 0x801) ∧ s.coll.began ≠ []) ∧
    (let s := holding { record9 with began := [(0, 5)] } 0x801 ⟨3, 0, 0, 6, 1, 3, 0, 0, 0⟩
     (s.messageAt 0 0x801).1.kind = 3 ∧ (s.messageAt 0 0x801).1.slot = 1 ∧ (s.messageAt 0 0x801).1.step = 3 ∧ (s.messageAt 0 0x801).2.2 = false) := by
  decide +kernel
/-- What a TOKEN of slot 0's primary says. -/
def token9 (step : Nat) : Message := ⟨1, 0, 0, 0, 0, step, 1, 0, 0⟩
/-- A copy of slot 0 at core 0. -/
def copy9 (role step digest : Nat) (poison : Bool) : Copy := ⟨0, 0, role, 0, step, 1, 0, digest, List.replicate 576 (0, poison), poison⟩
/-- Core 0 holds a TOKEN in its line and the relayed one; its blocks come from peer 5, or are refused. -/
def receiving (x : Collective) (step : Nat) (peer : Bool) : State :=
  { holding x 0 (token9 step) with
    routes := [(5, 0x80000004)], guilds := [(0, { cache := [(0x100000, if peer then 0xC00000000A000000 else 0)] })],
    txns := if peer then (List.range 9).map (fun i => { id := i, src := .lib 0, owner := askOwner, master := 0, cls := 2, write := false,
                                                        target := .dva (0x1000000000 + 64 * i), phase := .done 0 }) else [] }
/-- CollectiveContributions: a relay to another core; TOKENs of the step and of a later one, before and in the reduction phase, unpoisoned
and poisoned, the first of a slot and the second; nothing is asked for. -/
theorem test_meets_tokens :
    planning.lineOf (plan9.coll + 0x400000000 + 1 / 32 * 262144 + ((2 * 0 + 0) * 32 + 1 % 32) * 64) = some (0, 1) ∧
    planning.lineOf (plan9.coll + 0x400000000) = some (0, 0) ∧
    (∀ began ∈ [[], [(0, 5)]], ∀ step ∈ [3, 4], ∀ peer ∈ [true, false], ∀ cs ∈ [[], [copy9 1 3 0 false], [copy9 1 3 1 false]],
      let s := receiving { record9 with began := began, copies := cs } step peer
      s.coreRuns 0 = true ∧ (s.messageAt 0 0).1 = token9 step ∧ (s.messageAt 0 0).2.2 = false ∧ Tab.wf s.coll.taken = true ∧
      s.coll.copy 0 0 1 = cs.head? ∧ ((s.receiveToken (s.peerAnswers Src.isLib) plan9 layout9 0 0 0 0).asks = [])) := by
  decide +kernel
/-- CollectiveContributions: what comes from the peer is unpoisoned, what is refused is poisoned; two copies agree by their digests. -/
theorem test_meets_copies :
    (∀ peer ∈ [true, false], let s := receiving { record9 with began := [(0, 5)] } 3 peer
      ((s.receiveToken (s.peerAnswers Src.isLib) plan9 layout9 0 0 0 0).coll.copies.map (fun y => y.poison)) = [!peer]) ∧
    (copy9 0 3 0 false).agrees (copy9 1 3 0 false) = true ∧ (copy9 0 3 0 false).agrees (copy9 1 3 1 false) = false := by decide +kernel
/-- CollectiveContributions: a slot that is late, its primary's copy poisoned, its backup's there. -/
theorem test_meets_late :
    let s : State := { planning with coll := { record9 with began := [(0, 5)], copies := [copy9 0 3 0 true, copy9 1 3 0 false] },
                                     cores := [(0, { gauger := { counters := [(255, { count := 69 })] } })] }
    s.coreRuns 0 = true ∧ (plan9.backup plan9.ownStage 0).isSome = true ∧ s.coll.began.find 0 = some 5 ∧
    plan9.lateCycles ≤ ((s.counterWord 0 255).toNat % 2 ^ 48 + 2 ^ 48 - 5) % 2 ^ 48 ∧ (s.coll.present 0 0 0).map (·.poison) = some true ∧
    (s.coll.present 0 0 1).map (·.poison) = some false := by decide +kernel
/-- CollectiveVotesAndParameters: a plan's first core, a HOLD and an OK vote of slot 1's owner, parts of a PARAM, a decision. -/
theorem test_meets_votes :
    planning.voteCore = some 0 ∧ planning.coreRuns 0 = true ∧
    (∀ code ∈ [0, 1], let s := holding record9 0x400 ⟨2, code, 0, 6, 1, 3, 0, 0, 0⟩
      s.lineOf (plan9.coll + 0x400800000 + 1 * 64) = some (0, 0x401) ∧ (s.messageAt 0 0x400).1.code = code ∧
        (s.messageAt 0 0x400).1.peer = plan9.primary 0 1 ∧ (s.messageAt 0 0x400).2.2 = false) ∧
    plan9.owners = [0, 1] ∧
    (let s := holding record9 0xC00 ⟨4, 0, 0, 0, 0, 3, 14528 - 12480, 0, 0⟩
     s.lineOf (plan9.coll + 0x401000000) = some (0, 0xC00) ∧ (s.messageAt 0 0xC00).1.kind = 4 ∧ (s.messageAt 0 0xC00).2.2 = false ∧
       (s.messageAt 0 0xC00).1.first + (s.messageAt 0 0xC00).1.blocks = plan9.entries / 64) ∧
    ({ plan9 with slotCount := 1, slots := [(0, 0x8000000000000000)] } : Plan).holders = [0] ∧
    (∀ code ∈ [0, 1, 2, 3, 4, 5], ∀ step ∈ [3, 4], let w := BitVec.ofNat 64 (code * 2 ^ 56 + step)
      w.toNat / 2 ^ 56 = code ∧ (w.toNat % 2 ^ 48 = 3 % 2 ^ 48 ↔ step = 3)) := by decide +kernel
/-- Every core that owns a piece may have staged its update. -/
theorem test_meets_staged (s : State) (p : Plan) : ∀ c ∈ s.liveCores, s.ownsPiece p c = true → (List.range 1024).contains c = true := by
  intro c hc _
  simp only [State.liveCores, List.mem_filter, List.mem_range] at hc
  simpa using hc.1
/-- CollectiveVotesAndParameters: the end of a step reached and not. -/
theorem test_meets_boundary :
    (let x : Collective := { record9 with committed := true, widened := [(0, 2048)], thinned := [(0, 1024), (1024, 1024)] }
     plan9.entries / 64 ≤ x.widened.foldl (fun n y => n + y.2) 0 ∧ plan9.entries / 64 ≤ x.thinned.foldl (fun n y => n + y.2) 0) ∧
    record9.widened.foldl (fun n y => n + y.2) 0 < plan9.entries / 64 ∧
    (up.core 3).lane 63 ≠ 0 ∧ (List.replicate 128 ((0 : Byte), false)).length = 128 := by decide +kernel
/-- CollectiveVotesAndParameters: COMMIT_BACKUP in a step that does not end with it. -/
theorem test_meets_commitBackup :
    let s : State := { planning with coll := { record9 with held := true, diverged := [64] } }
    (s.commitBackup [] { plan9 with role := 1 } layout9).coll.step = s.coll.step := by decide +kernel
/-- CollectiveVotesAndParameters: the parts of a permute, at a boundary, with moves to leave, to come and come. -/
theorem test_meets_permute :
    planning.quietLib = true ∧
    (let m : Move := ⟨0, [(0, 0x10000, 128)], 0, 1, 6, 1, some 0x20000⟩
     let a : Arrival := ⟨0, 6, 1, 0, 0, 1, [(0x10000, 0, 128)], some 0x20000⟩
     ∀ x ∈ [(⟨[m], [a], []⟩ : Permute), ⟨[], [a], []⟩, ⟨[], [], [a]⟩, ⟨[], [], []⟩],
       ({ planning with coll := { record9 with permute := some x } } : State).coll.permute = some x) := by decide +kernel

/-! ## The Scrivener (chapter 15) -/

/-- The module with a command that names a request block at 0x2000, its fields given by byte offset, width and value. -/
def requesting (o : Nat) (l : List (Nat × Nat × Nat)) : State :=
  { hosting (cmd o [(64, 0x2000)]) with hostMem := l.foldl (fun (m : Mem) x => m.wrLe (0x2000 + x.1) x.2.1 x.2.2) [] }
/-- A snapshot request to the host: step 7, context pages from page 0, destination after them, one region. -/
def snapshotReq (kind regions : Nat) : State :=
  requesting 0x20 [(0, 8, 7), (8, 8, 20480 * 65536), (48, 8, 9), (64, 8, kind + 256 * regions), (136, 8, 1)]
/-- SnapshotsBeginAndFreeze: requests at a READY module and at one that is not; too many regions. -/
theorem test_meets_snapshot :
    (∀ kind ∈ [0, 1], ∀ r ∈ [0, 65], let s := snapshotReq kind r
      startsB s 0x20 (cmd 0x20 [(64, 0x2000)]) = true ∧ s.port.linkUp = true ∧ s.snapshot = none ∧ s.restore = none ∧
        s.house.dev = .ready ∧ s.house.power = true ∧ s.house.tripped = false ∧ s.house.services = [] ∧ s.hostPoison = [] ∧
        (cmd 0x20 [(64, 0x2000)]).q 1 63 0 = 0x2000 ∧ snapshotFieldsOk (s.hostMem.bytes 0x2000 1152) = true) ∧
    (let s := snapshotReq 1 65
     s.requestOk (snapshotOf 1 (s.hostMem.bytes 0x2000 1152)) 0 = false) ∧
    startsB { snapshotReq 1 0 with house := { dev := .send } } 0x20 (cmd 0x20 [(64, 0x2000)]) = true := by decide +kernel

/-- A placement table whose first `n` pages have entries that are 0 but for their highest byte. -/
def flatTable (b : Byte) : Nat → Mem
  | 0 => []
  | n + 1 => (flatTable b n).wr (8 * n + 7) b
theorem flatTable_wf (b : Byte) : ∀ n, Mem.wf (flatTable b n) = true
  | 0 => rfl
  | n + 1 => Mem.wf_wr _ _ (flatTable_wf b n)
theorem flatTable_rd (b : Byte) (a : Nat) : ∀ n, (flatTable b n).rd a = if a % 8 = 7 ∧ a / 8 < n then b else 0
  | 0 => by simp [flatTable, Mem.rd]
  | n + 1 => by
    rw [flatTable, Mem.rd_wr _ _ _ (flatTable_wf b n), flatTable_rd b a n]
    by_cases h : a = 8 * n + 7
    · rw [if_pos h, if_pos (by omega)]
    · rw [if_neg h]
      exact if_congr (by omega) rfl rfl
theorem flatTable_entry (s : State) (b : Byte) (n p : Nat) (h : s.tiers.bedrock = flatTable b n) (hp : p < n) :
    s.tableEntry p = BitVec.ofNat 64 (b.toNat * 2 ^ 56) := by
  have r : ∀ i, i < 8 → (flatTable b n).rd (8 * p + i) = if i = 7 then b else 0 := by
    intro i hi
    rw [flatTable_rd]
    exact if_congr (by omega) rfl rfl
  have e : s.tiers.bedrock.bytes (8 * p) 8 = (List.range 8).map (fun i => if i = 7 then b else 0) := by
    rw [h]
    exact List.map_congr_left (fun i hi => r i (List.mem_range.mp hi))
  have v : leNat [0, 0, 0, 0, 0, 0, 0, b] = b.toNat * 2 ^ 56 := by
    have z : (0 : Byte).toNat = 0 := rfl
    simp only [leNat, z]
    omega
  rw [State.tableEntry, Mem.le, e, show (List.range 8).map (fun i => if i = 7 then b else 0) = [0, 0, 0, 0, 0, 0, 0, b] from rfl, v]
theorem mapped_of (s : State) (b : Byte) (n p : Nat) (e : Word) (h : s.tiers.bedrock = flatTable b n) (hp : p < n) (hn : n ≤ 2 ^ 25)
    (he : BitVec.ofNat 64 (b.toNat * 2 ^ 56) = e) (v : ptValid e = true) (k : ∀ d, (s.place e d false).isSome = true) : s.mapped p = true := by
  simp only [State.mapped, flatTable_entry s b n p h hp, he, v, k]
  simp; omega
/-- The requests of above with every page mapped: to the host, or to peer 0 from module 5. -/
def mappedReq (kind : Nat) : State :=
  { snapshotReq kind 0 with
    self := 5, routes := [(0, 0x80000004)], tiers := { bedrock := flatTable (if kind = 0 then 0xC0 else 0xB0) 40973 } }
/-- SnapshotsBeginAndFreeze: a good request to the host, whose links are as they must be, and one to a peer over no link. -/
theorem test_meets_goodRequest : ∀ kind ∈ [0, 1], let x := snapshotOf 1 ((mappedReq kind).hostMem.bytes 0x2000 1152)
    (mappedReq kind).requestOk x 0 = true ∧ (mappedReq kind).linksOk x = decide (kind = 1) := by
  intro kind hk x
  have hx : x = { cmd := 1, step := 7, destBase := 20480 * 65536, ctxBase := 0, linkMask := 0, release := 9, timeout := 0, kind := kind,
                  sign := false, regions := [], pool := [] } := by
    simp only [List.mem_cons, List.mem_nil_iff, or_false] at hk
    rcases hk with rfl | rfl <;> decide +kernel
  have t : ∀ p, p < 40973 → (mappedReq kind).tableEntry p = if kind = 0 then 0xC000000000000000 else 0xB000000000000000 := by
    intro p hp
    rw [flatTable_entry (mappedReq kind) _ 40973 p rfl hp]
    split <;> rfl
  have m : ∀ p, p < 40973 → (mappedReq kind).mapped p = true := by
    intro p hp
    have q : p < 2 ^ 25 := by omega
    simp only [List.mem_cons, List.mem_nil_iff, or_false] at hk
    rcases hk with rfl | rfl
    · have e : (mappedReq 0).tableEntry p = 0xC000000000000000 := t p hp
      have c : ptValid 0xC000000000000000 = true := by decide
      have r : (mappedReq 0).routeOf 0 = some 4 := by decide +kernel
      have g : (mappedReq 0).place 0xC000000000000000 (p * pageBytes) false = some (.peer 0 (0 + p * pageBytes % 65536)) := by
        have a : ptTarget 0xC000000000000000 = 4 := by decide
        have b : ptFrame 0xC000000000000000 = 0 := by decide
        have o : (mappedReq 0).ownPeer = 5 := rfl
        have z : bitsOf 0 36 25 = 0 := rfl
        simp only [State.place, a, b, o, z, r]
        rfl
      rw [State.mapped, e, g, c]
      simpa using q
    · have e : (mappedReq 1).tableEntry p = 0xB000000000000000 := t p hp
      have c : ptValid 0xB000000000000000 = true := by decide
      have g : (mappedReq 1).place 0xB000000000000000 (p * pageBytes) false = some (.host (0 + p * pageBytes % 65536)) := by
        have a : ptTarget 0xB000000000000000 = 3 := by decide
        have b : ptFrame 0xB000000000000000 = 0 := by decide
        have l : (mappedReq 1).port.linkUp = true := rfl
        simp only [State.place, a, b, l]
        rfl
      rw [State.mapped, e, g, c]
      simpa using q
  have n : (dataBase x.destBase x.count x.sign - x.destBase) / pageBytes + x.count = 20493 := by
    rw [hx]
    show (dataBase (20480 * 65536) 20480 false - 20480 * 65536) / pageBytes + 20480 = 20493
    decide +kernel
  have d : x.destBase / pageBytes = 20480 := by
    rw [hx]
    show 20480 * 65536 / pageBytes = 20480
    decide +kernel
  refine ⟨?_, ?_⟩
  · simp only [State.requestOk, Bool.and_eq_true, decide_eq_true_eq, List.all_eq_true]
    refine ⟨⟨⟨⟨⟨⟨?_, ?_⟩, ?_⟩, ?_⟩, ?_⟩, ?_⟩, ?_⟩
    · rw [hx]; exact Nat.zero_le _
    · rw [hx]; rfl
    · rw [hx]
      show 20480 * 65536 % pageBytes = 0
      decide +kernel
    · decide
    · simp only [State.mappedRun, List.all_eq_true, List.mem_range]
      intro i hi
      rw [hx]
      exact m _ (by simp [pageBytes]; omega)
    · intro p hp
      rw [hx] at hp
      cases hp
    · intro p hp
      simp only [Snapshot.destPages, n, d, List.mem_map, List.mem_range] at hp
      obtain ⟨i, hi, rfl⟩ := hp
      refine ⟨m _ (by omega), ?_⟩
      rw [t _ (by omega), State.destPeer, d, t _ (by omega), hx]
      simp only [List.mem_cons, List.mem_nil_iff, or_false] at hk
      rcases hk with rfl | rfl <;> decide
  · simp only [List.mem_cons, List.mem_nil_iff, or_false] at hk
    rcases hk with rfl | rfl <;> simp [State.linksOk, hx]

/-- A snapshot of one region, its cores captured or not, frozen or not. -/
def snap9 (cores : List Nat) (frozen released : Bool) (next : Nat) : Snapshot :=
  { cmd := 1, step := 7, destBase := 0, ctxBase := 0, linkMask := 0, release := 9, timeout := 5, kind := 1, sign := false, regions := [(0x50000000, 1)],
    pool := [30000, 30001], captured := cores, frozen := frozen, released := released, next := next }
/-- The module at work on it. -/
def snapping (d : DevState) (x : Snapshot) : State := { hosting (cmd 0x21 []) with house := { dev := d }, snapshot := some x }
/-- SnapshotsBeginAndFreeze: the first capture and a later one, of a live core and of a fenced one; a core that is not quiescent; all
captured, before the freeze and with accesses that must still be performed; a cancel. -/
theorem test_meets_capture :
    (∀ cs ∈ [[], [0]], let s := snapping .capture (snap9 cs false false 0)
      (snap9 cs false false 0).captured.contains 3 = false ∧ s.quiescent 3 = true ∧ s.allQuiescent = true ∧ s.port.snoop = [] ∧ s.port.backInval = []) ∧
    ({ snapping .capture (snap9 [0] false false 0) with house := { dev := .capture, fencedCores := [3] } } : State).fenced 3 = true ∧
    ({ snapping .capture (snap9 [] false false 0) with cores := [(3, { threads := [(1, { state := .ready })] })] } : State).allQuiescent = false ∧
    ((snap9 [] false false 0).page 20480 = 0x5000 ∧ (snap9 [] false false 0).page 20479 = 20479) ∧
    ({ snapping .capture (snap9 [] true false 0) with txns := [access false (.sent (.host 0))] } : State).performedAll [4] = false ∧
    (∀ d ∈ [DevState.capture, .send], startsB (snapping d (snap9 [] (d = .send) (d = .send) 0)) 0x21 (cmd 0x21 []) = true) := by decide +kernel
/-- SnapshotsBeginAndFreeze: every core captured. -/
theorem test_meets_allCaptured (f : Bool) (c : CoreId) : (snap9 (List.range 1024) f false 0).captured.contains c.val = true := by
  simp [snap9]
/-- SnapshotsBeginAndFreeze: every page of a snapshot is one of the table's. -/
theorem test_meets_pages : ∀ i < (snap9 [] false false 0).count, (snap9 [] false false 0).page i < 2 ^ 25 := by
  have n : (snap9 [] false false 0).count = 20481 := by decide +kernel
  intro i hi
  rw [n] at hi
  have e : (snap9 [] false false 0).page i = if i < 20480 then 0 / pageBytes + i else regionPage [(0x50000000, 1)] (i - 20480) := rfl
  rw [e]
  split
  · simp; omega
  · rw [show i - 20480 = 0 by omega]
    decide +kernel
/-- SnapshotPagesAndManifest: a page sent from its home or its copy, with room in its Drayman's queue or none; the manifest. -/
theorem test_meets_sending :
    (∀ cs ∈ [[], [(0, 30000)]], let x := { snap9 [] true true 0 with copies := cs }
      let s := snapping .send x
      s.house.power = true ∧ s.house.tripped = false ∧ 2 ∉ s.house.services ∧ x.next < x.count ∧ x.page 0 = 0 ∧
        (s.guild (s.scrivGuild 0)).scrivQueue.length < 16) ∧
    (let s : State := { snapping .send (snap9 [] true true 0) with guilds := [(11, { scrivQueue := List.range 16 })] }
     16 ≤ (s.guild (s.scrivGuild (0))).scrivQueue.length) ∧
    (∀ m ∈ [true, false], let x := { snap9 [] true true 20481 with manifest := m }
      x.count ≤ x.next ∧ (snapping .send x).unacked = false) := by decide +kernel
/-- SnapshotPagesAndManifest: a write held on the last page of a snapshot, a frame of its own stack free, another's, or none. -/
theorem test_meets_copyOnWrite :
    (let x := snap9 [] true true 20480
     let s : State := { snapping .send x with
                        tiers := { bedrock := Mem.wrLe [] (8 * 0x5000) 8 0x9800000000000000 },
                        txns := [{ access true .held with target := .dva (0x5000 * 65536) }] }
     x.has 0x5000 = true ∧ ptFrozen (s.tableEntry 0x5000) = true ∧ x.unsent 0x5000 = true ∧ s.txns.any (fun y => y.heldOn 0x5000) = true ∧
       (∀ g ∈ x.pool, s.stackOf g ≠ s.stackOf 0x5000) ∧
       (let s := { s with tiers := { bedrock := (Mem.wrLe [] (8 * 30000) 8 0x9000000000000000).wrLe (8 * 0x5000) 8 0x9800000000000000 } }
        s.stackOf 30000 = s.stackOf 0x5000)) ∧
    ({ snap9 [] true true 0 with pool := [] }).counted.contains 0x5000 = false := by decide +kernel

/-- A restore request: step 7, one source from the host, no page map, the manifest at page 0. -/
def restoreReq : State := requesting 0x22 [(0, 8, 7), (56, 8, 1)]
/-- A restore of one page, of core 3 into core 5, from one source or two. -/
def rest9 (next : Nat) (two : Bool) : Restore :=
  { cmd := 1, step := 7, sources := ⟨1, 0, 0, false⟩ :: if two then [⟨1, 65536, 0, false⟩] else [], ctxBase := 0, release := 9, pageMap := [],
    coreMap := [(3, 5)], entries := [⟨40, false, 5⟩], next := next, cores := [3] }
/-- Restores: a request, a page to load, a core to restore, the last or one before it. -/
theorem test_meets_restore :
    (startsB restoreReq 0x22 (cmd 0x22 [(64, 0x2000)]) = true ∧ restoreReq.port.linkUp = true ∧ restoreReq.house.dev = .ready ∧
      restoreReq.allQuiescent = true ∧ restoreReq.liveCores.all (fun c => (restoreReq.core c).allHalted) = true ∧ restoreReq.hostPoison = [] ∧
      restoreFieldsOk (restoreReq.hostMem.bytes 0x2000 1152) 0x2000 1152 = true ∧
      (leNat (((restoreReq.hostMem.bytes 0x2000 1152).drop 56).take 8)).testBit 6 = false) ∧
    (leNat (((requesting 0x22 [(40, 8, 5)]).hostMem.bytes 0x2000 1152).drop 40 |>.take 8)) % 65536 ≠ 0 ∧
    (∀ two ∈ [true, false], (rest9 0 two).entries[(rest9 0 two).next]? = some ⟨40, false, 5⟩ ∧ (rest9 0 two).sources.head? = some ⟨1, 0, 0, false⟩ ∧
      (rest9 0 two).sources.tail = if two then [⟨1, 65536, 0, false⟩] else []) ∧
    (rest9 1 false).entries.length ≤ (rest9 1 false).next ∧ (rest9 1 false).cores.contains 3 = true ∧
    (rest9 1 false).coreMap.find? (fun x => x.1 = 3) = some (3, 5) ∧ ((rest9 1 false).cores.filter (· ≠ 3)) = [] ∧
    ({ rest9 1 false with cores := [3, 4] }).cores.filter (· ≠ 3) = [4] ∧
    ({ restoreReq with restore := some (rest9 1 false) } : State).port.snoop = [] := by decide +kernel

/-! ## The machine as a whole, and worked examples of the manual -/

/-- Well-formedness refuses a term for each of its checks. -/
theorem test_wf_refuses :
    (∀ m ∈ [figures 0 0, { figures 0 0 with temps := [] }],
      (Instr.plannerWindow m).wf = decide (m = figures 0 0)) ∧
    (Instr.spdmRequest ⟨none, none, none, []⟩).wf = false ∧ (Instr.spdmRequest ⟨some 0, none, none, [0x11]⟩).wf = false ∧
    (Instr.registerWrite 2 false 0).wf = false ∧ (Instr.registerWrite 4 true 0).wf = false ∧ (Instr.registerWrite 4 false 0).wf = true ∧
    (Instr.hdmWindowRead 32 true).wf = false ∧ (Instr.hdmWindowWrite 8 0 0 false).wf = false ∧ (Instr.statusMirrorRead 4).wf = false ∧
    (∀ n ∈ [64, 128], ∀ a ∈ [0, 32], (Instr.permute (some ([⟨0, [(BitVec.ofNat 41 a, 0, n)], 0, 1, 6, 1, none⟩], []))).wf = decide (n = 128 ∧ a = 0)) := by
  decide +kernel
/-- It refuses a firmware image longer than its slot. -/
theorem test_wf_image : (Instr.pldmFirmwareUpdate false (List.replicate (31 * 2 ^ 20 + 1) 0)).wf = false := by
  rw [Instr.wf, List.length_replicate]
  decide
/-- StepRunsTheFrontCommand, QueueLeftAlone, MemoriesStayCanonical, LockHolds: a step from a state whose memories are canonical; a command
that does not clear the lock; an empty queue. -/
theorem test_meets_steps :
    (let s : State := { up with pending := [.wake], sec := { locked := true } }
     memoriesWf s = true ∧ clearsLock .wake = false ∧ s.pending = [.wake] ∧ up.pending = []) ∧
    exec .wake up = .next up ∧ step { up with pending := [.wake], sec := { locked := true } } = .next { up with sec := { locked := true } } :=
  ⟨by decide +kernel, rfl, rfl⟩
/-- TallyEncoding, LinkHeadersReadBack: instructions whose fields are in range, a word that decodes, headers with every field at its end. -/
theorem test_meets_encodings :
    (TallyOp.reg .add 31 31 31).legal = true ∧ (tallyDecode (tallyEncode (.reg .add 31 31 31))).isSome = true ∧
    (let h : SlotHeader := ⟨15, true, 2 ^ 35 - 1, 4095, 65535, 255, 15⟩
     h.kind < 2 ^ 4 ∧ h.addr < 2 ^ 35 ∧ h.tag < 2 ^ 12 ∧ h.master < 2 ^ 16 ∧ h.burst < 2 ^ 8 ∧ h.status < 2 ^ 4) ∧
    (([⟨2 ^ 96 - 1, 5, 2 ^ 64 - 1⟩, ⟨0, 0, 0⟩, ⟨7, 0, 0⟩] : List LinkSlot).all fun y => y.mask < 2 ^ 64) = true := by
  decide +kernel
/-- LedgerForms: ledgers that have a packed form and one that has none. -/
theorem test_meets_forms :
    LedgerOps.packedOk (LedgerOps.packWord 7 5) = true ∧ LedgerOps.packedOk (LedgerOps.packWord 8 5) = false ∧
    (LedgerOps.isFull (LedgerOps.toForm ⟨1, .finite, 0⟩) = false ∧ LedgerOps.isFull (LedgerOps.toForm ⟨1#640 <<< 620, .finite, 0⟩) = false ∧
      LedgerOps.isFull (LedgerOps.toForm ⟨1#640 <<< 400 ||| 1, .finite, 0⟩) = true) := by decide +kernel

/-- A BF16 product as a ledger. -/
def prod (a b : Nat) : Ledger := LedgerOps.product false false (decode .bf16 a) (decode .bf16 b)
/-- The sum of ledgers. -/
def total (l : List Ledger) : Ledger := l.foldl LedgerOps.combine LedgerOps.zero
/-- The segment index of a packed form. -/
def segOf : LedgerOps.Form → Option Nat
  | .packed w => some (w.toNat % 2 ^ 16)
  | .full _ => none
/-- Chapter 1, the four products: bit 299 in whatever order, drained as BF16 2.0; the partial sums pack with s = 4. -/
theorem test_ledger_products :
    total [prod 0x4580 0x4580, prod 0x3F80 0x3F80, prod 0x3F80 0x3F80, prod 0xC580 0x4580] = ⟨BitVec.ofNat 640 (2 ^ 299), .finite, 0⟩ ∧
    total [prod 0x3F80 0x3F80, prod 0xC580 0x4580, prod 0x3F80 0x3F80, prod 0x4580 0x4580] = ⟨BitVec.ofNat 640 (2 ^ 299), .finite, 0⟩ ∧
    (roundTo .bf16 .rne (LedgerOps.value ⟨BitVec.ofNat 640 (2 ^ 299), .finite, 0⟩)).bits = 0x4000 ∧
    segOf (LedgerOps.toForm (total [prod 0x4580 0x4580, prod 0x3F80 0x3F80])) = some 4 ∧
    segOf (LedgerOps.toForm (total [prod 0x3F80 0x3F80, prod 0xC580 0x4580])) = some 4 := by decide +kernel
/-- Table 1.14 and the halfway cases of R30. -/
theorem test_round_one_sum :
    let x := fun (neg : Bool) => Val.fin neg (2 ^ 11 + 4 + 1) (-11)
    (roundTo .bf16 .rne (x false)).bits = 0x3F80 ∧ (roundTo .bf16 (.sr 0xC3A10F27) (x false)).bits = 0x3F81 ∧
    (roundTo .bf16 (.sr 0x2E4B9910) (x false)).bits = 0x3F80 ∧ (roundTo .bf16 (.sr 0xC3A10F27) (x true)).bits = 0xBF81 ∧
    (roundTo .bf16 .rne (.fin false 257 (-8))).bits = 0x3F80 ∧ (roundTo .bf16 .rne (.fin false 259 (-8))).bits = 0x3F82 := by decide +kernel
/-- Chapter 10, the block from a Shale page: its guild, entry, place and DPA. -/
theorem test_shale_page :
    guildOf 300 = 9 ∧ 0x1A400079E40 / 65536 = 27525127 ∧ 8 * 0x1A40007 = 0xD200038 ∧
    up.place 0x90300000000120B3 0x1A400079E40 false = some (.shale 9 0xB39E40) ∧ shaleDpa 9 0xB39E40 = 0x100120B39E40 ∧
    bedrockDpa 2 0x34A100C40 = 0x434A100C40 := by decide +kernel
/-- Chapter 16, TALLY_LOAD's entry, and the ring that SQ_CFG 0x8306_0800 sets up: CQ 3, 64 entries, class 2, not privileged. -/
theorem test_tallyLoad_entry :
    let c : Cmd := { num := 1, sq := 3, index := 17, entry := BitVec.ofNat 512 (0x12C00110001 + 0xC000400000 * 2 ^ 64 + 0x300000000000 * 2 ^ 128), phase := .fetched }
    let r : SubRing := { cfg := 0x83060800 }
    c.opcode = 1 ∧ c.cid = 0x11 ∧ c.core = 300 ∧ c.q 1 40 0 = 0xC000400000 ∧ c.q 2 48 32 = 12288 ∧ c.fieldsOk = true ∧
    ringEnabled r.cfg = true ∧ r.cqOf = 3 ∧ ringSize r.cfg = 64 ∧ r.cls = 2 ∧ r.priv = false := by decide +kernel
/-- Chapter 20, Table 20.7: header word 0 of the two records. -/
theorem test_record_headers :
    leNat ((recordBytes 0x23 0 1 false true 0x91 [0x434A100C40]).take 8) = 0x1000123 ∧
    leNat ((recordBytes 0x10 0 1 false true 0x92 [0]).take 8) = 0x1000110 ∧
    leNat (((recordBytes 0x23 0 1 false true 0x91 [0x434A100C40]).drop 8).take 16) = 0x91 + 0x434A100C40 * 2 ^ 64 := by decide +kernel

end Sys2Proof.Tests
end

section
/-! Start-up (R14, R262, R429 to R431): what the tests fence, which failures they call fatal, and the state that START_UP leaves. -/

namespace Sys2Proof.Machine

/-! ### What the tests fence -/

theorem range_filter_contains {n : Nat} (p : Nat → Bool) (i : Fin n) : ((List.range n).filter p).contains i.val = p i := by
  rw [Bool.eq_iff_iff]
  simp

theorem any_val_eq_contains {n : Nat} (l : List (Fin n)) (i : Fin n) : l.any (fun x => x.val = i.val) = l.contains i := by
  rw [Bool.eq_iff_iff]
  simp [Fin.val_inj]

theorem badCores_contains (x : StartTests) (c : CoreId) : (badCores x).contains c.val = x.cores.contains c :=
  (range_filter_contains _ c).trans (any_val_eq_contains x.cores c)

theorem badCtls_contains (x : StartTests) (k : CtlId) : (badCtls x).contains k.val = x.ctls.contains k :=
  (range_filter_contains _ k).trans (any_val_eq_contains x.ctls k)

theorem badPorts_contains (x : StartTests) (l : LinkId) :
    (badPorts x).contains l.val = (x.ports.contains l || x.engines.any (fun e => e.val = l.val / 4)) :=
  (range_filter_contains _ l).trans (congrArg (· || _) (any_val_eq_contains x.ports l))

theorem badStacks_contains (x : StartTests) (g : GuildId) :
    (badStacks x).contains g.val = (x.stackList.contains g || x.slices.any (fun y => y.1 = g)) := by
  unfold badStacks
  rw [range_filter_contains, any_val_eq_contains]
  simp only [Fin.val_inj]

/-! ### Which failures are fatal (Table 17.4) -/

theorem badCores_length_eq_iff (x : StartTests) : (badCores x).length = 1024 ↔ ∀ c : CoreId, c ∈ x.cores := by
  have all_filtered : (badCores x).length = 1024 ↔
      ∀ c ∈ List.range 1024, x.cores.any (fun y => y.val = c) = true := by
    rw [← List.length_filter_eq_length_iff, List.length_range, badCores]
  rw [all_filtered]
  constructor
  · intro h c
    have hc := h c.val (List.mem_range.2 c.isLt)
    rwa [any_val_eq_contains, List.contains_iff_mem] at hc
  · intro h c hc
    rw [any_val_eq_contains x.cores ⟨c, List.mem_range.1 hc⟩, List.contains_iff_mem]
    exact h _

theorem startCause_eq (x : StartTests) :
    startCause x = if x.ctls.contains 0 then 2 else if x.fabric then 3 else if x.house then 4
      else if ∀ c : CoreId, c ∈ x.cores then 5 else 0 := by
  have ctl_zero : (badCtls x).contains 0 = x.ctls.contains 0 := badCtls_contains x 0
  simp only [startCause, ctl_zero, badCores_length_eq_iff]

/-! ### The state that START_UP leaves -/

theorem State.imageOk_setPort (s : State) (p : HostPort) (b : Bool) : State.imageOk { s with port := p } b = s.imageOk b := by
  simp only [State.imageOk]

theorem State.bootCopy_setPort (s : State) (p : HostPort) (i : Nat) : State.bootCopy { s with port := p } i = s.bootCopy i := by
  simp only [State.bootCopy]

theorem State.bootRecord_setPort (s : State) (p : HostPort) : State.bootRecord { s with port := p } = s.bootRecord := by
  simp only [State.bootRecord, State.bootCopy_setPort]

theorem State.bootSlot_setPort (s : State) (p : HostPort) : State.bootSlot { s with port := p } = s.bootSlot := by
  simp only [State.bootSlot, State.imageOk_setPort, State.bootRecord_setPort]

theorem exec_startUp (x : StartTests) (s : State) : exec (.startUp x) s = execStartUp x s := rfl

section
variable {s : State} (hpower : s.house.power = true) (hok : s.house.pwrOk = true) (hboot : s.house.dev = .boot)
include hpower hok hboot

/-- Without a valid image the sequence stops at step 3 (R450): cause 1. -/
theorem execStartUp_of_bootSlot_none (hslot : s.bootSlot = none) (x : StartTests) :
    execStartUp x s = .next { s with
      port := { s.port with linkUp := s.port.refclk }, house := { s.house with stage := 2, cause := 1, dev := .failed } } := by
  simp [execStartUp, hpower, hok, hboot, hslot, State.bootSlot_setPort]

/-- With a valid image all ten steps of Table 17.3 complete; which slices are recorded as failed (SHL_STATUS, R493) is left open. -/
theorem execStartUp_of_bootSlot_some {b : Bool} (hslot : s.bootSlot = some b) (x : StartTests) :
    ∃ slices, execStartUp x s = .next { s with
      port := { s.port with linkUp := s.port.refclk }
      house := { s.house with
        stage := 10, image := if b then 2 else 1, cause := startCause x, dev := if startCause x = 0 then .ready else .failed,
        fencedCores := badCores x, fencedStacks := badStacks x, fencedCtls := badCtls x, fencedLinks := badPorts x,
        failedSlices := slices }
      sec := { s.sec with runningSvn := s.flash.le (slotBase b + 16) 4 } } := by
  simp [execStartUp, hpower, hok, hboot, hslot, State.bootSlot_setPort]

end

/-- Settles O50, by whether a slot boots: with one, the lists that START_UP stores hold exactly the units that the tests of
Table 17.4 name, and its cause is the lowest code of the fatal failures. That steps 7 to 9 of Table 17.3 write no store here is
the model's choice: the stores are 0 in the reset state already (log 19). -/
theorem startUp : Obligations.StartUp := by
  intro s x hpower hok hboot
  rw [exec_startUp]
  cases hslot : s.bootSlot with
  | none =>
    refine ⟨_, execStartUp_of_bootSlot_none hpower hok hboot hslot x, rfl, fun _ => ⟨rfl, rfl⟩, ?_⟩
    intro b hb
    cases hb
  | some b =>
    obtain ⟨slices, hexec⟩ := execStartUp_of_bootSlot_some hpower hok hboot hslot x
    refine ⟨_, hexec, rfl, fun h => (Option.some_ne_none b h).elim, ?_⟩
    intro b' hb
    obtain rfl := Option.some.inj hb
    dsimp only [State.fenced]
    exact ⟨badCores_contains x, badCtls_contains x, badPorts_contains x, badStacks_contains x, startCause_eq x, rfl, rfl, rfl⟩

end Sys2Proof.Machine
end

section
/-! Ledger addition (R25, R26) and the transport forms of a ledger (R37 to R39). -/

namespace Sys2Proof.LedgerOps

/-! ### Addition -/

theorem join_eq_ite (s t : Tag) :
    join s t = (if s = .poison ∨ t = .poison then .poison else if s = .nan ∨ t = .nan then .nan
      else if s = .finite then t else if t = .finite then s else if s = t then s else .nan) := by
  cases s <;> cases t <;> rfl

theorem join_comm (s t : Tag) : join s t = join t s := by
  cases s <;> cases t <;> rfl

theorem join_assoc (s t u : Tag) : join (join s t) u = join s (join t u) := by
  cases s <;> cases t <;> cases u <;> rfl

theorem join_eq_finite_iff {s t : Tag} : join s t = .finite ↔ s = .finite ∧ t = .finite := by
  cases s <;> cases t <;> decide

theorem combine_v_of_finite {a b : Ledger} (h : (combine a b).tag = .finite) : (combine a b).v = a.v + b.v := if_pos h

theorem combine_v_of_ne_finite {a b : Ledger} (h : (combine a b).tag ≠ .finite) : (combine a b).v = 0 := if_neg h

/-- Two terms added one after the other leave the same ledger in either order (R25, Table 1.5). -/
theorem combine_right_comm (s a b : Ledger) : combine (combine s a) b = combine (combine s b) a := by
  have tags : join (join s.tag a.tag) b.tag = join (join s.tag b.tag) a.tag := by
    rw [join_assoc, join_comm a.tag, ← join_assoc]
  simp only [combine, tags]
  by_cases h : join (join s.tag b.tag) a.tag = .finite
  · obtain ⟨hsb, ha⟩ := join_eq_finite_iff.1 h
    obtain ⟨hs, hb⟩ := join_eq_finite_iff.1 hsb
    simp [ha, hs, hb, join, add_right_comm]
  · simp [h]

/-! ### Packed terms -/

theorem packWord_toNat_mod (seg win : Nat) (hseg : seg < 2 ^ 16) : (packWord seg win).toNat % 2 ^ 16 = seg := by
  simp only [packWord, BitVec.toNat_ofNat, Nat.shiftLeft_eq]
  omega

/-- Bits [191:16] of a packed word are the window (Table 1.9). -/
theorem packWord_getLsbD_window (seg win i : Nat) (hseg : seg < 2 ^ 16) (hi : i < 176) :
    (packWord seg win).getLsbD (16 + i) = win.testBit i := by
  have hbit := Nat.testBit_two_pow_mul_add win hseg (16 + i)
  rw [mul_comm, ← Nat.shiftLeft_eq] at hbit
  simp only [packWord, BitVec.getLsbD_ofNat, hbit]
  simp
  omega

/-- A term whose seg_index is a segment number stands for its window, sign-extended, at that segment (R37). -/
theorem ofForm_packed_of_le {w : BitVec 192} (h : w.toNat % 2 ^ 16 ≤ 7) :
    ofForm (.packed w) = ⟨((w.extractLsb' 16 176).signExtend 640) <<< (64 * (w.toNat % 2 ^ 16)), .finite, 0⟩ := by
  simp only [ofForm, packedOk, h, decide_true, Bool.true_or, if_true]

/-- The bits of such a term: zeros below the window, copies of its top bit above it (R37). -/
theorem windowed_getLsbD (w : BitVec 192) (s i : Nat) (hi : i < 640) :
    (((w.extractLsb' 16 176).signExtend 640) <<< (64 * s)).getLsbD i =
      if i < 64 * s then false else if i ≤ 64 * s + 175 then w.getLsbD (16 + (i - 64 * s)) else w.getLsbD 191 := by
  simp only [BitVec.getLsbD_shiftLeft, BitVec.getLsbD_signExtend, BitVec.getLsbD_extractLsb', BitVec.msb_eq_getLsbD_last]
  by_cases hlow : i < 64 * s
  · simp [hlow]
  · by_cases hwin : i ≤ 64 * s + 175
    · have inside : i - 64 * s < 176 := by omega
      simp [hi, hlow, hwin, inside]
      omega
    · have above : ¬ i - 64 * s < 176 := by omega
      simp [hi, hlow, hwin, above]
      omega

/-! ### The form of a FINITE ledger (R39) -/

/-- The search of R39, step 3, finds the lowest set bit. -/
theorem lowBit_eq {v n : Nat} (hset : v.testBit n = true) (hlow : ∀ i < n, v.testBit i = false) :
    ∀ k i, i ≤ n → n < i + k → lowBit v k i = n
  | 0, i, _, hk => by omega
  | k + 1, i, hi, hk => by
    by_cases hin : i = n
    · simp [lowBit, hin, hset]
    · simp only [lowBit, hlow i (by omega), Bool.false_eq_true, if_false]
      exact lowBit_eq hset hlow k (i + 1) (by omega) (by omega)

/-- V with its bits turned over when it is negative: bit i says whether bit i of V differs from its top bit. -/
def signDiff {w : Nat} (v : BitVec w) : BitVec w := if v.msb then ~~~v else v

theorem signDiff_getLsbD {w : Nat} (v : BitVec w) {i : Nat} (hi : i < w) :
    (signDiff v).getLsbD i = (v.getLsbD i != v.getLsbD (w - 1)) := by
  unfold signDiff
  rw [BitVec.msb_eq_getLsbD_last]
  cases h : v.getLsbD (w - 1) <;> simp [hi]

theorem signDiff_toNat {w : Nat} (v : BitVec w) :
    (signDiff v).toNat = if v.toInt < 0 then (-(v.toInt + 1)).toNat else v.toNat := by
  have hlt := v.isLt
  unfold signDiff
  rw [BitVec.toInt_eq_msb_cond]
  cases v.msb
  · simp
  · simp only [if_true, BitVec.toNat_not]
    generalize 2 ^ w = n at *
    split <;> omega

/-- R39, step 5: the window at segment s holds the ledger when no bit above it differs from bit 639. -/
theorem highPlus1_le_iff (l : Ledger) (m : Nat) :
    highPlus1 l ≤ m ↔ ∀ i, m ≤ i → i < 640 → l.v.getLsbD i = l.v.getLsbD 639 := by
  have bits : highPlus1 l ≤ m ↔ (signDiff l.v).toNat < 2 ^ m := by
    simp only [highPlus1, ← signDiff_toNat]
    split
    · simp only [*, Nat.zero_le, Nat.two_pow_pos]
    · rw [← Nat.log2_lt ‹_›, Nat.succ_le_iff]
  have differ : ∀ i < 640, (signDiff l.v).getLsbD i = false ↔ l.v.getLsbD i = l.v.getLsbD 639 := by
    intro i hi
    rw [signDiff_getLsbD l.v hi, bne_eq_false_iff_eq]
  rw [bits]
  constructor
  · intro h i hm hi
    rw [← differ i hi, BitVec.getLsbD]
    exact Nat.testBit_lt_two_pow (lt_of_lt_of_le h (Nat.pow_le_pow_right (by decide) hm))
  · intro h
    refine Nat.lt_pow_two_of_testBit _ fun i hm => ?_
    by_cases hi : i < 640
    · exact (differ i hi).2 (h i hm hi)
    · exact BitVec.getLsbD_of_ge _ i (by omega)

theorem toForm_of_zero {l : Ledger} (ht : l.tag = .finite) (hv : l.v = 0) : toForm l = .packed 0 := by
  have nat_zero : l.v.toNat = 0 := by simp only [hv, BitVec.ofNat_eq_ofNat, BitVec.toNat_zero]
  simp [toForm, ht, nat_zero, packWord]

/-- R39, steps 3 to 5, for a FINITE ledger whose lowest set bit is n. -/
theorem toForm_of_lowest {l : Ledger} {n : Nat} (ht : l.tag = .finite) (hset : l.v.getLsbD n = true)
    (hlow : ∀ i < n, l.v.getLsbD i = false) :
    toForm l = if highPlus1 l ≤ 64 * min 7 (n / 64) + 175
      then .packed (packWord (min 7 (n / 64)) ((l.v.toNat >>> (64 * min 7 (n / 64))) % 2 ^ 176)) else .full l.v := by
  have nonzero : l.v.toNat ≠ 0 := by
    intro h
    simp [BitVec.getLsbD, h] at hset
  have hn : n < 640 := BitVec.lt_of_getLsbD hset
  have lowest : lowBit l.v.toNat 640 0 = n := lowBit_eq hset hlow 640 0 (by omega) (by omega)
  simp only [toForm, ht, nonzero, if_false, lowest]

theorem exists_lowest_bit {v : BitVec 640} (h : v ≠ 0) : ∃ n, v.getLsbD n = true ∧ ∀ i < n, v.getLsbD i = false := by
  have some_bit : ∃ n, v.getLsbD n = true := by
    by_contra none
    exact h (BitVec.eq_of_getLsbD_eq fun i _ => by simpa using not_exists.1 none i)
  classical
  exact ⟨Nat.find some_bit, Nat.find_spec some_bit, fun i hi => by simpa using Nat.find_min some_bit hi⟩

/-- The window of a packed form holds the bits of V from its segment on. -/
theorem packWord_getLsbD_shifted (v : BitVec 640) {s i : Nat} (hs : s < 2 ^ 16) (hi : i < 176) :
    (packWord s ((v.toNat >>> (64 * s)) % 2 ^ 176)).getLsbD (16 + i) = v.getLsbD (64 * s + i) := by
  rw [packWord_getLsbD_window _ _ _ hs hi, Nat.testBit_mod_two_pow, Nat.testBit_shiftRight, BitVec.getLsbD]
  simp only [hi, decide_true, Bool.true_and]

/-- The packed form of a FINITE ledger that fits its window stands for that ledger (R37, R39). -/
theorem ofForm_packed_window {v : BitVec 640} {n s : Nat} (hs : s = min 7 (n / 64)) (hlow : ∀ i < n, v.getLsbD i = false)
    (hfits : ∀ i, 64 * s + 175 ≤ i → i < 640 → v.getLsbD i = v.getLsbD 639) :
    ofForm (.packed (packWord s ((v.toNat >>> (64 * s)) % 2 ^ 176))) = ⟨v, .finite, 0⟩ := by
  have hseg : s < 2 ^ 16 := by omega
  have hmod := packWord_toNat_mod s ((v.toNat >>> (64 * s)) % 2 ^ 176) hseg
  rw [ofForm_packed_of_le (by omega), hmod]
  congr 1
  refine BitVec.eq_of_getLsbD_eq fun i hi => ?_
  rw [windowed_getLsbD _ _ _ hi]
  split
  · exact (hlow i (by omega)).symm
  · split
    · rw [packWord_getLsbD_shifted v hseg (by omega)]
      congr 1
      omega
    · rw [hfits i (by omega) hi, packWord_getLsbD_shifted v hseg (by decide : 175 < 176)]
      exact hfits _ (by omega) (by omega)

/-- The form a sender chooses stands for the ledger it sends. -/
theorem ofForm_toForm {l : Ledger} (hpar : l.parityBad = false) (hheld : l.tag ≠ .finite → l.v = 0) : ofForm (toForm l) = l := by
  obtain ⟨v, t, p⟩ := l
  obtain rfl : p = 0 := by simpa [Ledger.parityBad] using hpar
  cases t with
  | finite =>
    by_cases hv : v = 0
    · rw [toForm_of_zero rfl hv, hv, ofForm_packed_of_le (by decide)]
      simp
    · obtain ⟨n, hset, hlow⟩ := exists_lowest_bit hv
      rw [toForm_of_lowest rfl hset hlow]
      split
      · exact ofForm_packed_window rfl hlow ((highPlus1_le_iff _ _).1 ‹_›)
      · rfl
  | pinf | minf | nan | poison =>
    obtain rfl : v = 0 := hheld nofun
    simp [toForm, poisonForm, packWord, ofForm, packedOk, ofTag]

/-- The codes of Table 1.10 for the states that are not FINITE: what they stand for, and when they are sent. -/
theorem state_codes (code : Nat) (t : Tag)
    (h : (code, t) ∈ [(0xFFF0, Tag.pinf), (0xFFF1, .minf), (0xFFF2, .nan), (0xFFF3, .poison)]) :
    ofForm (.packed (BitVec.ofNat 192 code)) = ⟨0, t, 0⟩ ∧
    ∀ l : Ledger, l.tag = t → toForm l = .packed (BitVec.ofNat 192 code) := by
  simp only [List.mem_cons, List.not_mem_nil, or_false, Prod.mk.injEq] at h
  rcases h with ⟨rfl, rfl⟩ | ⟨rfl, rfl⟩ | ⟨rfl, rfl⟩ | ⟨rfl, rfl⟩ <;>
    exact ⟨by simp [ofForm, packedOk, ofTag], fun l hl => by simp [toForm, hl, poisonForm, packWord]⟩

end Sys2Proof.LedgerOps

namespace Sys2Proof.Machine

/-- Settles O9: the table by its cases, the value by the state of the sum, and the order because adding two terms commutes. -/
theorem ledgerAddition : Obligations.LedgerAddition := by
  refine ⟨rfl, ?_, ?_⟩
  · rintro a b s rfl
    refine ⟨LedgerOps.join_eq_ite a.tag b.tag, ?_, LedgerOps.combine_v_of_ne_finite⟩
    intro h
    simp only [LedgerOps.combine_v_of_finite h, BitVec.toNat_add]
  · intro start a b hperm
    exact hperm.foldl_eq' (fun x _ y _ s => LedgerOps.combine_right_comm s x y) start

/-- Settles O10, clause by clause, from the bits of a windowed term and of the form of a ledger with lowest set bit n. -/
theorem ledgerForms : Obligations.LedgerForms := by
  refine ⟨?_, LedgerOps.state_codes, fun l ht hv => LedgerOps.toForm_of_zero ht hv, ?_,
    fun l hpar hheld => LedgerOps.ofForm_toForm hpar hheld⟩
  · rintro w s rfl hs
    rw [LedgerOps.ofForm_packed_of_le hs]
    exact ⟨rfl, fun i hi => LedgerOps.windowed_getLsbD w _ i hi⟩
  · rintro l n s ht hset hlow rfl
    rw [LedgerOps.toForm_of_lowest ht hset hlow]
    constructor
    · intro fits
      rw [if_pos ((LedgerOps.highPlus1_le_iff l _).2 fits)]
      refine ⟨_, rfl, LedgerOps.packWord_toNat_mod _ _ (by omega), fun i hi => ?_⟩
      exact LedgerOps.packWord_getLsbD_shifted l.v (by omega) hi
    · rintro ⟨i, habove, hi, hdiff⟩
      exact if_neg fun h => hdiff ((LedgerOps.highPlus1_le_iff l _).1 h i habove hi)

end Sys2Proof.Machine
end

section
/-! What the engines' operations on a core do to its stores: how a command begins the head of its queue (R113), how rows of
elements are written and read back (R70), that a rounded element fits its format (R31), what an entry's read leaves (R61). -/

namespace Sys2Proof.Machine

open Numbers

/-! ### Folds over rows and columns -/

theorem foldl_range_succ {σ : Type} (f : σ → Nat → σ) (s : σ) (n : Nat) :
    (List.range (n + 1)).foldl f s = f ((List.range n).foldl f s) n := by
  rw [List.range_succ, List.foldl_append, List.foldl_cons, List.foldl_nil]

/-- What holds before the first row and is carried over each row holds after the last. -/
theorem foldl_range_invariant {σ : Type} (P : Nat → σ → Prop) {f : σ → Nat → σ} {s : σ} {n : Nat} (start : P 0 s)
    (next : ∀ i s, i < n → P i s → P (i + 1) (f s i)) : P n ((List.range n).foldl f s) := by
  induction n with
  | zero => exact start
  | succ n ih =>
    rw [foldl_range_succ]
    exact next n _ n.lt_succ_self (ih fun i s hi => next i s (Nat.lt_succ_of_lt hi))

/-! ### The head of a queue begins (R113) -/

theorem onCore_atHead {s : State} {c gap : Nat} {g : Engine} {o : MicroOp} (h : Heads s c g o) (p : MicroOp → Bool)
    (hp : p o = true) (f : Eff → MicroOp → Eff) :
    s.onCore c (fun e => e.atHead g gap p f) = s.landCore c (f (begunBy s c gap o) o) := by
  obtain ⟨hruns, hhead, -, hmarker, hmay⟩ := h
  obtain ⟨rest, hqueue⟩ := List.head?_eq_some_iff.1 hhead
  simp only [State.onCore, hruns, if_true, State.atCore, Eff.atHead, hqueue, hmarker, hp, hmay, Bool.not_false, Bool.and_self,
    begunBy]

theorem onCore_drainRow {s : State} {c gap code : Nat} {o : MicroOp} (h : Heads s c .drain o)
    (hcode : opField o.word .drain = code) (f : Eff → MicroOp → DrainOp → Eff) :
    s.onCore c (fun e => e.drainRow gap code f) =
      endedBy s c o (f (begunBy s c gap o) o (drainOp o.word o.slots o.inst)) :=
  onCore_atHead h (fun o => opField o.word .drain = code) (decide_eq_true hcode) _

theorem onCore_vecRow {s : State} {c gap code : Nat} {o : MicroOp} (h : Heads s c .vector o)
    (hcode : opField o.word .vector = code) (f : Eff → MicroOp → VecOp → Eff) :
    s.onCore c (fun e => e.vecRow gap code f) = endedBy s c o (f (begunBy s c gap o) o o.vec) :=
  onCore_atHead h (fun o => opField o.word .vector = code) (decide_eq_true hcode) _

/-! ### Bytes of a store -/

theorem Store.write_data (st : Store) (a : Nat) (bs : List (Byte × Bool)) :
    (st.write a bs).data = st.data.wrBytes a (bs.map (·.1)) := by
  unfold Store.write
  dsimp only
  split
  · next empty =>
    rw [List.eq_nil_of_length_eq_zero empty]
    rfl
  · rfl

theorem Store.bytes_write_same {st : Store} (h : Mem.wf st.data = true) (a : Nat) (bs : List (Byte × Bool)) :
    (st.write a bs).data.bytes a bs.length = bs.map (·.1) := by
  have := Mem.bytes_wrBytes (bs.map (·.1)) a h
  rwa [List.length_map, ← Store.write_data] at this

theorem Store.rd_write_of_outside {st : Store} (h : Mem.wf st.data = true) {a j : Nat} {bs : List (Byte × Bool)}
    (hj : j < a ∨ a + bs.length ≤ j) : (st.write a bs).data.rd j = st.data.rd j := by
  rw [Store.write_data]
  exact Mem.rd_wrBytes_ne _ a j h (by rwa [List.length_map])

theorem Mem.bytes_congr {m m' : Mem} {a n : Nat} (h : ∀ i < n, m.rd (a + i) = m'.rd (a + i)) : m.bytes a n = m'.bytes a n :=
  List.map_congr_left fun i hi => h i (List.mem_range.1 hi)

theorem Store.bytes_write_of_disjoint {st : Store} (h : Mem.wf st.data = true) {a b n : Nat} {bs : List (Byte × Bool)}
    (hd : b + n ≤ a ∨ a + bs.length ≤ b) : (st.write a bs).data.bytes b n = st.data.bytes b n :=
  Mem.bytes_congr fun i hi => Store.rd_write_of_outside h (by omega)

/-! ### Elements of a row -/

theorem natLe_getElem (n : Nat) : ∀ (v i : Nat) (hi : i < (natLe n v).length), (natLe n v)[i] = BitVec.ofNat 8 (v >>> (8 * i)) := by
  induction n with
  | zero => exact fun v i hi => absurd hi (Nat.not_lt_zero i)
  | succ n ih =>
    intro v i hi
    cases i with
    | zero => rfl
    | succ i =>
      simp only [natLe, List.getElem_cons_succ, ih]
      rw [Nat.mul_add_one, Nat.add_comm, Nat.shiftRight_add, Nat.shiftRight_eq_div_pow v 8]

/-- The bits of an element are those of the number that the bytes of its row spell. -/
theorem Store.elemBits_of_bytes {st : Store} {a n v j bits : Nat} (h : st.data.bytes a n = natLe n v) (hj : (j + 1) * bits ≤ 8 * n) :
    (st.elemBits 0 a j bits).1 = (v >>> (j * bits)) % 2 ^ bits := by
  have byte_at : ∀ i < n, st.data.rd (a + i) = BitVec.ofNat 8 (v >>> (8 * i)) := by
    intro i hi
    have := congrArg (fun l => l[i]?) h
    simpa [Mem.bytes, hi, natLe_getElem] using this
  have hspan : j * bits / 8 + (j * bits % 8 + bits + 7) / 8 ≤ n := by
    rw [Nat.add_one_mul] at hj
    omega
  have slice : ((List.range ((j * bits % 8 + bits + 7) / 8)).map (fun i => skewMap 0 (a + j * bits / 8 + i))).map st.data.rd =
      natLe ((j * bits % 8 + bits + 7) / 8) (v >>> (8 * (j * bits / 8))) := by
    refine List.ext_getElem (by simp) fun i h1 h2 => ?_
    simp only [List.length_map, List.length_range] at h1
    simp only [List.getElem_map, List.getElem_range, natLe_getElem, ← Nat.shiftRight_add, ← Nat.mul_add]
    exact (congrArg st.data.rd (Nat.add_assoc a _ i)).trans (byte_at _ (by omega))
  have hoff : 8 * (j * bits / 8) + j * bits % 8 = j * bits := Nat.div_add_mod (j * bits) 8
  simp only [Store.elemBits, slice, leNat_natLe]
  apply Nat.eq_of_testBit_eq
  intro i
  by_cases hi : i < bits
  · have inside : j * bits % 8 + i < 8 * ((j * bits % 8 + bits + 7) / 8) := by omega
    simp [hi, inside, ← Nat.add_assoc, hoff]
  · simp [hi]

theorem foldl_packed_eq_ofDigits (bits : Nat) (els : List OutElem) :
    (els.zip (List.range els.length)).foldl (fun v x => v + x.1.1 * 2 ^ (bits * x.2)) 0 =
      Nat.ofDigits (2 ^ bits) (els.map (·.1)) := by
  induction els using List.reverseRecOn with
  | nil => rfl
  | append_singleton els x ih =>
    rw [List.length_append, List.length_singleton, List.range_succ, List.zip_append (by simp), List.foldl_append, ih]
    simp [Nat.ofDigits_append, ← pow_mul, Nat.mul_comm]

theorem packRow_length (bits : Nat) (els : List OutElem) : (packRow bits els).length = (els.length * bits + 7) / 8 := by
  simp [packRow]

theorem packRow_bytes (bits : Nat) (els : List OutElem) :
    (packRow bits els).map (·.1) = natLe ((els.length * bits + 7) / 8) (Nat.ofDigits (2 ^ bits) (els.map (·.1))) := by
  simp only [packRow, foldl_packed_eq_ofDigits]
  exact List.map_fst_zip (by simp)

theorem ofDigits_shiftRight_mod {bits : Nat} {xs : List Nat} (hx : ∀ x ∈ xs, x < 2 ^ bits) {j : Nat} (hj : j < xs.length) :
    (Nat.ofDigits (2 ^ bits) xs >>> (j * bits)) % 2 ^ bits = xs[j] := by
  rw [Nat.shiftRight_eq_div_pow, Nat.mul_comm, pow_mul, Nat.ofDigits_div_pow_eq_ofDigits_drop j (Nat.two_pow_pos bits) xs hx,
    List.drop_eq_getElem_cons hj, Nat.ofDigits_cons, Nat.add_mul_mod_self_left, Nat.mod_eq_of_lt (hx _ (List.getElem_mem hj))]

/-- Elements read back as they were packed. -/
theorem Store.elemBits_of_packRow {st : Store} {a bits : Nat} {els : List OutElem}
    (h : st.data.bytes a (packRow bits els).length = (packRow bits els).map (·.1)) (hlt : ∀ x ∈ els, x.1 < 2 ^ bits)
    {j : Nat} (hj : j < els.length) : (st.elemBits 0 a j bits).1 = els[j].1 := by
  rw [packRow_length, packRow_bytes] at h
  have hspan : (j + 1) * bits ≤ els.length * bits := Nat.mul_le_mul_right bits hj
  rw [Store.elemBits_of_bytes h (by omega), ofDigits_shiftRight_mod (List.forall_mem_map.2 hlt) (by simpa using hj)]
  simp

/-! ### A rounded element fits its format (R31, Table 1.7) -/

theorem Fmt.codes_lt (f : Fmt) :
    2 ^ (f.bits - 1) + 2 ^ (f.bits - 1) = 2 ^ f.bits ∧ f.maxCode < 2 ^ (f.bits - 1) ∧ f.nanCode < 2 ^ (f.bits - 1) ∧
      ∀ i, f.infCode = some i → i < 2 ^ (f.bits - 1) := by
  cases f <;> simp [Fmt.bits, Fmt.maxCode, Fmt.nanCode, Fmt.infCode]

/-- A rule that rounds up less often gives a smaller code. -/
theorem roundWith_le {up up' : Nat → Nat → Nat → Bool} (h : ∀ lo r d, 0 < d → up lo r d = true → up' lo r d = true)
    (f : Fmt) (num : Nat) {den : Nat} (hden : 0 < den) (e : Int) : roundWith f up num den e ≤ roundWith f up' num den e := by
  unfold roundWith
  dsimp only
  split
  · exact le_rfl
  · split
    · exact le_rfl
    · refine Nat.sub_le_sub_right (Nat.add_le_add_left ?_ _) _
      generalize hd : den <<< _ = d
      have hpos : 0 < d := by
        rw [← hd, Nat.shiftLeft_eq]
        exact Nat.mul_pos hden (Nat.two_pow_pos _)
      generalize num <<< _ = n
      split
      · rw [if_pos (h _ _ _ hpos ‹_›)]
      · split <;> omega

/-- To nearest even goes up only from a value off the grid, so a magnitude not above the largest finite one stays there. -/
theorem roundMag_rne_le_maxCode {f : Fmt} {num den : Nat} (hden : 0 < den) {e : Int} (h : tooLarge f num den e = false) :
    roundMag f .rne num den e ≤ f.maxCode := by
  refine (roundWith_le (fun lo r d hd hup => ?_) f num hden e).trans (not_lt.1 (of_decide_eq_false h))
  rcases Nat.eq_zero_or_pos r with rfl | hr
  · rw [Nat.mul_zero, if_neg (by omega)] at hup
    exact absurd (of_decide_eq_true hup) (Nat.not_lt_zero d)
  · exact decide_eq_true (by omega)

theorem finish_bits_lt (f : Fmt) (neg : Bool) {code : Nat} {large : Bool} (h : large = false → code ≤ f.maxCode) :
    (finish f neg code large).bits < 2 ^ f.bits := by
  obtain ⟨hdouble, hmax, -, hinf⟩ := Fmt.codes_lt f
  have hsign : (if neg then 2 ^ (f.bits - 1) else 0) ≤ 2 ^ (f.bits - 1) := by split <;> simp
  unfold finish
  dsimp only
  split
  · next i hi =>
    have hcode := hinf i (Option.ite_none_left_eq_some.1 hi).2
    split <;> dsimp only <;> omega
  · split
    · dsimp only
      omega
    · have hle := h (Bool.eq_false_of_not_eq_true ‹_›)
      dsimp only
      omega

theorem roundTo_rne_bits_lt (f : Fmt) (v : Val) : (roundTo f .rne v).bits < 2 ^ f.bits := by
  obtain ⟨hdouble, hmax, hnan, hinf⟩ := Fmt.codes_lt f
  have hsign : ∀ neg : Bool, (if neg then 2 ^ (f.bits - 1) else 0) ≤ 2 ^ (f.bits - 1) := by
    intro neg
    split <;> simp
  cases v with
  | nan =>
    dsimp only [roundTo]
    omega
  | inf neg =>
    have hneg := hsign neg
    unfold roundTo
    dsimp only
    split
    · next i hi =>
      have hcode := hinf i hi
      dsimp only
      omega
    · dsimp only
      omega
  | fin neg m e =>
    unfold roundTo roundRat
    dsimp only
    split
    · have hneg := hsign neg
      dsimp only
      omega
    · exact finish_bits_lt f neg (roundMag_rne_le_maxCode Nat.one_pos)

theorem outElem_rne_lt (f : Fmt) (v : Val) (poison : Bool) : (outElem f .rne v poison).1.1 < 2 ^ f.bits := by
  unfold outElem
  split
  · obtain ⟨hdouble, -, hnan, -⟩ := Fmt.codes_lt f
    dsimp only
    omega
  · exact roundTo_rne_bits_lt f v

/-! ### Ledger entries (R58, R61) -/

theorem ledIdx_inj {t r c t' r' c' : Nat} (hr : r < 64) (hc : c < 32) (hr' : r' < 64) (hc' : c' < 32) :
    ledIdx t r c = ledIdx t' r' c' ↔ t = t' ∧ r = r' ∧ c = c' := by
  unfold ledIdx
  omega

/-- An entry after a write of an entry. -/
theorem CoreSt.ledger_setLedger (k : CoreSt) {t r c t' r' c' : Nat} (l : Ledger) (hr : r < 64) (hc : c < 32) (hr' : r' < 64)
    (hc' : c' < 32) : (k.setLedger t r c l).ledger t' r' c' = if t' = t ∧ r' = r ∧ c' = c then l else k.ledger t' r' c' := by
  simp only [CoreSt.ledger, CoreSt.setLedger, Tab.get_set, ledIdx_inj hr' hc' hr hc]

/-- The core with other ledger entries. -/
def CoreSt.withLedgers (k : CoreSt) (led : Tab Ledger) : CoreSt := { k with ledgers := led }
/-- The core's step with other ledger entries and events. -/
def Eff.withEntries (e : Eff) (led : Tab Ledger) (occ : List Occurrence) : Eff := { e with k := e.k.withLedgers led, occ := occ }

@[simp] theorem Eff.withEntries_k (e : Eff) (led : Tab Ledger) (occ : List Occurrence) :
    (e.withEntries led occ).k = e.k.withLedgers led := rfl
@[simp] theorem CoreSt.withLedgers_withLedgers (k : CoreSt) (led led' : Tab Ledger) :
    (k.withLedgers led).withLedgers led' = k.withLedgers led' := rfl
@[simp] theorem Eff.withEntries_withEntries (e : Eff) (led led' : Tab Ledger) (occ occ' : List Occurrence) :
    (e.withEntries led occ).withEntries led' occ' = e.withEntries led' occ' := rfl

theorem readLedger_fst (e : Eff) (t r c : Nat) : (e.readLedger t r c).1 = entryRead e.k t r c := by
  unfold Eff.readLedger entryRead
  dsimp only
  split <;> rfl

/-- What the read of an entry leaves: the entry as it was read; the events raised are left open. -/
theorem readLedger_snd (e : Eff) (t r c : Nat) :
    ∃ led occ, (e.readLedger t r c).2 = e.withEntries led occ ∧
      (r < 64 → c < 32 → ∀ t' r' c', r' < 64 → c' < 32 → (e.k.withLedgers led).ledger t' r' c' =
        if t' = t ∧ r' = r ∧ c' = c then entryRead e.k t r c else e.k.ledger t' r' c') := by
  unfold Eff.readLedger entryRead
  dsimp only
  split
  · exact ⟨_, _, rfl, fun hr hc t' r' c' hr' hc' => e.k.ledger_setLedger _ hr hc hr' hc'⟩
  · refine ⟨e.k.ledgers, e.occ, rfl, fun hr hc t' r' c' hr' hc' => ?_⟩
    split
    · next same =>
      obtain ⟨rfl, rfl, rfl⟩ := same
      rfl
    · rfl

/-! ### What counting, events and draws leave alone -/

/-- What a drain or vector micro-op computes with: the two stores, the tiles and the ledger entries. -/
def CoreSt.operands (k : CoreSt) : Store × Store × Tab Word32 × Tab Ledger := (k.ls, k.trf, k.tiles, k.ledgers)

theorem CoreSt.operands_eq_iff {k k' : CoreSt} :
    k.operands = k'.operands ↔ k.ls = k'.ls ∧ k.trf = k'.trf ∧ k.tiles = k'.tiles ∧ k.ledgers = k'.ledgers := by
  simp only [CoreSt.operands, Prod.mk.injEq]

theorem Eff.addNf_operands (e : Eff) (n : Nat) : (e.addNf n).k.operands = e.k.operands := by
  unfold Eff.addNf
  dsimp only
  split <;> rfl

theorem Eff.wrote_operands (e : Eff) (o : MicroOp) (nf poisoned : Nat) : (e.wrote o nf poisoned).k.operands = e.k.operands := by
  unfold Eff.wrote
  refine foldl_range_invariant (fun _ (x : Eff) => x.k.operands = e.k.operands) (e.addNf_operands nf) ?_
  exact fun _ _ _ h => h

theorem Eff.wrote_trf (e : Eff) (o : MicroOp) (nf poisoned : Nat) : (e.wrote o nf poisoned).k.trf = e.k.trf :=
  congrArg (·.2.1) (e.wrote_operands o nf poisoned)

theorem Eff.wrote_tiles (e : Eff) (o : MicroOp) (nf poisoned : Nat) : (e.wrote o nf poisoned).k.tiles = e.k.tiles :=
  congrArg (·.2.2.1) (e.wrote_operands o nf poisoned)

theorem Eff.mode_operands (e : Eff) (sr : Bool) (lane : Nat) : (e.mode sr lane).2.k.operands = e.k.operands := by
  unfold Eff.mode
  split <;> rfl

theorem Eff.rowModes_operands (e : Eff) (sr : Bool) (n : Nat) : (e.rowModes sr n).2.k.operands = e.k.operands := by
  unfold Eff.rowModes
  refine foldl_range_invariant (fun _ (x : List Mode × Eff) => x.2.k.operands = e.k.operands) rfl ?_
  exact fun _ x _ h => (Eff.mode_operands x.2 _ _).trans h

/-- Without stochastic rounding every mode is to nearest even. -/
theorem Eff.rowModes_rne (e : Eff) (n : Nat) : e.rowModes false n = (List.replicate n .rne, e) := by
  unfold Eff.rowModes
  refine foldl_range_invariant (fun n (x : List Mode × Eff) => x = (List.replicate n .rne, e)) rfl ?_
  rintro i x - rfl
  simp [Eff.mode, List.replicate_succ']

end Sys2Proof.Machine
end

section
/-! The drain unit's operations (R61, R88 to R90, R192): ROUND row by row, EXPORT slot by slot, MERGE slot by slot. -/

namespace Sys2Proof.Machine

open Numbers

theorem codeBits_eq_bits {c : Nat} (h : (Fmt.ofCode c).isSome) : codeBits c = (fmtOf c).bits := by
  obtain ⟨f, hf⟩ := Option.isSome_iff_exists.1 h
  simp [codeBits, fmtOf, hf]

theorem isMx_eq_codeMx {c : Nat} (h : (Fmt.ofCode c).isSome) : (fmtOf c).isMx = codeMx c := by
  obtain ⟨f, hf⟩ := Option.isSome_iff_exists.1 h
  simp [codeMx, fmtOf, hf]

theorem entryRead_congr {k k' : CoreSt} {t r c : Nat} (h : k.ledger t r c = k'.ledger t r c) :
    entryRead k t r c = entryRead k' t r c := by
  simp only [entryRead, h]

theorem drainOp_m_le (w : BitVec 256) (t : Tab Word) (i : Nat) : (drainOp w t i).m ≤ 64 :=
  Nat.mod_lt _ (by decide)

theorem drainOp_n_le (w : BitVec 256) (t : Tab Word) (i : Nat) : (drainOp w t i).n ≤ 32 :=
  Nat.mod_lt _ (by decide)

/-! ### ROUND without a fused operation (R192) -/

/-- The store that the rows of a ROUND go to. -/
def DrainOp.outStore (d : DrainOp) (k : CoreSt) : Store := if d.toLs then k.ls else k.trf
/-- Where row `r` of a ROUND starts in that store. -/
def DrainOp.outAddr (d : DrainOp) (tiles : Tab Word32) (r : Nat) : Nat :=
  if d.toLs then d.lsBase.toNat + r * d.lsStride else d.trf.addr tiles r
/-- What a drained entry passes to output rounding when no operation is fused (Table 1.8). -/
def plainRound (l : Ledger) : RoundVal :=
  let d := LedgerOps.drain l
  ⟨d.val, d.poison, d.poison || d.overflow || d.val.isNonFinite, d.poison || d.overflow || d.val.isNonFinite⟩
/-- The element a ROUND to nearest even writes for entry (r, q). -/
def DrainOp.rounded (d : DrainOp) (k : CoreSt) (r q : Nat) : OutElem :=
  let l := LedgerOps.drain (entryRead k d.tile r q)
  (outElem (fmtOf d.fmt) .rne l.val l.poison).1

theorem outStore_congr (d : DrainOp) {k k' : CoreSt} (h : k.operands = k'.operands) : d.outStore k = d.outStore k' := by
  obtain ⟨hls, htrf, -, -⟩ := CoreSt.operands_eq_iff.1 h
  simp only [DrainOp.outStore, hls, htrf]

theorem roundValue_plain {d : DrainOp} (hfuse : d.fuse = 0) (e : Eff) (o : MicroOp) (r c : Nat) :
    ∃ led occ, e.roundValue o d r c =
        (plainRound (entryRead e.k d.tile r c), e.withEntries led occ) ∧
      (r < 64 → c < 32 → ∀ t' r' c', r' < 64 → c' < 32 → (e.k.withLedgers led).ledger t' r' c' =
        if t' = d.tile ∧ r' = r ∧ c' = c then entryRead e.k d.tile r c else e.k.ledger t' r' c') := by
  obtain ⟨led, occ, hread, hled⟩ := readLedger_snd e d.tile r c
  unfold Eff.roundValue
  simp only [readLedger_fst, hread, hfuse, if_true]
  split
  · exact ⟨led, _, rfl, hled⟩
  · exact ⟨led, occ, rfl, hled⟩

/-- What a row of a ROUND to nearest even passes to output rounding, column by column. -/
def DrainOp.rowValues (d : DrainOp) (k : CoreSt) (r n : Nat) : List (RoundVal × Mode) :=
  (List.range n).map (fun q => (plainRound (entryRead k d.tile r q), Mode.rne))

theorem DrainOp.rowValues_succ (d : DrainOp) (k : CoreSt) (r n : Nat) :
    d.rowValues k r (n + 1) = d.rowValues k r n ++ [(plainRound (entryRead k d.tile r n), Mode.rne)] := by
  simp only [DrainOp.rowValues, List.range_succ, List.map_append, List.map_cons, List.map_nil]

/-- A row of a ROUND to nearest even: its entries are drained in turn, and no other entry changes. -/
theorem roundRow_plain {d : DrainOp} (hfuse : d.fuse = 0) (hsr : d.sr = false) (hn : d.n ≤ 32) (e : Eff) (o : MicroOp) {r : Nat}
    (hr : r < 64) :
    ∃ led occ, e.roundRow o d r = (d.rowValues e.k r d.n, e.withEntries led occ) ∧
      ∀ t' r' c', r' < 64 → c' < 32 → (r' ≠ r ∨ d.n ≤ c') → (e.k.withLedgers led).ledger t' r' c' = e.k.ledger t' r' c' := by
  unfold Eff.roundRow
  refine foldl_range_invariant (fun c (x : List (RoundVal × Mode) × Eff) => ∃ led occ,
    x = (d.rowValues e.k r c, e.withEntries led occ) ∧
    ∀ t' r' c', r' < 64 → c' < 32 → (r' ≠ r ∨ c ≤ c') → (e.k.withLedgers led).ledger t' r' c' = e.k.ledger t' r' c')
    ⟨e.k.ledgers, e.occ, rfl, fun _ _ _ _ _ _ => rfl⟩ ?_
  rintro c x hc ⟨led, occ, rfl, hkept⟩
  obtain ⟨led', occ', hvalue, hled⟩ := roundValue_plain hfuse (e.withEntries led occ) o r c
  refine ⟨led', occ', ?_, fun t' r' c' hr' hc' hother => ?_⟩
  · have same := entryRead_congr (hkept d.tile r c hr (by omega) (Or.inr le_rfl))
    simp only [hvalue, hsr, Eff.mode, Bool.false_eq_true, if_false, d.rowValues_succ, Eff.withEntries_k, same,
      Eff.withEntries_withEntries]
  · refine (hled hr (by omega) t' r' c' hr' hc').trans ((if_neg ?_).trans (hkept t' r' c' hr' hc' ?_)) <;> omega

/-- A row placed and its detections recorded: one write to the store of the ROUND. -/
theorem placeRow_wrote (d : DrainOp) (e : Eff) (r : Nat) (bs : List (Byte × Bool)) (o : MicroOp) (nf poisoned : Nat) {k : CoreSt}
    (hk : k = ((e.placeRow d r bs none).wrote o nf poisoned).k) :
    d.outStore k = (d.outStore e.k).write (d.outAddr e.k.tiles r) bs ∧ k.tiles = e.k.tiles ∧ k.ledgers = e.k.ledgers := by
  have hsame : k.operands = (e.placeRow d r bs none).k.operands := hk ▸ Eff.wrote_operands _ o nf poisoned
  have hplaced : d.outStore (e.placeRow d r bs none).k = (d.outStore e.k).write (d.outAddr e.k.tiles r) bs ∧
      (e.placeRow d r bs none).k.tiles = e.k.tiles ∧ (e.placeRow d r bs none).k.ledgers = e.k.ledgers := by
    unfold Eff.placeRow DrainOp.outStore DrainOp.outAddr
    cases d.toLs <;> exact ⟨rfl, rfl, rfl⟩
  obtain ⟨hstore, htiles, hledgers⟩ := hplaced
  obtain ⟨-, -, htiles', hledgers'⟩ := CoreSt.operands_eq_iff.1 hsame
  exact ⟨(outStore_congr d hsame).trans hstore, htiles'.trans htiles, hledgers'.trans hledgers⟩

/-- What a ROUND has done after its first `i` rows: they are written, and no entry of a later row has changed. -/
structure RowsRounded (d : DrainOp) (b k : CoreSt) (i : Nat) : Prop where
  tiles : k.tiles = b.tiles
  wf : Mem.wf (d.outStore k).data = true
  entry : ∀ t r q, i ≤ r → r < 64 → q < 32 → k.ledger t r q = b.ledger t r q
  row : ∀ r < i, ∀ bs, bs = packRow (fmtOf d.fmt).bits ((List.range d.n).map (d.rounded b r)) →
    (d.outStore k).data.bytes (d.outAddr b.tiles r) bs.length = bs.map (·.1)

theorem RowsRounded.next {d : DrainOp} {b k k' : CoreSt} {i base pitch : Nat} {bs : List (Byte × Bool)} (h : RowsRounded d b k i)
    (haddr : ∀ r, d.outAddr b.tiles r = base + r * pitch) (hpitch : (d.n * (fmtOf d.fmt).bits + 7) / 8 ≤ pitch)
    (hbs : bs = packRow (fmtOf d.fmt).bits ((List.range d.n).map (d.rounded b i)))
    (hstore : d.outStore k' = (d.outStore k).write (d.outAddr k.tiles i) bs) (htiles : k'.tiles = k.tiles)
    (hentry : ∀ t r q, r < 64 → q < 32 → r ≠ i → k'.ledger t r q = k.ledger t r q) : RowsRounded d b k' (i + 1) where
  tiles := htiles.trans h.tiles
  wf := hstore ▸ store_write_wf h.wf _ _
  entry t r q hir hr hq := (hentry t r q hr hq (by omega)).trans (h.entry t r q (by omega) hr hq)
  row := by
    rintro r hr cs rfl
    rw [hstore, h.tiles]
    rcases Nat.lt_succ_iff_lt_or_eq.1 hr with hlt | rfl
    · rw [Store.bytes_write_of_disjoint h.wf]
      · exact h.row r hlt _ rfl
      · have below : (r + 1) * pitch ≤ i * pitch := Nat.mul_le_mul_right pitch hlt
        rw [Nat.add_one_mul] at below
        rw [haddr, haddr, packRow_length, List.length_map, List.length_range]
        omega
    · rw [← hbs]
      exact Store.bytes_write_same h.wf _ _

theorem round_rows {d : DrainOp} (hfuse : d.fuse = 0) (hsr : d.sr = false) (hmx : (fmtOf d.fmt).isMx = false) (hm : d.m ≤ 64)
    (hn : d.n ≤ 32) (b : Eff) (o : MicroOp) (hwf : Mem.wf (d.outStore b.k).data = true) {base pitch : Nat}
    (haddr : ∀ r, d.outAddr b.k.tiles r = base + r * pitch) (hpitch : (d.n * (fmtOf d.fmt).bits + 7) / 8 ≤ pitch) :
    RowsRounded d b.k (b.round o d).k d.m := by
  have noAux : fuseAux d.fuse = false := by rw [hfuse]; rfl
  unfold Eff.round
  simp only [noAux, Bool.false_eq_true, if_false, hmx]
  refine foldl_range_invariant (fun i (e : Eff) => RowsRounded d b.k e.k i) ⟨rfl, hwf, fun _ _ _ _ _ _ => rfl, nofun⟩ ?_
  intro i e hi h
  have hi64 : i < 64 := by omega
  obtain ⟨led, occ, hrow, hother⟩ := roundRow_plain hfuse hsr hn e o hi64
  simp only [hrow]
  generalize hx : (if d.stats = true then _ else e.withEntries led occ) = x
  have hxk : x.k.operands = (e.k.withLedgers led).operands := by
    rw [← hx]
    split <;> rfl
  clear hx
  have helems : ((d.rowValues e.k i d.n).map (fun v => outElem (fmtOf d.fmt) v.2 v.1.val v.1.poison)).map (·.1) =
      (List.range d.n).map (d.rounded b.k i) := by
    rw [DrainOp.rowValues, List.map_map, List.map_map]
    refine List.map_congr_left fun q hq => ?_
    have same := entryRead_congr (h.entry d.tile i q le_rfl hi64 (by have := List.mem_range.1 hq; omega))
    simp only [Function.comp_apply, plainRound, DrainOp.rounded, same]
  rw [helems]
  obtain ⟨hstore, htiles, hledgers⟩ := placeRow_wrote d x i _ o _ _ rfl
  obtain ⟨-, -, hxtiles, hxledgers⟩ := CoreSt.operands_eq_iff.1 hxk
  refine h.next haddr hpitch rfl (hstore.trans ?_) (htiles.trans hxtiles) ?_
  · rw [outStore_congr d hxk, hxtiles]
    rfl
  · intro t r q hr hq hne
    rw [← hother t r q hr hq (Or.inl hne), CoreSt.ledger, hledgers, hxledgers]
    rfl

/-- Every element of a ROUND to nearest even reads back as the drained entry rounded once (R192, R29). -/
theorem round_elements {d : DrainOp} (hfuse : d.fuse = 0) (hsr : d.sr = false) (hmx : (fmtOf d.fmt).isMx = false) (hm : d.m ≤ 64)
    (hn : d.n ≤ 32) (b : Eff) (o : MicroOp) (hwf : Mem.wf (d.outStore b.k).data = true) {base pitch : Nat}
    (haddr : ∀ r, d.outAddr b.k.tiles r = base + r * pitch) (hpitch : (d.n * (fmtOf d.fmt).bits + 7) / 8 ≤ pitch) {r q : Nat}
    (hr : r < d.m) (hq : q < d.n) :
    ((d.outStore (b.round o d).k).elemBits 0 (d.outAddr b.k.tiles r) q (fmtOf d.fmt).bits).1 = (d.rounded b.k r q).1 := by
  have written := (round_rows hfuse hsr hmx hm hn b o hwf haddr hpitch).row r hr _ rfl
  have fits : ∀ x ∈ (List.range d.n).map (d.rounded b.k r), x.1 < 2 ^ (fmtOf d.fmt).bits :=
    List.forall_mem_map.2 fun q _ => outElem_rne_lt _ _ _
  rw [Store.elemBits_of_packRow written fits (by simpa using hq)]
  simp

/-- The rows of a ROUND to a tile lie one pitch apart (R78). -/
theorem TrfOp.addr_eq {o : TrfOp} (h : 0 ≤ o.row0) (tiles : Tab Word32) (i : Nat) :
    o.addr tiles i = tileBase (tileOf tiles o.tile) + o.row0.toNat * tilePitch (tileOf tiles o.tile) + o.byte0 +
      i * tilePitch (tileOf tiles o.tile) := by
  have row : (o.row0 + i).toNat = o.row0.toNat + i := by omega
  simp only [TrfOp.addr, row, Nat.add_mul]
  omega

/-! ### EXPORT (R89) -/

/-- A core after a change of its local store, its ledger entries, its feeders' lines and its counters. -/
def ImageOnly (k k' : CoreSt) : Prop :=
  ∃ ls led feeders g, k' = { k with ls := ls, ledgers := led, pipe := { k.pipe with feeders := feeders }, gauger := g }

theorem ImageOnly.trans {a b c : CoreSt} (h : ImageOnly a b) (h' : ImageOnly b c) : ImageOnly a c := by
  obtain ⟨_, _, _, _, rfl⟩ := h
  obtain ⟨_, _, _, _, rfl⟩ := h'
  exact ⟨_, _, _, _, rfl⟩

/-- Start of row `r` of the image. -/
def DrainOp.imageRow (d : DrainOp) (r : Nat) : Nat := d.lsBase.toNat + r * d.lsStride
/-- The form in which EXPORT writes entry (r, q) (R39). -/
def DrainOp.form (d : DrainOp) (k : CoreSt) (r q : Nat) : LedgerOps.Form := LedgerOps.toForm (entryRead k d.tile r q)

/-- The mask of the first `n` columns whose bit is set. -/
def maskOf (p : Nat → Bool) (n : Nat) : Nat := (List.range n).foldl (fun m c => m + if p c then 2 ^ c else 0) 0

theorem maskOf_succ (p : Nat → Bool) (n : Nat) : maskOf p (n + 1) = maskOf p n + if p n then 2 ^ n else 0 :=
  foldl_range_succ _ _ _

theorem maskOf_congr {p p' : Nat → Bool} {n : Nat} (h : ∀ q < n, p q = p' q) : maskOf p n = maskOf p' n := by
  induction n with
  | zero => rfl
  | succ n ih => rw [maskOf_succ, maskOf_succ, ih fun q hq => h q (Nat.lt_succ_of_lt hq), h n n.lt_succ_self]

theorem maskOf_testBit (p : Nat → Bool) (n : Nat) :
    maskOf p n < 2 ^ n ∧ ∀ q, (maskOf p n).testBit q = (decide (q < n) && p q) := by
  induction n with
  | zero => simp [maskOf]
  | succ n ih =>
    obtain ⟨hlt, hbit⟩ := ih
    have hlt' : maskOf p (n + 1) < 2 ^ (n + 1) := by
      rw [maskOf_succ, Nat.pow_succ]
      split <;> omega
    refine ⟨hlt', fun q => ?_⟩
    rcases lt_trichotomy q n with h | rfl | h
    · have below : (maskOf p (n + 1)).testBit q = (maskOf p n).testBit q := by
        rw [maskOf_succ]
        split
        · rw [Nat.add_comm, Nat.testBit_two_pow_add_gt h]
        · rfl
      simp [below, hbit, h, Nat.lt_succ_of_lt h]
    · rw [maskOf_succ]
      cases hp : p q
      · simp [hbit]
      · simp [Nat.add_comm _ (2 ^ q), Nat.testBit_two_pow_add_eq, hbit]
    · rw [Nat.testBit_lt_two_pow (hlt'.trans_le (Nat.pow_le_pow_right Nat.two_pos h))]
      simp [Nat.not_lt.2 h]

theorem slotBytes_length (f : LedgerOps.Form) : (LedgerOps.slotBytes f).length = 80 := by
  cases f <;> simp [LedgerOps.slotBytes]

theorem imageRow_apart {d : DrainOp} (hstride : 2624 ≤ d.lsStride) {r i : Nat} (h : r < i) :
    d.imageRow r + 2624 ≤ d.imageRow i := by
  have below : (r + 1) * d.lsStride ≤ i * d.lsStride := Nat.mul_le_mul_right _ h
  rw [Nat.add_one_mul] at below
  simp only [DrainOp.imageRow]
  omega

/-- EXPORT of entry (r, c): its bit of the row's form_mask, and its slot. -/
def Eff.exportSlot (d : DrainOp) (r : Nat) (acc : Nat × Eff) (c : Nat) : Nat × Eff :=
  let f := LedgerOps.toForm (acc.2.readLedger d.tile r c).1
  (acc.1 + (if LedgerOps.isFull f then 2 ^ c else 0),
    (acc.2.readLedger d.tile r c).2.writeLs (d.imageRow r + 64 + 80 * c) (markAll false (LedgerOps.slotBytes f)))

/-- EXPORT of row r: its slots, then its form_mask. -/
def Eff.exportRow (d : DrainOp) (e : Eff) (r : Nat) : Eff :=
  let x := (List.range d.n).foldl (Eff.exportSlot d r) (0, e)
  x.2.writeLs (d.imageRow r) (markAll false (natLe 64 x.1))

theorem exportImage_eq (e : Eff) (d : DrainOp) :
    e.exportImage d = (List.range d.m).foldl (Eff.exportRow d) (e.count 0x064 d.m) := rfl

theorem writeLs_imageOnly (e : Eff) (a : Nat) (bs : List (Byte × Bool)) : ImageOnly e.k (e.writeLs a bs).k := ⟨_, _, _, _, rfl⟩

/-- What EXPORT has done after the first `c` slots of row `r`. -/
structure SlotsExported (d : DrainOp) (r : Nat) (k k' : CoreSt) (c : Nat) : Prop where
  frame : ImageOnly k k'
  wf : Mem.wf k'.ls.data = true
  outside : ∀ a, a < d.imageRow r + 64 ∨ d.imageRow r + 64 + 80 * c ≤ a → k'.ls.data.rd a = k.ls.data.rd a
  slot : ∀ q < c, k'.ls.data.bytes (d.imageRow r + 64 + 80 * q) 80 = LedgerOps.slotBytes (d.form k r q)
  entry : ∀ t r' q, r' < 64 → q < 32 →
    k'.ledger t r' q = if t = d.tile ∧ r' = r ∧ q < c then entryRead k t r' q else k.ledger t r' q

theorem markAll_bytes (m : Bool) (bs : List Byte) : (markAll m bs).map (·.1) = bs := by
  simp [markAll, Function.comp_def]

theorem markAll_length (m : Bool) (bs : List Byte) : (markAll m bs).length = bs.length := List.length_map _

theorem exportSlot_exported {d : DrainOp} {r : Nat} (hr : r < 64) {e e' : Eff} {mask c : Nat} (hc : c < 32)
    (h : SlotsExported d r e.k e'.k c) :
    (Eff.exportSlot d r (mask, e') c).1 = mask + (if LedgerOps.isFull (d.form e.k r c) then 2 ^ c else 0) ∧
      SlotsExported d r e.k (Eff.exportSlot d r (mask, e') c).2.k (c + 1) := by
  have same : entryRead e'.k d.tile r c = entryRead e.k d.tile r c :=
    entryRead_congr ((h.entry d.tile r c hr hc).trans (if_neg (by omega)))
  obtain ⟨led, occ, hread, hled⟩ := readLedger_snd e' d.tile r c
  simp only [Eff.exportSlot, readLedger_fst, same, hread]
  refine ⟨rfl, ?_⟩
  have hlen : ∀ f, (markAll false (LedgerOps.slotBytes f)).length = 80 := fun f => by rw [markAll_length, slotBytes_length]
  constructor
  case frame => exact h.frame.trans ⟨_, _, _, _, rfl⟩
  case wf => exact store_write_wf h.wf _ _
  case outside =>
    intro a ha
    refine (Store.rd_write_of_outside h.wf ?_).trans (h.outside a (by omega))
    rw [hlen]
    omega
  case slot =>
    intro q hq
    rcases Nat.lt_succ_iff_lt_or_eq.1 hq with hlt | rfl
    · refine (Store.bytes_write_of_disjoint h.wf ?_).trans (h.slot q hlt)
      omega
    · have := Store.bytes_write_same h.wf (d.imageRow r + 64 + 80 * q) (markAll false (LedgerOps.slotBytes (d.form e.k r q)))
      rwa [hlen, markAll_bytes] at this
  case entry =>
    intro t r' q hr' hq
    refine (hled hr hc t r' q hr' hq).trans ?_
    split
    · next here =>
      obtain ⟨rfl, rfl, rfl⟩ := here
      rw [same, if_pos ⟨rfl, rfl, q.lt_succ_self⟩]
    · next elsewhere =>
      exact (h.entry t r' q hr' hq).trans (if_congr (by omega) rfl rfl)

/-- What EXPORT has done after its first `i` rows. -/
structure RowsExported (d : DrainOp) (k k' : CoreSt) (i : Nat) : Prop where
  frame : ImageOnly k k'
  wf : Mem.wf k'.ls.data = true
  slot : ∀ r q, r < i → q < d.n → k'.ls.data.bytes (d.imageRow r + 64 + 80 * q) 80 = LedgerOps.slotBytes (d.form k r q)
  mask : ∀ r < i, k'.ls.data.bytes (d.imageRow r) 64 = natLe 64 (maskOf (fun q => LedgerOps.isFull (d.form k r q)) d.n)
  entry : ∀ t r q, r < 64 → q < 32 →
    k'.ledger t r q = if t = d.tile ∧ r < i ∧ q < d.n then entryRead k t r q else k.ledger t r q

theorem exportRow_slots {d : DrainOp} (hn : d.n ≤ 32) {r : Nat} (hr : r < 64) (e : Eff) (hwf : Mem.wf e.k.ls.data = true) :
    ∃ e', (List.range d.n).foldl (Eff.exportSlot d r) (0, e) =
      (maskOf (fun q => LedgerOps.isFull (d.form e.k r q)) d.n, e') ∧ SlotsExported d r e.k e'.k d.n := by
  refine foldl_range_invariant (fun c (x : Nat × Eff) => ∃ e',
    x = (maskOf (fun q => LedgerOps.isFull (d.form e.k r q)) c, e') ∧ SlotsExported d r e.k e'.k c) ⟨e, rfl, ?_⟩ ?_
  · exact ⟨⟨_, _, _, _, rfl⟩, hwf, fun _ _ => rfl, nofun, fun _ _ _ _ _ => by simp⟩
  · rintro c x hc ⟨e', rfl, h⟩
    obtain ⟨hmask, hslot⟩ := exportSlot_exported hr (mask := maskOf (fun q => LedgerOps.isFull (d.form e.k r q)) c)
      (hc.trans_le hn) h
    exact ⟨_, Prod.ext (hmask.trans (maskOf_succ _ c).symm) rfl, hslot⟩

theorem exportRow_exported {d : DrainOp} (hn : d.n ≤ 32) (hstride : 2624 ≤ d.lsStride) {b e : Eff} {i : Nat} (hi : i < 64)
    (h : RowsExported d b.k e.k i) : RowsExported d b.k (e.exportRow d i).k (i + 1) := by
  obtain ⟨e', hfold, hslots⟩ := exportRow_slots hn hi e h.wf
  have same : ∀ q < 32, entryRead e.k d.tile i q = entryRead b.k d.tile i q := fun q hq =>
    entryRead_congr ((h.entry d.tile i q hi hq).trans (if_neg (by omega)))
  have forms : ∀ q < d.n, d.form e.k i q = d.form b.k i q := fun q hq => congrArg LedgerOps.toForm (same q (by omega))
  have masks := maskOf_congr fun q hq => congrArg LedgerOps.isFull (forms q hq)
  have hrow : e.exportRow d i = e'.writeLs (d.imageRow i)
      (markAll false (natLe 64 (maskOf (fun q => LedgerOps.isFull (d.form b.k i q)) d.n))) := by
    rw [← masks, Eff.exportRow, hfold]
  have hlen : ∀ v, (markAll false (natLe 64 v)).length = 64 := fun v => by rw [markAll_length, natLe_length]
  have earlier : ∀ r < i, ∀ a, a + 80 ≤ d.imageRow r + 2624 → ∀ n ≤ 80,
      (e.exportRow d i).k.ls.data.bytes a n = e.k.ls.data.bytes a n := by
    intro r hr a ha n hn
    have hapart := imageRow_apart hstride hr
    rw [hrow]
    refine (Store.bytes_write_of_disjoint hslots.wf (by omega)).trans ?_
    exact Mem.bytes_congr fun j hj => hslots.outside _ (by omega)
  constructor
  case frame => exact hrow ▸ (h.frame.trans hslots.frame).trans (writeLs_imageOnly _ _ _)
  case wf => exact hrow ▸ store_write_wf hslots.wf _ _
  case slot =>
    intro r q hr hq
    rcases Nat.lt_succ_iff_lt_or_eq.1 hr with hlt | rfl
    · exact (earlier r hlt _ (by omega) 80 le_rfl).trans (h.slot r q hlt hq)
    · rw [← forms q hq, ← hslots.slot q hq, hrow]
      exact Store.bytes_write_of_disjoint hslots.wf (by rw [hlen]; omega)
  case mask =>
    intro r hr
    rcases Nat.lt_succ_iff_lt_or_eq.1 hr with hlt | rfl
    · exact (earlier r hlt _ (by omega) 64 (by omega)).trans (h.mask r hlt)
    · have := Store.bytes_write_same hslots.wf (d.imageRow r)
        (markAll false (natLe 64 (maskOf (fun q => LedgerOps.isFull (d.form b.k r q)) d.n)))
      rw [hlen, markAll_bytes] at this
      rw [hrow]
      exact this
  case entry =>
    intro t r q hr hq
    rw [hrow]
    refine (hslots.entry t r q hr hq).trans ?_
    split
    · next here =>
      obtain ⟨rfl, rfl, hqn⟩ := here
      rw [same q hq, if_pos ⟨rfl, r.lt_succ_self, hqn⟩]
    · next elsewhere =>
      exact (h.entry t r q hr hq).trans (if_congr (by omega) rfl rfl)

theorem exportImage_exported {d : DrainOp} (hm : d.m ≤ 64) (hn : d.n ≤ 32) (hstride : 2624 ≤ d.lsStride) (b : Eff)
    (hwf : Mem.wf b.k.ls.data = true) : RowsExported d b.k (b.exportImage d).k d.m := by
  rw [exportImage_eq]
  refine foldl_range_invariant (fun i (e : Eff) => RowsExported d b.k e.k i) ?_ ?_
  · exact ⟨⟨_, _, _, _, rfl⟩, hwf, nofun, nofun, fun _ _ _ _ _ => by simp [CoreSt.ledger, Eff.count]⟩
  · exact fun i e hi h => exportRow_exported hn hstride (hi.trans_le hm) h

/-! ### MERGE (R90) -/

/-- A core after a change of its local store's checks, its ledger entries and its counters. -/
def MergeOnly (k k' : CoreSt) : Prop :=
  ∃ ls led g, k' = { k with ls := ls, ledgers := led, gauger := g } ∧ ls.data = k.ls.data

theorem MergeOnly.trans {a b c : CoreSt} (h : MergeOnly a b) (h' : MergeOnly b c) : MergeOnly a c := by
  obtain ⟨_, _, _, rfl, hdata⟩ := h
  obtain ⟨_, _, _, rfl, hdata'⟩ := h'
  exact ⟨_, _, _, rfl, hdata'.trans hdata⟩

/-- The term that slot `q` of row `r` of an image stands for, as a store delivers it: POISON in a poisoned line. -/
def DrainOp.mergeTerm (d : DrainOp) (st : Store) (r q : Nat) : Ledger :=
  let x := d.imageRow r
  if st.marked x 4 ∨ st.marked (x + 64 + 80 * q) 80 then LedgerOps.ofTag .poison
  else LedgerOps.ofForm (LedgerOps.formOf ((st.data.le x 4).testBit q) (st.data.bytes (x + 64 + 80 * q) 80))
/-- What MERGE leaves in entry (r, q) when a store delivers the image. -/
def DrainOp.merged (d : DrainOp) (k : CoreSt) (st : Store) (r q : Nat) : Ledger :=
  LedgerOps.combine (if d.acc then entryRead k d.tile r q else LedgerOps.zero) (d.mergeTerm st r q)

/-- MERGE of entry (r, c). -/
def Eff.mergeSlot (d : DrainOp) (r : Nat) (e : Eff) (c : Nat) (headBad : Bool) (mask : Nat) : Eff :=
  let at_ := d.imageRow r + 64 + 80 * c
  let bad := headBad || e.k.ls.marked at_ 80
  let f := LedgerOps.formOf (mask.testBit c) (e.k.ls.bytes at_ 80)
  let e := match f with
    | .packed w => if !bad && !LedgerOps.packedOk w then e.raise 0x07 [wd (masterId 1 e.id), wd (w.toNat % 2 ^ 16)] else e
    | .full _ => e
  let (l0, e) := if d.acc then e.readLedger d.tile r c else (LedgerOps.zero, e)
  let t := if bad then LedgerOps.ofTag .poison else LedgerOps.ofForm f
  { e with k := e.k.setLedger d.tile r c (LedgerOps.combine l0 t) }

/-- MERGE of row r. -/
def Eff.mergeRow (d : DrainOp) (e : Eff) (r : Nat) : Eff :=
  let e := e.touchLs (d.imageRow r) 2624
  (List.range d.n).foldl (fun x c => x.mergeSlot d r c (e.k.ls.marked (d.imageRow r) 4) (e.k.ls.data.le (d.imageRow r) 4)) e

theorem mergeImage_eq (e : Eff) (d : DrainOp) : e.mergeImage d = (List.range d.m).foldl (Eff.mergeRow d) e := rfl

theorem mergeSlot_merged {d : DrainOp} {r c : Nat} (hr : r < 64) (hc : c < 32) (e : Eff) :
    ∃ led occ, e.mergeSlot d r c (e.k.ls.marked (d.imageRow r) 4) (e.k.ls.data.le (d.imageRow r) 4) = e.withEntries led occ ∧
      ∀ t r' q, r' < 64 → q < 32 → (e.k.withLedgers led).ledger t r' q =
        if t = d.tile ∧ r' = r ∧ q = c then d.merged e.k e.k.ls r c else e.k.ledger t r' q := by
  have term : (if (e.k.ls.marked (d.imageRow r) 4 || e.k.ls.marked (d.imageRow r + 64 + 80 * c) 80) = true
      then LedgerOps.ofTag .poison
      else LedgerOps.ofForm (LedgerOps.formOf ((e.k.ls.data.le (d.imageRow r) 4).testBit c)
        (e.k.ls.bytes (d.imageRow r + 64 + 80 * c) 80))) = d.mergeTerm e.k.ls r c := by
    simp only [Bool.or_eq_true]
    rfl
  unfold Eff.mergeSlot
  simp only [term]
  generalize hx : (match LedgerOps.formOf _ _ with | .packed w => _ | .full _ => e) = x
  obtain ⟨occ, rfl⟩ : ∃ occ, x = e.withEntries e.k.ledgers occ := by
    rw [← hx]
    split
    · split <;> exact ⟨_, rfl⟩
    · exact ⟨_, rfl⟩
  clear hx
  cases hacc : d.acc
  · simp only [Bool.false_eq_true, if_false]
    refine ⟨_, occ, rfl, fun t r' q hr' hq => (e.k.ledger_setLedger _ hr hc hr' hq).trans ?_⟩
    simp only [DrainOp.merged, hacc, Bool.false_eq_true, if_false]
  · obtain ⟨led, occ', hread, hled⟩ := readLedger_snd (e.withEntries e.k.ledgers occ) d.tile r c
    simp only [if_true, readLedger_fst, hread]
    refine ⟨_, occ', rfl, fun t r' q hr' hq => ((e.k.withLedgers led).ledger_setLedger _ hr hc hr' hq).trans ?_⟩
    simp only [DrainOp.merged, hacc, if_true]
    split
    · rfl
    · next elsewhere => exact (hled hr hc t r' q hr' hq).trans (if_neg elsewhere)

/-- The slots of a row combined in turn, as the store delivers them. -/
theorem mergeSlots_merged {d : DrainOp} (hn : d.n ≤ 32) {r : Nat} (hr : r < 64) (e : Eff) :
    ∃ led occ, (List.range d.n).foldl (fun x c =>
        x.mergeSlot d r c (e.k.ls.marked (d.imageRow r) 4) (e.k.ls.data.le (d.imageRow r) 4)) e = e.withEntries led occ ∧
      ∀ t r' q, r' < 64 → q < 32 → (e.k.withLedgers led).ledger t r' q =
        if t = d.tile ∧ r' = r ∧ q < d.n then d.merged e.k e.k.ls r q else e.k.ledger t r' q := by
  refine foldl_range_invariant (fun c (x : Eff) => ∃ led occ, x = e.withEntries led occ ∧
    ∀ t r' q, r' < 64 → q < 32 → (e.k.withLedgers led).ledger t r' q =
      if t = d.tile ∧ r' = r ∧ q < c then d.merged e.k e.k.ls r q else e.k.ledger t r' q)
    ⟨e.k.ledgers, e.occ, rfl, fun _ _ _ _ _ => by simp [CoreSt.withLedgers]⟩ ?_
  rintro c x hc ⟨led, occ, rfl, hled⟩
  obtain ⟨led', occ', hslot, hled'⟩ := mergeSlot_merged (d := d) hr (hc.trans_le hn) (e.withEntries led occ)
  refine ⟨led', occ', hslot, fun t r' q hr' hq => (hled' t r' q hr' hq).trans ?_⟩
  split
  · next here =>
    obtain ⟨rfl, rfl, rfl⟩ := here
    rw [if_pos ⟨rfl, rfl, q.lt_succ_self⟩]
    have same := entryRead_congr ((hled d.tile r' q hr hq).trans (if_neg (by omega)))
    simp only [DrainOp.merged, Eff.withEntries_k, same]
    rfl
  · next elsewhere => exact (hled t r' q hr' hq).trans (if_congr (by omega) rfl rfl)

theorem mergeRow_merged {d : DrainOp} (hn : d.n ≤ 32) {r : Nat} (hr : r < 64) (e : Eff) :
    ∃ led occ, Eff.mergeRow d e r = (e.touchLs (d.imageRow r) 2624).withEntries led occ ∧
      ∀ t r' q, r' < 64 → q < 32 → (e.k.withLedgers led).ledger t r' q =
        if t = d.tile ∧ r' = r ∧ q < d.n then d.merged e.k (e.k.ls.afterRead (d.imageRow r) 2624).1 r q
        else e.k.ledger t r' q :=
  mergeSlots_merged hn hr (e.touchLs (d.imageRow r) 2624)

/-- The local store as MERGE finds it at each row: every row before has been read (R70). -/
def DrainOp.mergeStore (d : DrainOp) (st : Store) : Nat → Store
  | 0 => st
  | r + 1 => ((d.mergeStore st r).afterRead (d.imageRow r) 2624).1

/-- What MERGE has done after its first `i` rows. -/
structure RowsMerged (d : DrainOp) (k k' : CoreSt) (i : Nat) : Prop where
  frame : MergeOnly k k'
  store : k'.ls = d.mergeStore k.ls i
  entry : ∀ t r q, r < 64 → q < 32 →
    k'.ledger t r q = if t = d.tile ∧ r < i ∧ q < d.n then d.merged k (d.mergeStore k.ls (r + 1)) r q else k.ledger t r q

theorem mergeImage_merged {d : DrainOp} (hm : d.m ≤ 64) (hn : d.n ≤ 32) (b : Eff) :
    RowsMerged d b.k (b.mergeImage d).k d.m := by
  rw [mergeImage_eq]
  refine foldl_range_invariant (fun i (e : Eff) => RowsMerged d b.k e.k i) ?_ ?_
  · exact ⟨⟨_, _, _, rfl, rfl⟩, rfl, fun _ _ _ _ _ => by simp⟩
  · intro i e hi h
    have hi64 := hi.trans_le hm
    obtain ⟨led, occ, hrow, hled⟩ := mergeRow_merged hn hi64 e
    rw [hrow]
    have hstore : (e.k.ls.afterRead (d.imageRow i) 2624).1 = d.mergeStore b.k.ls (i + 1) := by rw [h.store]; rfl
    constructor
    case frame => exact h.frame.trans ⟨_, _, _, rfl, store_afterRead_data _ _ _⟩
    case store => exact hstore
    case entry =>
      intro t r q hr hq
      refine (hled t r q hr hq).trans ?_
      split
      · next here =>
        obtain ⟨rfl, rfl, hqn⟩ := here
        have same := entryRead_congr ((h.entry d.tile r q hr hq).trans (if_neg (by omega)))
        rw [if_pos ⟨rfl, r.lt_succ_self, hqn⟩, hstore]
        simp only [DrainOp.merged, same]
      · next elsewhere => exact (h.entry t r q hr hq).trans (if_congr (by omega) rfl rfl)

theorem mergeStore_data (d : DrainOp) (st : Store) (r : Nat) : (d.mergeStore st r).data = st.data := by
  induction r with
  | zero => rfl
  | succ r ih => exact (store_afterRead_data _ _ _).trans ih

/-! ### The three operations -/

theorem le_roundUp_16 (n : Nat) : n ≤ roundUp n 16 := by
  unfold roundUp
  omega

/-- Settles O29. ROUND: the rows lie apart, so that every element reads back as its entry rounded. EXPORT: slots and masks lie
apart in rows of 2,624 bytes. MERGE: a row is read before its slots are combined, so that the store it delivers is that after
the read. -/
theorem drainMicroOps : Obligations.DrainMicroOps := by
  intro s c gap o d b hheads hd hb hls htrf
  have hm : d.m ≤ 64 := hd ▸ drainOp_m_le _ _ _
  have hn : d.n ≤ 32 := hd ▸ drainOp_n_le _ _ _
  have hbytes : d.trf.bytes = roundUp (bytesFor d.n d.fmt) 16 := hd ▸ rfl
  have hexec : ∀ {code f}, opField o.word .drain = code →
      Host.Outcome.next (ρ := Refusal) (φ := Fault) (s.onCore c (fun e => e.drainRow gap code f)) = .next (endedBy s c o (f b o d)) :=
    fun hop => hd ▸ hb ▸ congrArg Host.Outcome.next (onCore_drainRow hheads hop _)
  refine ⟨fun hop => ⟨b.round o d, hexec hop, rfl, ?roundLs, ?roundTrf⟩,
    fun hop hstride => ⟨b.exportImage d, hexec hop, ?exported⟩,
    fun hop => ⟨b.mergeImage d, d.mergeStore b.k.ls, hexec hop, ?merged⟩⟩
  case roundLs =>
    intro hfuse hsr hsome hmx htoLs hlen r q hr hq
    have hstore : ∀ k, d.outStore k = k.ls := fun k => if_pos htoLs
    have haddr : ∀ r, d.outAddr b.k.tiles r = d.lsBase.toNat + r * d.lsStride := fun r => if_pos htoLs
    rw [bytesFor, codeBits_eq_bits hsome] at hlen
    have := round_elements hfuse hsr ((isMx_eq_codeMx hsome).trans hmx) hm hn b o (by rwa [hstore]) haddr hlen hr hq
    rwa [hstore, haddr, ← codeBits_eq_bits hsome] at this
  case roundTrf =>
    intro hfuse hsr hsome hmx htoLs hrow0 hfits r q hr hq
    have hstore : ∀ k, d.outStore k = k.trf := fun k => if_neg (by simp [htoLs])
    have haddr : ∀ r, d.outAddr b.k.tiles r = d.trf.addr b.k.tiles r := fun r => if_neg (by simp [htoLs])
    have hlen : (d.n * (fmtOf d.fmt).bits + 7) / 8 ≤ tilePitch (tileOf b.k.tiles d.trf.tile) := by
      have := le_roundUp_16 (bytesFor d.n d.fmt)
      rw [← codeBits_eq_bits hsome, ← bytesFor]
      omega
    have := round_elements hfuse hsr ((isMx_eq_codeMx hsome).trans hmx) hm hn b o (by rwa [hstore])
      (fun r => (haddr r).trans (TrfOp.addr_eq hrow0 _ r)) hlen hr hq
    rwa [hstore, haddr, ← codeBits_eq_bits hsome] at this
  case exported =>
    obtain ⟨⟨ls, led, feeders, g, hk⟩, -, hslot, hmask, hentry⟩ := exportImage_exported hm hn hstride b hls
    refine ⟨by rw [hk], ?_, fun r q hr hq => hslot r q hr hq, fun r hr => ⟨_, hmask r hr, (maskOf_testBit _ _).2⟩⟩
    exact hentry
  case merged =>
    obtain ⟨⟨ls, led, g, hk, hdata⟩, hstore, hentry⟩ := mergeImage_merged hm hn b
    refine ⟨by rw [hk], by rw [hk, hdata], rfl, fun r => rfl, hstore, ?_, ?_⟩
    · exact fun t r q hr hq hout => (hentry t r q hr hq).trans (if_neg hout)
    · rintro r q x hr hq rfl
      rw [hentry d.tile r q (by omega) (by omega), if_pos ⟨rfl, hr, hq⟩, DrainOp.merged, DrainOp.mergeTerm, mergeStore_data]
      rfl

end Sys2Proof.Machine
end

section
/-! The vector unit's operations that write a row for each row they read (R183 to R189, R214 to R217): element-wise arithmetic,
CONVERT and the gradients. -/

namespace Sys2Proof.Machine

open Numbers

/-! ### Reads of the TRF -/

/-- A core's step after reads of the TRF: its checks and the counters have changed, no byte has. -/
def TrfRead (e e' : Eff) : Prop :=
  ∃ st g, e' = { e with k := { e.k with trf := st, gauger := g } } ∧ st.data = e.k.trf.data

theorem TrfRead.refl (e : Eff) : TrfRead e e := ⟨_, _, rfl, rfl⟩

theorem TrfRead.trans {a b c : Eff} (h : TrfRead a b) (h' : TrfRead b c) : TrfRead a c := by
  obtain ⟨_, _, rfl, hdata⟩ := h
  obtain ⟨_, _, rfl, hdata'⟩ := h'
  exact ⟨_, _, rfl, hdata'.trans hdata⟩

theorem TrfRead.tiles {e e' : Eff} (h : TrfRead e e') : e'.k.tiles = e.k.tiles := by
  obtain ⟨_, _, rfl, -⟩ := h
  rfl

theorem TrfRead.data {e e' : Eff} (h : TrfRead e e') : e'.k.trf.data = e.k.trf.data := by
  obtain ⟨_, _, rfl, hdata⟩ := h
  exact hdata

theorem TrfRead.frame {e e' : Eff} (h : TrfRead e e') :
    e'.k = { e.k with trf := e'.k.trf, gauger := e'.k.gauger } ∧ e'.id = e.id ∧ e'.occ = e.occ := by
  obtain ⟨_, _, rfl, -⟩ := h
  exact ⟨rfl, rfl, rfl⟩

theorem touchTrf_read (e : Eff) (a n : Nat) : TrfRead e (e.touchTrf a n) := ⟨_, _, rfl, store_afterRead_data _ _ _⟩

theorem rows_read (e : Eff) (n : Nat) : TrfRead e (e.rows n) := ⟨_, _, rfl, rfl⟩

theorem touchTrfOp_read (e : Eff) (o : TrfOp) : TrfRead e (e.touchTrfOp o) := by
  unfold Eff.touchTrfOp
  refine foldl_range_invariant (fun _ x => TrfRead e x) (TrfRead.refl e) fun i x _ h => ?_
  dsimp only
  split
  · exact h.trans ((touchTrf_read _ _ _).trans (touchTrf_read _ _ _))
  · exact h.trans (touchTrf_read _ _ _)

/-! ### The row written -/

/-- The elements of a row of results, rounded in the modes given. -/
def outElems (f : Fmt) (vals : List Elem) (ms : List Mode) : List OutElem :=
  (vals.zip ms).map (fun x => (outElem f x.2 x.1.1 x.1.2).1)

/-- A row of results is one write of the TRF. -/
theorem writeRow_trf (e : Eff) (o : MicroOp) (d : TrfOp) (i : Nat) (sr : Bool) (vals : List Elem) :
    (e.writeRow o d i sr vals).k.trf = e.k.trf.write (d.addr e.k.tiles i)
        (packRow (fmtOf d.fmt).bits (outElems (fmtOf d.fmt) vals (e.rowModes (sr && d.fmt ≠ 0) vals.length).1)) ∧
      (e.writeRow o d i sr vals).k.tiles = e.k.tiles := by
  unfold Eff.writeRow
  dsimp only
  obtain ⟨-, htrf, htiles, -⟩ := CoreSt.operands_eq_iff.1 (e.rowModes_operands (sr && d.fmt ≠ 0) vals.length)
  rw [Eff.wrote_trf, Eff.wrote_tiles]
  simp only [Eff.writeTrf, htrf, htiles, outElems, List.map_map, and_true]
  rfl

/-- Without stochastic rounding every element of the row reads back as its value rounded once to nearest even (R183, R185). -/
theorem writeRow_elements {e : Eff} {o : MicroOp} {d : TrfOp} {i : Nat} {sr : Bool} {vals : List Elem}
    (hsr : sr = false ∨ d.fmt = 0) (hwf : Mem.wf e.k.trf.data = true) {j : Nat} (hj : j < vals.length) :
    ((e.writeRow o d i sr vals).k.trf.elemBits 0 (d.addr e.k.tiles i) j (fmtOf d.fmt).bits).1 =
      (outElem (fmtOf d.fmt) .rne vals[j].1 vals[j].2).1.1 := by
  have noDraw : (sr && d.fmt ≠ 0) = false := by rcases hsr with h | h <;> simp [h]
  have hels : outElems (fmtOf d.fmt) vals (e.rowModes (sr && d.fmt ≠ 0) vals.length).1 =
      vals.map (fun x => (outElem (fmtOf d.fmt) .rne x.1 x.2).1) := by
    rw [noDraw, Eff.rowModes_rne, outElems]
    refine List.ext_getElem (by simp) fun n h1 h2 => ?_
    simp
  rw [(writeRow_trf e o d i sr vals).1, hels]
  have fits : ∀ x ∈ vals.map (fun x : Elem => (outElem (fmtOf d.fmt) .rne x.1 x.2).1), x.1 < 2 ^ (fmtOf d.fmt).bits :=
    List.forall_mem_map.2 fun x _ => outElem_rne_lt _ _ _
  rw [Store.elemBits_of_packRow (Store.bytes_write_same hwf _ _) fits (by simpa using hj)]
  simp

/-! ### Operations row by row -/

/-- The step of a core after its first `n` rows, from where the rows begin. -/
def rowsFrom (step : Eff → Nat → Eff) (e : Eff) (n : Nat) : Eff := (List.range n).foldl step e

theorem rowsFrom_succ (step : Eff → Nat → Eff) (e : Eff) (n : Nat) : rowsFrom step e (n + 1) = step (rowsFrom step e n) n :=
  foldl_range_succ step e n

/-- Row i of an operation, whose step before row n is `e n`: `elem` is computed on the core as row i finds it, its source read
first, and the row is written once. -/
def RowWritten (o : MicroOp) (v : VecOp) (elem : CoreSt → Nat → Nat → Elem) (b : Eff) (e : Nat → Eff) (i : Nat) : Prop :=
  ∃ w : Eff, w.k = { (e i).k with trf := w.k.trf, gauger := w.k.gauger } ∧ w.k.trf.data = (e i).k.trf.data ∧ w.id = (e i).id ∧
    w.occ = (e i).occ ∧ e (i + 1) = w.writeRow o v.dst i v.sr ((List.range v.e).map (elem w.k i)) ∧
    (v.sr = false ∨ v.dst.fmt = 0 → (fmtOf v.dst.fmt).isMx = false → ∀ j, j < v.e →
      ((e (i + 1)).k.trf.elemBits 0 (v.dst.addr b.k.tiles i) j (fmtOf v.dst.fmt).bits).1 =
        (outElem (fmtOf v.dst.fmt) .rne (elem w.k i j).1 (elem w.k i j).2).1.1)

section
variable {o : MicroOp} {v : VecOp} {b start : Eff} {elem : CoreSt → Nat → Nat → Elem} {touch step : Eff → Nat → Eff}
  (hstart : TrfRead b start) (htouch : ∀ e i, TrfRead e (touch e i))
  (hstep : ∀ e i, step e i = (touch e i).writeRow o v.dst i v.sr ((List.range v.e).map (elem (touch e i).k i)))
include hstart htouch hstep

theorem rowsFrom_keeps (hwf : Mem.wf b.k.trf.data = true) (n : Nat) :
    (rowsFrom step start n).k.tiles = b.k.tiles ∧ Mem.wf (rowsFrom step start n).k.trf.data = true := by
  refine foldl_range_invariant (fun _ (e : Eff) => e.k.tiles = b.k.tiles ∧ Mem.wf e.k.trf.data = true)
    ⟨hstart.tiles, hstart.data ▸ hwf⟩ ?_
  rintro i e - ⟨htiles, hdata⟩
  obtain ⟨htrf, htiles'⟩ := writeRow_trf (touch e i) o v.dst i v.sr ((List.range v.e).map (elem (touch e i).k i))
  rw [hstep, htrf, htiles', (htouch e i).tiles]
  exact ⟨htiles, store_write_wf ((htouch e i).data ▸ hdata) _ _⟩

theorem rowsFrom_rowWritten (hwf : Mem.wf b.k.trf.data = true) (i : Nat) : RowWritten o v elem b (rowsFrom step start) i := by
  obtain ⟨htiles, hdata⟩ := rowsFrom_keeps hstart htouch hstep hwf i
  have hnext := (rowsFrom_succ step start i).trans (hstep _ i)
  have hread := htouch (rowsFrom step start i) i
  obtain ⟨hk, hid, hocc⟩ := hread.frame
  refine ⟨_, hk, hread.data, hid, hocc, hnext, fun hsr _ j hj => ?_⟩
  have hj' : j < ((List.range v.e).map (elem (touch (rowsFrom step start i) i).k i)).length := by simpa using hj
  have := writeRow_elements (o := o) (i := i) hsr (hread.data ▸ hdata) hj'
  rw [hread.tiles, htiles, ← hnext] at this
  simpa using this

end

/-- What a row-by-row operation reads before its first row is in the TRF alone; then row after row is computed by `elem`. -/
def RowWise (o : MicroOp) (v : VecOp) (elem : CoreSt → Nat → Nat → Elem) (b e : Eff) : Prop :=
  ∃ (start : Eff) (touch step : Eff → Nat → Eff), TrfRead b start ∧ (∀ e i, TrfRead e (touch e i)) ∧
    (∀ e i, step e i = (touch e i).writeRow o v.dst i v.sr ((List.range v.e).map (elem (touch e i).k i))) ∧
    e = rowsFrom step start v.dst.rows

theorem arith_rowWise (o : MicroOp) (v : VecOp) (f : Arith) (b : Eff) : RowWise o v (arithElem f v) b (b.arith o v f) := by
  have touchMode : ∀ (e : Eff) (w : Word) (md : Nat), TrfRead e (if md = 3 then e else e.touchTrfOp (v.modeSrc w md)) := by
    intro e w md
    split
    · exact TrfRead.refl e
    · exact touchTrfOp_read _ _
  have hsrc := touchTrfOp_read b (v.src v.s1)
  cases f with
  | un g => exact ⟨_, fun e _ => e, _, hsrc.trans (rows_read _ _), fun e _ => TrfRead.refl e, fun _ _ => rfl, rfl⟩
  | bin g =>
    exact ⟨_, fun e _ => e, _, (hsrc.trans (touchMode _ _ _)).trans (rows_read _ _), fun e _ => TrfRead.refl e, fun _ _ => rfl, rfl⟩
  | tern g =>
    exact ⟨_, fun e _ => e, _, ((hsrc.trans (touchMode _ _ _)).trans (touchMode _ _ _)).trans (rows_read _ _),
      fun e _ => TrfRead.refl e, fun _ _ => rfl, rfl⟩

theorem gradRows_rowWise (o : MicroOp) (v : VecOp) (norm : Bool) (b : Eff) :
    RowWise o v (gradElem norm v) b (b.gradRows o v norm) := by
  have hsrc := ((touchTrfOp_read b (v.src v.s1)).trans (touchTrfOp_read _ (v.src v.s2))).trans (touchTrfOp_read _ v.rowStats)
  refine ⟨_, fun e _ => e, _, hsrc.trans (rows_read _ _), fun e _ => TrfRead.refl e, fun e i => ?_, rfl⟩
  cases norm <;> rfl

/-- The reads of CONVERT before row i: the elements, and their scales where they are MX. -/
def Eff.convertTouch (v : VecOp) (e : Eff) (i : Nat) : Eff :=
  let s := v.src v.s1
  let e := e.touchTrf (s.addr e.k.tiles i) s.bytes
  if codeMx s.fmt then e.touchTrf (s.scaleAddr e.k.tiles i 0) ((v.e + 31) / 32) else e

theorem convertTouch_eq {e : Eff} {tiles : Tab Word32} (h : e.k.tiles = tiles) (v : VecOp) (i : Nat) :
    e.convertTouch v i =
      if codeMx (v.src v.s1).fmt then
        (e.touchTrf ((v.src v.s1).addr tiles i) (v.src v.s1).bytes).touchTrf ((v.src v.s1).scaleAddr tiles i 0) ((v.e + 31) / 32)
      else e.touchTrf ((v.src v.s1).addr tiles i) (v.src v.s1).bytes := by
  subst h
  rfl

theorem convertTouch_read (v : VecOp) (e : Eff) (i : Nat) : TrfRead e (e.convertTouch v i) := by
  unfold Eff.convertTouch
  dsimp only
  split
  · exact (touchTrf_read _ _ _).trans (touchTrf_read _ _ _)
  · exact touchTrf_read _ _ _

/-- CONVERT of row i. -/
def Eff.convertRow (o : MicroOp) (v : VecOp) (e : Eff) (i : Nat) : Eff :=
  let w := e.convertTouch v i
  let vals := (List.range v.e).map (fun j => w.k.trfElem (v.src v.s1) i j)
  if codeMx v.dst.fmt then w.convertMxRow o v.dst i v.sr vals else w.writeRow o v.dst i v.sr vals

theorem convert_eq (o : MicroOp) (v : VecOp) (b : Eff) :
    b.convert o v = rowsFrom (Eff.convertRow o v) (b.rows v.dst.rows) v.dst.rows := rfl

theorem convert_rowWise {v : VecOp} (hmx : codeMx v.dst.fmt = false) (o : MicroOp) (b : Eff) :
    RowWise o v (fun k i j => k.trfElem (v.src v.s1) i j) b (b.convert o v) := by
  refine ⟨_, fun e i => e.convertTouch v i, _, rows_read _ _, fun e i => convertTouch_read v e i, fun e i => ?_, convert_eq o v b⟩
  simp only [Eff.convertRow, hmx, Bool.false_eq_true, if_false]

theorem convertMxRow_tiles (e : Eff) (o : MicroOp) (d : TrfOp) (i : Nat) (sr : Bool) (vals : List Elem) :
    (e.convertMxRow o d i sr vals).k.tiles = e.k.tiles := by
  unfold Eff.convertMxRow
  dsimp only
  obtain ⟨-, -, htiles, -⟩ := CoreSt.operands_eq_iff.1 (e.rowModes_operands sr vals.length)
  exact (Eff.wrote_tiles _ _ _ _).trans htiles

theorem convertRow_mx {v : VecOp} (hmx : codeMx v.dst.fmt = true) (o : MicroOp) (e : Eff) (i : Nat) :
    e.convertRow o v i = (e.convertTouch v i).convertMxRow o v.dst i v.sr
      ((List.range v.e).map (fun j => (e.convertTouch v i).k.trfElem (v.src v.s1) i j)) := by
  simp only [Eff.convertRow, hmx, if_true]

theorem convertRows_tiles {v : VecOp} (hmx : codeMx v.dst.fmt = true) (o : MicroOp) (e : Eff) (n : Nat) :
    (rowsFrom (Eff.convertRow o v) e n).k.tiles = e.k.tiles := by
  refine foldl_range_invariant (fun _ (x : Eff) => x.k.tiles = e.k.tiles) rfl fun i x _ h => ?_
  rw [convertRow_mx hmx, convertMxRow_tiles, (convertTouch_read v x i).tiles, h]

/-! ### The commands -/

theorem exec_arithRow {x : CoreRow × Nat × Arith} (hx : x ∈ arithRows) (c : CoreId) (gap : Nat) (s : State) :
    exec (x.1 c gap) s = .next (s.onCore c (fun e => e.vecRow gap x.2.1 (fun e o v => e.arith o v x.2.2))) := by
  have all : arithRows.Forall fun x =>
      exec (x.1 c gap) s = .next (s.onCore c (fun e => e.vecRow gap x.2.1 (fun e o v => e.arith o v x.2.2))) := by
    simp only [arithRows, List.forall_cons, List.Forall]
    repeat' apply And.intro
    all_goals rfl
  exact List.forall_iff_forall_mem.1 all x hx

theorem RowWise.rows {s : State} {c : CoreId} {gap : Nat} {row : CoreRow} {o : MicroOp} {v : VecOp} {b e' : Eff}
    {elem : CoreSt → Nat → Nat → Elem} (h : RowWise o v elem b e') (hexec : exec (row c gap) s = .next (endedBy s c o e'))
    (hwf : Mem.wf b.k.trf.data = true) :
    ∃ e : Nat → Eff, exec (row c gap) s = .next (endedBy s c o (e v.dst.rows)) ∧
      e 0 = { b with k := { b.k with trf := (e 0).k.trf, gauger := (e 0).k.gauger } } ∧ (e 0).k.trf.data = b.k.trf.data ∧
      ∀ i, i < v.dst.rows → RowWritten o v elem b e i := by
  obtain ⟨start, touch, step, hstart, htouch, hstep, rfl⟩ := h
  refine ⟨rowsFrom step start, hexec, ?_, hstart.data, fun i _ => rowsFrom_rowWritten hstart htouch hstep hwf i⟩
  obtain ⟨_, _, hs, -⟩ := hstart
  rw [hs]
  rfl

/-- Settles O30: each of these operations goes row by row, and the elements of a row fit their format, so that the packed row
reads back as the rounded results. -/
theorem elementwiseAndBlockMicroOps : Obligations.ElementwiseAndBlockMicroOps := by
  constructor
  · rintro s c gap o v b row code elem hheads hcode rfl rfl hwf
      (⟨f, hmem, rfl⟩ | ⟨rfl, rfl, hmx, rfl⟩ | ⟨rfl, rfl, rfl⟩ | ⟨rfl, rfl, rfl⟩)
    · exact (arith_rowWise o _ f _).rows ((exec_arithRow hmem c gap s).trans (congrArg _ (onCore_vecRow hheads hcode _))) hwf
    · exact (convert_rowWise hmx o _).rows (congrArg Host.Outcome.next (onCore_vecRow hheads hcode _)) hwf
    · exact (gradRows_rowWise o _ false _).rows (congrArg Host.Outcome.next (onCore_vecRow hheads hcode _)) hwf
    · exact (gradRows_rowWise o _ true _).rows (congrArg Host.Outcome.next (onCore_vecRow hheads hcode _)) hwf
  · rintro s c gap o v b hheads hcode rfl rfl hmx
    refine ⟨rowsFrom (Eff.convertRow o o.vec) (Eff.rows (begunBy s c gap o) o.vec.dst.rows),
      congrArg Host.Outcome.next (onCore_vecRow hheads hcode _), rfl, fun i _ => ?_⟩
    have htiles := convertRows_tiles hmx o (Eff.rows (begunBy s c gap o) o.vec.dst.rows) i
    refine ⟨_, _, rfl, ?_, (rowsFrom_succ _ _ i).trans (convertRow_mx hmx o _ i)⟩
    exact convertTouch_eq htiles o.vec i

end Sys2Proof.Machine
end

section
/-! The matrix array (R41, R45, R46, R58, R61, R72): a MATMUL reads its operands and then changes its ledger entries one after
another. -/

namespace Sys2Proof.Machine

open Numbers

/-! ### Entries changed one after another (R58, R61) -/

/-- From `b` to `e` each entry (r, q) of tile `t` with `p r q` has become `f r q` of what it was; no other entry and nothing
else has changed, and no event was raised unless one of these entries had a parity error. -/
structure EntriesMade (t : Nat) (f : Nat → Nat → Ledger → Ledger) (p : Nat → Nat → Prop) (b e : Eff) : Prop where
  frame : ∃ led occ, e = b.withEntries led occ
  made : ∀ r q, r < 64 → q < 32 → p r q → e.k.ledger t r q = f r q (b.k.ledger t r q)
  kept : ∀ t' r q, r < 64 → q < 32 → ¬ (t' = t ∧ p r q) → e.k.ledger t' r q = b.k.ledger t' r q
  quiet : (∀ r q, r < 64 → q < 32 → p r q → (b.k.ledger t r q).parityBad = false) → e.occ = b.occ

namespace EntriesMade

variable {t : Nat} {f g : Nat → Nat → Ledger → Ledger} {p p' : Nat → Nat → Prop} {b e e' : Eff}

theorem ls (h : EntriesMade t f p b e) : e.k.ls = b.k.ls := by
  obtain ⟨_, _, rfl⟩ := h.frame
  rfl

theorem pipe (h : EntriesMade t f p b e) : e.k.pipe = b.k.pipe := by
  obtain ⟨_, _, rfl⟩ := h.frame
  rfl

/-- Entries that `f` leaves as they are need no change. -/
theorem refl (h : ∀ r q l, p r q → f r q l = l) (b : Eff) : EntriesMade t f p b b where
  frame := ⟨b.k.ledgers, b.occ, rfl⟩
  made r q _ _ hp := (h r q _ hp).symm
  kept _ _ _ _ _ _ := rfl
  quiet _ := rfl

theorem congr (h : EntriesMade t f p b e) (hp : ∀ r q, p r q ↔ p' r q) (hf : ∀ r q l, p r q → f r q l = g r q l) :
    EntriesMade t g p' b e := by
  obtain rfl : p = p' := funext₂ fun r q => propext (hp r q)
  exact ⟨h.frame, fun r q hr hq hpq => (h.made r q hr hq hpq).trans (hf r q _ hpq), h.kept, h.quiet⟩

/-- Changes of entries that lie apart add up: the second finds its entries as they were before the first. -/
theorem trans (h : EntriesMade t f p b e) (h' : EntriesMade t f p' e e') (apart : ∀ r q, p r q → ¬ p' r q) :
    EntriesMade t f (fun r q => p r q ∨ p' r q) b e' where
  frame := by
    obtain ⟨_, _, he⟩ := h.frame
    obtain ⟨_, _, he'⟩ := h'.frame
    exact ⟨_, _, by rw [he', he, Eff.withEntries_withEntries]⟩
  made r q hr hq hor := by
    by_cases hp : p r q
    · rw [h'.kept t r q hr hq fun x => apart r q hp x.2, h.made r q hr hq hp]
    · rw [h'.made r q hr hq (hor.resolve_left hp), h.kept t r q hr hq fun x => hp x.2]
  kept t' r q hr hq hout := by
    rw [h'.kept t' r q hr hq fun x => hout ⟨x.1, .inr x.2⟩, h.kept t' r q hr hq fun x => hout ⟨x.1, .inl x.2⟩]
  quiet hgood := by
    have first := h.quiet fun r q hr hq hp => hgood r q hr hq (.inl hp)
    refine (h'.quiet fun r q hr hq hp' => ?_).trans first
    rw [h.kept t r q hr hq fun x => apart r q x.2 hp']
    exact hgood r q hr hq (.inr hp')

/-- A write of entry (r, c), whatever happened to that entry before. -/
theorem setLedger {r c : Nat} (hr : r < 64) (hc : c < 32) (h : EntriesMade t g (fun i q => i = r ∧ q = c) b e) :
    EntriesMade t f (fun i q => i = r ∧ q = c) b { e with k := e.k.setLedger t r c (f r c (b.k.ledger t r c)) } where
  frame := by
    obtain ⟨_, _, rfl⟩ := h.frame
    exact ⟨_, _, rfl⟩
  made := by
    rintro _ _ - - ⟨rfl, rfl⟩
    exact (e.k.ledger_setLedger _ hr hc hr hc).trans (if_pos ⟨rfl, rfl, rfl⟩)
  kept t' i q hi hq hout := ((e.k.ledger_setLedger _ hr hc hi hq).trans (if_neg hout)).trans (h.kept t' i q hi hq hout)
  quiet := h.quiet

/-- What changes entry (r, c) for every r and c changes, row by row, the first `n` entries of the first `m` rows. -/
theorem rows {step : Eff → Nat → Nat → Eff} {m n : Nat} (hm : m ≤ 64) (hn : n ≤ 32)
    (hstep : ∀ e r c, r < 64 → c < 32 → EntriesMade t f (fun i q => i = r ∧ q = c) e (step e r c)) (b : Eff) :
    EntriesMade t f (fun r q => r < m ∧ q < n) b
      ((List.range m).foldl (fun e r => (List.range n).foldl (fun e c => step e r c) e) b) := by
  have row : ∀ e r, r < 64 →
      EntriesMade t f (fun i q => i = r ∧ q < n) e ((List.range n).foldl (fun e c => step e r c) e) := by
    intro e r hr
    refine foldl_range_invariant (fun c (x : Eff) => EntriesMade t f (fun i q => i = r ∧ q < c) e x) (refl (by simp) e) ?_
    intro c x hc h
    exact (h.trans (hstep x r c hr (by omega)) (by omega)).congr (by omega) fun _ _ _ _ => rfl
  refine foldl_range_invariant (fun i (x : Eff) => EntriesMade t f (fun r q => r < i ∧ q < n) b x) (refl (by simp) b) ?_
  intro i x hi h
  exact (h.trans (row x i (by omega)) (by omega)).congr (by omega) fun _ _ _ _ => rfl

end EntriesMade

/-- An entry as an add reads it (R61). -/
def ledgerRead (l : Ledger) : Ledger := if l.parityBad then LedgerOps.ofTag .poison else l

theorem entryRead_eq (k : CoreSt) (t r c : Nat) : entryRead k t r c = ledgerRead (k.ledger t r c) := rfl

/-- A read of an entry changes it only for a parity error. -/
theorem readLedger_made {t r c : Nat} (hr : r < 64) (hc : c < 32) (e : Eff) :
    EntriesMade t (fun _ _ => ledgerRead) (fun i q => i = r ∧ q = c) e (e.readLedger t r c).2 := by
  cases bad : (e.k.ledger t r c).parityBad
  case false =>
    have unread : (e.readLedger t r c).2 = e := by simp [Eff.readLedger, bad]
    rw [unread]
    refine ⟨⟨e.k.ledgers, e.occ, rfl⟩, ?_, fun _ _ _ _ _ _ => rfl, fun _ => rfl⟩
    rintro _ _ - - ⟨rfl, rfl⟩
    simp [ledgerRead, bad]
  case true =>
    obtain ⟨led, occ, hread, hled⟩ := readLedger_snd e t r c
    rw [hread]
    refine ⟨⟨led, occ, rfl⟩, ?_, fun t' i q hi hq hout => (hled hr hc t' i q hi hq).trans (if_neg hout), ?_⟩
    · rintro _ _ - - ⟨rfl, rfl⟩
      exact (hled hr hc t _ _ hr hc).trans (if_pos ⟨rfl, rfl, rfl⟩)
    · intro good
      exact absurd (good r c hr hc ⟨rfl, rfl⟩) (by simp [bad])

/-! ### The sums (R41, R46, R58) -/

/-- The term of inner position `j` in entry (r, q). -/
def ArrayOp.term (o : ArrayOp) (st : Store) (r q j : Nat) : Ledger :=
  let x := o.aElem st r j
  let y := o.bElem st j q
  LedgerOps.product x.2 y.2 x.1 y.1

/-- The terms of entry (r, q). -/
def ArrayOp.terms (o : ArrayOp) (st : Store) (r q : Nat) : List Ledger := (List.range o.k).map (o.term st r q)

/-- What a covered entry starts from (R58, R61). -/
def ArrayOp.start (o : ArrayOp) (l : Ledger) : Ledger := if o.acc then ledgerRead l else LedgerOps.zero

/-- What MATMUL makes of the covered entry (r, q); with k = 0 nothing is added, so that a kept entry is not read. -/
def ArrayOp.entry (o : ArrayOp) (st : Store) (r q : Nat) (l : Ledger) : Ledger :=
  if o.k = 0 then (if o.acc then l else LedgerOps.zero) else (o.terms st r q).foldl LedgerOps.combine (o.start l)

/-- The add of terms into entry (r, c). -/
def Eff.addTerms (e : Eff) (o : ArrayOp) (ts : List Ledger) (r c : Nat) : Eff :=
  let (l0, e) := if o.acc then e.readLedger o.tile r c else (LedgerOps.zero, e)
  { e with k := e.k.setLedger o.tile r c (ts.foldl LedgerOps.combine l0) }

theorem addTerms_made (o : ArrayOp) (ts : Nat → Nat → List Ledger) {r c : Nat} (hr : r < 64) (hc : c < 32) (e : Eff) :
    EntriesMade o.tile (fun i q l => (ts i q).foldl LedgerOps.combine (o.start l)) (fun i q => i = r ∧ q = c) e
      (e.addTerms o (ts r c) r c) := by
  cases hacc : o.acc
  case false =>
    have := (EntriesMade.refl (t := o.tile) (p := fun i q => i = r ∧ q = c) (fun _ _ _ _ => rfl) e).setLedger
      (f := fun i q l => (ts i q).foldl LedgerOps.combine (o.start l)) hr hc
    simpa [Eff.addTerms, hacc, ArrayOp.start] using this
  case true =>
    have := (readLedger_made (t := o.tile) hr hc e).setLedger
      (f := fun i q l => (ts i q).foldl LedgerOps.combine (o.start l)) hr hc
    simpa [Eff.addTerms, hacc, ArrayOp.start, readLedger_fst, entryRead_eq] using this

theorem arrayTerms_map (js : List Nat) (x y : Nat → Elem) :
    arrayTerms (js.map x) (js.map y) = js.map (fun j => LedgerOps.product (x j).2 (y j).2 (x j).1 (y j).1) := by
  rw [arrayTerms, List.zip_map', List.map_map]
  rfl

/-! ### The stationary sets hold column c of B, chunk after chunk (R46, R47) -/

theorem kSet_pos (f g : Fmt) : 0 < kSet f g := by
  unfold kSet
  split <;> decide

theorem flatMap_range_blocks (s n : Nat) :
    (List.range n).flatMap (fun q => (List.range s).map (q * s + ·)) = List.range (n * s) := by
  induction n with
  | zero => simp
  | succ n ih => simp [List.range_succ, ih, Nat.succ_mul, List.range_add]

theorem range_filter_lt {k n : Nat} (h : k ≤ n) : (List.range n).filter (· < k) = List.range k := by
  simpa only [List.Ico.zero_bot] using List.Ico.filter_lt_of_ge (n := 0) h

/-- The chunks cover the inner positions once each, in order. -/
theorem ArrayOp.flatMap_chunk (o : ArrayOp) : (List.range o.chunkCount).flatMap o.chunk = List.range o.k := by
  have covered : o.k ≤ o.chunkCount * o.kSet := by
    have pos : 0 < o.kSet := kSet_pos _ _
    have := Nat.lt_div_mul_add (a := o.k + o.kSet - 1) pos
    simp only [ArrayOp.chunkCount]
    omega
  rw [← range_filter_lt covered, ← flatMap_range_blocks, List.filter_flatMap]
  rfl

theorem ArrayOp.loadCol_values (o : ArrayOp) (st : Store) (q c : Nat) :
    (o.loadCol st q c).values (fmtOf o.fb) = (o.chunk q).map (fun j => o.bElem st j c) := by
  rw [ArrayOp.loadCol, SetCol.values, List.zip_map', List.map_map]
  rfl

/-- The rows of A as they are broadcast. -/
def ArrayOp.broadcast (o : ArrayOp) (st : Store) : List (List Elem) :=
  (List.range o.m).map (fun r => (List.range o.k).map (fun j => o.aElem st r j))

/-- The columns of B as the stationary sets hold them. -/
def ArrayOp.loaded (o : ArrayOp) (st : Store) : List (List Elem) :=
  (List.range o.n).map (fun c => (List.range o.chunkCount).flatMap (fun q => (o.loadCol st q c).values (fmtOf o.fb)))

theorem ArrayOp.loaded_eq (o : ArrayOp) (st : Store) :
    o.loaded st = (List.range o.n).map (fun c => (List.range o.k).map (fun j => o.bElem st j c)) := by
  simp only [ArrayOp.loaded, ArrayOp.loadCol_values, ← List.map_flatMap, ArrayOp.flatMap_chunk]

/-- A row of the array adds the terms of its entries one entry after another. -/
theorem matmulRow_eq (e : Eff) (o : ArrayOp) (st : Store) (r : Nat) :
    e.matmulRow o ((List.range o.k).map (fun j => o.aElem st r j)) (o.loaded st) r =
      (List.range o.n).foldl (fun e c => e.addTerms o (o.terms st r c) r c) e := by
  have zipped : (rowTerms ((List.range o.k).map (fun j => o.aElem st r j)) (o.loaded st)).zip (List.range o.n) =
      (List.range o.n).map (fun c => (o.terms st r c, c)) := by
    rw [rowTerms, ArrayOp.loaded_eq, List.map_map]
    simp only [Function.comp_def, arrayTerms_map]
    exact (congrArg _ (List.map_id' _).symm).trans List.zip_map'
  rw [Eff.matmulRow, zipped, List.foldl_map]
  rfl

/-- The rows added in turn. -/
def Eff.addRows (e : Eff) (o : ArrayOp) (st : Store) : Eff :=
  ((o.broadcast st).zip (List.range o.m)).foldl (fun e x => e.matmulRow o x.1 (o.loaded st) x.2) e

theorem addRows_made {o : ArrayOp} (hm : o.m ≤ 64) (hn : o.n ≤ 32) (st : Store) (e : Eff) :
    EntriesMade o.tile (fun r q l => (o.terms st r q).foldl LedgerOps.combine (o.start l)) (fun r q => r < o.m ∧ q < o.n) e
      (e.addRows o st) := by
  have zipped : (o.broadcast st).zip (List.range o.m) =
      (List.range o.m).map (fun r => ((List.range o.k).map (fun j => o.aElem st r j), r)) :=
    (congrArg _ (List.map_id' _).symm).trans List.zip_map'
  rw [Eff.addRows, zipped, List.foldl_map]
  simp only [matmulRow_eq]
  exact EntriesMade.rows hm hn (fun e r c hr hc => addTerms_made o (o.terms st) hr hc e) e

/-- The covered entries set to zero (R46). -/
def Eff.zeroEntries (e : Eff) (o : ArrayOp) : Eff :=
  { e with k := (List.range o.m).foldl (fun k r =>
      (List.range o.n).foldl (fun k c => k.setLedger o.tile r c LedgerOps.zero) k) e.k }

/-- The core's step with another core. -/
def Eff.withCore (e : Eff) (k : CoreSt) : Eff := { e with k := k }

/-- Entry (r, c) set to zero. -/
def Eff.zeroEntry (e : Eff) (o : ArrayOp) (r c : Nat) : Eff := e.withCore (e.k.setLedger o.tile r c LedgerOps.zero)

theorem zeroEntries_eq (e : Eff) (o : ArrayOp) :
    e.zeroEntries o = (List.range o.m).foldl (fun e r => (List.range o.n).foldl (fun e c => e.zeroEntry o r c) e) e :=
  (List.foldl_hom e.withCore fun k r => List.foldl_hom (init := k) e.withCore
    (g₁ := fun k c => k.setLedger o.tile r c LedgerOps.zero) (g₂ := fun e c => e.zeroEntry o r c) fun _ _ => rfl).symm

theorem zeroEntries_made {o : ArrayOp} (hm : o.m ≤ 64) (hn : o.n ≤ 32) (e : Eff) :
    EntriesMade o.tile (fun _ _ _ => LedgerOps.zero) (fun r q => r < o.m ∧ q < o.n) e (e.zeroEntries o) := by
  rw [zeroEntries_eq]
  refine EntriesMade.rows hm hn (fun e r c hr hc => ?_) e
  exact (EntriesMade.refl (fun _ _ _ _ => rfl) e).setLedger (f := fun _ _ _ => LedgerOps.zero) hr hc

/-! ### What the reads of the operands leave (R70, R72) -/

/-- A core's step after reads of the local store by the array: the store's checks, the array's parts and the counters have
changed, no byte has; no feeder's cache has grown beyond eight lines. -/
structure ArrayRead (b e : Eff) : Prop where
  frame : ∃ st p g, e = { b with k := { b.k with ls := st, pipe := p, gauger := g } }
  data : e.k.ls.data = b.k.ls.data
  sound : b.k.ls.single = [] → b.k.ls.double = [] → e.k.ls = b.k.ls
  lines : (∀ f, (b.k.pipe.feeders.get [] f).length ≤ 8) → ∀ f, (e.k.pipe.feeders.get [] f).length ≤ 8

namespace ArrayRead

theorem refl (e : Eff) : ArrayRead e e := ⟨⟨_, _, _, rfl⟩, rfl, fun _ _ => rfl, id⟩

theorem trans {a b c : Eff} (h : ArrayRead a b) (h' : ArrayRead b c) : ArrayRead a c where
  frame := by
    obtain ⟨_, _, _, hb⟩ := h.frame
    obtain ⟨_, _, _, hc⟩ := h'.frame
    exact ⟨_, _, _, by rw [hc, hb]⟩
  data := h'.data.trans h.data
  sound hsingle hdouble := by
    have same := h.sound hsingle hdouble
    exact (h'.sound (same ▸ hsingle) (same ▸ hdouble)).trans same
  lines := h'.lines ∘ h.lines

theorem ledger {b e : Eff} (h : ArrayRead b e) (t r c : Nat) : e.k.ledger t r c = b.k.ledger t r c := by
  obtain ⟨_, _, _, rfl⟩ := h.frame
  rfl

theorem occ {b e : Eff} (h : ArrayRead b e) : e.occ = b.occ := by
  obtain ⟨_, _, _, rfl⟩ := h.frame
  rfl

/-- Reads in turn, over any list. -/
theorem foldl {α : Type} {step : Eff → α → Eff} (h : ∀ e x, ArrayRead e (step e x)) (l : List α) (e : Eff) :
    ArrayRead e (l.foldl step e) :=
  List.foldlRecOn l step (refl e) fun x hx a _ => hx.trans (h x a)

/-- The array's parts replaced, the feeders' lines kept. -/
theorem ofPipe (e : Eff) {p : ArrayPipe} (h : p.feeders = e.k.pipe.feeders) :
    ArrayRead e { e with k := { e.k with pipe := p } } :=
  ⟨⟨_, _, _, rfl⟩, rfl, fun _ _ => rfl, fun small f => (congrArg (fun t => (Tab.get [] t f).length) h).trans_le (small f)⟩

end ArrayRead

theorem count_arrayRead (e : Eff) (ev n : Nat) : ArrayRead e (e.count ev n) := ⟨⟨_, _, _, rfl⟩, rfl, fun _ _ => rfl, id⟩

theorem touchLs_arrayRead (e : Eff) (a n : Nat) : ArrayRead e (e.touchLs a n) :=
  ⟨⟨_, _, _, rfl⟩, store_afterRead_data _ _ _,
    fun hsingle hdouble => congrArg Prod.fst (if_pos ⟨hsingle, hdouble⟩), id⟩

theorem touchLines_arrayRead (e : Eff) (ls : List Nat) : ArrayRead e (e.touchLines ls) :=
  ArrayRead.foldl (fun e l => touchLs_arrayRead e (64 * l) 64) ls e

/-- A feeder's lines replaced by at most eight. -/
theorem putLines_arrayRead (e : Eff) (f : Nat) {ls : List FeederLine} (h : ls.length ≤ 8) :
    ArrayRead e { e with k := { e.k with pipe := { e.k.pipe with feeders := e.k.pipe.feeders.set f ls } } } := by
  refine ⟨⟨_, _, _, rfl⟩, rfl, fun _ _ => rfl, fun small g => ?_⟩
  dsimp only
  rw [Tab.get_set]
  split
  · exact h
  · exact small g

theorem feed_arrayRead (e : Eff) (f line : Nat) : ArrayRead e (e.feed f line) := by
  have put := fun (e' : Eff) => putLines_arrayRead e' f
    (List.length_take_le 8 (⟨line, false⟩ :: (e.k.pipe.feeders.get [] f).filter (fun x => x.line ≠ line)))
  have touched := touchLs_arrayRead e (64 * line) 64
  unfold Eff.feed
  dsimp only
  split
  · split
    · exact ((touched.trans (put _)).trans (count_arrayRead _ _ _)).trans (count_arrayRead _ _ _)
    · exact (put e).trans (count_arrayRead _ _ _)
  · exact (touched.trans (put _)).trans (count_arrayRead _ _ _)

theorem feedChunk_arrayRead (e : Eff) (o : ArrayOp) (q : Nat) : ArrayRead e (e.feedChunk o q) :=
  ArrayRead.foldl (fun e r => ArrayRead.foldl (fun e l => feed_arrayRead e (r % 8) l) (o.aLines q r) e) (List.range o.m) e

/-! ### MATMUL -/

/-- The micro-op accepted: its formats are the last ones seen, and the bubble where they differ joins the array's cycles to come
(R52). -/
def Eff.accept (e : Eff) (o : ArrayOp) : Eff :=
  let bubble := match e.k.prevFmts with | some p => if p ≠ (o.fa, o.fb) then 2 else 0 | none => 0
  { e with k := { e.k with
    prevFmts := some (o.fa, o.fb), pipe := { e.k.pipe with plan := e.k.pipe.plan ++ runsOf 0x012 bubble } } }

/-- The side loader's and the feeders' reads, chunk after chunk. -/
def Eff.readOperands (e : Eff) (o : ArrayOp) : Eff :=
  (List.range o.chunkCount).foldl (fun e q => (e.touchLines (linesAt (o.bBytes q))).feedChunk o q) e

/-- The core with other parts of the array. -/
def Eff.withPipe (e : Eff) (p : ArrayPipe) : Eff := { e with k := { e.k with pipe := p } }

theorem matmul_of_idle {o : ArrayOp} (h : o.works = false) (e : Eff) (uid gap : Nat) :
    e.matmul uid gap o = if o.acc then e.accept o else (e.accept o).zeroEntries o :=
  if_pos (by simp [h])

theorem matmul_of_works {o : ArrayOp} (h : o.works = true) (e : Eff) (uid gap : Nat) :
    ∃ p, p.feeders = ((e.accept o).readOperands o).k.pipe.feeders ∧
      e.matmul uid gap o = (((e.accept o).readOperands o).withPipe p).addRows o ((e.accept o).readOperands o).k.ls := by
  refine ⟨_, ?feeders, if_neg (by simp [h])⟩
  case feeders => rfl

theorem readOperands_arrayRead (e : Eff) (o : ArrayOp) : ArrayRead e (e.readOperands o) :=
  ArrayRead.foldl (fun e q => (touchLines_arrayRead e (linesAt (o.bBytes q))).trans (feedChunk_arrayRead _ o q)) _ e

/-- The array's formats taken from a micro-op (R52). -/
def Eff.withFmts (e : Eff) (o : ArrayOp) : Eff := { e with k := { e.k with prevFmts := some (o.fa, o.fb) } }

theorem accept_arrayRead (e : Eff) (o : ArrayOp) : ArrayRead (e.withFmts o) (e.accept o) := ArrayRead.ofPipe (e.withFmts o) rfl

/-- MATMUL reads its operands, if it has any, and then changes its entries. -/
theorem matmul_eq (e : Eff) (uid gap : Nat) (o : ArrayOp) :
    ∃ x, ArrayRead (e.withFmts o) x ∧
      e.matmul uid gap o = if o.works then x.addRows o x.k.ls else if o.acc then x else x.zeroEntries o := by
  have accepted := accept_arrayRead e o
  cases works : o.works
  case false => exact ⟨_, accepted, matmul_of_idle works e uid gap⟩
  case true =>
    obtain ⟨p, hp, heq⟩ := matmul_of_works works e uid gap
    exact ⟨_, (accepted.trans (readOperands_arrayRead _ o)).trans (ArrayRead.ofPipe _ hp), heq⟩

theorem ArrayOp.works_iff (o : ArrayOp) : o.works = true ↔ o.m ≠ 0 ∧ o.n ≠ 0 ∧ o.k ≠ 0 := by
  simp [ArrayOp.works, and_assoc]

/-- MATMUL reads its operands and makes each covered entry its sum. -/
theorem matmul_made {o : ArrayOp} (hm : o.m ≤ 64) (hn : o.n ≤ 32) (e : Eff) (uid gap : Nat) :
    ∃ x, ArrayRead (e.withFmts o) x ∧
      EntriesMade o.tile (o.entry x.k.ls) (fun r q => r < o.m ∧ q < o.n) x (e.matmul uid gap o) := by
  obtain ⟨x, hx, heq⟩ := matmul_eq e uid gap o
  refine ⟨x, hx, ?_⟩
  rw [heq]
  split
  · next works =>
    obtain ⟨-, -, hk⟩ := o.works_iff.1 works
    exact (addRows_made hm hn x.k.ls x).congr (fun _ _ => Iff.rfl) fun r q l _ => by rw [ArrayOp.entry, if_neg hk]
  · next idle =>
    have kZero : ∀ r q, r < o.m ∧ q < o.n → o.k = 0 := by
      rintro r q ⟨hr, hq⟩
      by_contra hk
      exact idle (o.works_iff.2 ⟨by omega, by omega, hk⟩)
    have idleEntry : ∀ r q l, r < o.m ∧ q < o.n → o.entry x.k.ls r q l = if o.acc then l else LedgerOps.zero :=
      fun r q l h => if_pos (kZero r q h)
    split
    · next acc => exact EntriesMade.refl (fun r q l h => (idleEntry r q l h).trans (if_pos acc)) x
    · next noAcc =>
      exact (zeroEntries_made hm hn x).congr (fun _ _ => Iff.rfl) fun r q l h => ((idleEntry r q l h).trans (if_neg noAcc)).symm

/-- Settles O28: the operands are read before the first entry changes, the stationary sets hold the columns of B chunk after
chunk, and every entry is changed once, so that it starts from what it held when the micro-op began. -/
theorem matrixMultiply : Obligations.MatrixMultiply := by
  rintro s c gap o a b hheads hcode rfl rfl hm hn
  obtain ⟨x, hx, h⟩ := matmul_made hm hn (begunBy s c gap o) o.uid gap
  have hledger : ∀ t r q, x.k.ledger t r q = (begunBy s c gap o).k.ledger t r q := hx.ledger
  refine ⟨_, congrArg Host.Outcome.next (onCore_atHead hheads (fun o => opField o.word .array = 1) (decide_eq_true hcode) _),
    ?id, ?frame, ?data, ?sound, ?kept, ?quiet, ?lines, ?sums⟩
  case id | frame =>
    obtain ⟨_, _, _, rfl⟩ := hx.frame
    obtain ⟨_, _, hend⟩ := h.frame
    rw [hend]
    rfl
  case data => exact h.ls ▸ hx.data
  case sound => exact h.ls ▸ hx.sound
  case kept => exact fun t r q hr hq hout => (h.kept t r q hr hq hout).trans (hledger t r q)
  case quiet =>
    intro good
    exact (h.quiet fun r q _ _ _ => (congrArg _ (hledger _ r q)).trans (good r q)).trans hx.occ
  case lines => exact h.pipe ▸ hx.lines
  case sums =>
    intro r q hr hq
    rw [h.made r q (by omega) (by omega) ⟨hr, hq⟩, hledger, h.ls]
    rfl

end Sys2Proof.Machine
end

section
/-! Every command keeps the queue, the canonical form of every byte memory, and the locked access tables (R71, R254, R261, R266, R448); so
does a step. The memories and the cores after a cold reset (R428). -/

namespace Sys2Proof.Machine

variable {lk : Bool} {z0 : Held} {i : Instr} {s : State}

/-- A command that clears the lock is only held to leave the queue and the memories. -/
theorem unlocked_of_clearsLock (hlk : lk = true → clearsLock i = false) (hi : clearsLock i = true) : lk = false := by
  rw [Bool.eq_false_iff]
  intro h
  exact Bool.false_ne_true ((hlk h).symm.trans hi)

theorem exec_keeps (hlk : lk = true → clearsLock i = false) (h : Keeps lk z0 s.held) : OutKeeps lk z0 (exec i s) := by
  cases i with
  | powerOn =>
    obtain rfl := unlocked_of_clearsLock hlk rfl
    exact execPowerOn_keeps h
  | perstNAssert ns =>
    obtain rfl := unlocked_of_clearsLock hlk rfl
    exact execPerstNAssert_keeps h ns
  | cxlReset =>
    obtain rfl := unlocked_of_clearsLock hlk rfl
    exact execCxlReset_keeps h
  | startUp tests => exact execStartUp_keeps h tests
  | powerLoss =>
    obtain rfl := unlocked_of_clearsLock hlk rfl
    exact execPowerLoss_keeps h
  | cxlLinkDown hot => exact execCxlLinkDown_keeps h hot
  | cxlLinkUp => exact execCxlLinkUp_keeps h
  | refclkLoss => exact execRefclkLoss_keeps h
  | thermalTrip sensor reading => exact execThermalTrip_keeps h sensor reading
  | brake current => exact execBrake_keeps h current
  | fwWatchdogExpiry service => exact execFwWatchdogExpiry_keeps h service
  | plannerWindow m => exact execPlannerWindow_keeps h m
  | idleEntry => exact execIdleEntry_keeps h
  | wake => exact execWake_keeps h
  | energyRecord c => exact execEnergyRecord_keeps h c
  | sqTail q v => exact execSqTail_keeps h q v
  | cqHead q v => exact execCqHead_keeps h q v
  | sqEntryFetch q => exact execSqEntryFetch_keeps h q
  | nop => exact execNop_keeps h
  | tallyLoad => exact execTallyLoad_keeps h
  | threadStart => exact execThreadStart_keeps h
  | mailboxWrite => exact execMailboxWrite_keeps h
  | coreRecover => exact execCoreRecover_keeps h
  | place => exact execPlace_keeps h
  | placeRead => exact execPlaceRead_keeps h
  | snapshot => exact execSnapshot_keeps h
  | snapshotCancel => exact execSnapshotCancel_keeps h
  | restore => exact execRestore_keeps h
  | zeroise hottest lost =>
    obtain rfl := unlocked_of_clearsLock hlk rfl
    exact execZeroise_keeps h hottest lost
  | setPowerCap => exact execSetPowerCap_keeps h
  | setWakeLatency => exact execSetWakeLatency_keeps h
  | cqCompletionWrite q => exact execCqCompletionWrite_keeps h q
  | cqIntDelayExpiry q => exact execCqIntDelayExpiry_keeps h q
  | msixVectorUnmask v => exact execMsixVectorUnmask_keeps h v
  | sqEnable q v => exact execSqEnable_keeps h q v
  | sqDisable q => exact execSqDisable_keeps h q
  | cqEnable q v => exact execCqEnable_keeps h q v
  | cqDisable q => exact execCqDisable_keeps h q
  | evqEnable v => exact execEvqEnable_keeps h v
  | evqDisable => exact execEvqDisable_keeps h
  | evPendingClear w v => exact execEvPendingClear_keeps h w v
  | eventOccurrence => exact execEventOccurrence_keeps h
  | hdmWindowRead x cached => exact execHdmWindowRead_keeps h x cached
  | hdmWindowWrite x mask data mark => exact execHdmWindowWrite_keeps h x mask data mark
  | statusMirrorRead x => exact execStatusMirrorRead_keeps h x
  | hostSnoop => exact execHostSnoop_keeps h
  | birsp key wb => exact execBirsp_keeps h key wb
  | ideCheckFail io mem => exact execIdeCheckFail_keeps h io mem
  | spdmRequest req => exact execSpdmRequest_keeps h req
  | pldmFirmwareUpdate slotB image => exact execPldmFirmwareUpdate_keeps h slotB image
  | i3cEntdaa addr => exact execI3cEntdaa_keeps h addr
  | secSvnCommit => exact execSecSvnCommit_keeps h
  | svnFuseBurnDone => exact execSvnFuseBurnDone_keeps h
  | secLockWrite v => exact execSecLockWrite_keeps h v
  | queueModeWrite c v => exact execQueueModeWrite_keeps h c v
  | queueModeSwitch c => exact execQueueModeSwitch_keeps h c
  | gauSelWrite c j v => exact execGauSelWrite_keeps h c j v
  | unitCounterClear u j => exact execUnitCounterClear_keeps h u j
  | gauBwPeakRead u j => exact execGauBwPeakRead_keeps h u j
  | bwWindowEnd u => exact execBwWindowEnd_keeps h u
  | registerWrite a wide v => exact execRegisterWrite_keeps h a wide v
  | linkEnable l => exact execLinkEnable_keeps h l
  | linkDisable l => exact execLinkDisable_keeps h l
  | linkFlitReceive l gap flit corrected lost touched => exact execLinkFlitReceive_keeps h l gap flit corrected lost touched
  | linkFlitTransmit l gap => exact execLinkFlitTransmit_keeps h l gap
  | linkRetrainDone l gap => exact execLinkRetrainDone_keeps h l gap
  | linkStandbyExit l gap far => exact execLinkStandbyExit_keeps h l gap far
  | linkResponseTimeout l gap => exact execLinkResponseTimeout_keeps h l gap
  | tagIssue engine n => exact execTagIssue_keeps h engine n
  | placementWalk half => exact execPlacementWalk_keeps h half
  | blockHopReceive x u port leaving flips behind => exact execBlockHopReceive_keeps h x u port leaving flips behind
  | shaleAccess x => exact execShaleAccess_keeps h x
  | bedrockRead x corrected => exact execBedrockRead_keeps h x corrected
  | bedrockWrite x corrected => exact execBedrockWrite_keeps h x corrected
  | bedrockRefresh k rate => exact execBedrockRefresh_keeps h k rate
  | fabricReadData x => exact execFabricReadData_keeps h x
  | writeAck x => exact execWriteAck_keeps h x
  | mcastReserve b => exact execMcastReserve_keeps h b
  | mcastGrant b => exact execMcastGrant_keeps h b
  | reduceSlotAdd g => exact execReduceSlotAdd_keeps h g
  | rowBufferComplete g set off => exact execRowBufferComplete_keeps h g set off
  | arrival x => exact execArrival_keeps h x
  | windowIdle c j gap => exact execWindowIdle_keeps h c j gap
  | draymanDescriptorStart g => exact execDraymanDescriptorStart_keeps h g
  | draymanToken g => exact execDraymanToken_keeps h g
  | invocationBoundary c => exact execInvocationBoundary_keeps h c
  | loomSplitWord c => exact execLoomSplitWord_keeps h c
  | loomIssueInstance c gap => exact execLoomIssueInstance_keeps h c gap
  | marker c e gap => exact execMarker_keeps h c e gap
  | microopComplete c e gap => exact execMicroopComplete_keeps h c e gap
  | stalemateFreeze c gap => exact execStalemateFreeze_keeps h c gap
  | matmul c gap => exact execMatmul_keeps h c gap
  | round c gap => exact execRound_keeps h c gap
  | exportImage c gap => exact execExportImage_keeps h c gap
  | merge c gap => exact execMerge_keeps h c gap
  | tilecfg c gap => exact execTilecfg_keeps h c gap
  | moveIn c gap => exact execMoveIn_keeps h c gap
  | moveOut c gap => exact execMoveOut_keeps h c gap
  | convert c gap => exact execConvert_keeps h c gap
  | transpose c gap => exact execTranspose_keeps h c gap
  | vecAdd c gap => exact execVecAdd_keeps h c gap
  | vecSub c gap => exact execVecSub_keeps h c gap
  | vecMul c gap => exact execVecMul_keeps h c gap
  | vecFma c gap => exact execVecFma_keeps h c gap
  | vecMin c gap => exact execVecMin_keeps h c gap
  | vecMax c gap => exact execVecMax_keeps h c gap
  | vecAbs c gap => exact execVecAbs_keeps h c gap
  | vecNeg c gap => exact execVecNeg_keeps h c gap
  | vecExp c gap => exact execVecExp_keeps h c gap
  | vecExp2 c gap => exact execVecExp2_keeps h c gap
  | vecLog2 c gap => exact execVecLog2_keeps h c gap
  | vecRecip c gap => exact execVecRecip_keeps h c gap
  | vecRsqrt c gap => exact execVecRsqrt_keeps h c gap
  | vecTanh c gap => exact execVecTanh_keeps h c gap
  | vecSigmoid c gap => exact execVecSigmoid_keeps h c gap
  | vecSin c gap => exact execVecSin_keeps h c gap
  | vecCos c gap => exact execVecCos_keeps h c gap
  | rclear c gap => exact execRclear_keeps h c gap
  | rsum c gap => exact execRsum_keeps h c gap
  | rsumsq c gap => exact execRsumsq_keeps h c gap
  | rmax c gap => exact execRmax_keeps h c gap
  | rout c gap => exact execRout_keeps h c gap
  | rsetref c gap => exact execRsetref_keeps h c gap
  | smxExp c gap => exact execSmxExp_keeps h c gap
  | rsave c gap => exact execRsave_keeps h c gap
  | rload c gap => exact execRload_keeps h c gap
  | rmerge c gap => exact execRmerge_keeps h c gap
  | statsFlush c gap => exact execStatsFlush_keeps h c gap
  | rdot c gap => exact execRdot_keeps h c gap
  | smxGrad c gap => exact execSmxGrad_keeps h c gap
  | normGrad c gap => exact execNormGrad_keeps h c gap
  | assay c gap => exact execAssay_keeps h c gap
  | assaySet c gap => exact execAssaySet_keeps h c gap
  | updSgd c gap => exact execUpdSgd_keeps h c gap
  | updMomentum c gap => exact execUpdMomentum_keeps h c gap
  | updAdam c gap => exact execUpdAdam_keeps h c gap
  | rngSeed c gap => exact execRngSeed_keeps h c gap
  | rngSave c gap => exact execRngSave_keeps h c gap
  | rngLoad c gap => exact execRngLoad_keeps h c gap
  | spikeCheck c gap => exact execSpikeCheck_keeps h c gap
  | streamIn c gap => exact execStreamIn_keeps h c gap
  | postWindow c gap => exact execPostWindow_keeps h c gap
  | fence c gap => exact execFence_keeps h c gap
  | streamOut c gap => exact execStreamOut_keeps h c gap
  | prefetch c gap => exact execPrefetch_keeps h c gap
  | add c t gap rd rs1 rs2 => exact execAdd_keeps h c t gap rd rs1 rs2
  | sub c t gap rd rs1 rs2 => exact execSub_keeps h c t gap rd rs1 rs2
  | and c t gap rd rs1 rs2 => exact execAnd_keeps h c t gap rd rs1 rs2
  | or c t gap rd rs1 rs2 => exact execOr_keeps h c t gap rd rs1 rs2
  | xor c t gap rd rs1 rs2 => exact execXor_keeps h c t gap rd rs1 rs2
  | sll c t gap rd rs1 rs2 => exact execSll_keeps h c t gap rd rs1 rs2
  | srl c t gap rd rs1 rs2 => exact execSrl_keeps h c t gap rd rs1 rs2
  | sra c t gap rd rs1 rs2 => exact execSra_keeps h c t gap rd rs1 rs2
  | slt c t gap rd rs1 rs2 => exact execSlt_keeps h c t gap rd rs1 rs2
  | sltu c t gap rd rs1 rs2 => exact execSltu_keeps h c t gap rd rs1 rs2
  | mul c t gap rd rs1 rs2 => exact execMul_keeps h c t gap rd rs1 rs2
  | mulhu c t gap rd rs1 rs2 => exact execMulhu_keeps h c t gap rd rs1 rs2
  | min c t gap rd rs1 rs2 => exact execMin_keeps h c t gap rd rs1 rs2
  | max c t gap rd rs1 rs2 => exact execMax_keeps h c t gap rd rs1 rs2
  | amoadd c t gap rd rs1 rs2 => exact execAmoadd_keeps h c t gap rd rs1 rs2
  | jr c t gap rd rs1 rs2 => exact execJr_keeps h c t gap rd rs1 rs2
  | jalr c t gap rd rs1 rs2 => exact execJalr_keeps h c t gap rd rs1 rs2
  | slwx c t gap rd rs1 rs2 => exact execSlwx_keeps h c t gap rd rs1 rs2
  | evclr c t gap rd rs1 rs2 => exact execEvclr_keeps h c t gap rd rs1 rs2
  | tstart c t gap rd rs1 rs2 => exact execTstart_keeps h c t gap rd rs1 rs2
  | tallyFence c t gap rd rs1 rs2 => exact execTallyFence_keeps h c t gap rd rs1 rs2
  | ffence c t gap rd rs1 rs2 => exact execFfence_keeps h c t gap rd rs1 rs2
  | yield c t gap rd rs1 rs2 => exact execYield_keeps h c t gap rd rs1 rs2
  | halt c t gap rd rs1 rs2 => exact execHalt_keeps h c t gap rd rs1 rs2
  | eret c t gap rd rs1 rs2 => exact execEret_keeps h c t gap rd rs1 rs2
  | addi c t gap rd rs1 v => exact execAddi_keeps h c t gap rd rs1 v
  | andi c t gap rd rs1 v => exact execAndi_keeps h c t gap rd rs1 v
  | ori c t gap rd rs1 v => exact execOri_keeps h c t gap rd rs1 v
  | xori c t gap rd rs1 v => exact execXori_keeps h c t gap rd rs1 v
  | slli c t gap rd rs1 v => exact execSlli_keeps h c t gap rd rs1 v
  | srli c t gap rd rs1 v => exact execSrli_keeps h c t gap rd rs1 v
  | srai c t gap rd rs1 v => exact execSrai_keeps h c t gap rd rs1 v
  | slti c t gap rd rs1 v => exact execSlti_keeps h c t gap rd rs1 v
  | sltiu c t gap rd rs1 v => exact execSltiu_keeps h c t gap rd rs1 v
  | movz c t gap rd q v => exact execMovz_keeps h c t gap rd q v
  | movk c t gap rd q v => exact execMovk_keeps h c t gap rd q v
  | ld c t gap rd rs1 v => exact execLd_keeps h c t gap rd rs1 v
  | lw c t gap rd rs1 v => exact execLw_keeps h c t gap rd rs1 v
  | lws c t gap rd rs1 v => exact execLws_keeps h c t gap rd rs1 v
  | lh c t gap rd rs1 v => exact execLh_keeps h c t gap rd rs1 v
  | lb c t gap rd rs1 v => exact execLb_keeps h c t gap rd rs1 v
  | sd c t gap rs2 rs1 v => exact execSd_keeps h c t gap rs2 rs1 v
  | sw c t gap rs2 rs1 v => exact execSw_keeps h c t gap rs2 rs1 v
  | sh c t gap rs2 rs1 v => exact execSh_keeps h c t gap rs2 rs1 v
  | sb c t gap rs2 rs1 v => exact execSb_keeps h c t gap rs2 rs1 v
  | beq c t gap rs1 rs2 off => exact execBeq_keeps h c t gap rs1 rs2 off
  | bne c t gap rs1 rs2 off => exact execBne_keeps h c t gap rs1 rs2 off
  | blt c t gap rs1 rs2 off => exact execBlt_keeps h c t gap rs1 rs2 off
  | bge c t gap rs1 rs2 off => exact execBge_keeps h c t gap rs1 rs2 off
  | bltu c t gap rs1 rs2 off => exact execBltu_keeps h c t gap rs1 rs2 off
  | bgeu c t gap rs1 rs2 off => exact execBgeu_keeps h c t gap rs1 rs2 off
  | j c t gap off => exact execJ_keeps h c t gap off
  | jal c t gap off => exact execJal_keeps h c t gap off
  | rds c t gap rd rs1 v => exact execRds_keeps h c t gap rd rs1 v
  | wrs c t gap rd rs1 v => exact execWrs_keeps h c t gap rd rs1 v
  | slw c t gap rd rs1 v => exact execSlw_keeps h c t gap rd rs1 v
  | slr c t gap rd rs1 v => exact execSlr_keeps h c t gap rd rs1 v
  | nrd c t gap rd rs1 v => exact execNrd_keeps h c t gap rd rs1 v
  | nwait c t gap rd rs1 v => exact execNwait_keeps h c t gap rd rs1 v
  | nbump c t gap rd rs1 v => exact execNbump_keeps h c t gap rd rs1 v
  | launch c t gap rd rs1 v => exact execLaunch_keeps h c t gap rd rs1 v
  | evwait c t gap rd rs1 v => exact execEvwait_keeps h c t gap rd rs1 v
  | threadWake c t gap => exact execThreadWake_keeps h c t gap
  | farReadResponse c t => exact execFarReadResponse_keeps h c t
  | farWriteAck c t => exact execFarWriteAck_keeps h c t
  | sampleRecordWrite c => exact execSampleRecordWrite_keeps h c
  | dumpLatch c gap => exact execDumpLatch_keeps h c gap
  | planStart c dva lay => exact execPlanStart_keeps h c dva lay
  | contributionSend c slot owner => exact execContributionSend_keeps h c slot owner
  | tokenReceive owner slot role relayed => exact execTokenReceive_keeps h owner slot role relayed
  | slotLate c slot => exact execSlotLate_keeps h c slot
  | recompute c slot owner => exact execRecompute_keeps h c slot owner
  | voteSend => exact execVoteSend_keeps h
  | voteReceive stage slot => exact execVoteReceive_keeps h stage slot
  | heldStepDecision => exact execHeldStepDecision_keeps h
  | paramReceive slot owner => exact execParamReceive_keeps h slot owner
  | permute start => exact execPermute_keeps h start
  | contextCapture c => exact execContextCapture_keeps h c
  | captureTimeout => exact execCaptureTimeout_keeps h
  | snapshotFreeze => exact execSnapshotFreeze_keeps h
  | snapshotPageSend => exact execSnapshotPageSend_keeps h
  | copyOnWrite page => exact execCopyOnWrite_keeps h page
  | manifestWrite => exact execManifestWrite_keeps h
  | restorePageLoad => exact execRestorePageLoad_keeps h
  | contextRestore c => exact execContextRestore_keeps h c
  | illegal c t gap => exact execIllegal_keeps h c t gap
  | imemEcc c t gap => exact execImemEcc_keeps h c t gap
  | linkTrainingDone l gap => exact execLinkTrainingDone_keeps h l gap
  | fibreUnmated l gap => exact execFibreUnmated_keeps h l gap

/-- Settles O5: a step is a command's meaning on the rest of the queue, or the module idles. -/
theorem memoriesStayCanonical : Obligations.MemoriesStayCanonical := by
  intro s t hwf hstep
  rw [← State.held_wf] at hwf ⊢
  unfold step at hstep
  split at hstep
  · obtain rfl := Host.Outcome.next.inj hstep
    exact (State.idle_keeps (lk := false) (Keeps.refl s.held)).wf hwf
  · next i rest _ =>
    have hwf : ({ s with pending := rest } : State).held.wf := hwf
    exact (exec_keeps (lk := false) (fun h => nomatch h) (Keeps.refl _) t hstep).wf hwf

/-- Settles O4: a module after reset lists no byte anywhere. -/
theorem memoriesCanonicalAtReset : Obligations.MemoriesCanonicalAtReset :=
  (State.held_wf .reset).1 ⟨rfl, rfl, rfl, rfl, fun _ h => nomatch h⟩

theorem reg_of_no_regs (r : Nat) : ({} : Thread).reg r = 0 := by
  unfold Thread.reg
  split <;> rfl

/-- Settles O12: after reset every core is the one that lists nothing. -/
theorem resetCores : Obligations.ResetCores := by
  intro c t r a n
  exact ⟨rfl, reg_of_no_regs r, rfl, rfl, rfl, rfl, rfl, rfl, rfl, rfl, rfl, rfl, rfl, fun _ => ⟨rfl, rfl⟩, rfl, rfl, rfl, rfl,
    rfl, rfl, rfl, rfl, rfl, rfl, rfl⟩

end Sys2Proof.Machine
end

section
/-! What the passing of cycles and the counting of events change on a core (R64, R461), and the issue of an instruction by a thread
(R127, R130, R138): every command of a core goes through these. -/

namespace Sys2Proof.Machine

/-! ### The passing of cycles -/

/-- The core with the fields that the passing of cycles changes taken from `y`. -/
def CoreSt.withAside (k y : CoreSt) : CoreSt :=
  { k with
    calm := y.calm, note := y.note,
    pipe := { k.pipe with sets := y.pipe.sets, loaderFree := y.pipe.loaderFree, plan := y.pipe.plan },
    gauger := { k.gauger with
      counters := y.gauger.counters, accounts := y.gauger.accounts, unclaimed := y.gauger.unclaimed,
      charged := y.gauger.charged, fresh := y.gauger.fresh, winDynamic := y.gauger.winDynamic,
      winOther := y.gauger.winOther } }

end Sys2Proof.Machine

namespace Sys2Proof

open Machine

theorem aside_iff {x y : CoreSt} : Aside x y ↔ ∃ z, y = x.withAside z := by
  constructor
  · exact fun h => ⟨y, h⟩
  · rintro ⟨z, rfl⟩
    rfl

theorem Aside.refl (k : CoreSt) : Aside k k := rfl

theorem Aside.trans {x y z : CoreSt} (h : Aside x y) (h' : Aside y z) : Aside x z := by
  obtain ⟨u, rfl⟩ := aside_iff.1 h
  obtain ⟨v, rfl⟩ := aside_iff.1 h'
  rfl

/-- What the passing of cycles does not change reads as before. -/
theorem Aside.read {x y : CoreSt} {β : Type} (h : Aside x y) (f : CoreSt → β)
    (hf : ∀ k z, f (CoreSt.withAside k z) = f k := by exact fun _ _ => rfl) : f y = f x := by
  obtain ⟨z, rfl⟩ := aside_iff.1 h
  exact hf x z

theorem Aside.setThread {x y : CoreSt} (h : Aside x y) (t : Nat) (th : Thread) : Aside (x.setThread t th) (y.setThread t th) := by
  obtain ⟨z, rfl⟩ := aside_iff.1 h
  rfl

theorem Aside.thread {x y : CoreSt} (h : Aside x y) (t : Nat) : y.thread t = x.thread t := h.read (·.thread t)

theorem CoreAt.core {s u : State} {c : Nat} {k : CoreSt} (h : CoreAt s u c k) : Aside k (u.core c) := by
  obtain ⟨y, hy, hu⟩ := h
  have at_c : u.core c = y := by
    rw [State.core, congrArg State.cores hu]
    exact Tab.get_set_same _ _ _ _
  rwa [at_c]

end Sys2Proof

namespace Sys2Proof.Machine

/-- From `e` to `e'` only cycles have passed and events have been counted. -/
structure Passes (e e' : Eff) : Prop where
  core : Aside e.k e'.k
  id : e'.id = e.id
  occ : e'.occ = e.occ

theorem Passes.refl (e : Eff) : Passes e e := ⟨Aside.refl e.k, rfl, rfl⟩

theorem Passes.trans {a b c : Eff} (h : Passes a b) (h' : Passes b c) : Passes a c :=
  ⟨h.core.trans h'.core, h'.id.trans h.id, h'.occ.trans h.occ⟩

theorem Passes.foldl {α : Type} {f : Eff → α → Eff} (h : ∀ e x, Passes e (f e x)) (l : List α) (e : Eff) :
    Passes e (l.foldl f e) := by
  induction l generalizing e with
  | nil => exact .refl e
  | cons x l ih => exact (h e x).trans (ih (f e x))

theorem count_passes (e : Eff) (ev n : Nat) : Passes e (e.count ev n) := ⟨rfl, rfl, rfl⟩

/-- The Gauger charges the events that follow to an invocation. -/
theorem charge_passes (e : Eff) (o : Option Nat) :
    Passes e { e with k := { e.k with gauger := { e.k.gauger with charged := o } } } := ⟨rfl, rfl, rfl⟩

theorem elapsed_passes (e : Eff) (k : CoreSt) (fabric : List Nat) : Passes e (e.elapsed k fabric) := by
  unfold Eff.elapsed
  dsimp only
  split
  · exact .refl e
  · refine Passes.trans ?_ (Passes.foldl (fun e ev => count_passes e ev _) _ _)
    refine Passes.trans ?_ (Passes.foldl (fun e ev => count_passes e ev _) _ _)
    refine Passes.trans ?_ (Passes.foldl (fun e (x : Nat × Nat) => count_passes e x.1 x.2) _ _)
    refine Passes.trans ?_ (charge_passes _ _)
    refine Passes.trans ?_ (Passes.foldl (fun e (x : ArrayRun) => count_passes e x.event x.cycles) _ _)
    refine ⟨?_, rfl, rfl⟩
    split_ifs <;> rfl

theorem meter_aside (s : State) (c : Nat) (k : CoreSt) : Aside k (s.meter c k) := rfl

/-- A core's step lands in the module: the core as the step left it, the passing of cycles apart, and the events it raised. -/
theorem landCore_coreAt (s : State) (c : Nat) {e : Eff} {k : CoreSt} (h : Aside k e.k) :
    CoreAt { s with occurrences := s.occurrences ++ e.occ } (s.landCore c e) c k := by
  unfold State.landCore
  dsimp only
  split
  · exact ⟨_, h.trans (meter_aside s c e.k), rfl⟩
  · have passed := elapsed_passes e (s.core c) (s.fabricWaits c)
    rw [passed.occ]
    exact ⟨_, (h.trans passed.core).trans (meter_aside s c _), rfl⟩

theorem landCore_coreAt_of_no_events (s : State) (c : Nat) {e : Eff} {k : CoreSt} (h : Aside k e.k) (hocc : e.occ = []) :
    CoreAt s (s.landCore c e) c k := by
  have landed := landCore_coreAt s c h
  rwa [hocc, List.append_nil] at landed

/-- A step of a core that ended as `e` has landed in the module: the core as `e` leaves it, the passing of cycles apart, and its
events. -/
structure Lands (s t : State) (c : Nat) (e : Eff) : Prop where
  core : Aside e.k (t.core c)
  rest : t = { s with cores := t.cores, occurrences := s.occurrences ++ e.occ }

theorem onCore_eq {s : State} {c : Nat} (h : s.coreRuns c = true) (f : Eff → Eff) :
    s.onCore c f = s.landCore c (f ⟨c, s.core c, []⟩) := if_pos h

theorem onCore_lands {s : State} {c : Nat} (h : s.coreRuns c = true) (f : Eff → Eff) :
    Lands s (s.onCore c f) c (f ⟨c, s.core c, []⟩) := by
  rw [onCore_eq h]
  have landed := landCore_coreAt s c (Aside.refl (f ⟨c, s.core c, []⟩).k)
  refine ⟨landed.core, ?_⟩
  obtain ⟨y, -, ht⟩ := landed
  rw [ht]

theorem onCore_coreAt {s : State} {c : Nat} (h : s.coreRuns c = true) (f : Eff → Eff) {k : CoreSt}
    (hcore : Aside k (f ⟨c, s.core c, []⟩).k) (hocc : (f ⟨c, s.core c, []⟩).occ = []) : CoreAt s (s.onCore c f) c k := by
  rw [onCore_eq h]
  exact landCore_coreAt_of_no_events s c hcore hocc

/-! ### The issue of an instruction -/

/-- The step of the issue alone. -/
def issuedEff (s : State) (c t gap : Nat) (single : List Nat) : Eff := ⟨c, issuedCore (s.core c) t gap single, []⟩

theorem issueTime_passes (s : State) (c t gap : Nat) :
    ∃ single, Passes (issuedEff s c t gap single) (Eff.issueTime ⟨c, s.core c, []⟩ t gap) := ⟨_, rfl, rfl, rfl⟩

theorem tallyRow_of_issues {s : State} {c : CoreId} {t : Fin 4} {op : TallyOp} (h : Issues s c t op) {gap : Nat} {e : Eff}
    (hop : (Eff.issueTime ⟨c, s.core c, []⟩ t gap).tallyOp t op (s.tallyBusy c t) (s.tallyOwed c t) (s.mirrorOf c) = (e, none)) :
    s.tallyRow c t gap op = s.landCore c e := by
  obtain ⟨hruns, hmay, w, hfetch, hdecode⟩ := h
  simp only [State.tallyRow, hruns, Eff.tallyIssue, hfetch, hmay, hdecode, hop, if_true, Bool.not_false, Bool.and_self,
    decide_true]

/-- An instruction that makes no far access and raises no event: `f` is what it does on the core as the issue leaves it. -/
theorem tallyRow_issued {s : State} {c : CoreId} {t : Fin 4} {op : TallyOp} (h : Issues s c t op) (gap : Nat)
    {f : CoreSt → CoreSt}
    (hop : ∀ single e, Passes (issuedEff s c t gap single) e →
      ∃ e', e.tallyOp t op (s.tallyBusy c t) (s.tallyOwed c t) (s.mirrorOf c) = (e', none) ∧
        Aside (f (issuedCore (s.core c) t gap single)) e'.k ∧ e'.occ = []) :
    Issued s (s.tallyRow c t gap op) c t gap f := by
  obtain ⟨single, timed⟩ := issueTime_passes s c t gap
  obtain ⟨e', done, hcore, hocc⟩ := hop single _ timed
  rw [tallyRow_of_issues h done]
  exact ⟨single, landCore_coreAt_of_no_events s c hcore hocc⟩

theorem wrote_setReg (t : Nat) (rd : Fin 32) (v : Word) (k : CoreSt) :
    wrote t rd v k = k.setThread t { (k.thread t).setReg rd v with
      pc := (k.thread t).pc + 4, state := .ready, wait := none, met := false } := by
  unfold wrote Thread.setReg
  split <;> rfl

theorem retire_wrote {k : CoreSt} {e : Eff} (h : Aside k e.k) (t : Nat) (rd : Fin 32) (v : Word) :
    Aside (wrote t rd v k) (e.retire t rd v).k := by
  rw [wrote_setReg]
  unfold Eff.retire Eff.onThread
  rw [h.thread]
  exact h.setThread t _

theorem advance_wrote {k : CoreSt} {e : Eff} (h : Aside k e.k) (t : Nat) : Aside (wrote t 0 0 k) (e.advance t).k := by
  unfold Eff.advance Eff.onThread
  rw [h.thread]
  exact h.setThread t _

/-! ### Addresses and numbers of a load -/

/-- The effective address of a load or store (R131). -/
theorem wrap_add_toInt (x : Word) (v : BitVec 16) : wrap (x.toNat + v.toInt) = x + v.signExtend 64 := by
  unfold wrap BitVec.signExtend
  rw [BitVec.ofInt_add, BitVec.ofInt_natCast, BitVec.ofNat_toNat, BitVec.setWidth_eq]

end Sys2Proof.Machine
end

section
/-! The descriptor and tile words of a core's data map (R131, R133, R135). -/

namespace Sys2Proof.Machine

/-! ### Bits of a number -/

/-- A field of `w` bits of a number replaced (R103): its bits are the new field's, every other bit stays. -/
theorem putBits_testBit {v hi lo f w : Nat} (hw : hi + 1 - lo = w) (i : Nat) :
    (putBits v hi lo f).testBit i = if i < lo then v.testBit i else if i - lo < w then f.testBit (i - lo) else v.testBit i := by
  have parts : putBits v hi lo f = 2 ^ lo * (2 ^ w * (v / 2 ^ lo / 2 ^ w) + f % 2 ^ w) + v % 2 ^ lo := by
    unfold putBits bitsOf
    rw [hw, Nat.shiftRight_eq_div_pow, Nat.shiftLeft_eq, Nat.shiftLeft_eq]
    have low := Nat.div_add_mod v (2 ^ lo)
    have field := Nat.div_add_mod (v / 2 ^ lo) (2 ^ w)
    generalize v / 2 ^ lo / 2 ^ w = high at *
    generalize v / 2 ^ lo % 2 ^ w = old at *
    have cut : v - old * 2 ^ lo = 2 ^ lo * (2 ^ w * high) + v % 2 ^ lo := by
      refine Nat.sub_eq_of_eq_add ?_
      conv_lhs => rw [← low, ← field]
      ring
    rw [cut]
    ring
  rw [parts, Nat.testBit_two_pow_mul_add _ (Nat.mod_lt _ (Nat.two_pow_pos lo)), Nat.testBit_mod_two_pow,
    Nat.testBit_two_pow_mul_add _ (Nat.mod_lt _ (Nat.two_pow_pos w)), Nat.testBit_mod_two_pow, Nat.testBit_div_two_pow,
    Nat.testBit_div_two_pow]
  split
  · simp [*]
  · split
    · simp [*]
    · congr 1
      omega

/-- A loaded number of 4 bytes in its register (Table 5.6). -/
theorem extendLoad_eq_loadedWord (signed : Bool) (x : Word32) : extendLoad 4 signed x.toNat = loadedWord 4 signed x.toNat := by
  have range := x.isLt
  unfold extendLoad loadedWord wrap wd
  cases signed
  · simp
  · simp only [if_true, true_and, BitVec.ofNat_toNat, BitVec.setWidth_eq, BitVec.signExtend, BitVec.toInt_eq_toNat_cond]
    split_ifs
    · omega
    · rfl
    · rfl
    · omega

/-- A word of 8 bytes at an offset of a descriptor, in its register. -/
theorem extendLoad_bitsOf (d : BitVec 512) (n : Nat) :
    extendLoad 8 false (bitsOf d.toNat (8 * n + 8 * 8 - 1) (8 * n)) = BitVec.ofNat 64 (d.toNat / 2 ^ (8 * n)) := by
  have width : 8 * n + 8 * 8 - 1 + 1 - 8 * n = 64 := by omega
  apply BitVec.eq_of_toNat_eq
  simp only [extendLoad, wd, bitsOf, width, Bool.false_eq_true, if_false, Nat.shiftRight_eq_div_pow, BitVec.toNat_ofNat, Nat.mod_mod]

/-- A descriptor with one of its words stored, the reserved bits left out (R135). -/
def descWithWord (d : BitVec 512) (q : Nat) (v : Word) : BitVec 512 :=
  BitVec.ofNat 512 (putBits d.toNat (64 * q + 63) (64 * q) (v &&& descMask q).toNat)

theorem descWithWord_getLsbD (d : BitVec 512) {q : Nat} (hq : q < 8) (v : Word) (i : Nat) :
    (descWithWord d q v).getLsbD i =
      if 64 * q ≤ i ∧ i < 64 * q + 64 then (v &&& descMask q).getLsbD (i - 64 * q) else d.getLsbD i := by
  have bits := putBits_testBit (v := d.toNat) (f := (v &&& descMask q).toNat) (show 64 * q + 63 + 1 - 64 * q = 64 by omega) i
  simp only [descWithWord, BitVec.getLsbD_ofNat, bits, BitVec.testBit_toNat]
  by_cases inside : 64 * q ≤ i ∧ i < 64 * q + 64
  · rw [if_pos inside, if_neg (by omega), if_pos (by omega), decide_eq_true (by omega), Bool.true_and]
  · rw [if_neg inside]
    by_cases below : i < 64 * q
    · rw [if_pos below, decide_eq_true (by omega), Bool.true_and]
    · rw [if_neg below, if_neg (by omega)]
      simpa using BitVec.lt_of_getLsbD

/-! ### Places (Table 5.3) -/

theorem checkAccess_desc {a : Word} {o : Nat} (ho : o = a.toNat - 0x200000) (write : Bool) (hlo : 0x200000 ≤ a.toNat)
    (hhi : a.toNat < 0x201000) (halign : a.toNat % 8 = 0) : checkAccess a 8 write = .inl (.desc o) := by
  have hplace : placeOf a.toNat = some (.desc o) := by
    unfold placeOf
    rw [if_neg (by omega), if_neg (by omega), if_pos ⟨hlo, hhi⟩, ho]
  simp [checkAccess, halign, hplace, Place.allows]

theorem checkAccess_tile {a : Word} (hlo : 0x210000 ≤ a.toNat) (hhi : a.toNat < 0x210080) (halign : a.toNat % 4 = 0) :
    checkAccess a 4 false = .inl (.tile ((a.toNat - 0x210000) / 4)) := by
  have hplace : placeOf a.toNat = some (.tile ((a.toNat - 0x210000) / 4)) := by
    unfold placeOf
    rw [if_neg (by omega), if_neg (by omega), if_neg (by omega), if_pos ⟨hlo, hhi⟩]
  simp [checkAccess, halign, hplace, Place.allows]

/-! ### Loads and stores of a thread -/

section
variable {s : State} {c : CoreId} {t : Fin 4} {rd rs1 rs2 : Fin 32} {v : BitVec 16} {a : Word}

/-- The address that an instruction computes is that of the thread before it issued. -/
theorem Passes.address {gap : Nat} {single : List Nat} {e : Eff} (h : Passes (issuedEff s c t gap single) e)
    (ha : a = wrap ((((s.core c).thread t).reg rs1).toNat + v.toInt)) : (e.k.thread t).reg rs1 + v.signExtend 64 = a := by
  rw [ha, wrap_add_toInt, h.core.thread]
  rfl

/-- A load that reads `x` of width `w` at a place within the core, unpoisoned. -/
theorem load_issued {o : ImmOp} {w : Nat} {signed : Bool} {p : Place} {x : Nat} (hshape : loadShape o = some (w, signed))
    (h : Issues s c t (.imm o rd rs1 v)) (ha : a = wrap ((((s.core c).thread t).reg rs1).toNat + v.toInt))
    (hplace : checkAccess a w false = .inl p) (hfar : ∀ dva, p ≠ .far dva) (gap : Nat)
    (hread : ∀ single e, Passes (issuedEff s c t gap single) e → e.readPlace p w = (⟨x, false⟩, e)) :
    Issued s (s.tallyRow c t gap (.imm o rd rs1 v)) c t gap (wrote t rd (extendLoad w signed x)) := by
  refine tallyRow_issued h gap fun single e timed => ⟨e.retire t rd (extendLoad w signed x), ?_, ?_, timed.occ⟩
  · have toLoad : ∀ busy owed mirror, e.tallyOp t (.imm o rd rs1 v) busy owed mirror = e.load t rd a w signed := by
      intro busy owed mirror
      rw [← timed.address ha]
      cases o <;> cases hshape <;> rfl
    rw [toLoad, Eff.load, hplace]
    cases p with
    | far dva => exact absurd rfl (hfar dva)
    | _ => simp only [hread single e timed, Eff.finishLoad, Bool.false_eq_true, if_false]
  · exact retire_wrote timed.core t rd _

/-- A store to a descriptor word while the Loom has nothing queued or split. -/
theorem storeDesc_issued {o : Nat} (h : Issues s c t (.store .sd rs2 rs1 v))
    (ha : a = wrap ((((s.core c).thread t).reg rs1).toNat + v.toInt)) (hplace : checkAccess a 8 true = .inl (.desc o))
    (hqueue : (s.core c).invQueue = []) (hsplit : (s.core c).splitting = none) (gap : Nat) :
    Issued s (s.tallyRow c t gap (.store .sd rs2 rs1 v)) c t gap (fun x => wrote t 0 0 { x with
      descs := (s.core c).descs.set (o / 64)
        (descWithWord ((s.core c).descs.get 0 (o / 64)) (o % 64 / 8) (((s.core c).thread t).reg rs2)) }) := by
  refine tallyRow_issued h gap fun single e timed =>
    ⟨(e.writePlace (.desc o) 8 ((e.k.thread t).reg rs2).toNat).advance t, ?_, ?_, timed.occ⟩
  · have toStore : ∀ busy owed mirror, e.tallyOp t (.store .sd rs2 rs1 v) busy owed mirror = e.store t a 8 ((e.k.thread t).reg rs2) := by
      intro busy owed mirror
      rw [← timed.address ha]
      rfl
    have idle : e.k.loomIdle = true := by
      have same : e.k.loomIdle = (s.core c).loomIdle := timed.core.read (·.loomIdle)
      rw [same, CoreSt.loomIdle, hqueue, hsplit]
      rfl
    simp only [toStore, Eff.store, hplace, idle, if_true]
  · refine advance_wrote ?_ t
    rw [Eff.writePlace, show e.k.descs = (s.core c).descs from timed.core.read (·.descs), timed.core.thread, wd,
      BitVec.ofNat_toNat, BitVec.setWidth_eq]
    obtain ⟨z, hz⟩ := aside_iff.1 timed.core
    rw [hz]
    rfl

end

/-- Settles O22: an aligned access to the two tables reads or writes inside the core, and the thread goes on. -/
theorem descriptorAndTileWords : Obligations.DescriptorAndTileWords := by
  rintro s c t gap rd rs1 rs2 v a o k rfl ha ho
  refine ⟨fun h hlo hhi halign => ⟨s.tallyRow c t gap (.imm .ld rd rs1 v), rfl, ?_⟩,
    fun h hlo hhi halign hqueue hsplit => ?_, fun l signed hl h hlo hhi halign => ?_⟩
  · rw [← extendLoad_bitsOf]
    refine load_issued rfl h ha (checkAccess_desc ho false hlo hhi halign) (fun _ => Place.noConfusion) gap fun single e timed => ?_
    unfold Eff.readPlace
    rw [show e.k.descs = (s.core c).descs from timed.core.read (·.descs)]
  · refine ⟨s.tallyRow c t gap (.store .sd rs2 rs1 v),
      descWithWord ((s.core c).descs.get 0 (o / 64)) (o % 64 / 8) (((s.core c).thread t).reg rs2), rfl, ?_, fun i => ?_⟩
    · exact storeDesc_issued h ha (checkAccess_desc ho true hlo hhi halign) hqueue hsplit gap
    · have start : 8 * (o % 64) = 64 * (o % 64 / 8) := by omega
      rw [start]
      exact descWithWord_getLsbD _ (by omega) _ i
  · obtain ⟨shape, row⟩ : loadShape l = some (4, signed) ∧
        exec (immRow l c t gap rd rs1 v) s = .next (s.tallyRow c t gap (.imm l rd rs1 v)) := by
      simp only [List.mem_cons, Prod.mk.injEq, List.not_mem_nil, or_false] at hl
      obtain ⟨rfl, rfl⟩ | ⟨rfl, rfl⟩ := hl <;> exact ⟨rfl, rfl⟩
    refine ⟨_, row, ?_⟩
    rw [← extendLoad_eq_loadedWord]
    refine load_issued shape h ha (checkAccess_tile hlo hhi halign) (fun _ => Place.noConfusion) gap fun single e timed => ?_
    unfold Eff.readPlace tileOf
    rw [show e.k.tiles = (s.core c).tiles from timed.core.read (·.tiles)]

end Sys2Proof.Machine
end

section
/-! The vector unit's operations that move bits unchanged (R82, R187, R189): TILECFG, MOVE_IN, MOVE_OUT and TRANSPOSE. -/

namespace Sys2Proof.Machine

open Numbers

/-! ### Rows of bytes written one after another -/

/-- The memory `m'` is `m` after the first `n` rows have been written: row `i`, `len` bytes, at `addr i`. -/
structure RowsWritten (m m' : Mem) (addr : Nat → Nat) (len : Nat) (row : Nat → List Byte) (n : Nat) : Prop where
  wf : Mem.wf m' = true
  bytes : ∀ i < n, m'.bytes (addr i) len = row i
  others : ∀ x, (∀ i < n, x < addr i ∨ addr i + len ≤ x) → m'.rd x = m.rd x

namespace RowsWritten

variable {m m' : Mem} {addr : Nat → Nat} {len n : Nat} {row : Nat → List Byte}

theorem zero (h : Mem.wf m = true) : RowsWritten m m addr len row 0 :=
  ⟨h, fun i hi => absurd hi (Nat.not_lt_zero i), fun _ _ => rfl⟩

/-- The next row leaves the rows before it, which lie apart from it. -/
theorem succ (h : RowsWritten m m' addr len row n) (hlen : (row n).length = len)
    (apart : ∀ i < n, addr i + len ≤ addr n ∨ addr n + len ≤ addr i) :
    RowsWritten m (m'.wrBytes (addr n) (row n)) addr len row (n + 1) where
  wf := Mem.wf_wrBytes _ _ h.wf
  bytes := by
    intro i hi
    rcases Nat.lt_succ_iff_lt_or_eq.1 hi with hlt | rfl
    · rw [← h.bytes i hlt]
      refine Mem.bytes_congr fun j hj => Mem.rd_wrBytes_ne _ _ _ h.wf ?_
      have := apart i hlt
      omega
    · conv_lhs => rw [← hlen]
      exact Mem.bytes_wrBytes _ _ h.wf
  others := by
    intro x hx
    have out := hx n n.lt_succ_self
    rw [Mem.rd_wrBytes_ne _ _ _ h.wf (by omega), h.others x fun i hi => hx i (Nat.lt_succ_of_lt hi)]

end RowsWritten

theorem Mem.rd_of_bytes_eq {m m' : Mem} {a b n j : Nat} (h : m.bytes a n = m'.bytes b n) (hj : j < n) : m.rd (a + j) = m'.rd (b + j) := by
  have at_j := congrArg (·[j]?) h
  simpa [Mem.bytes, hj] using at_j

theorem Mem.bytes_length (m : Mem) (a n : Nat) : (m.bytes a n).length = n := by
  simp [Mem.bytes]

theorem readMarked_bytes (st : Store) (a n : Nat) : (st.readMarked a n).map (·.1) = st.data.bytes a n := by
  simp [Store.readMarked, Mem.bytes]

theorem TrfOp.rows_apart {o : TrfOp} (hrow : 0 ≤ o.row0) (tiles : Tab Word32) {len : Nat}
    (hfit : o.byte0 + len ≤ tilePitch (tileOf tiles o.tile)) {i n : Nat} (h : i < n) : o.addr tiles i + len ≤ o.addr tiles n := by
  rw [TrfOp.addr_eq hrow, TrfOp.addr_eq hrow]
  have next : (i + 1) * tilePitch (tileOf tiles o.tile) ≤ n * tilePitch (tileOf tiles o.tile) := Nat.mul_le_mul_right _ h
  rw [Nat.add_one_mul] at next
  omega

/-! ### MOVE_IN -/

/-- From `b` to `e` the TRF may have been written and the local store read. -/
def MovedIn (b e : Eff) : Prop :=
  ∃ ls trf g, e = { b with k := { b.k with ls := ls, trf := trf, gauger := g } } ∧ ls.data = b.k.ls.data

theorem MovedIn.trans {a b c : Eff} (h : MovedIn a b) (h' : MovedIn b c) : MovedIn a c := by
  obtain ⟨_, _, _, rfl, hdata⟩ := h
  obtain ⟨_, _, _, rfl, hdata'⟩ := h'
  exact ⟨_, _, _, rfl, hdata'.trans hdata⟩

theorem rows_movedIn (e : Eff) (n : Nat) : MovedIn e (e.rows n) := ⟨_, _, _, rfl, rfl⟩

theorem copyIn_movedIn (e : Eff) (a dst n : Nat) :
    MovedIn e ((e.touchLs a n).writeTrf dst ((e.touchLs a n).k.ls.readMarked a n)) :=
  ⟨_, _, _, rfl, store_afterRead_data _ _ _⟩

/-- Row i of MOVE_IN. -/
def Eff.moveInRow (v : VecOp) (e : Eff) (i : Nat) : Eff :=
  let d := v.dst
  let l := v.moveLs
  let sc := v.moveScales
  let a := l.base.toNat + i * l.stride
  let e := e.touchLs a d.bytes
  let e := e.writeTrf (d.addr e.k.tiles i) (e.k.ls.readMarked a d.bytes)
  if codeMx d.fmt then
    let sa := sc.base.toNat + i * sc.stride
    let e := e.touchLs sa sc.len
    e.writeTrf (d.scaleAddr e.k.tiles i 0) (e.k.ls.readMarked sa sc.len)
  else e

theorem moveIn_eq (e : Eff) (v : VecOp) : e.moveIn v = rowsFrom (Eff.moveInRow v) (e.rows v.dst.rows) v.dst.rows := rfl

theorem moveInRow_movedIn (v : VecOp) (e : Eff) (i : Nat) : MovedIn e (e.moveInRow v i) := by
  unfold Eff.moveInRow
  dsimp only
  split
  · exact (copyIn_movedIn e _ _ _).trans (copyIn_movedIn _ _ _ _)
  · exact copyIn_movedIn e _ _ _

theorem moveIn_movedIn (e : Eff) (v : VecOp) : MovedIn e (e.moveIn v) := by
  rw [moveIn_eq]
  exact foldl_range_invariant (fun _ x => MovedIn e x) (rows_movedIn e _) fun i x _ h => h.trans (moveInRow_movedIn v x i)

theorem moveInRow_data {v : VecOp} (hmx : codeMx v.dst.fmt = false) (e : Eff) (i : Nat) :
    (e.moveInRow v i).k.trf.data = e.k.trf.data.wrBytes (v.dst.addr e.k.tiles i)
      (e.k.ls.data.bytes (v.moveLs.base.toNat + i * v.moveLs.stride) v.dst.bytes) := by
  simp only [Eff.moveInRow, hmx, Bool.false_eq_true, if_false]
  refine (Store.write_data _ _ _).trans ?_
  rw [readMarked_bytes]
  exact congrArg (fun m : Mem => e.k.trf.data.wrBytes _ (m.bytes _ _)) (store_afterRead_data _ _ _)

theorem moveIn_rows {v : VecOp} (hmx : codeMx v.dst.fmt = false) {b : Eff} (hwf : Mem.wf b.k.trf.data = true) (hrow : 0 ≤ v.dst.row0)
    (hfit : v.dst.byte0 + v.dst.bytes ≤ tilePitch (tileOf b.k.tiles v.dst.tile)) :
    RowsWritten b.k.trf.data (b.moveIn v).k.trf.data (v.dst.addr b.k.tiles) v.dst.bytes
      (fun i => b.k.ls.data.bytes (v.moveLs.base.toNat + i * v.moveLs.stride) v.dst.bytes) v.dst.rows := by
  rw [moveIn_eq]
  refine (foldl_range_invariant (fun n (x : Eff) => MovedIn b x ∧ RowsWritten b.k.trf.data x.k.trf.data (v.dst.addr b.k.tiles) v.dst.bytes
    (fun i => b.k.ls.data.bytes (v.moveLs.base.toNat + i * v.moveLs.stride) v.dst.bytes) n) ?_ ?_).2
  · exact ⟨rows_movedIn b _, .zero hwf⟩
  · rintro i x - ⟨hx, hrows⟩
    refine ⟨hx.trans (moveInRow_movedIn v x i), ?_⟩
    rw [moveInRow_data hmx]
    obtain ⟨ls, _, _, rfl, hls⟩ := hx
    rw [show ls.data = b.k.ls.data from hls]
    exact hrows.succ (Mem.bytes_length _ _ _) fun j hj => .inl (v.dst.rows_apart hrow _ hfit hj)

/-! ### MOVE_OUT -/

/-- From `b` to `e` the local store may have been written and the TRF read. -/
def MovedOut (b e : Eff) : Prop :=
  ∃ ls trf feeders g, e = { b with k := { b.k with
    ls := ls, trf := trf, pipe := { b.k.pipe with feeders := feeders }, gauger := g } } ∧ trf.data = b.k.trf.data

theorem MovedOut.trans {a b c : Eff} (h : MovedOut a b) (h' : MovedOut b c) : MovedOut a c := by
  obtain ⟨_, _, _, _, rfl, hdata⟩ := h
  obtain ⟨_, _, _, _, rfl, hdata'⟩ := h'
  exact ⟨_, _, _, _, rfl, hdata'.trans hdata⟩

theorem rows_movedOut (e : Eff) (n : Nat) : MovedOut e (e.rows n) := ⟨_, _, _, _, rfl, rfl⟩

theorem copyOut_movedOut (e : Eff) (a dst n : Nat) :
    MovedOut e ((e.touchTrf a n).writeLs dst ((e.touchTrf a n).k.trf.readMarked a n)) :=
  ⟨_, _, _, _, rfl, store_afterRead_data _ _ _⟩

/-- Row i of MOVE_OUT. -/
def Eff.moveOutRow (v : VecOp) (e : Eff) (i : Nat) : Eff :=
  let d := v.dst
  let l := v.moveLs
  let sc := v.moveScales
  let a := d.addr e.k.tiles i
  let e := e.touchTrf a d.bytes
  let e := e.writeLs (l.base.toNat + i * l.stride) (e.k.trf.readMarked a d.bytes)
  if codeMx d.fmt then
    let sa := d.scaleAddr e.k.tiles i 0
    let e := e.touchTrf sa sc.len
    e.writeLs (sc.base.toNat + i * sc.stride) (e.k.trf.readMarked sa sc.len)
  else e

theorem moveOut_eq (e : Eff) (v : VecOp) : e.moveOut v = rowsFrom (Eff.moveOutRow v) (e.rows v.dst.rows) v.dst.rows := rfl

theorem moveOutRow_movedOut (v : VecOp) (e : Eff) (i : Nat) : MovedOut e (e.moveOutRow v i) := by
  unfold Eff.moveOutRow
  dsimp only
  split
  · exact (copyOut_movedOut e _ _ _).trans (copyOut_movedOut _ _ _ _)
  · exact copyOut_movedOut e _ _ _

theorem moveOut_movedOut (e : Eff) (v : VecOp) : MovedOut e (e.moveOut v) := by
  rw [moveOut_eq]
  exact foldl_range_invariant (fun _ x => MovedOut e x) (rows_movedOut e _) fun i x _ h => h.trans (moveOutRow_movedOut v x i)

theorem moveOutRow_data {v : VecOp} (hmx : codeMx v.dst.fmt = false) (e : Eff) (i : Nat) :
    (e.moveOutRow v i).k.ls.data = e.k.ls.data.wrBytes (v.moveLs.base.toNat + i * v.moveLs.stride)
      (e.k.trf.data.bytes (v.dst.addr e.k.tiles i) v.dst.bytes) := by
  simp only [Eff.moveOutRow, hmx, Bool.false_eq_true, if_false]
  refine (Store.write_data _ _ _).trans ?_
  rw [readMarked_bytes]
  exact congrArg (fun m : Mem => e.k.ls.data.wrBytes _ (m.bytes _ _)) (store_afterRead_data _ _ _)

theorem moveOut_rows {v : VecOp} (hmx : codeMx v.dst.fmt = false) {b : Eff} (hwf : Mem.wf b.k.ls.data = true)
    (hstride : v.dst.rows = 1 ∨ v.dst.bytes ≤ v.moveLs.stride) :
    RowsWritten b.k.ls.data (b.moveOut v).k.ls.data (fun i => v.moveLs.base.toNat + i * v.moveLs.stride) v.dst.bytes
      (fun i => b.k.trf.data.bytes (v.dst.addr b.k.tiles i) v.dst.bytes) v.dst.rows := by
  rw [moveOut_eq]
  refine (foldl_range_invariant (fun n (x : Eff) => MovedOut b x ∧ RowsWritten b.k.ls.data x.k.ls.data
    (fun i => v.moveLs.base.toNat + i * v.moveLs.stride) v.dst.bytes
    (fun i => b.k.trf.data.bytes (v.dst.addr b.k.tiles i) v.dst.bytes) n) ?_ ?_).2
  · exact ⟨rows_movedOut b _, .zero hwf⟩
  · rintro n x hn ⟨hx, hrows⟩
    refine ⟨hx.trans (moveOutRow_movedOut v x n), ?_⟩
    rw [moveOutRow_data hmx]
    obtain ⟨_, trf, _, _, rfl, htrf⟩ := hx
    rw [show trf.data = b.k.trf.data from htrf]
    refine hrows.succ (Mem.bytes_length _ _ _) fun i hi => .inl ?_
    have next : (i + 1) * v.moveLs.stride ≤ n * v.moveLs.stride := Nat.mul_le_mul_right _ hi
    rw [Nat.add_one_mul] at next
    omega

/-! The lines that MOVE_OUT takes from the feeders' operand caches (R73). -/

theorem Tab.get_map {α : Type} {d : α} {g : α → α} (hd : g d = d) (t : Tab α) (n : Nat) :
    Tab.get d (t.map fun x => (x.1, g x.2)) n = g (Tab.get d t n) := by
  induction t with
  | nil => exact hd.symm
  | cons x t ih =>
    simp only [List.map_cons, Tab.get, ih]
    split_ifs
    · rfl
    · exact hd.symm
    · rfl

theorem mem_linesOf {a n l : Nat} : l ∈ linesOf a n ↔ ∃ j < n, (a + j) / 64 = l := by
  unfold linesOf
  split
  · simp [*]
  · simp only [List.mem_map, List.mem_range]
    constructor
    · rintro ⟨i, hi, rfl⟩
      refine ⟨64 * (a / 64 + i) - a, ?_, ?_⟩ <;> omega
    · rintro ⟨j, hj, rfl⟩
      exact ⟨(a + j) / 64 - a / 64, by omega, by omega⟩

theorem moveOutRow_feeders {v : VecOp} (hmx : codeMx v.dst.fmt = false) (e : Eff) (i f : Nat) (x : FeederLine) :
    x ∈ (e.moveOutRow v i).k.pipe.feeders.get [] f ↔ x ∈ e.k.pipe.feeders.get [] f ∧
      ∀ j < v.dst.bytes, (v.moveLs.base.toNat + i * v.moveLs.stride + j) / 64 ≠ x.line := by
  simp only [Eff.moveOutRow, hmx, Bool.false_eq_true, if_false, Eff.writeLs, CoreSt.writeLs]
  rw [Tab.get_map (g := List.filter _) rfl, List.mem_filter]
  refine and_congr Iff.rfl ?_
  simp [Store.readMarked, mem_linesOf]

theorem moveOut_feeders {v : VecOp} (hmx : codeMx v.dst.fmt = false) (b : Eff) (f : Nat) (x : FeederLine) :
    x ∈ (b.moveOut v).k.pipe.feeders.get [] f ↔ x ∈ b.k.pipe.feeders.get [] f ∧
      ∀ i < v.dst.rows, ∀ j < v.dst.bytes, (v.moveLs.base.toNat + i * v.moveLs.stride + j) / 64 ≠ x.line := by
  rw [moveOut_eq]
  refine foldl_range_invariant (fun n (e : Eff) => x ∈ e.k.pipe.feeders.get [] f ↔ x ∈ b.k.pipe.feeders.get [] f ∧
      ∀ i < n, ∀ j < v.dst.bytes, (v.moveLs.base.toNat + i * v.moveLs.stride + j) / 64 ≠ x.line) ?_ fun n e _ ih => ?_
  · exact ⟨fun h => ⟨h, fun i hi => absurd hi (Nat.not_lt_zero i)⟩, And.left⟩
  · rw [moveOutRow_feeders hmx, ih, and_assoc, Nat.forall_lt_succ_right]

/-! ### TRANSPOSE -/

/-- From `b` to `e` only the TRF and the counters have changed. -/
def TrfChanged (b e : Eff) : Prop := ∃ st g, e = { b with k := { b.k with trf := st, gauger := g } }

/-- Row i of the result: column i of the source as core `k` holds it. -/
def transposedRow (v : VecOp) (k : CoreSt) (i : Nat) : List (Byte × Bool) :=
  packRow (codeBits v.dst.fmt) ((List.range v.e).map (fun j => k.trfBits v.transposeSrc j i))

theorem transposedRow_length (v : VecOp) (k : CoreSt) (i : Nat) :
    ((transposedRow v k i).map (·.1)).length = (v.e * codeBits v.dst.fmt + 7) / 8 := by
  rw [List.length_map, transposedRow, packRow_length, List.length_map, List.length_range]

/-- Row i of TRANSPOSE, its source as core `k` holds it. -/
def Eff.transposeRow (v : VecOp) (k : CoreSt) (e : Eff) (i : Nat) : Eff :=
  e.writeTrf (v.dst.addr e.k.tiles i) (transposedRow v k i)

theorem transpose_eq (b : Eff) (v : VecOp) : b.transpose v =
    rowsFrom (Eff.transposeRow v (b.touchTrfOp v.transposeSrc).k) ((b.touchTrfOp v.transposeSrc).rows v.dst.rows) v.dst.rows := rfl

theorem transpose_changed (b : Eff) (v : VecOp) : TrfChanged b (b.transpose v) := by
  rw [transpose_eq]
  refine foldl_range_invariant (fun _ (x : Eff) => TrfChanged b x) ?_ ?_
  · obtain ⟨_, _, h, -⟩ := (touchTrfOp_read b v.transposeSrc).trans (rows_read _ v.dst.rows)
    exact ⟨_, _, h⟩
  · rintro i x - ⟨_, _, rfl⟩
    exact ⟨_, _, rfl⟩

theorem transpose_rows {v : VecOp} {b : Eff} (hwf : Mem.wf b.k.trf.data = true) (hrow : 0 ≤ v.dst.row0)
    (hfit : v.dst.byte0 + (v.e * codeBits v.dst.fmt + 7) / 8 ≤ tilePitch (tileOf b.k.tiles v.dst.tile)) :
    RowsWritten b.k.trf.data (b.transpose v).k.trf.data (v.dst.addr b.k.tiles) ((v.e * codeBits v.dst.fmt + 7) / 8)
      (fun i => (transposedRow v (b.touchTrfOp v.transposeSrc).k i).map (·.1)) v.dst.rows := by
  have start := (touchTrfOp_read b v.transposeSrc).trans (rows_read _ v.dst.rows)
  rw [transpose_eq]
  generalize (b.touchTrfOp v.transposeSrc).k = k
  refine (foldl_range_invariant (fun n (x : Eff) => x.k.tiles = b.k.tiles ∧ RowsWritten b.k.trf.data x.k.trf.data
    (v.dst.addr b.k.tiles) _ (fun i => (transposedRow v k i).map (·.1)) n) ?_ ?_).2
  · refine ⟨start.tiles, ?_⟩
    rw [start.data]
    exact .zero hwf
  · rintro i x - ⟨htiles, hrows⟩
    refine ⟨htiles, ?_⟩
    rw [Eff.transposeRow, Eff.writeTrf, Store.write_data, htiles]
    exact hrows.succ (transposedRow_length v k i) fun j hj => .inl (v.dst.rows_apart hrow _ hfit hj)

theorem Store.elemBits_congr {st st' : Store} (h : st.data = st'.data) (skew a j bits : Nat) :
    (st.elemBits skew a j bits).1 = (st'.elemBits skew a j bits).1 := by
  simp only [Store.elemBits, h]

/-- The elements of a destination row take up no more bytes than the row has. -/
theorem row_bytes_le (v : VecOp) : (v.e * codeBits v.dst.fmt + 7) / 8 ≤ v.dst.bytes := by
  have whole : v.e * codeBits v.dst.fmt ≤ v.dst.bytes * 8 := Nat.div_mul_le_self _ _
  omega

theorem transpose_elements {v : VecOp} {b : Eff} (hwf : Mem.wf b.k.trf.data = true) (hfmt : v.transposeSrc.fmt = v.dst.fmt)
    (hrow : 0 ≤ v.dst.row0) (hfit : v.dst.byte0 + v.dst.bytes ≤ tilePitch (tileOf b.k.tiles v.dst.tile)) {i j : Nat}
    (hi : i < v.dst.rows) (hj : j < v.e) :
    ((b.transpose v).k.trf.elemBits 0 (v.dst.addr b.k.tiles i) j (codeBits v.dst.fmt)).1 =
      (b.k.trf.elemBits 0 (v.transposeSrc.addr b.k.tiles j) i (codeBits v.dst.fmt)).1 := by
  have rows := transpose_rows hwf hrow ((Nat.add_le_add_left (row_bytes_le v) _).trans hfit)
  have row := rows.bytes i hi
  have read := touchTrfOp_read b v.transposeSrc
  generalize (b.touchTrfOp v.transposeSrc) = e at row read
  have fits : ∀ x ∈ (List.range v.e).map (fun j => e.k.trfBits v.transposeSrc j i), x.1 < 2 ^ codeBits v.dst.fmt := by
    rw [← hfmt]
    exact List.forall_mem_map.2 fun _ _ => Nat.mod_lt _ (Nat.two_pow_pos _)
  rw [← transposedRow_length v e.k i, List.length_map] at row
  rw [Store.elemBits_of_packRow row fits (by simpa using hj)]
  simp only [List.getElem_map, List.getElem_range, CoreSt.trfBits, hfmt, read.tiles]
  exact Store.elemBits_congr read.data _ _ _ _

/-! ### The four operations -/

/-- Settles O31: the moves and TRANSPOSE write row after row, and rows that lie apart leave one another as written. -/
theorem tileMicroOps : Obligations.TileMicroOps := by
  rintro s c gap o v b d hheads rfl rfl rfl htrf hls
  refine ⟨fun hcode => ?tilecfg, fun hcode => ⟨_, congrArg Host.Outcome.next (onCore_vecRow hheads hcode _), ?moveIn⟩,
    fun hcode => ⟨_, congrArg Host.Outcome.next (onCore_vecRow hheads hcode _), ?moveOut⟩,
    fun hcode => ⟨_, congrArg Host.Outcome.next (onCore_vecRow hheads hcode _), ?transpose⟩⟩
  case tilecfg =>
    have index : o.vec.auxF 52 48 = o.vec.aux % 32 := rfl
    have stored : tileStored (wField o.vec.s0 31 0) = o.vec.s0.setWidth 32 &&& 0x8FFFFFBF#32 := by
      have low : BitVec.ofNat 32 (wField o.vec.s0 31 0) = o.vec.s0.setWidth 32 := by
        apply BitVec.eq_of_toNat_eq
        simp [wField, bitsOf]
      rw [tileStored, low]
    rw [← index, ← stored]
    exact congrArg Host.Outcome.next (onCore_vecRow hheads hcode _)
  case moveIn =>
    obtain ⟨ls, trf, g, he, hdata⟩ := moveIn_movedIn (begunBy s c gap o) o.vec
    refine ⟨?_, ?_, ?_, fun hmx hrow hfit => ?_⟩
    · rw [he]
    · rw [he]
      exact hdata
    · rw [he]
      rfl
    · have rows := moveIn_rows hmx htrf hrow hfit
      exact ⟨fun i j hi hj => Mem.rd_of_bytes_eq (rows.bytes i hi) hj, rows.others⟩
  case moveOut =>
    obtain ⟨ls, trf, feeders, g, he, hdata⟩ := moveOut_movedOut (begunBy s c gap o) o.vec
    refine ⟨?_, ?_, ?_, fun hmx f x => ?_, fun hmx hstride => ?_⟩
    · rw [he]
    · rw [he]
      exact hdata
    · rw [he]
      rfl
    · rw [moveOut_feeders hmx]
      exact and_congr Iff.rfl ⟨fun h i j hi hj => h i hi j hj, fun h i hi j hj => h i j hi hj⟩
    · have rows := moveOut_rows hmx hls hstride
      exact ⟨fun i j hi hj => Mem.rd_of_bytes_eq (rows.bytes i hi) hj, rows.others⟩
  case transpose =>
    obtain ⟨trf, g, he⟩ := transpose_changed (begunBy s c gap o) o.vec
    refine ⟨?_, ?_, fun _ hfmt hrow hfit i j hi hj => transpose_elements htrf hfmt hrow hfit hi hj⟩
    · rw [he]
    · rw [he]
      rfl

end Sys2Proof.Machine
end

section
/-! The Loom (R80, R85, R95 to R99, R108 to R112, R118 to R123): what the end of invocations leaves alone, how a fault stops the
splitting, and what the Loom's three commands do. -/

namespace Sys2Proof.Machine

/-! ### The end of invocations (R99, R142, R143) -/

/-- The core with the fields that ending invocations changes, and its Gauger, taken from `y`. -/
def CoreSt.withEnded (k y : CoreSt) : CoreSt :=
  { k with
    flights := y.flights, invFaults := y.invFaults, invLastFault := y.invLastFault, invDone := y.invDone,
    endedAhead := y.endedAhead, gauger := y.gauger, evPending := y.evPending, note := y.note }

/-- From `e` to `e'` invocations have ended and the Gauger has counted. -/
structure Ends (e e' : Eff) : Prop where
  core : e'.k = e.k.withEnded e'.k
  id : e'.id = e.id
  occ : e'.occ = e.occ

/-- The core's step with another word being split. -/
def Eff.withSplitting (e : Eff) (sp : Option Splitting) : Eff := { e with k := { e.k with splitting := sp } }

namespace Ends

variable {a b c e e' : Eff}

theorem refl (e : Eff) : Ends e e := ⟨rfl, rfl, rfl⟩

/-- What the end of invocations does not change reads as before. -/
theorem read {β : Type} (h : Ends e e') (f : CoreSt → β)
    (hf : ∀ k z, f (CoreSt.withEnded k z) = f k := by exact fun _ _ => rfl) : f e'.k = f e.k := by
  rw [h.core]
  exact hf _ _

theorem trans (h : Ends a b) (h' : Ends b c) : Ends a c := by
  refine ⟨?_, h'.id.trans h.id, h'.occ.trans h.occ⟩
  have hc := h'.core
  rw [h.core] at hc
  exact hc

theorem withSplitting (h : Ends a b) (sp : Option Splitting) : Ends (a.withSplitting sp) (b.withSplitting sp) :=
  ⟨congrArg (fun k : CoreSt => { k with splitting := sp }) h.core, h.id, h.occ⟩

theorem foldl {α : Type} {f : Eff → α → Eff} (h : ∀ e x, Ends e (f e x)) (l : List α) (e : Eff) : Ends e (l.foldl f e) := by
  induction l generalizing e with
  | nil => exact .refl e
  | cons x l ih => exact (h e x).trans (ih (f e x))

end Ends

/-- The core's step with other invocations in progress. -/
def Eff.withFlights (e : Eff) (fl : List Flight) : Eff := { e with k := { e.k with flights := fl } }

theorem withFlights_ends (e : Eff) (fl : List Flight) : Ends e (e.withFlights fl) := ⟨rfl, rfl, rfl⟩

theorem endInv_ends (e : Eff) (f : Flight) : Ends e (e.endInv f) := by
  unfold Eff.endInv
  dsimp only
  split_ifs <;> exact ⟨rfl, rfl, rfl⟩

theorem settle_ends (e : Eff) : Ends e e.settle :=
  (withFlights_ends e (e.k.flights.filter (fun f => !e.k.flightOver f))).trans (Ends.foldl endInv_ends _ _)

theorem endInv_flights (e : Eff) (f : Flight) : (e.endInv f).k.flights = e.k.flights := by
  unfold Eff.endInv
  dsimp only
  split_ifs <;> rfl

theorem settle_eq (e : Eff) : e.settle = (e.k.flights.filter e.k.flightOver).foldl (fun e f => e.endInv f)
    (e.withFlights (e.k.flights.filter (fun f => !e.k.flightOver f))) := rfl

theorem settle_flights (e : Eff) : e.settle.k.flights = e.k.flights.filter (fun f => !e.k.flightOver f) :=
  List.foldlRecOn (motive := fun x : Eff => x.k.flights = _) (e.k.flights.filter e.k.flightOver) _ rfl
    fun x hx f _ => (endInv_flights x f).trans hx

theorem endInv_invLastFault (e : Eff) (f : Flight) :
    (e.endInv f).k.invLastFault = if f.fault = true ∧ f.first = true then BitVec.ofNat 48 f.num else e.k.invLastFault := by
  unfold Eff.endInv
  dsimp only
  split_ifs <;> simp_all [Eff.setPending]

/-- The last of the ended invocations that faulted first is the one CORE_INV_LAST_FAULT names (R143). -/
theorem endInvs_invLastFault {f : Flight} (hfault : f.fault = true) (hfirst : f.first = true) (l₁ : List Flight) {l₂ : List Flight}
    (hrest : ∀ g ∈ l₂, g.first = false) (e : Eff) :
    ((l₁ ++ f :: l₂).foldl (fun e f => e.endInv f) e).k.invLastFault = BitVec.ofNat 48 f.num := by
  rw [List.foldl_append, List.foldl_cons]
  refine List.foldlRecOn (motive := fun x : Eff => x.k.invLastFault = _) l₂ _ ?_ fun x hx g hg => ?_
  · rw [endInv_invLastFault, if_pos ⟨hfault, hfirst⟩]
  · rw [endInv_invLastFault, if_neg (by simp [hrest g hg]), hx]

/-! ### The word being split (R99) -/

section
variable {e : Eff} {sp : Splitting}

theorem closeSplit_of_issue (h : e.k.splitting = some sp) (hissue : sp.issue ≠ none) : e.closeSplit = e := by
  simp [Eff.closeSplit, h, hissue]

theorem closeSplit_of_more (h : e.k.splitting = some sp) (hmore : sp.nextIdx < sp.req.len) (hrun : e.k.stopped sp.req.num = false) :
    e.closeSplit = e := by
  simp [Eff.closeSplit, h, hrun, hmore]

/-- Splitting ends after the last word, and where a fault has stopped the invocation. -/
theorem closeSplit_of_last (h : e.k.splitting = some sp) (hissue : sp.issue = none)
    (hlast : sp.req.len ≤ sp.nextIdx ∨ e.k.stopped sp.req.num = true) :
    e.closeSplit = ((e.withSplitting none).withFlights
      (e.k.flights.map (fun f => if f.num = sp.req.num then { f with split := true } else f))).settle := by
  simp only [Eff.closeSplit, h, hissue, Option.isNone_none, true_and, ge_iff_le, hlast, if_true]
  rfl

theorem closeSplit_ends_of_last (h : e.k.splitting = some sp) (hissue : sp.issue = none)
    (hlast : sp.req.len ≤ sp.nextIdx ∨ e.k.stopped sp.req.num = true) : Ends (e.withSplitting none) e.closeSplit := by
  rw [closeSplit_of_last h hissue hlast]
  exact (withFlights_ends _ _).trans (settle_ends _)

/-- A word of which nothing is left to issue: the next one is split, or splitting has ended. -/
theorem closeSplit_ends (h : e.k.splitting = some sp) (hissue : sp.issue = none) :
    Ends (e.withSplitting (if sp.nextIdx < sp.req.len ∧ e.k.stopped sp.req.num = false then some sp else none)) e.closeSplit := by
  split_ifs with hmore
  · rw [closeSplit_of_more h hmore.1 hmore.2, ← h]
    exact .refl e
  · refine closeSplit_ends_of_last h hissue ?_
    rw [not_and_or, not_lt, Bool.not_eq_false] at hmore
    exact hmore

end

theorem stopped_eq_false_iff {k : CoreSt} {num : Nat} : k.stopped num = false ↔ ∀ f ∈ k.flights, f.num = num → f.fault = false := by
  simp [CoreSt.stopped]

/-! ### A fault (R85, R94, R97, R143) -/

/-- An invocation in progress when invocation `num` faults and nothing of the word being split is left to issue; `cur` is the one
being split. -/
def Flight.faulted (num : Nat) (drain : Bool) (cur : Option Nat) (f : Flight) : Flight :=
  if f.num = num then { f with split := true, first := f.first || !f.fault, fault := true, drains := f.drains || drain }
  else if some f.num = cur then { f with split := true, fault := true } else f

/-- A queued invocation that ends with one that faulted. -/
def Flight.behind (r : InvReq) : Flight := ⟨r.num, 0, true, true, false, false⟩

/-- The core's step with nothing queued, nothing being split and other invocations in progress. -/
def Eff.stoppedSplit (e : Eff) (fl : List Flight) : Eff :=
  { e with k := { e.k with flights := fl, invQueue := [], splitting := none } }

/-- The invocation that faults is in progress, and nothing of the word being split is left to issue: the queue is emptied and
splitting ends. -/
theorem faultInv_eq {e : Eff} {num : Nat} {drain : Bool} (hflight : ∃ f ∈ e.k.flights, f.num = num)
    (hissue : ∀ sp, e.k.splitting = some sp → sp.issue = none) :
    e.faultInv num true drain = (e.stoppedSplit
      (e.k.flights.map (Flight.faulted num drain (e.k.splitting.map (·.req.num))) ++ e.k.invQueue.map Flight.behind)).settle := by
  have found : e.k.flights.any (fun f => decide (f.num = num)) = true := by simpa using hflight
  unfold Eff.faultInv
  rw [if_pos found]
  cases hsp : e.k.splitting with
  | none =>
    simp only [Option.isNone_none, Bool.or_true]
    rfl
  | some sp =>
    obtain ⟨r, i, issue⟩ := sp
    obtain rfl : issue = none := hissue _ hsp
    simp only [Option.isNone_none, true_or, if_true, Bool.or_true]
    rfl

theorem faultInv_ends {e : Eff} {num : Nat} {drain : Bool} (hflight : ∃ f ∈ e.k.flights, f.num = num)
    (hissue : ∀ sp, e.k.splitting = some sp → sp.issue = none) : Ends (e.stoppedSplit []) (e.faultInv num true drain) := by
  rw [faultInv_eq hflight hissue]
  exact (withFlights_ends (e.stoppedSplit []) _).trans (settle_ends _)

/-! ### The invocation boundary (R97, R98) -/

theorem boundaryOpen_iff {k : CoreSt} :
    k.boundaryOpen = true ↔ k.frozen = false ∧ k.splitting = none ∧ ∀ f ∈ k.flights, f.fault = false := by
  simp [CoreSt.boundaryOpen, and_assoc]

/-- An invocation that passes its boundary. -/
def Flight.entering (num : Nat) : Flight := ⟨num, 0, false, false, false, false⟩

/-- An invocation whose request ran past the pattern memory. -/
def Flight.ranPast (num : Nat) : Flight := ⟨num, 0, true, true, true, false⟩

/-- The core's step with the oldest request taken from the invocation queue. -/
def Eff.takeRequest (e : Eff) (r : InvReq) (rest : List InvReq) : Eff :=
  { e with k := { e.k with
      invQueue := rest, flights := e.k.flights ++ [Flight.entering r.num],
      gauger := { e.k.gauger with accounts := e.k.gauger.accounts ++ [{ num := r.num, began := e.k.cycle }] } } }

/-- The core's step with the invocation of `r` live and its first word to be split next. -/
def Eff.enter (e : Eff) (r : InvReq) : Eff := { e with k := { e.k with liveSlots := r.slots, splitting := some ⟨r, 0, none⟩ } }

section
variable {e : Eff} {r : InvReq} {rest : List InvReq}

theorem boundary_eq (hqueue : e.k.invQueue = r :: rest) (hopen : e.k.boundaryOpen = true) :
    e.boundary = if r.start + r.len > 4096
      then ((e.takeRequest r rest).raise 0x04 [wd e.id, wd r.num, wd (r.start + r.len * 2 ^ 16)]).faultInv r.num true false
      else ((e.takeRequest r rest).enter r).closeSplit := by
  simp only [Eff.boundary, hqueue, hopen, Bool.not_true, Bool.false_eq_true, if_false]
  rfl

theorem takeRequest_not_stopped (hopen : e.k.boundaryOpen = true) (num : Nat) :
    ((e.takeRequest r rest).enter r).k.stopped num = false := by
  obtain ⟨-, -, hflights⟩ := boundaryOpen_iff.1 hopen
  refine stopped_eq_false_iff.2 fun f hf _ => ?_
  rcases List.mem_append.1 hf with hf | hf
  · exact hflights f hf
  · rw [List.mem_singleton.1 hf]
    rfl

theorem boundary_of_fits (hqueue : e.k.invQueue = r :: rest) (hopen : e.k.boundaryOpen = true) (hfit : r.start + r.len ≤ 4096)
    (hlen : 0 < r.len) : e.boundary = (e.takeRequest r rest).enter r := by
  rw [boundary_eq hqueue hopen, if_neg (by omega)]
  exact closeSplit_of_more rfl hlen (takeRequest_not_stopped hopen _)

theorem boundary_of_empty (hqueue : e.k.invQueue = r :: rest) (hopen : e.k.boundaryOpen = true) (hfit : r.start ≤ 4096)
    (hlen : r.len = 0) : Ends (((e.takeRequest r rest).enter r).withSplitting none) e.boundary := by
  rw [boundary_eq hqueue hopen, if_neg (by omega)]
  exact closeSplit_ends_of_last rfl rfl (.inl hlen.le)

/-- The request that runs past the pattern memory, raised as INVOKE_RANGE (R97). -/
def Eff.rangeRaised (e : Eff) (r : InvReq) (rest : List InvReq) : Eff :=
  (e.takeRequest r rest).raise 0x04 [wd e.id, wd r.num, wd (r.start + r.len * 2 ^ 16)]

theorem boundary_of_range (hqueue : e.k.invQueue = r :: rest) (hopen : e.k.boundaryOpen = true) (hrange : 4096 < r.start + r.len) :
    e.boundary = ((e.rangeRaised r rest).stoppedSplit
      ((e.k.flights ++ [Flight.entering r.num]).map (Flight.faulted r.num false none) ++ rest.map Flight.behind)).settle := by
  obtain ⟨-, hsplit, -⟩ := boundaryOpen_iff.1 hopen
  have fresh : (e.rangeRaised r rest).k.splitting = none := hsplit
  rw [boundary_eq hqueue hopen, if_pos hrange]
  have inFlight : ∃ f ∈ (e.rangeRaised r rest).k.flights, f.num = r.num :=
    ⟨_, List.mem_append_right _ (List.mem_singleton_self _), rfl⟩
  refine (faultInv_eq inFlight ?_).trans ?_
  · rw [fresh]
    exact fun _ h => nomatch h
  · rw [fresh]
    rfl

theorem faulted_of_ne {num : Nat} {f : Flight} (h : f.num ≠ num) (drain : Bool) : f.faulted num drain none = f := by
  simp [Flight.faulted, h]

/-- The invocations in progress once one that ran past the pattern memory has faulted, where no other has its number. -/
theorem faulted_flights {num : Nat} {fl : List Flight} (hfl : ∀ f ∈ fl, f.num ≠ num) :
    (fl ++ [Flight.entering num]).map (Flight.faulted num false none) = fl ++ [Flight.ranPast num] := by
  rw [List.map_append, List.map_congr_left fun f hf => faulted_of_ne (hfl f hf) false, List.map_id']
  simp [Flight.faulted, Flight.entering, Flight.ranPast]

/-- An invocation that ran past the pattern memory ends at once, as the one that faulted last (R97, R143). -/
theorem boundary_of_range_ended (hqueue : e.k.invQueue = r :: rest) (hopen : e.k.boundaryOpen = true)
    (hrange : 4096 < r.start + r.len) (hflights : ∀ f ∈ e.k.flights, f.num ≠ r.num) (hrest : ∀ x ∈ rest, x.num ≠ r.num) :
    (∀ f ∈ e.boundary.k.flights, f.num ≠ r.num) ∧ e.boundary.k.invLastFault = BitVec.ofNat 48 r.num := by
  rw [boundary_of_range hqueue hopen hrange, faulted_flights hflights]
  generalize hx : (e.rangeRaised r rest).stoppedSplit _ = x
  have inFlight : x.k.flights = e.k.flights ++ [Flight.ranPast r.num] ++ rest.map Flight.behind := by
    rw [← hx]
    rfl
  have ended : x.k.flightOver (Flight.ranPast r.num) = true := by simp [CoreSt.flightOver, Flight.ranPast]
  constructor
  · intro f hf
    rw [settle_flights, inFlight] at hf
    obtain ⟨hmem, hleft⟩ := List.mem_filter.1 hf
    rcases List.mem_append.1 hmem with hmem | hmem
    · rcases List.mem_append.1 hmem with hmem | hmem
      · exact hflights f hmem
      · rw [List.mem_singleton.1 hmem, ended] at hleft
        exact nomatch hleft
    · obtain ⟨q, hq, rfl⟩ := List.mem_map.1 hmem
      exact hrest q hq
  · rw [settle_eq, inFlight, List.append_assoc, List.filter_append (p := x.k.flightOver), List.singleton_append,
      List.filter_cons_of_pos ended]
    refine endInvs_invLastFault rfl rfl _ (fun g hg => ?_) _
    obtain ⟨q, -, rfl⟩ := List.mem_map.1 (List.mem_filter.1 hg).1
    rfl

theorem boundary_of_range_ends (hqueue : e.k.invQueue = r :: rest) (hopen : e.k.boundaryOpen = true)
    (hrange : 4096 < r.start + r.len) : Ends ((e.rangeRaised r rest).stoppedSplit []) e.boundary := by
  rw [boundary_of_range hqueue hopen hrange]
  exact (withFlights_ends ((e.rangeRaised r rest).stoppedSplit []) _).trans (settle_ends _)

theorem boundary_of_closed (h : e.k.invQueue = [] ∨ e.k.boundaryOpen = false) : e.boundary = e := by
  unfold Eff.boundary
  split
  · rfl
  · rcases h with h | h
    · simp_all
    · simp [h]

end

/-! ### Splitting a word (R80, R85, R95, R102) -/

theorem Engine.mem_all (g : Engine) : g ∈ Engine.all := by
  cases g <;> decide

/-- Does a word of repeat count `n` send anything to an engine's queue: a micro-op or a marker (R108)? -/
def wordReceived (w : BitVec 256) (n : Nat) : Prop := ∃ g : Engine, (n ≠ 0 ∧ opField w g ≠ 0) ∨ namedEngine w g = true

theorem wordReceived_iff (w : BitVec 256) (n : Nat) :
    (Engine.all.any fun g => (n ≠ 0 && opField w g ≠ 0) || namedEngine w g) = true ↔ wordReceived w n := by
  simp [wordReceived, Engine.mem_all]

/-- The step of a core that reads the word at a pattern-memory index, its corrected errors counted (R95). -/
def Eff.readWord (e : Eff) (pi : Nat) : Eff := e.count 0x037 (e.k.wordSingle pi)

/-- The misfit of the next word (R86), its operands those the Loom latches with it. -/
def CoreSt.nextMisfit (k : CoreSt) (w : BitVec 256) : Option (Engine × Misfit) :=
  wordMisfit w k.liveSlots (k.descs.get 0 (cwField w 44 39)) (k.descs.get 0 (cwField w 20 15)) (wordRepeat w k.liveSlots) 0 k.splitTiles
    (if wordRepeat w k.liveSlots = 0 then codeMisfit w else none)

/-- The word as it is latched for issue (R102). -/
def CoreSt.latchWord (k : CoreSt) (i : Nat) (w : BitVec 256) : Issue :=
  ⟨i, max (wordRepeat w k.liveSlots) 1, 0, w, k.liveSlots, k.descs.get 0 (cwField w 44 39), k.descs.get 0 (cwField w 20 15), k.splitTiles⟩

/-- The tile table after all the repeats of a word (R80). -/
def CoreSt.wordTiles (k : CoreSt) (w : BitVec 256) : Tab Word32 :=
  (List.range (wordRepeat w k.liveSlots)).foldl (fun tl j => tilesAfter tl w k.liveSlots j) k.splitTiles

/-- The core's step with a word split, and what it issues next where it issues anything. -/
def Eff.latch (e : Eff) (r : InvReq) (i : Nat) (w : BitVec 256) (iss : Option Issue) : Eff :=
  { e with k := { e.k with splitting := some ⟨r, i + 1, iss⟩, splitTiles := e.k.wordTiles w } }

section
variable {e : Eff} {r : InvReq} {i : Nat} {w : BitVec 256}

/-- The next word of a running invocation may be split. -/
structure Splits (k : CoreSt) (r : InvReq) (i : Nat) : Prop where
  running : k.frozen = false
  splitting : k.splitting = some ⟨r, i, none⟩
  more : i < r.len
  inFlight : ∃ f ∈ k.flights, f.num = r.num
  sound : k.stopped r.num = false

theorem splitWord_of_double (h : Splits e.k r i) (hdouble : e.k.wordDouble (r.start + i) = true) :
    e.splitWord = (e.readWord (r.start + i)).misfit r 0x02 (detailWord e.id r.start i .array 0 0) := by
  simp only [Eff.splitWord, h.splitting, h.running, h.sound, h.more.not_ge, Bool.false_eq_true, or_self, if_false]
  exact if_pos hdouble

theorem splitWord_of_misfit (h : Splits e.k r i) (hdouble : e.k.wordDouble (r.start + i) = false) {g : Engine} {cause tile : Nat}
    (hmisfit : e.k.nextMisfit (e.k.patternWord (r.start + i)) = some (g, cause, tile)) :
    e.splitWord = (e.readWord (r.start + i)).misfit r 0x01 (detailWord e.id r.start i g cause tile) := by
  simp only [Eff.splitWord, h.splitting, h.running, h.sound, h.more.not_ge, Bool.false_eq_true, or_self, if_false]
  refine (if_neg (Bool.eq_false_iff.1 hdouble)).trans ?_
  split
  · next found =>
    cases found.symm.trans hmisfit
    rfl
  · next found => cases found.symm.trans hmisfit

theorem splitWord_of_fits (h : Splits e.k r i) (hdouble : e.k.wordDouble (r.start + i) = false)
    (hfits : e.k.nextMisfit (e.k.patternWord (r.start + i)) = none) :
    e.splitWord = ((e.readWord (r.start + i)).latch r i (e.k.patternWord (r.start + i))
      (if Engine.all.any (fun g => (wordRepeat (e.k.patternWord (r.start + i)) e.k.liveSlots ≠ 0 &&
          opField (e.k.patternWord (r.start + i)) g ≠ 0) || namedEngine (e.k.patternWord (r.start + i)) g)
        then some (e.k.latchWord i (e.k.patternWord (r.start + i))) else none)).closeSplit := by
  simp only [Eff.splitWord, h.splitting, h.running, h.sound, h.more.not_ge, Bool.false_eq_true, or_self, if_false]
  refine (if_neg (Bool.eq_false_iff.1 hdouble)).trans ?_
  split
  · next found => cases found.symm.trans hfits
  · rfl

/-- A word that misfits or holds a double-bit error: the event is raised, splitting ends, and the tile table of the checks stays. -/
theorem misfit_stops (h : Splits e.k r i) (code : Nat) (detail : Word) :
    ((e.readWord (r.start + i)).misfit r code detail).k.splitting = none ∧
      ((e.readWord (r.start + i)).misfit r code detail).k.splitTiles = e.k.splitTiles ∧
      ((e.readWord (r.start + i)).misfit r code detail).occ = e.occ ++ [⟨code, [detail, wd r.num]⟩] := by
  have ends : Ends _ ((e.readWord (r.start + i)).misfit r code detail) :=
    faultInv_ends (e := (e.readWord (r.start + i)).raise code [detail, wd r.num]) h.inFlight
      fun sp hsp => by rw [Option.some.inj (hsp.symm.trans h.splitting)]
  exact ⟨ends.read (·.splitting), ends.read (·.splitTiles), ends.occ⟩

theorem latch_received {iss : Issue} : ((e.latch r i w (some iss)).closeSplit) = e.latch r i w (some iss) :=
  closeSplit_of_issue rfl (Option.some_ne_none iss)

theorem latch_unreceived (hsound : e.k.stopped r.num = false) :
    Ends ((e.latch r i w none).withSplitting (if i + 1 < r.len then some ⟨r, i + 1, none⟩ else none))
      (e.latch r i w none).closeSplit := by
  have ends := closeSplit_ends (e := e.latch r i w none) (sp := ⟨r, i + 1, none⟩) rfl rfl
  have sound : (e.latch r i w none).k.stopped r.num = false := hsound
  simpa only [sound, and_true] using ends

/-- A word that fits is latched with its slots, descriptors and tiles; one that sends nothing is done with. -/
theorem splitWord_fits (h : Splits e.k r i) (hdouble : e.k.wordDouble (r.start + i) = false) (hw : e.k.patternWord (r.start + i) = w)
    (hfits : e.k.nextMisfit w = none) :
    e.splitWord.k.splitTiles = e.k.wordTiles w ∧ e.splitWord.occ = e.occ ∧
      (wordReceived w (wordRepeat w e.k.liveSlots) → e.splitWord.k.splitting = some ⟨r, i + 1, some (e.k.latchWord i w)⟩) ∧
      (¬ wordReceived w (wordRepeat w e.k.liveSlots) →
        e.splitWord.k.splitting = if i + 1 < r.len then some ⟨r, i + 1, none⟩ else none) := by
  subst hw
  rw [splitWord_of_fits h hdouble hfits]
  by_cases received : wordReceived (e.k.patternWord (r.start + i)) (wordRepeat (e.k.patternWord (r.start + i)) e.k.liveSlots)
  · rw [if_pos ((wordReceived_iff _ _).2 received), latch_received]
    exact ⟨rfl, rfl, fun _ => rfl, fun no => absurd received no⟩
  · rw [if_neg (mt (wordReceived_iff _ _).1 received)]
    have ends := latch_unreceived (e := e.readWord (r.start + i)) (i := i) (w := e.k.patternWord (r.start + i)) h.sound
    exact ⟨ends.read (·.splitTiles), ends.occ, fun yes => absurd yes received, fun _ => ends.read (·.splitting)⟩

end

/-! ### Issuing a word (R108 to R112, R119, R120) -/

/-- The core with entries at the end of their engines' queues. -/
def CoreSt.enqueue (k : CoreSt) (es : List MicroOp) : CoreSt := es.foldl (fun k o => k.setQueue o.eng (k.queue o.eng ++ [o])) k

theorem Engine.code_inj {g h : Engine} : g.code = h.code ↔ g = h := by
  cases g <;> cases h <;> decide

theorem queue_setQueue (k : CoreSt) (g h : Engine) (q : List MicroOp) : (k.setQueue g q).queue h = if h = g then q else k.queue h := by
  simp only [CoreSt.queue, CoreSt.setQueue, Tab.get_set, Engine.code_inj]

theorem enqueue_queue (es : List MicroOp) (k : CoreSt) (g : Engine) :
    (k.enqueue es).queue g = k.queue g ++ es.filter (fun o => o.eng = g) := by
  induction es generalizing k with
  | nil => exact (List.append_nil _).symm
  | cons o es ih =>
    refine (ih (k.setQueue o.eng (k.queue o.eng ++ [o]))).trans ?_
    rw [queue_setQueue]
    by_cases h : o.eng = g
    · subst h
      simp
    · simp [h, Ne.symm h]

theorem enqueue_eq (es : List MicroOp) (k : CoreSt) : k.enqueue es = { k with queues := (k.enqueue es).queues } :=
  List.foldlRecOn (motive := fun x : CoreSt => x = { k with queues := x.queues }) es _ rfl fun x hx o _ => by rw [hx]; rfl

/-- Queueing entries changes no part of the core but the queues. -/
theorem enqueue_read {β : Type} (es : List MicroOp) (k : CoreSt) (f : CoreSt → β)
    (hf : ∀ k q, f { k with queues := q } = f k := by exact fun _ _ => rfl) : f (k.enqueue es) = f k := by
  rw [enqueue_eq]
  exact hf _ _

theorem sampleIssue_ends (e : Eff) (o : MicroOp) : Ends e (e.sampleIssue o) := by
  unfold Eff.sampleIssue
  dsimp only
  split_ifs <;> exact ⟨rfl, rfl, rfl⟩

theorem sampleIssue_flights (e : Eff) (o : MicroOp) : (e.sampleIssue o).k.flights = e.k.flights := by
  unfold Eff.sampleIssue
  dsimp only
  split_ifs <;> rfl

theorem samples_flights (es : List MicroOp) (e : Eff) : (es.foldl Eff.sampleIssue e).k.flights = e.k.flights :=
  List.foldlRecOn (motive := fun x : Eff => x.k.flights = _) es _ rfl fun x hx o _ => (sampleIssue_flights x o).trans hx

/-- An invocation in progress with `n` entries more in the queues. -/
def Flight.sent (num n : Nat) (f : Flight) : Flight := if f.num = num then { f with left := f.left + n } else f

theorem stopped_sent (k : CoreSt) (num n m : Nat) :
    ({ k with flights := k.flights.map (Flight.sent num n) } : CoreSt).stopped m = k.stopped m := by
  have same : ∀ f : Flight, (f.sent num n).num = f.num ∧ (f.sent num n).fault = f.fault := by
    intro f
    unfold Flight.sent
    split <;> exact ⟨rfl, rfl⟩
  simp [CoreSt.stopped, List.any_map, Function.comp_def, same]

/-- The tile table after the next issue of a word (R80). -/
def Issue.tilesNext (x : Issue) : Tab Word32 := if wordRepeat x.word x.slots = 0 then x.tiles else tilesAfter x.tiles x.word x.slots x.next

/-- The tile table that a micro-op of the next issue sees (R80). -/
def Issue.tilesFor (x : Issue) : Engine → Tab Word32
  | .array | .vector => x.tiles
  | _ => x.tilesNext

/-- The scoreboard entries of the next issue (R123). -/
def Issue.board (x : Issue) (es : List MicroOp) : List SbEntry := (es.filter (·.takesEntry)).map (fun o => o.entry (x.tilesFor o.eng))

theorem Issue.board_uids (x : Issue) (es : List MicroOp) : (x.board es).map (·.uid) = (es.filter (·.takesEntry)).map (·.uid) := by
  rw [Issue.board, List.map_map]
  rfl

/-- What is left of a word after its next issue. -/
def Issue.rest (x : Issue) : Option Issue := if x.next + 1 < x.total then some { x with next := x.next + 1, tiles := x.tilesNext } else none

/-- The core's step with the entries of a word's next issue queued, its scoreboard entries made, and what is left of its word. -/
def Eff.send (e : Eff) (gap : Nat) (r : InvReq) (nx : Nat) (x : Issue) (es : List MicroOp) : Eff :=
  let k := ({ e.k with cycle := (e.k.cycle + gap) % 2 ^ 64 } : CoreSt).enqueue es
  { e with k := { k with
      nextUid := k.nextUid + 5, scoreboard := k.scoreboard ++ x.board es, flights := k.flights.map (Flight.sent r.num es.length),
      splitting := some ⟨r, nx, x.rest⟩ } }

section
variable {e : Eff} {r : InvReq} {nx gap : Nat} {x : Issue} {es : List MicroOp}

theorem issueInstance_of_no_room (hsplit : e.k.splitting = some ⟨r, nx, some x⟩) (hes : es = instanceEntries r x e.k.nextUid)
    (h : e.k.frozen = true ∨ e.k.queueRoom es = false ∨ e.k.boardRoom es = false) : e.issueInstance gap = e := by
  subst hes
  simp only [Eff.issueInstance, hsplit]
  refine if_pos ?_
  simpa using h

theorem issueInstance_eq (hsplit : e.k.splitting = some ⟨r, nx, some x⟩) (hes : es = instanceEntries r x e.k.nextUid)
    (hrun : e.k.frozen = false) (hqueue : e.k.queueRoom es = true) (hboard : e.k.boardRoom es = true) :
    e.issueInstance gap = (es.foldl Eff.sampleIssue (e.send gap r nx x es)).closeSplit := by
  subst hes
  unfold Eff.issueInstance
  split
  · next found =>
    cases found.symm.trans hsplit
    exact if_neg (by simp [hrun, hqueue, hboard])
  · next other => exact absurd hsplit (other r nx x)

theorem send_stopped (num : Nat) : (e.send gap r nx x es).k.stopped num = e.k.stopped num := by
  have queued : (({ e.k with cycle := (e.k.cycle + gap) % 2 ^ 64 } : CoreSt).enqueue es).stopped num = e.k.stopped num :=
    enqueue_read es _ (·.stopped num)
  exact (stopped_sent _ _ _ _).trans queued

/-- What is being split after an issue: the rest of its word, the next word, or nothing. -/
theorem issueInstance_ends (hsplit : e.k.splitting = some ⟨r, nx, some x⟩) (hes : es = instanceEntries r x e.k.nextUid)
    (hrun : e.k.frozen = false) (hqueue : e.k.queueRoom es = true) (hboard : e.k.boardRoom es = true) :
    Ends ((e.send gap r nx x es).withSplitting
      (if x.next + 1 < x.total then some ⟨r, nx, x.rest⟩
        else if nx < r.len ∧ e.k.stopped r.num = false then some ⟨r, nx, none⟩ else none)) (e.issueInstance gap) := by
  rw [issueInstance_eq hsplit hes hrun hqueue hboard]
  have sampled : Ends (e.send gap r nx x es) (es.foldl Eff.sampleIssue (e.send gap r nx x es)) := Ends.foldl sampleIssue_ends es _
  have splitting : (es.foldl Eff.sampleIssue (e.send gap r nx x es)).k.splitting = some ⟨r, nx, x.rest⟩ := sampled.read (·.splitting)
  by_cases hmore : x.next + 1 < x.total
  · rw [if_pos hmore, closeSplit_of_issue splitting (by simp [Issue.rest, hmore])]
    exact sampled
  · have left : x.rest = none := if_neg hmore
    have ends := closeSplit_ends splitting left
    have stopped : (es.foldl Eff.sampleIssue (e.send gap r nx x es)).k.stopped r.num = e.k.stopped r.num := by
      rw [← send_stopped (e := e) (gap := gap) (r := r) (nx := nx) (x := x) (es := es), CoreSt.stopped, samples_flights, CoreSt.stopped]
    rw [stopped, left] at ends
    rw [if_neg hmore]
    exact (sampled.withSplitting _).trans ends

end

/-! ### The queue mode (R121) -/

theorem switchMode_of_empty {e : Eff} (hqueues : ∀ g, e.k.queue g = []) (hinv : e.k.invQueue = []) (hsplit : e.k.splitting = none) :
    e.switchMode = { e with k := { e.k with queueMode := e.k.queueModeWanted } } := by
  have empty : e.k.queuesEmpty = true := by simp [CoreSt.queuesEmpty, hqueues]
  simp only [Eff.switchMode, empty, hinv, hsplit, List.isEmpty_nil, Option.isNone_none, Bool.and_self, if_true]

/-! ### The Loom's commands -/

/-- The step of a core of the module as it begins. -/
def State.coreEff (s : State) (c : Nat) : Eff := ⟨c, s.core c, []⟩

/-- What neither the passing of cycles nor the end of invocations changes reads as the step left it before them. -/
theorem Lands.read {s t : State} {c : Nat} {e e' : Eff} {β : Type} (h : Lands s t c e') (h' : Ends e e') (f : CoreSt → β)
    (hpass : ∀ k z, f (CoreSt.withAside k z) = f k := by exact fun _ _ => rfl)
    (hend : ∀ k z, f (CoreSt.withEnded k z) = f k := by exact fun _ _ => rfl) : f (t.core c) = f e.k :=
  (h.core.read f hpass).trans (h'.read f hend)

theorem Lands.raised {s t : State} {c : Nat} {e : Eff} {occ : List Occurrence} (h : Lands s t c e) (hocc : e.occ = occ) :
    t = { s with cores := t.cores, occurrences := s.occurrences ++ occ } := hocc ▸ h.rest

theorem Lands.quiet {s t : State} {c : Nat} {e : Eff} (h : Lands s t c e) (hocc : e.occ = []) : t = { s with cores := t.cores } := by
  have rest := h.raised hocc
  rwa [List.append_nil] at rest

section
variable {s : State} {c : Nat} (hruns : s.coreRuns c = true) {f : Eff → Eff}
include hruns

/-- A step of a running core that is `e'`, and raises nothing. -/
theorem onCore_coreAt_of_eq {e' : Eff} (h : f (s.coreEff c) = e') (hocc : e'.occ = []) {k : CoreSt} (hcore : Aside k e'.k) :
    CoreAt s (s.onCore c f) c k := by
  subst h
  exact onCore_coreAt hruns f hcore hocc

end

/-- A word that issues nothing: its fault's event is raised, and splitting has ended. -/
theorem splitWord_lands_stopped {s : State} {c : Nat} (hruns : s.coreRuns c = true) {r : InvReq} {i code : Nat} {detail : Word}
    (h : Splits (s.core c) r i) (heq : (s.coreEff c).splitWord = ((s.coreEff c).readWord (r.start + i)).misfit r code detail) :
    ((s.onCore c Eff.splitWord).core c).splitting = none ∧
      ((s.onCore c Eff.splitWord).core c).splitTiles = (s.core c).splitTiles ∧
      s.onCore c Eff.splitWord = { s with
        cores := (s.onCore c Eff.splitWord).cores, occurrences := s.occurrences ++ [⟨code, [detail, wd r.num]⟩] } := by
  have lands := onCore_lands hruns Eff.splitWord
  obtain ⟨hsplitting, htiles, hocc⟩ := misfit_stops (e := s.coreEff c) h code detail
  rw [← heq] at hsplitting htiles hocc
  exact ⟨(lands.core.read (·.splitting)).trans hsplitting, (lands.core.read (·.splitTiles)).trans htiles, lands.raised hocc⟩

/-- Settles O25: each command is one operation of the Loom, landed in the module. -/
theorem loomWork : Obligations.LoomWork := by
  refine ⟨?boundary, ?split, ?issue⟩
  case boundary =>
    rintro s c k rfl hruns
    have lands := onCore_lands hruns Eff.boundary
    refine ⟨fun r rest hqueue hopen => ⟨fun hfit hlen => ⟨_, rfl, ?fits⟩, fun hfit hlen => ⟨_, rfl, ?empty⟩,
        fun hrange => ⟨_, rfl, ?range⟩⟩,
      fun hclosed => ⟨_, rfl, ?closed⟩, fun hqueues hinv hsplit => ⟨_, rfl, ?switch⟩⟩
    case fits => exact onCore_coreAt_of_eq hruns (boundary_of_fits (e := s.coreEff c) hqueue hopen hfit hlen) rfl rfl
    case empty =>
      have ends := boundary_of_empty (e := s.coreEff c) hqueue hopen hfit hlen
      exact ⟨lands.read ends (·.invQueue), lands.read ends (·.liveSlots),
        lands.read ends (·.splitting), lands.quiet ends.occ⟩
    case range =>
      have ends := boundary_of_range_ends (e := s.coreEff c) hqueue hopen hrange
      refine ⟨lands.read ends (·.invQueue),
        lands.read ends (·.splitting), fun hflights hrest => ?_, lands.raised ends.occ⟩
      rw [lands.core.read (·.flights), lands.core.read (·.invLastFault)]
      exact boundary_of_range_ended (e := s.coreEff c) hqueue hopen hrange hflights hrest
    case closed =>
      refine onCore_coreAt_of_eq hruns (boundary_of_closed (e := s.coreEff c) (hclosed.imp id fun h => ?_)) rfl rfl
      rw [← Bool.not_eq_true, boundaryOpen_iff]
      rintro ⟨hrun, hsplit, hsound⟩
      obtain h | h | ⟨f, hf, h⟩ := h
      · exact absurd (hrun.symm.trans h) Bool.false_ne_true
      · exact h hsplit
      · exact absurd ((hsound f hf).symm.trans h) Bool.false_ne_true
    case switch => exact onCore_coreAt_of_eq hruns (switchMode_of_empty (e := s.coreEff c) hqueues hinv hsplit) rfl rfl
  case split =>
    rintro s c k r i w n rfl hruns hrun hsplit hmore hflight hsound rfl rfl
    have h : Splits (s.core c) r i := ⟨hrun, hsplit, hmore, hflight, stopped_eq_false_iff.2 hsound⟩
    have lands := onCore_lands hruns Eff.splitWord
    refine ⟨_, rfl, fun hdouble => splitWord_lands_stopped hruns h (splitWord_of_double h hdouble), fun hdouble =>
      ⟨fun g cause tile hmisfit => splitWord_lands_stopped hruns h (splitWord_of_misfit h hdouble hmisfit), fun hfits => ?_⟩⟩
    obtain ⟨htiles, hocc, hreceived, hunreceived⟩ := splitWord_fits (e := s.coreEff c) h hdouble rfl hfits
    exact ⟨(lands.core.read (·.splitTiles)).trans htiles, lands.quiet hocc,
      fun received => (lands.core.read (·.splitting)).trans (hreceived received),
      fun nowhere => (lands.core.read (·.splitting)).trans (hunreceived (not_exists.2 nowhere))⟩
  case issue =>
    rintro s c gap k r nx x es rfl hruns hsplit hes
    refine ⟨fun hfull => ⟨_, rfl, ?full⟩, fun hrun hqueue hboard => ⟨_, rfl, ?issued⟩⟩
    case full =>
      exact onCore_coreAt_of_eq hruns (e' := s.coreEff c) (issueInstance_of_no_room hsplit hes hfull) rfl rfl
    case issued =>
      have lands := onCore_lands hruns (fun e => e.issueInstance gap)
      have ends := issueInstance_ends (e := s.coreEff c) (gap := gap) hsplit hes hrun hqueue hboard
      have splitting := lands.read ends (·.splitting)
      refine ⟨lands.quiet ends.occ, (lands.read ends (·.cycle)).trans (enqueue_read es _ (·.cycle)),
        (lands.read ends (·.nextUid)).trans (congrArg (· + 5) (enqueue_read es _ (·.nextUid))),
        fun g => (lands.read ends (·.queue g)).trans (enqueue_queue es _ g), ?_, fun hmore => ⟨x.tilesNext, ?_⟩, fun hlast => ?_,
        (lands.read ends (·.notches)).trans (enqueue_read es _ (·.notches)),
        (lands.read ends (·.threads)).trans (enqueue_read es _ (·.threads)),
        (lands.read ends (·.ledgers)).trans (enqueue_read es _ (·.ledgers)),
        (lands.read ends (·.ls)).trans (enqueue_read es _ (·.ls))⟩
      · refine (congrArg (List.map _) (lands.read ends (·.scoreboard))).trans (List.map_append.trans ?_)
        rw [Issue.board_uids]
        exact congrArg (List.map _ · ++ _) (enqueue_read es _ (·.scoreboard))
      · exact splitting.trans ((if_pos hmore).trans (congrArg (fun y => some (Splitting.mk r nx y)) (if_pos hmore)))
      · refine splitting.trans ((if_neg hlast.not_gt).trans ?_)
        simp only [stopped_eq_false_iff]
        rfl

end Sys2Proof.Machine
end

section
/-! Markers, the completion of micro-ops and the stalemate freeze (R109, R110, R124, R178, R179, R282). -/

namespace Sys2Proof.Machine

/-! ### Bumps (R110, R160) -/

/-- What no bump changes reads after several as before. -/
theorem bumps_read {β : Type} (l : List (Nat × Nat)) (k : CoreSt) (f : CoreSt → β)
    (hf : ∀ k n amt, f (CoreSt.bump k n amt) = f k := by exact fun _ _ _ => rfl) : f (k.bumps l) = f k :=
  List.foldlRecOn (motive := fun x => f x = f k) l _ rfl fun x hx b _ => (hf x b.1 b.2).trans hx

/-- A bump looks at the notches alone. -/
theorem bumps_notches {k k' : CoreSt} (h : k.notches = k'.notches) (l : List (Nat × Nat)) :
    (k.bumps l).notches = (k'.bumps l).notches := by
  induction l generalizing k k' with
  | nil => exact h
  | cons b l ih => exact ih (by simp only [CoreSt.bump, CoreSt.notch, h])

/-! ### The end of a micro-op (R110, R124) -/

/-- The core with the bumps of a micro-op performed, if it has any to perform. -/
def CoreSt.bumped (k : CoreSt) (o : MicroOp) (bump : Bool) : CoreSt := if bump then k.bumps o.bumps else k

theorem bumped_read {β : Type} (k : CoreSt) (o : MicroOp) (bump : Bool) (f : CoreSt → β)
    (hf : ∀ k n amt, f (CoreSt.bump k n amt) = f k := by exact fun _ _ _ => rfl) : f (k.bumped o bump) = f k := by
  cases bump
  · rfl
  · exact bumps_read o.bumps k f hf

/-- The bumps of a micro-op find the notches as they were, wherever its entry was kept. -/
theorem bumped_notches {k k' : CoreSt} (h : k.notches = k'.notches) (o : MicroOp) (bump : Bool) :
    (k.bumped o bump).notches = if bump then (k'.bumps o.bumps).notches else k'.notches := by
  cases bump
  · exact h
  · exact bumps_notches h o.bumps

/-- The core's step with a micro-op ended: its bumps performed and its scoreboard entry freed. -/
def Eff.opEnded (e : Eff) (o : MicroOp) (bump : Bool) : Eff :=
  let k := (e.k.bumped o bump).freeEntry o.uid
  { e with k := { k with met := k.met.filter (fun x => x.1 ≠ o.uid) } }

theorem opDone_ends (e : Eff) (o : MicroOp) (bump : Bool) : Ends (e.opEnded o bump) (e.opDone o bump) := by
  unfold Eff.opDone
  dsimp only
  refine Ends.trans ?_ (settle_ends _)
  exact ⟨rfl, rfl, rfl⟩

theorem opEnded_read {β : Type} (e : Eff) (o : MicroOp) (bump : Bool) (f : CoreSt → β)
    (hbump : ∀ k n amt, f (CoreSt.bump k n amt) = f k := by exact fun _ _ _ => rfl)
    (hfree : ∀ (k : CoreSt) sb met, f { k with scoreboard := sb, met := met } = f k := by exact fun _ _ _ => rfl) :
    f (e.opEnded o bump).k = f e.k :=
  (hfree (e.k.bumped o bump) _ _).trans (bumped_read e.k o bump f hbump)

theorem opEnded_scoreboard (e : Eff) (o : MicroOp) (bump : Bool) :
    (e.opEnded o bump).k.scoreboard = e.k.scoreboard.filter (fun x => x.uid ≠ o.uid) :=
  congrArg (List.filter _) (bumped_read e.k o bump (·.scoreboard))

/-! ### The commands -/

theorem active_setActive (k : CoreSt) (g h : Engine) (q : List Running) : (k.setActive g q).active h = if h = g then q else k.active h := by
  simp [CoreSt.active, CoreSt.setActive, Tab.get_set, Engine.code_inj]

section
variable {e : Eff} {g : Engine} {gap : Nat}

/-- The core's step with another cycle count and another queue of engine `g`. -/
def Eff.tookEntry (e : Eff) (g : Engine) (gap : Nat) (rest : List MicroOp) : Eff :=
  { e with k := { (e.k.setQueue g rest) with cycle := (e.k.cycle + gap) % 2 ^ 64 } }

/-- The core's step with another cycle count and other begun micro-ops of engine `g`. -/
def Eff.tookActive (e : Eff) (g : Engine) (gap : Nat) (rest : List Running) : Eff :=
  { e with k := { (e.k.setActive g rest) with cycle := (e.k.cycle + gap) % 2 ^ 64 } }

theorem marker_eq {o : MicroOp} {rest : List MicroOp} (hqueue : e.k.queue g = o :: rest) (hmarker : o.marker = true)
    (hrun : e.k.frozen = false) (hwaits : e.k.waitsMet o = true)
    (hbumps : o.bumps = [] ∨ e.k.active g = [] ∧ (g = .inbound → e.k.windows = [])) :
    e.marker g gap = (e.tookEntry g gap rest).opDone o true := by
  simp only [Eff.marker, hqueue]
  refine if_pos ⟨hmarker, by simp [hrun], hwaits, ?_⟩
  simpa [← imp_iff_not_or] using hbumps

theorem completeOp_eq {r : Running} {rest : List Running} (hactive : e.k.active g = r :: rest) (hleft : r.left = 0) :
    e.completeOp g gap = (e.tookActive g gap rest).opDone r.op (!r.noBump) := by
  simp only [Eff.completeOp, hactive]
  exact if_pos hleft

/-- The core's step with the core frozen. -/
def Eff.frozenAt (e : Eff) (cycle : Nat) : Eff := { e with k := { e.k with frozen := true, cycle := cycle } }

theorem freeze_of_stalemate (hstale : e.k.stalemate = true) (hcalm : e.k.stalemateCycles ≤ e.k.calm + gap) :
    e.freeze gap = (e.frozenAt ((e.k.cycle + gap) % 2 ^ 64)).raise 0x09
      (wd (e.id * 2 ^ 54 + e.k.waiters.length * 2 ^ 50 + (e.k.cycle + gap) % 2 ^ 64 % 2 ^ 48) :: e.k.waiters.flatMap entryWords) :=
  if_pos ⟨hstale, hcalm⟩

theorem freeze_of_open (h : e.k.stalemate = false ∨ e.k.calm + gap < e.k.stalemateCycles) : e.freeze gap = e := by
  refine if_neg fun ⟨hstale, hcalm⟩ => ?_
  obtain h | h := h
  · exact Bool.false_ne_true (h.symm.trans hstale)
  · exact hcalm.not_gt h

end

/-- A step of a running core that is `e'` lands as `e'`. -/
theorem onCore_lands_of_eq {s : State} {c : Nat} (hruns : s.coreRuns c = true) {f : Eff → Eff} {e' : Eff} (h : f (s.coreEff c) = e') :
    Lands s (s.onCore c f) c e' := by
  rw [← h]
  exact onCore_lands hruns f

/-- A micro-op that ends a step of core `c`: the module keeps everything else, and the core reads as it was left by the end. -/
theorem Lands.ended {s t : State} {c : Nat} {e : Eff} {o : MicroOp} {bump : Bool} (h : Lands s t c (e.opDone o bump)) (hocc : e.occ = [])
    (hnotches : e.k.notches = (s.core c).notches) (hscore : e.k.scoreboard = (s.core c).scoreboard) :
    t = { s with cores := t.cores } ∧ (t.core c).cycle = e.k.cycle ∧ (∀ g, (t.core c).queue g = e.k.queue g) ∧
      (∀ g, (t.core c).active g = e.k.active g) ∧
      (t.core c).notches = (if bump then ((s.core c).bumps o.bumps).notches else (s.core c).notches) ∧
      (t.core c).scoreboard = (s.core c).scoreboard.filter (fun x => x.uid ≠ o.uid) := by
  have ends := opDone_ends e o bump
  refine ⟨h.quiet (ends.occ.trans hocc), (h.read ends (·.cycle)).trans (opEnded_read e o bump (·.cycle)),
    fun g => (h.read ends (·.queue g)).trans (opEnded_read e o bump (·.queue g)),
    fun g => (h.read ends (·.active g)).trans (opEnded_read e o bump (·.active g)),
    (h.read ends (·.notches)).trans (bumped_notches hnotches o bump), ?_⟩
  rw [← hscore]
  exact (h.read ends (·.scoreboard)).trans (opEnded_scoreboard e o bump)

/-- Settles O26: a marker and a completion end a micro-op in the same way, and the freeze changes nothing else of the core. -/
theorem markersCompletionsFreezes : Obligations.MarkersCompletionsFreezes := by
  rintro s c e gap k g cyc rfl rfl hruns rfl
  refine ⟨?marker, ?complete, ?freeze, fun hopen => ⟨_, rfl, onCore_coreAt_of_eq hruns (freeze_of_open hopen) rfl rfl⟩⟩
  case marker =>
    intro o rest hqueue hmarker hrun hwaits hbumps
    have lands := onCore_lands_of_eq hruns (f := fun x => x.marker (engineOf e) gap) (marker_eq hqueue hmarker hrun hwaits hbumps)
    obtain ⟨hrest, hcycle, hqueues, -, hnotches, hscore⟩ := lands.ended rfl rfl rfl
    refine ⟨_, rfl, hrest, hcycle, (hqueues _).trans (CoreSt.queue_setQueue _ _ _), fun h hne => ?_, hnotches, hscore⟩
    exact (hqueues h).trans ((queue_setQueue _ _ _ _).trans (if_neg hne))
  case complete =>
    intro r rest hactive hleft
    have lands := onCore_lands_of_eq hruns (f := fun x => x.completeOp (engineOf e) gap) (completeOp_eq hactive hleft)
    obtain ⟨hrest, hcycle, hqueues, hactives, hnotches, hscore⟩ := lands.ended rfl rfl rfl
    refine ⟨_, rfl, hrest, hcycle, (hactives _).trans (CoreSt.active_setActive _ _ _), fun h hne => ?_, hqueues, ?_, hscore⟩
    · exact (hactives h).trans ((active_setActive _ _ _ _).trans (if_neg hne))
    · rw [hnotches]
      cases r.noBump <;> rfl
  case freeze =>
    intro hstale hcalm
    have lands := onCore_lands_of_eq hruns (f := fun x => x.freeze gap) (freeze_of_stalemate hstale hcalm)
    exact ⟨_, rfl, lands.core.read (·.frozen), lands.core.read (·.cycle), lands.rest⟩

end Sys2Proof.Machine
end

section
/-! The frame of a micro-op of the array, the vector unit or the drain (R113, R124): each operation changes its core in the stores,
entries, counts and lanes of these units alone. -/

namespace Sys2Proof.Machine

open Numbers

/-! ### What the units change -/

/-- The core with what the array, the vector unit and the drain may change taken from `y`. -/
def CoreSt.withWork (k y : CoreSt) : CoreSt :=
  { k with
    ls := y.ls, trf := y.trf, tiles := y.tiles, ledgers := y.ledgers, reducer := y.reducer, hist := y.hist, assayer := y.assayer,
    lanes := y.lanes, prevFmts := y.prevFmts, nfCount := y.nfCount, spikeCount := y.spikeCount, evPending := y.evPending,
    pipe := y.pipe, note := y.note, gauger := y.gauger }

/-- From `b` to `e` one of these units has worked, and may have raised events. -/
def Works (b e : Eff) : Prop := e.k = b.k.withWork e.k

namespace Works

variable {b e e' : Eff}

theorem refl (e : Eff) : Works e e := rfl

theorem trans {a b c : Eff} (h : Works a b) (h' : Works b c) : Works a c := by
  rw [Works, h] at h'
  exact h'

/-- A step that changes the core where the units may. -/
theorem step (h : Works b e) (hcore : e'.k = e.k.withWork e'.k) : Works b e' := h.trans hcore

/-- Steps in turn over a list. -/
theorem foldl {α : Type} {f : Eff → α → Eff} (hf : ∀ x a, Works b x → Works b (f x a)) (l : List α) (h : Works b e) :
    Works b (l.foldl f e) :=
  List.foldlRecOn l f h fun x hx a _ => hf x a hx

/-- Steps in turn over a list that carry more than the core, which `eff` takes from it. -/
theorem foldlOf {σ α : Type} (eff : σ → Eff) {f : σ → α → σ} (hf : ∀ x a, Works b (eff x) → Works b (eff (f x a))) (l : List α)
    {x : σ} (h : Works b (eff x)) : Works b (eff (l.foldl f x)) :=
  List.foldlRecOn l f h fun x hx a _ => hf x a hx

theorem ite {p : Prop} [Decidable p] (h : Works b e) (h' : Works b e') : Works b (if p then e else e') := by
  split
  · exact h
  · exact h'

/-! ### The shared operations -/

variable (h : Works b e)
include h

theorem raise (code : Nat) (ws : List Word) : Works b (e.raise code ws) := h
theorem count (ev n : Nat) : Works b (e.count ev n) := h.step rfl
theorem touchLs (a n : Nat) : Works b (e.touchLs a n) := h.step rfl
theorem touchTrf (a n : Nat) : Works b (e.touchTrf a n) := h.step rfl
theorem writeLs (a : Nat) (bs : List (Byte × Bool)) : Works b (e.writeLs a bs) := h.step rfl
theorem writeTrf (a : Nat) (bs : List (Byte × Bool)) : Works b (e.writeTrf a bs) := h.step rfl
theorem rows (n : Nat) : Works b (e.rows n) := h.count _ _
theorem setPending (bit : Nat) : Works b (e.setPending bit) := h.step rfl
theorem setRed (n : Nat) (r : Reducer) : Works b (e.setRed n r) := h.step rfl
theorem setAssay (n : Nat) (w : Word) : Works b { e with k := { e.k with assayer := e.k.assayer.set n w } } := h.step rfl
theorem setLanes (lanes : Tab (BitVec 128)) : Works b { e with k := { e.k with lanes := lanes } } := h.step rfl
theorem setLedger (t r c : Nat) (l : Ledger) : Works b { e with k := e.k.setLedger t r c l } := h.step rfl

theorem touchTrfOp (o : TrfOp) : Works b (e.touchTrfOp o) := by
  obtain ⟨_, _, he, -⟩ := touchTrfOp_read e o
  rw [he]
  exact h.step rfl

theorem readLedger (t r c : Nat) : Works b (e.readLedger t r c).2 := by
  unfold Eff.readLedger
  dsimp only
  split
  · exact (h.setLedger t r c _).raise _ _
  · exact h

/-- An entry read where it is to be added to. -/
theorem readIf (acc : Bool) (t r c : Nat) : Works b (if acc then e.readLedger t r c else (LedgerOps.zero, e)).2 := by
  cases acc
  · exact h
  · exact h.readLedger t r c

theorem mode (sr : Bool) (lane : Nat) : Works b (e.mode sr lane).2 := by
  cases sr
  · exact h
  · exact h.step rfl

theorem addNf (n : Nat) : Works b (e.addNf n) := by
  unfold Eff.addNf
  dsimp only
  refine ite (setPending ?_ 2) ?_ <;> exact h.step rfl

theorem addSpike (n : Nat) : Works b (e.addSpike n) := by
  unfold Eff.addSpike
  dsimp only
  refine ite (setPending ?_ 3) ?_ <;> exact h.step rfl

theorem wrote (o : MicroOp) (nf poisoned : Nat) : Works b (e.wrote o nf poisoned) :=
  foldl (fun _ _ hx => raise hx _ _) _ (h.addNf nf)

theorem rowModes (sr : Bool) (n : Nat) : Works b (e.rowModes sr n).2 := by
  refine foldlOf Prod.snd (fun _ _ hx => ?_) _ h
  exact mode hx _ _

theorem writeRow (o : MicroOp) (d : TrfOp) (i : Nat) (sr : Bool) (vals : List Elem) : Works b (e.writeRow o d i sr vals) :=
  ((h.rowModes _ _).writeTrf _ _).wrote o _ _

theorem fold (n lanes : Nat) (ts : List Ledger) : Works b (e.fold n lanes ts) := (h.setRed n _).count _ _

theorem reduceRange (o : MicroOp) (hit : Option Nat) : Works b (e.reduceRange o hit) := by
  cases hit
  · exact h
  · exact h.raise _ _

end Works

/-! ### The changes of the operations told already -/

theorem ArrayRead.works {b e : Eff} (h : ArrayRead b e) : Works b e := by
  obtain ⟨_, _, _, rfl⟩ := h.frame
  rfl

theorem MergeOnly.works {b e : Eff} (h : MergeOnly b.k e.k) : Works b e := by
  obtain ⟨_, _, _, hk, -⟩ := h
  rw [Works, hk]
  rfl

theorem MovedIn.works {b e : Eff} (h : MovedIn b e) : Works b e := by
  obtain ⟨_, _, _, rfl, -⟩ := h
  rfl

theorem MovedOut.works {b e : Eff} (h : MovedOut b e) : Works b e := by
  obtain ⟨_, _, _, _, rfl, -⟩ := h
  rfl

theorem TrfChanged.works {b e : Eff} (h : TrfChanged b e) : Works b e := by
  obtain ⟨_, _, rfl⟩ := h
  rfl

theorem TrfRead.works {b e : Eff} (h : TrfRead b e) : Works b e := by
  obtain ⟨_, _, rfl, -⟩ := h
  rfl

/-! ### The array (R41 to R64) -/

theorem matmulRow_works (e : Eff) (o : ArrayOp) (arow : List Elem) (bcols : List (List Elem)) (r : Nat) :
    Works e (e.matmulRow o arow bcols r) := by
  refine Works.foldl (fun x a hx => ?_) _ (.refl e)
  exact (hx.readIf o.acc _ _ _).setLedger _ _ _ _

theorem addRows_works (e : Eff) (o : ArrayOp) (st : Store) : Works e (e.addRows o st) :=
  Works.foldl (fun _ _ hx => hx.trans (matmulRow_works _ o _ _ _)) _ (.refl e)

theorem zeroEntries_works (e : Eff) (o : ArrayOp) : Works e (e.zeroEntries o) := by
  rw [zeroEntries_eq]
  exact Works.foldl (fun _ _ hx => Works.foldl (fun _ _ hy => hy.setLedger _ _ _ _) _ hx) _ (.refl e)

theorem matmul_works (e : Eff) (uid gap : Nat) (o : ArrayOp) : Works e (e.matmul uid gap o) := by
  obtain ⟨x, hread, heq⟩ := matmul_eq e uid gap o
  have read : Works e x := Works.trans (b := e.withFmts o) rfl hread.works
  rw [heq]
  exact .ite (read.trans (addRows_works x o _)) (.ite read (read.trans (zeroEntries_works x o)))

/-! ### The drain unit (R87 to R92, R192 to R196) -/

theorem roundValue_works (e : Eff) (op : MicroOp) (o : DrainOp) (r c : Nat) : Works e (e.roundValue op o r c).2 := by
  have read := (Works.refl e).readLedger o.tile r c
  unfold Eff.roundValue
  dsimp only
  split
  all_goals
    dsimp only
    exact .ite (read.raise _ _) read

theorem roundRow_works (e : Eff) (op : MicroOp) (o : DrainOp) (r : Nat) : Works e (e.roundRow op o r).2 := by
  refine Works.foldlOf Prod.snd (fun x c hx => ?_) _ (.refl e)
  exact (hx.trans (roundValue_works _ _ _ _ _)).mode _ _

theorem placeRow_works (e : Eff) (o : DrainOp) (r : Nat) (bs : List (Byte × Bool)) (scale : Option (Byte × Bool)) :
    Works e (e.placeRow o r bs scale) := by
  unfold Eff.placeRow
  dsimp only
  cases scale
  · exact .ite ((Works.refl e).writeLs _ _) ((Works.refl e).writeTrf _ _)
  · exact .ite (((Works.refl e).writeLs _ _).writeLs _ _) (((Works.refl e).writeTrf _ _).writeTrf _ _)

/-- The core's step with the values of a row recorded, if they are to be (R205). -/
def Eff.recorded (e : Eff) (stats : Bool) (vs : List (RoundVal × Mode)) : Eff :=
  if stats then { e with k := { e.k with hist := vs.foldl (fun h v => h.record v.1.val v.1.odd) e.k.hist } } else e

theorem Works.recorded {b e : Eff} (h : Works b e) (stats : Bool) (vs : List (RoundVal × Mode)) : Works b (e.recorded stats vs) := by
  cases stats
  · exact h
  · exact h.step rfl

theorem round_works (e : Eff) (op : MicroOp) (o : DrainOp) : Works e (e.round op o) := by
  have start : Works e ((if fuseAux o.fuse then e.touchTrfOp o.aux else e).count 0x064 o.m) :=
    (Works.ite ((Works.refl e).touchTrfOp _) (.refl e)).count _ _
  refine Works.foldl (fun x r hx => ?_) _ start
  have recorded := (hx.trans (roundRow_works x op o r)).recorded o.stats (x.roundRow op o r).1
  exact .ite ((recorded.trans (placeRow_works _ _ _ _ _)).wrote _ _ _) ((recorded.trans (placeRow_works _ _ _ _ _)).wrote _ _ _)

theorem mergeImage_works (e : Eff) (w : BitVec 256) (t : Tab Word) (i : Nat) : Works e (e.mergeImage (drainOp w t i)) :=
  (mergeImage_merged (drainOp_m_le w t i) (drainOp_n_le w t i) e).frame.works

theorem exportImage_works (e : Eff) (d : DrainOp) : Works e (e.exportImage d) := by
  rw [exportImage_eq]
  refine Works.foldl (fun x r hx => ?_) _ ((Works.refl e).count _ _)
  exact (Works.foldlOf Prod.snd (fun _ _ hy => (hy.readLedger _ _ _).writeLs _ _) _ hx).writeLs _ _

/-! ### The vector unit: moves, conversion and arithmetic (R82, R183 to R189) -/

theorem tilecfg_works (e : Eff) (v : VecOp) : Works e (e.tilecfg v) := rfl

theorem RowWise.works {o : MicroOp} {v : VecOp} {elem : CoreSt → Nat → Nat → Elem} {b e : Eff} (h : RowWise o v elem b e) : Works b e := by
  obtain ⟨start, touch, step, hstart, htouch, hstep, rfl⟩ := h
  refine Works.foldl (fun x i hx => ?_) _ hstart.works
  rw [hstep]
  exact (hx.trans (htouch x i).works).writeRow _ _ _ _ _

theorem convertMxRow_works (e : Eff) (o : MicroOp) (d : TrfOp) (i : Nat) (sr : Bool) (vals : List Elem) :
    Works e (e.convertMxRow o d i sr vals) :=
  ((((Works.refl e).rowModes _ _).writeTrf _ _).writeTrf _ _).wrote o _ _

theorem convert_works (e : Eff) (o : MicroOp) (v : VecOp) : Works e (e.convert o v) := by
  rw [convert_eq]
  refine Works.foldl (fun x i hx => ?_) _ ((Works.refl e).rows _)
  have touched := hx.trans (convertTouch_read v x i).works
  exact .ite (touched.trans (convertMxRow_works _ _ _ _ _ _)) (touched.writeRow _ _ _ _ _)

/-! ### The row reducer and the statistics (R197 to R206, R215) -/

theorem rclear_works (e : Eff) (v : VecOp) : Works e (e.rclear v) :=
  Works.foldl (fun _ _ hx => hx.setRed _ _) _ (.refl e)

theorem rsum_works (e : Eff) (v : VecOp) (square : Bool) : Works e (e.rsum v square) := by
  have source := (Works.refl e).touchTrfOp v.dst
  refine Works.foldl (fun x i hx => ?_) _ (Works.rows (.ite (source.touchTrfOp _) source) _)
  exact hx.fold _ _ _

theorem rmax_works (e : Eff) (v : VecOp) : Works e (e.rmax v) :=
  Works.foldl (fun _ _ hx => hx.setRed _ _) _ (((Works.refl e).touchTrfOp _).rows _)

theorem rdot_works (e : Eff) (v : VecOp) : Works e (e.rdot v) := by
  refine Works.foldl (fun x i hx => ?_) _ ((((Works.refl e).touchTrfOp _).touchTrfOp _).rows _)
  exact hx.fold _ _ _

theorem rout_works (e : Eff) (op : MicroOp) (v : VecOp) : Works e (e.rout op v) := by
  refine Works.foldl (fun x _ hx => hx.raise _ _) _ (Works.rows (Works.writeTrf ?_ _ _) _)
  refine Works.foldl (fun x a hx => ?_) _ (.refl e)
  exact .ite (hx.raise _ _) hx

theorem rsetref_works (e : Eff) (op : MicroOp) (v : VecOp) : Works e (e.rsetref op v) := by
  refine Works.reduceRange (Works.rows ?_ _) op _
  refine Works.foldlOf Prod.fst (fun x j hx => ?_) _ ((Works.refl e).touchTrfOp _)
  dsimp only
  split
  · exact hx
  · exact hx.setRed _ _

theorem smxElement_works (s : SmxRow) (v : VecOp) (p : TrfOp) (j : Nat) (x : Elem) (masked noRef : Bool) :
    Works s.e (s.element v p j x masked noRef).e := by
  have drawn := (Works.refl s.e).mode v.sr (j % 64)
  unfold SmxRow.element
  dsimp only
  split_ifs <;> exact drawn

theorem smxRow_works (e : Eff) (op : MicroOp) (v : VecOp) (s p : TrfOp) (n i : Nat) : Works e (e.smxRow op v s p n i).1 := by
  unfold Eff.smxRow
  dsimp only
  refine Works.wrote (Works.writeTrf (Works.count (Works.setRed ?_ _ _) _ _) _ _) _ _ _
  exact Works.foldlOf SmxRow.e (fun z x hz => hz.trans (smxElement_works z _ _ _ _ _ _)) _ (.refl e)

theorem smxExp_works (e : Eff) (op : MicroOp) (v : VecOp) : Works e (e.smxExp op v) := by
  refine Works.reduceRange ?_ op _
  refine Works.foldlOf Prod.fst (fun x i hx => ?_) _ (((Works.refl e).touchTrfOp _).rows _)
  exact hx.trans (smxRow_works _ _ _ _ _ _ _)

theorem rsave_works (e : Eff) (v : VecOp) : Works e (e.rsave v) :=
  Works.foldl (fun _ _ hx => hx.writeLs _ _) _ (.refl e)

theorem rload_works (e : Eff) (op : MicroOp) (v : VecOp) (merge : Bool) : Works e (e.rload op v merge) := by
  refine Works.reduceRange ?_ op _
  refine Works.foldlOf Prod.fst (fun x n hx => ?_) _ (.refl e)
  cases merge <;> exact (hx.touchLs _ _).setRed _ _

theorem statsFlush_works (e : Eff) (v : VecOp) : Works e (e.statsFlush v) := ((Works.refl e).writeLs _ _).step rfl

/-! ### The Assayer (R219 to R222) -/

theorem assay_works (e : Eff) (v : VecOp) : Works e (e.assay v) := by
  refine Works.writeLs (Works.setAssay ?_ _ _) _ _
  refine Works.foldlOf Prod.fst (fun x i hx => ?_) _ (.refl e)
  have read := hx.touchLs (v.assayRecords.base.toNat + i * v.assayRecords.stride) 320
  dsimp only
  split
  · exact read
  · exact read.count _ _

theorem assaySet_works (e : Eff) (v : VecOp) : Works e (e.assaySet v) := rfl

/-! ### The weight update and the lane generators (R228 to R241) -/

theorem updElem_works (e : Eff) (v : UpdRule) (j : Nat) (w m vv g : Elem) (h : Nat → Elem) : Works e (e.updElem v j w m vv g h).2.2 := by
  unfold Eff.updElem
  dsimp only
  split_ifs
  · exact (Works.refl e).mode _ _
  · exact ((Works.refl e).mode _ _).mode _ _
  · exact (((Works.refl e).mode _ _).mode _ _).mode _ _

theorem update_works (e : Eff) (op : MicroOp) (v : VecOp) : Works e (e.update op v) := by
  have sources := Works.foldl (fun _ s hx => Works.touchTrfOp hx s) v.updSources (Works.refl e)
  unfold Eff.update
  dsimp only
  refine Works.foldl (fun x i hx => ?_) _ (sources.rows _)
  refine Works.wrote ?_ _ _ _
  refine Works.foldl (fun _ _ hy => Works.writeTrf hy _ _) _ ?_
  refine Works.foldlOf (fun y : List (List UpdOut) × Nat × Eff => y.2.2) (fun y j hy => ?_) _ hx
  dsimp only at hy ⊢
  exact hy.trans (updElem_works _ _ _ _ _ _ _ _)

theorem rngSeed_works (e : Eff) (v : VecOp) : Works e (e.rngSeed v) := (Works.refl e).setLanes _

theorem rngSave_works (e : Eff) (v : VecOp) : Works e (e.rngSave v) := (Works.refl e).writeLs _ _

theorem rngLoad_works (e : Eff) (v : VecOp) : Works e (e.rngLoad v) := by
  refine Works.foldl (fun x l hx => ?_) _ ((Works.refl e).touchLs _ _)
  exact .ite (hx.raise _ _) (hx.setLanes _)

theorem spikeCheck_works (e : Eff) (v : VecOp) : Works e (e.spikeCheck v) :=
  (((Works.refl e).touchTrfOp _).rows _).addSpike _

/-! ### The head of a queue begins (R113) -/

theorem begin_queue (e : Eff) (o : MicroOp) (left : Nat) (g : Engine) :
    (e.begin o left).k.queue g = if g = o.eng then (e.k.queue o.eng).drop 1 else e.k.queue g :=
  queue_setQueue e.k o.eng g _

theorem begin_active (e : Eff) (o : MicroOp) (left : Nat) (g : Engine) :
    (e.begin o left).k.active g = if g = o.eng then e.k.active o.eng ++ [⟨o, left, false⟩] else e.k.active g :=
  active_setActive (e.k.setQueue o.eng _) o.eng g _

/-! ### The commands -/

/-- The command begins the head of its engine's queue, and one of these units then works. -/
def BeginsUnit (row : CoreRow) (g : Engine) (code : Nat) : Prop :=
  ∀ c gap, ∃ f : Eff → MicroOp → Eff, (∀ e o, Works e (f e o)) ∧ ∀ s, exec (row c gap) s =
    .next (s.onCore c (fun e => e.atHead g gap (fun o => opField o.word g = code) (fun e o => (f e o).released o)))

/-- The commands of the vector unit before those of arithmetic in Table 7.2. -/
def moveRows : List (CoreRow × Nat) :=
  [(.tilecfg, 0x01), (.moveIn, 0x02), (.moveOut, 0x03), (.convert, 0x04), (.transpose, 0x05)]

/-- The commands of the vector unit after those of arithmetic. -/
def reduceRows : List (CoreRow × Nat) :=
  [(.rclear, 0x20), (.rsum, 0x21), (.rsumsq, 0x22), (.rmax, 0x23), (.rout, 0x24), (.rsetref, 0x25), (.smxExp, 0x26),
   (.rsave, 0x27), (.rload, 0x28), (.rmerge, 0x29), (.statsFlush, 0x30), (.updSgd, 0x40), (.updMomentum, 0x41), (.updAdam, 0x42),
   (.rngSeed, 0x44), (.rngSave, 0x45), (.rngLoad, 0x46), (.spikeCheck, 0x47), (.rdot, 0x50), (.smxGrad, 0x51),
   (.normGrad, 0x52), (.assay, 0x53), (.assaySet, 0x54)]

theorem vectorRows_eq : vectorRows = moveRows ++ (arithRows.map (fun x => (x.1, x.2.1)) ++ reduceRows) := rfl

theorem beginsUnit_of_vecRow {row : CoreRow} {code : Nat} {f : Eff → MicroOp → VecOp → Eff} (hf : ∀ e o, Works e (f e o o.vec))
    (hexec : ∀ c gap s, exec (row c gap) s = .next (s.onCore c (fun e => e.vecRow gap code f))) : BeginsUnit row .vector code :=
  fun c gap => ⟨fun e o => f e o o.vec, hf, hexec c gap⟩

theorem beginsUnit_of_drainRow {row : CoreRow} {code : Nat} {f : Eff → MicroOp → DrainOp → Eff}
    (hf : ∀ e o, Works e (f e o (drainOp o.word o.slots o.inst)))
    (hexec : ∀ c gap s, exec (row c gap) s = .next (s.onCore c (fun e => e.drainRow gap code f))) : BeginsUnit row .drain code :=
  fun c gap => ⟨fun e o => f e o (drainOp o.word o.slots o.inst), hf, hexec c gap⟩

theorem arithRow_begins {x : CoreRow × Nat × Arith} (hx : x ∈ arithRows) : BeginsUnit x.1 .vector x.2.1 :=
  beginsUnit_of_vecRow (fun _ o => (arith_rowWise o o.vec x.2.2 _).works) (exec_arithRow hx)

theorem moveRows_begin : ∀ x ∈ moveRows, BeginsUnit x.1 .vector x.2 := by
  simp only [moveRows, List.forall_mem_cons, List.not_mem_nil, false_imp_iff, implies_true, and_true]
  exact ⟨beginsUnit_of_vecRow (fun e o => tilecfg_works e o.vec) fun _ _ _ => rfl,
    beginsUnit_of_vecRow (fun e o => (moveIn_movedIn e o.vec).works) fun _ _ _ => rfl,
    beginsUnit_of_vecRow (fun e o => (moveOut_movedOut e o.vec).works) fun _ _ _ => rfl,
    beginsUnit_of_vecRow (fun e o => convert_works e o o.vec) fun _ _ _ => rfl,
    beginsUnit_of_vecRow (fun e o => (transpose_changed e o.vec).works) fun _ _ _ => rfl⟩

theorem reduceRows_begin : ∀ x ∈ reduceRows, BeginsUnit x.1 .vector x.2 := by
  simp only [reduceRows, List.forall_mem_cons, List.not_mem_nil, false_imp_iff, implies_true, and_true]
  exact ⟨beginsUnit_of_vecRow (fun e o => rclear_works e o.vec) fun _ _ _ => rfl,
    beginsUnit_of_vecRow (fun e o => rsum_works e o.vec false) fun _ _ _ => rfl,
    beginsUnit_of_vecRow (fun e o => rsum_works e o.vec true) fun _ _ _ => rfl,
    beginsUnit_of_vecRow (fun e o => rmax_works e o.vec) fun _ _ _ => rfl,
    beginsUnit_of_vecRow (fun e o => rout_works e o o.vec) fun _ _ _ => rfl,
    beginsUnit_of_vecRow (fun e o => rsetref_works e o o.vec) fun _ _ _ => rfl,
    beginsUnit_of_vecRow (fun e o => smxExp_works e o o.vec) fun _ _ _ => rfl,
    beginsUnit_of_vecRow (fun e o => rsave_works e o.vec) fun _ _ _ => rfl,
    beginsUnit_of_vecRow (fun e o => rload_works e o o.vec false) fun _ _ _ => rfl,
    beginsUnit_of_vecRow (fun e o => rload_works e o o.vec true) fun _ _ _ => rfl,
    beginsUnit_of_vecRow (fun e o => statsFlush_works e o.vec) fun _ _ _ => rfl,
    beginsUnit_of_vecRow (fun e o => update_works e o o.vec) fun _ _ _ => rfl,
    beginsUnit_of_vecRow (fun e o => update_works e o o.vec) fun _ _ _ => rfl,
    beginsUnit_of_vecRow (fun e o => update_works e o o.vec) fun _ _ _ => rfl,
    beginsUnit_of_vecRow (fun e o => rngSeed_works e o.vec) fun _ _ _ => rfl,
    beginsUnit_of_vecRow (fun e o => rngSave_works e o.vec) fun _ _ _ => rfl,
    beginsUnit_of_vecRow (fun e o => rngLoad_works e o.vec) fun _ _ _ => rfl,
    beginsUnit_of_vecRow (fun e o => spikeCheck_works e o.vec) fun _ _ _ => rfl,
    beginsUnit_of_vecRow (fun e o => rdot_works e o.vec) fun _ _ _ => rfl,
    beginsUnit_of_vecRow (fun e o => (gradRows_rowWise o o.vec false e).works) fun _ _ _ => rfl,
    beginsUnit_of_vecRow (fun e o => (gradRows_rowWise o o.vec true e).works) fun _ _ _ => rfl,
    beginsUnit_of_vecRow (fun e o => assay_works e o.vec) fun _ _ _ => rfl,
    beginsUnit_of_vecRow (fun e o => assaySet_works e o.vec) fun _ _ _ => rfl⟩

theorem vectorRows_begin : ∀ x ∈ vectorRows, BeginsUnit x.1 .vector x.2 := by
  simp only [vectorRows_eq, List.forall_mem_append, List.forall_mem_map]
  exact ⟨moveRows_begin, fun _ hx => arithRow_begins hx, reduceRows_begin⟩

theorem drainRows_begin : ∀ x ∈ drainRows, BeginsUnit x.1 .drain x.2 := by
  simp only [drainRows, List.forall_mem_cons, List.not_mem_nil, false_imp_iff, implies_true, and_true]
  exact ⟨beginsUnit_of_drainRow (fun e o => round_works e o _) fun _ _ _ => rfl,
    beginsUnit_of_drainRow (fun e o => exportImage_works e _) fun _ _ _ => rfl,
    beginsUnit_of_drainRow (fun e o => mergeImage_works e _ _ _) fun _ _ _ => rfl⟩

theorem unitRows_begin {row : CoreRow} {g : Engine} {code : Nat} (h : (row, g, code) ∈ unitRows) : BeginsUnit row g code := by
  have all : ∀ x ∈ unitRows, BeginsUnit x.1 x.2.1 x.2.2 := by
    simp only [unitRows, List.forall_mem_append, List.forall_mem_map, List.forall_mem_singleton]
    exact ⟨⟨fun c gap => ⟨_, fun e o => matmul_works e o.uid gap _, fun _ => rfl⟩, vectorRows_begin⟩, drainRows_begin⟩
  exact all _ h

/-- A step of a core lands: the core as the step leaves it, the passing of cycles apart, and the events it raised. -/
theorem landCore_lands (s : State) (c : Nat) (e : Eff) :
    ∃ y, Aside e.k y ∧ (s.landCore c e).core c = y ∧
      s.landCore c e = { s with cores := s.cores.set c y, occurrences := s.occurrences ++ e.occ } := by
  obtain ⟨y, hy, ht⟩ := landCore_coreAt s c (Aside.refl e.k)
  refine ⟨y, hy, ?_, ht⟩
  rw [ht]
  exact Tab.get_set_same _ _ _ _

/-- After a unit's work, the release of a micro-op's read regions and the passing of cycles the core is what it was with the regions
released, but for what the units and the cycles change. -/
theorem released_frame {b e : Eff} {o : MicroOp} {u : CoreSt} (h : Works b e) (hu : Aside (e.released o).k u) :
    ∃ w calm, u = { (b.k.releaseReads o.uid).withWork w with calm := calm } := by
  obtain ⟨z, rfl⟩ := aside_iff.1 hu
  refine ⟨(e.released o).k.withAside z, z.calm, ?_⟩
  rw [Eff.released, h]
  rfl

/-- The core with what begins a micro-op and releases its read regions taken from `y`. -/
def CoreSt.withBegun (k y : CoreSt) : CoreSt :=
  { k with queues := y.queues, running := y.running, scoreboard := y.scoreboard, cycle := y.cycle, gauger := y.gauger }

theorem begunBy_released (s : State) (c gap : Nat) (o : MicroOp) :
    (begunBy s c gap o).k.releaseReads o.uid = (s.core c).withBegun ((begunBy s c gap o).k.releaseReads o.uid) := rfl

/-- Settles O27: every command of the three engines begins the head of its queue, one of their units works, and the read regions of
the micro-op are released. -/
theorem unitMicroOpsBegin : Obligations.UnitMicroOpsBegin := by
  rintro s c gap row g code o k hrow hheads hcode rfl
  obtain ⟨f, hworks, hexec⟩ := unitRows_begin hrow c gap
  obtain ⟨-, -, rfl, -⟩ := id hheads
  obtain ⟨u, hu, hcore, hland⟩ := landCore_lands s c ((f (begunBy s c gap o) o).released o)
  obtain ⟨w, calm, rfl⟩ := released_frame (hworks _ _) hu
  refine ⟨_, _, (hexec s).trans (congrArg _ (onCore_atHead hheads _ (decide_eq_true hcode) _)), hcore.symm, ?rest, ?events, ?cycle,
    ?queue, ?active, ?others, ?board, ?frame⟩
  case rest => rw [hland]
  case events =>
    rw [hland]
    exact List.prefix_append _ _
  case cycle => rfl
  case queue => exact (begin_queue _ o 0 _).trans (if_pos rfl)
  case active => exact (begin_active _ o 0 _).trans (if_pos rfl)
  case others => exact fun h hne => ⟨(begin_queue _ o 0 h).trans (if_neg hne), (begin_active _ o 0 h).trans (if_neg hne)⟩
  case board => rfl
  case frame =>
    rw [begunBy_released]
    generalize (begunBy s c gap o).k.releaseReads o.uid = x
    generalize s.core c = k
    rfl

end Sys2Proof.Machine
end

section
/-! The Carters' micro-ops (R94, R165, R167, R273 to R282, R292, R296, R312 to R315): how one begins, what it puts where it waits, and
how an invalid set and a busy pattern range are refused. -/

namespace Sys2Proof.Machine

/-! ### What a Carter's micro-op changes of its core -/

/-- The core with what a Carter's micro-op changes as it begins taken from `y`. -/
def CoreSt.withCarter (k y : CoreSt) : CoreSt :=
  { k with
    ls := y.ls, queues := y.queues, running := y.running, scoreboard := y.scoreboard, cycle := y.cycle,
    gauger := { k.gauger with samples := y.gauger.samples } }

/-- From `k` to `u` only that and what the passing of cycles changes has changed. -/
def Carries (k u : CoreSt) : Prop := Aside (k.withCarter u) u

theorem Carries.trans {k u v : CoreSt} (h : Carries k u) (h' : Carries u v) : Carries k v := by
  obtain ⟨y, hu⟩ := aside_iff.1 h
  obtain ⟨z, hv⟩ := aside_iff.1 h'
  refine aside_iff.2 ⟨z, ?_⟩
  rw [hu] at hv
  exact hv

theorem carries_of_aside {u v : CoreSt} (h : Aside u v) : Carries u v := by
  obtain ⟨z, rfl⟩ := aside_iff.1 h
  rfl

end Sys2Proof.Machine

namespace Sys2Proof

open Machine

/-- A step that leaves the queues, the begun micro-ops, the cycle and the bytes of the local store. -/
theorem CarterBegan.step {k u v : CoreSt} {g : Engine} {gap : Nat} {o : MicroOp} {n : Nat} (h : CarterBegan k u g gap o n)
    (hcarries : Carries u v) (hcycle : v.cycle = u.cycle) (hqueues : v.queues = u.queues) (hrunning : v.running = u.running)
    (hdata : v.ls.data = u.ls.data) : CarterBegan k v g gap o n := by
  obtain ⟨hcycle', hqueue, hactive, hothers, hdata', hframe⟩ := h
  have queue : ∀ h, v.queue h = u.queue h := fun h => congrArg (Tab.get [] · h.code) hqueues
  have active : ∀ h, v.active h = u.active h := fun h => congrArg (Tab.get [] · h.code) hrunning
  refine ⟨hcycle.trans hcycle', (queue g).trans hqueue, ?_, fun h hne => ?_, hdata.trans hdata', Carries.trans hframe hcarries⟩
  · rw [active g]
    exact hactive
  · rw [queue h, active h]
    exact hothers h hne

theorem CarterBegan.aside {k u v : CoreSt} {g : Engine} {gap : Nat} {o : MicroOp} {n : Nat} (h : CarterBegan k u g gap o n)
    (haside : Aside u v) : CarterBegan k v g gap o n :=
  h.step (carries_of_aside haside) (haside.read (·.cycle)) (haside.read (·.queues)) (haside.read (·.running)) (haside.read (·.ls.data))

/-- The begun micro-op waits for `m` accesses. -/
theorem CarterBegan.setLeft {k u : CoreSt} {g : Engine} {gap : Nat} {o : MicroOp} {n : Nat} (h : CarterBegan k u g gap o n) (m : Nat) :
    CarterBegan k (u.setLeft g o.uid m) g gap o m := by
  obtain ⟨hcycle, hqueue, ⟨l, hl, hops, hsame⟩, hothers, hdata, hframe⟩ := h
  refine ⟨hcycle, hqueue, ⟨l.map (fun r => if r.op.uid = o.uid then { r with left := m } else r), ?_, ?_, fun huid => ?_⟩,
    fun h hne => ⟨(hothers h hne).1, ?_⟩, hdata, Carries.trans hframe rfl⟩
  · rw [CoreSt.setLeft, CoreSt.active_setActive, hl]
    simp
  · rw [← hops, List.map_map]
    exact List.map_congr_left fun r _ => by dsimp only [Function.comp]; split <;> rfl
  · obtain rfl := hsame huid
    exact List.map_congr_left (fun r hr => if_neg (huid r hr)) |>.trans (List.map_id' _)
  · rw [CoreSt.setLeft, active_setActive, if_neg hne]
    exact (hothers h hne).2

end Sys2Proof

namespace Sys2Proof.Machine

/-! ### The head of a Carter's queue begins (R113, R276) -/

theorem atCore_lands (s : State) (c : Nat) (f : Eff → Eff) : Lands s (s.atCore c f) c (f (s.coreEff c)) := by
  obtain ⟨y, hy, hcore, hland⟩ := landCore_lands s c (f (s.coreEff c))
  exact ⟨hcore ▸ hy, by rw [State.atCore, ← State.coreEff, hland]⟩

/-- The module with micro-op `o` begun on core `c`. -/
def State.begun (s : State) (c gap : Nat) (o : MicroOp) : State := s.landCore c (begunBy s c gap o)

section
variable {s : State} {c gap : Nat} {g : Engine} {o : MicroOp}

theorem beginHead_eq (h : Heads s c g o) {p : MicroOp → Bool} (hp : p o = true) (hissued : s.issuedAll c g = true) :
    s.beginHead c g gap p = some (o, s.begun c gap o) := by
  obtain ⟨hruns, hhead, -, hmarker, hmay⟩ := h
  obtain ⟨rest, hqueue⟩ := List.head?_eq_some_iff.1 hhead
  simp only [State.beginHead, hruns, hqueue, hmarker, hp, hmay, hissued, Bool.not_true, Bool.not_false, Bool.and_self, if_true,
    Bool.false_eq_true, if_false]
  rfl

theorem begun_lands (s : State) (c gap : Nat) (o : MicroOp) : Lands s (s.begun c gap o) c (begunBy s c gap o) :=
  atCore_lands s c (fun _ => begunBy s c gap o)

theorem begun_self (s : State) (c gap : Nat) (o : MicroOp) : s.begun c gap o = { s with cores := (s.begun c gap o).cores } :=
  (begun_lands s c gap o).quiet rfl

theorem begun_began (heng : o.eng = g) : CarterBegan (s.core c) ((s.begun c gap o).core c) g gap o 0 := by
  subst heng
  refine CarterBegan.aside (u := (begunBy s c gap o).k) ⟨rfl, (begin_queue _ o 0 _).trans (if_pos rfl),
    ⟨_, (begin_active _ o 0 _).trans (if_pos rfl), rfl, fun _ => rfl⟩, fun h hne => ?_, rfl, rfl⟩ (begun_lands s c gap o).core
  exact ⟨(begin_queue _ o 0 h).trans (if_neg hne), (begin_active _ o 0 h).trans (if_neg hne)⟩

end

/-- A begun micro-op waits for `n` accesses that have been put where they wait. -/
theorem setLeft_began {k : CoreSt} {m : State} {c gap n : Nat} {g : Engine} {o : MicroOp} (h : CarterBegan k (m.core c) g gap o 0) :
    CarterBegan k ((m.setLeft c g o.uid n).core c) g gap o n ∧
      m.setLeft c g o.uid n = { m with cores := (m.setLeft c g o.uid n).cores } := by
  have lands := atCore_lands m c (fun e => { e with k := e.k.setLeft g o.uid n })
  exact ⟨(h.setLeft n).aside lands.core, lands.quiet rfl⟩

/-! ### What joins the pools (R273, R315) -/

theorem numbered_concat (n : Nat) (ts : List Txn) (x : Txn) :
    numbered n (ts ++ [x]) = numbered n ts ++ [{ x with id := n + ts.length }] := by
  simp [numbered, List.zipIdx_append]

theorem foldl_addTxn (s : State) (ts : List Txn) :
    ts.foldl State.addTxn s = { s with txns := s.txns ++ numbered s.nextTxn ts, nextTxn := s.nextTxn + ts.length } := by
  induction ts using List.reverseRecOn with
  | nil => simp [numbered]
  | append_singleton ts x ih => simp [ih, State.addTxn, numbered_concat, Nat.add_assoc]

/-- A burst with the number it takes as it joins the pool. -/
def State.addBurst (s : State) (b : Burst) : State :=
  { s with bursts := s.bursts ++ [{ b with id := s.nextBurst }], nextBurst := s.nextBurst + 1 }

/-- Bursts with the numbers they take as they join the pool. -/
def numberedBursts (n : Nat) (bs : List Burst) : List Burst := bs.zipIdx.map (fun y => { y.1 with id := n + y.2 })

theorem foldl_addBurst (s : State) (bs : List Burst) :
    bs.foldl State.addBurst s =
      { s with bursts := s.bursts ++ numberedBursts s.nextBurst bs, nextBurst := s.nextBurst + bs.length } := by
  induction bs using List.reverseRecOn with
  | nil => simp [numberedBursts]
  | append_singleton bs b ih => simp [ih, State.addBurst, numberedBursts, List.zipIdx_append, Nat.add_assoc]

section
variable {s m : State} {k : CoreSt} {c gap : Nat} {g : Engine} {o : MicroOp}

/-- A begun micro-op whose accesses have joined the pool waits for `n` of them. -/
theorem poolTxns_began (h : CarterBegan k (m.core c) g gap o 0) (hm : m = { s with cores := m.cores }) (ts : List Txn) (n : Nat) :
    CarterBegan k (((ts.foldl State.addTxn m).setLeft c g o.uid n).core c) g gap o n ∧
      (ts.foldl State.addTxn m).setLeft c g o.uid n = { s with
        cores := ((ts.foldl State.addTxn m).setLeft c g o.uid n).cores, txns := s.txns ++ numbered s.nextTxn ts,
        nextTxn := s.nextTxn + ts.length } := by
  rw [foldl_addTxn]
  obtain ⟨hbegan, hleft⟩ := setLeft_began (n := n)
    (m := { m with txns := m.txns ++ numbered m.nextTxn ts, nextTxn := m.nextTxn + ts.length }) h
  refine ⟨hbegan, hleft.trans ?_⟩
  rw [hm]

theorem poolBursts_began (h : CarterBegan k (m.core c) g gap o 0) (hm : m = { s with cores := m.cores }) (bs : List Burst) (n : Nat) :
    CarterBegan k (((bs.foldl State.addBurst m).setLeft c g o.uid n).core c) g gap o n ∧
      (bs.foldl State.addBurst m).setLeft c g o.uid n = { s with
        cores := ((bs.foldl State.addBurst m).setLeft c g o.uid n).cores, bursts := s.bursts ++ numberedBursts s.nextBurst bs,
        nextBurst := s.nextBurst + bs.length } := by
  rw [foldl_addBurst]
  obtain ⟨hbegan, hleft⟩ := setLeft_began (n := n)
    (m := { m with bursts := m.bursts ++ numberedBursts m.nextBurst bs, nextBurst := m.nextBurst + bs.length }) h
  refine ⟨hbegan, hleft.trans ?_⟩
  rw [hm]

end

/-! ### A micro-op refused whole (R94, R312) -/

/-- A fault stops invocations; the begun micro-ops stay as they are, and it raises nothing itself. -/
theorem faultInv_running (e : Eff) (num : Nat) (hard drain : Bool) :
    (e.faultInv num hard drain).k.running = e.k.running ∧ (e.faultInv num hard drain).occ = e.occ := by
  unfold Eff.faultInv
  dsimp only
  split_ifs
  · exact ⟨(settle_ends _).read (·.running), (settle_ends _).occ⟩
  · exact ⟨rfl, rfl⟩

theorem refuseOp_active (e : Eff) (g : Engine) (o : MicroOp) (hard : Bool) :
    (e.refuseOp g o hard).k.active g = (e.k.noBump g o.uid).active g ∧ (e.refuseOp g o hard).occ = e.occ := by
  obtain ⟨hrunning, hocc⟩ := faultInv_running { e with k := e.k.noBump g o.uid } o.inv hard true
  exact ⟨congrArg (Tab.get [] · g.code) hrunning, hocc⟩

theorem noBump_active {k : CoreSt} {g : Engine} {uid : Nat} {r : Running} (hr : r ∈ (k.noBump g uid).active g) (huid : r.op.uid = uid) :
    r.noBump = true := by
  rw [CoreSt.noBump, CoreSt.active_setActive, List.mem_map] at hr
  obtain ⟨y, -, rfl⟩ := hr
  by_cases hy : y.op.uid = uid
  · rw [if_pos hy]
  · rw [if_neg hy] at huid
    exact absurd huid hy

/-- A step that raises an event and refuses a micro-op leaves no begun one of its number that bumps. -/
theorem refused {s m t : State} {c : Nat} {g : Engine} {o : MicroOp} {hard : Bool} {code : Nat} {ws : List Word}
    (hm : m = { s with cores := m.cores }) (h : Lands m t c (((m.coreEff c).raise code ws).refuseOp g o hard)) :
    t = { s with cores := t.cores, occurrences := s.occurrences ++ [⟨code, ws⟩] } ∧
      ∀ r ∈ (t.core c).active g, r.op.uid = o.uid → r.noBump = true := by
  obtain ⟨hactive, hocc⟩ := refuseOp_active ((m.coreEff c).raise code ws) g o hard
  refine ⟨(h.raised hocc).trans ?_, fun r hr huid => ?_⟩
  · rw [hm]
    rfl
  · exact noBump_active (((h.core.read (·.active g)).trans hactive) ▸ hr) huid

/-! ### Inbound STREAM (R94, R277) -/

section
variable {m : State} {c : Nat} {o : MicroOp}

theorem streamIn_of_empty (h : o.inStream.total = 0) : m.streamIn c o = m := if_pos h

theorem streamIn_of_free (h : o.inStream.total ≠ 0)
    (hfree : ¬ (o.inStream.lkind = 1 ∧ o.inStream.patternIdx.any (m.core c).patternBusy = true)) :
    m.streamIn c o = ((o.inStream.readTxns c o).foldl State.addTxn m).setLeft c .inbound o.uid (o.inStream.readTxns c o).length :=
  (if_neg h).trans (if_neg hfree)

/-- The word of PATTERN_BUSY: the lowest index a stream writes, and how many from it to the highest. -/
def Stream.patternWord (d : Stream) : Word :=
  wd (d.patternIdx.foldl min 4096 + (d.patternIdx.foldl max 0 - d.patternIdx.foldl min 4096 + 1) * 65536)

theorem patternWord_low (d : Stream) : d.patternWord.toNat % 2 ^ 16 = d.patternIdx.foldl min 4096 % 2 ^ 16 := by
  rw [Stream.patternWord, wd, BitVec.toNat_ofNat, Nat.mod_mod_of_dvd _ (pow_dvd_pow 2 (by decide))]
  exact Nat.add_mul_mod_self_right _ _ _

theorem streamIn_of_busy (h : o.inStream.total ≠ 0)
    (hbusy : o.inStream.lkind = 1 ∧ o.inStream.patternIdx.any (m.core c).patternBusy = true) :
    m.streamIn c o = m.atCore c (fun e =>
      (e.raise 0x03 [locus c o, o.inStream.patternWord, wd o.inv]).refuseOp .inbound o true) :=
  (if_neg h).trans (if_pos hbusy)

end

section
variable {s : State} {c : CoreId} {gap : Nat} {o : MicroOp}

theorem exec_streamIn (h : Heads s c .inbound o) (hop : ciOp o.word = some .streamIn) (hissued : s.issuedAll c .inbound = true) :
    exec (.streamIn c gap) s = .next ((s.begun c gap o).streamIn c o) := by
  change execStreamIn c gap s = _
  rw [execStreamIn, beginHead_eq h (decide_eq_true hop) hissued]

/-- A micro-op that puts no access where it waits. -/
theorem begun_of_empty (s : State) (c gap : Nat) (o : MicroOp) :
    s.begun c gap o = { s with
      cores := (s.begun c gap o).cores, txns := s.txns ++ numbered s.nextTxn [], nextTxn := s.nextTxn + ([] : List Txn).length } :=
  (begun_self s c gap o).trans (by simp [numbered])

theorem begun_patternBusy (s : State) (c gap : Nat) (o : MicroOp) : ((s.begun c gap o).core c).patternBusy = (s.core c).patternBusy :=
  (begun_lands s c gap o).core.read (·.patternBusy)

theorem streamIn_began (heng : o.eng = .inbound)
    (hfree : o.inStream.total = 0 ∨ ¬ (o.inStream.lkind = 1 ∧ o.inStream.patternIdx.any (s.core c).patternBusy = true))
    {ts : List Txn} (hts : ts = if o.inStream.total = 0 then [] else o.inStream.readTxns c o) :
    CarterBegan (s.core c) (((s.begun c gap o).streamIn c o).core c) .inbound gap o ts.length ∧
      (s.begun c gap o).streamIn c o = { s with
        cores := ((s.begun c gap o).streamIn c o).cores, txns := s.txns ++ numbered s.nextTxn ts,
        nextTxn := s.nextTxn + ts.length } := by
  by_cases hempty : o.inStream.total = 0
  · rw [if_pos hempty] at hts
    rw [streamIn_of_empty hempty, hts]
    exact ⟨begun_began heng, begun_of_empty s c gap o⟩
  · rw [if_neg hempty] at hts
    rw [streamIn_of_free hempty (begun_patternBusy s c gap o ▸ hfree.resolve_left hempty), ← hts]
    exact poolTxns_began (begun_began heng) (begun_self s c gap o) ts _

theorem streamIn_refused (h : o.inStream.total ≠ 0) (hk : o.inStream.lkind = 1)
    (hbusy : o.inStream.patternIdx.any (s.core c).patternBusy = true) :
    (s.begun c gap o).streamIn c o = { s with
        cores := ((s.begun c gap o).streamIn c o).cores,
        occurrences := s.occurrences ++ [⟨0x03, [locus c o, o.inStream.patternWord, BitVec.ofNat 64 o.inv]⟩] } ∧
      ∀ r ∈ (((s.begun c gap o).streamIn c o).core c).active .inbound, r.op.uid = o.uid → r.noBump = true := by
  rw [streamIn_of_busy h ⟨hk, begun_patternBusy s c gap o ▸ hbusy⟩]
  exact refused (begun_self s c gap o) (atCore_lands _ _ _)

end

/-! ### POST_WINDOW (R165, R167, R278) -/

/-- The local range of a stream's hull, an empty one without it. -/
def hullSpan (hull : List Region) : Nat × Nat :=
  match hull with | .ls a b :: _ => (a, b) | _ => (1, 0)

/-- The window a POST_WINDOW posts in a cycle. -/
def MicroOp.window (o : MicroOp) (cycle : Nat) : Window :=
  ⟨o, (hullSpan o.inStream.hull).1, (hullSpan o.inStream.hull).2, o.inStream.windowBytes, 0, false, false, cycle⟩

/-- The core with the head of the inbound Carter's queue gone and its window entered. -/
def CoreSt.entered (k : CoreSt) (o : MicroOp) (j cycle : Nat) : CoreSt :=
  { k.setQueue .inbound ((k.queue .inbound).drop 1) with windows := k.windows.set j (o.window cycle), cycle := cycle }

theorem postWindow_eq {e : Eff} {gap j : Nat} {o : MicroOp} (hhead : (e.k.queue .inbound).head? = some o) (hmarker : o.marker = false)
    (hmay : e.k.mayBegin o = true) (hop : ciOp o.word = some .postWindow) (hfree : e.k.freeWindow = some j) :
    e.postWindow gap = Eff.completeWindows 33 { e with k := e.k.entered o j ((e.k.cycle + gap) % 2 ^ 64) } := by
  obtain ⟨rest, hqueue⟩ := List.head?_eq_some_iff.1 hhead
  simp only [Eff.postWindow, hqueue, hfree, hmarker, hop, hmay, Bool.not_false, decide_true, Bool.and_self, if_true]
  rfl

theorem completeWindows_of_none_ready {e : Eff} (h : ∀ y ∈ e.k.windows, e.k.windowReady y.2 = false) (n : Nat) :
    Eff.completeWindows n e = e := by
  have none : e.k.windows.find? (fun x => e.k.windowReady x.2) = none := List.find?_eq_none.2 fun y hy => by simp [h y hy]
  cases n with
  | zero => rfl
  | succ n => rw [Eff.completeWindows, none]

theorem find_freeWindow {k : CoreSt} {j : Nat} (h : k.freeWindow = some j) : k.windows.find j = none :=
  Option.isNone_iff_eq_none.1 (List.find?_some (p := fun i => (k.windows.find i).isNone) h)

/-- The table with an entry set holds that entry and older ones alone. -/
theorem Tab.eq_or_mem_of_mem_set {α : Type} {y : Nat × α} {j : Nat} {a : α} :
    ∀ {t : Tab α}, y ∈ Tab.set t j a → y = (j, a) ∨ y ∈ t
  | [], h => .inl (List.mem_singleton.1 h)
  | (i, b) :: t, h => by
    unfold Tab.set at h
    split_ifs at h
    · exact (List.mem_cons.1 h).imp id (List.mem_cons_of_mem _)
    · exact List.mem_cons.1 h
    · obtain rfl | h := List.mem_cons.1 h
      · exact .inr (List.mem_cons_self ..)
      · exact (Tab.eq_or_mem_of_mem_set h).imp id (List.mem_cons_of_mem _)

/-- Setting a free entry of a table loses none. -/
theorem Tab.mem_set_of_free {α : Type} {y : Nat × α} {j : Nat} {a : α} :
    ∀ {t : Tab α}, Tab.find t j = none → y ∈ t → y ∈ Tab.set t j a
  | (i, b) :: t, hfree, h => by
    unfold Tab.find at hfree
    unfold Tab.set
    split_ifs at hfree ⊢
    · exact List.mem_cons_of_mem _ h
    · obtain rfl | h := List.mem_cons.1 h
      · exact List.mem_cons_self ..
      · exact List.mem_cons_of_mem _ (Tab.mem_set_of_free hfree h)

/-- A window that lacks bytes is not ready. -/
theorem windowReady_of_lacking {k : CoreSt} {w : Window} (h : w.got < w.expect) : k.windowReady w = false := by
  simp [CoreSt.windowReady, h]

/-- More windows make none ready. -/
theorem windowReady_of_more {k k' : CoreSt} {w : Window} (hmore : ∀ x ∈ k.windows, x ∈ k'.windows)
    (h : k.windowReady w = false) : k'.windowReady w = false := by
  simp only [CoreSt.windowReady, Bool.and_eq_false_iff, Bool.not_eq_false', List.any_eq_true] at h ⊢
  exact h.imp id fun ⟨x, hx, hmeets⟩ => ⟨x, hmore x hx, hmeets⟩

theorem entered_none_ready {k : CoreSt} {o : MicroOp} {j cycle : Nat} (hfree : k.freeWindow = some j)
    (hbytes : 0 < o.inStream.windowBytes) (h : ∀ y ∈ k.windows, k.windowReady y.2 = false) :
    ∀ y ∈ (k.entered o j cycle).windows, (k.entered o j cycle).windowReady y.2 = false := by
  intro y hy
  obtain rfl | hold := Tab.eq_or_mem_of_mem_set hy
  · exact windowReady_of_lacking hbytes
  · exact windowReady_of_more (fun x hx => Tab.mem_set_of_free (find_freeWindow hfree) hx) (h y hold)

theorem postWindow_coreAt {s : State} {c gap j : Nat} {o : MicroOp} (h : Heads s c .inbound o) (hop : ciOp o.word = some .postWindow)
    (hfree : (s.core c).freeWindow = some j) (hbytes : 0 < o.inStream.windowBytes)
    (hready : ∀ y ∈ (s.core c).windows, (s.core c).windowReady y.2 = false) :
    CoreAt s (s.onCore c (fun e => e.postWindow gap)) c ((s.core c).entered o j (((s.core c).cycle + gap) % 2 ^ 64)) := by
  obtain ⟨hruns, hhead, -, hmarker, hmay⟩ := h
  have entered := postWindow_eq (e := s.coreEff c) (gap := gap) hhead hmarker hmay hop hfree
  rw [completeWindows_of_none_ready (entered_none_ready hfree hbytes hready)] at entered
  exact onCore_coreAt_of_eq (f := fun e => e.postWindow gap) hruns entered rfl rfl

/-! ### What a Drayman accepts (R280, R281, R292) -/

/-- The descriptor of a micro-op that is handed to the Drayman of its core's guild. -/
def MicroOp.descriptor (o : MicroOp) (id c : Nat) (d : Stream) (fence : Bool) : DrayDesc :=
  { id := id, core := c, op := o, fence := fence, stream := d, token := d.tokEn && !fence }

/-- A FENCE's descriptor owes no token. -/
theorem descriptor_fence (o : MicroOp) (id c : Nat) (d : Stream) :
    o.descriptor id c d true = { id := id, core := c, op := o, fence := true, stream := d } := by
  rw [MicroOp.descriptor, Bool.not_true, Bool.and_false]

theorem descriptor_prefetch (o : MicroOp) (id c : Nat) (d : Stream) :
    o.descriptor id c d false = { id := id, core := c, op := o, fence := false, stream := d, token := d.tokEn } := by
  rw [MicroOp.descriptor, Bool.not_false, Bool.and_true]

/-- The module with a descriptor in the queue of a guild's Drayman. -/
def State.withDesc (s : State) (q : DrayDesc) : State :=
  { s with
    guilds := s.guilds.set (guildOf q.core) { s.guild (guildOf q.core) with drayQueue := (s.guild (guildOf q.core)).drayQueue ++ [q] },
    nextDray := s.nextDray + 1 }

theorem drayAccept_eq (s : State) (c : Nat) (o : MicroOp) (d : Stream) (fence : Bool) :
    s.drayAccept c o d fence = s.withDesc (o.descriptor s.nextDray c d fence) := rfl

/-- A begun micro-op whose descriptor the Drayman has accepted waits for `n` of its ends. -/
theorem drayAccept_began {s m : State} {k : CoreSt} {c gap : Nat} {g : Engine} {o : MicroOp} (h : CarterBegan k (m.core c) g gap o 0)
    (hm : m = { s with cores := m.cores }) (d : Stream) (fence : Bool) (n : Nat) :
    CarterBegan k (((m.drayAccept c o d fence).setLeft c g o.uid n).core c) g gap o n ∧
      (m.drayAccept c o d fence).setLeft c g o.uid n = { s.withDesc (o.descriptor s.nextDray c d fence) with
        cores := ((m.drayAccept c o d fence).setLeft c g o.uid n).cores } := by
  obtain ⟨hbegan, hleft⟩ := setLeft_began (m := m.drayAccept c o d fence) (n := n) h
  refine ⟨hbegan, hleft.trans ?_⟩
  rw [drayAccept_eq, hm]
  rfl

/-! ### FENCE (R281, R296) -/

section
variable {s : State} {c : CoreId} {gap : Nat} {o : MicroOp}

theorem exec_fence (h : Heads s c .inbound o) (hop : ciOp o.word = some .fence) (hissued : s.issuedAll c .inbound = true)
    (hready : s.fenceReady c o = true) (hroom : s.drayRoom (guildOf c) = true) :
    exec (.fence c gap) s = .next ((s.begun c gap o).fenceStart c o) := by
  change execFence c gap s = _
  rw [execFence, beginHead_eq h (by simp [hop, hready, hroom]) hissued]

theorem fenceStart_of_empty {m : State} (h : o.inStream.total = 0) : m.fenceStart c o = m := if_pos h

theorem fenceStart_of_some {m : State} (h : o.inStream.total ≠ 0) :
    m.fenceStart c o = (m.drayAccept c o o.inStream true).setLeft c .inbound o.uid 1 := if_neg h

theorem fenceStart_began {m : State} {k : CoreSt} (h : CarterBegan k (m.core c) .inbound gap o 0) (hm : m = { s with cores := m.cores })
    (hsome : o.inStream.total ≠ 0) :
    CarterBegan k ((m.fenceStart c o).core c) .inbound gap o 1 ∧
      m.fenceStart c o = { s.withDesc (o.descriptor s.nextDray c o.inStream true) with cores := (m.fenceStart c o).cores } := by
  rw [fenceStart_of_some hsome]
  exact drayAccept_began h hm _ true 1

/-! ### PREFETCH (R274, R280) -/

theorem exec_prefetch (h : Heads s c .outbound o) (hop : coOp o.word = some .prefetch) (hissued : s.issuedAll c .outbound = true)
    (hroom : o.outStream.total = 0 ∧ o.outStream.tokEn = false ∨ s.drayRoom (guildOf c) = true) :
    exec (.prefetch c gap) s = .next ((s.begun c gap o).prefetch c o) := by
  change execPrefetch c gap s = _
  rw [execPrefetch, beginHead_eq h (by simpa [hop] using hroom) hissued]

theorem prefetch_of_empty {m : State} (h : o.outStream.total = 0 ∧ o.outStream.tokEn = false) : m.prefetch c o = m :=
  if_pos ⟨h.1, by simp [h.2]⟩

theorem prefetch_of_some {m : State} (h : o.outStream.total ≠ 0 ∨ o.outStream.tokEn = true) :
    m.prefetch c o = ((m.chargeBlocks c o.inv (m.prefetchTargets c o.outStream)).drayAccept c o o.outStream false).setLeft c
      .outbound o.uid (if o.outStream.psrc ∧ o.outStream.total ≠ 0 then 1 else 0) :=
  if_neg fun ⟨hempty, htok⟩ => h.elim (· hempty) fun ht => by simp [ht] at htok

/-- A charge of an invocation's account changes nothing but the Gauger's counts. -/
theorem chargeBlocks_aside (m : State) (c inv : Nat) (ls : List (Option Loc)) :
    Aside (m.core c) ((m.chargeBlocks c inv ls).core c) ∧
      m.chargeBlocks c inv ls = { m with cores := (m.chargeBlocks c inv ls).cores } := by
  have charged : (m.chargeBlocks c inv ls).core c = _ := Tab.get_set_same _ _ _ _
  refine ⟨?_, rfl⟩
  rw [charged]
  rfl

theorem prefetch_began {m : State} {k : CoreSt} (h : CarterBegan k (m.core c) .outbound gap o 0) (hm : m = { s with cores := m.cores })
    (hsome : o.outStream.total ≠ 0 ∨ o.outStream.tokEn = true) :
    CarterBegan k ((m.prefetch c o).core c) .outbound gap o (if o.outStream.psrc ∧ o.outStream.total ≠ 0 then 1 else 0) ∧
      m.prefetch c o = { s.withDesc (o.descriptor s.nextDray c o.outStream false) with cores := (m.prefetch c o).cores } := by
  obtain ⟨haside, hcharged⟩ := chargeBlocks_aside m c o.inv (m.prefetchTargets c o.outStream)
  rw [prefetch_of_some hsome]
  refine drayAccept_began (h.aside haside) (hcharged.trans ?_) _ false _
  rw [hm]

end

/-! ### Outbound STREAM (R279, R282, R285, R312, R315) -/

/-- From `b` to `e` only the checks of the local store and the Gauger's counts have changed. -/
structure SourceRead (b e : Eff) : Prop where
  core : Aside { b.k with ls := e.k.ls } e.k
  data : e.k.ls.data = b.k.ls.data
  occ : e.occ = b.occ

namespace SourceRead

theorem refl (e : Eff) : SourceRead e e := ⟨rfl, rfl, rfl⟩

theorem trans {a b e : Eff} (h : SourceRead a b) (h' : SourceRead b e) : SourceRead a e := by
  refine ⟨?_, h'.data.trans h.data, h'.occ.trans h.occ⟩
  obtain ⟨y, hb⟩ := aside_iff.1 h.core
  obtain ⟨z, he⟩ := aside_iff.1 h'.core
  refine aside_iff.2 ⟨z, ?_⟩
  rw [hb] at he
  exact he

theorem foldl {α : Type} {step : Eff → α → Eff} (h : ∀ e x, SourceRead e (step e x)) (l : List α) (e : Eff) :
    SourceRead e (l.foldl step e) :=
  List.foldlRecOn l step (refl e) fun x hx a _ => hx.trans (h x a)

end SourceRead

theorem touchLs_sourceRead (e : Eff) (a n : Nat) : SourceRead e (e.touchLs a n) := ⟨rfl, store_afterRead_data _ _ _, rfl⟩

/-- The core's step with the local bytes of a stream's rows read. -/
def Eff.readRows (e : Eff) (d : Stream) : Eff :=
  d.rows.foldl (fun (e : Eff) r => (skewParts d.skew r.1.toNat d.count0).foldl (fun (e : Eff) (p : Nat × Nat × Nat) =>
    e.touchLs p.1 p.2.1) e) e

theorem readRows_sourceRead (e : Eff) (d : Stream) : SourceRead e (e.readRows d) := by
  refine SourceRead.foldl (fun e r => ?_) d.rows e
  exact SourceRead.foldl (fun e (p : Nat × Nat × Nat) => touchLs_sourceRead e p.1 p.2.1) _ e

/-- The core's step with the local bytes of a stream read, its read regions released and its bytes counted. -/
def Eff.readLocal (e : Eff) (o : MicroOp) (d : Stream) : Eff :=
  { (e.readRows d) with k := (e.readRows d).k.releaseReads o.uid }.count 0x05A d.total

/-- The module with the local bytes of an outbound STREAM read. -/
def State.readLocal (m : State) (c : Nat) (o : MicroOp) : State := m.atCore c (fun e => e.readLocal o o.outStream)

theorem carries_release {b e : Eff} (h : SourceRead b e) (uid : Nat) : Carries b.k (e.k.releaseReads uid) := by
  obtain ⟨z, hz⟩ := aside_iff.1 h.core
  rw [hz]
  rfl

/-- The reads and the release of a micro-op's read regions after it began. -/
theorem release_began {k : CoreSt} {b e : Eff} {gap uid : Nat} {g : Engine} {o : MicroOp} (h : CarterBegan k b.k g gap o 0)
    (hread : SourceRead b e) : CarterBegan k (e.k.releaseReads uid) g gap o 0 := by
  have cycle := hread.core.read (·.cycle)
  have queues := hread.core.read (·.queues)
  have running := hread.core.read (·.running)
  exact h.step (carries_release hread uid) cycle queues running hread.data

/-- A module that differs in its cores alone from one that does so. -/
theorem coresOnly_trans {s m t : State} (hm : m = { s with cores := m.cores }) (ht : t = { m with cores := t.cores }) :
    t = { s with cores := t.cores } := by
  rw [hm] at ht
  exact ht

theorem readLocal_passes (e : Eff) (o : MicroOp) (d : Stream) : Aside ((e.readRows d).k.releaseReads o.uid) (e.readLocal o d).k :=
  (count_passes { (e.readRows d) with k := (e.readRows d).k.releaseReads o.uid } 0x05A d.total).core

theorem readLocal_occ (e : Eff) (o : MicroOp) (d : Stream) : (e.readLocal o d).occ = e.occ :=
  (count_passes { (e.readRows d) with k := (e.readRows d).k.releaseReads o.uid } 0x05A d.total).occ.trans
    (readRows_sourceRead e d).occ

theorem readLocal_began {s m : State} {k : CoreSt} {c gap : Nat} {o : MicroOp} (h : CarterBegan k (m.core c) .outbound gap o 0)
    (hm : m = { s with cores := m.cores }) :
    CarterBegan k ((m.readLocal c o).core c) .outbound gap o 0 ∧ m.readLocal c o = { s with cores := (m.readLocal c o).cores } := by
  have read := readRows_sourceRead (m.coreEff c) o.outStream
  have lands : Lands m (m.readLocal c o) c ((m.coreEff c).readLocal o o.outStream) := atCore_lands m c _
  have began := release_began (uid := o.uid) (b := m.coreEff c) h read
  exact ⟨(began.aside (readLocal_passes _ _ _)).aside lands.core, coresOnly_trans hm (lands.quiet (readLocal_occ _ _ _))⟩

section
variable {m : State} {c : Nat} {o : MicroOp}

theorem streamOut_of_invalid (hkind : o.outStream.rkind = 2) (hset : m.setOk o.outStream.rUnit o.outStream.reduce = false) :
    m.streamOut c o = m.atCore c (fun e => e.setInvalid o o.outStream.rUnit) :=
  if_pos ⟨hkind, by simp [hset]⟩

/-- A stream that moves nothing, or that names a set without targets, is done at once. -/
theorem streamOut_of_empty (hvalid : o.outStream.rkind = 2 → m.setOk o.outStream.rUnit o.outStream.reduce = true)
    (h : o.outStream.total = 0 ∨ o.outStream.rkind = 2 ∧ m.setTargets o.outStream.rUnit = []) : m.streamOut c o = m :=
  (if_neg fun ⟨hkind, hset⟩ => by simp [hvalid hkind] at hset).trans (if_pos h)

theorem streamOut_of_writes (hkind : o.outStream.rkind ≠ 2) (h : o.outStream.total ≠ 0) :
    m.streamOut c o = (((m.core c).writeTxns c o o.outStream (m.nextTxn + 1)).foldl State.addTxn (m.readLocal c o)).setLeft c
      .outbound o.uid (if o.outStream.source then 0 else ((m.core c).writeTxns c o o.outStream (m.nextTxn + 1)).length) :=
  (if_neg fun h => hkind h.1).trans ((if_neg fun h' => h'.elim h fun h => hkind h.1).trans (if_neg hkind))

theorem streamOut_of_bursts (hkind : o.outStream.rkind = 2) (hset : m.setOk o.outStream.rUnit o.outStream.reduce = true)
    (h : ¬ (o.outStream.total = 0 ∨ m.setTargets o.outStream.rUnit = [])) :
    m.streamOut c o = (((m.core c).bursts c o o.outStream).foldl State.addBurst (m.readLocal c o)).setLeft c
      .outbound o.uid (if o.outStream.source then 0 else ((m.core c).bursts c o o.outStream).length) :=
  (if_neg fun h => by simp [hset] at h).trans ((if_neg fun h' => h (h'.imp id (·.2))).trans (if_pos hkind))

end

/-! The accesses and the bursts of a stream come from the local store alone. -/

theorem writeTxns_congr {k k' : CoreSt} (h : k.ls = k'.ls) (c : Nat) (o : MicroOp) (d : Stream) (packet : Nat) :
    k.writeTxns c o d packet = k'.writeTxns c o d packet := by
  simp only [CoreSt.writeTxns, CoreSt.imageRow, CoreSt.remoteRuns, CoreSt.localRow, h]

theorem bursts_congr {k k' : CoreSt} (h : k.ls = k'.ls) (c : Nat) (o : MicroOp) (d : Stream) : k.bursts c o d = k'.bursts c o d := by
  simp only [CoreSt.bursts, CoreSt.imageRow, CoreSt.remoteRuns, CoreSt.localRow, h]

section
variable {s : State} {c : CoreId} {gap : Nat} {o : MicroOp}

theorem exec_streamOut (h : Heads s c .outbound o) (hop : coOp o.word = some .streamOut) (hissued : s.issuedAll c .outbound = true) :
    exec (.streamOut c gap) s = .next ((s.begun c gap o).streamOut c o) := by
  change execStreamOut c gap s = _
  rw [execStreamOut, beginHead_eq h (decide_eq_true hop) hissued]

theorem begun_ls (s : State) (c gap : Nat) (o : MicroOp) : ((s.begun c gap o).core c).ls = (s.core c).ls :=
  (begun_lands s c gap o).core.read (·.ls)

theorem begun_setOk (s : State) (c gap : Nat) (o : MicroOp) (n : Nat) (reduce : Bool) :
    (s.begun c gap o).setOk n reduce = s.setOk n reduce := rfl

theorem begun_setTargets (s : State) (c gap : Nat) (o : MicroOp) (n : Nat) : (s.begun c gap o).setTargets n = s.setTargets n := rfl

/-- A micro-op that puts no burst where it waits. -/
theorem begun_of_no_burst (s : State) (c gap : Nat) (o : MicroOp) :
    s.begun c gap o = { s with
      cores := (s.begun c gap o).cores, bursts := s.bursts ++ numberedBursts s.nextBurst [],
      nextBurst := s.nextBurst + ([] : List Burst).length } :=
  (begun_self s c gap o).trans (by simp [numberedBursts])

theorem streamOut_refused (hkind : o.outStream.rkind = 2) (hset : s.setOk o.outStream.rUnit o.outStream.reduce = false) :
    (s.begun c gap o).streamOut c o = { s with
        cores := ((s.begun c gap o).streamOut c o).cores,
        occurrences := s.occurrences ++ [⟨0x0F, [locus c o, BitVec.ofNat 64 o.outStream.rUnit]⟩] } ∧
      ∀ r ∈ (((s.begun c gap o).streamOut c o).core c).active .outbound, r.op.uid = o.uid → r.noBump = true := by
  rw [streamOut_of_invalid hkind ((begun_setOk ..).trans hset)]
  exact refused (begun_self s c gap o) (atCore_lands _ _ _)

theorem streamOut_writes (heng : o.eng = .outbound) (hkind : o.outStream.rkind ≠ 2) {ts : List Txn}
    (hts : ts = if o.outStream.total = 0 then [] else (s.core c).writeTxns c o o.outStream (s.nextTxn + 1)) :
    CarterBegan (s.core c) (((s.begun c gap o).streamOut c o).core c) .outbound gap o (if o.outStream.source then 0 else ts.length) ∧
      (s.begun c gap o).streamOut c o = { s with
        cores := ((s.begun c gap o).streamOut c o).cores, txns := s.txns ++ numbered s.nextTxn ts,
        nextTxn := s.nextTxn + ts.length } := by
  have began := begun_began (s := s) (c := c) (gap := gap) heng
  by_cases hempty : o.outStream.total = 0
  · rw [if_pos hempty] at hts
    rw [streamOut_of_empty (fun h => absurd h hkind) (.inl hempty), hts, List.length_nil, ite_self]
    exact ⟨began, begun_of_empty s c gap o⟩
  · rw [if_neg hempty] at hts
    have same : ((s.begun c gap o).core c).writeTxns c o o.outStream ((s.begun c gap o).nextTxn + 1) = ts :=
      (writeTxns_congr (begun_ls s c gap o) ..).trans hts.symm
    rw [streamOut_of_writes hkind hempty, same]
    obtain ⟨read, hread⟩ := readLocal_began began (begun_self s c gap o)
    exact poolTxns_began read hread ts _

theorem streamOut_bursts (heng : o.eng = .outbound) (hkind : o.outStream.rkind = 2)
    (hset : s.setOk o.outStream.rUnit o.outStream.reduce = true) {bs : List Burst}
    (hbs : bs = if o.outStream.total = 0 ∨ s.setTargets o.outStream.rUnit = [] then [] else (s.core c).bursts c o o.outStream) :
    CarterBegan (s.core c) (((s.begun c gap o).streamOut c o).core c) .outbound gap o (if o.outStream.source then 0 else bs.length) ∧
      (s.begun c gap o).streamOut c o = { s with
        cores := ((s.begun c gap o).streamOut c o).cores, bursts := s.bursts ++ numberedBursts s.nextBurst bs,
        nextBurst := s.nextBurst + bs.length } := by
  have began := begun_began (s := s) (c := c) (gap := gap) heng
  have valid := (begun_setOk s c gap o o.outStream.rUnit o.outStream.reduce).trans hset
  have targets := begun_setTargets s c gap o o.outStream.rUnit
  by_cases hempty : o.outStream.total = 0 ∨ s.setTargets o.outStream.rUnit = []
  · rw [if_pos hempty] at hbs
    rw [streamOut_of_empty (fun _ => valid) (hempty.imp id fun h => ⟨hkind, targets.trans h⟩), hbs, List.length_nil, ite_self]
    exact ⟨began, begun_of_no_burst s c gap o⟩
  · rw [if_neg hempty] at hbs
    have same := (bursts_congr (begun_ls s c gap o) c o o.outStream).trans hbs.symm
    rw [streamOut_of_bursts hkind valid (targets ▸ hempty), same]
    obtain ⟨read, hread⟩ := readLocal_began began (begun_self s c gap o)
    exact poolBursts_began read hread bs _

end

/-- Settles O34: a Carter's micro-op begins as any does, and then its operation is one of the steps above. -/
theorem carterMicroOps : Obligations.CarterMicroOps := by
  rintro s c gap o d k x q rfl rfl
  refine ⟨?inbound, ?outbound⟩
  case inbound =>
    rintro hheads rfl rfl
    obtain ⟨-, -, heng, -⟩ := id hheads
    refine ⟨fun hop hissued => ⟨_, exec_streamIn hheads hop hissued, fun hfree ts hts => streamIn_began heng hfree hts,
        fun hsome hkind hbusy => ?busy⟩,
      ?window, fun hop hissued hready hroom => ⟨_, exec_fence hheads hop hissued hready hroom, ?fence⟩⟩
    case busy =>
      obtain ⟨hrest, hnoBump⟩ := streamIn_refused (gap := gap) hsome hkind hbusy
      exact ⟨_, hrest, hnoBump, patternWord_low _⟩
    case window =>
      rintro hop j lo hi w hfree rfl hspan hbytes hready
      obtain rfl : lo = (hullSpan o.inStream.hull).1 := congrArg Prod.fst hspan
      obtain rfl : hi = (hullSpan o.inStream.hull).2 := congrArg Prod.snd hspan
      exact ⟨_, rfl, postWindow_coreAt hheads hop hfree hbytes hready⟩
    case fence =>
      refine ⟨fun hempty => ?_, fun hsome => ?_⟩
      · rw [fenceStart_of_empty hempty]
        exact ⟨begun_began heng, begun_self s c gap o⟩
      · rw [← descriptor_fence]
        exact fenceStart_began (begun_began heng) (begun_self s c gap o) hsome
  case outbound =>
    rintro hheads rfl rfl
    obtain ⟨-, -, heng, -⟩ := id hheads
    refine ⟨fun hop hissued => ⟨_, exec_streamOut hheads hop hissued, streamOut_refused,
        fun hkind ts hts => streamOut_writes heng hkind hts, fun hkind hset bs hbs => streamOut_bursts heng hkind hset hbs⟩,
      fun hop hissued hroom => ⟨_, exec_prefetch hheads hop hissued hroom, ?prefetch⟩⟩
    case prefetch =>
      by_cases hsome : o.outStream.total ≠ 0 ∨ o.outStream.tokEn = true
      · obtain ⟨hbegan, hrest⟩ := prefetch_began (begun_began heng) (begun_self s c gap o) hsome
        rw [descriptor_prefetch] at hrest
        exact ⟨hbegan, fun hempty htok => by simp [hempty, htok] at hsome, fun _ => hrest⟩
      · obtain ⟨hempty, htok⟩ : o.outStream.total = 0 ∧ o.outStream.tokEn = false := by simpa using hsome
        rw [prefetch_of_empty ⟨hempty, htok⟩, if_neg fun h => h.2 hempty]
        exact ⟨begun_began heng, fun _ _ => begun_self s c gap o, fun h => absurd h hsome⟩

end Sys2Proof.Machine
end

section
/-! The encoding of Tally instructions (R136, Tables 5.4 to 5.6): a word of each format as a number, the fields that the decoder reads
in it, and the codes read back. -/

namespace Sys2Proof.Machine

/-! ### Codes read back -/

@[simp] theorem RegFn.ofCode_code (f : RegFn) : RegFn.ofCode f.code = some f := by cases f <;> rfl
@[simp] theorem ImmOp.ofCode_code (o : ImmOp) : ImmOp.ofCode o.code = some o := by cases o <;> rfl
@[simp] theorem StoreOp.ofCode_code (o : StoreOp) : StoreOp.ofCode o.code = some o := by cases o <;> rfl
@[simp] theorem BranchOp.ofCode_code (o : BranchOp) : BranchOp.ofCode o.code = some o := by cases o <;> rfl

theorem RegFn.code_of_ofCode {n : Nat} {f : RegFn} (h : RegFn.ofCode n = some f) : f.code = n := by
  unfold RegFn.ofCode at h
  split at h <;> cases h <;> rfl

theorem ImmOp.code_of_ofCode {n : Nat} {o : ImmOp} (h : ImmOp.ofCode n = some o) : o.code = n := by
  unfold ImmOp.ofCode at h
  split at h <;> cases h <;> rfl

theorem StoreOp.code_of_ofCode {n : Nat} {o : StoreOp} (h : StoreOp.ofCode n = some o) : o.code = n := by
  unfold StoreOp.ofCode at h
  split at h <;> cases h <;> rfl

theorem BranchOp.code_of_ofCode {n : Nat} {o : BranchOp} (h : BranchOp.ofCode n = some o) : o.code = n := by
  unfold BranchOp.ofCode at h
  split at h <;> cases h <;> rfl

theorem RegFn.code_lt (f : RegFn) : f.code < 64 := by cases f <;> decide

/-- An IMM opcode is that of no other format. -/
theorem ImmOp.code_range (o : ImmOp) :
    o.code < 64 ∧ o.code ≠ 0 ∧ o.code ≠ 0x26 ∧ o.code ≠ 0x27 ∧ o.code ≠ 0x0A ∧ o.code ≠ 0x0B := by cases o <;> decide

/-- A STORE opcode is that of no other format. -/
theorem StoreOp.code_range (o : StoreOp) : ImmOp.ofCode o.code = none ∧
    o.code < 64 ∧ o.code ≠ 0 ∧ o.code ≠ 0x26 ∧ o.code ≠ 0x27 ∧ o.code ≠ 0x0A ∧ o.code ≠ 0x0B := by cases o <;> decide

/-- A BRANCH opcode is that of no other format. -/
theorem BranchOp.code_range (o : BranchOp) : ImmOp.ofCode o.code = none ∧ StoreOp.ofCode o.code = none ∧
    o.code < 64 ∧ o.code ≠ 0 ∧ o.code ≠ 0x26 ∧ o.code ≠ 0x27 ∧ o.code ≠ 0x0A ∧ o.code ≠ 0x0B := by cases o <;> decide

/-! ### The number of a word (Table 5.4) -/

theorem toNat_append_eq {m n : Nat} (x : BitVec m) (y : BitVec n) : (x ++ y).toNat = 2 ^ n * x.toNat + y.toNat := by
  rw [BitVec.toNat_append, Nat.shiftLeft_eq, Nat.mul_comm, ← Nat.two_pow_add_eq_or_of_lt y.isLt]

/-- The number of a REG word. -/
theorem tallyEncode_reg_toNat (f : RegFn) (rd rs1 rs2 : Fin 32) :
    (tallyEncode (.reg f rd rs1 rs2)).toNat = rd * 2 ^ 21 + rs1 * 2 ^ 16 + rs2 * 2 ^ 11 + f.code := by
  have code := f.code_lt
  simp only [tallyEncode, toNat_append_eq, BitVec.toNat_ofNat]
  omega

/-- The number of a word of an opcode, two register fields and 16 bits: IMM, STORE and BRANCH. -/
theorem toNat_opcode_fields {code : Nat} (hcode : code < 64) (a b : Fin 32) (v : BitVec 16) :
    (BitVec.ofNat 6 code ++ BitVec.ofNat 5 a ++ BitVec.ofNat 5 b ++ v).toNat =
      code * 2 ^ 26 + a * 2 ^ 21 + b * 2 ^ 16 + v.toNat := by
  simp only [toNat_append_eq, BitVec.toNat_ofNat]
  omega

/-- The number of a J or JAL word. -/
theorem tallyEncode_jump_toNat (link : Bool) (off : BitVec 26) :
    (tallyEncode (.jump link off)).toNat = (if link then 0x27 else 0x26) * 2 ^ 26 + off.toNat := by
  simp only [tallyEncode, toNat_append_eq, BitVec.toNat_ofNat]
  split <;> omega

/-- The number of a MOVE word. -/
theorem tallyEncode_move_toNat (keep : Bool) (rd : Fin 32) (q : Fin 4) (v : BitVec 16) :
    (tallyEncode (.move keep rd q v)).toNat =
      (if keep then 0x0B else 0x0A) * 2 ^ 26 + rd * 2 ^ 21 + q * 2 ^ 16 + v.toNat := by
  simp only [tallyEncode, toNat_append_eq, BitVec.toNat_ofNat]
  split <;> omega

/-! ### The fields that the decoder reads -/

theorem bitsOf_eq_div (v hi lo : Nat) : bitsOf v hi lo = v / 2 ^ lo % 2 ^ (hi + 1 - lo) := by
  rw [bitsOf, Nat.shiftRight_eq_div_pow]

theorem regField_val (w : BitVec 32) (lo : Nat) : (regField w lo).val = w.toNat / 2 ^ lo % 32 := by
  have width : lo + 4 + 1 - lo = 5 := by omega
  simp only [regField, bitsOf_eq_div, width]
  rfl

theorem regField_eq {w : BitVec 32} {lo : Nat} {r : Fin 32} (h : w.toNat / 2 ^ lo % 32 = r) : regField w lo = r :=
  Fin.ext ((regField_val w lo).trans h)

theorem extractLsb'_zero_eq {w : BitVec 32} {n : Nat} {v : BitVec n} (h : w.toNat % 2 ^ n = v.toNat) : w.extractLsb' 0 n = v := by
  apply BitVec.eq_of_toNat_eq
  rw [BitVec.extractLsb'_toNat, Nat.shiftRight_zero, h]

/-- The two register fields and the low half of a word of an opcode, two register fields and 16 bits. -/
theorem fields_of_toNat {w : BitVec 32} {code : Nat} {a b : Fin 32} {v : BitVec 16}
    (h : w.toNat = code * 2 ^ 26 + a * 2 ^ 21 + b * 2 ^ 16 + v.toNat) :
    bitsOf w.toNat 31 26 = code ∧ regField w 21 = a ∧ regField w 16 = b ∧ w.extractLsb' 0 16 = v := by
  have low := v.isLt
  refine ⟨?_, regField_eq ?_, regField_eq ?_, extractLsb'_zero_eq ?_⟩
  · rw [bitsOf_eq_div]
    omega
  all_goals omega

/-- The decoder reads in a word the fields it was encoded from. -/
theorem tallyFields_encode (op : TallyOp) : tallyFields (tallyEncode op) = some op := by
  cases op with
  | reg f rd rs1 rs2 =>
    have number := tallyEncode_reg_toNat f rd rs1 rs2
    have code := f.code_lt
    generalize tallyEncode (.reg f rd rs1 rs2) = w at number ⊢
    have opcode : bitsOf w.toNat 31 26 = 0 := by rw [bitsOf_eq_div]; omega
    have zero : bitsOf w.toNat 10 6 = 0 := by rw [bitsOf_eq_div]; omega
    have fn : bitsOf w.toNat 5 0 = f.code := by rw [bitsOf_eq_div]; omega
    have hrd : regField w 21 = rd := regField_eq (by omega)
    have hrs1 : regField w 16 = rs1 := regField_eq (by omega)
    have hrs2 : regField w 11 = rs2 := regField_eq (by omega)
    simp [tallyFields, opcode, zero, fn, hrd, hrs1, hrs2]
  | imm o rd rs1 v =>
    obtain ⟨lt, reg, j, jal, movz, movk⟩ := o.code_range
    obtain ⟨opcode, ha, hb, hv⟩ := fields_of_toNat (toNat_opcode_fields lt rd rs1 v)
    simp only [tallyEncode, tallyFields, opcode, ha, hb, hv, reg, j, jal, movz, movk, if_false, or_self, ImmOp.ofCode_code]
  | store o rs2 rs1 v =>
    obtain ⟨imm, lt, reg, j, jal, movz, movk⟩ := o.code_range
    obtain ⟨opcode, ha, hb, hv⟩ := fields_of_toNat (toNat_opcode_fields lt rs2 rs1 v)
    simp only [tallyEncode, tallyFields, opcode, ha, hb, hv, reg, j, jal, movz, movk, if_false, or_self, imm, StoreOp.ofCode_code]
  | branch o rs1 rs2 v =>
    obtain ⟨imm, store, lt, reg, j, jal, movz, movk⟩ := o.code_range
    obtain ⟨opcode, ha, hb, hv⟩ := fields_of_toNat (toNat_opcode_fields lt rs1 rs2 v)
    simp only [tallyEncode, tallyFields, opcode, ha, hb, hv, reg, j, jal, movz, movk, if_false, or_self, imm, store,
      BranchOp.ofCode_code]
  | jump link off =>
    have number := tallyEncode_jump_toNat link off
    have low := off.isLt
    generalize tallyEncode (.jump link off) = w at number ⊢
    have opcode : bitsOf w.toNat 31 26 = if link then 0x27 else 0x26 := by
      rw [bitsOf_eq_div, number]
      split <;> omega
    have hoff : w.extractLsb' 0 26 = off := extractLsb'_zero_eq (by omega)
    cases link <;> simp [tallyFields, opcode, hoff]
  | move keep rd q v =>
    have number := tallyEncode_move_toNat keep rd q v
    have low := v.isLt
    generalize tallyEncode (.move keep rd q v) = w at number ⊢
    have opcode : bitsOf w.toNat 31 26 = if keep then 0x0B else 0x0A := by
      rw [bitsOf_eq_div, number]
      split <;> omega
    have zero : bitsOf w.toNat 20 18 = 0 := by rw [bitsOf_eq_div]; omega
    have hq : bitsOf w.toNat 17 16 = q := by rw [bitsOf_eq_div]; omega
    have hrd : regField w 21 = rd := regField_eq (by omega)
    have hv : w.extractLsb' 0 16 = v := extractLsb'_zero_eq (by omega)
    cases keep <;> simp [tallyFields, opcode, zero, hq, hrd, hv]

/-! ### The word of what it decodes to -/

theorem extractLsb'_zero_toNat (w : BitVec 32) (n : Nat) : (w.extractLsb' 0 n).toNat = w.toNat % 2 ^ n := by
  rw [BitVec.extractLsb'_toNat, Nat.shiftRight_zero]

/-- A word is its opcode, its two upper register fields and its low half. -/
theorem opcode_fields_eq {w : BitVec 32} {code : Nat} (h : code = bitsOf w.toNat 31 26) :
    BitVec.ofNat 6 code ++ BitVec.ofNat 5 (regField w 21) ++ BitVec.ofNat 5 (regField w 16) ++ w.extractLsb' 0 16 = w := by
  have range := w.isLt
  rw [bitsOf_eq_div] at h
  apply BitVec.eq_of_toNat_eq
  rw [toNat_opcode_fields (by omega), regField_val, regField_val, extractLsb'_zero_toNat]
  omega

theorem tallyEncode_of_fields {w : BitVec 32} {op : TallyOp} (h : tallyFields w = some op) : tallyEncode op = w := by
  have range := w.isLt
  unfold tallyFields at h
  dsimp only at h
  split_ifs at h with reg zero j jal move zero
  · obtain ⟨f, hf, rfl⟩ := Option.map_eq_some_iff.1 h
    have code := RegFn.code_of_ofCode hf
    rw [bitsOf_eq_div] at reg zero code
    apply BitVec.eq_of_toNat_eq
    rw [tallyEncode_reg_toNat, regField_val, regField_val, regField_val]
    omega
  · cases h
    rw [bitsOf_eq_div] at j
    apply BitVec.eq_of_toNat_eq
    rw [tallyEncode_jump_toNat, extractLsb'_zero_toNat]
    simp only [Bool.false_eq_true, if_false]
    omega
  · cases h
    rw [bitsOf_eq_div] at jal
    apply BitVec.eq_of_toNat_eq
    rw [tallyEncode_jump_toNat, extractLsb'_zero_toNat]
    simp only [if_true]
    omega
  · cases h
    apply BitVec.eq_of_toNat_eq
    rw [tallyEncode_move_toNat, regField_val, extractLsb'_zero_toNat]
    simp only [bitsOf_eq_div, decide_eq_true_eq] at move zero ⊢
    split_ifs <;> omega
  · split at h
    · next o ho =>
      cases h
      exact opcode_fields_eq (ImmOp.code_of_ofCode ho)
    · next o ho _ =>
      cases h
      exact opcode_fields_eq (StoreOp.code_of_ofCode ho)
    · next o ho _ _ =>
      cases h
      exact opcode_fields_eq (BranchOp.code_of_ofCode ho)
    · cases h

theorem tallyDecode_eq_some {w : BitVec 32} {op : TallyOp} : tallyDecode w = some op ↔ tallyFields w = some op ∧ op.legal = true := by
  unfold tallyDecode
  split
  · next fields hfields =>
    rw [hfields]
    split
    · next legal =>
      refine ⟨fun h => ?_, fun h => h.1⟩
      cases h
      exact ⟨rfl, legal⟩
    · next illegal =>
      refine ⟨fun h => (nomatch h), fun h => ?_⟩
      obtain ⟨h, legal⟩ := h
      cases h
      exact absurd legal illegal
  · next hfields => simp [hfields]

/-- Settles O7: a decoded word is its legal fields, and each format's fields make up its whole word. The fields that a form does not
use are part of the instruction and are not looked at (log 71), but for those that Tables 5.4 to 5.6 want 0. -/
theorem tallyEncoding : Obligations.TallyEncoding :=
  ⟨fun op legal => tallyDecode_eq_some.2 ⟨tallyFields_encode op, legal⟩,
    fun _ _ h => tallyEncode_of_fields (tallyDecode_eq_some.1 h).1⟩

end Sys2Proof.Machine
end

section
/-! The issue of an instruction that goes on at once (R127, R137), and the numbers of Tables 5.5 and 5.6: what the arithmetic
instructions, movz and movk leave. -/

namespace Sys2Proof.Machine

/-! ### The commands of a format -/

theorem exec_regRow (f : RegFn) (c : CoreId) (t : Fin 4) (gap : Nat) (rd rs1 rs2 : Fin 32) (s : State) :
    exec (regRow f c t gap rd rs1 rs2) s = .next (s.tallyRow c t gap (.reg f rd rs1 rs2)) := by
  cases f <;> rfl

theorem exec_immRow (o : ImmOp) (c : CoreId) (t : Fin 4) (gap : Nat) (rd rs1 : Fin 32) (v : BitVec 16) (s : State) :
    exec (immRow o c t gap rd rs1 v) s = .next (s.tallyRow c t gap (.imm o rd rs1 v)) := by
  cases o <;> rfl

theorem exec_storeRow (o : StoreOp) (c : CoreId) (t : Fin 4) (gap : Nat) (rs2 rs1 : Fin 32) (v : BitVec 16) (s : State) :
    exec (storeRow o c t gap rs2 rs1 v) s = .next (s.tallyRow c t gap (.store o rs2 rs1 v)) := by
  cases o <;> rfl

theorem exec_branchRow (o : BranchOp) (c : CoreId) (t : Fin 4) (gap : Nat) (rs1 rs2 : Fin 32) (off : BitVec 16) (s : State) :
    exec (branchRow o c t gap rs1 rs2 off) s = .next (s.tallyRow c t gap (.branch o rs1 rs2 off)) := by
  cases o <;> rfl

/-! ### Words and the integers they stand for -/

theorem wrap_natCast (n : Nat) : wrap n = BitVec.ofNat 64 n := BitVec.ofInt_natCast 64 n

theorem sless_eq (a b : Word) : sless a b = decide (a.toInt < b.toInt) := rfl

theorem wrap_mul_two_pow (a : Word) (n : Nat) : wrap (a.toNat * 2 ^ n) = a <<< n := by
  apply BitVec.eq_of_toNat_eq
  rw [show (a.toNat * 2 ^ n : Int) = (a.toNat * 2 ^ n : Nat) by push_cast; rfl, wrap_natCast, BitVec.toNat_ofNat,
    BitVec.toNat_shiftLeft, Nat.shiftLeft_eq]

theorem wrap_div_two_pow (a : Word) (n : Nat) : wrap (a.toNat / 2 ^ n) = a >>> n := by
  apply BitVec.eq_of_toNat_eq
  rw [show (a.toNat / 2 ^ n : Int) = (a.toNat / 2 ^ n : Nat) by push_cast; rfl, wrap_natCast, BitVec.toNat_ofNat,
    BitVec.toNat_ushiftRight, Nat.shiftRight_eq_div_pow]
  exact Nat.mod_eq_of_lt ((Nat.div_le_self _ _).trans_lt a.isLt)

theorem wrap_toInt_div_two_pow (a : Word) (n : Nat) : wrap (a.toInt / 2 ^ n) = a.sshiftRight n := by
  have shifted : a.toInt / 2 ^ n = (a.sshiftRight n).toInt := by
    rw [BitVec.toInt_sshiftRight, Int.shiftRight_eq_div_pow]
    push_cast
    rfl
  rw [wrap, shifted, BitVec.ofInt_toInt]

/-- Table 5.5: the model's arithmetic on words is that on the integers they stand for. -/
theorem regAlu_eq_regResult (f : RegFn) (a b : Word) : regAlu f a b = regResult f a b := by
  cases f
  case add => simp [regAlu, regResult, wrap, BitVec.ofInt_add]
  case sub => simp [regAlu, regResult, wrap, sub_eq_add_neg, BitVec.ofInt_add, BitVec.ofInt_neg]
  case mul => simp [regAlu, regResult, wrap, BitVec.ofInt_mul]
  case mulhu => rw [regAlu, regResult, wd, ← wrap_natCast]; push_cast; rfl
  case sll => simp only [regAlu, regResult, wrap_mul_two_pow]
  case srl => simp only [regAlu, regResult, wrap_div_two_pow]
  case sra => simp only [regAlu, regResult, wrap_toInt_div_two_pow]
  case slt => simp [regAlu, regResult, sless_eq]
  case sltu => rfl
  case min =>
    simp only [regAlu, regResult, sless_eq, decide_eq_true_eq, ← not_lt, ite_not]
  case max =>
    rcases lt_trichotomy a.toInt b.toInt with less | same | more
    · simp [regAlu, regResult, sless_eq, less, less.le]
    · simp [regAlu, regResult, BitVec.eq_of_toInt_eq same]
    · simp [regAlu, regResult, sless_eq, more.not_gt, more.not_ge]
  all_goals rfl

/-- Table 5.6: the same of the immediate operations. -/
theorem immAlu_eq_immResult (o : ImmOp) (a : Word) (v : BitVec 16) : immAlu o a v = immResult o a v := by
  have low : (v.setWidth 64).toNat = v.toNat := BitVec.toNat_setWidth_of_le (by decide)
  cases o
  case addi => rw [immAlu, immResult, wrap_add_toInt]
  case andi => rw [immAlu, immResult, ← low, ← BitVec.toNat_and, BitVec.ofNat_toNat, BitVec.setWidth_eq]
  case ori => rw [immAlu, immResult, ← low, ← BitVec.toNat_or, BitVec.ofNat_toNat, BitVec.setWidth_eq]
  case xori => rw [immAlu, immResult, ← low, ← BitVec.toNat_xor, BitVec.ofNat_toNat, BitVec.setWidth_eq]
  case slli => simp only [immAlu, immResult, wrap_mul_two_pow]
  case srli => simp only [immAlu, immResult, wrap_div_two_pow]
  case srai => simp only [immAlu, immResult, wrap_toInt_div_two_pow]
  case slti => simp [immAlu, immResult, sless_eq, BitVec.toInt_signExtend_of_le]
  case sltiu =>
    have number : (v.signExtend 64).toNat = (v.toInt % 2 ^ 64).toNat := BitVec.toNat_ofInt v.toInt
    simp only [immAlu, immResult, BitVec.lt_def, number]
  all_goals rfl

/-! ### An instruction that writes a register and goes on -/

section
variable {s : State} {c : CoreId} {t : Fin 4} {op : TallyOp}

/-- A register of the thread is read as it was before the issue. -/
theorem Passes.reg {gap : Nat} {single : List Nat} {e : Eff} (h : Passes (issuedEff s c t gap single) e) (r : Nat) :
    (e.k.thread t).reg r = ((s.core c).thread t).reg r := by
  rw [h.core.thread]
  rfl

theorem tallyRow_retire (h : Issues s c t op) (gap : Nat) {rd : Fin 32} {v : Word}
    (hop : ∀ single e, Passes (issuedEff s c t gap single) e →
      e.tallyOp t op (s.tallyBusy c t) (s.tallyOwed c t) (s.mirrorOf c) = (e.retire t rd v, none)) :
    Issued s (s.tallyRow c t gap op) c t gap (wrote t rd v) :=
  tallyRow_issued h gap fun single e timed => ⟨_, hop single e timed, retire_wrote timed.core t rd v, timed.occ⟩

end

/-- Settles O13: the result of Table 5.5 is written by the step that every such instruction ends with. -/
theorem registerArithmetic : Obligations.RegisterArithmetic := by
  intro s c t gap f rd rs1 rs2 v h hv
  refine ⟨_, exec_regRow f c t gap rd rs1 rs2 s, tallyRow_retire h gap fun single e timed => ?_⟩
  simp only [Eff.tallyOp, timed.reg, regAlu_eq_regResult, hv]

/-- A word with its 16 bits from `16 * q` on replaced (movk). -/
def withQuarter (old : Word) (q : Nat) (v : BitVec 16) : Word :=
  (old &&& ~~~((0xFFFF : Word) <<< (16 * q))) ||| (v.setWidth 64 <<< (16 * q))

theorem withQuarter_getLsbD (old : Word) (q : Fin 4) (v : BitVec 16) (i : Nat) :
    (withQuarter old q v).getLsbD i =
      if 16 * q.val ≤ i ∧ i < 16 * q.val + 16 then v.getLsbD (i - 16 * q) else old.getLsbD i := by
  have ones : ∀ j, (0xFFFF : Word).getLsbD j = decide (j < 16) := fun j => by
    rw [show (0xFFFF : Word) = (BitVec.allOnes 16).setWidth 64 from rfl, BitVec.getLsbD_setWidth, BitVec.getLsbD_allOnes]
    simp only [Bool.and_eq_right_iff_imp, decide_eq_true_eq]
    omega
  simp only [withQuarter, BitVec.getLsbD_or, BitVec.getLsbD_and, BitVec.getLsbD_not, BitVec.getLsbD_shiftLeft, ones,
    BitVec.getLsbD_setWidth]
  by_cases below : i < 16 * q.val
  · rw [if_neg (by omega)]
    simp [below, show i < 64 by omega]
  · by_cases inside : i < 16 * q.val + 16
    · rw [if_pos ⟨by omega, inside⟩]
      simp [below, show i < 64 by omega, show i - 16 * q.val < 16 by omega, show i - 16 * q.val < 64 by omega]
    · rw [if_neg (by omega)]
      have outside : v.getLsbD (i - 16 * q.val) = false := BitVec.getLsbD_of_ge _ _ (by omega)
      simp only [below, outside, show ¬ i - 16 * q.val < 16 by omega, decide_false, Bool.and_false, Bool.not_false, Bool.and_true,
        Bool.or_false, Bool.and_eq_left_iff_imp, decide_eq_true_eq]
      exact BitVec.lt_of_getLsbD

/-- Settles O14: as the register instructions; movk keeps the bits outside its quarter. -/
theorem immediateArithmetic : Obligations.ImmediateArithmetic := by
  intro s c t gap rd rs1 q v
  refine ⟨fun o x h hx => ?imm, fun h => ?movz, fun h => ?movk⟩
  case imm =>
    refine ⟨_, exec_immRow o c t gap rd rs1 v s, tallyRow_retire h gap fun single e timed => ?_⟩
    simp only [Eff.tallyOp, timed.reg, immAlu_eq_immResult, hx]
  case movz =>
    refine ⟨s.tallyRow c t gap (.move false rd q v), rfl, tallyRow_retire h gap fun single e timed => ?_⟩
    have low : (v.setWidth 64).toNat = v.toNat := BitVec.toNat_setWidth_of_le (by decide)
    rw [← low, wrap_mul_two_pow]
    simp [Eff.tallyOp]
  case movk =>
    refine ⟨s.tallyRow c t gap (.move true rd q v), withQuarter (((s.core c).thread t).reg rd) q v, rfl,
      tallyRow_retire h gap fun single e timed => ?_, withQuarter_getLsbD _ q v⟩
    simp only [Eff.tallyOp, timed.reg, if_true, withQuarter]

end Sys2Proof.Machine
end

section
/-! Branches and jumps (R137): the condition, the target, and the thread at its next instruction. -/

namespace Sys2Proof.Machine

theorem branchTaken_iff (o : BranchOp) (a b : Word) : branchTaken o a b = true ↔ branchHolds o a b := by
  cases o <;> simp [branchTaken, branchHolds, sless_eq, BitVec.lt_def]

/-- The target of a branch or jump (R137). -/
theorem branchTarget_eq (pc : Word) {n : Nat} (off : BitVec n) : branchTarget pc off = wrap (pc.toNat + 4 * off.toInt) := by
  rw [branchTarget, wrap, BitVec.ofInt_add, BitVec.ofInt_natCast, BitVec.ofNat_toNat, BitVec.setWidth_eq, BitVec.ofInt_mul,
    BitVec.mul_comm]
  rfl

theorem jumpTo_went {k : CoreSt} {e : Eff} (h : Aside k e.k) (t rd : Nat) (v target : Word) :
    Aside (went t rd v target k) (e.jumpTo t rd v target).k := by
  have went_eq : went t rd v target k = k.setThread t { (k.thread t).setReg rd v with
      pc := target, state := .ready, wait := none, met := false } := by
    unfold went Thread.setReg
    split <;> rfl
  rw [went_eq, Eff.jumpTo, Eff.onThread, h.thread]
  exact h.setThread t _

/-- The next instruction is a jump to the address after the instruction. -/
theorem advance_eq_jumpTo (e : Eff) (t : Nat) : e.advance t = e.jumpTo t 0 0 ((e.k.thread t).pc + 4) := rfl

/-- A jump that names t0 writes no register (R126). -/
theorem jumpTo_zero (e : Eff) (t : Nat) (v target : Word) : e.jumpTo t 0 v target = e.jumpTo t 0 0 target := rfl

section
variable {s : State} {c : CoreId} {t : Fin 4} {op : TallyOp}

theorem Passes.pc {gap : Nat} {single : List Nat} {e : Eff} (h : Passes (issuedEff s c t gap single) e) :
    (e.k.thread t).pc = ((s.core c).thread t).pc := by
  rw [h.core.thread]
  rfl

theorem tallyRow_jumpTo (h : Issues s c t op) (gap : Nat) {rd : Nat} {v target : Word}
    (hop : ∀ single e, Passes (issuedEff s c t gap single) e →
      e.tallyOp t op (s.tallyBusy c t) (s.tallyOwed c t) (s.mirrorOf c) = (e.jumpTo t rd v target, none)) :
    Issued s (s.tallyRow c t gap op) c t gap (went t rd v target) :=
  tallyRow_issued h gap fun single e timed => ⟨_, hop single e timed, jumpTo_went timed.core t rd v target, timed.occ⟩

end

/-- Settles O16: every branch and jump ends by a jump to a target; a branch not taken jumps to the next instruction. -/
theorem branchesAndJumps : Obligations.BranchesAndJumps := by
  rintro s c t gap rd rs1 rs2 off far th rfl
  refine ⟨fun o h => ⟨_, exec_branchRow o c t gap rs1 rs2 off s, fun taken => ?_, fun untaken => ?_⟩,
    fun h => ⟨_, rfl, ?j⟩, fun h => ⟨_, rfl, ?jal⟩, fun h align => ⟨_, rfl, ?jr⟩, fun h align => ⟨_, rfl, ?jalr⟩⟩
  · rw [← branchTaken_iff] at taken
    refine tallyRow_jumpTo h gap fun single e timed => ?_
    simp only [Eff.tallyOp, timed.reg, timed.pc, taken, if_true, branchTarget_eq]
  · rw [← branchTaken_iff] at untaken
    refine tallyRow_jumpTo h gap fun single e timed => ?_
    simp only [Eff.tallyOp, timed.reg, timed.pc, untaken, Bool.false_eq_true, if_false, advance_eq_jumpTo]
  case j =>
    refine tallyRow_jumpTo h gap fun single e timed => ?_
    simp only [Eff.tallyOp, timed.pc, Bool.false_eq_true, if_false, branchTarget_eq]
    exact congrArg (·, none) (jumpTo_zero e t _ _)
  case jal =>
    refine tallyRow_jumpTo h gap fun single e timed => ?_
    simp only [Eff.tallyOp, timed.pc, if_true, branchTarget_eq]
  case jr =>
    refine tallyRow_jumpTo h gap fun single e timed => ?_
    simp [Eff.tallyOp, regAlu, Eff.regOp, timed.reg, align]
  case jalr =>
    refine tallyRow_jumpTo h gap fun single e timed => ?_
    simp [Eff.tallyOp, regAlu, Eff.regOp, timed.reg, timed.pc, align]

end Sys2Proof.Machine
end

section
/-! Loads and stores of the data memory and the local store (R131, R132): what a read delivers, which bytes a store changes, and the
step of the thread. -/

namespace Sys2Proof.Machine

/-! ### Poison marks of a read (R70, R132) -/

theorem idxMem_idxAdd_same (l : List Nat) (k : Nat) : idxMem (idxAdd l k) k = true := by
  induction l with
  | nil => simp [idxAdd, idxMem]
  | cons i t ih =>
    unfold idxAdd
    split_ifs with same less
    · simp [idxMem, same]
    · simp [idxMem]
    · simp [idxMem, same, less, ih]

theorem idxMem_idxAdd_of_idxMem {l : List Nat} {j : Nat} (h : idxMem l j = true) (k : Nat) : idxMem (idxAdd l k) j = true := by
  induction l with
  | nil => cases h
  | cons i t ih =>
    unfold idxAdd
    split_ifs with same less
    · exact h
    · by_cases below : j ≤ k
      · simp only [idxMem] at h ⊢
        split_ifs at h ⊢ <;> omega
      · rw [idxMem, if_neg (by omega), if_neg (by omega), h]
    · unfold idxMem at h ⊢
      split_ifs at h ⊢ with hi hj
      · rfl
      · exact ih h

theorem idxMem_eq_false_of_notMem {l : List Nat} {j : Nat} (h : j ∉ l) : idxMem l j = false := by
  induction l with
  | nil => rfl
  | cons i t ih =>
    obtain ⟨ne, rest⟩ := List.ne_and_not_mem_of_not_mem_cons h
    unfold idxMem
    rw [if_neg ne.symm, ih rest, ite_self]

/-- Does a protected word of the 64-byte line hold a double-bit error? -/
def lineDouble (double : List Nat) (l : Nat) : Bool := (List.range 8).any (fun w => idxMem double (8 * l + w))

theorem marked_iff {st : Store} {a n : Nat} :
    st.marked a n = true ↔ ∃ l ∈ linesOf a n, idxMem st.poison l = true ∨ lineDouble st.double l = true := by
  simp only [Store.marked, List.any_eq_true, Bool.or_eq_true, lineDouble]

/-- The lines poisoned by a read of lines that hold double-bit errors. -/
theorem idxMem_poisonLines {double : List Nat} (ls : List Nat) (p : List Nat) (l : Nat)
    (h : idxMem p l = true ∨ l ∈ ls ∧ lineDouble double l = true) :
    idxMem (ls.foldl (fun p l => if lineDouble double l then idxAdd p l else p) p) l = true := by
  induction ls generalizing p with
  | nil => exact h.resolve_right fun h => List.not_mem_nil h.1
  | cons x xs ih =>
    refine ih _ ?_
    dsimp only
    rcases h with h | ⟨hmem, hdouble⟩
    · left
      split_ifs
      · exact idxMem_idxAdd_of_idxMem h x
      · exact h
    · rcases List.mem_cons.1 hmem with rfl | hmem
      · left
        rw [if_pos hdouble]
        exact idxMem_idxAdd_same p l
      · exact .inr ⟨hmem, hdouble⟩

theorem poisonLines_of_no_double {double : List Nat} {ls : List Nat} (p : List Nat) (h : ∀ l ∈ ls, lineDouble double l = false) :
    ls.foldl (fun p l => if lineDouble double l then idxAdd p l else p) p = p := by
  induction ls with
  | nil => rfl
  | cons x xs ih =>
    obtain ⟨hx, hxs⟩ := List.forall_mem_cons.1 h
    rw [List.foldl_cons, if_neg (by simp [hx]), ih hxs]

/-- A read removes every double-bit error of the lines it touches. -/
theorem lineDouble_filter {double ls : List Nat} {l : Nat} (h : l ∈ ls) :
    lineDouble (double.filter (fun w => !ls.contains (w / 8))) l = false := by
  refine List.any_eq_false.2 fun w hw => ?_
  have line : (8 * l + w) / 8 = l := by
    have := List.mem_range.1 hw
    omega
  rw [Bool.not_eq_true]
  refine idxMem_eq_false_of_notMem fun hmem => ?_
  have kept := (List.mem_filter.1 hmem).2
  simp [line, h] at kept

/-- What a read delivers poisoned, a later read delivers poisoned, and nothing else: a double-bit error leaves its line's mark. -/
theorem marked_afterRead (st : Store) (a n : Nat) : (st.afterRead a n).1.marked a n = st.marked a n := by
  unfold Store.afterRead
  split_ifs
  · rfl
  · rw [Bool.eq_iff_iff, marked_iff, marked_iff]
    constructor
    · rintro ⟨l, hl, hp | hd⟩
      · by_contra clean
        have clean' : ∀ l ∈ linesOf a n, idxMem st.poison l = false ∧ lineDouble st.double l = false := by simpa using clean
        have same := poisonLines_of_no_double st.poison fun l hl => (clean' l hl).2
        exact Bool.false_ne_true (((clean' l hl).1.symm.trans (congrArg (idxMem · l) same).symm).trans hp)
      · exact (Bool.false_ne_true ((lineDouble_filter hl).symm.trans hd)).elim
    · rintro ⟨l, hl, h⟩
      exact ⟨l, hl, .inl (idxMem_poisonLines _ _ l (h.imp_right fun h => ⟨hl, h⟩))⟩

/-! ### Numbers of bytes -/

theorem leNat_lt (bs : List Byte) : leNat bs < 2 ^ (8 * bs.length) := by
  induction bs with
  | nil => simp [leNat]
  | cons b bs ih =>
    have low := b.isLt
    rw [leNat, List.length_cons, Nat.mul_add_one, Nat.pow_add]
    omega

theorem Mem.le_lt (m : Mem) (a n : Nat) : m.le a n < 2 ^ (8 * n) := by
  have lt := leNat_lt (m.bytes a n)
  rwa [Mem.bytes_length] at lt

/-- A number stored lies in its bytes, the least significant first. -/
theorem stored_wrBytes {m : Mem} (h : Mem.wf m = true) (a n v : Nat) : Stored m (m.wrBytes a (natLe n v)) a n v := by
  intro x
  split_ifs with inside
  · obtain ⟨i, rfl⟩ := Nat.exists_eq_add_of_le inside.1
    have hi : i < (natLe n v).length := by
      rw [natLe_length]
      omega
    rw [Mem.rd_wrBytes_at _ a i h hi, natLe_getElem, Nat.add_sub_cancel_left, Nat.shiftRight_eq_div_pow, pow_mul]
    rfl
  · exact Mem.rd_wrBytes_ne _ a x h (by rw [natLe_length]; omega)

/-- The number of a load in its register (Table 5.6): of the loads, only lws sign-extends. -/
theorem extendLoad_eq {w : Nat} {signed : Bool} {x : Nat} (hsigned : signed = true → w = 4) (hx : x < 2 ^ (8 * w)) :
    extendLoad w signed x = loadedWord w signed x := by
  cases signed with
  | false => simp [extendLoad, loadedWord, wrap_natCast, wd]
  | true =>
    obtain rfl := hsigned rfl
    have number : (BitVec.ofNat 32 x).toNat = x := Nat.mod_eq_of_lt hx
    rw [← number, extendLoad_eq_loadedWord]

/-! ### Reads and writes within the core -/

theorem checkAccess_of_placeOf {a : Word} {w : Nat} {write : Bool} {p : Place} (halign : a.toNat % w = 0)
    (hplace : placeOf a.toNat = some p) (hallows : p.allows w write = true) : checkAccess a w write = .inl p := by
  simp [checkAccess, halign, hplace, hallows]

theorem placeOf_dmem {a : Nat} (h : a < 0x10000) : placeOf a = some (.dmem a) := if_pos h

theorem placeOf_ls {a : Nat} (hlo : 0x100000 ≤ a) (hhi : a < 0x180000) : placeOf a = some (.ls (a - 0x100000)) := by
  rw [placeOf, if_neg (by omega), if_pos ⟨hlo, hhi⟩]

theorem readPlace_dmem (e : Eff) (o w : Nat) :
    e.readPlace (.dmem o) w = (⟨e.k.dmem.data.le o w, e.k.dmem.marked o w⟩,
      { e with k := { e.k with dmem := (e.k.dmem.afterRead o w).1 } }) := by
  simp only [Eff.readPlace, marked_afterRead, store_afterRead_data]

theorem readPlace_ls (e : Eff) (o w : Nat) :
    e.readPlace (.ls o) w = (⟨e.k.ls.data.le o w, e.k.ls.marked o w⟩, e.touchLs o w) := by
  have marks : (e.touchLs o w).k.ls.marked o w = e.k.ls.marked o w := marked_afterRead _ _ _
  have data : (e.touchLs o w).k.ls.data = e.k.ls.data := store_afterRead_data _ _ _
  simp only [Eff.readPlace, marks, data]

/-- An access that lies within one line touches that line. -/
theorem linesOf_aligned {a n : Nat} (hn : n ∈ [8, 4, 2, 1]) (h : a % n = 0) : linesOf a n = [a / 64] := by
  have one_line : (a + n - 1) / 64 = a / 64 ∧ n ≠ 0 := by
    simp only [List.mem_cons, List.not_mem_nil, or_false] at hn
    rcases hn with rfl | rfl | rfl | rfl <;> omega
  rw [linesOf, if_neg one_line.2, one_line.1, Nat.sub_self]
  rfl

end Sys2Proof.Machine

namespace Sys2Proof

open Machine

/-- What treats two cores alike that the passing of cycles alone tells apart. -/
theorem Aside.map {x y : CoreSt} (h : Aside x y) (f : CoreSt → CoreSt)
    (hf : ∀ k z, f (CoreSt.withAside k z) = (f k).withAside z := by exact fun _ _ => rfl) : Aside (f x) (f y) := by
  obtain ⟨z, rfl⟩ := aside_iff.1 h
  exact aside_iff.2 ⟨z, hf x z⟩

/-- An aligned store to the local store: its bytes, and its line gone from the feeders' caches (R73). -/
theorem Aside.writeLs {x y : CoreSt} (h : Aside x y) {a n : Nat} {bs : List (Byte × Bool)} (hbs : bs.length = n)
    (hn : n ∈ [8, 4, 2, 1]) (ha : a % n = 0) :
    Aside { x with ls := x.ls.write a bs, pipe := withoutLine x.pipe (a / 64) } (y.writeLs a bs) := by
  have kept : ∀ f : FeederLine, (!(linesOf a bs.length).contains f.line) = decide (f.line ≠ a / 64) := fun f => by
    rw [hbs, linesOf_aligned hn ha, Bool.eq_iff_iff]
    simp
  obtain ⟨z, rfl⟩ := aside_iff.1 h
  simp only [CoreSt.writeLs, kept]
  rfl

end Sys2Proof

namespace Sys2Proof.Machine

/-! ### The instruction -/

/-- What a load's opcode says of its width (Table 5.6). -/
theorem loadShape_of_mem {o : ImmOp} {n : Nat} {signed : Bool}
    (h : (o, n, signed) ∈ [(ImmOp.ld, 8, false), (.lw, 4, false), (.lws, 4, true), (.lh, 2, false), (.lb, 1, false)]) :
    loadShape o = some (n, signed) ∧ (signed = true → n = 4) := by
  simp only [List.mem_cons, Prod.mk.injEq, List.not_mem_nil, or_false] at h
  rcases h with ⟨rfl, rfl, rfl⟩ | ⟨rfl, rfl, rfl⟩ | ⟨rfl, rfl, rfl⟩ | ⟨rfl, rfl, rfl⟩ | ⟨rfl, rfl, rfl⟩ <;> simp [loadShape]

theorem storeWidth_of_mem {o : StoreOp} {n : Nat} (h : (o, n) ∈ [(StoreOp.sd, 8), (.sw, 4), (.sh, 2), (.sb, 1)]) :
    storeWidth o = n ∧ n ∈ [8, 4, 2, 1] := by
  simp only [List.mem_cons, Prod.mk.injEq, List.not_mem_nil, or_false] at h
  rcases h with ⟨rfl, rfl⟩ | ⟨rfl, rfl⟩ | ⟨rfl, rfl⟩ | ⟨rfl, rfl⟩ <;> simp [storeWidth]

theorem tallyOp_load {o : ImmOp} {w : Nat} {signed : Bool} (hshape : loadShape o = some (w, signed)) (e : Eff) (t : Nat)
    (rd rs1 : Fin 32) (v : BitVec 16) (busy owed : Bool) (mirror : Nat → Option Word) :
    e.tallyOp t (.imm o rd rs1 v) busy owed mirror =
      e.load t rd ((e.k.thread t).reg rs1 + v.signExtend 64) w signed := by
  cases o <;> cases hshape <;> rfl

theorem tallyOp_store (e : Eff) (t : Nat) (o : StoreOp) (rs2 rs1 : Fin 32) (v : BitVec 16) (busy owed : Bool)
    (mirror : Nat → Option Word) :
    e.tallyOp t (.store o rs2 rs1 v) busy owed mirror =
      e.store t ((e.k.thread t).reg rs1 + v.signExtend 64) (storeWidth o) ((e.k.thread t).reg rs2) := rfl

/-- A load from the data memory or the local store. -/
theorem load_near {a : Word} {w : Nat} {p : Place} (hplace : checkAccess a w false = .inl p) (hfar : ∀ dva, p ≠ .far dva)
    (e : Eff) (t : Nat) (rd : Fin 32) (signed : Bool) :
    e.load t rd a w signed = ((e.readPlace p w).2.finishLoad t rd a w signed (e.readPlace p w).1, none) := by
  rw [Eff.load, hplace]
  cases p with
  | far dva => exact absurd rfl (hfar dva)
  | _ => rfl

/-- A store to the data memory or the local store. -/
theorem store_near {a : Word} {w : Nat} {p : Place} (hplace : checkAccess a w true = .inl p) (hfar : ∀ dva, p ≠ .far dva)
    (hdesc : ∀ o, p ≠ .desc o) (e : Eff) (t : Nat) (v : Word) :
    e.store t a w v = ((e.writePlace p w v.toNat).advance t, none) := by
  rw [Eff.store, hplace]
  cases p with
  | far dva => exact absurd rfl (hfar dva)
  | desc o => exact absurd rfl (hdesc o)
  | _ => rfl

section
variable {s : State} {c : CoreId} {t : Fin 4} {rd rs1 rs2 : Fin 32} {v : BitVec 16} {a : Word}
  (ha : a = wrap ((((s.core c).thread t).reg rs1).toNat + v.toInt))
include ha

/-- A load that reads `x` unpoisoned within the core, the read changing the core by `g`. -/
theorem tallyRow_nearLoad {o : ImmOp} {w : Nat} {signed : Bool} {p : Place} {x : Nat} {g : CoreSt → CoreSt}
    (hshape : loadShape o = some (w, signed)) (h : Issues s c t (.imm o rd rs1 v)) (hplace : checkAccess a w false = .inl p)
    (hfar : ∀ dva, p ≠ .far dva) (gap : Nat)
    (hread : ∀ single e, Passes (issuedEff s c t gap single) e →
      ∃ e', e.readPlace p w = (⟨x, false⟩, e') ∧ Aside (g (issuedCore (s.core c) t gap single)) e'.k ∧ e'.occ = []) :
    Issued s (s.tallyRow c t gap (.imm o rd rs1 v)) c t gap (fun k => wrote t rd (extendLoad w signed x) (g k)) := by
  refine tallyRow_issued h gap fun single e timed => ?_
  obtain ⟨e', hread, hcore, hocc⟩ := hread single e timed
  refine ⟨e'.retire t rd (extendLoad w signed x), ?_, retire_wrote hcore t rd _, hocc⟩
  rw [tallyOp_load hshape, timed.address ha, load_near hplace hfar, hread]
  rfl

/-- A store within the core, the write changing the core by `g`. -/
theorem tallyRow_nearStore {o : StoreOp} {w : Nat} {p : Place} {g : CoreSt → CoreSt} (hwidth : storeWidth o = w)
    (h : Issues s c t (.store o rs2 rs1 v)) (hplace : checkAccess a w true = .inl p) (hfar : ∀ dva, p ≠ .far dva)
    (hdesc : ∀ o, p ≠ .desc o) (gap : Nat)
    (hwrite : ∀ single e, Passes (issuedEff s c t gap single) e → ∀ n, n = (((s.core c).thread t).reg rs2).toNat →
      Aside (g (issuedCore (s.core c) t gap single)) (e.writePlace p w n).k ∧ (e.writePlace p w n).occ = []) :
    Issued s (s.tallyRow c t gap (.store o rs2 rs1 v)) c t gap (fun k => wrote t 0 0 (g k)) := by
  refine tallyRow_issued h gap fun single e timed => ?_
  obtain ⟨hcore, hocc⟩ := hwrite single e timed _ rfl
  refine ⟨_, ?_, advance_wrote hcore t, hocc⟩
  rw [tallyOp_store, hwidth, timed.address ha, store_near hplace hfar hdesc, timed.reg]

end

/-- Settles O15: a read delivers the bytes and leaves them, the latent errors of their lines apart; a store puts the low bytes of its
register where the address says. -/
theorem localAccesses : Obligations.LocalAccesses := by
  refine ⟨fun s c t gap o n signed rd rs1 v a ho h ha halign => ?loads,
    fun s c t gap o n rs2 rs1 v a ho h ha halign => ?stores⟩
  case loads =>
    obtain ⟨hshape, hsigned⟩ := loadShape_of_mem ho
    refine ⟨fun hhi clean => ?dmem, fun hlo hhi clean => ?ls⟩
    case dmem =>
      refine ⟨_, ((s.core c).dmem.afterRead a.toNat n).1, exec_immRow .., store_afterRead_data _ _ _, ?_⟩
      rw [← extendLoad_eq hsigned (Mem.le_lt _ _ _)]
      refine tallyRow_nearLoad ha hshape h (checkAccess_of_placeOf halign (placeOf_dmem hhi) rfl) (fun _ => Place.noConfusion) gap
        (g := fun k => { k with dmem := ((s.core c).dmem.afterRead a.toNat n).1 }) fun single e timed => ?_
      have same : e.k.dmem = (s.core c).dmem := timed.core.read (·.dmem)
      rw [readPlace_dmem, same, clean]
      exact ⟨_, rfl, timed.core.map fun k => { k with dmem := _ }, timed.occ⟩
    case ls =>
      refine ⟨_, ((s.core c).ls.afterRead (a.toNat - 0x100000) n).1, exec_immRow .., store_afterRead_data _ _ _, ?_⟩
      rw [← extendLoad_eq hsigned (Mem.le_lt _ _ _)]
      refine tallyRow_nearLoad ha hshape h (checkAccess_of_placeOf halign (placeOf_ls hlo hhi) rfl) (fun _ => Place.noConfusion) gap
        (g := fun k => { k with ls := ((s.core c).ls.afterRead (a.toNat - 0x100000) n).1 }) fun single e timed => ?_
      have same : e.k.ls = (s.core c).ls := timed.core.read (·.ls)
      rw [readPlace_ls, same, clean, ← same]
      exact ⟨_, rfl, (timed.core.map fun k => { k with ls := _ }).trans (count_passes _ _ _).core, timed.occ⟩
  case stores =>
    obtain ⟨hwidth, hn⟩ := storeWidth_of_mem ho
    refine ⟨fun hhi hwf => ?dmem, fun hlo hhi hwf => ?ls⟩
    case dmem =>
      refine ⟨_, (s.core c).dmem.write a.toNat (markAll false (natLe n (((s.core c).thread t).reg rs2).toNat)), exec_storeRow .., ?_, ?_⟩
      · rw [Store.write_data, markAll_bytes]
        exact stored_wrBytes hwf _ _ _
      · refine tallyRow_nearStore ha hwidth h (checkAccess_of_placeOf halign (placeOf_dmem hhi) rfl) (fun _ => Place.noConfusion)
          (fun _ => Place.noConfusion) gap (g := fun k => { k with dmem := _ }) fun single e timed n hn => ?_
        have same : e.k.dmem = (s.core c).dmem := timed.core.read (·.dmem)
        rw [Eff.writePlace, same, hn]
        exact ⟨timed.core.map fun k => { k with dmem := _ }, timed.occ⟩
    case ls =>
      refine ⟨_, (s.core c).ls.write (a.toNat - 0x100000) (markAll false (natLe n (((s.core c).thread t).reg rs2).toNat)),
        exec_storeRow .., ?_, ?_⟩
      · rw [Store.write_data, markAll_bytes]
        exact stored_wrBytes hwf _ _ _
      · refine tallyRow_nearStore ha hwidth h (checkAccess_of_placeOf halign (placeOf_ls hlo hhi) rfl) (fun _ => Place.noConfusion)
          (fun _ => Place.noConfusion) gap (g := fun k => { k with ls := _, pipe := withoutLine k.pipe ((a.toNat - 0x100000) / 64) })
          fun single e timed x hx => ?_
        rw [Eff.writePlace, hx]
        refine ⟨timed.core.writeLs ?_ hn ?_, timed.occ⟩
        · rw [markAll_length, natLe_length]
        · simp only [List.mem_cons, List.not_mem_nil, or_false] at hn
          rcases hn with rfl | rfl | rfl | rfl <;> omega

end Sys2Proof.Machine
end

section
/-! Special words, shadow slots, notches and events as instructions read and write them (R138 to R151, Table 5.7). -/

namespace Sys2Proof.Machine

/-! ### The issue, with what the core noted of its present cycle -/

section
variable {s : State} {c : CoreId} {t : Fin 4} {op : TallyOp}

/-- An issue takes cycles and counts events, but notes nothing of its cycle. -/
structure Timed (s : State) (c t gap : Nat) (single : List Nat) (e : Eff) : Prop extends Passes (issuedEff s c t gap single) e where
  note : e.k.note = (s.core c).note

theorem tallyRow_timed (h : Issues s c t op) (gap : Nat) {f : CoreSt → CoreSt}
    (hop : ∀ single e, Timed s c t gap single e →
      ∃ e' : Eff, e.tallyOp t op (s.tallyBusy c t) (s.tallyOwed c t) (s.mirrorOf c) = (e', none) ∧
        Aside (f (issuedCore (s.core c) t gap single)) e'.k ∧ e'.occ = []) :
    Issued s (s.tallyRow c t gap op) c t gap f := by
  obtain ⟨single, timed⟩ := issueTime_passes s c t gap
  obtain ⟨e', done, hcore, hocc⟩ := hop single _ ⟨timed, rfl⟩
  rw [tallyRow_of_issues h done]
  exact ⟨single, landCore_coreAt_of_no_events s c hcore hocc⟩

/-- An instruction that changes the core by `g`, writes a register and goes on. -/
theorem tallyRow_retireOn (h : Issues s c t op) (gap : Nat) {rd : Fin 32} {v : CoreSt → Word} {g : CoreSt → CoreSt}
    (hop : ∀ single e, Timed s c t gap single e →
      ∃ e' : Eff, e.tallyOp t op (s.tallyBusy c t) (s.tallyOwed c t) (s.mirrorOf c) =
          (e'.retire t rd (v (issuedCore (s.core c) t gap single)), none) ∧
        Aside (g (issuedCore (s.core c) t gap single)) e'.k ∧ e'.occ = []) :
    Issued s (s.tallyRow c t gap op) c t gap (fun x => wrote t rd (v x) (g x)) :=
  tallyRow_timed h gap fun single e timed =>
    let ⟨_, done, hcore, hocc⟩ := hop single e timed
    ⟨_, done, retire_wrote hcore t rd _, hocc⟩

/-- An instruction that changes the core by `g` and goes on. -/
theorem tallyRow_advanceOn (h : Issues s c t op) (gap : Nat) {g : CoreSt → CoreSt}
    (hop : ∀ single e, Timed s c t gap single e →
      ∃ e' : Eff, e.tallyOp t op (s.tallyBusy c t) (s.tallyOwed c t) (s.mirrorOf c) = (e'.advance t, none) ∧
        Aside (g (issuedCore (s.core c) t gap single)) e'.k ∧ e'.occ = []) :
    Issued s (s.tallyRow c t gap op) c t gap (fun x => wrote t 0 0 (g x)) :=
  tallyRow_timed h gap fun single e timed =>
    let ⟨_, done, hcore, hocc⟩ := hop single e timed
    ⟨_, done, advance_wrote hcore t, hocc⟩

/-! ### Special words -/

/-- The special words that every thread may read, but for the core cycle (Table 5.7). -/
def specialWords (k : CoreSt) (c t : Nat) : List (Nat × Word) :=
  [(0x000, BitVec.ofNat 64 t), (0x001, BitVec.ofNat 64 c), (0x003, k.invIssued.setWidth 64),
    (0x004, k.invDone.setWidth 64), (0x005, k.invFaults.setWidth 64), (0x006, k.invLastFault.setWidth 64),
    (0x007, BitVec.ofNat 64 k.queueMode), (0x008, k.threadWord), (0x010, k.evPending), (0x011, k.mailbox),
    (0x018, k.nfCount.setWidth 64), (0x019, k.nfLimit.setWidth 64), (0x01A, k.spikeCount.setWidth 64),
    (0x01B, k.spikeLimit.setWidth 64), (0x020, (k.thread t).excVector), (0x021, (k.thread t).excCause),
    (0x022, (k.thread t).excPc), (0x023, (k.thread t).excAddr)]

theorem special_of_mem {k : CoreSt} {c t idx : Nat} {x : Word} (h : (idx, x) ∈ specialWords k c t) (mirror : Nat → Option Word) :
    k.special c t idx mirror = .inl x := by
  have all : ∀ p ∈ specialWords k c t, k.special c t p.1 mirror = .inl p.2 := by
    simp only [specialWords, List.forall_mem_cons, List.not_mem_nil, false_imp_iff, implies_true, and_true]
    and_intros <;> rfl
  exact all _ h

/-- The special words are those of the core before the issue. -/
theorem Passes.specialWords {gap : Nat} {single : List Nat} {e : Eff} (h : Passes (issuedEff s c t gap single) e) :
    specialWords e.k c t = specialWords (s.core c) c t :=
  h.core.read (Machine.specialWords · c t)

end

/-! ### Writes of the counts (R150) -/

/-- CORE_EV_PENDING after a write of a count that an OVER bit watches: the bit falls back where the detections of this cycle set it
(`new`), and is set where they take the written count over its limit. -/
def judgedPending (ev : Word) (bit : Nat) (new crossed : Bool) : Word :=
  let back : Word := if new then 1 <<< bit else 0
  if crossed then (ev &&& ~~~back) ||| (1 <<< bit) else ev &&& ~~~back

theorem judgedPending_false (ev : Word) (bit : Nat) : judgedPending ev bit false false = ev := by
  simp only [judgedPending, Bool.false_eq_true, if_false, BitVec.ofNat_eq_ofNat, BitVec.not_zero, BitVec.and_allOnes]

theorem judgedPending_getLsbD (ev : Word) {bit : Nat} (hbit : bit < 64) (new crossed : Bool) (i : Nat) :
    (judgedPending ev bit new crossed).getLsbD i =
      if i = bit then ev.getLsbD i && !new || crossed else ev.getLsbD i := by
  have one : ∀ i, (((1 <<< bit : Nat) : Word)).getLsbD i = decide (i = bit) := fun i => by
    rw [BitVec.natCast_eq_ofNat, BitVec.getLsbD_ofNat, Nat.one_shiftLeft, Nat.testBit_two_pow, Bool.eq_iff_iff]
    simp only [Bool.and_eq_true, decide_eq_true_eq]
    omega
  have inside : ev.getLsbD i = true → i < 64 := BitVec.lt_of_getLsbD
  cases new <;> cases crossed <;>
    simp only [judgedPending, if_true, if_false, Bool.false_eq_true, BitVec.getLsbD_or, BitVec.getLsbD_and, BitVec.getLsbD_not, one] <;>
    grind

/-- A written count with the detections of this cycle, saturated. -/
def judgedCount (v : BitVec 48) (n : Nat) : Nat := min (v.toNat + n) (2 ^ 48 - 1)
/-- Do they take the count over its limit? -/
def judgedOver (v limit : BitVec 48) (n : Nat) : Bool :=
  limit ≠ 0 && decide (v.toNat < limit.toNat) && decide (limit.toNat ≤ judgedCount v n)

theorem judgedCount_zero (v : BitVec 48) : BitVec.ofNat 48 (judgedCount v 0) = v := by
  have range := v.isLt
  rw [judgedCount, Nat.add_zero, min_eq_left (by omega), BitVec.ofNat_toNat, BitVec.setWidth_eq]

theorem judgedOver_zero (v limit : BitVec 48) : judgedOver v limit 0 = false := by
  have range := v.isLt
  have below : v.toNat < limit.toNat → ¬ limit.toNat ≤ judgedCount v 0 := fun h => by
    rw [judgedCount, Nat.add_zero, min_eq_left (by omega)]
    exact not_le.2 h
  by_cases h : v.toNat < limit.toNat <;> simp [judgedOver, h, below]

/-- The count and CORE_EV_PENDING after such a write (R150). -/
theorem judged_spec (ev a : Word) {bit : Nat} (hbit : bit < 64) (n : Nat) (limit : BitVec 48) (new : Bool) {z : Nat} {p : Word}
    (hz : z = judgedCount (a.setWidth 48) n) (hp : p = judgedPending ev bit new (judgedOver (a.setWidth 48) limit n)) :
    z = min (a.toNat % 2 ^ 48 + n) (2 ^ 48 - 1) ∧ (∀ i, i ≠ bit → p.getLsbD i = ev.getLsbD i) ∧
      (p.getLsbD bit = true ↔ ev.getLsbD bit = true ∧ new = false ∨
        limit.toNat ≠ 0 ∧ a.toNat % 2 ^ 48 < limit.toNat ∧ limit.toNat ≤ z) := by
  have number : (a.setWidth 48).toNat = a.toNat % 2 ^ 48 := BitVec.toNat_setWidth 48 a
  have zero : limit ≠ 0 ↔ limit.toNat ≠ 0 := not_congr (BitVec.toNat_inj (y := 0)).symm
  refine ⟨by rw [hz, judgedCount, number], fun i hi => ?_, ?_⟩
  · rw [hp, judgedPending_getLsbD _ hbit, if_neg hi]
  · rw [hp, judgedPending_getLsbD _ hbit, if_pos rfl, hz]
    simp only [judgedOver, number, Bool.or_eq_true, Bool.and_eq_true, Bool.not_eq_true', decide_eq_true_eq, zero, and_assoc]

theorem writeNf_aside {k : CoreSt} {v : BitVec 48} {z : Nat} {p : Word} (hz : z = judgedCount v k.noteNow.nf)
    (hp : p = judgedPending k.evPending 2 k.noteNow.nfNew (judgedOver v k.nfLimit k.noteNow.nf)) :
    Aside { k with nfCount := BitVec.ofNat 48 z, evPending := p } (k.writeNf v) := by
  rw [hz, hp]
  unfold CoreSt.writeNf Eff.writeNf Eff.addNf saturate48
  dsimp only
  split
  · next crossed =>
    have : judgedOver v k.nfLimit k.noteNow.nf = true := crossed
    rw [this]
    rfl
  · next below =>
    have : judgedOver v k.nfLimit k.noteNow.nf = false := Bool.eq_false_of_not_eq_true below
    rw [this]
    rfl

theorem writeSpike_aside {k : CoreSt} {v : BitVec 48} {z : Nat} {p : Word} (hz : z = judgedCount v k.noteNow.spike)
    (hp : p = judgedPending k.evPending 3 k.noteNow.spikeNew (judgedOver v k.spikeLimit k.noteNow.spike)) :
    Aside { k with spikeCount := BitVec.ofNat 48 z, evPending := p } (k.writeSpike v) := by
  rw [hz, hp]
  unfold CoreSt.writeSpike Eff.writeSpike Eff.addSpike saturate48
  dsimp only
  split
  · next crossed =>
    have : judgedOver v k.spikeLimit k.noteNow.spike = true := crossed
    rw [this]
    rfl
  · next below =>
    have : judgedOver v k.spikeLimit k.noteNow.spike = false := Bool.eq_false_of_not_eq_true below
    rw [this]
    rfl

/-! ### What an issue notes -/

section
variable {s : State} {c : CoreId} {t : Fin 4} {gap : Nat} {single : List Nat} {e : Eff} (timed : Timed s c t gap single e)
include timed

theorem Timed.noteNow_eq (h : (s.core c).note.cycle = issueCycle (s.core c) gap) : e.k.noteNow = (s.core c).note := by
  have cycle : e.k.cycle = issueCycle (s.core c) gap := timed.core.read (·.cycle)
  rw [CoreSt.noteNow, timed.note, cycle, if_pos h]

theorem Timed.noteNow_empty (h : (s.core c).note.cycle ≠ issueCycle (s.core c) gap) : e.k.noteNow = { cycle := e.k.cycle } := by
  have cycle : e.k.cycle = issueCycle (s.core c) gap := timed.core.read (·.cycle)
  rw [CoreSt.noteNow, timed.note, cycle, if_neg h]

theorem Timed.freshBits : e.k.noteNow.bits = freshBits (s.core c) gap := by
  unfold Sys2Proof.freshBits
  split_ifs with h
  · rw [timed.noteNow_eq h]
  · rw [timed.noteNow_empty h]

/-- A write of ones to CORE_EV_PENDING leaves the bits set in this cycle (R149). -/
theorem Timed.clearEvents (a : Word) :
    Aside { issuedCore (s.core c) t gap single with
        evPending := (s.core c).evPending &&& ~~~(a &&& ~~~Sys2Proof.freshBits (s.core c) gap) } (e.k.clearEvents a) := by
  have pending : e.k.evPending = (s.core c).evPending := timed.core.read (·.evPending)
  rw [CoreSt.clearEvents, timed.freshBits, pending]
  exact timed.core.map fun k => { k with evPending := _ }

end

section
variable {s : State} {c : CoreId} {t : Fin 4} {rd rs1 : Fin 32} {v : BitVec 16}

theorem tallyRow_wrs (h : Issues s c t (.imm .wrs rd rs1 v)) (gap : Nat) {g : CoreSt → CoreSt}
    (hwrite : ∀ single e, Timed s c t gap single e → ∃ k, e.k.writeSpecial t v.toNat (((s.core c).thread t).reg rs1) = some k ∧
      Aside (g (issuedCore (s.core c) t gap single)) k) :
    Issued s (s.tallyRow c t gap (.imm .wrs rd rs1 v)) c t gap (fun x => wrote t 0 0 (g x)) := by
  refine tallyRow_advanceOn h gap fun single e timed => ?_
  obtain ⟨k, written, hcore⟩ := hwrite single e timed
  refine ⟨{ e with k := k }, ?_, hcore, timed.occ⟩
  simp only [Eff.tallyOp, immAlu, loadShape, Eff.immOp, timed.reg, written]

theorem tallyRow_rds (h : Issues s c t (.imm .rds rd rs1 v)) (gap : Nat) {f : CoreSt → Word}
    (hread : ∀ single e, Timed s c t gap single e →
      e.k.special c t v.toNat (s.mirrorOf c) = .inl (f (issuedCore (s.core c) t gap single))) :
    Issued s (s.tallyRow c t gap (.imm .rds rd rs1 v)) c t gap (fun x => wrote t rd (f x) x) := by
  refine tallyRow_retireOn h gap fun single e timed => ⟨e, ?_, timed.core, timed.occ⟩
  have id : e.id = c := timed.id
  simp only [Eff.tallyOp, immAlu, loadShape, Eff.immOp, id, hread single e timed]

end

/-- Settles O17. That a CORE_EXC_VECTOR which is no multiple of 4 is stored as written is the model's choice (log 38). -/
theorem specialWordInstructions : Obligations.SpecialWordInstructions := by
  rintro s c t gap rd rs1 v k a rfl rfl
  refine ⟨fun h => ⟨fun x hx => ⟨_, rfl, ?word⟩, fun hv => ⟨_, rfl, ?cycle⟩⟩,
    fun h => ⟨fun f hf => ⟨_, rfl, ?wrs⟩, fun hnote f hf => ⟨_, rfl, ?count⟩, fun hnote bit n limit new f hf => ?judged⟩,
    fun h => ⟨_, rfl, ?slr⟩, fun h => ⟨_, rfl, ?nrd⟩⟩
  case word =>
    refine tallyRow_rds h gap fun single e timed => special_of_mem ?_ _
    rw [timed.specialWords]
    exact hx
  case cycle =>
    refine tallyRow_rds h gap fun single e timed => ?_
    have cycle : e.k.cycle = issueCycle (s.core c) gap := timed.core.read (·.cycle)
    rw [hv]
    exact congrArg (fun n => (.inl (BitVec.ofNat 64 n) : Word ⊕ Nat)) cycle
  case wrs =>
    refine tallyRow_wrs h gap fun single e timed => ?_
    simp only [List.mem_cons, Prod.mk.injEq, List.not_mem_nil, or_false] at hf
    rcases hf with ⟨hv, rfl⟩ | ⟨hv, rfl⟩ | ⟨hv, rfl⟩ | ⟨hv, rfl⟩ | ⟨hv, rfl⟩
    · exact ⟨_, congrArg (e.k.writeSpecial t · _) hv, timed.clearEvents _⟩
    · exact ⟨_, congrArg (e.k.writeSpecial t · _) hv, timed.core.map fun x => { x with nfLimit := _ }⟩
    · exact ⟨_, congrArg (e.k.writeSpecial t · _) hv, timed.core.map fun x => { x with spikeLimit := _ }⟩
    · refine ⟨_, congrArg (e.k.writeSpecial t · _) hv, ?_⟩
      rw [timed.core.thread]
      exact timed.core.setThread t _
    · refine ⟨_, congrArg (e.k.writeSpecial t · _) hv, ?_⟩
      rw [timed.core.thread]
      exact timed.core.setThread t _
  case count =>
    refine tallyRow_wrs h gap fun single e timed => ?_
    have empty := timed.noteNow_empty hnote
    simp only [List.mem_cons, Prod.mk.injEq, List.not_mem_nil, or_false] at hf
    rcases hf with ⟨hv, rfl⟩ | ⟨hv, rfl⟩
    · refine ⟨_, congrArg (e.k.writeSpecial t · _) hv, .trans (timed.core.map fun x => { x with nfCount := _ }) ?_⟩
      rw [← judgedCount_zero ((((s.core c).thread t).reg rs1).setWidth 48)]
      refine writeNf_aside (p := e.k.evPending) ?_ ?_
      · rw [empty, judgedCount_zero]
      · rw [empty, judgedOver_zero, judgedPending_false]
    · refine ⟨_, congrArg (e.k.writeSpecial t · _) hv, .trans (timed.core.map fun x => { x with spikeCount := _ }) ?_⟩
      rw [← judgedCount_zero ((((s.core c).thread t).reg rs1).setWidth 48)]
      refine writeSpike_aside (p := e.k.evPending) ?_ ?_
      · rw [empty, judgedCount_zero]
      · rw [empty, judgedOver_zero, judgedPending_false]
  case judged =>
    simp only [List.mem_cons, Prod.mk.injEq, List.not_mem_nil, or_false] at hf
    rcases hf with ⟨hv, rfl, rfl, rfl, rfl, rfl⟩ | ⟨hv, rfl, rfl, rfl, rfl, rfl⟩
    · obtain ⟨z, hz⟩ : ∃ z, z = judgedCount ((((s.core c).thread t).reg rs1).setWidth 48) (s.core c).note.nf := ⟨_, rfl⟩
      obtain ⟨p, hp⟩ : ∃ p, p = judgedPending (s.core c).evPending 2 (s.core c).note.nfNew
        (judgedOver ((((s.core c).thread t).reg rs1).setWidth 48) (s.core c).nfLimit (s.core c).note.nf) := ⟨_, rfl⟩
      refine ⟨_, p, z, rfl, tallyRow_wrs h gap fun single e timed => ?_, judged_spec _ _ (by decide) _ _ _ hz hp⟩
      have pending : e.k.evPending = (s.core c).evPending := timed.core.read (·.evPending)
      have limit : e.k.nfLimit = (s.core c).nfLimit := timed.core.read (·.nfLimit)
      refine ⟨_, congrArg (e.k.writeSpecial t · _) hv,
        .trans (timed.core.map fun x => { x with nfCount := BitVec.ofNat 48 z, evPending := p }) (writeNf_aside ?_ ?_)⟩
      · rw [timed.noteNow_eq hnote, hz]
      · rw [timed.noteNow_eq hnote, pending, limit, hp]
    · obtain ⟨z, hz⟩ : ∃ z, z = judgedCount ((((s.core c).thread t).reg rs1).setWidth 48) (s.core c).note.spike := ⟨_, rfl⟩
      obtain ⟨p, hp⟩ : ∃ p, p = judgedPending (s.core c).evPending 3 (s.core c).note.spikeNew
        (judgedOver ((((s.core c).thread t).reg rs1).setWidth 48) (s.core c).spikeLimit (s.core c).note.spike) := ⟨_, rfl⟩
      refine ⟨_, p, z, rfl, tallyRow_wrs h gap fun single e timed => ?_, judged_spec _ _ (by decide) _ _ _ hz hp⟩
      have pending : e.k.evPending = (s.core c).evPending := timed.core.read (·.evPending)
      have limit : e.k.spikeLimit = (s.core c).spikeLimit := timed.core.read (·.spikeLimit)
      refine ⟨_, congrArg (e.k.writeSpecial t · _) hv,
        .trans (timed.core.map fun x => { x with spikeCount := BitVec.ofNat 48 z, evPending := p }) (writeSpike_aside ?_ ?_)⟩
      · rw [timed.noteNow_eq hnote, hz]
      · rw [timed.noteNow_eq hnote, pending, limit, hp]
  case slr =>
    refine tallyRow_retireOn h gap (v := fun x => x.shadow.get 0 (v.toNat % 64)) (g := id) fun single e timed =>
      ⟨e, ?_, timed.core, timed.occ⟩
    have shadow : e.k.shadow = (issuedCore (s.core c) t gap single).shadow := timed.core.read (·.shadow)
    rw [← shadow]
    rfl
  case nrd =>
    refine tallyRow_retire h gap fun single e timed => ?_
    have notch : e.k.notch (v.toNat % 32) = (s.core c).notch (v.toNat % 32) := timed.core.read (·.notch (v.toNat % 32))
    rw [← notch]
    rfl

end Sys2Proof.Machine
end

section
/-! Shadow-slot writes and launches (R138 to R142), notches (R146, R147) and event bits (R149) as instructions. -/

namespace Sys2Proof.Machine

/-! ### Launch (R139, R142) -/

/-- The core when a launch of thread `t` is made: a write of the thread's own that is still pending is performed first, which takes a
cycle (R139). -/
def launchTime (t : Nat) (x : CoreSt) : CoreSt :=
  if x.shadowPend.any (fun w => w.thread = t) then
    { x.performShadow (x.cycle + 1) with cycle := x.cycle + 1, lastIssue := x.cycle + 1 }
  else x

theorem performShadow_of_due {k : CoreSt} {n : Nat} (h : ∀ w ∈ k.shadowPend, n ≤ w.cycle + 1) : k.performShadow n = k := by
  have none_due : k.shadowPend.filter (fun w => w.cycle + 1 < n) = [] :=
    List.filter_eq_nil_iff.2 fun w hw => by simpa using h w hw
  have all_wait : k.shadowPend.filter (fun w => !decide (w.cycle + 1 < n)) = k.shadowPend :=
    List.filter_eq_self.2 fun w hw => by simpa using h w hw
  unfold CoreSt.performShadow
  rw [none_due, all_wait]
  rfl

/-- What waits after the writes due before a cycle are performed is due in that cycle or later. -/
theorem performShadow_due (k : CoreSt) (n : Nat) : ∀ w ∈ (k.performShadow n).shadowPend, n ≤ w.cycle + 1 := by
  intro w hw
  have kept := (List.mem_filter.1 hw).2
  simpa using kept

/-- A launch into a queue with room, no write before this cycle being pending. -/
theorem launch_room {e : Eff} (hroom : e.k.invQueue.length < 4) (hdue : ∀ w ∈ e.k.shadowPend, e.k.cycle ≤ w.cycle + 1)
    (hlast : e.k.lastIssue = e.k.cycle) (t : Nat) (rd : Fin 32) (d : Word) :
    e.launch t rd d = { e with k := launched t rd d (launchTime t e.k) } := by
  have own : e.k.shadowPend.any (fun w => w.thread = t && decide (w.cycle + 1 ≥ e.k.cycle)) =
      e.k.shadowPend.any (fun w => w.thread = t) := by
    rw [Bool.eq_iff_iff, List.any_eq_true, List.any_eq_true]
    refine exists_congr fun w => and_congr_right fun hw => ?_
    simp [hdue w hw]
  have start : wField d 11 0 = d.toNat % 2 ^ 12 := by simp [wField, bitsOf]
  have len : wField d 28 16 = d.toNat / 2 ^ 16 % 2 ^ 13 := by simp [wField, bitsOf, Nat.shiftRight_eq_div_pow]
  unfold Eff.launch launchTime
  rw [if_neg (by omega), own]
  by_cases pending : e.k.shadowPend.any (fun w => w.thread = t) = true
  · simp only [pending, if_true, start, len, launched, wrote_setReg]
    rfl
  · simp only [pending, if_false, Bool.false_eq_true, start, len, launched, wrote_setReg, performShadow_of_due hdue, hlast]
    rfl

theorem launched_withAside (t : Nat) (rd : Fin 32) (d : Word) (k z : CoreSt) :
    launched t rd d (launchTime t (k.withAside z)) = (launched t rd d (launchTime t k)).withAside z := by
  have time : launchTime t (k.withAside z) = (launchTime t k).withAside z := by
    have same : (k.withAside z).shadowPend = k.shadowPend := rfl
    unfold launchTime
    rw [same]
    split <;> rfl
  rw [time]
  rfl

/-! ### Bumps (R147, R160) -/

theorem notchReached_iff (v x : BitVec 48) : notchReached v x = true ↔ (v - x).toNat < 2 ^ 47 := decide_eq_true_iff

theorem bump_bumped (k : CoreSt) (n amt : Nat) : Bumped k (k.bump n amt) n amt := by
  refine ⟨rfl, fun w hw => List.mem_append_left _ hw, fun u => ?_⟩
  have latched : (k.bump n amt).thread u = (k.thread u).latch k := Tab.get_map (g := Thread.latch k) rfl ..
  rw [latched]
  unfold Thread.latch
  split
  · next m v hwait =>
    split
    · next reached => exact ⟨rfl, fun _ => rfl, fun _ _ _ _ => rfl⟩
    · next unreached =>
      refine ⟨rfl, id, fun m' v' hwait' hreached => ?_⟩
      cases hwait.symm.trans hwait'
      exact absurd ((notchReached_iff _ _).2 hreached) unreached
  · next hwait => exact ⟨rfl, id, fun _ _ hwait' => absurd (hwait.symm.trans hwait') (Option.some_ne_none _).symm⟩

/-- A bump starts the stalemate count again, and changes alike what the passing of cycles tells apart. -/
theorem bump_aside {x y : CoreSt} (h : Aside x y) (n amt : Nat) : Aside (x.bump n amt) (y.bump n amt) := by
  obtain ⟨z, rfl⟩ := aside_iff.1 h
  exact aside_iff.2 ⟨{ z with calm := 0 }, rfl⟩

/-! ### The instructions -/

section
variable {s : State} {c : CoreId} {t : Fin 4} {op : TallyOp}

/-- An instruction that only changes a thread. -/
theorem tallyRow_setThread (h : Issues s c t op) (gap : Nat) {u : Nat} {th : Thread} (f : Thread → Thread)
    (hth : f ((s.core c).thread u) = th)
    (hop : ∀ single e, Timed s c t gap single e →
      e.tallyOp t op (s.tallyBusy c t) (s.tallyOwed c t) (s.mirrorOf c) = (e.onThread u f, none)) :
    Issued s (s.tallyRow c t gap op) c t gap (fun x => x.setThread u th) := by
  refine tallyRow_timed h gap fun single e timed => ⟨_, hop single e timed, ?_, timed.occ⟩
  have same : e.k.thread u = (s.core c).thread u := timed.core.read (·.thread u)
  rw [Eff.onThread, same, hth]
  exact timed.core.setThread u th

/-- A shadow-slot write joins those to be performed (R138). -/
theorem tallyRow_shadowWrite (h : Issues s c t op) (gap slot : Nat) (a : Word)
    (hop : ∀ single e, Timed s c t gap single e →
      e.tallyOp t op (s.tallyBusy c t) (s.tallyOwed c t) (s.mirrorOf c) = (Eff.advance { e with k := { e.k with
        shadowPend := e.k.shadowPend ++ [⟨t, slot, a, e.k.cycle⟩] } } t, none)) :
    Issued s (s.tallyRow c t gap op) c t gap (fun x => wrote t 0 0 { x with shadowPend := x.shadowPend ++ [⟨t, slot, a, x.cycle⟩] }) :=
  tallyRow_advanceOn h gap (g := fun x => { x with shadowPend := x.shadowPend ++ [⟨t, slot, a, x.cycle⟩] }) fun single e timed =>
    ⟨_, hop single e timed, timed.core.map fun x => { x with shadowPend := x.shadowPend ++ [⟨t, slot, a, x.cycle⟩] }, timed.occ⟩

end

/-- Settles O18: at an issue no write before its cycle is pending any more, so a launch waits for its own thread's last one alone. -/
theorem slotWritesAndLaunch : Obligations.SlotWritesAndLaunch := by
  rintro s c t gap rd rs1 rs2 v k a rfl rfl
  refine ⟨fun h => ⟨_, rfl, ?slw⟩, fun h => ⟨_, rfl, ?slwx⟩, fun h hroom => ⟨_, rfl, ?launch⟩, fun h hfull => ⟨_, rfl, ?wait⟩⟩
  case slw =>
    refine tallyRow_shadowWrite h gap _ _ fun single e timed => ?_
    simp only [Eff.tallyOp, immAlu, loadShape, Eff.immOp, timed.reg]
  case slwx =>
    refine tallyRow_shadowWrite h gap _ _ fun single e timed => ?_
    simp only [Eff.tallyOp, regAlu, Eff.regOp, timed.reg]
  case launch =>
    refine tallyRow_timed h gap fun single e timed => ⟨{ e with k := launched t rd (((s.core c).thread t).reg rs1) (launchTime t e.k) },
      ?_, timed.core.map (fun x => launched t rd _ (launchTime t x)) (launched_withAside t rd _), timed.occ⟩
    have queue : e.k.invQueue = (s.core c).invQueue := timed.core.read (·.invQueue)
    have cycle : e.k.cycle = issueCycle (s.core c) gap := timed.core.read (·.cycle)
    have last : e.k.lastIssue = issueCycle (s.core c) gap := timed.core.read (·.lastIssue)
    have pending : e.k.shadowPend = ((s.core c).performShadow (issueCycle (s.core c) gap)).shadowPend :=
      timed.core.read (·.shadowPend)
    have launchEq := launch_room (e := e) (queue ▸ hroom) (by rw [pending, cycle]; exact performShadow_due _ _) (last.trans cycle.symm)
    simp only [Eff.tallyOp, immAlu, loadShape, Eff.immOp, timed.reg, launchEq]
  case wait =>
    refine tallyRow_setThread h gap (fun x => { x with state := .waitLaunch }) rfl fun single e timed => ?_
    have queue : e.k.invQueue = (s.core c).invQueue := timed.core.read (·.invQueue)
    simp only [Eff.tallyOp, immAlu, loadShape, Eff.immOp, Eff.launch, queue, ge_iff_le, hfull, if_true, Eff.park]

/-- Settles O19: a wait is judged on the notches and event bits before the issue, which the issue leaves as they are. -/
theorem notchAndEventInstructions : Obligations.NotchAndEventInstructions := by
  rintro s c t gap rd rs1 rs2 v k a n rfl rfl rfl
  refine ⟨fun h => ⟨_, rfl, ?nbump⟩, fun h => ⟨_, rfl, fun reached => ?onward, fun unmet unreached => ?nwait⟩, fun h => ⟨_, rfl, ?evclr⟩,
    fun h hbits => ⟨_, rfl, fun hit => ?hit, fun miss => ?evwait⟩⟩
  case nbump =>
    refine ⟨fun x => x.bump (v.toNat % 32) (v.toNat / 32 % 256), fun x => bump_bumped x _ _,
      tallyRow_advanceOn h gap fun single e timed => ⟨{ e with k := e.k.bump (v.toNat % 32) (v.toNat / 32 % 256) }, ?_,
        bump_aside timed.core _ _, timed.occ⟩⟩
    have amount : bitsOf v.toNat 12 5 = v.toNat / 32 % 256 := bitsOf_eq_div ..
    simp only [Eff.tallyOp, immAlu, loadShape, Eff.immOp, amount]
  case onward =>
    refine tallyRow_advanceOn h gap (g := id) fun single e timed => ⟨e, ?_, timed.core, timed.occ⟩
    have notch : e.k.notch (v.toNat % 32) = (s.core c).notch (v.toNat % 32) := timed.core.read (·.notch (v.toNat % 32))
    have met : (e.k.thread t).met = ((s.core c).thread t).met := timed.core.read fun k => (k.thread t).met
    have goes : (((s.core c).thread t).met || notchReached ((s.core c).notch (v.toNat % 32))
        ((((s.core c).thread t).reg rs1).setWidth 48)) = true := by rwa [Bool.or_eq_true, notchReached_iff]
    simp only [Eff.tallyOp, immAlu, loadShape, Eff.immOp, timed.reg, notch, met, goes, if_true]
  case nwait =>
    refine tallyRow_setThread h gap (fun y => { y with state := .waitNotch, wait := some _ }) rfl fun single e timed => ?_
    have notch : e.k.notch (v.toNat % 32) = (s.core c).notch (v.toNat % 32) := timed.core.read (·.notch (v.toNat % 32))
    have met : (e.k.thread t).met = ((s.core c).thread t).met := timed.core.read fun k => (k.thread t).met
    have waits : notchReached ((s.core c).notch (v.toNat % 32)) ((((s.core c).thread t).reg rs1).setWidth 48) = false :=
      decide_eq_false (not_lt.2 unreached)
    simp only [Eff.tallyOp, immAlu, loadShape, Eff.immOp, timed.reg, notch, met, unmet, waits, Bool.or_self, Bool.false_eq_true, if_false]
  case evclr =>
    refine tallyRow_advanceOn h gap fun single e timed => ⟨{ e with k := e.k.clearEvents (((s.core c).thread t).reg rs1) }, ?_,
      timed.clearEvents _, timed.occ⟩
    simp only [Eff.tallyOp, regAlu, Eff.regOp, timed.reg]
  case hit =>
    refine tallyRow_retire h gap fun single e timed => ?_
    have pending : e.k.evPending = (s.core c).evPending := timed.core.read (·.evPending)
    simp only [Eff.tallyOp, immAlu, loadShape, Eff.immOp, timed.reg, pending, hbits, hit, if_false, ne_eq, not_false_eq_true, if_true]
  case evwait =>
    refine tallyRow_setThread h gap (fun y => { y with state := .waitEvent }) rfl fun single e timed => ?_
    have pending : e.k.evPending = (s.core c).evPending := timed.core.read (·.evPending)
    simp only [Eff.tallyOp, immAlu, loadShape, Eff.immOp, timed.reg, pending, hbits, miss, if_false, ne_eq, not_true_eq_false, Eff.park]

end Sys2Proof.Machine
end

section
/-! Instructions that start, halt, yield, fence and return (R129, R134, R137, R148, R153) and the indivisible add (R132), and the
exceptions that a fetch, an access and an instruction take (R136, R152 to R154). -/

namespace Sys2Proof.Machine

/-! ### Thread control -/

theorem wrap_natCast_add_toNat (n : Nat) (b : Word) : wrap (n + b.toNat) = wd n + b := by
  rw [wrap, BitVec.ofInt_add, BitVec.ofInt_natCast, BitVec.ofInt_natCast, BitVec.ofNat_toNat, BitVec.setWidth_eq, wd]

/-- Settles O20. That a halted thread's program counter is at the next instruction is the model's choice (log 38). -/
theorem threadControl : Obligations.ThreadControl := by
  rintro s c t gap rd rs1 rs2 k a b rfl rfl rfl
  refine ⟨fun h => ⟨_, rfl, fun starts => ?tstart, fun refused => ?refused⟩, fun h => ⟨_, rfl, ?halt⟩, fun h => ⟨_, rfl, ?yield⟩,
    fun h free => ⟨_, rfl, ?fence⟩, fun h paid posted answered => ⟨_, rfl, ?ffence⟩, fun h handler align => ⟨_, rfl, ?eret⟩,
    fun h align hhi clean hwf => ⟨_, ?store, rfl, ?stored, ?amoadd⟩⟩
  case tstart =>
    refine tallyRow_retireOn h gap (v := fun _ => 1) (g := fun x => x.setThread _ _) fun single e timed => ⟨e.onThread
      ((((s.core c).thread t).reg rs2).toNat % 4) fun x => { x with pc := ((s.core c).thread t).reg rs1, state := .ready, handler := false },
      ?_, ?_, timed.occ⟩
    all_goals
      have target : e.k.thread ((((s.core c).thread t).reg rs2).toNat % 4) =
        (s.core c).thread ((((s.core c).thread t).reg rs2).toNat % 4) := timed.core.read (·.thread _)
    · simp only [Eff.tallyOp, regAlu, Eff.regOp, timed.reg, target]
      rw [if_pos starts]
    · rw [Eff.onThread, target]
      exact timed.core.setThread _ _
  case refused =>
    refine tallyRow_retire h gap fun single e timed => ?_
    have target : e.k.thread ((((s.core c).thread t).reg rs2).toNat % 4) =
      (s.core c).thread ((((s.core c).thread t).reg rs2).toNat % 4) := timed.core.read (·.thread _)
    simp only [Eff.tallyOp, regAlu, Eff.regOp, timed.reg, target]
    rw [if_neg refused]
  case halt =>
    exact tallyRow_setThread h gap (fun x => { x with pc := x.pc + 4, state := .halted }) rfl fun single e timed => rfl
  case yield =>
    exact tallyRow_advanceOn h gap (g := fun x => { x with yielded := some t.val }) fun single e timed =>
      ⟨{ e with k := { e.k with yielded := some t.val } }, rfl, timed.core.map fun x => { x with yielded := some t.val }, timed.occ⟩
  case fence =>
    refine tallyRow_advanceOn h gap (g := id) fun single e timed => ⟨e, ?_, timed.core, timed.occ⟩
    simp only [Eff.tallyOp, regAlu, Eff.regOp, free, Bool.false_eq_true, if_false]
  case ffence =>
    refine tallyRow_advanceOn h gap (g := fun x => { x with farCache := [] }) fun single e timed =>
      ⟨{ e with k := { e.k with farCache := [] } }, ?_, timed.core.map fun x => { x with farCache := [] }, timed.occ⟩
    have same : e.k.thread t = (s.core c).thread t := timed.core.read (·.thread t)
    simp only [Eff.tallyOp, regAlu, Eff.regOp, same, paid, posted, answered, Bool.false_eq_true, gt_iff_lt, lt_irrefl, or_self, if_false]
  case eret =>
    refine tallyRow_setThread h gap (fun x => { x with pc := x.excPc, handler := false, state := .ready }) rfl fun single e timed => ?_
    have same : e.k.thread t = (s.core c).thread t := timed.core.read (·.thread t)
    simp only [Eff.tallyOp, regAlu, Eff.regOp, same, handler, align, Bool.not_true, Bool.false_eq_true, ne_eq, not_true_eq_false, if_false]
  case store =>
    exact (((s.core c).dmem.afterRead (((s.core c).thread t).reg rs1).toNat 8).1).write (((s.core c).thread t).reg rs1).toNat
      (markAll false (natLe 8 (wrap ((s.core c).dmem.data.le (((s.core c).thread t).reg rs1).toNat 8 +
        (((s.core c).thread t).reg rs2).toNat)).toNat))
  case stored =>
    rw [Store.write_data, markAll_bytes, store_afterRead_data]
    exact stored_wrBytes hwf _ _ _
  case amoadd =>
    refine tallyRow_retireOn h gap (v := fun _ => _) (g := fun x => { x with dmem := _ }) fun single e timed => ⟨{ e with k :=
      { e.k with dmem := _ } }, ?_, timed.core.map fun x => { x with dmem := _ }, timed.occ⟩
    have same : e.k.dmem = (s.core c).dmem := timed.core.read (·.dmem)
    simp only [Eff.tallyOp, regAlu, Eff.regOp, timed.reg, align, ne_eq, not_true_eq_false, if_false, placeOf_dmem hhi, readPlace_dmem,
      same, clean, Bool.false_eq_true, Eff.writePlace, wrap_natCast_add_toNat, wrap_natCast]
    rfl

/-! ### Exceptions (R152 to R154) -/

/-- Taking an exception: the words, the handler or the halt, and TALLY_EXCEPTION when the thread halts. -/
theorem tallyExc_took {k : CoreSt} {e : Eff} (h : Aside k e.k) (hocc : e.occ = []) (t cause : Nat) (addr : Word) :
    Aside (tookException t cause addr k) (e.tallyExc t cause addr).k ∧
      (e.tallyExc t cause addr).occ = exceptionEvents e.id t cause addr k := by
  obtain ⟨id, k', occ⟩ := e
  obtain rfl : occ = [] := hocc
  obtain ⟨z, rfl⟩ : ∃ z, k' = k.withAside z := aside_iff.1 h
  have same : (k.withAside z).thread t = k.thread t := rfl
  unfold Eff.tallyExc tookException exceptionEvents
  simp only [same, Bool.not_eq_true']
  split_ifs
  · exact ⟨rfl, rfl⟩
  · exact ⟨rfl, rfl⟩

/-- The state of which a step that takes an exception is said to differ: its event has been raised. -/
def raisedException (s : State) (c t cause : Nat) (addr : Word) : State :=
  { s with occurrences := s.occurrences ++ exceptionEvents c t cause addr (s.core c) }

theorem landCore_exception (s : State) {c t gap cause : Nat} {addr : Word} {single : List Nat} {e : Eff} {g : CoreSt → CoreSt}
    (hcore : Aside (g (issuedCore (s.core c) t gap single)) e.k) (hid : e.id = c) (hocc : e.occ = [])
    (hthread : (g (issuedCore (s.core c) t gap single)).thread t = (s.core c).thread t) :
    Issued (raisedException s c t cause addr) (s.landCore c (e.tallyExc t cause addr)) c t gap
      (fun x => tookException t cause addr (g x)) := by
  obtain ⟨took, raised⟩ := tallyExc_took hcore hocc t cause addr
  refine ⟨single, ?_⟩
  have events : raisedException s c t cause addr = { s with occurrences := s.occurrences ++ (e.tallyExc t cause addr).occ } := by
    rw [raised, hid, raisedException]
    simp only [exceptionEvents, hthread]
  rw [events]
  exact landCore_coreAt s c took

section
variable {s : State} {c : CoreId} {t : Fin 4} {op : TallyOp}

/-- An instruction that ends in an exception, having changed the core by `g`. -/
theorem tallyRow_exception (h : Issues s c t op) (gap : Nat) {cause : Nat} {addr : Word} {g : CoreSt → CoreSt}
    (hg : ∀ k, (g k).thread t = k.thread t)
    (hop : ∀ single e, Timed s c t gap single e →
      ∃ e' : Eff, e.tallyOp t op (s.tallyBusy c t) (s.tallyOwed c t) (s.mirrorOf c) = (e'.tallyExc t cause addr, none) ∧
        Aside (g (issuedCore (s.core c) t gap single)) e'.k ∧ e'.id = c ∧ e'.occ = []) :
    Issued (raisedException s c t cause addr) (s.tallyRow c t gap op) c t gap (fun x => tookException t cause addr (g x)) := by
  obtain ⟨single, timed⟩ := issueTime_passes s c t gap
  obtain ⟨e', done, hcore, hid, hocc⟩ := hop single _ ⟨timed, rfl⟩
  rw [tallyRow_of_issues h done]
  exact landCore_exception s hcore hid hocc (hg _)

/-- An instruction that does nothing but take an exception. -/
theorem tallyRow_exceptionAlone (h : Issues s c t op) (gap : Nat) {cause : Nat} {addr : Word}
    (hop : ∀ single e, Timed s c t gap single e →
      e.tallyOp t op (s.tallyBusy c t) (s.tallyOwed c t) (s.mirrorOf c) = (e.tallyExc t cause addr, none)) :
    Issued (raisedException s c t cause addr) (s.tallyRow c t gap op) c t gap (tookException t cause addr) :=
  tallyRow_exception h gap (g := id) (fun _ => rfl) fun single e timed => ⟨e, hop single e timed, timed.core, timed.id, timed.occ⟩

/-- A thread whose fetch is refused takes that exception. -/
theorem onCore_fetchExc {cause : Nat} {causes : List Nat} (hruns : s.coreRuns c = true) (hmay : (s.core c).mayIssue t = true)
    (hcause : (s.core c).fetchCause t = some cause) (hmem : causes.contains cause = true) (gap : Nat) :
    Issued (raisedException s c t cause 0) (s.onCore c (fun e => e.fetchExc t gap causes)) c t gap (tookException t cause 0) := by
  obtain ⟨single, timed⟩ := issueTime_passes s c t gap
  have taken : Eff.fetchExc ⟨c, s.core c, []⟩ t gap causes = (Eff.issueTime ⟨c, s.core c, []⟩ t gap).tallyExc t cause 0 := by
    simp only [Eff.fetchExc, hcause, hmay, hmem, Bool.and_self, if_true]
  rw [onCore_eq hruns, taken]
  exact landCore_exception s (g := id) timed.core timed.id timed.occ rfl

end

/-- The causes that a fetch itself takes (Table 5.9). -/
theorem fetchCause_eq {k : CoreSt} {t cause : Nat} :
    (cause = 3 ∧ (k.thread t).pc.toNat % 4 ≠ 0) ∨ (cause = 1 ∧ ∃ w, k.fetch t = some (w, false) ∧ tallyDecode w = none) ∨
      (cause = 4 ∧ (k.thread t).pc.toNat % 4 = 0 ∧ 0x7FFC < (k.thread t).pc.toNat) ∨ (cause = 2 ∧ ∃ w, k.fetch t = some (w, true)) →
    k.fetchCause t = some cause := by
  rintro (⟨rfl, hpc⟩ | ⟨rfl, w, hfetch, hdecode⟩ | ⟨rfl, hpc, hhi⟩ | ⟨rfl, w, hfetch⟩)
  · have unfetched : k.fetch t = none := if_neg fun h => hpc h.1
    rw [CoreSt.fetchCause, unfetched]
    exact if_pos hpc
  · rw [CoreSt.fetchCause, hfetch]
    simp [hdecode]
  · have unfetched : k.fetch t = none := if_neg fun h => (not_le.2 hhi) h.2
    rw [CoreSt.fetchCause, unfetched]
    exact if_neg (not_not.2 hpc)
  · rw [CoreSt.fetchCause, hfetch]
    rfl

/-- An access that Table 5.3 maps nowhere, or for which its row does not allow the width and direction (Table 5.9). -/
theorem checkAccess_of_not_mapped {a : Word} {n : Nat} {write : Bool} (halign : a.toNat % n = 0) (h : ¬ mapped a.toNat n write) :
    checkAccess a n write = .inr 4 := by
  unfold mapped at h
  rw [checkAccess, if_neg (not_not.2 halign)]
  unfold placeOf
  split_ifs with dmem ls desc tile far
  · exact absurd (.inl dmem) h
  · exact absurd (.inr (.inl ls)) h
  · have width : n ≠ 8 := fun hn => h (.inr (.inr (.inl ⟨desc.1, desc.2, hn⟩)))
    simp [Place.allows, width]
  · have unallowed : ¬ (n = 4 ∧ write = false) := fun hn => h (.inr (.inr (.inr (.inl ⟨tile.1, tile.2, hn⟩))))
    simp [Place.allows, unallowed]
  · exact absurd (.inr (.inr (.inr (.inr far)))) h
  · rfl

theorem checkAccess_of_misaligned {a : Word} {n : Nat} (halign : a.toNat % n ≠ 0) (write : Bool) :
    checkAccess a n write = .inr 3 := if_pos halign

/-- An access refused before it is made (R131, Table 5.9). -/
theorem checkAccess_refused {a : Word} {n cause : Nat} {write : Bool}
    (h : cause = 3 ∧ a.toNat % n ≠ 0 ∨ cause = 4 ∧ a.toNat % n = 0 ∧ ¬ mapped a.toNat n write) :
    checkAccess a n write = .inr cause := by
  rcases h with ⟨rfl, halign⟩ | ⟨rfl, halign, hmapped⟩
  · exact checkAccess_of_misaligned halign write
  · exact checkAccess_of_not_mapped halign hmapped

theorem loadShape_of_mem_width {o : ImmOp} {n : Nat} (h : (o, n) ∈ [(ImmOp.ld, 8), (.lw, 4), (.lws, 4), (.lh, 2), (.lb, 1)]) :
    ∃ signed, loadShape o = some (n, signed) := by
  simp only [List.mem_cons, Prod.mk.injEq, List.not_mem_nil, or_false] at h
  rcases h with ⟨rfl, rfl⟩ | ⟨rfl, rfl⟩ | ⟨rfl, rfl⟩ | ⟨rfl, rfl⟩ | ⟨rfl, rfl⟩ <;> exact ⟨_, rfl⟩

section
variable {s : State} {c : CoreId} {t : Fin 4} {rd rs1 rs2 : Fin 32} {v : BitVec 16} {a : Word}
  (ha : a = wrap ((((s.core c).thread t).reg rs1).toNat + v.toInt))
include ha

theorem tallyRow_loadRefused {o : ImmOp} {n cause : Nat} {signed : Bool} (hshape : loadShape o = some (n, signed))
    (h : Issues s c t (.imm o rd rs1 v)) (hcheck : checkAccess a n false = .inr cause) (gap : Nat) :
    Issued (raisedException s c t cause a) (s.tallyRow c t gap (.imm o rd rs1 v)) c t gap (tookException t cause a) :=
  tallyRow_exceptionAlone h gap fun single e timed => by
    rw [tallyOp_load hshape, timed.address ha, Eff.load, hcheck]

theorem tallyRow_storeRefused {o : StoreOp} {n cause : Nat} (hwidth : storeWidth o = n)
    (h : Issues s c t (.store o rs2 rs1 v)) (hcheck : checkAccess a n true = .inr cause) (gap : Nat) :
    Issued (raisedException s c t cause a) (s.tallyRow c t gap (.store o rs2 rs1 v)) c t gap (tookException t cause a) :=
  tallyRow_exceptionAlone h gap fun single e timed => by
    rw [tallyOp_store, hwidth, timed.address ha, Eff.store, hcheck]

/-- A load of poisoned bytes of the data memory (R152). -/
theorem tallyRow_loadPoison {o : ImmOp} {n : Nat} {signed : Bool} (hshape : loadShape o = some (n, signed))
    (h : Issues s c t (.imm o rd rs1 v)) (halign : a.toNat % n = 0) (hhi : a.toNat < 0x10000)
    (hmarked : (s.core c).dmem.marked a.toNat n = true) (gap : Nat) :
    Issued (raisedException s c t 6 a) (s.tallyRow c t gap (.imm o rd rs1 v)) c t gap
      (fun x => tookException t 6 a { x with dmem := ((s.core c).dmem.afterRead a.toNat n).1 }) := by
  refine tallyRow_exception h gap (g := fun x => { x with dmem := ((s.core c).dmem.afterRead a.toNat n).1 }) (fun _ => rfl)
    fun single e timed => ⟨{ e with k := { e.k with dmem := ((s.core c).dmem.afterRead a.toNat n).1 } }, ?_,
      timed.core.map fun x => { x with dmem := _ }, timed.id, timed.occ⟩
  have same : e.k.dmem = (s.core c).dmem := timed.core.read (·.dmem)
  rw [tallyOp_load hshape, timed.address ha,
    load_near (checkAccess_of_placeOf halign (placeOf_dmem hhi) rfl) fun _ => Place.noConfusion, readPlace_dmem, same, hmarked]
  rfl

end

/-- Settles O21. That the exceptions of a fetch's address are taken by the commands of illegal words and of instruction-memory errors
is the model's reading (log 69), as is the poisoned line that a double-bit error leaves (log 38). -/
theorem threadExceptions : Obligations.ThreadExceptions := by
  refine ⟨fun s c t gap k pc hk hpc hruns hmay => ?fetch, fun s c t gap o p n rd rs1 rs2 v a k hk ha => ?access⟩
  case fetch =>
    subst hk hpc
    refine ⟨fun cause h => ⟨_, rfl, ?_⟩, fun cause h => ⟨_, rfl, ?_⟩⟩
    · refine onCore_fetchExc hruns hmay (fetchCause_eq (h.imp_right .inl)) ?_ gap
      rcases h with ⟨rfl, -⟩ | ⟨rfl, -⟩ <;> rfl
    · refine onCore_fetchExc hruns hmay (fetchCause_eq (.inr (.inr h))) ?_ gap
      rcases h with ⟨rfl, -⟩ | ⟨rfl, -⟩ <;> rfl
  case access =>
    subst hk
    refine ⟨fun ho h => ?load, fun hp h => ?store, fun h outside => ⟨_, rfl, ?eret⟩, fun h zero => ⟨_, rfl, ?evwait⟩⟩
    case load =>
      obtain ⟨signed, hshape⟩ := loadShape_of_mem_width ho
      exact ⟨_, exec_immRow .., fun cause hcause => tallyRow_loadRefused ha hshape h (checkAccess_refused hcause) gap,
        fun halign hhi hmarked => ⟨_, store_afterRead_data _ _ _, tallyRow_loadPoison ha hshape h halign hhi hmarked gap⟩⟩
    case store =>
      obtain ⟨hwidth, -⟩ := storeWidth_of_mem hp
      exact ⟨_, exec_storeRow .., fun cause hcause => tallyRow_storeRefused ha hwidth h (checkAccess_refused hcause) gap⟩
    case eret =>
      refine tallyRow_exceptionAlone h gap fun single e timed => ?_
      have same : e.k.thread t = (s.core c).thread t := timed.core.read (·.thread t)
      simp only [Eff.tallyOp, regAlu, Eff.regOp, same, outside, Bool.not_false, if_true]
    case evwait =>
      refine tallyRow_exceptionAlone h gap fun single e timed => ?_
      simp only [Eff.tallyOp, immAlu, loadShape, Eff.immOp, timed.reg, zero, if_true]

end Sys2Proof.Machine
end

section
/-! Far loads and stores (R134): the cached line, the access that leaves the core, and its answer. -/

namespace Sys2Proof.Machine

theorem checkAccess_far {a : Word} {dva n : Nat} (ha : a.toNat = 0x20000000000 + dva) (hdva : dva < 0x20000000000)
    (hn : n ∈ [8, 4, 2, 1]) (halign : dva % n = 0) (write : Bool) : checkAccess a n write = .inl (.far dva) := by
  refine checkAccess_of_placeOf ?_ ?_ rfl
  · simp only [List.mem_cons, List.not_mem_nil, or_false] at hn
    rcases hn with rfl | rfl | rfl | rfl <;> omega
  · rw [placeOf, if_neg (by omega), if_neg (by omega), if_neg (by omega), if_neg (by omega), if_pos (by omega), ha,
      Nat.add_sub_cancel_left]

/-- The bytes of a line that a far load of `n` bytes delivers. -/
theorem lineBits_eq_bytesAt (d : BitVec 512) (o n : Nat) (hn : 0 < n) : lineBits d o n = bytesAt d.toNat o n := by
  rw [lineBits, bitsOf_eq_div, bytesAt, show 8 * o + 8 * n - 1 + 1 - 8 * o = 8 * n by omega]

theorem extendLoad_lineBits {n : Nat} {signed : Bool} (hn : n ∈ [8, 4, 2, 1]) (hsigned : signed = true → n = 4) (d : BitVec 512)
    (o : Nat) : extendLoad n signed (lineBits d o n) = loadedWord n signed (bytesAt d.toNat o n) := by
  have pos : 0 < n := by
    simp only [List.mem_cons, List.not_mem_nil, or_false] at hn
    omega
  rw [lineBits_eq_bytesAt d o n pos]
  exact extendLoad_eq hsigned (Nat.mod_lt _ (Nat.two_pow_pos _))

theorem load_width_of_mem {o : ImmOp} {n : Nat} {signed : Bool}
    (h : (o, n, signed) ∈ [(ImmOp.ld, 8, false), (.lw, 4, false), (.lws, 4, true), (.lh, 2, false), (.lb, 1, false)]) :
    n ∈ [8, 4, 2, 1] := by
  simp only [List.mem_cons, Prod.mk.injEq, List.not_mem_nil, or_false] at h ⊢
  omega

/-- An instruction that makes a far access. -/
theorem tallyRow_far {s : State} {c : CoreId} {t : Fin 4} {op : TallyOp} (h : Issues s c t op) (gap : Nat) {f : CoreSt → CoreSt}
    {r : FarReq}
    (hop : ∀ single e, Timed s c t gap single e →
      ∃ e', e.tallyOp t op (s.tallyBusy c t) (s.tallyOwed c t) (s.mirrorOf c) = (e', some r) ∧
        Aside (f (issuedCore (s.core c) t gap single)) e'.k ∧ e'.occ = []) :
    ∃ w, s.tallyRow c t gap op = w.farIssue c t r ∧ Issued s w c t gap f := by
  obtain ⟨single, timed⟩ := issueTime_passes s c t gap
  obtain ⟨e', done, hcore, hocc⟩ := hop single _ ⟨timed, rfl⟩
  refine ⟨s.landCore c e', ?_, single, landCore_coreAt_of_no_events s c hcore hocc⟩
  obtain ⟨hruns, hmay, w, hfetch, hdecode⟩ := h
  simp only [State.tallyRow, hruns, Eff.tallyIssue, hfetch, hmay, hdecode, done, if_true, Bool.not_false, Bool.and_self, decide_true]

/-- The answer to a far read: the line is cached and the load done (R134). -/
theorem farAnswer_done {e : Eff} {t : Nat} {w : BitVec 32} {bad : Bool} {o : ImmOp} {rd rs1 : Fin 32} {v : BitVec 16} {n : Nat}
    {signed : Bool} (hfetch : e.k.fetch t = some (w, bad)) (hdecode : tallyDecode w = some (.imm o rd rs1 v))
    (hshape : loadShape o = some (n, signed)) {dva : Nat}
    (ha : ((e.k.thread t).reg rs1 + v.signExtend 64).toNat = 0x20000000000 + dva) (data : BitVec 512) :
    e.farAnswer t false data false =
      Eff.retire { e with k := e.k.farUse dva data } t rd (extendLoad n signed (lineBits data (dva % 64) n)) := by
  simp only [Eff.farAnswer, hfetch, hdecode, hshape, ha, Nat.add_sub_cancel_left, Bool.false_eq_true, if_false, Eff.finishLoad]

/-- A thread whose posted far write has been acknowledged: the first refused one since its last ffence is kept (R134). -/
def Txn.acknowledged (x : Txn) (th : Thread) : Thread :=
  { th with
    posted := th.posted - 1,
    refused := if x.code = 0 then th.refused else th.refused.orElse fun _ => some (wd (0x20000000000 + x.target.addr + x.first)) }

/-- Settles O23: an access to the far window goes on at once from the cached line, or leaves the core as a request; the answer to a
load does what the cached line would have done. -/
theorem farAccesses : Obligations.FarAccesses := by
  rintro s c t gap rd rs1 rs2 v a dva k rfl haddr ha hdva
  refine ⟨fun l n signed hl halign h => ?loads, fun st n hst halign h hroom hmiss => ?stores,
    fun l n signed b x hl hruns hfetch hdecode hread hphase hpoison => ?answer, fun x code hruns hwrite hphase => ?ack⟩
  case loads =>
    obtain ⟨hshape, hsigned⟩ := loadShape_of_mem hl
    have hn := load_width_of_mem hl
    have check := checkAccess_far ha hdva hn halign false
    refine ⟨_, exec_immRow .., fun d hhit => ?hit, fun hmiss => ?miss⟩
    case hit =>
      rw [← extendLoad_lineBits hn hsigned]
      refine tallyRow_retireOn h gap (v := fun _ => _) (g := fun x => x.farUse dva d) fun single e timed =>
        ⟨{ e with k := e.k.farUse dva d }, ?_, timed.core.map fun x => x.farUse dva d, timed.occ⟩
      have line : e.k.farLine dva = (s.core c).farLine dva := timed.core.read (·.farLine dva)
      simp only [tallyOp_load hshape, timed.address haddr, Eff.load, check, line, hhit, Eff.finishLoad, Bool.false_eq_true, if_false]
    case miss =>
      refine tallyRow_far h gap fun single e timed => ⟨(e.park t .waitFar).count 0x043 1, ?_, ?_, timed.occ⟩
      · have line : e.k.farLine dva = (s.core c).farLine dva := timed.core.read (·.farLine dva)
        simp only [tallyOp_load hshape, timed.address haddr, Eff.load, check, line, hmiss]
      · have same : e.k.thread t = (s.core c).thread t := timed.core.read (·.thread t)
        refine .trans ?_ (count_passes _ _ _).core
        rw [Eff.park, Eff.onThread, same]
        exact timed.core.setThread t _
  case stores =>
    obtain ⟨hwidth, hn⟩ := storeWidth_of_mem hst
    have check := checkAccess_far ha hdva hn halign true
    refine Exists.elim (tallyRow_far h gap (f := fun x => wrote t 0 0 (x.setThread t
      { (s.core c).thread t with posted := ((s.core c).thread t).posted + 1 }))
      (r := ⟨true, dva, n, (((s.core c).thread t).reg rs2).toNat % 2 ^ (8 * n)⟩) fun single e timed =>
        ⟨(e.onThread t fun th => { th with posted := th.posted + 1 }).advance t, ?_, ?_, timed.occ⟩)
      fun w hw => ⟨_, w, exec_storeRow .., hw⟩
    · have line : e.k.farLine dva = (s.core c).farLine dva := timed.core.read (·.farLine dva)
      have same : (e.k.thread t).posted = ((s.core c).thread t).posted := timed.core.read fun k => (k.thread t).posted
      rw [tallyOp_store, hwidth, timed.address haddr, timed.reg]
      simp only [Eff.store, check, line, hmiss, same, ge_iff_le, not_le.2 hroom, if_false]
    · have same : e.k.thread t = (s.core c).thread t := timed.core.read (·.thread t)
      refine advance_wrote ?_ t
      rw [Eff.onThread, same]
      exact timed.core.setThread t _
  case answer =>
    obtain ⟨hshape, hsigned⟩ := loadShape_of_mem hl
    have hn := load_width_of_mem hl
    have code : x.code = 0 := by rw [Txn.code, hphase]
    have lands := atCore_lands (s.dropTxn x.id) c fun e => e.farAnswer t (x.code ≠ 0) x.data x.poison
    refine ⟨_, ?_, ?_, congrArg State.txns lands.rest⟩
    · simp only [exec, execFarReadResponse, hread, hruns, if_true]
    · rw [haddr, wrap_add_toInt] at ha
      have answered : ((s.dropTxn x.id).coreEff c).farAnswer t (x.code ≠ 0) x.data x.poison =
          Eff.retire { (s.dropTxn x.id).coreEff c with k := (s.core c).farUse dva x.data } t rd
            (extendLoad n signed (lineBits x.data (dva % 64) n)) := by
        rw [code, hpoison]
        exact farAnswer_done (e := (s.dropTxn x.id).coreEff c) hfetch hdecode hshape ha x.data
      rw [← extendLoad_lineBits hn hsigned]
      have loaded := retire_wrote (Aside.refl (Eff.k { (s.dropTxn x.id).coreEff c with k := (s.core c).farUse dva x.data })) t rd
        (extendLoad n signed (lineBits x.data (dva % 64) n))
      rw [← answered] at loaded
      exact loaded.trans lands.core
  case ack =>
    have hcode : x.code = code := by rw [Txn.code, hphase]
    have lands := atCore_lands (s.dropTxn x.id) c fun e => (e.onThread t x.acknowledged).count 0x058
      (if x.code = 0 ∨ x.code = 8 then 0 else 1)
    have thread : ((((s.dropTxn x.id).atCore c fun e => (e.onThread t x.acknowledged).count 0x058
        (if x.code = 0 ∨ x.code = 8 then 0 else 1)).core c).thread t) = x.acknowledged ((s.core c).thread t) := by
      rw [lands.core.thread]
      exact Tab.get_set_same ..
    refine ⟨_, ?_, congrArg Thread.posted thread, (congrArg Thread.refused thread).trans ?_, congrArg State.txns lands.rest⟩
    · simp only [exec, execFarWriteAck, hwrite, hruns, if_true]
      rfl
    · simp only [Txn.acknowledged, hcode]
      by_cases good : code = 0
      · simp [good]
      · cases ((s.core c).thread t).refused <;> simp [good, wd]

end Sys2Proof.Machine
end

section
/-! A waiting thread goes on (R128, R142, R146, R149): its instruction, tried again, finds its condition met. -/

namespace Sys2Proof.Machine

/-- The step of a core whose waiting thread tries its instruction again. -/
def wokenEff (s : State) (c t gap : Nat) : Eff := ⟨c, wokenCore (s.core c) t gap, []⟩

section
variable {s : State} {c : CoreId} {t : Fin 4} {op : TallyOp}

/-- A waiting thread's instruction, tried again, makes no far access and raises no event. -/
theorem threadWake_woken (h : Waits s c t op) (gap : Nat) {f : CoreSt → CoreSt} {e : Eff}
    (hop : (wokenEff s c t gap).tallyOp t op (s.tallyBusy c t) (s.tallyOwed c t) (s.mirrorOf c) = (e, none))
    (hcore : e.k = f (wokenCore (s.core c) t gap)) (hocc : e.occ = []) :
    ∃ u, exec (.threadWake c t gap) s = .next u ∧ Woken s u c t gap f := by
  obtain ⟨hruns, hmay, w, b, hfetch, hdecode⟩ := h
  refine ⟨s.landCore c e, ?_, landCore_coreAt_of_no_events s c (hcore ▸ Aside.refl _) hocc⟩
  have tried : Eff.tallyWake ⟨c, s.core c, []⟩ t gap (s.tallyBusy c t) (s.tallyOwed c t) (s.mirrorOf c) = (e, none) := by
    simp only [Eff.tallyWake, hfetch, hdecode, hmay, if_true]
    exact hop
  simp only [exec, execThreadWake, hruns, if_true, tried]

/-- It writes a register and goes on. -/
theorem threadWake_wrote (h : Waits s c t op) (gap : Nat) {rd : Fin 32} {v : Word}
    (hop : (wokenEff s c t gap).tallyOp t op (s.tallyBusy c t) (s.tallyOwed c t) (s.mirrorOf c) =
      ((wokenEff s c t gap).retire t rd v, none)) :
    ∃ u, exec (.threadWake c t gap) s = .next u ∧ Woken s u c t gap (wrote t rd v) :=
  threadWake_woken h gap hop (wrote_setReg t rd v _).symm rfl

end

/-- Settles O24: the cycles before the instruction is tried again change none of what it waits for. -/
theorem waitingThreadsGoOn : Obligations.WaitingThreadsGoOn := by
  rintro s c t gap rd rs1 rs2 v k a rfl rfl
  have thread : (wokenEff s c t gap).k.thread t = (s.core c).thread t := rfl
  refine ⟨fun h reached => ?nwait, fun h hit => ?evwait, fun h free => ?fence, fun h hroom hclear => ?launch⟩
  case nwait =>
    have notch : (wokenEff s c t gap).k.notch (v.toNat % 32) = (s.core c).notch (v.toNat % 32) := rfl
    have goes : (((s.core c).thread t).met || notchReached ((s.core c).notch (v.toNat % 32))
        ((((s.core c).thread t).reg rs1).setWidth 48)) = true := by rwa [Bool.or_eq_true, notchReached_iff]
    refine threadWake_wrote h gap (rd := 0) (v := 0) ?_
    simp only [Eff.tallyOp, immAlu, loadShape, Eff.immOp, thread, notch, goes, if_true]
    rfl
  case evwait =>
    have pending : (wokenEff s c t gap).k.evPending = (s.core c).evPending := rfl
    have bits : ((s.core c).thread t).reg rs1 ≠ 0 := fun zero => hit (by rw [zero]; exact BitVec.and_zero)
    refine threadWake_wrote h gap ?_
    simp only [Eff.tallyOp, immAlu, loadShape, Eff.immOp, thread, pending, bits, hit, if_false, ne_eq, not_false_eq_true, if_true]
  case fence =>
    refine threadWake_wrote h gap (rd := 0) (v := 0) ?_
    simp only [Eff.tallyOp, regAlu, Eff.regOp, free, Bool.false_eq_true, if_false]
    rfl
  case launch =>
    have launchEq := launch_room (e := wokenEff s c t gap) hroom (performShadow_due _ _) rfl t rd (((s.core c).thread t).reg rs1)
    have none_own : (wokenEff s c t gap).k.shadowPend.any (fun w => w.thread = t) = false := by
      refine List.any_eq_false.2 fun w hw => ?_
      simpa using hclear w (List.mem_of_mem_filter hw)
    rw [launchTime, none_own] at launchEq
    refine threadWake_woken h gap (e := { wokenEff s c t gap with k := launched t rd (((s.core c).thread t).reg rs1) _ }) ?_ rfl rfl
    simp only [Eff.tallyOp, immAlu, loadShape, Eff.immOp, thread, launchEq]
    rfl

end Sys2Proof.Machine
end

section
/-! How host commands end (R413, R415, R416): what the end of a command leaves unchanged, where its completion goes, and the commands
that end by themselves. -/

namespace Sys2Proof.Machine

/-! ### What the end of a command changes -/

/-- Between `u` and `t` commands have ended: completions joined their rings, and nothing but the commands, the rings' completions and
the discarded ones' count has changed. -/
structure Closes (u t : State) : Prop where
  rest : t = { u with cmds := t.cmds, cqs := t.cqs, unitCounters := t.unitCounters }
  cfg (j : Nat) : (t.cq j).cfg = (u.cq j).cfg
  waits (j : Nat) {x : Completion} : x ∈ (u.cq j).waiting → x ∈ (t.cq j).waiting

theorem Closes.refl (u : State) : Closes u u := ⟨rfl, fun _ => rfl, fun _ _ h => h⟩

theorem Closes.trans {u v t : State} (h : Closes u v) (h' : Closes v t) : Closes u t := by
  refine ⟨?_, fun j => (h'.cfg j).trans (h.cfg j), fun j _ hx => h'.waits j (h.waits j hx)⟩
  have first := h.rest
  have second := h'.rest
  generalize v.cmds = a, v.cqs = b, v.unitCounters = d at first
  subst first
  exact second

theorem Closes.house {u t : State} (h : Closes u t) : t.house = u.house := (congrArg State.house h.rest).trans rfl
theorem Closes.sq {u t : State} (h : Closes u t) (j : Nat) : t.sq j = u.sq j := (congrArg (State.sq · j) h.rest).trans rfl
theorem Closes.txns {u t : State} (h : Closes u t) : t.txns = u.txns := (congrArg State.txns h.rest).trans rfl
theorem Closes.asks {u t : State} (h : Closes u t) : t.asks = u.asks := (congrArg State.asks h.rest).trans rfl
theorem Closes.guild {u t : State} (h : Closes u t) (g : Nat) : t.guild g = u.guild g := (congrArg (State.guild · g) h.rest).trans rfl
theorem Closes.walker {u t : State} (h : Closes u t) (i : Nat) : t.walker i = u.walker i := (congrArg (State.walker · i) h.rest).trans rfl
theorem Closes.tableEntry {u t : State} (h : Closes u t) (p : Nat) : t.tableEntry p = u.tableEntry p :=
  (congrArg (State.tableEntry · p) h.rest).trans rfl
theorem Closes.performedAll {u t : State} (h : Closes u t) (ids : List Nat) : t.performedAll ids = u.performedAll ids :=
  (congrArg (State.performedAll · ids) h.rest).trans rfl

theorem State.setCq_cq (s : State) (j i : Nat) (r : CompRing) : (s.setCq j r).cq i = if i = j then r else s.cq i := Tab.get_set _ _ _ _ _

/-- Counting discarded completions changes their count alone. -/
theorem State.countUnit_discarded (s : State) :
    s.countUnit hifUnit 4 1 = { s with unitCounters := s.unitCounters.set (1024 * hifUnit + 4) ((s.unitCounter hifUnit 4).add 1) } := rfl

/-- The completion a command's end adds to its ring. -/
def closing (c : Cmd) (status detail : Nat) : Completion :=
  { cmd := c.num, cid := if c.bad then 0 else c.cid, sq := c.sq, status := status, index := c.index, detail := detail }

theorem closing_of_not_bad {c : Cmd} (h : c.bad = false) (status detail : Nat) : closing c status detail = completion c status detail := by
  rw [closing, completion, h]
  rfl

/-- The commands after the end of number `n`: kept until the completion is observed. -/
def markEnded (n : Nat) (cs : List Cmd) : List Cmd := cs.map fun d => if d.num = n then { d with phase := .ended } else d

section
variable {u : State} {c : Cmd} (status detail : Nat)

theorem State.finishCmd_failed (h : 1 ∈ u.house.services) : u.finishCmd c status detail = u :=
  if_pos (List.contains_iff_mem.2 h)

theorem State.finishCmd_joins (h : 1 ∉ u.house.services) (hring : ringEnabled (u.cq (u.sq c.sq).cqOf).cfg = true) :
    u.finishCmd c status detail = { u with cmds := markEnded c.num u.cmds }.setCq (u.sq c.sq).cqOf
      { u.cq (u.sq c.sq).cqOf with waiting := (u.cq (u.sq c.sq).cqOf).waiting ++ [closing c status detail] } := by
  rw [State.finishCmd, if_neg (mt List.contains_iff_mem.1 h)]
  exact if_pos hring

theorem State.finishCmd_discards (h : 1 ∉ u.house.services) (hring : ¬ ringEnabled (u.cq (u.sq c.sq).cqOf).cfg = true) :
    u.finishCmd c status detail = (u.dropCmd c.num).countUnit hifUnit 4 1 := by
  rw [State.finishCmd, if_neg (mt List.contains_iff_mem.1 h)]
  exact if_neg hring

theorem State.finishCmd_closes (u : State) (c : Cmd) : Closes u (u.finishCmd c status detail) := by
  by_cases failed : 1 ∈ u.house.services
  · rw [State.finishCmd_failed _ _ failed]
    exact .refl u
  by_cases ring : ringEnabled (u.cq (u.sq c.sq).cqOf).cfg = true
  · rw [State.finishCmd_joins _ _ failed ring]
    refine ⟨rfl, fun j => ?_, fun j x hx => ?_⟩ <;> rw [State.setCq_cq] <;> split
    · next same => rw [same]
    · rfl
    · next same =>
      rw [same] at hx
      exact List.mem_append_left _ hx
    · exact hx
  · rw [State.finishCmd_discards _ _ failed ring, State.countUnit_discarded]
    exact ⟨rfl, fun _ => rfl, fun _ _ h => h⟩

end

/-- The phases in which a command ends by itself. -/
def State.settles (s : State) (c : Cmd) : Bool :=
  match c.phase with
  | .waitAccesses ids _ _ => s.performedAll ids
  | .fetched => s.mayStart c && (c.bad || !opcodeKnown c.opcode)
  | _ => false

/-- The status and detail with which it does. -/
def Cmd.settledWith (c : Cmd) : Nat × Nat :=
  match c.phase with
  | .waitAccesses _ status detail => (status, detail)
  | _ => (if c.bad then 7 else 2, 0)

theorem State.settleOne_none {s : State} (h : s.cmds.find? s.settles = none) : s.settleOne = s := by
  rw [State.settleOne]
  split
  · next c hc => exact absurd (h.symm.trans hc) (by simp)
  · rfl

theorem State.settleOne_some {s : State} {c : Cmd} (h : s.cmds.find? s.settles = some c) :
    s.settleOne = s.finishCmd c c.settledWith.1 c.settledWith.2 := by
  rw [State.settleOne]
  split
  · next d hd =>
    obtain rfl : c = d := Option.some.inj (h.symm.trans hd)
    unfold Cmd.settledWith
    cases c.phase <;> rfl
  · next hn => exact absurd (h.symm.trans hn) (by simp)

theorem State.settleOne_closes (s : State) : Closes s s.settleOne := by
  cases h : s.cmds.find? s.settles with
  | none => rw [State.settleOne_none h]; exact .refl s
  | some c => rw [State.settleOne_some h]; exact State.finishCmd_closes _ _ s c

theorem settleOnes_closes (l : List Nat) (s : State) : Closes s (l.foldl (fun s _ => s.settleOne) s) := by
  induction l generalizing s with
  | nil => exact .refl s
  | cons _ l ih => exact s.settleOne_closes.trans (ih _)

theorem State.settleCmds_closes (s : State) : Closes s s.settleCmds := settleOnes_closes _ s

theorem State.endCmd_closes (s : State) (c : Cmd) (status detail : Nat) : Closes s (s.endCmd c status detail) :=
  (s.settleCmds_closes.trans (State.finishCmd_closes status detail _ c)).trans (State.settleCmds_closes _)

/-- The completion of a command that has ended waits at its ring, when that is enabled. -/
theorem State.endCmd_waits {u : State} (c : Cmd) (status detail : Nat) (h : 1 ∉ u.house.services)
    (hring : ringEnabled (u.cq (u.sq c.sq).cqOf).cfg = true) :
    closing c status detail ∈ ((u.endCmd c status detail).cq (u.sq c.sq).cqOf).waiting := by
  refine (State.settleCmds_closes _).waits _ ?_
  have before := u.settleCmds_closes
  rw [State.finishCmd_joins _ _ (before.house ▸ h) (by rwa [before.sq, before.cfg]), before.sq, State.setCq_cq, if_pos rfl]
  exact List.mem_append_right _ (List.mem_singleton_self _)

theorem endCmd_ended {u : State} {c : Cmd} (status detail : Nat) (hbad : c.bad = false) (h : 1 ∉ u.house.services) :
    EndedCmd u (u.endCmd c status detail) c status detail :=
  ⟨(u.endCmd_closes c status detail).rest, fun ring => closing_of_not_bad hbad status detail ▸ u.endCmd_waits c status detail h ring⟩

/-- Whatever the command: of one found poisoned, which completes with cid 0 (Table 16.10), `EndedCmd` holds of the module without
the ring. -/
theorem endCmd_ended_of_any {u : State} (c : Cmd) (status detail : Nat) (h : 1 ∉ u.house.services) :
    ∃ q, EndedCmd { u with cqs := q } (u.endCmd c status detail) c status detail := by
  cases hbad : c.bad with
  | false => exact ⟨u.cqs, endCmd_ended status detail hbad h⟩
  | true =>
    refine ⟨[], (u.endCmd_closes c status detail).rest, fun ring => ?_⟩
    have off : ringEnabled (({} : CompRing).cfg) = false := by decide
    exact absurd (off.symm.trans ring) (by decide)

end Sys2Proof.Machine

namespace Sys2Proof

open Machine

/-! ### A command the service starts -/

theorem Settled.find {s : State} (h : Settled s) : s.cmds.find? s.settles = none := by
  refine List.find?_eq_none.2 fun c hc => ?_
  obtain ⟨waiting, fetched⟩ := h c hc
  unfold State.settles
  split
  · next hp => simp [waiting _ _ _ hp]
  · next hp =>
    cases start : s.mayStart c with
    | false => simp
    | true => simp [fetched hp start]
  · simp

theorem Settled.settleCmds {s : State} (h : Settled s) : s.settleCmds = s := by
  unfold State.settleCmds
  generalize List.range s.cmds.length = l
  induction l with
  | nil => rfl
  | cons _ l ih => rwa [List.foldl_cons, State.settleOne_none h.find]

/-- What the service's choice of a command says. -/
theorem commandFor_some {s : State} {o : Nat} {c : Cmd} (h : s.commandFor o = some c) :
    1 ∉ s.house.services ∧ c ∈ s.cmds ∧ s.mayStart c = true ∧ c.opcode = o := by
  unfold State.commandFor at h
  split at h
  · cases h
  · next runs =>
    rw [Option.filter_eq_some_iff] at h
    obtain ⟨found, code⟩ := h
    refine ⟨fun m => runs ?_, List.mem_of_find?_eq_some found, List.find?_some found, by simpa using code⟩
    simp [m]

theorem fetched_of_mayStart {s : State} {c : Cmd} (h : s.mayStart c = true) : c.phase = .fetched := by
  rw [State.mayStart, Bool.and_eq_true] at h
  exact of_decide_eq_true h.1

theorem Settled.not_bad {s : State} {c : Cmd} {o : Nat} (h : Settled s) (hc : s.commandFor o = some c) : c.bad = false :=
  have ⟨_, mem, start, _⟩ := commandFor_some hc
  ((h c mem).2 (fetched_of_mayStart start) start).1

section
variable {s : State} {o : Nat} {c : Cmd}

theorem Starts.not_failed (h : Starts s o c) : 1 ∉ s.house.services := (commandFor_some h.2.1).1
theorem Starts.opcode (h : Starts s o c) : c.opcode = o := (commandFor_some h.2.1).2.2.2
theorem Starts.not_bad (h : Starts s o c) : c.bad = false := h.1.not_bad h.2.1

theorem Starts.precheck (h : Starts s o c) : s.precheck c c.fieldsOk true = none := by
  obtain ⟨-, -, fields, priv, live⟩ := h
  have device : ¬ (deviceWide c.opcode && !(s.sq c.sq).priv) = true := fun both => by
    rw [Bool.and_eq_true] at both
    simp [priv both.1] at both
  have here : ¬ (c.coreCommand && s.fenced c.core) = true := fun both => by
    rw [Bool.and_eq_true] at both
    simp [live both.1] at both
  rw [State.precheck, if_neg (by simp [fields]), if_neg device, if_neg here, if_neg (by decide)]

/-- A command that starts in a device state that allows it is carried out. -/
theorem Starts.runCommand (h : Starts s o c) {state : State → Cmd → Bool} (hstate : state s c = true) (f : State → Cmd → State) :
    s.runCommand o state f = f s c := by
  unfold State.runCommand
  simp only [h.1.settleCmds, h.2.1, hstate, h.precheck]

theorem Starts.runService (h : Starts s o c) {state : State → Cmd → Bool} (hstate : state s c = true) (f : State → Cmd → State)
    (hcheck : s.allowed 45 (s.sq c.sq).cls c.master true = true) : s.runService o state f = f s c := by
  unfold State.runService
  rw [h.runCommand hstate, State.serviceCheck, if_pos hcheck]

end

end Sys2Proof
end

section
/-! What accesses leave alone: the Counting House, the commands, and the control and the state of every link port. -/

namespace Sys2Proof.Machine

/-- From `s` to `t` neither the Counting House, nor a command, nor the control or the state of a link port has changed. -/
structure Steady (s t : State) : Prop where
  house : t.house = s.house
  cmds : t.cmds = s.cmds
  port (l : Nat) : (t.link l).ctrl = (s.link l).ctrl ∧ (t.link l).state = (s.link l).state

namespace Steady

theorem of_links {s t : State} (house : t.house = s.house) (cmds : t.cmds = s.cmds) (links : t.links = s.links) : Steady s t :=
  ⟨house, cmds, fun l => by rw [State.link, State.link, links]; exact ⟨rfl, rfl⟩⟩

theorem refl (s : State) : Steady s s := of_links rfl rfl rfl

theorem trans {s t u : State} (h : Steady s t) (h' : Steady t u) : Steady s u :=
  ⟨h'.house.trans h.house, h'.cmds.trans h.cmds, fun l => ⟨(h'.port l).1.trans (h.port l).1, (h'.port l).2.trans (h.port l).2⟩⟩

theorem ite {s t u : State} {p : Prop} [Decidable p] (h : Steady s t) (h' : Steady s u) : Steady s (if p then t else u) := by
  split <;> assumption

theorem fold {α : Type} {f : State → α → State} (h : ∀ s a, Steady s (f s a)) (l : List α) (s : State) : Steady s (l.foldl f s) := by
  induction l generalizing s with
  | nil => exact refl s
  | cons a l ih => exact (h s a).trans (ih _)

end Steady

section
variable (s : State)

theorem State.countUnit_steady (u i n : Nat) : Steady s (s.countUnit u i n) := by
  unfold State.countUnit
  refine .ite (.refl s) ?_
  dsimp only
  exact .ite (.of_links rfl rfl rfl) (.of_links rfl rfl rfl)

theorem State.raise_steady (code : Nat) (ws : List Word) : Steady s (s.raise code ws) := .of_links rfl rfl rfl
theorem State.takeBlock_steady : Steady s s.takeBlock.2 := .of_links rfl rfl rfl
theorem State.useFree_steady : Steady s { s with free := s.free + 1 } := .of_links rfl rfl rfl
theorem State.putTxn_steady (t : Txn) : Steady s (s.putTxn t) := .of_links rfl rfl rfl
theorem State.useGuild_steady (g page : Nat) (e : Word) : Steady s (s.useGuild g page e) := .of_links rfl rfl rfl
theorem State.useWalker_steady (h page : Nat) (e : Word) : Steady s (s.useWalker h page e) := .of_links rfl rfl rfl
theorem State.refusedEvent_steady (master reason addr : Nat) : Steady s (s.refusedEvent master reason addr) := .of_links rfl rfl rfl
theorem State.needRange_steady (g master dva n : Nat) (write : Bool) : Steady s (s.needRange g master dva n write) :=
  .of_links rfl rfl rfl

theorem State.setLink_steady (l : Nat) (x : LinkSt) (hctrl : x.ctrl = (s.link l).ctrl) (hstate : x.state = (s.link l).state) :
    Steady s (s.setLink l x) := by
  refine ⟨rfl, rfl, fun j => ?_⟩
  have read : (s.setLink l x).link j = if j = l then x else s.link j := Tab.get_set _ _ _ _ _
  rw [read]
  split
  · subst j
    exact ⟨hctrl, hstate⟩
  · exact ⟨rfl, rfl⟩

/-! ### Reads -/

theorem State.shaleRead_steady (g a : Nat) : Steady s (s.shaleRead g a).2 := by
  have counted (t : Store) (n m : Nat) : Steady s (({ s with tiers := { s.tiers with shale := t } }.countUnit (shaleUnit g) 1 n).countUnit
      (shaleUnit g) m 64) :=
    ((Steady.of_links rfl rfl rfl : Steady s { s with tiers := { s.tiers with shale := t } }).trans (State.countUnit_steady _ _ _ _)).trans
      (State.countUnit_steady _ _ _ _)
  unfold State.shaleRead
  dsimp only
  exact .ite ((counted _ _ _).trans (State.raise_steady _ _ _)) (counted _ _ _)

theorem State.bedrockLook_steady (k a : Nat) : Steady s (s.bedrockLook k a).2 := by
  unfold State.bedrockLook
  dsimp only
  split
  · exact .of_links rfl rfl rfl
  · exact .refl s

theorem State.bedrockRead_steady (k a : Nat) : Steady s (s.bedrockRead k a).2 :=
  (s.bedrockLook_steady k a).trans (State.countUnit_steady _ _ _ _)

theorem State.readAt_steady (l : Loc) : Steady s (s.readAt l).2 := by
  cases l with
  | shale g a => exact s.shaleRead_steady g a
  | bedrock k a => exact s.bedrockRead_steady k a
  | host | ls | peer | landing | adder => exact .refl s

theorem State.linkEcc_steady (l : Loc) : Steady s (s.linkEcc l) := by
  cases l with
  | bedrock k a => exact s.useFree_steady.trans (State.countUnit_steady _ _ _ _)
  | shale | host | ls | peer | landing | adder => exact .refl s

theorem State.ferry_steady (hops : List Hop) (addr : Nat) : Steady s (s.ferry hops addr).2 := by
  unfold State.ferry
  split
  · dsimp only
    split
    · exact (s.useFree_steady.trans (State.countUnit_steady _ _ _ _)).trans (State.raise_steady _ _ _)
    · exact s.useFree_steady.trans (State.countUnit_steady _ _ _ _)
  · exact s.useFree_steady

theorem State.carried_steady (src : Src) (l : Loc) (dva : Nat) (write : Bool) : Steady s (s.carried src l dva write).2 :=
  (s.linkEcc_steady l).trans (State.ferry_steady _ _ _)

theorem State.tableBlock_steady (g page : Nat) : Steady s (s.tableBlock g page).2 :=
  ((s.bedrockLook_steady 0 (8 * page)).trans (State.linkEcc_steady _ _)).trans (State.ferry_steady _ _ _)

theorem State.walk_steady (g page : Nat) : Steady s (s.walk g page).2 := by
  have block := s.tableBlock_steady g page
  unfold State.walk
  dsimp only
  split
  · exact block
  · exact ((block.trans (.fold (fun t j => t.useWalker_steady _ _ _) _ _)).trans (State.useWalker_steady _ _ _ _)).trans
      (State.useGuild_steady _ _ _ _)

theorem State.cached_steady (g page : Nat) : Steady s (s.cached g page).2 := by
  unfold State.cached
  split
  · exact s.useGuild_steady _ _ _
  · split
    · exact (s.useWalker_steady _ _ _).trans (State.useGuild_steady _ _ _ _)
    · exact .refl s

theorem State.entryOf_steady (g page : Nat) : Steady s (s.entryOf g page).2 := by
  have found := s.cached_steady g page
  unfold State.entryOf
  split
  · next e t hit => rw [hit] at found; exact found
  · next t miss => rw [miss] at found; exact found.trans (t.walk_steady g page)

theorem State.readBlock_steady (src : Src) (master dva : Nat) (window : Bool) : Steady s (s.readBlock src master dva window).2 := by
  have entry := s.entryOf_steady src.guild (dva / 65536)
  unfold State.readBlock
  dsimp only
  split
  · exact s.refusedEvent_steady _ _ _
  · split
    · exact entry.trans (State.refusedEvent_steady _ _ _ _)
    · exact entry
    · exact entry
    · exact (entry.trans (State.readAt_steady _ _)).trans (State.carried_steady _ _ _ _ _)

theorem State.readPart_steady (src : Src) (master : Nat) (p : Nat × Nat × Nat × Nat) (answers : List PeerAnswer) :
    Steady s (s.readPart src master p answers).2.2 := by
  have block := s.readBlock_steady src master p.1 false
  unfold State.readPart
  dsimp only
  split
  · exact block
  · exact block.trans (State.takeBlock_steady _)
  · split
    · exact block
    · exact block.trans (.of_links rfl rfl rfl)

theorem State.readRange_steady (src : Src) (master dva n : Nat) (answers : List PeerAnswer) :
    Steady s (s.readRange src master dva n answers).2.2 := by
  unfold State.readRange
  generalize partsOf dva n = ps
  have go (acc : List (Byte × Bool) × List Nat × State) (h : Steady s acc.2.2) : Steady s (ps.foldl (fun acc p =>
      let (bs, r, st) := acc.2.2.readPart src master p answers
      (acc.1 ++ bs, acc.2.1 ++ r.toList, st)) acc).2.2 := by
    induction ps generalizing acc with
    | nil => exact h
    | cons p ps ih => exact ih _ (h.trans (State.readPart_steady _ _ _ _ _))
  exact go _ (.refl s)

/-! ### The loss of a link -/

theorem State.portBusy_steady (u i : Nat) : Steady s (s.portBusy u i) :=
  s.useFree_steady.trans (State.countUnit_steady _ _ _ _)

theorem State.countPath_steady (g pin h pout bytes : Nat) : Steady s (s.countPath g pin h pout bytes) := by
  have crossed : Steady s ((pathOf g pin h pout).foldl (fun (s : State) x =>
      (s.countUnit x.1 (0x301 + 2 * x.2.1) bytes).countUnit x.1 (0x300 + 2 * x.2.2) bytes) s) :=
    .fold (fun t x => (t.countUnit_steady _ _ _).trans (State.countUnit_steady _ _ _ _)) _ _
  have left := Steady.ite (p := pin < 53) crossed (crossed.trans (State.portBusy_steady _ g (0x101 + 2 * pin)))
  have came := Steady.ite (p := pout < 53) left (left.trans (State.portBusy_steady _ h (0x100 + 2 * pout)))
  exact .ite came (came.trans (State.countUnit_steady _ _ _ _))

theorem State.cameBack_steady (t : Txn) (l : Loc) (code : Nat) : Steady s (s.cameBack t l code) :=
  ((Steady.of_links rfl rfl rfl : Steady s { s with nextIssue := s.nextIssue + 1 }).trans (State.countPath_steady _ _ _ _ _ _)).trans
    (State.putTxn_steady _ _)

theorem State.fromPort_steady (t : Txn) (code : Nat) : Steady s (s.fromPort t code) := by
  unfold State.fromPort
  split
  · exact s.cameBack_steady _ _ _
  · exact s.putTxn_steady _

theorem State.lose_steady (t : Txn) : Steady s (s.lose t) := by
  unfold State.lose
  exact .ite (s.fromPort_steady _ _) (s.takeBlock_steady.trans (State.fromPort_steady _ _ _))

theorem State.respond_steady (peer : Nat) (h : SlotHeader) (data : BitVec 512) : Steady s (s.respond peer h data) := by
  unfold State.respond
  dsimp only
  split
  · split
    · exact s.setLink_steady _ _ rfl rfl
    · exact .refl s
  · exact .refl s

theorem State.answerSlot_steady (status : Nat) (q : Nat × LinkSlot) : Steady s (s.answerSlot status q) := by
  unfold State.answerSlot
  dsimp only
  split
  · exact s.takeBlock_steady.trans (State.respond_steady _ _ _ _)
  · exact s.respond_steady _ _ _
  · exact s.respond_steady _ _ _
  · exact s.respond_steady _ _ _
  · exact .refl s

/-- A port's receiver without what it held for port `l`, or was forwarding by it. -/
def LinkSt.without (l : Nat) (k : LinkSt) : LinkSt := { k.forget l with forwardOpen := (k.forget l).forwardOpen.filter fun o => o.2.1 ≠ l }

theorem LinkSt.without_port (l : Nat) (k : LinkSt) : (k.without l).ctrl = k.ctrl ∧ (k.without l).state = k.state := by
  have freed (fs : List HeldFlit) (y : LinkSt) : (fs.foldl (fun (y : LinkSt) f => if f.owed then y.free f.vc f.hop else y) y).ctrl = y.ctrl ∧
      (fs.foldl (fun (y : LinkSt) f => if f.owed then y.free f.vc f.hop else y) y).state = y.state := by
    induction fs generalizing y with
    | nil => exact ⟨rfl, rfl⟩
    | cons f fs ih =>
      rw [List.foldl_cons, (ih _).1, (ih _).2]
      split <;> exact ⟨rfl, rfl⟩
  exact freed _ _

/-- Every port's receiver gives up what it held for port `l`. -/
theorem State.forgetAll_steady (l : Nat) : Steady s { s with links := s.links.map fun x => (x.1, x.2.without l) } := by
  refine ⟨rfl, rfl, fun j => ?_⟩
  rw [State.link, Tab.get_map rfl s.links j]
  exact (s.link j).without_port l

theorem State.loseLink_steady (l : Nat) : Steady s (s.loseLink l) := by
  have lost : Steady s (s.lost ((s.link l).outstanding.flatMap (·.txns))) := .fold (fun t x => t.lose_steady x) _ _
  have emptied := lost.trans (State.setLink_steady _ l { s.link l with
    egress := [], retry := [], resend := none, resends := 0, outstanding := [], bursts := [], forwardOpen := [], nakDue := false,
    nakSent := false } (lost.port l).1.symm (lost.port l).2.symm)
  exact (emptied.trans (State.forgetAll_steady _ l)).trans (.fold (fun t q => t.answerSlot_steady _ q) _ _)

end

end Sys2Proof.Machine
end

section
/-! A placement change whose accesses are performed ends before anything else happens (R253): the commands that settle are finitely
many, each ends once, and none of them stands for another. -/

namespace Sys2Proof.Machine

/-- `c` is the one command of its number, and the accesses it waited for are performed. -/
structure Awaited (u : State) (c : Cmd) (status detail : Nat) : Prop where
  mem : c ∈ u.cmds
  unique : ∀ d ∈ u.cmds, d.num = c.num → d = c
  performed : ∃ ids, c.phase = .waitAccesses ids status detail ∧ u.performedAll ids = true
  working : 1 ∉ u.house.services
  ring : ringEnabled (u.cq (u.sq c.sq).cqOf).cfg = true

/-- The commands of the table that have not ended. -/
def unended (cs : List Cmd) : Nat := cs.countP fun c => c.phase ≠ .ended

theorem unended_cons (c : Cmd) (cs : List Cmd) : unended (c :: cs) = unended cs + if c.phase = .ended then 0 else 1 := by
  rw [unended, List.countP_cons, ← unended]
  simp

theorem unended_markEnded_cons (n : Nat) (d : Cmd) (cs : List Cmd) :
    unended (markEnded n (d :: cs)) = unended (markEnded n cs) + if d.num = n ∨ d.phase = .ended then 0 else 1 := by
  rw [markEnded, List.map_cons, unended_cons, ← markEnded]
  by_cases same : d.num = n <;> simp [same]

theorem unended_markEnded_le (n : Nat) (cs : List Cmd) : unended (markEnded n cs) ≤ unended cs := by
  induction cs with
  | nil => exact Nat.le_refl _
  | cons d cs ih =>
    rw [unended_markEnded_cons, unended_cons]
    by_cases same : d.num = n
    · simp only [same, true_or, if_true]
      omega
    · simpa [same] using ih

theorem unended_markEnded_lt {c : Cmd} (hc : c.phase ≠ .ended) {cs : List Cmd} (h : c ∈ cs) :
    unended (markEnded c.num cs) < unended cs := by
  induction cs with
  | nil => cases h
  | cons d cs ih =>
    have rest := unended_markEnded_le c.num cs
    rw [unended_markEnded_cons, unended_cons]
    rcases List.mem_cons.1 h with rfl | h
    · rw [if_pos (.inl rfl), if_neg hc]
      omega
    · have fewer := ih h
      by_cases same : d.num = c.num
      · simp only [same, true_or, if_true]
        omega
      · simpa [same] using fewer

theorem unended_drop_lt {c : Cmd} (hc : c.phase ≠ .ended) {cs : List Cmd} (h : c ∈ cs) :
    unended (cs.filter fun d => d.num ≠ c.num) < unended cs := by
  unfold unended
  rw [List.countP_filter]
  refine Nat.lt_of_le_of_lt ?_ (unended_markEnded_lt hc h)
  unfold unended markEnded
  rw [List.countP_map]
  refine List.countP_mono_left fun d _ hd => ?_
  obtain ⟨live, other⟩ := Bool.and_eq_true_iff.1 hd
  simpa [of_decide_eq_true other] using live

theorem phase_ne_ended_of_settles {s : State} {c : Cmd} (h : s.settles c = true) : c.phase ≠ .ended := by
  intro hp
  rw [State.settles, hp] at h
  cases h

section
variable {u : State} {c : Cmd} {status detail : Nat}

/-- The commands after one of another number has ended. -/
theorem finishCmd_cmds (h : 1 ∉ u.house.services) (d : Cmd) (st de : Nat) :
    (u.finishCmd d st de).cmds = markEnded d.num u.cmds ∨ (u.finishCmd d st de).cmds = u.cmds.filter fun x => x.num ≠ d.num := by
  by_cases ring : ringEnabled (u.cq (u.sq d.sq).cqOf).cfg = true
  · rw [State.finishCmd_joins _ _ h ring]
    exact .inl rfl
  · rw [State.finishCmd_discards _ _ h ring]
    exact .inr rfl

theorem Awaited.after (h : Awaited u c status detail) {d : Cmd} (hd : d.num ≠ c.num) (st de : Nat) :
    Awaited (u.finishCmd d st de) c status detail := by
  obtain ⟨ids, phase, performed⟩ := h.performed
  have closes := State.finishCmd_closes st de u d
  have cmds := finishCmd_cmds h.working d st de
  refine ⟨?_, fun x hx hnum => ?_, ⟨ids, phase, by rwa [closes.performedAll]⟩, closes.house ▸ h.working,
    by rw [closes.sq, closes.cfg]; exact h.ring⟩
  · rcases cmds with cmds | cmds <;> rw [cmds]
    · exact List.mem_map.2 ⟨c, h.mem, if_neg (Ne.symm hd)⟩
    · exact List.mem_filter.2 ⟨h.mem, by simpa using Ne.symm hd⟩
  · rcases cmds with cmds | cmds <;> rw [cmds] at hx
    · obtain ⟨y, hy, rfl⟩ := List.mem_map.1 hx
      by_cases ended : y.num = d.num
      · rw [if_pos ended] at hnum
        exact absurd (ended.symm.trans hnum) hd
      · rw [if_neg ended] at hnum ⊢
        exact h.unique y hy hnum
    · exact h.unique x (List.mem_filter.1 hx).1 hnum

theorem finishCmd_unended_lt {d : Cmd} (h : 1 ∉ u.house.services) (hd : d.phase ≠ .ended) (hm : d ∈ u.cmds) (st de : Nat) :
    unended (u.finishCmd d st de).cmds < unended u.cmds := by
  rcases finishCmd_cmds h d st de with cmds | cmds <;> rw [cmds]
  · exact unended_markEnded_lt hd hm
  · exact unended_drop_lt hd hm

theorem Awaited.settles (h : Awaited u c status detail) : u.settles c = true := by
  obtain ⟨ids, phase, performed⟩ := h.performed
  rw [State.settles, phase]
  exact performed

/-- Settling one command ends the awaited one, or leaves one fewer before it. -/
theorem Awaited.settleOne (h : Awaited u c status detail) :
    closing c status detail ∈ ((u.settleOne).cq (u.sq c.sq).cqOf).waiting ∨
      Awaited u.settleOne c status detail ∧ unended u.settleOne.cmds < unended u.cmds := by
  cases found : u.cmds.find? u.settles with
  | none => exact absurd h.settles (List.find?_eq_none.1 found c h.mem)
  | some d =>
    have mem := List.mem_of_find?_eq_some found
    rw [State.settleOne_some found]
    by_cases same : d.num = c.num
    · obtain rfl := h.unique d mem same
      obtain ⟨ids, phase, -⟩ := h.performed
      have outcome : d.settledWith = (status, detail) := by rw [Cmd.settledWith, phase]
      rw [outcome, State.finishCmd_joins _ _ h.working h.ring, State.setCq_cq, if_pos rfl]
      exact .inl (List.mem_append_right _ (List.mem_singleton_self _))
    · exact .inr ⟨h.after same _ _, finishCmd_unended_lt h.working (phase_ne_ended_of_settles (List.find?_some found)) mem _ _⟩

theorem Awaited.settleOnes (l : List Nat) : ∀ {u : State}, Awaited u c status detail → unended u.cmds ≤ l.length →
    closing c status detail ∈ ((l.foldl (fun s _ => s.settleOne) u).cq (u.sq c.sq).cqOf).waiting := by
  induction l with
  | nil =>
    intro u h none
    have here : 0 < unended u.cmds := List.countP_pos_iff.2 ⟨c, h.mem, by simpa using phase_ne_ended_of_settles h.settles⟩
    exact absurd (Nat.lt_of_lt_of_le here none) (Nat.lt_irrefl 0)
  | cons _ l ih =>
    intro u h few
    rw [List.foldl_cons]
    rcases h.settleOne with ended | ⟨awaits, fewer⟩
    · exact (settleOnes_closes l _).waits _ ended
    · have later := ih awaits (by rw [List.length_cons] at few; omega)
      rwa [u.settleOne_closes.sq] at later

theorem Awaited.settleCmds (h : Awaited u c status detail) :
    closing c status detail ∈ (u.settleCmds.cq (u.sq c.sq).cqOf).waiting :=
  Awaited.settleOnes _ h (by rw [List.length_range]; exact List.countP_le_length)

end

end Sys2Proof.Machine
end

section
/-! Bytes written block by block: what a range's parts (R247) leave in host memory (R409) and in the placement table, whose data
blocks lie below their stored checks (R265, R266). -/

namespace Sys2Proof.Machine

/-! ### A range of bytes written -/

/-- Below `lim`, `m'` is `m` with `bs` written at `a`. -/
def Wrote (lim : Nat) (m m' : Mem) (a : Nat) (bs : List Byte) : Prop :=
  ∀ x, x < lim → m'.rd x = if a ≤ x ∧ x < a + bs.length then bs.getD (x - a) 0 else m.rd x

theorem wrote_nil (lim : Nat) (m : Mem) (a : Nat) : Wrote lim m m a [] := by
  intro x _
  rw [if_neg (by simp only [List.length_nil]; omega)]

theorem wrote_wrBytes {m : Mem} (h : Mem.wf m = true) (lim a : Nat) (bs : List Byte) : Wrote lim m (m.wrBytes a bs) a bs := by
  intro x _
  split_ifs with inside
  · obtain ⟨i, rfl⟩ := Nat.exists_eq_add_of_le inside.1
    have hi : i < bs.length := by omega
    rw [Mem.rd_wrBytes_at bs a i h hi, Nat.add_sub_cancel_left, List.getD_eq_getElem _ _ hi]
  · exact Mem.rd_wrBytes_ne bs a x h (by omega)

theorem Wrote.append {lim : Nat} {m m' m'' : Mem} {a : Nat} {bs bs' : List Byte} (h : Wrote lim m m' a bs)
    (h' : Wrote lim m' m'' (a + bs.length) bs') : Wrote lim m m'' a (bs ++ bs') := by
  intro x hx
  rw [h' x hx, h x hx, List.length_append]
  by_cases first : x < a + bs.length
  · rw [if_neg (by omega)]
    by_cases low : a ≤ x
    · rw [if_pos ⟨low, first⟩, if_pos (by omega), List.getD_append _ _ _ _ (by omega)]
    · rw [if_neg (by omega), if_neg (by omega)]
  · by_cases second : x < a + bs.length + bs'.length
    · rw [if_pos (by omega), if_pos (by omega), List.getD_append_right _ _ _ _ (by omega), Nat.sub_sub]
    · rw [if_neg (by omega), if_neg (by omega), if_neg (by omega)]

/-- The bytes written read back. -/
theorem Wrote.bytes {lim : Nat} {m m' : Mem} {a : Nat} {bs : List Byte} (h : Wrote lim m m' a bs) (hlim : a + bs.length ≤ lim) {i n : Nat}
    (hin : i + n ≤ bs.length) : m'.bytes (a + i) n = (bs.drop i).take n := by
  refine List.ext_getElem (by simp [Mem.bytes]; omega) fun j hj _ => ?_
  rw [Mem.bytes_length] at hj
  simp only [Mem.bytes, List.getElem_map, List.getElem_range, List.getElem_take, List.getElem_drop]
  rw [h _ (by omega), if_pos (by omega), ← List.getD_eq_getElem _ 0]
  congr 1
  omega

/-- The bytes outside read as before. -/
theorem Wrote.bytes_apart {lim : Nat} {m m' : Mem} {a : Nat} {bs : List Byte} (h : Wrote lim m m' a bs) {x n : Nat} (hlim : x + n ≤ lim)
    (hout : x + n ≤ a ∨ a + bs.length ≤ x) : m'.bytes x n = m.bytes x n :=
  Mem.bytes_congr fun i hi => by rw [h _ (by omega), if_neg (by omega)]

/-- A range written part by part, each part as its write leaves the memory `g` of the state. -/
theorem wrote_parts {σ : Type} {g : σ → Mem} {P : σ → Prop} {f : σ → Nat × Nat × Nat × Nat → σ} {lim : Nat} (bs : List Byte)
    (step : ∀ t p, P t → p.1 % 64 = 0 → p.2.1 + p.2.2.1 ≤ 64 →
      P (f t p) ∧ Wrote lim (g t) (g (f t p)) (p.1 + p.2.1) ((bs.drop p.2.2.2).take p.2.2.1)) (a : Nat) {s : σ} (hs : P s) :
    P ((partsOf a bs.length).foldl f s) ∧ Wrote lim (g s) (g ((partsOf a bs.length).foldl f s)) a bs := by
  have parts (fuel : Nat) : ∀ {a n pos : Nat} {t : σ}, P t → (n = 0 ∨ a % 64 + n ≤ 64 * fuel) → pos + n = bs.length →
      P ((blockParts fuel a n pos).foldl f t) ∧ Wrote lim (g t) (g ((blockParts fuel a n pos).foldl f t)) a (bs.drop pos) := by
    induction fuel with
    | zero =>
      intro a n pos t ht few total
      rw [List.drop_eq_nil_of_le (by omega)]
      exact ⟨ht, wrote_nil lim _ a⟩
    | succ fuel ih =>
      intro a n pos t ht few total
      rw [blockParts]
      split
      · rw [List.drop_eq_nil_of_le (by omega)]
        exact ⟨ht, wrote_nil lim _ a⟩
      · dsimp only
        obtain ⟨k, hk⟩ : ∃ k, k = min n (64 - a % 64) := ⟨_, rfl⟩
        rw [← hk, List.foldl_cons]
        obtain ⟨now, part⟩ := step t (a / 64 * 64, a % 64, k, pos) ht (Nat.mul_mod_left _ _) (by dsimp only; omega)
        obtain ⟨done, rest⟩ := ih (a := a + k) (n := n - k) (pos := pos + k) now (by omega) (by omega)
        have len : ((bs.drop pos).take k).length = k := by rw [List.length_take, List.length_drop]; omega
        rw [Nat.div_add_mod' a 64] at part
        have both := part.append (by rw [len]; exact rest)
        rw [← List.drop_drop, List.take_append_drop] at both
        exact ⟨done, both⟩
  exact parts _ hs (by omega) (Nat.zero_add _)

/-! ### Host memory -/

/-- Only host memory and its poison differ. -/
def OnHost (s t : State) : Prop := t = { s with hostMem := t.hostMem, hostPoison := t.hostPoison }

theorem OnHost.trans {s t u : State} (h : OnHost s t) (h' : OnHost t u) : OnHost s u := by
  unfold OnHost at h h'
  generalize t.hostMem = m, t.hostPoison = p at h
  subst h
  exact h'

theorem hostWrites_onHost {α : Type} (l : List α) (a : α → Nat) (r : α → Runs) (s : State) :
    OnHost s (l.foldl (fun s x => s.hostWrite (a x) (r x)) s) := by
  induction l generalizing s with
  | nil => exact rfl
  | cons x l ih => exact OnHost.trans (t := s.hostWrite (a x) (r x)) rfl (ih _)

theorem deviceWrite_wrote {s : State} (hup : s.port.linkUp = true) (hwf : Mem.wf s.hostMem = true) (lim a : Nat) (bs : List Byte) :
    OnHost s (s.deviceWrite a bs) ∧ Wrote lim s.hostMem (s.deviceWrite a bs).hostMem a bs := by
  rw [State.deviceWrite, if_pos hup]
  refine ⟨hostWrites_onHost _ _ _ s, (wrote_parts (P := fun t => Mem.wf t.hostMem = true) (g := State.hostMem) bs ?_ a hwf).2⟩
  intro t p ht aligned _
  have same : p.1 / 64 * 64 = p.1 := by omega
  simp only [State.hostWrite, List.foldl_cons, List.foldl_nil, markAll_bytes, same]
  exact ⟨Mem.wf_wrBytes _ _ ht, wrote_wrBytes ht lim _ _⟩

/-! ### The placement table -/

/-- Where controller 0's stored checks begin (R265). -/
def checksAt : Nat := 0x1F00000000

theorem withCheck_wrote {m : Mem} (h : Mem.wf m = true) (a : Nat) (mark : Bool) : ∀ x, x < checksAt → (withCheck m 0 a mark).rd x = m.rd x := by
  intro x hx
  refine Mem.rd_wrBytes_ne _ _ x h (.inl (Nat.lt_of_lt_of_le hx ?_))
  unfold checksAt checkIdx bedIdx
  omega

/-- Only the tiers, the events and the unit counters differ. -/
def OnTiers (s t : State) : Prop :=
  t = { s with tiers := t.tiers, occurrences := t.occurrences, unitCounters := t.unitCounters, bwNow := t.bwNow }

theorem OnTiers.trans {s t u : State} (h : OnTiers s t) (h' : OnTiers t u) : OnTiers s u := by
  unfold OnTiers at h h'
  generalize t.tiers = x, t.occurrences = o, t.unitCounters = c, t.bwNow = b at h
  subst h
  exact h'

theorem tiers_onTiers (s : State) (x : Tiers) : OnTiers s { s with tiers := x } := rfl

theorem countUnit_onTiers (s : State) (u i n : Nat) : OnTiers s (s.countUnit u i n) ∧ (s.countUnit u i n).tiers = s.tiers := by
  unfold State.countUnit
  split
  · exact ⟨rfl, rfl⟩
  · dsimp only
    split <;> exact ⟨rfl, rfl⟩

theorem bedrockLook_onTiers (s : State) (k a : Nat) : OnTiers s (s.bedrockLook k a).2 := by
  unfold State.bedrockLook
  dsimp only
  split <;> exact rfl

theorem bedrockLook_data {s : State} (h : Mem.wf s.tiers.bedrock = true) (a : Nat) :
    Mem.wf (s.bedrockLook 0 a).2.tiers.bedrock = true ∧
      ∀ x, x < checksAt → (s.bedrockLook 0 a).2.tiers.bedrock.rd x = s.tiers.bedrock.rd x := by
  unfold State.bedrockLook
  dsimp only
  split
  · exact ⟨withCheck_wf h _ _ _, withCheck_wrote h a true⟩
  · exact ⟨h, fun _ _ => rfl⟩

/-- A block write to controller 0 below its checks. -/
theorem bedrockWrite_wrote {s : State} (h : Mem.wf s.tiers.bedrock = true) {a : Nat} (ha : a % 64 = 0) (o : Nat) (bs : List Byte) :
    OnTiers s (s.bedrockWrite 0 a [(o, markAll false bs)]) ∧
      Mem.wf (s.bedrockWrite 0 a [(o, markAll false bs)]).tiers.bedrock = true ∧
      Wrote checksAt s.tiers.bedrock (s.bedrockWrite 0 a [(o, markAll false bs)]).tiers.bedrock (a + o) bs := by
  have looked : OnTiers s (if runsLen [(o, markAll false bs)] = 64 then (((0, false), s) : Delivered × State) else s.bedrockLook 0 a).2 ∧
      Mem.wf (if runsLen [(o, markAll false bs)] = 64 then (((0, false), s) : Delivered × State) else s.bedrockLook 0 a).2.tiers.bedrock
        = true ∧ ∀ x, x < checksAt → (if runsLen [(o, markAll false bs)] = 64 then (((0, false), s) : Delivered × State)
          else s.bedrockLook 0 a).2.tiers.bedrock.rd x = s.tiers.bedrock.rd x := by
    split
    · exact ⟨rfl, h, fun _ _ => rfl⟩
    · exact ⟨bedrockLook_onTiers s 0 a, bedrockLook_data h a⟩
  unfold State.bedrockWrite
  dsimp only
  generalize (if runsLen [(o, markAll false bs)] = 64 then (((0, false), s) : Delivered × State) else s.bedrockLook 0 a) = y at looked ⊢
  obtain ⟨onTiers, wf, before⟩ := looked
  have place : bedIdx 0 (a / 64 * 64) + o = a + o := by
    unfold bedIdx
    omega
  simp only [List.foldl_cons, List.foldl_nil, markAll_bytes, place, (countUnit_onTiers _ _ _ _).2]
  have wf' : Mem.wf (y.2.tiers.bedrock.wrBytes (a + o) bs) = true := Mem.wf_wrBytes _ _ wf
  refine ⟨(onTiers.trans (tiers_onTiers _ _)).trans (countUnit_onTiers _ _ _ _).1, withCheck_wf wf' _ _ _, fun x hx => ?_⟩
  rw [withCheck_wrote wf' a _ x hx, wrote_wrBytes wf checksAt (a + o) bs x hx, before x hx]

theorem writeEntries_wrote {s : State} (h : Mem.wf s.tiers.bedrock = true) (first : Nat) (es : List Word) :
    OnTiers s (s.writeEntries first es) ∧
      Wrote checksAt s.tiers.bedrock (s.writeEntries first es).tiers.bedrock (8 * first) (es.flatMap fun e => natLe 8 e.toNat) := by
  have all := wrote_parts (lim := checksAt) (P := fun t => OnTiers s t ∧ Mem.wf t.tiers.bedrock = true) (g := fun t : State => t.tiers.bedrock)
    (f := fun t p => t.bedrockWrite 0 p.1 [(p.2.1, markAll false (((es.flatMap fun e => natLe 8 e.toNat).drop p.2.2.2).take p.2.2.1))])
    (es.flatMap fun e => natLe 8 e.toNat) (fun t p ht aligned _ => ?_) (8 * first) (s := s) ⟨rfl, h⟩
  · exact ⟨all.1.1, all.2⟩
  · obtain ⟨onTiers, wf, wrote⟩ := bedrockWrite_wrote ht.2 aligned p.2.1
      (((es.flatMap fun e => natLe 8 e.toNat).drop p.2.2.2).take p.2.2.1)
    exact ⟨⟨ht.1.trans onTiers, wf⟩, wrote⟩

/-! ### Words and their bytes -/

theorem flatMap_natLe_length (es : List Word) : (es.flatMap fun e => natLe 8 e.toNat).length = 8 * es.length := by
  induction es with
  | nil => rfl
  | cons e es ih =>
    rw [List.flatMap_cons, List.length_append, ih, natLe_length, List.length_cons]
    omega

theorem flatMap_natLe_word (es : List Word) : ∀ {i : Nat} (hi : i < es.length),
    ((es.flatMap fun e => natLe 8 e.toNat).drop (8 * i)).take 8 = natLe 8 es[i].toNat := by
  induction es with
  | nil => intro i hi; exact absurd hi (Nat.not_lt_zero _)
  | cons e es ih =>
    intro i hi
    rw [List.flatMap_cons]
    cases i with
    | zero => exact List.take_left' (natLe_length 8 _)
    | succ i =>
      rw [List.drop_append, natLe_length, List.drop_eq_nil_of_le (by rw [natLe_length]; omega), List.nil_append,
        show 8 * (i + 1) - 8 = 8 * i by omega]
      exact ih (by simpa using hi)

theorem ofNat_leNat_natLe (e : Word) : BitVec.ofNat 64 (leNat (natLe 8 e.toNat)) = e := by
  rw [leNat_natLe, Nat.mod_eq_of_lt e.isLt, BitVec.ofNat_toNat, BitVec.setWidth_eq]

theorem Mem.bytes_drop_take (m : Mem) (a : Nat) {n i k : Nat} (h : i + k ≤ n) : ((m.bytes a n).drop i).take k = m.bytes (a + i) k := by
  refine List.ext_getElem (by simp [Mem.bytes]; omega) fun j _ _ => ?_
  simp only [Mem.bytes, List.getElem_take, List.getElem_drop, List.getElem_map, List.getElem_range, Nat.add_assoc]

/-- The table holds the entries written, and the others as before. -/
theorem tableEntry_writeEntries {s : State} (h : Mem.wf s.tiers.bedrock = true) {first : Nat} {es : List Word}
    (hfit : first + es.length ≤ 2 ^ 25) :
    (∀ i (hi : i < es.length), (s.writeEntries first es).tableEntry (first + i) = es[i]) ∧
      ∀ p, p < 2 ^ 25 → p < first ∨ first + es.length ≤ p → (s.writeEntries first es).tableEntry p = s.tableEntry p := by
  obtain ⟨-, wrote⟩ := writeEntries_wrote h first es
  have len := flatMap_natLe_length es
  have top : 8 * 2 ^ 25 ≤ checksAt := by decide
  refine ⟨fun i hi => ?_, fun p hp hout => ?_⟩
  · have back := wrote.bytes (by omega) (i := 8 * i) (n := 8) (by omega)
    rw [flatMap_natLe_word es hi, ← Nat.mul_add] at back
    rw [State.tableEntry, Mem.le, back, ofNat_leNat_natLe]
  · rw [State.tableEntry, State.tableEntry, Mem.le, Mem.le, wrote.bytes_apart (by omega) (by omega)]

end Sys2Proof.Machine
end

section
/-! The commands of Table 16.11 that act on one core or on none (R129, R157, R417, R437, R479). -/

namespace Sys2Proof.Machine

section
variable {s : State} {c : Cmd}

/-! ### NOP -/

theorem nop_ends (h : Starts s 0x00 c) : ∃ t, exec .nop s = .next t ∧ EndedCmd s t c 0 0 := by
  refine ⟨s.endCmd c 0 0, ?_, endCmd_ended 0 0 h.not_bad h.not_failed⟩
  show execNop s = _
  have fields : c.fieldsOk = true := h.2.2.1
  have allowed := h.precheck
  rw [fields] at allowed
  simp only [execNop, h.1.settleCmds, h.2.1, fields, allowed]

theorem nop_rejected (h : Settled s) (hc : s.commandFor 0x00 = some c) (hfields : c.fieldsOk = false) :
    ∃ t, exec .nop s = .next t ∧ EndedCmd s t c 3 0 := by
  refine ⟨s.endCmd c 3 0, ?_, endCmd_ended 3 0 (h.not_bad hc) (commandFor_some hc).1⟩
  show execNop s = _
  simp [execNop, h.settleCmds, hc, hfields, State.precheck, State.rejectCmd]

/-! ### Commands to one core -/

/-- A core changed without an event: `CoreAt` of the change. -/
theorem atCore_coreAt (s : State) (n : Nat) (f : Eff → Eff) (hocc : (f (s.coreEff n)).occ = []) :
    CoreAt s (s.atCore n f) n (f (s.coreEff n)).k :=
  landCore_coreAt_of_no_events s n (Aside.refl _) hocc

theorem coreAt_house {s u : State} {n : Nat} {k : CoreSt} (h : CoreAt s u n k) : u.house = s.house := by
  obtain ⟨_, -, rest⟩ := h
  rw [rest]

theorem endedCmd_withTxns {u t : State} {st d : Nat} (h : EndedCmd u t c st d) (txns : List Txn) :
    EndedCmd { u with txns := txns } { t with txns := txns } c st d :=
  ⟨congrArg (fun x : State => { x with txns := txns }) h.1, h.2⟩

/-- An operation whose answers have all come takes place, and uses them up (R345). -/
theorem withAnswers_given {mine : Src → Bool} {cls : Nat} {f : List PeerAnswer → State → State} {t : State}
    (h : f (s.peerAnswers mine) s = t) (hasks : t.asks = []) :
    s.withAnswers mine cls f = { t with txns := t.txns.filter fun x => !x.asked mine } := by
  subst h
  exact if_pos hasks

/-- The bytes of a TALLY_LOAD join the core's data memory or instruction memory. -/
def Cmd.load (c : Cmd) (bs : List (Byte × Bool)) (e : Eff) : Eff :=
  if c.q 2 16 16 = 1 then { e with k := { e.k with dmem := e.k.dmem.write (c.q 2 15 0) bs } }
  else { e with k := { e.k with imem := e.k.imem.writeImem (c.q 2 15 0) (bs.map (·.1)) } }

theorem load_coreAt (c : Cmd) (w : State) (bs : List (Byte × Bool)) : CoreAt w (w.atCore c.core (c.load bs)) c.core
    (if c.q 2 16 16 = 1 then { w.core c.core with dmem := (w.core c.core).dmem.write (c.q 2 15 0) bs }
      else { w.core c.core with imem := (w.core c.core).imem.writeImem (c.q 2 15 0) (bs.map (·.1)) }) := by
  have quiet : (c.load bs (w.coreEff c.core)).occ = [] := by
    unfold Cmd.load
    split <;> rfl
  have landed := atCore_coreAt w c.core (c.load bs) quiet
  unfold Cmd.load at landed ⊢
  split at landed <;> simp only [*, if_true, if_false] <;> exact landed

/-- TALLY_LOAD with its source read whole: the bytes join the core's memory, and the answers are used up. -/
theorem tallyLoad_ends {w : State} {answers : List PeerAnswer} {bs : List (Byte × Bool)} {k : CoreSt} (h : Starts s 0x01 c)
    (hdev : s.readyOrSend = true) (halted : (s.core c.core).allHalted = true) (hfrozen : (s.core c.core).frozen = false)
    (hanswers : answers = s.peerAnswers (· = .house))
    (hread : (s.needRange 11 c.master (c.q 1 40 0) (c.q 2 48 32) false).readRange .house c.master (c.q 1 40 0) (c.q 2 48 32) answers =
      (bs, [], w)) (hasks : w.asks = []) (hclean : ∀ b ∈ bs, b.2 = false) (hk : k = w.core c.core)
    (hcheck : w.allowed 45 (w.sq c.sq).cls c.master true = true) :
    ∃ t u, exec .tallyLoad s = .next t ∧ EndedCmd { u with txns := w.txns.filter (fun x => !x.asked (· = .house)) } t c 0 0 ∧
      CoreAt w u c.core (if c.q 2 16 16 = 1 then { k with dmem := k.dmem.write (c.q 2 15 0) bs }
        else { k with imem := k.imem.writeImem (c.q 2 15 0) (bs.map (·.1)) }) := by
  subst hanswers hk
  have steady : Steady s w := by
    have read := State.readRange_steady (s.needRange 11 c.master (c.q 1 40 0) (c.q 2 48 32) false) .house c.master (c.q 1 40 0)
      (c.q 2 48 32) (s.peerAnswers (· = .house))
    rw [hread] at read
    exact (s.needRange_steady _ _ _ _ _).trans read
  have loaded := load_coreAt c w bs
  have working : 1 ∉ (w.atCore c.core (c.load bs)).house.services := by
    rw [coreAt_house loaded, steady.house]
    exact h.not_failed
  have closes := (w.atCore c.core (c.load bs)).endCmd_closes c 0 0
  have asks : ((w.atCore c.core (c.load bs)).endCmd c 0 0).asks = [] := by
    obtain ⟨_, -, rest⟩ := loaded
    rw [closes.asks, rest]
    exact hasks
  have txns : ((w.atCore c.core (c.load bs)).endCmd c 0 0).txns = w.txns := by
    obtain ⟨_, -, rest⟩ := loaded
    rw [closes.txns, rest]
  refine ⟨{ (w.atCore c.core (c.load bs)).endCmd c 0 0 with
    txns := ((w.atCore c.core (c.load bs)).endCmd c 0 0).txns.filter fun x => !x.asked (· = .house) },
    w.atCore c.core (c.load bs), ?_, ?_, loaded⟩
  · show execTallyLoad s = _
    refine congrArg Host.Outcome.next (withAnswers_given ?_ asks)
    rw [h.runCommand (by simp [hdev, halted, hfrozen])]
    have clean : bs.any (·.2) = false := by simpa using hclean
    simp only [hread, clean, State.serviceCheck, if_pos hcheck]
    rfl
  · rw [txns]
    exact endedCmd_withTxns (endCmd_ended 0 0 h.not_bad working) _

/-- THREAD_START makes the halted thread ready at the address given. -/
theorem threadStart_ends {k : CoreSt} {n : Nat} (h : Starts s 0x02 c) (hdev : s.readyOrSend = true) (hk : k = s.core c.core)
    (hn : n = c.q 1 17 16) (halted : (k.thread n).state = .halted) (hfrozen : k.frozen = false) :
    ∃ t u, exec .threadStart s = .next t ∧ EndedCmd u t c 0 0 ∧ CoreAt s u c.core (k.setThread n
      { k.thread n with pc := BitVec.ofNat 64 (c.q 1 15 0), state := .ready, handler := false }) := by
  subst hk hn
  have started := atCore_coreAt s c.core (fun e => e.onThread (c.q 1 17 16) (fun x =>
    { x with pc := wd (c.q 1 15 0), state := .ready, handler := false })) rfl
  refine ⟨_, _, ?_, endCmd_ended 0 0 h.not_bad ?_, started⟩
  · show execThreadStart s = _
    rw [execThreadStart, h.runCommand (by simp [hdev, halted, hfrozen])]
  · rw [coreAt_house started]
    exact h.not_failed

/-! ### MAILBOX_WRITE -/

/-- A core after the write of its mailbox (Table 5.8). -/
def CoreSt.mailed (k : CoreSt) (v : Word) : CoreSt := { k with mailbox := v, evPending := k.evPending ||| 0x10 }

theorem atCore_core_ne (s : State) {n m : Nat} (h : m ≠ n) (f : Eff → Eff) : (s.atCore n f).core m = s.core m :=
  Tab.get_set_ne _ _ _ h

theorem mail_lands (s : State) (n : Nat) (v : Word) : s.atCore n (·.mail v) = { s with cores := (s.atCore n (·.mail v)).cores } ∧
    ∀ m, Aside (if m = n then (s.core m).mailed v else s.core m) ((s.atCore n (·.mail v)).core m) := by
  have lands := atCore_lands s n (·.mail v)
  refine ⟨lands.quiet rfl, fun m => ?_⟩
  split
  · next same =>
    subst same
    have written : Aside ((s.core m).mailed v) ((s.coreEff m).mail v).k := rfl
    exact written.trans lands.core
  · next other =>
    rw [atCore_core_ne s other]
    exact .refl _

/-- The mailbox written in every core of a list. -/
theorem mails_land (v : Word) {l : List Nat} (hl : l.Nodup) : ∀ s : State,
    l.foldl (fun s n => s.atCore n (·.mail v)) s = { s with cores := (l.foldl (fun s n => s.atCore n (·.mail v)) s).cores } ∧
      ∀ m, Aside (if m ∈ l then (s.core m).mailed v else s.core m) ((l.foldl (fun s n => s.atCore n (·.mail v)) s).core m) := by
  induction l with
  | nil => exact fun s => ⟨rfl, fun m => .refl _⟩
  | cons n l ih =>
    intro s
    obtain ⟨first, cores⟩ := mail_lands s n v
    obtain ⟨rest, cores'⟩ := ih (List.nodup_cons.1 hl).2 (s.atCore n (·.mail v))
    rw [List.foldl_cons]
    refine ⟨?_, fun m => ?_⟩
    · generalize (s.atCore n (·.mail v)).cores = x at first
      rw [first] at rest ⊢
      exact rest
    · have once := cores m
      have later := cores' m
      by_cases same : m = n
      · subst same
        rw [if_neg (List.nodup_cons.1 hl).1] at later
        rw [if_pos rfl] at once
        rw [if_pos (List.mem_cons_self ..)]
        exact once.trans later
      · rw [if_neg same] at once
        by_cases mem : m ∈ l
        · rw [if_pos mem] at later
          rw [if_pos (List.mem_cons_of_mem _ mem)]
          exact (once.map fun k => k.mailed v).trans later
        · rw [if_neg mem] at later
          rw [if_neg (by simp [same, mem])]
          exact once.trans later

theorem mem_liveCores {n : Nat} (h : n < 1024) : n ∈ s.liveCores ↔ s.fenced n = false := by
  simp [State.liveCores, h]

/-- The cores a MAILBOX_WRITE names. -/
def State.mailCores (s : State) (c : Cmd) : List Nat := if c.core = 0xFFFF then s.liveCores else [c.core]

theorem nodup_mailCores (s : State) (c : Cmd) : (s.mailCores c).Nodup := by
  unfold State.mailCores
  split
  · exact List.nodup_range.filter _
  · exact List.nodup_singleton _

theorem mailboxWrite_ends {v : Word} (h : Starts s 0x03 c) (hdev : s.readyOrSend = true) (hv : v = BitVec.ofNat 64 (c.q 1 63 0))
    (hcheck : s.allowed 45 (s.sq c.sq).cls c.master true = true) :
    ∃ t u, exec .mailboxWrite s = .next t ∧ EndedCmd u t c 0 0 ∧ u = { s with cores := u.cores } ∧
      ∀ n, n < 1024 → Aside (if (if c.core = 0xFFFF then s.fenced n = false else n = c.core)
        then { s.core n with mailbox := v, evPending := (s.core n).evPending ||| 0x10 } else s.core n) (u.core n) := by
  subst hv
  obtain ⟨rest, cores⟩ := mails_land (BitVec.ofNat 64 (c.q 1 63 0)) (nodup_mailCores s c) s
  refine ⟨_, _, ?_, endCmd_ended 0 0 h.not_bad ?_, rest, fun n hn => ?_⟩
  · show execMailboxWrite s = _
    rw [execMailboxWrite, h.runService (by exact hdev) _ hcheck]
    rfl
  · rw [congrArg State.house rest]
    exact h.not_failed
  · have named : n ∈ s.mailCores c ↔ if c.core = 0xFFFF then s.fenced n = false else n = c.core := by
      unfold State.mailCores
      split
      · exact mem_liveCores hn
      · exact List.mem_singleton
    have here := cores n
    rwa [if_congr named rfl rfl] at here

/-! ### CORE_RECOVER -/

/-- A thread's wait for a notch, the queue or a table given up. -/
def CoreSt.haltWait (k : CoreSt) (t : Nat) : CoreSt :=
  match (k.thread t).state with
  | .waitNotch | .waitLaunch | .waitTable => k.setThread t { k.thread t with state := .halted, wait := none, met := false }
  | _ => k

/-- The core with its waits given up, its queues empty, and the invocations `ended` about to end. -/
def Eff.emptied (e : Eff) (ended : List Flight) : Eff :=
  { e with k := (List.range 4).foldl CoreSt.haltWait { e.k with
    queues := [], running := [], invQueue := [], splitting := none, scoreboard := [], windows := [], flights := ended, frozen := false,
    splitTiles := e.k.tiles, met := [], calm := 0, pipe := { e.k.pipe with plan := [] } } }

theorem haltWait_threads (k : CoreSt) (t : Nat) : ∃ th, k.haltWait t = { k with threads := th } := by
  unfold CoreSt.haltWait
  split
  · exact ⟨_, rfl⟩
  · exact ⟨_, rfl⟩
  · exact ⟨_, rfl⟩
  · exact ⟨_, rfl⟩

/-- Giving up waits changes threads alone. -/
theorem emptied_threads (e : Eff) (ended : List Flight) : ∃ th, e.emptied ended = { e with k := { e.k with
    queues := [], running := [], invQueue := [], splitting := none, scoreboard := [], windows := [], flights := ended, frozen := false,
    splitTiles := e.k.tiles, met := [], calm := 0, pipe := { e.k.pipe with plan := [] }, threads := th } } := by
  have threads (l : List Nat) (k : CoreSt) : ∃ th, l.foldl CoreSt.haltWait k = { k with threads := th } := by
    induction l generalizing k with
    | nil => exact ⟨k.threads, rfl⟩
    | cons t l ih =>
      obtain ⟨th, hth⟩ := haltWait_threads k t
      obtain ⟨th', hth'⟩ := ih (k.haltWait t)
      exact ⟨th', by rw [List.foldl_cons, hth', hth]⟩
  obtain ⟨th, hth⟩ := threads (List.range 4) { e.k with
    queues := [], running := [], invQueue := [], splitting := none, scoreboard := [], windows := [], flights := ended, frozen := false,
    splitTiles := e.k.tiles, met := [], calm := 0, pipe := { e.k.pipe with plan := [] } }
  exact ⟨th, by rw [Eff.emptied, hth]⟩

/-- CORE_RECOVER's work: invocations that are over end in an emptied core. -/
theorem recover_eq (e : Eff) : ∃ ended v, (∀ f ∈ ended, f.split = true ∧ f.left = 0 ∧ f.drains = false) ∧
    e.recover = { (e.emptied ended).settle with k := { (e.emptied ended).settle.k with invLastFault := v } } := by
  refine ⟨_, _, ?_, rfl⟩
  intro f hf
  rcases List.mem_append.1 hf with hf | hf
  · obtain ⟨x, -, rfl⟩ := List.mem_map.1 hf
    exact ⟨rfl, rfl, rfl⟩
  · obtain ⟨x, -, rfl⟩ := List.mem_map.1 hf
    exact ⟨rfl, rfl, rfl⟩

/-- Invocations over, whatever else, all end. -/
theorem settle_flights_nil {e : Eff} (h : ∀ f ∈ e.k.flights, f.split = true ∧ f.left = 0 ∧ f.drains = false) :
    e.settle.k.flights = [] := by
  rw [settle_flights]
  refine List.filter_eq_nil_iff.2 fun f hf => ?_
  obtain ⟨split, left, drains⟩ := h f hf
  simp [CoreSt.flightOver, split, left, drains]

/-- A recovered core. -/
structure Recovered (k k' : CoreSt) : Prop where
  frozen : k'.frozen = false
  queues : k'.queues = []
  running : k'.running = []
  invQueue : k'.invQueue = []
  splitting : k'.splitting = none
  scoreboard : k'.scoreboard = []
  windows : k'.windows = []
  flights : k'.flights = []
  ls : k'.ls = k.ls
  notches : k'.notches = k.notches
  ledgers : k'.ledgers = k.ledgers

theorem recover_recovered (e : Eff) : Recovered e.k e.recover.k ∧ e.recover.occ = e.occ := by
  obtain ⟨ended, v, ending, heq⟩ := recover_eq e
  obtain ⟨th, hth⟩ := emptied_threads e ended
  rw [heq, hth]
  have ends := settle_ends { e with k := { e.k with
    queues := [], running := [], invQueue := [], splitting := none, scoreboard := [], windows := [], flights := ended, frozen := false,
    splitTiles := e.k.tiles, met := [], calm := 0, pipe := { e.k.pipe with plan := [] }, threads := th } }
  exact ⟨⟨ends.read (·.frozen), ends.read (·.queues), ends.read (·.running), ends.read (·.invQueue), ends.read (·.splitting),
    ends.read (·.scoreboard), ends.read (·.windows), settle_flights_nil ending, ends.read (·.ls), ends.read (·.notches),
    ends.read (·.ledgers)⟩, ends.occ⟩

theorem Recovered.aside {k k' y : CoreSt} (h : Recovered k k') (h' : Aside k' y) : Recovered k y :=
  ⟨(h'.read (·.frozen)).trans h.frozen, (h'.read (·.queues)).trans h.queues, (h'.read (·.running)).trans h.running,
    (h'.read (·.invQueue)).trans h.invQueue, (h'.read (·.splitting)).trans h.splitting, (h'.read (·.scoreboard)).trans h.scoreboard,
    (h'.read (·.windows)).trans h.windows, (h'.read (·.flights)).trans h.flights, (h'.read (·.ls)).trans h.ls,
    (h'.read (·.notches)).trans h.notches, (h'.read (·.ledgers)).trans h.ledgers⟩

theorem coreRecover_ends (h : Starts s 0x04 c) (hdev : s.readyOrSend = true) (hfrozen : (s.core c.core).frozen = true) :
    ∃ t u, exec .coreRecover s = .next t ∧ EndedCmd { s with cores := s.cores.set c.core u } t c 0 0 ∧ Recovered (s.core c.core) u := by
  obtain ⟨recovered, quiet⟩ := recover_recovered (s.coreEff c.core)
  obtain ⟨y, hy, rest⟩ := atCore_coreAt s c.core (·.recover) quiet
  refine ⟨(s.atCore c.core (·.recover)).endCmd c 0 0, y, ?_, ?_, recovered.aside hy⟩
  · show execCoreRecover s = _
    rw [execCoreRecover, h.runCommand (by simp [hdev, hfrozen])]
  · have ended := endCmd_ended (u := { s with cores := s.cores.set c.core y }) 0 0 h.not_bad h.not_failed
    rwa [← rest] at ended ⊢

/-! ### SET_POWER_CAP and SET_WAKE_LATENCY (R437) -/

theorem setPower_waits {row : Instr} {o : Nat} (hrow : (row, o) ∈ [(Instr.setPowerCap, 0x31), (.setWakeLatency, 0x32)]) (h : Starts s o c) :
    exec row s = .next { s with cmds := s.cmds.filter (fun d => d.num ≠ c.num) ++ [{ c with phase := .waitBoundary }] } := by
  simp only [List.mem_cons, Prod.mk.injEq, List.not_mem_nil, or_false] at hrow
  rcases hrow with ⟨rfl, rfl⟩ | ⟨rfl, rfl⟩
  · show execSetPowerCap s = _
    rw [execSetPowerCap, h.runCommand rfl]
    rfl
  · show execSetWakeLatency s = _
    rw [execSetWakeLatency, h.runCommand rfl]
    rfl

theorem atBoundary_house (s : State) (c : Cmd) : (s.atBoundary c).house =
    if c.opcode = 0x31 then { s.house with cap := c.q 1 10 0, unmet := false } else { s.house with wakeLatency := c.q 1 31 0 } :=
  (State.endCmd_closes _ c 0 0).house

/-- The state in which the planner plans: the window counted and what waited for the boundary performed. -/
def State.atWindow (s : State) : State :=
  ((s.countUnit houseUnit 0 (2 ^ s.house.window)).cmds.filter (fun c => c.phase = .waitBoundary)).foldl
    (fun (s : State) c => s.atBoundary c) (s.countUnit houseUnit 0 (2 ^ s.house.window))

theorem raise_if_house (s : State) (p : Prop) [Decidable p] (code : Nat) (ws : List Word) :
    (if p then s.raise code ws else s).house = s.house := by
  split <;> rfl

/-- The planner's own work leaves the cap and the wake latency. -/
theorem plannerWindow_keeps (m : Measures) (hruns : s.firmwareRuns = true) (hplanner : 3 ∉ s.house.services) :
    ∃ t, exec (.plannerWindow m) s = .next t ∧ t.house.cap = s.atWindow.house.cap ∧
      t.house.wakeLatency = s.atWindow.house.wakeLatency := by
  refine ⟨_, rfl, ?_⟩
  rw [if_neg (by simp [hruns, hplanner])]
  dsimp only
  rw [raise_if_house]
  exact ⟨rfl, rfl⟩

theorem plannerWindow_performs (m : Measures) (hruns : s.firmwareRuns = true) (hplanner : 3 ∉ s.house.services)
    (hc : s.cmds.filter (fun d => d.phase = .waitBoundary) = [c]) :
    ∃ t, exec (.plannerWindow m) s = .next t ∧ (c.opcode = 0x31 → t.house.cap = c.q 1 10 0 ∧ t.house.wakeLatency = s.house.wakeLatency) ∧
      (c.opcode = 0x32 → t.house.wakeLatency = c.q 1 31 0 ∧ t.house.cap = s.house.cap) := by
  obtain ⟨t, run, cap, latency⟩ := plannerWindow_keeps m hruns hplanner
  have counted := s.countUnit_steady houseUnit 0 (2 ^ s.house.window)
  have window : s.atWindow.house = if c.opcode = 0x31 then { s.house with cap := c.q 1 10 0, unmet := false }
      else { s.house with wakeLatency := c.q 1 31 0 } := by
    rw [State.atWindow, counted.cmds, hc, List.foldl_cons, List.foldl_nil, atBoundary_house, counted.house]
  refine ⟨t, run, fun code => ?_, fun code => ?_⟩
  · rw [cap, latency, window, if_pos code]
    exact ⟨rfl, rfl⟩
  · rw [cap, latency, window, if_neg (by omega)]
    exact ⟨rfl, rfl⟩

end

end Sys2Proof.Machine
end

section
/-! PLACE and PLACE_READ (R248, R253, R386, R417). -/

namespace Sys2Proof.Machine

/-! ### The caches without the pages of a placement change (R253 step 2) -/

/-- A cache without the pages `p`. -/
def PtCache.cut (p : Nat → Bool) (c : PtCache) : PtCache := List.filter (fun x : Nat × Word => !p x.1) c

theorem find_cut {p : Nat → Bool} {page : Nat} (h : p page = true) (c : PtCache) : PtCache.find (c.cut p) page = none := by
  unfold PtCache.find PtCache.cut
  rw [Option.map_eq_none_iff]
  refine List.find?_eq_none.2 fun x hx same => ?_
  have kept := (List.mem_filter.1 hx).2
  rw [of_decide_eq_true same, h] at kept
  cases kept

theorem uncache_guild (s : State) (p : Nat → Bool) (g : Nat) : ((s.uncache p).guild g).cache = (s.guild g).cache.cut p :=
  congrArg GuildSt.cache (Tab.get_map (g := fun x : GuildSt => { x with cache := x.cache.cut p }) rfl s.guilds g)

theorem uncache_walker (s : State) (p : Nat → Bool) (h : Nat) : (s.uncache p).walker h = (s.walker h).cut p :=
  Tab.get_map (g := PtCache.cut p) rfl s.tiers.walkers h

theorem uncache_rest {s u : State} (h : OnTiers s u) (p : Nat → Bool) : u.uncache p = { s with
    tiers := (u.uncache p).tiers, guilds := (u.uncache p).guilds, occurrences := (u.uncache p).occurrences,
    unitCounters := (u.uncache p).unitCounters, bwNow := (u.uncache p).bwNow } := by
  unfold OnTiers at h
  generalize u.tiers = x, u.occurrences = o, u.unitCounters = n, u.bwNow = b at h
  subst h
  rfl

section
variable {s : State} {c : Cmd}

/-! ### PLACE -/

theorem State.startCmd_guild (u : State) (c : Cmd) (p : CmdPhase) (g : Nat) : (u.startCmd c p).guild g = u.guild g := rfl
theorem State.startCmd_walker (u : State) (c : Cmd) (p : CmdPhase) (i : Nat) : (u.startCmd c p).walker i = u.walker i := rfl

/-- The entries a PLACE finds in host memory. -/
def State.placed (s : State) (a n : Nat) : List Word := (List.range n).map fun i => hostWord s (a + 8 * i) &&& 0xF7F0FFFFFFFFFFFF

/-- The module with a PLACE's entries written and their cached copies gone. -/
def State.replaced (s : State) (c : Cmd) (es : List Word) : State := (s.writeEntries c.pages.1 es).uncache c.namesPage

theorem placed_eq (s : State) (a n : Nat) :
    (List.range n).map (fun i => placedEntry (wd (leNat (((s.hostMem.bytes a (8 * n)).drop (8 * i)).take 8)))) = s.placed a n := by
  refine List.map_congr_left fun i hi => ?_
  have hin : i < n := List.mem_range.1 hi
  rw [Mem.bytes_drop_take _ _ (by omega)]
  rfl

theorem place_runs (h : Starts s 0x10 c) (hdev : s.readyOrSend = true) (hup : s.port.linkUp = true)
    (hfrozen : ∀ i, i < c.q 2 25 0 → ptFrozen (s.tableEntry (c.q 1 24 0 + i)) = false)
    (hclean : ∀ l ∈ linesOf (c.q 3 63 0) (8 * c.q 2 25 0), idxMem s.hostPoison l = false)
    (hcheck : s.allowed 45 (s.sq c.sq).cls c.master true = true) {u : State} (hu : u = s.replaced c (s.placed (c.q 3 63 0) (c.q 2 25 0))) :
    exec .place s = .next (u.startCmd c (.waitAccesses (u.translated c.namesPage) 0 0)).settleCmds := by
  subst hu
  show execPlace s = _
  have thawed : (List.range c.pages.2).any (fun i => ptFrozen (s.tableEntry (c.pages.1 + i))) = false :=
    List.any_eq_false.2 fun i hi => by simp [Cmd.pages, hfrozen i (List.mem_range.1 hi)]
  have clean : (linesOf (c.q 3 63 0) (8 * c.pages.2)).any (idxMem s.hostPoison) = false :=
    List.any_eq_false.2 fun l hl => by simp [hclean l hl]
  rw [execPlace, if_neg (by simp [hup]), h.runCommand (by simp [hdev, thawed])]
  simp only [State.deviceRead, clean, State.serviceCheck, if_pos hcheck, Bool.false_eq_true, if_false, placed_eq]
  rfl

/-- The one command that waits for a placement change is awaited when nothing was translated under its pages. -/
theorem startCmd_awaited {u : State} (hworking : 1 ∉ u.house.services) (hring : ringEnabled (u.cq (u.sq c.sq).cqOf).cfg = true) (st d : Nat) :
    Awaited (u.startCmd c (.waitAccesses [] st d)) { c with phase := .waitAccesses [] st d } st d := by
  refine ⟨List.mem_append_right _ (List.mem_singleton_self _), fun x hx same => ?_, ⟨[], rfl, ?_⟩, hworking, hring⟩
  · rcases List.mem_append.1 hx with hx | hx
    · exact absurd same (by simpa using (List.mem_filter.1 hx).2)
    · exact List.mem_singleton.1 hx
  · simp [State.performedAll]

theorem translated_nil {u : State} {p : Nat → Bool}
    (h : ∀ x ∈ u.txns, ∀ l, x.phase = .sent l → ∀ d, x.target = .dva d → p (d / 65536) = false) : u.translated p = [] := by
  unfold State.translated
  rw [List.map_eq_nil_iff, List.filter_eq_nil_iff]
  intro x hx both
  cases hphase : x.phase <;> simp only [hphase, Bool.false_and, Bool.false_eq_true] at both
  cases htarget : x.target <;> simp only [htarget, Bool.and_false, Bool.false_eq_true] at both
  next l d =>
    rw [h x hx l hphase d htarget] at both
    cases both

theorem place_ends {first n a : Nat} (h : Starts s 0x10 c) (hdev : s.readyOrSend = true) (hup : s.port.linkUp = true)
    (hfirst : first = c.q 1 24 0) (hn : n = c.q 2 25 0) (ha : a = c.q 3 63 0)
    (hfrozen : ∀ i, i < n → ptFrozen (s.tableEntry (first + i)) = false) (hclean : ∀ l ∈ linesOf a (8 * n), idxMem s.hostPoison l = false)
    (hcheck : s.allowed 45 (s.sq c.sq).cls c.master true = true) (hwf : Mem.wf s.tiers.bedrock = true) :
    ∃ t, exec .place s = .next t ∧
      (∀ i, i < n → t.tableEntry (first + i) = hostWord s (a + 8 * i) &&& 0xF7F0FFFFFFFFFFFF) ∧
      (∀ p, p < 2 ^ 25 → p < first ∨ first + n ≤ p → t.tableEntry p = s.tableEntry p) ∧
      (∀ g i, i < n → PtCache.find (t.guild g).cache (first + i) = none ∧ PtCache.find (t.walker g) (first + i) = none) ∧
      ((∀ x ∈ s.txns, ∀ l, x.phase = .sent l → ∀ d, x.target = .dva d → ¬ (first ≤ d / 65536 ∧ d / 65536 < first + n)) →
        ringEnabled (s.cq (s.sq c.sq).cqOf).cfg = true → completion c 0 0 ∈ (t.cq (s.sq c.sq).cqOf).waiting) := by
  subst hfirst hn ha
  obtain ⟨u, hu⟩ : ∃ u, u = s.replaced c (s.placed (c.q 3 63 0) (c.q 2 25 0)) := ⟨_, rfl⟩
  have fits : c.q 1 24 0 + (s.placed (c.q 3 63 0) (c.q 2 25 0)).length ≤ 2 ^ 25 := by
    have fields : c.fieldsOk = true := h.2.2.1
    have code := h.opcode
    unfold Cmd.fieldsOk at fields
    rw [code] at fields
    simp only [Cmd.pages, Bool.and_eq_true, decide_eq_true_eq] at fields
    simpa [State.placed] using of_decide_eq_true fields.1.2
  obtain ⟨onTiers, -⟩ := writeEntries_wrote hwf (c.q 1 24 0) (s.placed (c.q 3 63 0) (c.q 2 25 0))
  obtain ⟨written, kept⟩ := tableEntry_writeEntries hwf fits
  have len : (s.placed (c.q 3 63 0) (c.q 2 25 0)).length = c.q 2 25 0 := by simp [State.placed]
  have closes := State.settleCmds_closes (u.startCmd c (.waitAccesses (u.translated c.namesPage) 0 0))
  have table (p : Nat) : (u.startCmd c (.waitAccesses (u.translated c.namesPage) 0 0)).settleCmds.tableEntry p =
      (s.writeEntries (c.q 1 24 0) (s.placed (c.q 3 63 0) (c.q 2 25 0))).tableEntry p := by
    rw [closes.tableEntry, hu]
    rfl
  refine ⟨_, place_runs h hdev hup hfrozen hclean hcheck hu, fun i hi => ?_, fun p hp hout => ?_, fun g i hi => ?_, fun apart ring => ?_⟩
  · rw [table, written i (by omega)]
    simp [State.placed]
  · rw [table, kept p hp (by omega)]
  · have named : c.namesPage (c.q 1 24 0 + i) = true := by simp [Cmd.namesPage, Cmd.pages, hi]
    have guild : (u.guild g).cache = _ := (congrArg (fun x : State => (x.guild g).cache) hu).trans (uncache_guild _ _ _)
    have walker : u.walker g = _ := (congrArg (State.walker · g) hu).trans (uncache_walker _ _ _)
    rw [closes.guild, closes.walker, State.startCmd_guild, State.startCmd_walker, guild, walker]
    exact ⟨find_cut named _, find_cut named _⟩
  · have same : u = { s with
        tiers := u.tiers, guilds := u.guilds, occurrences := u.occurrences, unitCounters := u.unitCounters, bwNow := u.bwNow } := by
      rw [hu]
      exact uncache_rest onTiers c.namesPage
    have none_ : u.translated c.namesPage = [] := by
      refine translated_nil fun x hx l hl d hd => ?_
      have outside := apart x (by rw [same] at hx; exact hx) l hl d hd
      refine Bool.eq_false_iff.2 fun named => outside ?_
      rw [Cmd.namesPage, Bool.and_eq_true] at named
      exact ⟨of_decide_eq_true named.1, of_decide_eq_true named.2⟩
    have awaited := startCmd_awaited (c := c) (u := u) (by rw [same]; exact h.not_failed) (by rw [same]; exact ring) 0 0
    have ended : closing c 0 0 ∈ _ := awaited.settleCmds
    rw [closing_of_not_bad h.not_bad] at ended
    rw [none_]
    have sq : (u.startCmd c (.waitAccesses [] 0 0)).sq c.sq = s.sq c.sq := by rw [same]; rfl
    rw [← sq]
    exact ended

/-! ### PLACE_READ -/

theorem mem_blockParts {fuel : Nat} : ∀ {a n pos : Nat} {p : Nat × Nat × Nat × Nat}, p ∈ blockParts fuel a n pos →
    ∃ b, p.1 = 64 * b ∧ a < 64 * (b + 1) ∧ 64 * b < a + n := by
  induction fuel with
  | zero => intro a n pos p h; cases h
  | succ fuel ih =>
    intro a n pos p h
    rw [blockParts] at h
    split at h
    · cases h
    · rcases List.mem_cons.1 h with rfl | h
      · exact ⟨a / 64, Nat.mul_comm _ _, by omega, by omega⟩
      · obtain ⟨b, hb, low, high⟩ := ih h
        exact ⟨b, hb, by omega, by omega⟩

/-- A block whose stored check is that of clean data is found clean, and left. -/
theorem bedrockLook_clean {a : Nat} (h : s.tiers.bedMarked 0 a = false) :
    ∃ d, s.bedrockLook 0 a = ((d, false), s) := by
  have good : s.tiers.bedBad 0 a = false := by
    unfold Tiers.bedMarked at h
    rw [Tiers.bedBad, h, Bool.false_and]
  exact ⟨_, by rw [State.bedrockLook, good, h]; rfl⟩

theorem bedrockLooks_clean {ps : List (Nat × Nat × Nat × Nat)} (h : ∀ p ∈ ps, s.tiers.bedMarked 0 p.1 = false) :
    ps.foldl (fun acc p =>
      let ((_, m), s) := acc.2.bedrockLook 0 p.1
      (acc.1 || m, s)) ((false, s) : Bool × State) = (false, s) := by
  induction ps with
  | nil => rfl
  | cons p ps ih =>
    obtain ⟨d, look⟩ := bedrockLook_clean (h p (List.mem_cons_self ..))
    rw [List.foldl_cons]
    dsimp only
    rw [look]
    exact ih fun q hq => h q (List.mem_cons_of_mem _ hq)

theorem placeRead_ends {first n : Nat} (h : Starts s 0x11 c) (hdev : s.readyOrSend = true) (hfirst : first = c.q 1 24 0)
    (hn : n = c.q 2 25 0) (hup : s.port.linkUp = true) (hwf : Mem.wf s.hostMem = true)
    (hclean : ∀ b, 8 * first < 64 * (b + 1) → 64 * b < 8 * (first + n) → s.tiers.bedMarked 0 (64 * b) = false) :
    ∃ t u, exec .placeRead s = .next t ∧ EndedCmd u t c 0 0 ∧ u = { s with hostMem := u.hostMem, hostPoison := u.hostPoison } ∧
      u.hostMem.bytes (c.q 3 63 0) (8 * n) = s.tiers.bedrock.bytes (8 * first) (8 * n) := by
  subst hfirst hn
  have looked := bedrockLooks_clean (s := s) (ps := partsOf (8 * c.q 1 24 0) (8 * c.q 2 25 0)) fun p hp => by
    obtain ⟨b, hb, low, high⟩ := mem_blockParts hp
    rw [hb]
    exact hclean b low (by omega)
  have len : (s.tiers.bedrock.bytes (8 * c.q 1 24 0) (8 * c.q 2 25 0)).length = 8 * c.q 2 25 0 := Mem.bytes_length ..
  obtain ⟨onHost, wrote⟩ := deviceWrite_wrote hup hwf (c.q 3 63 0 + 8 * c.q 2 25 0) (c.q 3 63 0)
    (s.tiers.bedrock.bytes (8 * c.q 1 24 0) (8 * c.q 2 25 0))
  have back := wrote.bytes (by omega) (i := 0) (n := 8 * c.q 2 25 0) (by omega)
  rw [Nat.add_zero, List.drop_zero, List.take_of_length_le (by omega)] at back
  refine ⟨_, _, ?_, endCmd_ended 0 0 h.not_bad ?_, onHost, back⟩
  · show execPlaceRead s = _
    rw [execPlaceRead, h.runCommand (by simp [hdev])]
    simp only [Cmd.pages, looked]
    rfl
  · rw [congrArg State.house onHost]
    exact h.not_failed

end

end Sys2Proof.Machine
end

section
/-! ZEROISE in its two steps (R457, R458, Table 18.7), and the commands of Table 16.11 together. -/

namespace Sys2Proof.Machine

theorem Tab.get_map_at {α : Type} {d : α} {g : Nat → α → α} (t : Tab α) (n : Nat) (hd : g n d = d) :
    Tab.get d (t.map fun x => (x.1, g x.1 x.2)) n = g n (Tab.get d t n) := by
  induction t with
  | nil => exact hd.symm
  | cons x t ih =>
    simp only [List.map_cons, Tab.get, ih]
    split_ifs with here
    · rw [here]
    · exact hd.symm
    · rfl

/-! ### Its first step -/

section
variable (s : State)

/-- A link port disabled: its control and its state, and no other port's. -/
theorem disableLink_ports (l : Nat) : (s.disableLink l).house = s.house ∧ (s.disableLink l).cmds = s.cmds ∧
    (l ∉ s.house.fencedLinks → ((s.disableLink l).link l).ctrl.getLsbD 0 = false ∧ ((s.disableLink l).link l).state = .disabled) ∧
    ∀ j, j ≠ l → ((s.disableLink l).link j).ctrl = (s.link j).ctrl ∧ ((s.disableLink l).link j).state = (s.link j).state := by
  by_cases fenced : l ∈ s.house.fencedLinks
  · rw [State.disableLink, if_pos (List.contains_iff_mem.2 fenced)]
    exact ⟨rfl, rfl, fun h => absurd fenced h, fun _ _ => ⟨rfl, rfl⟩⟩
  · rw [State.disableLink, if_neg (mt List.contains_iff_mem.1 fenced)]
    have lost := State.loseLink_steady (s.setLink l { s.link l with ctrl := (s.link l).ctrl &&& ~~~1, state := .disabled }) l
    have read (j : Nat) : (s.setLink l { s.link l with ctrl := (s.link l).ctrl &&& ~~~1, state := .disabled }).link j =
        if j = l then { s.link l with ctrl := (s.link l).ctrl &&& ~~~1, state := .disabled } else s.link j := Tab.get_set _ _ _ _ _
    refine ⟨lost.house, lost.cmds, fun _ => ?_, fun j hj => ?_⟩
    · rw [(lost.port l).1, (lost.port l).2, read, if_pos rfl]
      exact ⟨by simp, rfl⟩
    · rw [(lost.port j).1, (lost.port j).2, read, if_neg hj]
      exact ⟨rfl, rfl⟩

/-- The module with every link disabled. -/
def State.linksOff : State := (List.range 36).foldl (fun (s : State) l => s.disableLink l) s

theorem linksOff_ports : s.linksOff.house = s.house ∧ s.linksOff.cmds = s.cmds ∧ ∀ l, l < 36 → l ∉ s.house.fencedLinks →
    (s.linksOff.link l).ctrl.getLsbD 0 = false ∧ (s.linksOff.link l).state = .disabled := by
  refine foldl_range_invariant (fun i (t : State) => t.house = s.house ∧ t.cmds = s.cmds ∧ ∀ l, l < i → l ∉ s.house.fencedLinks →
    (t.link l).ctrl.getLsbD 0 = false ∧ (t.link l).state = .disabled) ⟨rfl, rfl, fun l hl => absurd hl (Nat.not_lt_zero l)⟩ ?_
  rintro i t - ⟨house, cmds, ports⟩
  obtain ⟨house', cmds', here, others⟩ := disableLink_ports t i
  refine ⟨house'.trans house, cmds'.trans cmds, fun l hl free => ?_⟩
  by_cases same : l = i
  · subst same
    exact here (house ▸ free)
  · rw [(others l same).1, (others l same).2]
    exact ports l (by omega) free

end

theorem halted_allHalted (k : CoreSt) : k.halted.allHalted = true := by
  refine List.all_eq_true.2 fun t _ => ?_
  have thread : k.halted.thread t = { k.thread t with state := .halted } :=
    Tab.get_map (g := fun x : Thread => { x with state := .halted }) rfl k.threads t
  rw [thread]
  rfl

/-- The first step after the links are off. -/
def State.haltedFor (u : State) (c : Cmd) : State :=
  ({ u with cores := u.cores.map (fun x : Nat × CoreSt => (x.1, if u.fenced x.1 then x.2 else x.2.halted)) }.startCmd c .running).setDev
    .zeroise

theorem startZeroise_eq (s : State) (c : Cmd) : s.startZeroise c = s.linksOff.haltedFor c := rfl

theorem haltedFor_core (u : State) (c : Cmd) {n : Nat} (h : u.fenced n = false) : ((u.haltedFor c).core n).allHalted = true := by
  have core : (u.haltedFor c).core n = if u.fenced n then u.core n else (u.core n).halted :=
    Tab.get_map_at (d := ({} : CoreSt)) (g := fun i (k : CoreSt) => if u.fenced i then k else k.halted) u.cores n (by rw [h]; rfl)
  rw [core, h]
  exact halted_allHalted _

section
variable {s : State} {c : Cmd}

theorem zeroise_starts (hottest : Nat) (lost : LostStores) (h : Starts s 0x30 c)
    (hdev : s.house.dev = .failed ∨ s.house.dev = .ready ∧ ∀ n, n < 1024 → s.fenced n = false → (s.core n).allHalted = true) :
    ∃ t, exec (.zeroise hottest lost) s = .next t ∧ t.house = { s.house with dev := .zeroise } ∧
      t.cmds = s.cmds.filter (fun d => d.num ≠ c.num) ++ [{ c with phase := .running }] ∧
      (∀ n, s.fenced n = false → (t.core n).allHalted = true) ∧
      ∀ l : LinkId, l.val ∉ s.house.fencedLinks → (t.link l).ctrl.getLsbD 0 = false ∧ (t.link l).state = .disabled := by
  obtain ⟨house, cmds, ports⟩ := linksOff_ports s
  have fenced (n : Nat) : s.linksOff.fenced n = s.fenced n := congrArg (fun h : House => h.fencedCores.contains n) house
  refine ⟨s.startZeroise c, ?_, ?_⟩
  · show execZeroise hottest lost s = _
    have allowed : (s.house.dev = .failed || (s.house.dev = .ready && s.liveCores.all (fun c => (s.core c).allHalted))) = true := by
      rcases hdev with failed | ⟨ready, halted⟩
      · simp [failed]
      · have all : s.liveCores.all (fun c => (s.core c).allHalted) = true := List.all_eq_true.2 fun n hn => by
          obtain ⟨range, live⟩ := List.mem_filter.1 hn
          exact halted n (List.mem_range.1 range) (by simpa using live)
        simp [ready, all]
    rw [execZeroise, h.1.settleCmds, h.2.1]
    dsimp only
    rw [h.runCommand allowed]
  · rw [startZeroise_eq]
    generalize s.linksOff = u at house cmds ports fenced
    exact ⟨congrArg (fun x : House => { x with dev := .zeroise }) house,
      congrArg (fun x : List Cmd => x.filter (fun d => d.num ≠ c.num) ++ [{ c with phase := .running }]) cmds,
      fun n hn => haltedFor_core u c ((fenced n).trans hn), fun l hl => ports l.val l.isLt hl⟩

/-! ### Its second step -/

/-- The writes of host memory performed first change only it. -/
theorem performedHost_onHost (s : State) : OnHost s s.performedHost := by
  refine List.foldlRecOn (motive := OnHost s) s.txns _ rfl fun t ht x _ => ?_
  split
  · exact ht.trans rfl
  · exact ht

theorem performedHost_hostMem (h : ∀ x ∈ s.txns, ∀ a, x.phase ≠ .sent (.host a)) : s.performedHost.hostMem = s.hostMem := by
  refine List.foldlRecOn (motive := fun t : State => t.hostMem = s.hostMem) s.txns _ rfl fun t ht x hx => ?_
  split
  · next phase => exact absurd phase (h x hx _)
  · exact ht

/-- The module after steps 2 to 6, with every store in reach. -/
def State.wiped (s : State) (d : DevState) : State := (s.performedHost.zeroise ⟨false, false, false⟩).setDev d

theorem wiped_core (s : State) (d : DevState) (n : Nat) : (s.wiped d).core n = (s.core n).zeroised := by
  have onHost : s.performedHost = _ := performedHost_onHost s
  have cores : (s.wiped d).cores = s.cores.map fun x : Nat × CoreSt => (x.1, x.2.zeroised) :=
    (congrArg (fun x : State => x.cores.map fun x : Nat × CoreSt => (x.1, x.2.zeroised)) onHost).trans rfl
  rw [State.core, cores]
  exact Tab.get_map (g := CoreSt.zeroised) rfl s.cores n

theorem wiped_house (s : State) (d : DevState) : (s.wiped d).house = { s.house with
    dev := d, erepBase := 0, erepSeq := 0, lastPower := 0, points := [], fabric := 0, hot := [], brake := false, idle := 0,
    saved := ([], 0), lastSnapshot := 0, lastRestore := 0, unmet := false, zeroised := s.house.zeroised + 1 } := by
  have house : s.performedHost.house = s.house := (congrArg State.house (performedHost_onHost s)).trans rfl
  rw [State.wiped, State.setDev, State.zeroise, house]

theorem afterZeroise_eq (s : State) :
    s.afterZeroise = if s.house.cause = 0 ∧ s.house.services = [] ∧ s.house.tripped = false then .ready else .failed := by
  unfold State.afterZeroise
  by_cases cause : s.house.cause = 0 <;> by_cases services : s.house.services = [] <;> cases tripped : s.house.tripped <;> simp [cause, services]

theorem zeroise_finishes (hottest : Nat) (lost : LostStores) {d : DevState} (h : Settled s) (hnone : s.commandFor 0x30 = none)
    (hc : s.cmds.find? Cmd.zeroising = some c) (hcommand : 1 ∉ s.house.services) (hsecurity : 5 ∉ s.house.services)
    (hcool : s.house.tripped = true → hottest < 95000)
    (hd : d = (if s.house.cause = 0 ∧ s.house.services = [] ∧ s.house.tripped = false then .ready else .failed))
    (hlost : d = .failed → lost.shale = false ∧ lost.bedrock = false ∧ lost.cores = false) :
    exec (.zeroise hottest lost) s = .next ((s.wiped d).endCmd c 0 0) := by
  show execZeroise hottest lost s = _
  have after : s.afterZeroise = d := (afterZeroise_eq s).trans hd.symm
  have reach : (if d = .failed then lost else ⟨false, false, false⟩) = (⟨false, false, false⟩ : LostStores) := by
    split
    · next failed =>
      obtain ⟨shale, bedrock, cores⟩ := hlost failed
      exact (congr (congr (congrArg LostStores.mk shale) bedrock) cores)
    · rfl
  have goes : ¬ (s.house.services.contains 1 = true ∨ s.house.services.contains 5 = true ∨
      s.house.tripped = true ∧ hottest ≥ 95000) := by
    rintro (failed | failed | ⟨tripped, hot⟩)
    · exact hcommand (List.contains_iff_mem.1 failed)
    · exact hsecurity (List.contains_iff_mem.1 failed)
    · exact absurd (hcool tripped) (by omega)
  rw [execZeroise, h.settleCmds, hnone]
  dsimp only
  rw [hc]
  dsimp only
  rw [if_neg goes, after, reach]
  rfl

end

/-- Settles O41. Each clause is the command's own lemma; of a zeroisation recorded as found poisoned, which no fetch leaves behind, the
completion has cid 0, and the clause holds without the ring. -/
theorem hostCommands : Obligations.HostCommands := by
  refine ⟨fun s c h => nop_ends h, fun s c => nop_rejected, fun s w c answers bs k => tallyLoad_ends, fun s c k n => threadStart_ends,
    fun s c v => mailboxWrite_ends, ?_, fun s c first n a => place_ends, fun s c first n => placeRead_ends,
    fun s c row o hrow h => setPower_waits hrow h, fun s m c => plannerWindow_performs m,
    fun s c hottest lost => zeroise_starts hottest lost, ?_⟩
  · intro s c h hdev hfrozen
    obtain ⟨t, u, run, ended, r⟩ := coreRecover_ends h hdev hfrozen
    exact ⟨t, u, run, ended, r.frozen, r.queues, r.running, r.invQueue, r.splitting, r.scoreboard, r.windows, r.flights, r.ls, r.notches,
      r.ledgers⟩
  · intro s c hottest lost d h hnone hc hcommand hsecurity hcool hd hlost
    have house := wiped_house s d
    have host := performedHost_onHost s
    obtain ⟨q, ended⟩ := endCmd_ended_of_any (u := s.wiped d) c 0 0 (by rw [house]; exact hcommand)
    refine ⟨_, { s.wiped d with cqs := q }, zeroise_finishes hottest lost h hnone hc hcommand hsecurity hcool hd hlost, ended, ?_, ?_, rfl,
      rfl, rfl, rfl, rfl, rfl, rfl, rfl, rfl, (congrArg State.fuses host).trans rfl, (congrArg State.flash host).trans rfl,
      performedHost_hostMem, ?_, fun n => ?_⟩
    · exact (congrArg House.dev house).trans rfl
    · exact (congrArg House.zeroised house).trans rfl
    · exact (congrArg House.cap house).trans rfl
    · have core : ({ s.wiped d with cqs := q } : State).core n = (s.core n).zeroised := wiped_core s d n
      rw [core]
      exact ⟨rfl, rfl, rfl, rfl, rfl, rfl⟩

end Sys2Proof.Machine
end

section
/-! Bursts (R311 to R318, R445): how the oldest burst of a core asks its target guilds one after another, what a grant or a refusal of
its targets leaves, and how it enters the fabric. -/

namespace Sys2Proof.Machine

/-! ### What a grant counts and raises -/

theorem countCore_aside (s : State) (c ev n : Nat) :
    Aside (s.core c) ((s.countCore c ev n).core c) ∧ s.countCore c ev n = { s with cores := (s.countCore c ev n).cores } := by
  unfold State.countCore State.onCore
  split
  · have lands := atCore_lands s c (fun e => e.count ev n)
    exact ⟨(count_passes (s.coreEff c) ev n).core.trans lands.core, lands.quiet rfl⟩
  · exact ⟨.refl _, rfl⟩

theorem foldl_refusedEvent (s : State) (master reason : Nat) (addr : Nat → Nat) (cs : List Nat) :
    cs.foldl (fun (s : State) c => s.refusedEvent master reason (addr c)) s =
      { s with occurrences := s.occurrences ++ cs.map (fun c => ⟨0x20, [wd (master + reason * 65536), wd (addr c)]⟩) } := by
  induction cs generalizing s with
  | nil => simp
  | cons c cs ih =>
    rw [List.foldl_cons, ih]
    simp [State.refusedEvent, State.raise]

/-! ### The bursts of the module -/

theorem burst_putBurst {s : State} {b x : Burst} (h : s.burst b.id = some x) : (s.putBurst b).burst b.id = some b := by
  have same : ((fun y : Burst => decide (y.id = b.id)) ∘ fun y => if y.id = b.id then b else y) = fun y => decide (y.id = b.id) := by
    funext y
    by_cases hy : y.id = b.id <;> simp [hy]
  have hx : x.id = b.id := by simpa using List.find?_some h
  rw [State.burst] at h ⊢
  rw [State.putBurst, List.find?_map, same, h, Option.map_some, if_pos hx]

theorem dropBurst_putBurst (s : State) (b : Burst) : (s.putBurst b).dropBurst b.id = s.dropBurst b.id := by
  have gone : (s.bursts.map fun x => if x.id = b.id then b else x).filter (fun x => x.id ≠ b.id) =
      s.bursts.filter fun x => x.id ≠ b.id := by
    induction s.bursts with
    | nil => rfl
    | cons x xs ih => by_cases hx : x.id = b.id <;> simp_all
  exact congrArg (fun bs => ({ s with bursts := bs } : State)) gone

/-! ### A reservation begins (R311, R313, R316) -/

/-- The burst with its set's entry and targets fixed, asking guild `g`. -/
def Burst.asks (b : Burst) (s : State) (g : Nat) : Burst :=
  { b with begun := true, entry := s.setCtrl b.set, targets := s.setTargets b.set, asking := some g, asked := s.nextIssue }

/-- The module with a burst that has just asked a guild. -/
def State.withAsking (s : State) (b : Burst) : State := { s with nextIssue := s.nextIssue + 1 }.putBurst b

section
variable {s : State} {b : Burst} {g : Nat} {rest : List Nat}

theorem beginBurst_eq (hset : s.setOk b.set b.reduce = true) (hguilds : targetGuilds (s.setTargets b.set) = g :: rest) :
    s.beginBurst b = s.withAsking (b.asks s g) := by
  simp only [State.beginBurst, hset, hguilds, Bool.not_true, Bool.false_eq_true, if_false]
  rfl

theorem mcastReserve_eq (hfirst : BurstFirst s b) (hnew : b.begun = false) (hset : s.setOk b.set b.reduce = true)
    (hguilds : targetGuilds (s.setTargets b.set) = g :: rest) :
    s.mcastReserve b.id = (s.withAsking (b.asks s g)).askGrant (b.asks s g) := by
  obtain ⟨hburst, holdest, hbehind⟩ := hfirst
  have oldest : s.bursts.any (fun x => x.core = b.core && decide (x.id < b.id)) = false := by
    simpa using holdest
  have found : (s.withAsking (b.asks s g)).burst b.id = some (b.asks s g) := burst_putBurst (b := b.asks s g) hburst
  simp only [State.mcastReserve, hburst, oldest, hbehind, Bool.or_self, hnew, Bool.false_eq_true, if_false,
    beginBurst_eq hset hguilds, found]

end

/-! ### The answer of the guild asked (R307, R316, R318, R445) -/

section
variable {s : State} {b : Burst} {g : Nat} (hasking : b.asking = some g)
include hasking

theorem askGrant_of_room (hcast : b.reduce = false) (hroom : s.landingUse g + b.flits.length ≤ 512)
    (hturn : s.olderWaits b g = false) : s.askGrant b = s.granted b g := by
  simp [State.askGrant, hasking, hcast, hroom, hturn]

theorem askGrant_of_full (hcast : b.reduce = false)
    (h : 512 < s.landingUse g + b.flits.length ∨ s.olderWaits b g = true) : s.askGrant b = s := by
  simp only [State.askGrant, hasking, hcast, Bool.false_eq_true, if_false]
  refine if_neg fun ⟨hroom, hturn⟩ => ?_
  obtain h | h := h
  · omega
  · simp [h] at hturn

theorem askGrant_of_not_mayJoin (hreduce : b.reduce = true) (hjoin : (s.guild g).mayJoin b = false) : s.askGrant b = s := by
  simp [State.askGrant, hasking, hreduce, State.joinRow, hjoin]

theorem askGrant_of_joinRow {t : State} (hreduce : b.reduce = true) (hjoin : s.joinRow b g = some t) :
    s.askGrant b = t.putBurst { b with asking := none, coming := some g } := by
  simp [State.askGrant, hasking, hreduce, hjoin]

end

theorem granted_eq (s : State) (b : Burst) (g : Nat) :
    s.granted b g = { s.putBurst { b with asking := none, coming := some g, refused := b.refused ++ refusedThere s b g } with
        cores := (s.granted b g).cores,
        occurrences := s.occurrences ++ (refusedThere s b g).map (fun c =>
          ⟨0x20, [BitVec.ofNat 64 (masterId 2 b.core + 3 * 65536), BitVec.ofNat 64 (lsDpa c (firstOff b))]⟩) } ∧
      Aside (s.core b.core) ((s.granted b g).core b.core) := by
  have raised := foldl_refusedEvent s (masterId 2 b.core) 3 (fun c => lsDpa c (firstOff b)) (refusedThere s b g)
  obtain ⟨aside, counted⟩ := countCore_aside ((refusedThere s b g).foldl (fun (s : State) c =>
    s.refusedEvent (masterId 2 b.core) 3 (lsDpa c (firstOff b))) s) b.core 0x058 ((refusedThere s b g).length * b.flits.length)
  have grant : s.granted b g = (((refusedThere s b g).foldl (fun (s : State) c =>
    s.refusedEvent (masterId 2 b.core) 3 (lsDpa c (firstOff b))) s).countCore b.core 0x058
      ((refusedThere s b g).length * b.flits.length)).putBurst
        { b with asking := none, coming := some g, refused := b.refused ++ refusedThere s b g } := rfl
  rw [raised] at aside counted grant
  refine ⟨?_, ?_⟩
  · rw [grant, counted]
    rfl
  · rw [grant]
    exact aside

/-! ### A row buffer joined (R317, R318) -/

/-- The contributor that a burst is at guild `g`. -/
def State.contributor (s : State) (b : Burst) (g : Nat) : Contributor :=
  { core := b.core, declared := b.slots,
    refused := ((b.targets.filter (fun c => guildOf c = g)).find? (fun c =>
      !s.allowed 44 (s.lsClass c) (masterId 2 b.core) true)).isSome }

/-- The row buffers of a guild with a contributor in the one of a burst's key, which is opened if there is none. -/
def GuildSt.joined (x : GuildSt) (b : Burst) (g : Nat) (who : Contributor) : List RowBuffer :=
  if x.rows.any (fun (r : RowBuffer) => r.set = b.set && r.off = b.rowOff) then
    x.rows.map (fun (y : RowBuffer) => if y.set = b.set ∧ y.off = b.rowOff then { y with who := y.who ++ [who] } else y)
  else x.rows ++ [{ set := b.set, off := b.rowOff, entry := b.entry, targets := b.targets.filter (fun c => guildOf c = g),
                    who := [who] }]

theorem joined_spec (x : GuildSt) (b : Burst) (g : Nat) (who : Contributor) :
    (∃ r ∈ x.joined b g who, r.set = b.set ∧ r.off = b.rowOff ∧ who ∈ r.who) ∧
      (x.joined b g who).length ≤ x.rows.length + 1 := by
  unfold GuildSt.joined
  split
  · next hopen =>
    obtain ⟨r, hr, hkey⟩ := List.any_eq_true.1 hopen
    have key : r.set = b.set ∧ r.off = b.rowOff := by simpa using hkey
    refine ⟨⟨_, List.mem_map_of_mem hr, ?_⟩, by simp⟩
    rw [if_pos key]
    exact ⟨key.1, key.2, by simp⟩
  · exact ⟨⟨_, List.mem_append_right _ (List.mem_singleton_self _), rfl, rfl, List.mem_singleton_self _⟩, by simp⟩

theorem joinRow_of_mayJoin {s : State} {b : Burst} {g : Nat} (h : (s.guild g).mayJoin b = true) :
    ∃ t, s.joinRow b g = some t ∧ (t.guild g).rows = (s.guild g).joined b g (s.contributor b g) := by
  unfold State.joinRow GuildSt.joined
  simp only [h, Bool.not_true, Bool.false_eq_true, if_false]
  split
  · exact ⟨_, rfl, by rw [State.guild_setGuild]; rfl⟩
  · exact ⟨_, rfl, by rw [State.guild_setGuild]; rfl⟩

/-- A guild that lets a contributor's row in has it among its row buffers. -/
theorem askGrant_joins {s : State} {b : Burst} {g : Nat} (hasking : b.asking = some g) (hreduce : b.reduce = true)
    (hjoin : (s.guild g).mayJoin b = true) :
    ∃ r ∈ ((s.askGrant b).guild g).rows, r.set = b.set ∧ r.off = b.rowOff ∧ (∃ y ∈ r.who, y.core = b.core ∧ y.declared = b.slots) ∧
      ((s.askGrant b).guild g).rows.length ≤ (s.guild g).rows.length + 1 := by
  obtain ⟨t, hrow, hrows⟩ := joinRow_of_mayJoin hjoin
  obtain ⟨⟨r, hr, hset, hoff, hwho⟩, hlength⟩ := joined_spec (s.guild g) b g (s.contributor b g)
  have rows : ((s.askGrant b).guild g).rows = (s.guild g).joined b g (s.contributor b g) := by
    rw [askGrant_of_joinRow hasking hreduce hrow]
    exact hrows
  rw [rows]
  exact ⟨r, hr, hset, hoff, ⟨_, hwho, rfl, rfl⟩, hlength⟩

/-! ### A grant reaches the sender (R315) -/

/-- The burst with the grant that was on its way. -/
def Burst.holds (b : Burst) (g : Nat) : Burst := { b with coming := none, granted := b.granted ++ [g] }

theorem mcastGrant_of_next {s : State} {b : Burst} {g h : Nat} {rest : List Nat} (hburst : s.burst b.id = some b)
    (hcoming : b.coming = some g) (hnext : (targetGuilds b.targets).filter (fun h => decide (g < h)) = h :: rest) :
    s.mcastGrant b.id = s.withAsking { b.holds g with asking := some h, asked := s.nextIssue } := by
  simp only [State.mcastGrant, hburst, hcoming, hnext]
  rfl

theorem mcastGrant_of_last {s : State} {b : Burst} {g : Nat} (hburst : s.burst b.id = some b) (hcoming : b.coming = some g)
    (hlast : (targetGuilds b.targets).filter (fun h => decide (g < h)) = []) :
    s.mcastGrant b.id = (s.putBurst (b.holds g)).sendBurst (b.holds g) := by
  simp only [State.mcastGrant, hburst, hcoming, hlast]
  rfl

/-- The cores a burst is sent to. -/
def Burst.accepting (b : Burst) : List Nat := b.targets.filter (fun c => !b.refused.contains c)

/-- The accesses a burst leaves as, numbered from packet `n` on. -/
def Burst.accesses (b : Burst) (n : Nat) : List Txn :=
  (flitTxns b.core b.op b.op.outStream n b.flits (fun a => .set b.set (if b.reduce then b.rowOff else a))).map
    (fun t => { t with checked := true, reduce := b.reduce, copies := if b.reduce then b.granted else b.accepting })

/-- How many ends of `n` accesses its micro-op waits for. -/
def Burst.ends (b : Burst) (n : Nat) : Nat := if b.reduce then b.slots * b.granted.length else n * b.accepting.length

/-- The begun micro-ops of a core once a burst of one of them has left, `n` ends being to come. -/
def Burst.sentOf (b : Burst) (n : Nat) (rs : List Running) : List Running :=
  rs.map (fun r => if r.op.uid = b.op.uid ∧ b.op.outStream.source = false then { r with left := r.left - 1 + n } else r)

/-- The core's step when a burst leaves. -/
def Eff.burstSent (e : Eff) (b : Burst) (n : Nat) : Eff :=
  if b.op.outStream.source then e
  else { e with k := e.k.setActive .outbound ((e.k.active .outbound).map (fun r =>
    if r.op.uid = b.op.uid then { r with left := r.left - 1 + n } else r)) }

theorem burstSent_active (e : Eff) (b : Burst) (n : Nat) :
    (e.burstSent b n).k.active .outbound = b.sentOf n (e.k.active .outbound) ∧ (e.burstSent b n).occ = e.occ := by
  unfold Eff.burstSent Burst.sentOf
  cases b.op.outStream.source
  · exact ⟨(CoreSt.active_setActive _ _ _).trans (List.map_congr_left fun r _ => by simp), rfl⟩
  · exact ⟨by simp, rfl⟩

/-- The module with accesses in a burst's place. -/
def State.burstGone (s : State) (b : Burst) (ts : List Txn) : State :=
  { s with
    bursts := s.bursts.filter (fun y => y.id ≠ b.id), txns := s.txns ++ numbered s.nextTxn ts, nextTxn := s.nextTxn + ts.length }

theorem burstGone_eq (s : State) (b : Burst) (ts : List Txn) :
    (ts.foldl State.addTxn (s.putBurst b)).dropBurst b.id = s.burstGone b ts := by
  rw [foldl_addTxn]
  exact congrArg (fun bs => ({ s with
    bursts := bs, txns := s.txns ++ numbered s.nextTxn ts, nextTxn := s.nextTxn + ts.length } : State))
      (congrArg State.bursts (dropBurst_putBurst s b))

section
variable {s : State} {b : Burst} (h : b.reduce = true ∧ b.granted ≠ [] ∨ b.reduce = false ∧ b.accepting ≠ [])
  {ts : List Txn} (hts : ts = b.accesses (s.nextTxn + 1))
include h hts

theorem sendBurst_eq : (s.putBurst b).sendBurst b = (s.burstGone b ts).atCore b.core (fun e => e.burstSent b (b.ends ts.length)) := by
  have goes : (if b.reduce then b.granted else b.accepting) ≠ [] := by
    obtain ⟨hreduce, h⟩ | ⟨hreduce, h⟩ := h <;> simpa [hreduce] using h
  rw [← burstGone_eq, hts]
  exact congrArg (fun m : State => (m.dropBurst b.id).atCore b.core
    (fun e => e.burstSent b (b.ends (b.accesses (s.nextTxn + 1)).length))) (if_neg goes)

/-- A burst that has its last grant, and somewhere to go, leaves. -/
theorem sendBurst_leaves :
    (s.putBurst b).sendBurst b = { s.burstGone b ts with cores := ((s.putBurst b).sendBurst b).cores } ∧
      (((s.putBurst b).sendBurst b).core b.core).active .outbound = b.sentOf (b.ends ts.length) ((s.core b.core).active .outbound) := by
  rw [sendBurst_eq h hts]
  have lands := atCore_lands (s.burstGone b ts) b.core (fun e => e.burstSent b (b.ends ts.length))
  obtain ⟨hactive, hocc⟩ := burstSent_active ((s.burstGone b ts).coreEff b.core) b (b.ends ts.length)
  exact ⟨lands.quiet hocc, (lands.core.read (·.active .outbound)).trans hactive⟩

end

/-- A burst with its last grant leaves, if it has somewhere to go. -/
theorem lastGrant_leaves {s : State} {b : Burst} {g : Nat} {ts : List Txn} (hts : ts = (b.holds g).accesses (s.nextTxn + 1))
    (hgo : b.reduce = true ∨ ∃ c ∈ b.targets, b.refused.contains c = false) :
    let t := (s.putBurst (b.holds g)).sendBurst (b.holds g)
    t = { s.burstGone b ts with cores := t.cores } ∧
      (t.core b.core).active .outbound = ((s.core b.core).active .outbound).map (fun r =>
        if r.op.uid = b.op.uid ∧ b.op.outStream.source = false then { r with
          left := r.left - 1 + (if b.reduce then b.slots * (b.granted.length + 1) else ts.length * b.accepting.length) } else r) := by
  have go : (b.holds g).reduce = true ∧ (b.holds g).granted ≠ [] ∨ (b.holds g).reduce = false ∧ (b.holds g).accepting ≠ [] := by
    cases hreduce : b.reduce with
    | true => exact .inl ⟨hreduce, List.append_ne_nil_of_right_ne_nil _ (List.cons_ne_nil _ _)⟩
    | false =>
      obtain ⟨c, hc, haccepts⟩ := hgo.resolve_left (by simp [hreduce])
      exact .inr ⟨hreduce, List.ne_nil_of_mem (List.mem_filter.2 ⟨hc, by rw [Bool.not_eq_true']; exact haccepts⟩)⟩
  obtain ⟨rest, active⟩ := sendBurst_leaves go hts
  have ends : (b.holds g).ends ts.length =
      if b.reduce then b.slots * (b.granted.length + 1) else ts.length * b.accepting.length := by
    rw [Burst.ends, Burst.holds, List.length_append]
    rfl
  rw [ends] at active
  exact ⟨rest, active⟩

theorem exec_mcastReserve (s : State) (n : Nat) : exec (.mcastReserve n) s = .next (s.mcastReserve n) := rfl

theorem exec_mcastGrant (s : State) (n : Nat) : exec (.mcastGrant n) s = .next (s.mcastGrant n) := rfl

end Sys2Proof.Machine
end

section
/-! Row buffers and ledger adders (R317, R319, R321): what a flit at a guild's ledger adders adds to its row. -/

namespace Sys2Proof.Machine

/-! ### A flit is taken (R319) -/

/-- The guild with the flit at the front of its ledger adders taken, its row with other ledgers and its sender's contribution changed. -/
def GuildSt.took (x : GuildSt) (rest : List AddFlit) (r : RowBuffer) (core : Nat) (f : Contributor → Contributor) (l : Tab Ledger) :
    GuildSt :=
  { x with
    adds := rest
    rows := x.rows.map (fun (y : RowBuffer) => if y.set = r.set ∧ y.off = r.off then
      { y with leds := l, who := y.who.map (fun (w : Contributor) => if w.core = core then f w else w) } else y) }

theorem key_of_row {x : GuildSt} {set off : Nat} {r : RowBuffer} (h : x.row set off = some r) : r.set = set ∧ r.off = off := by
  simpa using List.find?_some h

theorem took_row {x : GuildSt} {set off : Nat} {r : RowBuffer} (h : x.row set off = some r) (rest : List AddFlit) (core : Nat)
    (f : Contributor → Contributor) (l : Tab Ledger) :
    (x.took rest r core f l).row set off = some { r with leds := l, who := r.who.map (fun w => if w.core = core then f w else w) } := by
  obtain ⟨hset, hoff⟩ := key_of_row h
  have same : ((fun y : RowBuffer => y.set = set && y.off = off) ∘ fun y : RowBuffer => if y.set = r.set ∧ y.off = r.off then
      { y with leds := l, who := y.who.map (fun (w : Contributor) => if w.core = core then f w else w) } else y) =
        fun y : RowBuffer => y.set = set && y.off = off := by
    funext y
    dsimp only [Function.comp]
    split <;> rfl
  rw [GuildSt.row] at h ⊢
  rw [GuildSt.took, List.find?_map, same, h, Option.map_some, if_pos ⟨rfl, rfl⟩]

theorem find_contributor {who : List Contributor} {core : Nat} {y : Contributor} (h : who.find? (fun w => w.core = core) = some y)
    {f : Contributor → Contributor} (hf : ∀ w, (f w).core = w.core) :
    (who.map (fun w => if w.core = core then f w else w)).find? (fun w => w.core = core) = some (f y) := by
  have same : ((fun w : Contributor => decide (w.core = core)) ∘ fun w => if w.core = core then f w else w) =
      fun w => decide (w.core = core) := by
    funext w
    dsimp only [Function.comp]
    split
    · rw [hf]
    · rfl
  have hy : y.core = core := by simpa using List.find?_some h
  rw [List.find?_map, same, h, Option.map_some, if_pos hy]

/-- A slot's form, with the bytes of its first flit where it took two (R310). -/
def Contributor.whole (y : Contributor) : LedgerOps.Form → LedgerOps.Form
  | .packed w => .packed w
  | .full w => .full (w.extractLsb' 512 128 ++ y.low.1)

/-- What a slot adds to its ledger: its value, or a poisoned term. -/
def AddFlit.term (a : AddFlit) (y : Contributor) (form : LedgerOps.Form) (mark : Bool) : Ledger :=
  if mark || a.mark || y.bad || y.refused || (LedgerOps.isFull form && y.low.2) then LedgerOps.ofTag .poison
  else LedgerOps.ofForm (y.whole form)

theorem term_eq (a : AddFlit) (y : Contributor) (form : LedgerOps.Form) (mark : Bool) :
    a.term y form mark = if mark ∨ a.mark ∨ y.bad ∨ y.refused ∨ (LedgerOps.isFull form ∧ y.low.2) then LedgerOps.ofTag .poison
      else LedgerOps.ofForm (y.whole form) := by
  simp [AddFlit.term, or_assoc]

/-- A sender's contribution once a flit of it is taken. -/
def AddFlit.contributed (a : AddFlit) (y : Contributor) : Contributor :=
  match a.flit with
  | .bytes .. => y
  | .header _ _ _ mark => { y with header := true, bad := mark || a.mark }
  | .slot _ _ (.full v) mark =>
    if a.second then { y with delivered := y.delivered + 1 } else { y with low := (v.setWidth 512, mark || a.mark) }
  | .slot .. => { y with delivered := y.delivered + 1 }

/-- The ledgers of a row once the flit is taken; the first flit of a full slot waits for its second. -/
def AddFlit.ledgers (a : AddFlit) (r : RowBuffer) (y : Contributor) : Tab Ledger :=
  match a.flit with
  | .slot _ c form mark =>
    if LedgerOps.isFull form && !a.second then r.leds
    else r.leds.set c (LedgerOps.combine (r.leds.get LedgerOps.zero c) (a.term y form mark))
  | _ => r.leds

section
variable {a : AddFlit} (r : RowBuffer) (y : Contributor)

theorem taken_of_bytes {off : Nat} {bs : List (Byte × Bool)} (h : a.flit = .bytes off bs) :
    a.contributed y = y ∧ a.ledgers r y = r.leds := by
  simp [AddFlit.contributed, AddFlit.ledgers, h]

theorem taken_of_header {off n mask : Nat} {mark : Bool} (h : a.flit = .header off n mask mark) :
    a.contributed y = { y with header := true, bad := mark || a.mark } ∧ a.ledgers r y = r.leds := by
  simp [AddFlit.contributed, AddFlit.ledgers, h]

theorem taken_of_first {off c : Nat} {v : BitVec 640} {mark : Bool} (h : a.flit = .slot off c (.full v) mark) (hsecond : a.second = false) :
    a.contributed y = { y with low := (v.setWidth 512, mark || a.mark) } ∧ a.ledgers r y = r.leds := by
  simp [AddFlit.contributed, AddFlit.ledgers, h, hsecond, LedgerOps.isFull]

theorem taken_of_slot {off c : Nat} {form : LedgerOps.Form} {mark : Bool} (h : a.flit = .slot off c form mark)
    (hlast : LedgerOps.isFull form = false ∨ a.second = true) :
    a.contributed y = { y with delivered := y.delivered + 1 } ∧
      a.ledgers r y = r.leds.set c (LedgerOps.combine (r.leds.get LedgerOps.zero c) (a.term y form mark)) := by
  cases form with
  | packed w => simp [AddFlit.contributed, AddFlit.ledgers, h, LedgerOps.isFull]
  | full v =>
    have hsecond := hlast.resolve_left (by simp [LedgerOps.isFull])
    simp [AddFlit.contributed, AddFlit.ledgers, h, hsecond]

end

/-- A slot's flit is its last, or the first of a full slot. -/
theorem slot_cases (a : AddFlit) (form : LedgerOps.Form) :
    (LedgerOps.isFull form = false ∨ a.second = true) ∨ a.second = false ∧ ∃ v, form = .full v := by
  cases form with
  | packed w => exact .inl (.inl rfl)
  | full v =>
    cases hsecond : a.second with
    | true => exact .inl (.inr rfl)
    | false => exact .inr ⟨rfl, v, rfl⟩

theorem guild_ite_raise (s : State) (p : Prop) [Decidable p] (code : Nat) (ws : List Word) (g : Nat) :
    (if p then s.raise code ws else s).guild g = s.guild g := by split <;> rfl

theorem guild_countUnit (s : State) (u i n g : Nat) : (s.countUnit u i n).guild g = s.guild g := by
  unfold State.countUnit
  dsimp only
  split_ifs <;> rfl

section
variable {s : State} {g : Nat} {a : AddFlit} {rest : List AddFlit} {r : RowBuffer} {y : Contributor}
  (hadds : (s.guild g).adds = a :: rest) (hrow : (s.guild g).row a.set a.off = some r)
  (hwho : r.who.find? (fun w => w.core = a.core) = some y)
include hadds hrow

theorem addSlot_of_bytes {off : Nat} {bs : List (Byte × Bool)} (hflit : a.flit = .bytes off bs) :
    (s.addSlot g).guild g = { s.guild g with adds := rest } := by
  simp only [State.addSlot, hadds, hrow, hflit, State.guild_setGuild]

theorem addSlot_of_header {off n mask : Nat} {mark : Bool} (hflit : a.flit = .header off n mask mark) :
    (s.addSlot g).guild g = (s.guild g).took rest r a.core (fun w => { w with header := true, bad := mark || a.mark }) r.leds := by
  simp only [State.addSlot, hadds, hrow, hflit, State.guild_setGuild]
  rfl

theorem addSlot_of_first {off c : Nat} {v : BitVec 640} {mark : Bool} (hflit : a.flit = .slot off c (.full v) mark)
    (hsecond : a.second = false) :
    (s.addSlot g).guild g = (s.guild g).took rest r a.core (fun w => { w with low := (v.setWidth 512, mark || a.mark) }) r.leds := by
  simp only [State.addSlot, hadds, hrow, hflit, hsecond, LedgerOps.isFull, Bool.not_false, Bool.and_true, if_true, State.guild_setGuild]
  rfl

include hwho

theorem addSlot_of_slot {off c : Nat} {form : LedgerOps.Form} {mark : Bool} (hflit : a.flit = .slot off c form mark)
    (hlast : LedgerOps.isFull form = false ∨ a.second = true) :
    (s.addSlot g).guild g = (s.guild g).took rest r a.core (fun w => { w with delivered := w.delivered + 1 })
      (r.leds.set c (LedgerOps.combine (r.leds.get LedgerOps.zero c) (a.term y form mark))) := by
  have last : (LedgerOps.isFull form && !a.second) = false := by simpa [imp_iff_not_or] using hlast
  simp only [State.addSlot, hadds, hrow, hflit, last, hwho, Option.getD_some, Bool.false_eq_true, if_false]
  refine (guild_countUnit ..).trans ((guild_ite_raise ..).trans ((State.guild_setGuild ..).trans ?_))
  cases form <;> rfl

end

theorem took_adds {s : State} {g : Nat} {a : AddFlit} {rest : List AddFlit} {r : RowBuffer} {y : Contributor}
    {f : Contributor → Contributor} {l : Tab Ledger} (hrow : (s.guild g).row a.set a.off = some r)
    (hwho : r.who.find? (fun w => w.core = a.core) = some y) (h : (s.addSlot g).guild g = (s.guild g).took rest r a.core f l)
    (hf : ∀ w, (f w).core = w.core) :
    ∃ r', ((s.addSlot g).guild g).adds = rest ∧ ((s.addSlot g).guild g).row a.set a.off = some r' ∧
      r'.who.find? (fun w => w.core = a.core) = some (f y) ∧ r'.leds = l := by
  rw [h]
  exact ⟨_, rfl, took_row hrow rest a.core f l, find_contributor hwho hf, rfl⟩

/-- The flit at the front of a guild's ledger adders is added to its row. -/
theorem addSlot_adds {s : State} {g : Nat} {a : AddFlit} {rest : List AddFlit} {r : RowBuffer} {y : Contributor}
    (hadds : (s.guild g).adds = a :: rest) (hrow : (s.guild g).row a.set a.off = some r)
    (hwho : r.who.find? (fun w => w.core = a.core) = some y) :
    ∃ r', ((s.addSlot g).guild g).adds = rest ∧ ((s.addSlot g).guild g).row a.set a.off = some r' ∧
      r'.who.find? (fun w => w.core = a.core) = some (a.contributed y) ∧ r'.leds = a.ledgers r y := by
  cases hflit : a.flit with
  | bytes off bs =>
    obtain ⟨hcontributed, hledgers⟩ := taken_of_bytes r y hflit
    rw [hcontributed, hledgers, addSlot_of_bytes hadds hrow hflit]
    exact ⟨r, rfl, hrow, hwho, rfl⟩
  | header off n mask mark =>
    obtain ⟨hcontributed, hledgers⟩ := taken_of_header r y hflit
    rw [hcontributed, hledgers]
    exact took_adds hrow hwho (addSlot_of_header hadds hrow hflit) fun _ => rfl
  | slot off c form mark =>
    obtain hlast | ⟨hsecond, v, rfl⟩ := slot_cases a form
    · obtain ⟨hcontributed, hledgers⟩ := taken_of_slot r y hflit hlast
      rw [hcontributed, hledgers]
      exact took_adds hrow hwho (addSlot_of_slot hadds hrow hwho hflit hlast) fun _ => rfl
    · obtain ⟨hcontributed, hledgers⟩ := taken_of_first r y hflit hsecond
      rw [hcontributed, hledgers]
      exact took_adds hrow hwho (addSlot_of_first hadds hrow hflit hsecond) fun _ => rfl

theorem exec_reduceSlotAdd (s : State) (g : GuildId) : exec (.reduceSlotAdd g) s = .next (s.addSlot g) := rfl

end Sys2Proof.Machine
end

section
/-! The sums of a complete row (R320): the accesses that carry them enter the fabric one after another, each to a target core of its
guild. -/

namespace Sys2Proof.Machine

/-! ### What an access that sets out counts (R464) -/

/-- The module with what counting along paths changes taken from `y`. -/
def State.withCounts (s y : State) : State :=
  { s with nextIssue := y.nextIssue, free := y.free, unitCounters := y.unitCounters, bwNow := y.bwNow }

/-- From `s` to `t` ports and units have counted, and nothing else has changed. -/
def Counted (s t : State) : Prop := t = s.withCounts t

namespace Counted

theorem refl (s : State) : Counted s s := rfl

theorem trans {s t u : State} (h : Counted s t) (h' : Counted t u) : Counted s u := by
  unfold Counted at h h' ⊢
  rw [h] at h'
  exact h'

theorem ite {s t u : State} {p : Prop} [Decidable p] (h : Counted s t) (h' : Counted s u) : Counted s (if p then t else u) := by
  split <;> assumption

/-- What no counting changes reads as before. -/
theorem read {s t : State} {β : Type} (h : Counted s t) (f : State → β)
    (hf : ∀ s y, f (State.withCounts s y) = f s := by exact fun _ _ => rfl) : f t = f s :=
  (congrArg f h).trans (hf s t)

end Counted

section
variable (s : State)

theorem countUnit_counted (u i n : Nat) : Counted s (s.countUnit u i n) := by
  unfold State.countUnit
  exact .ite (.refl s) (.ite rfl rfl)

theorem portBusy_counted (u i : Nat) : Counted s (s.portBusy u i) :=
  Counted.trans (t := { s with free := s.free + 1 }) rfl (countUnit_counted _ _ _ _)

theorem countPath_counted (g pin h pout bytes : Nat) : Counted s (s.countPath g pin h pout bytes) := by
  have crossed : Counted s ((pathOf g pin h pout).foldl (fun (s : State) x =>
      (s.countUnit x.1 (0x301 + 2 * x.2.1) bytes).countUnit x.1 (0x300 + 2 * x.2.2) bytes) s) :=
    List.foldlRecOn _ _ (.refl s) fun _ ht _ _ => ht.trans ((countUnit_counted _ _ _ _).trans (countUnit_counted _ _ _ _))
  have left := Counted.ite (p := pin < 53) crossed (crossed.trans (portBusy_counted _ g (0x101 + 2 * pin)))
  have came := Counted.ite (p := pout < 53) left (left.trans (portBusy_counted _ h (0x100 + 2 * pout)))
  exact .ite came (came.trans (countUnit_counted _ _ _ _))

theorem depart_counted (x : Txn) (l : Loc) (link : Nat) : Counted s (s.depart x l link).2 :=
  Counted.trans (t := { s with nextIssue := s.nextIssue + 1 }) rfl (countPath_counted _ _ _ _ _ _)

end

/-! ### A write to a core's local store enters the fabric -/

/-- An access in its new phase: it is still the write of the same bytes to the same target. -/
structure SameWrite (x y : Txn) : Prop where
  id : y.id = x.id
  target : y.target = x.target
  runs : y.runs = x.runs

/-- From `s` to `m` the pool, the guilds and the fenced units are as they were. -/
structure PoolKept (s m : State) : Prop where
  txns : m.txns = s.txns
  nextTxn : m.nextTxn = s.nextTxn
  guilds : m.guilds = s.guilds
  house : m.house = s.house

theorem send_toCore (s : State) (x : Txn) (c o : Nat) :
    ∃ m y, s.send x (.ls c o) 0 = m.putTxn y ∧ SameWrite x y ∧ PoolKept s m ∧ m.occurrences = s.occurrences := by
  have counted := depart_counted s x (.ls c o) 0
  have sent : s.send x (.ls c o) 0 = (s.depart x (.ls c o) 0).2.putTxn (s.depart x (.ls c o) 0).1 := ite_id _
  exact ⟨_, _, sent, ⟨rfl, rfl, rfl⟩, ⟨counted.read (·.txns), counted.read (·.nextTxn), counted.read (·.guilds), counted.read (·.house)⟩,
    counted.read (·.occurrences)⟩

theorem translate_toCore {s : State} {x : Txn} {c o : Nat} (hformed : x.malformed = false) (hwrite : x.write = true)
    (htarget : x.target = .core c o) :
    ∃ m y, s.translate x = m.putTxn y ∧ SameWrite x y ∧ PoolKept s m ∧ (s.fenced c = false → m.occurrences = s.occurrences) := by
  have acts : s.translate x = s.act x (if s.fenced c then .refuse 2 else .go (.ls c o) false) := by
    simp only [State.translate, hformed, htarget, Bool.false_eq_true, if_false]
  rw [acts]
  cases hfenced : s.fenced c with
  | true =>
    refine ⟨s.refusedEvent x.master 2 x.addr, { x with phase := .done 2, poison := true }, ?_, ⟨rfl, rfl, rfl⟩, ⟨rfl, rfl, rfl, rfl⟩,
      nofun⟩
    simp [State.act, State.spoil, hwrite]
  | false =>
    obtain ⟨m, y, hsend, ⟨hid, htarget', hruns⟩, kept, hocc⟩ := send_toCore s { x with poison := x.poison || (false && !x.write) } c o
    exact ⟨m, y, hsend, ⟨hid, htarget', hruns⟩, kept, fun _ => hocc⟩

/-! ### The pool with accesses that have entered the fabric as they joined it -/

/-- An access joins the pool and enters the fabric at once. -/
def State.enter (s : State) (x : Txn) : State := (s.addTxn { x with id := s.nextTxn }).translate { x with id := s.nextTxn }

/-- The place an access names and the bytes it writes there. -/
def Txn.bytesTo (x : Txn) : Target × Runs := (x.target, x.runs)

/-- From `s` to `t` writes `ts` have joined the pool and entered the fabric. -/
structure Entered (s t : State) (ts : List Txn) : Prop where
  pool : ∃ old new, t.txns = old ++ new ∧ old.length = s.txns.length ∧ new.map Txn.bytesTo = ts.map Txn.bytesTo ∧
    ∀ y ∈ new, y.id < t.nextTxn
  nextTxn : t.nextTxn = s.nextTxn + ts.length
  old : ∀ m < s.nextTxn, t.txn m = s.txn m
  guilds : t.guilds = s.guilds
  house : t.house = s.house

theorem txn_putTxn_of_ne (s : State) {y : Txn} {m : Nat} (h : m ≠ y.id) : (s.putTxn y).txn m = s.txn m := by
  have same : ((fun u : Txn => decide (u.id = m)) ∘ fun u => if u.id = y.id then y else u) = fun u => decide (u.id = m) := by
    funext u
    by_cases hu : u.id = y.id <;> simp [hu]
  have kept : (s.txn m).map (fun u => if u.id = y.id then y else u) = s.txn m := by
    cases hm : s.txn m with
    | none => rfl
    | some u =>
      have hu : u.id = m := by simpa using List.find?_some hm
      rw [Option.map_some, if_neg fun hy => h (hu.symm.trans hy)]
  rw [State.txn, State.putTxn, List.find?_map, same]
  exact kept

theorem txn_addTxn_of_ne (s : State) (x : Txn) {m : Nat} (h : m ≠ s.nextTxn) : (s.addTxn x).txn m = s.txn m := by
  simp [State.txn, List.find?_append, Ne.symm h]

section
variable {s t : State} {ts : List Txn} {x : Txn} {c o : Nat} (hformed : x.malformed = false) (hwrite : x.write = true)
  (htarget : x.target = .core c o)
include hformed hwrite htarget

theorem enter_eq (t : State) : ∃ m y, t.enter x = m.putTxn y ∧ y.id = t.nextTxn ∧ y.bytesTo = x.bytesTo ∧
    PoolKept (t.addTxn x) m ∧ (t.fenced c = false → m.occurrences = t.occurrences) := by
  obtain ⟨m, y, htranslate, ⟨hid, htarget', hruns⟩, kept, hocc⟩ :=
    translate_toCore (s := t.addTxn x) (x := { x with id := t.nextTxn }) hformed hwrite htarget
  exact ⟨m, y, htranslate, hid, congrArg₂ Prod.mk htarget' hruns, kept, hocc⟩

theorem enter_entered (h : Entered s t ts) : Entered s (t.enter x) (ts ++ [x]) := by
  obtain ⟨⟨old, new, htxns, hold, hnew, hids⟩, hnext, hfind, hguilds, hhouse⟩ := h
  obtain ⟨m, y, entered, hid, hbytes, ⟨mtxns, mnext, mguilds, mhouse⟩, -⟩ := enter_eq hformed hwrite htarget t
  rw [entered]
  have next : (m.putTxn y).nextTxn = t.nextTxn + 1 := mnext
  refine ⟨⟨old.map (fun u => if u.id = y.id then y else u), new ++ [y], ?_, ?_, ?_, ?_⟩, ?_, fun n hn => ?_, ?_, ?_⟩
  · have kept : new.map (fun u => if u.id = y.id then y else u) = new :=
      (List.map_congr_left fun u hu => if_neg (hid ▸ (hids u hu).ne)).trans (List.map_id' _)
    rw [State.putTxn, mtxns, State.addTxn_txns, htxns, ← hid]
    simp [kept]
  · rw [List.length_map, hold]
  · simp [hnew, hbytes]
  · intro u hu
    rw [next]
    obtain hu | hu := List.mem_append.1 hu
    · exact Nat.lt_succ_of_lt (hids u hu)
    · rw [List.mem_singleton.1 hu, hid]
      exact Nat.lt_succ_self _
  · rw [next, hnext, List.length_append]
    rfl
  · have ne : n ≠ t.nextTxn := by omega
    have pooled : m.txn n = (t.addTxn x).txn n := congrArg (List.find? _) mtxns
    rw [txn_putTxn_of_ne m (hid ▸ ne), pooled, txn_addTxn_of_ne t x ne, hfind n hn]
  · exact mguilds.trans hguilds
  · exact mhouse.trans hhouse

theorem enter_occurrences (hfenced : t.fenced c = false) : (t.enter x).occurrences = t.occurrences := by
  obtain ⟨m, y, entered, -, -, -, hocc⟩ := enter_eq hformed hwrite htarget t
  rw [entered]
  exact hocc hfenced

end

/-- The access is a well-formed write to the local store of core `c`. -/
def Txn.toCore (x : Txn) (c : Nat) : Prop := x.malformed = false ∧ x.write = true ∧ ∃ o, x.target = .core c o

theorem toCore_inj {x : Txn} {c d : Nat} (h : x.toCore c) (h' : x.toCore d) : c = d := by
  obtain ⟨-, -, o, hc⟩ := h
  obtain ⟨-, -, p, hd⟩ := h'
  exact (Target.core.inj (hc.symm.trans hd)).1

theorem foldl_enter (s : State) (ts : List Txn) (h : ∀ x ∈ ts, ∃ c, x.toCore c) :
    Entered s (ts.foldl State.enter s) ts ∧
      ((∀ x ∈ ts, ∀ c, x.toCore c → s.fenced c = false) → (ts.foldl State.enter s).occurrences = s.occurrences) := by
  induction ts using List.reverseRecOn with
  | nil =>
    have pool : s.txns = s.txns ++ [] := (List.append_nil _).symm
    exact ⟨⟨⟨s.txns, [], pool, rfl, rfl, fun _ hy => absurd hy List.not_mem_nil⟩, rfl, fun _ _ => rfl, rfl, rfl⟩, fun _ => rfl⟩
  | append_singleton ts x ih =>
    obtain ⟨entered, occurrences⟩ := ih fun y hy => h y (List.mem_append_left _ hy)
    have last : x ∈ ts ++ [x] := List.mem_append_right _ (List.mem_singleton_self x)
    obtain ⟨c, hformed, hwrite, o, htarget⟩ := h x last
    rw [List.foldl_concat]
    refine ⟨enter_entered hformed hwrite htarget entered, fun hfree => ?_⟩
    have free : (ts.foldl State.enter s).fenced c = s.fenced c := congrArg (fun y : House => y.fencedCores.contains c) entered.house
    rw [enter_occurrences hformed hwrite htarget (free.trans (hfree x last c ⟨hformed, hwrite, o, htarget⟩))]
    exact occurrences fun y hy => hfree y (List.mem_append_left _ hy)

/-! ### A complete row (R320) -/

/-- The flits of a row's sums and of its header, `form c` being the form of slot `c`. -/
def sumFlits (off n : Nat) (form : Nat → LedgerOps.Form) : List (List Flit × Bool) :=
  wireSlots off n form (fun _ _ _ => false) ++ [([Flit.header off n (maskOf (fun c => LedgerOps.isFull (form c)) n) false], false)]

/-- The form in which a row's sum of slot `c` travels. -/
def RowBuffer.form (r : RowBuffer) (c : Nat) : LedgerOps.Form := LedgerOps.toForm (r.leds.get LedgerOps.zero c)

/-- The access that carries flit `w` of the sums to the target core `c`, each numbered. -/
def State.sumTxn (s : State) (g : Nat) (c : Nat × Nat) (w : (List Flit × Bool) × Nat) : Txn :=
  { id := 0, src := .adder g, owner := 0, master := masterId 5 g, cls := 2, write := true, checked := true,
    target := .core c.1 (flitBase w.1.2 w.1.1), runs := flitRuns w.1.2 w.1.1, flits := w.1.1, second := w.1.2,
    packet := s.nextTxn + 1 + c.2, part := w.2, issue := s.nextIssue + w.2 }

/-- The accesses that carry the sums to every target. -/
def State.sumTxns (s : State) (g : Nat) (cs : List Nat) (fs : List (List Flit × Bool)) : List Txn :=
  cs.zipIdx.flatMap (fun c => fs.zipIdx.map (s.sumTxn g c))

theorem sumTxns_bytesTo (s : State) (g : Nat) (cs : List Nat) (fs : List (List Flit × Bool)) :
    (s.sumTxns g cs fs).map Txn.bytesTo =
      cs.flatMap (fun c => fs.map (fun w => (Target.core c (flitBase w.2 w.1), flitRuns w.2 w.1))) := by
  have each (c : Nat × Nat) : (fs.zipIdx.map (s.sumTxn g c)).map Txn.bytesTo =
      fs.map (fun w => (Target.core c.1 (flitBase w.2 w.1), flitRuns w.2 w.1)) := by
    conv_rhs => rw [← List.zipIdx_map_fst 0 fs]
    rw [List.map_map, List.map_map]
    rfl
  conv_rhs => rw [← List.zipIdx_map_fst 0 cs]
  rw [State.sumTxns, List.map_flatMap, List.flatMap_map]
  exact congrArg (List.flatMap · _) (funext each)

theorem mem_sumTxns {s : State} {g : Nat} {cs : List Nat} {fs : List (List Flit × Bool)} {x : Txn} (h : x ∈ s.sumTxns g cs fs) :
    ∃ c ∈ cs, x.toCore c := by
  obtain ⟨c, hc, hx⟩ := List.mem_flatMap.1 h
  obtain ⟨w, -, rfl⟩ := List.mem_map.1 hx
  exact ⟨c.1, List.fst_mem_of_mem_zipIdx hc, rfl, rfl, _, rfl⟩

/-- The guild without the row buffer of a key. -/
def GuildSt.freed (x : GuildSt) (set off : Nat) : GuildSt :=
  { x with rows := x.rows.filter (fun (y : RowBuffer) => !(y.set = set && y.off = off)) }

theorem freed_row (x : GuildSt) (set off : Nat) : (x.freed set off).row set off = none := by
  refine List.find?_eq_none.2 fun y hy => ?_
  have other := (List.mem_filter.1 hy).2
  simpa [imp_iff_not_or] using other

/-- The module with a row buffer freed and the next `k` places in the order of issue taken. -/
def State.rowFreed (s : State) (g set off k : Nat) : State :=
  { s.setGuild g ((s.guild g).freed set off) with nextIssue := s.nextIssue + k }

theorem rowFreed_guild (s : State) (g set off k : Nat) : (s.rowFreed g set off k).guild g = (s.guild g).freed set off :=
  State.guild_setGuild s g _

theorem emitRow_of_incomplete {s : State} {g set off : Nat} {r : RowBuffer} (hrow : (s.guild g).row set off = some r)
    (h : r.complete = false) : s.emitRow g set off = s := by
  simp [State.emitRow, hrow, h]

/-- A complete row has a contributor, and so the number of slots that all of them declared. -/
theorem least_declared {who : List Contributor} {n : Nat} (hwho : who ≠ []) (hall : ∀ w ∈ who, w.declared = n) (hn : n ≤ 32) :
    who.foldl (fun m w => min m w.declared) 32 = n := by
  have from_n (l : List Contributor) (hl : ∀ w ∈ l, w.declared = n) : l.foldl (fun m w => min m w.declared) n = n :=
    List.foldlRecOn (motive := (· = n)) l _ rfl fun m hm w hw => by rw [hm, hl w hw, min_self]
  obtain ⟨w, who, rfl⟩ := List.exists_cons_of_ne_nil hwho
  rw [List.foldl_cons, hall w (List.mem_cons_self ..), min_eq_right hn]
  exact from_n who fun w hw => hall w (List.mem_cons_of_mem _ hw)

theorem contributors_of_complete {r : RowBuffer} (h : r.complete = true) : r.who ≠ [] := by
  rw [RowBuffer.complete, Bool.and_eq_true, decide_eq_true_eq] at h
  exact List.ne_nil_of_length_pos (h.1 ▸ Nat.succ_pos _)

section
variable {s : State} {g set off n : Nat} {r : RowBuffer} (hrow : (s.guild g).row set off = some r) (hcomplete : r.complete = true)
  (hall : ∀ w ∈ r.who, w.declared = n) (hn : n ≤ 32) {fs : List (List Flit × Bool)} (hfs : fs = sumFlits off n r.form)
include hrow hcomplete hall hn hfs

theorem emitRow_of_complete :
    s.emitRow g set off = (s.sumTxns g r.targets fs).foldl State.enter (s.rowFreed g set off fs.length) := by
  have least := least_declared (contributors_of_complete hcomplete) hall hn
  have agree : r.who.any (fun w => decide (w.declared ≠ n)) = false := by simpa using hall
  subst hfs
  simp only [State.emitRow, hrow, hcomplete, Bool.not_true, Bool.false_eq_true, if_false, least, agree]
  rfl

/-- A complete row's sums go to every target, and its row buffer is free. -/
theorem emitRow_emits :
    ((s.emitRow g set off).guild g).row set off = none ∧
      ((s.emitRow g set off).txns.drop s.txns.length).map Txn.bytesTo =
        r.targets.flatMap (fun c => fs.map (fun w => (Target.core c (flitBase w.2 w.1), flitRuns w.2 w.1))) ∧
      (∀ m, m < s.nextTxn → (s.emitRow g set off).txn m = s.txn m) ∧
      ((∀ c ∈ r.targets, s.fenced c = false) → (s.emitRow g set off).occurrences = s.occurrences) := by
  rw [emitRow_of_complete hrow hcomplete hall hn hfs]
  obtain ⟨⟨⟨old, new, htxns, hold, hnew, -⟩, -, kept, guilds, -⟩, quiet⟩ := foldl_enter (s.rowFreed g set off fs.length)
    (s.sumTxns g r.targets fs) fun x hx => (mem_sumTxns hx).imp fun _ => And.right
  refine ⟨?_, ?_, kept, fun hfree => quiet fun x hx c hc => ?_⟩
  · rw [State.guild, guilds, ← State.guild, rowFreed_guild]
    exact freed_row _ _ _
  · rw [htxns, List.drop_left' (i := s.txns.length) hold, hnew]
    exact sumTxns_bytesTo s g r.targets fs
  · obtain ⟨d, hd, hto⟩ := mem_sumTxns hx
    exact toCore_inj hto hc ▸ hfree d hd

end

theorem exec_rowBufferComplete (s : State) (g : GuildId) (set : Fin 256) (off : Nat) :
    exec (.rowBufferComplete g set off) s = .next (s.emitRow g set off) := rfl

end Sys2Proof.Machine
end

section
/-! Idle windows (R172), and the Draymen's descriptors: how one starts on a channel, and its completion token (R292 to R295). -/

namespace Sys2Proof.Machine

/-! ### WINDOW_IDLE (R172) -/

section
variable {e : Eff} {i gap : Nat} {w : Window} (hfind : e.k.windows.find i = some w)
include hfind

theorem windowIdle_of_quiet (hsaid : w.idleSaid = false) (hquiet : e.k.windowQuiet w gap = true) :
    e.windowIdle i gap = { e with k := { e.k with
      windows := e.k.windows.set i { w with idleSaid := true }, cycle := (e.k.cycle + gap) % 2 ^ 64 } }.raise 0x0A
        [wd (e.id + i * 2 ^ 16), wd (w.lo + w.hi * 2 ^ 32), wd w.got] := by
  simp only [Eff.windowIdle, hfind, hsaid, hquiet, Bool.not_true, Bool.false_eq_true, or_self, if_false]

theorem windowIdle_of_active (hquiet : e.k.windowQuiet w gap = false) : e.windowIdle i gap = e := by
  simp only [Eff.windowIdle, hfind, hquiet, Bool.not_false, or_true, if_true]

end

theorem onCore_coreAt_raised {s : State} {c : Nat} (hruns : s.coreRuns c = true) {f : Eff → Eff} {k : CoreSt} {o : Occurrence}
    (h : f (s.coreEff c) = ⟨c, k, [o]⟩) : CoreAt { s with occurrences := s.occurrences ++ [o] } (s.onCore c f) c k := by
  rw [onCore_eq hruns, ← State.coreEff, h]
  exact landCore_coreAt s c (Aside.refl k)

theorem exec_windowIdle (s : State) (c : CoreId) (j : Fin 32) (gap : Nat) :
    exec (.windowIdle c j gap) s = .next (s.onCore c (fun e => e.windowIdle j gap)) := rfl

/-! ### The queue of a Drayman (R281, R295) -/

theorem onDray_queue (s : State) (g id : Nat) (f : DrayDesc → DrayDesc) :
    ((s.onDray g id f).guild g).drayQueue = (s.guild g).drayQueue.map (fun d => if d.id = id then f d else d) :=
  congrArg GuildSt.drayQueue (State.guild_setGuild s g { s.guild g with
    drayQueue := (s.guild g).drayQueue.map (fun d => if d.id = id then f d else d) })

/-- The module without the descriptors of a guild's Drayman that have done everything. -/
def State.settled (s : State) (g : Nat) : State :=
  s.setGuild g { s.guild g with drayQueue := (s.guild g).drayQueue.filter (fun d => !(d.finished && (!d.token || d.tokenSent))) }

theorem settleDray_eq (s : State) (g : Nat) : ∃ cores occ, s.settleDray g = { s.settled g with cores := cores, occurrences := occ } := by
  refine List.foldlRecOn (motive := fun t : State => ∃ cores occ, t = { s.settled g with cores := cores, occurrences := occ }) _ _
    ⟨_, _, rfl⟩ fun t ht d _ => ?_
  obtain ⟨cores, occ, rfl⟩ := ht
  dsimp only
  split
  · exact ⟨_, _, rfl⟩
  · exact ⟨_, _, rfl⟩

/-- A descriptor with accesses still to perform stays. -/
theorem settleDray_keeps {s : State} {g : Nat} {q : DrayDesc} (hq : q ∈ (s.guild g).drayQueue) (hbusy : q.finished = false) :
    q ∈ ((s.settleDray g).guild g).drayQueue ∧ (s.settleDray g).txns = s.txns ∧ (s.settleDray g).nextTxn = s.nextTxn := by
  obtain ⟨cores, occ, hsettle⟩ := settleDray_eq s g
  have queue : ((s.settled g).guild g).drayQueue = _ := congrArg GuildSt.drayQueue (State.guild_setGuild s g _)
  have stays : q ∈ ((s.settled g).guild g).drayQueue := by
    rw [queue]
    exact List.mem_filter.2 ⟨hq, by simp [hbusy]⟩
  rw [hsettle]
  exact ⟨stays, rfl, rfl⟩

/-! ### A descriptor starts (R292 to R294) -/

/-- The core's step when a Drayman reads its local blocks for a descriptor: its PREFETCH waits for the Drayman no longer. -/
def Eff.drayRead (e : Eff) (q : DrayDesc) : Eff :=
  { (e.readRows q.stream) with k := ((e.readRows q.stream).k.accessDone .outbound q.op.uid).releaseReads q.op.uid }

section
variable {s : State} {g : Nat} {q : DrayDesc}
  (hfree : ((s.guild g).drayQueue.filter (fun d => d.onChannel && s.drayBusy g d)).length + min 4 (s.guild g).scrivQueue.length < 4)
  (hnext : (s.guild g).drayQueue.find? (fun d => !d.onChannel) = some q)
include hfree hnext

theorem drayStart_of_remote (hremote : q.fromCore = false) :
    s.drayStart g = ((((q.readTxns g).foldl State.addTxn s).onDray g q.id
      (fun d => { d with onChannel := true, readsLeft := (q.readTxns g).length })).settleDray g) := by
  simp only [State.drayStart, if_neg hfree.not_ge, hnext, hremote, Bool.false_eq_true, if_false]

theorem drayStart_of_local (hlocal : q.fromCore = true) (hready : s.localReady g q = true) :
    s.drayStart g = ((((q.localTxns (s.core q.core) g).foldl State.addTxn (s.atCore q.core (fun e => e.drayRead q))).onDray g q.id
      (fun d => { d with onChannel := true, writesLeft := (q.localTxns (s.core q.core) g).length })).settleDray g) := by
  simp only [State.drayStart, if_neg hfree.not_ge, hnext, hlocal, hready, if_true, Bool.not_true, Bool.false_eq_true, if_false]
  rfl

end

theorem exec_draymanDescriptorStart (s : State) (g : GuildId) : exec (.draymanDescriptorStart g) s = .next (s.drayStart g) := rfl

/-- A descriptor starts, by `f`, with accesses in the pool. -/
theorem started {s m : State} {g : Nat} {q : DrayDesc} {ts : List Txn} {f : DrayDesc → DrayDesc} (hq : q ∈ (s.guild g).drayQueue)
    (hguilds : m.guilds = s.guilds) (htxns : m.txns = s.txns) (hnext : m.nextTxn = s.nextTxn) (hbusy : (f q).finished = false) :
    let t := ((ts.foldl State.addTxn m).onDray g q.id f).settleDray g
    t.txns = s.txns ++ numbered s.nextTxn ts ∧ t.nextTxn = s.nextTxn + ts.length ∧ f q ∈ (t.guild g).drayQueue := by
  have queue : f q ∈ (((ts.foldl State.addTxn m).onDray g q.id f).guild g).drayQueue := by
    rw [onDray_queue, foldl_addTxn, State.guild, hguilds]
    exact List.mem_map.2 ⟨q, hq, if_pos rfl⟩
  obtain ⟨stays, txns, next⟩ := settleDray_keeps queue hbusy
  have pooled := foldl_addTxn m ts
  rw [htxns, hnext] at pooled
  exact ⟨txns.trans (congrArg State.txns pooled), next.trans (congrArg State.nextTxn pooled), stays⟩

/-! ### The completion token (R295) -/

/-- The bytes of a completion token: how many blocks were written, and how many of them poisoned. -/
def DrayDesc.tokenBytes (q : DrayDesc) : List Byte := natLe 8 q.copied.length ++ natLe 8 q.poisoned.length ++ List.replicate 48 0

/-- The write of a completion token. -/
def DrayDesc.tokenTxn (q : DrayDesc) (g : Nat) : Txn :=
  { id := 0, src := .drayman g, owner := q.id, master := masterId 4 q.core, cls := q.stream.tclass, write := true,
    target := .core q.core (64 * q.stream.tokLine), runs := [(0, markAll false q.tokenBytes)] }

section
variable {s : State} {g : Nat} {q : DrayDesc}

theorem drayToken_eq (h : (s.guild g).drayQueue.find? (fun d => d.finished && d.token && !d.tokenSent) = some q) :
    s.drayToken g = (s.addTxn (q.tokenTxn g)).onDray g q.id (fun d => { d with tokenSent := true, writesLeft := 1 }) := by
  simp only [State.drayToken, h]
  rfl

theorem token_unfinished (m : State) (y : DrayDesc)
    (hy : y ∈ ((m.onDray g q.id (fun d => { d with tokenSent := true, writesLeft := 1 })).guild g).drayQueue) (hid : y.id = q.id) :
    y.finished = false := by
  rw [onDray_queue] at hy
  obtain ⟨d, -, rfl⟩ := List.mem_map.1 hy
  by_cases hd : d.id = q.id
  · rw [if_pos hd]
    simp [DrayDesc.finished]
  · rw [if_neg hd] at hid
    exact absurd hid hd

end

theorem exec_draymanToken (s : State) (g : GuildId) : exec (.draymanToken g) s = .next (s.drayToken g) := rfl

/-! ### The commands -/

/-- Settles O37: a burst asks one guild after another and leaves with its last grant; a flit at the ledger adders changes its row and its
sender's contribution alone; a complete row's accesses enter the fabric in turn; a descriptor that starts has accesses to perform, so
that it stays on its channel. -/
theorem multicastAndCopies : Obligations.MulticastAndCopies := by
  refine ⟨?reserve, ?grant, ?add, ?emit, ?idle, ?start, ?token⟩
  case reserve =>
    intro s w b b' g rest hfirst hnew hset hguilds hb' hw
    obtain rfl : b' = b.asks s g := hb'
    obtain rfl : w = s.withAsking (b.asks s g) := hw
    have asking : (b.asks s g).asking = some g := rfl
    rw [exec_mcastReserve, mcastReserve_eq hfirst hnew hset hguilds]
    refine ⟨_, rfl, fun hcast hroom hturn => ?_, fun hcast hfull => askGrant_of_full asking hcast hfull,
      fun hreduce hjoin => askGrant_of_not_mayJoin (s := s.withAsking (b.asks s g)) asking hreduce hjoin,
      fun hreduce hjoin => askGrant_joins (s := s.withAsking (b.asks s g)) asking hreduce hjoin⟩
    rw [askGrant_of_room asking hcast hroom hturn]
    exact granted_eq (s.withAsking (b.asks s g)) (b.asks s g) g
  case grant =>
    intro s b b' g hburst hcoming hb'
    obtain rfl : b' = b.holds g := hb'
    refine ⟨_, exec_mcastGrant s b.id, fun h rest hnext => mcastGrant_of_next hburst hcoming hnext, fun hlast ts hts hgo => ?_⟩
    rw [mcastGrant_of_last hburst hcoming hlast]
    exact lastGrant_leaves hts hgo
  case add =>
    intro s g a rest r y hadds hrow hwho
    obtain ⟨r', hadds', hrow', hwho', hleds⟩ := addSlot_adds hadds hrow hwho
    refine ⟨_, r', a.contributed y, exec_reduceSlotAdd s g, hadds', hrow', hwho', fun off n mask mark hflit => ?header,
      fun off c v mark hflit hsecond => ?first, fun off c form mark hflit hlast => ?slot⟩
    case header => exact (taken_of_header r y hflit).symm.imp hleds.trans id
    case first => exact (taken_of_first r y hflit hsecond).symm.imp hleds.trans id
    case slot =>
      obtain ⟨hcontributed, hledgers⟩ := taken_of_slot r y hflit hlast
      refine ⟨hcontributed, fun j => ?_⟩
      rw [hleds, hledgers, Tab.get_set, term_eq]
      cases form <;> rfl
  case emit =>
    intro s g set off n r hrow
    refine ⟨fun h => ?_, fun hcomplete hall hn => ?_⟩
    · rw [exec_rowBufferComplete, emitRow_of_incomplete hrow h]
    · obtain ⟨gone, bytes, kept, quiet⟩ := emitRow_emits hrow hcomplete hall hn rfl
      exact ⟨_, _, exec_rowBufferComplete s g set off, gone, (maskOf_testBit _ n).2, bytes, kept, quiet⟩
  case idle =>
    intro s c j gap w hruns hfind hsaid
    refine ⟨fun hquiet => ⟨_, exec_windowIdle s c j gap, ?_⟩, fun hactive => ⟨_, exec_windowIdle s c j gap, ?_⟩⟩
    · exact onCore_coreAt_raised hruns (windowIdle_of_quiet (e := s.coreEff c) hfind hsaid hquiet)
    · exact onCore_coreAt_of_eq hruns (windowIdle_of_active (e := s.coreEff c) hfind hactive) rfl (.refl _)
  case start =>
    intro s g q ts hfree hnext hready hts hsome
    have queued := List.mem_of_find?_eq_some hnext
    have busy : ts.length ≠ 0 := mt List.length_eq_zero_iff.1 hsome
    refine ⟨_, exec_draymanDescriptorStart s g, ?_⟩
    cases hlocal : q.fromCore with
    | true =>
      obtain rfl : ts = q.localTxns (s.core q.core) g := hts.trans (if_pos hlocal)
      rw [drayStart_of_local hfree hnext hlocal (hready hlocal)]
      exact started queued rfl rfl rfl (by simp [DrayDesc.finished, busy])
    | false =>
      obtain rfl : ts = q.readTxns g := hts.trans (if_neg (by simp [hlocal]))
      rw [drayStart_of_remote hfree hnext hlocal]
      exact started queued rfl rfl rfl (by simp [DrayDesc.finished, busy])
  case token =>
    rintro s g q bs hnext rfl
    rw [exec_draymanToken, drayToken_eq hnext]
    exact ⟨_, _, rfl, rfl, rfl, rfl, rfl, rfl, rfl, token_unfinished _⟩

end Sys2Proof.Machine
end

section
/-! Entries of the row reducer (R197 to R200, R203, R215): how RCLEAR, RSUM, RSUMSQ, RDOT, RMAX and RSETREF change them one after
another, and the row that ROUT writes of them. -/

namespace Sys2Proof.Machine

open Numbers

/-! ### Entries set one after another (R197) -/

/-- The entries of `k'` are those of `k`, but that each of the `n` entries from `base` on is `new i` of what it was, `i` its place
among them. -/
def EntriesSet (base : Nat) (new : Nat → Reducer → Reducer) (k : CoreSt) (n : Nat) (k' : CoreSt) : Prop :=
  ∀ m, k'.red m = if base ≤ m ∧ m < base + n then new (m - base) (k.red m) else k.red m

namespace EntriesSet

variable {base n : Nat} {new : Nat → Reducer → Reducer} {k k' k'' : CoreSt}

theorem zero (base : Nat) (new : Nat → Reducer → Reducer) (k : CoreSt) : EntriesSet base new k 0 k := by
  intro m
  rw [if_neg (by omega)]

theorem outside (h : EntriesSet base new k n k') {m : Nat} (hm : m < base ∨ base + n ≤ m) : k'.red m = k.red m := by
  rw [h m, if_neg (by omega)]

theorem inside (h : EntriesSet base new k n k') {i : Nat} (hi : i < n) : k'.red (base + i) = new i (k.red (base + i)) := by
  rw [h, if_pos (by omega), Nat.add_sub_cancel_left]

theorem succ (h : EntriesSet base new k n k')
    (hnext : ∀ m, k''.red m = if m = base + n then new n (k'.red (base + n)) else k'.red m) :
    EntriesSet base new k (n + 1) k'' := by
  intro m
  rw [hnext, h.outside (.inr le_rfl), h m]
  by_cases here : m = base + n
  · rw [if_pos here, if_pos (by omega), here, Nat.add_sub_cancel_left]
  · rw [if_neg here]
    exact if_congr (by omega) rfl rfl

end EntriesSet

theorem red_setRed (e : Eff) (n : Nat) (r : Reducer) (m : Nat) : (e.setRed n r).k.red m = if m = n then r else e.k.red m :=
  Tab.get_set ..

/-- From `b` to `e` only the reducer's entries and the counters have changed. -/
def Reduced (b e : Eff) : Prop := ∃ rs g, e = { b with k := { b.k with reducer := rs, gauger := g } }

namespace Reduced

variable {b e e' : Eff}

theorem refl (e : Eff) : Reduced e e := ⟨_, _, rfl⟩

theorem trans (h : Reduced b e) (h' : Reduced e e') : Reduced b e' := by
  obtain ⟨_, _, rfl⟩ := h
  obtain ⟨_, _, rfl⟩ := h'
  exact ⟨_, _, rfl⟩

theorem setRed (h : Reduced b e) (n : Nat) (r : Reducer) : Reduced b (e.setRed n r) := h.trans ⟨_, _, rfl⟩

theorem trfElem (h : Reduced b e) : e.k.trfElem = b.k.trfElem := by
  obtain ⟨_, _, rfl⟩ := h
  rfl

/-- The frame of reads of the TRF followed by changes of entries. -/
theorem frame (h : Reduced e e') (hread : TrfRead b e) :
    e'.k = { b.k with trf := e'.k.trf, reducer := e'.k.reducer, gauger := e'.k.gauger } ∧ e'.k.trf.data = b.k.trf.data ∧
      e'.id = b.id ∧ e'.occ = b.occ := by
  obtain ⟨_, _, rfl, hdata⟩ := hread
  obtain ⟨_, _, rfl⟩ := h
  exact ⟨rfl, hdata, rfl, rfl⟩

end Reduced

theorem TrfRead.red {b e : Eff} (h : TrfRead b e) : e.k.red = b.k.red := by
  obtain ⟨_, _, rfl, -⟩ := h
  rfl

/-- Row `i` of an operation changes entry `base + i`, by a function `g` of the elements of the TRF. -/
structure ChangesEntries (base : Nat) (g : CoreSt → Nat → Reducer → Reducer) (step : Eff → Nat → Eff) : Prop where
  elements : ∀ {k k' : CoreSt}, k.trfElem = k'.trfElem → g k = g k'
  frame : ∀ e i, Reduced e (step e i)
  entry : ∀ e i m, (step e i).k.red m = if m = base + i then g e.k i (e.k.red (base + i)) else e.k.red m

/-- Rows in turn after reads of the TRF: each entry is changed once, by the elements as they stay. -/
theorem ChangesEntries.rows {base : Nat} {g : CoreSt → Nat → Reducer → Reducer} {step : Eff → Nat → Eff}
    (h : ChangesEntries base g step) {b start e : Eff} (hread : TrfRead b start) {n : Nat} (he : e = (List.range n).foldl step start) :
    Reduced start e ∧ EntriesSet base (g e.k) b.k n e.k := by
  have pass : Reduced start e ∧ EntriesSet base (g start.k) start.k n e.k := by
    rw [he]
    refine foldl_range_invariant (fun n (e : Eff) => Reduced start e ∧ EntriesSet base (g start.k) start.k n e.k)
      ⟨.refl start, .zero base _ start.k⟩ ?_
    rintro i e - ⟨hframe, hset⟩
    refine ⟨hframe.trans (h.frame e i), hset.succ fun m => ?_⟩
    rw [h.entry, h.elements hframe.trfElem]
  obtain ⟨hframe, hset⟩ := pass
  refine ⟨hframe, fun m => ?_⟩
  rw [hset m, h.elements hframe.trfElem, hread.red]

/-! ### RCLEAR (R197) -/

theorem rclear_entries (b : Eff) (v : VecOp) :
    ∃ rs, b.rclear v = { b with k := { b.k with reducer := rs } } ∧
      EntriesSet v.e0 (fun _ _ => {}) b.k (wField v.s0 5 0 + 1) { b.k with reducer := rs } := by
  refine foldl_range_invariant (fun n (e : Eff) => ∃ rs, e = { b with k := { b.k with reducer := rs } } ∧
    EntriesSet v.e0 (fun _ _ => {}) b.k n { b.k with reducer := rs }) ⟨_, rfl, .zero v.e0 _ b.k⟩ ?_
  rintro i _ - ⟨rs, rfl, hset⟩
  exact ⟨_, rfl, hset.succ fun m => Tab.get_set ..⟩

/-! ### Sums of a row (R199, R215) -/

/-- An entry to which the terms of a row have been added. -/
def Reducer.plus (r : Reducer) (ts : List Ledger) : Reducer :=
  { r with led := ts.foldl LedgerOps.combine r.led, count := satCount r.count ts.length }

/-- The terms of row `i` of the operation of code `op`. -/
def reduceTerms (op : Nat) (v : VecOp) (k : CoreSt) (i : Nat) : List Ledger := (List.range v.e).map (reduceTerm op v k i)

theorem plus_reduceTerms (r : Reducer) (op : Nat) (v : VecOp) (k : CoreSt) (i : Nat) :
    r.plus (reduceTerms op v k i) = { r with
      led := ((List.range v.e).map (reduceTerm op v k i)).foldl LedgerOps.combine r.led, count := min (r.count + v.e) (2 ^ 24) } := by
  simp only [Reducer.plus, reduceTerms, satCount, List.length_map, List.length_range]

/-- Row `i` of a sum, its terms taken `lanes` a cycle. -/
def Eff.sumRow (op lanes : Nat) (v : VecOp) (e : Eff) (i : Nat) : Eff := e.fold (v.e0 + i) lanes (reduceTerms op v e.k i)

theorem sumRow_changes (op lanes : Nat) (v : VecOp) :
    ChangesEntries v.e0 (fun k i r => r.plus (reduceTerms op v k i)) (Eff.sumRow op lanes v) where
  elements h := by
    funext i r
    unfold reduceTerms reduceTerm
    rw [h]
  frame _ _ := ⟨_, _, rfl⟩
  entry _ _ _ := red_setRed ..

/-- The operation reads the TRF and then adds the terms of each row to its entry. -/
def SumsRows (op : Nat) (v : VecOp) (b e : Eff) : Prop :=
  ∃ start lanes, TrfRead b start ∧ e = (List.range v.dst.rows).foldl (Eff.sumRow op lanes v) start

theorem rsum_sumsRows (b : Eff) (v : VecOp) : SumsRows 0x21 v b (b.rsum v false) :=
  ⟨_, _, (touchTrfOp_read b v.dst).trans (rows_read _ v.dst.rows), rfl⟩

theorem rsumsq_sumsRows (b : Eff) (v : VecOp) : SumsRows 0x22 v b (b.rsum v true) := by
  refine ⟨_, _, TrfRead.trans ?_ (rows_read _ v.dst.rows), rfl⟩
  split
  · exact (touchTrfOp_read b v.dst).trans (touchTrfOp_read _ _)
  · exact touchTrfOp_read b v.dst

theorem rdot_sumsRows (b : Eff) (v : VecOp) : SumsRows 0x50 v b (b.rdot v) :=
  ⟨_, _, ((touchTrfOp_read b v.dst).trans (touchTrfOp_read _ _)).trans (rows_read _ v.dst.rows), rfl⟩

/-! ### RMAX (R199) -/

/-- The maximum `m` after the elements of row `i`; a poisoned element counts as the canonical NaN (log 10). -/
def rowMax (v : VecOp) (k : CoreSt) (i m : Nat) : Nat :=
  (List.range v.e).foldl (fun m j =>
    let x := k.trfElem v.dst i j
    fmax m (if x.2 then Fmt.nanCode .fp32 else fp32 x.1)) m

/-- Row `i` of RMAX. -/
def Eff.maxRow (v : VecOp) (e : Eff) (i : Nat) : Eff :=
  let r := e.k.red (v.e0 + i)
  e.setRed (v.e0 + i) { r with max := rowMax v e.k i r.max }

theorem maxRow_changes (v : VecOp) : ChangesEntries v.e0 (fun k i r => { r with max := rowMax v k i r.max }) (Eff.maxRow v) where
  elements h := by
    funext i r
    simp only [rowMax, h]
  frame e _ := (Reduced.refl e).setRed _ _
  entry _ _ _ := red_setRed ..

theorem rmax_eq (b : Eff) (v : VecOp) :
    b.rmax v = (List.range v.dst.rows).foldl (Eff.maxRow v) ((b.touchTrfOp v.dst).rows v.dst.rows) := rfl

/-! ### ROUT (R198, R200) -/

/-- Steps that leave the core as it is. -/
theorem foldl_core {α : Type} {f : Eff → α → Eff} (hf : ∀ e a, (f e a).k = e.k) (l : List α) (e : Eff) : (l.foldl f e).k = e.k :=
  List.foldlRecOn (motive := fun x : Eff => x.k = e.k) l f rfl fun x hx a _ => (hf x a).trans hx

/-- The results of ROUT, entry by entry, before they are rounded. -/
def routed (v : VecOp) (k : CoreSt) : List (Elem × Bool) :=
  (List.range v.dst.rows).map (fun j => routElem (wField v.s2 2 0) (wField v.s2 63 32) (k.red (v.e0 + j)))

theorem rout_core (b : Eff) (o : MicroOp) (v : VecOp) :
    (b.rout o v).k = ((b.writeTrf (v.entryRow.addr b.k.tiles 0)
      (packRow 32 ((routed v b.k).map (fun x => (outElem .fp32 .rne x.1.1 x.1.2).1)))).rows 1).k := by
  have overflows := foldl_core (f := fun (e : Eff) (x : (Elem × Bool) × Nat) =>
    if x.1.2 then e.raise 0x05 [locus e.id o, wd o.inv, wd (2 ^ 24 + (v.e0 + x.2) * 256)] else e)
    (fun e x => by split <;> rfl) ((routed v b.k).zip (List.range v.dst.rows)) b
  unfold Eff.rout
  dsimp only
  rw [← routed, foldl_core (f := fun (e : Eff) (_ : Nat) => e.raise 0x10 [locus e.id o, wd o.inv]) fun _ _ => rfl, List.map_map]
  simp only [Eff.rows, Eff.count, Eff.writeTrf, overflows]
  rfl

/-! ### RSETREF (R203) -/

/-- Can entry `e0 + j` take element `j` of the row as its reference? -/
def refFits (v : VecOp) (k : CoreSt) (j : Nat) : Bool :=
  let x := k.trfElem v.entryRow 0 j
  !x.2 && !x.1.isNonFinite && decide (-32768 ≤ floorVal x.1) && decide (floorVal x.1 ≤ 32767)

/-- The entry with its reference set, where it can be. -/
def withRef (v : VecOp) (k : CoreSt) (j : Nat) (r : Reducer) : Reducer :=
  if refFits v k j then { r with k := floorVal (k.trfElem v.entryRow 0 j).1, refSet := true } else r

/-- The reference of entry `e0 + j`. -/
def Eff.setRef (v : VecOp) (e : Eff) (j : Nat) : Eff :=
  if refFits v e.k j then e.setRed (v.e0 + j) (withRef v e.k j (e.k.red (v.e0 + j))) else e

theorem setRef_changes (v : VecOp) : ChangesEntries v.e0 (withRef v) (Eff.setRef v) where
  elements h := by
    funext j r
    unfold withRef refFits
    rw [h]
  frame e j := by
    unfold Eff.setRef
    split
    · exact (Reduced.refl e).setRed _ _
    · exact .refl e
  entry e j m := by
    unfold Eff.setRef
    split
    · exact red_setRed ..
    · next bad =>
      rw [withRef, if_neg bad]
      split
      · next here => rw [here]
      · rfl

/-- Element `j` of RSETREF, with the first entry that could not take its reference. -/
def setRefStep (v : VecOp) (acc : Eff × Option Nat) (j : Nat) : Eff × Option Nat :=
  let (x, p) := acc.1.k.trfElem v.entryRow 0 j
  let n := v.e0 + j
  let kk := floorVal x
  if p || x.isNonFinite || decide (kk < -32768) || decide (32767 < kk) then (acc.1, acc.2 <|> some n)
  else (acc.1.setRed n { acc.1.k.red n with k := kk, refSet := true }, acc.2)

theorem rsetref_eq (b : Eff) (o : MicroOp) (v : VecOp) :
    b.rsetref o v =
      let x := (List.range v.dst.rows).foldl (setRefStep v) (b.touchTrfOp v.entryRow, none)
      (x.1.rows 1).reduceRange o x.2 := rfl

theorem setRefStep_eq (v : VecOp) (acc : Eff × Option Nat) (j : Nat) :
    setRefStep v acc j = (acc.1.setRef v j, if refFits v acc.1.k j then acc.2 else acc.2 <|> some (v.e0 + j)) := by
  have misfit : (!refFits v acc.1.k j) = ((acc.1.k.trfElem v.entryRow 0 j).2 || (acc.1.k.trfElem v.entryRow 0 j).1.isNonFinite ||
      decide (floorVal (acc.1.k.trfElem v.entryRow 0 j).1 < -32768) ||
      decide (32767 < floorVal (acc.1.k.trfElem v.entryRow 0 j).1)) := by
    simp [refFits, Bool.not_and, ← decide_not]
  unfold setRefStep Eff.setRef withRef
  dsimp only
  rw [← misfit]
  cases refFits v acc.1.k j <;> rfl

theorem refFits_congr {k k' : CoreSt} (h : k.trfElem = k'.trfElem) (v : VecOp) : refFits v k = refFits v k' := by
  unfold refFits
  rw [h]

/-- The first entry that could not take its reference. -/
theorem setRefSteps_hit (v : VecOp) (start : Eff) (n : Nat) :
    ((List.range n).foldl (setRefStep v) (start, none)).2 =
      ((List.range n).find? (fun j => !refFits v start.k j)).map (v.e0 + ·) := by
  refine (foldl_range_invariant (fun n (x : Eff × Option Nat) => Reduced start x.1 ∧
    x.2 = ((List.range n).find? (fun j => !refFits v start.k j)).map (v.e0 + ·)) ⟨.refl start, rfl⟩ ?_).2
  rintro j x - ⟨hframe, hhit⟩
  rw [setRefStep_eq, refFits_congr hframe.trfElem]
  refine ⟨hframe.trans ((setRef_changes v).frame x.1 j), ?_⟩
  rw [hhit, List.range_succ, List.find?_append]
  cases fits : refFits v start.k j with
  | true => simp [fits]
  | false => cases (List.range j).find? (fun j => !refFits v start.k j) <;> simp [fits]

/-- The entries of RSETREF, and the first that could not take its reference. -/
theorem rsetref_pass {b : Eff} {v : VecOp} {x : Eff × Option Nat}
    (hx : x = (List.range v.dst.rows).foldl (setRefStep v) (b.touchTrfOp v.entryRow, none)) :
    Reduced (b.touchTrfOp v.entryRow) x.1 ∧ EntriesSet v.e0 (withRef v x.1.k) b.k v.dst.rows x.1.k ∧
      x.2 = ((List.range v.dst.rows).find? (fun j => !refFits v x.1.k j)).map (v.e0 + ·) := by
  have core : x.1 = (List.range v.dst.rows).foldl (Eff.setRef v) (b.touchTrfOp v.entryRow) := by
    rw [hx]
    exact (List.foldl_hom Prod.fst fun acc j => congrArg Prod.fst (setRefStep_eq v acc j).symm).symm
  obtain ⟨hframe, hset⟩ := (setRef_changes v).rows (touchTrfOp_read b v.entryRow) core
  refine ⟨hframe, hset, ?_⟩
  rw [refFits_congr hframe.trfElem, hx]
  exact setRefSteps_hit v _ _

theorem reduceRange_core (e : Eff) (o : MicroOp) (hit : Option Nat) : (e.reduceRange o hit).k = e.k := by
  cases hit <;> rfl

theorem reduceRange_occ (e : Eff) (o : MicroOp) (hit : Option Nat) :
    (e.reduceRange o hit).occ = e.occ ++ hit.elim [] fun n => [⟨0x0D, [locus e.id o, wd o.inv, wd n]⟩] := by
  cases hit
  · exact (List.append_nil _).symm
  · rfl

/-- What RSETREF leaves, and the event it raises for the first entry that could not take its reference (R203). -/
theorem rsetref_spec (b : Eff) (o : MicroOp) (v : VecOp) :
    let e := b.rsetref o v
    e.k = { b.k with trf := e.k.trf, reducer := e.k.reducer, gauger := e.k.gauger } ∧ e.k.trf.data = b.k.trf.data ∧
      EntriesSet v.e0 (withRef v e.k) b.k v.dst.rows e.k ∧
      e.occ = b.occ ++ ((List.range v.dst.rows).find? (fun j => !refFits v e.k j)).elim []
        fun j => [⟨0x0D, [locus b.id o, wd o.inv, wd (v.e0 + j)]⟩] := by
  obtain ⟨hframe, hset, hhit⟩ := rsetref_pass (b := b) (v := v) rfl
  rw [rsetref_eq]
  dsimp only
  generalize (List.range v.dst.rows).foldl (setRefStep v) (b.touchTrfOp v.entryRow, none) = x at hframe hset hhit
  have whole : Reduced (b.touchTrfOp v.entryRow) (x.1.rows 1) := hframe.trans ⟨_, _, rfl⟩
  obtain ⟨hcore, hdata, hid, hocc⟩ := whole.frame (touchTrfOp_read b v.entryRow)
  rw [reduceRange_core, reduceRange_occ, hocc, hid, hhit]
  refine ⟨hcore, hdata, hset, ?_⟩
  rw [Option.elim_map]
  rfl

end Sys2Proof.Machine
end

section
/-! Rows of results (R183, R201, R237): what an operation that rounds and writes rows of the TRF changes of its core beside them, and
the entries that SMX_EXP leaves alone. -/

namespace Sys2Proof.Machine

open Numbers

/-! ### What rows of results change -/

/-- The core with what rows of results change taken from `y`: the TRF, the reducer's entries, the lanes, the counts and events of
R149 and R150, and the counters. -/
def CoreSt.withResults (k y : CoreSt) : CoreSt :=
  { k with
    trf := y.trf, reducer := y.reducer, lanes := y.lanes, nfCount := y.nfCount, evPending := y.evPending, note := y.note,
    gauger := y.gauger }

/-- From `b` to `e` rows of results have been written: the reducer's entries have changed only if `reduces`, and the lanes only if
`draws`. -/
structure Results (reduces draws : Bool) (b e : Eff) : Prop where
  core : e.k = b.k.withResults e.k
  entries : reduces = false → e.k.reducer = b.k.reducer
  lanes : draws = false → e.k.lanes = b.k.lanes

namespace Results

variable {reduces draws : Bool} {b e e' : Eff}

theorem refl (e : Eff) : Results reduces draws e e := ⟨rfl, fun _ => rfl, fun _ => rfl⟩

theorem trans (h : Results reduces draws b e) (h' : Results reduces draws e e') : Results reduces draws b e' where
  core := by
    have hcore := h'.core
    rw [h.core] at hcore
    exact hcore
  entries hr := (h'.entries hr).trans (h.entries hr)
  lanes hd := (h'.lanes hd).trans (h.lanes hd)

/-- A step that changes neither entries nor lanes. -/
theorem step (h : Results reduces draws b e) (hcore : e'.k = e.k.withResults e'.k) (hentries : e'.k.reducer = e.k.reducer)
    (hlanes : e'.k.lanes = e.k.lanes) : Results reduces draws b e' := h.trans ⟨hcore, fun _ => hentries, fun _ => hlanes⟩

theorem foldlOf {σ α : Type} (eff : σ → Eff) {f : σ → α → σ}
    (hf : ∀ x a, Results reduces draws b (eff x) → Results reduces draws b (eff (f x a))) (l : List α) {x : σ}
    (h : Results reduces draws b (eff x)) : Results reduces draws b (eff (l.foldl f x)) :=
  List.foldlRecOn l f h fun x hx a _ => hf x a hx

theorem ofRead (h : TrfRead b e) : Results reduces draws b e := by
  obtain ⟨_, _, rfl, -⟩ := h
  exact ⟨rfl, fun _ => rfl, fun _ => rfl⟩

variable (h : Results reduces draws b e)
include h

theorem raise (code : Nat) (ws : List Word) : Results reduces draws b (e.raise code ws) := h.step rfl rfl rfl
theorem count (ev n : Nat) : Results reduces draws b (e.count ev n) := h.step rfl rfl rfl
theorem writeTrf (a : Nat) (bs : List (Byte × Bool)) : Results reduces draws b (e.writeTrf a bs) := h.step rfl rfl rfl
theorem setPending (bit : Nat) : Results reduces draws b (e.setPending bit) := h.step rfl rfl rfl

theorem addNf (n : Nat) : Results reduces draws b (e.addNf n) := by
  unfold Eff.addNf
  dsimp only
  split
  · refine setPending ?_ 2
    exact h.step rfl rfl rfl
  · exact h.step rfl rfl rfl

theorem wrote (o : MicroOp) (nf poisoned : Nat) : Results reduces draws b (e.wrote o nf poisoned) :=
  foldlOf id (fun _ _ hx => raise hx _ _) _ (h.addNf nf)

theorem reduceRange (o : MicroOp) (hit : Option Nat) : Results reduces draws b (e.reduceRange o hit) := by
  cases hit
  · exact h
  · exact h.raise _ _

theorem mode (lane : Nat) : Results reduces draws b (e.mode draws lane).2 := by
  refine h.trans ?_
  cases draws
  · exact .refl e
  · exact ⟨rfl, fun _ => rfl, fun no => absurd no Bool.true_eq_false.mp⟩

end Results

/-! ### SMX_EXP (R201) -/

theorem smxElement_results (s : SmxRow) (v : VecOp) (p : TrfOp) (j : Nat) (x : Elem) (masked noRef : Bool) :
    Results false v.sr s.e (s.element v p j x masked noRef).e := by
  have drawn := (Results.refl (reduces := false) (draws := v.sr) s.e).mode (j % 64)
  unfold SmxRow.element
  dsimp only
  split_ifs <;> exact drawn

/-- A row of SMX_EXP sets its entry, and no other. -/
theorem smxRow_results (e : Eff) (o : MicroOp) (v : VecOp) (s p : TrfOp) (n i : Nat) :
    ∃ x r, Results false v.sr e x ∧ Results false v.sr (x.setRed (v.e0 + i) r) (e.smxRow o v s p n i).1 := by
  unfold Eff.smxRow
  dsimp only
  refine ⟨_, _, ?_, Results.wrote (Results.writeTrf (Results.count (.refl _) _ _) _ _) _ _ _⟩
  exact Results.foldlOf SmxRow.e (fun z x hz => hz.trans (smxElement_results z _ _ _ _ _ _)) _ (.refl e)

theorem Results.reducing {reduces draws : Bool} {b e : Eff} (h : Results reduces draws b e) : Results true draws b e :=
  ⟨h.core, fun no => absurd no Bool.true_eq_false.mp, h.lanes⟩

theorem setRed_results (draws : Bool) (e : Eff) (n : Nat) (r : Reducer) : Results true draws e (e.setRed n r) :=
  ⟨rfl, fun no => absurd no Bool.true_eq_false.mp, fun _ => rfl⟩

theorem Results.red {draws : Bool} {b e : Eff} (h : Results false draws b e) : e.k.red = b.k.red :=
  congrArg (fun (rs : Tab Reducer) n => Tab.get ({} : Reducer) rs n) (h.entries rfl)

theorem smxExp_results (b : Eff) (o : MicroOp) (v : VecOp) :
    Results true v.sr b (b.smxExp o v) ∧
      ∀ n, n < v.e0 ∨ v.e0 + (trfWord v.s1 v.inst).rows ≤ n → (b.smxExp o v).k.red n = b.k.red n := by
  unfold Eff.smxExp
  dsimp only
  rw [reduceRange_core]
  generalize v.dst.asSource (trfWord v.s1 v.inst).rows _ = source
  refine And.imp (fun h => h.reduceRange o _) id (foldl_range_invariant (fun i (x : Eff × Option Nat) => Results true v.sr b x.1 ∧
    ∀ n, n < v.e0 ∨ v.e0 + i ≤ n → x.1.k.red n = b.k.red n) ?_ ?_)
  · have read := (touchTrfOp_read b source).trans (rows_read _ (trfWord v.s1 v.inst).rows)
    exact ⟨.ofRead read, fun n _ => congrFun read.red n⟩
  · rintro i acc - ⟨hresults, hout⟩
    obtain ⟨x, r, hrow, hend⟩ := smxRow_results acc.1 o v source (trfWord v.s1 v.inst) _ i
    refine ⟨((hresults.trans hrow.reducing).trans (setRed_results v.sr x _ r)).trans hend.reducing, fun n hn => ?_⟩
    rw [congrFun hend.red n, red_setRed, if_neg (by omega), hrow.red]
    exact hout n (by omega)

end Sys2Proof.Machine
end

section
/-! Images of reducer entries in the local store (R204), and the row reducer's commands. -/

namespace Sys2Proof.Machine

open Numbers

/-! ### RSAVE -/

theorem image_length (r : Reducer) : r.image.length = 128 := by
  simp [Reducer.image]

/-- From `b` to `e` the local store has been written, and nothing else has changed but the lines of the feeders' caches (R73). -/
def LsWritten (b e : Eff) : Prop :=
  ∃ ls feeders, e = { b with k := { b.k with ls := ls, pipe := { b.k.pipe with feeders := feeders } } }

theorem LsWritten.refl (e : Eff) : LsWritten e e := ⟨_, _, rfl⟩

theorem LsWritten.writeLs {b e : Eff} (h : LsWritten b e) (a : Nat) (bs : List (Byte × Bool)) : LsWritten b (e.writeLs a bs) := by
  obtain ⟨_, _, rfl⟩ := h
  exact ⟨_, _, rfl⟩

theorem writeLs_data (e : Eff) (a : Nat) (m : Bool) (bs : List Byte) :
    (e.writeLs a (markAll m bs)).k.ls.data = e.k.ls.data.wrBytes a bs := by
  refine (Store.write_data _ _ _).trans ?_
  rw [markAll_bytes]

/-- Where image `n` of the operation lies. -/
def VecOp.imageAt (v : VecOp) (n : Nat) : Nat := v.images.base.toNat + n * v.images.stride

theorem imageAt_apart {v : VecOp} (h : 128 ≤ v.images.stride) {i n : Nat} (hi : i < n) : v.imageAt i + 128 ≤ v.imageAt n := by
  have next : (i + 1) * v.images.stride ≤ n * v.images.stride := Nat.mul_le_mul_right _ hi
  rw [Nat.add_one_mul] at next
  unfold VecOp.imageAt
  omega

theorem rsave_written (b : Eff) (v : VecOp) : LsWritten b (b.rsave v) :=
  foldl_range_invariant (fun _ e => LsWritten b e) (.refl b) fun _ _ _ h => h.writeLs _ _

theorem rsave_rows {b : Eff} (hwf : Mem.wf b.k.ls.data = true) {v : VecOp} (h : 128 ≤ v.images.stride) :
    RowsWritten b.k.ls.data (b.rsave v).k.ls.data v.imageAt 128 (fun n => (b.k.red (v.e0 + n)).image) v.images.rows := by
  refine (foldl_range_invariant (fun n (e : Eff) => LsWritten b e ∧
    RowsWritten b.k.ls.data e.k.ls.data v.imageAt 128 (fun n => (b.k.red (v.e0 + n)).image) n) ⟨.refl b, .zero hwf⟩ ?_).2
  rintro n e - ⟨hframe, hrows⟩
  refine ⟨hframe.writeLs _ _, ?_⟩
  have entry : e.k.red (v.e0 + n) = b.k.red (v.e0 + n) := by
    obtain ⟨_, _, rfl⟩ := hframe
    rfl
  rw [writeLs_data, entry]
  exact hrows.succ (image_length _) fun i hi => .inl (imageAt_apart h hi)

/-! ### RLOAD and RMERGE -/

/-- The local store after the reads of the first `n` images. -/
def imagesRead (v : VecOp) (st : Store) : Nat → Store
  | 0 => st
  | n + 1 => ((imagesRead v st n).afterRead (v.imageAt n) 128).1

theorem imagesRead_data (v : VecOp) (st : Store) (n : Nat) : (imagesRead v st n).data = st.data := by
  induction n with
  | zero => rfl
  | succ n ih => exact (store_afterRead_data _ _ _).trans ih

/-- The entry that image `n` stands for, as it is delivered. -/
def imageEntry (v : VecOp) (st : Store) (n : Nat) : Reducer :=
  Reducer.ofImage (st.data.bytes (v.imageAt n) 128) ((imagesRead v st (n + 1)).marked (v.imageAt n) 128)

/-- What RLOAD, or RMERGE, makes of an entry. -/
def loadedEntry (merge : Bool) (old image : Reducer) : Reducer := if merge then (old.merge image).1 else image

/-- In core `k'` the first `n` images have been read into the entries of core `k`. -/
structure ImagesLoaded (merge : Bool) (v : VecOp) (k : CoreSt) (n : Nat) (k' : CoreSt) : Prop where
  frame : ∃ rs g, k' = { k with ls := imagesRead v k.ls n, reducer := rs, gauger := g }
  entries : EntriesSet v.e0 (fun i r => loadedEntry merge r (imageEntry v k.ls i)) k n k'

/-- Image `n` of RLOAD or RMERGE, with the first entry whose reference differs (R204). -/
def loadStep (v : VecOp) (merge : Bool) (acc : Eff × Option Nat) (n : Nat) : Eff × Option Nat :=
  let a := v.images.base.toNat + n * v.images.stride
  let e := acc.1.touchLs a 128
  let r := Reducer.ofImage (e.k.ls.bytes a 128) (e.k.ls.marked a 128)
  let ent := v.e0 + n
  if merge then
    let (m, clash) := (e.k.red ent).merge r
    (e.setRed ent m, acc.2 <|> (if clash then some ent else none))
  else (e.setRed ent r, acc.2)

theorem loadStep_fst (v : VecOp) (merge : Bool) (acc : Eff × Option Nat) (n : Nat) :
    (loadStep v merge acc n).1 = (acc.1.touchLs (v.imageAt n) 128).setRed (v.e0 + n)
      (loadedEntry merge (acc.1.k.red (v.e0 + n)) (Reducer.ofImage ((acc.1.touchLs (v.imageAt n) 128).k.ls.bytes (v.imageAt n) 128)
        ((acc.1.touchLs (v.imageAt n) 128).k.ls.marked (v.imageAt n) 128))) := by
  cases merge <;> rfl

theorem ImagesLoaded.step {merge : Bool} {v : VecOp} {k : CoreSt} {n : Nat} {acc : Eff × Option Nat}
    (h : ImagesLoaded merge v k n acc.1.k) : ImagesLoaded merge v k (n + 1) (loadStep v merge acc n).1.k := by
  obtain ⟨⟨id, k', occ⟩, hit⟩ := acc
  obtain ⟨⟨rs, g, rfl⟩, entries⟩ := h
  rw [loadStep_fst]
  refine ⟨⟨_, _, rfl⟩, entries.succ fun m => ?_⟩
  rw [red_setRed]
  have data : (imagesRead v k.ls (n + 1)).bytes (v.imageAt n) 128 = k.ls.data.bytes (v.imageAt n) 128 :=
    congrArg (fun m : Mem => m.bytes _ _) (imagesRead_data v k.ls (n + 1))
  exact if_congr Iff.rfl (congrArg (fun bs => loadedEntry merge _ (Reducer.ofImage bs _)) data) rfl

theorem rload_loaded (b : Eff) (o : MicroOp) (v : VecOp) (merge : Bool) :
    ImagesLoaded merge v b.k v.images.rows (b.rload o v merge).k := by
  have steps : ImagesLoaded merge v b.k v.images.rows ((List.range v.images.rows).foldl (loadStep v merge) (b, none)).1.k :=
    foldl_range_invariant (fun n (acc : Eff × Option Nat) => ImagesLoaded merge v b.k n acc.1.k)
      ⟨⟨_, _, rfl⟩, .zero v.e0 _ b.k⟩ fun _ _ _ h => h.step
  exact (reduceRange_core _ o _).symm ▸ steps

/-! ### The commands -/

theorem exec_sumRow {row : CoreRow} {code : Nat} (h : (row, code) ∈ [(Instr.rsum, 0x21), (.rsumsq, 0x22), (.rdot, 0x50)])
    (c : CoreId) (gap : Nat) : ∃ f : Eff → VecOp → Eff, (∀ b v, SumsRows code v b (f b v)) ∧
      ∀ s, exec (row c gap) s = .next (s.onCore c (fun e => e.vecRow gap code (fun e _ v => f e v))) := by
  simp only [List.mem_cons, List.not_mem_nil, or_false, Prod.mk.injEq] at h
  rcases h with ⟨rfl, rfl⟩ | ⟨rfl, rfl⟩ | ⟨rfl, rfl⟩
  · exact ⟨fun e v => e.rsum v false, rsum_sumsRows, fun _ => rfl⟩
  · exact ⟨fun e v => e.rsum v true, rsumsq_sumsRows, fun _ => rfl⟩
  · exact ⟨Eff.rdot, rdot_sumsRows, fun _ => rfl⟩

theorem exec_loadRow {row : CoreRow} {code : Nat} (h : (row, code) ∈ [(Instr.rload, 0x28), (.rmerge, 0x29)])
    (c : CoreId) (gap : Nat) (s : State) :
    exec (row c gap) s = .next (s.onCore c (fun e => e.vecRow gap code (fun e o v => e.rload o v (decide (code ≠ 0x28))))) := by
  simp only [List.mem_cons, List.not_mem_nil, or_false, Prod.mk.injEq] at h
  rcases h with ⟨rfl, rfl⟩ | ⟨rfl, rfl⟩ <;> rfl

/-- Settles O32: the operations go entry by entry, each changing its own, so that an entry is found as it was before the operation; the
elements read are those the TRF holds throughout. -/
theorem reducerMicroOps : Obligations.ReducerMicroOps := by
  rintro s c gap o v b hheads rfl rfl hwf
  refine ⟨fun hcode => ?rclear, ?sums, fun hcode => ?rmax, fun hcode => ?rout, fun hcode => ?rsetref, fun hcode => ?smxExp,
    fun hcode => ?rsave, ?loads⟩
  case rclear =>
    obtain ⟨rs, he, hset⟩ := rclear_entries (begunBy s c gap o) o.vec
    refine ⟨rs, ?_, fun n => (hset n).trans (if_congr (by omega) rfl rfl)⟩
    rw [← he]
    exact congrArg Host.Outcome.next (onCore_vecRow hheads hcode _)
  case sums =>
    intro row code hrow hcode
    obtain ⟨f, hsums, hexec⟩ := exec_sumRow hrow c gap
    obtain ⟨start, lanes, hread, he⟩ := hsums (begunBy s c gap o) o.vec
    obtain ⟨hframe, hset⟩ := (sumRow_changes code lanes o.vec).rows hread he
    obtain ⟨hcore, hdata, -, hocc⟩ := hframe.frame hread
    refine ⟨_, (hexec s).trans (congrArg Host.Outcome.next (onCore_vecRow hheads hcode _)), hcore, hdata, hocc, fun n => ?_⟩
    exact (hset n).trans (if_congr Iff.rfl (plus_reduceTerms ..) rfl)
  case rmax =>
    have hread := (touchTrfOp_read (begunBy s c gap o) o.vec.dst).trans (rows_read _ o.vec.dst.rows)
    obtain ⟨hframe, hset⟩ := (maxRow_changes o.vec).rows hread (rmax_eq (begunBy s c gap o) o.vec)
    obtain ⟨hcore, hdata, -, hocc⟩ := hframe.frame hread
    exact ⟨_, congrArg Host.Outcome.next (onCore_vecRow hheads hcode _), hcore, hdata, hocc, hset⟩
  case rout =>
    have hcore := rout_core (begunBy s c gap o) o o.vec
    refine ⟨_, _, congrArg Host.Outcome.next (onCore_vecRow hheads hcode _), ?_, rfl, ?_⟩
    · rw [hcore]
      rfl
    · rw [hcore]
      rfl
  case rsetref =>
    obtain ⟨hcore, hdata, hset, hocc⟩ := rsetref_spec (begunBy s c gap o) o o.vec
    refine ⟨_, refFits o.vec ((begunBy s c gap o).rsetref o o.vec).k, congrArg Host.Outcome.next (onCore_vecRow hheads hcode _),
      hcore, hdata, rfl, fun n => ?_, hocc.trans ?_⟩
    · exact (hset n).trans ((ite_and ..).symm.trans (if_congr and_assoc rfl rfl))
    · generalize (List.range o.vec.dst.rows).find? _ = first
      cases first <;> rfl
  case smxExp =>
    obtain ⟨hresults, hout⟩ := smxExp_results (begunBy s c gap o) o o.vec
    exact ⟨_, congrArg Host.Outcome.next (onCore_vecRow hheads hcode _), rfl, hresults.core, hout⟩
  case rsave =>
    obtain ⟨ls, feeders, he⟩ := rsave_written (begunBy s c gap o) o.vec
    refine ⟨_, congrArg Host.Outcome.next (onCore_vecRow hheads hcode _), ?_, ?_, fun hstride => ?_⟩
    · rw [he]
    · rw [he]
      rfl
    · have rows := rsave_rows hwf hstride
      exact ⟨rows.bytes, rows.others⟩
  case loads =>
    intro row code hrow hcode
    have hexec := exec_loadRow hrow c gap s
    obtain ⟨⟨rs, g, hframe⟩, entries⟩ := rload_loaded (begunBy s c gap o) o o.vec (decide (code ≠ 0x28))
    refine ⟨_, imagesRead o.vec (begunBy s c gap o).k.ls, hexec.trans (congrArg Host.Outcome.next (onCore_vecRow hheads hcode _)),
      ?_, ?_, rfl, fun _ => rfl, ?_, fun n => entries.outside, ?_⟩
    · rw [hframe]
    · rw [hframe]
      exact imagesRead_data _ _ _
    · rw [hframe]
    · rintro i _ _ hi rfl rfl
      rw [entries.inside hi, loadedEntry]
      simp only [decide_eq_true_eq, ite_not]
      rfl

end Sys2Proof.Machine
end

section
/-! The Assayer (R219 to R222): which records ASSAY merges, and the bits that ASSAY_SET writes. -/

namespace Sys2Proof.Machine

open Numbers

/-! ### ASSAY (R220, R221) -/

/-- From `b` to `e` the local store has been read: its checks and the counters have changed, no byte has. -/
def LsRead (b e : Eff) : Prop := ∃ ls g, e = { b with k := { b.k with ls := ls, gauger := g } } ∧ ls.data = b.k.ls.data

theorem LsRead.refl (e : Eff) : LsRead e e := ⟨_, _, rfl, rfl⟩

theorem LsRead.data {b e : Eff} (h : LsRead b e) : e.k.ls.data = b.k.ls.data := by
  obtain ⟨_, _, rfl, hdata⟩ := h
  exact hdata

theorem LsRead.count {b e : Eff} (h : LsRead b e) (ev n : Nat) : LsRead b (e.count ev n) := by
  obtain ⟨_, _, rfl, hdata⟩ := h
  exact ⟨_, _, rfl, hdata⟩

theorem LsRead.touchLs {b e : Eff} (h : LsRead b e) (a n : Nat) : LsRead b (e.touchLs a n) := by
  obtain ⟨_, _, rfl, hdata⟩ := h
  exact ⟨_, _, rfl, (store_afterRead_data _ _ _).trans hdata⟩

/-- Where record `i` of ASSAY lies. -/
def VecOp.recordAt (v : VecOp) (i : Nat) : Nat := v.assayRecords.base.toNat + i * v.assayRecords.stride

/-- The first `n` records merged, those of other entries left out. -/
def mergedRecords (v : VecOp) (m : Mem) : Nat → Merged
  | 0 => {}
  | n + 1 => if m.le (v.recordAt n) 2 = v.aux % 128 then (mergedRecords v m n).add (m.bytes (v.recordAt n) 320) else mergedRecords v m n

/-- Record `i` of ASSAY. -/
def assayStep (v : VecOp) (acc : Eff × Merged) (i : Nat) : Eff × Merged :=
  let a := v.assayRecords.base.toNat + i * v.assayRecords.stride
  let e := acc.1.touchLs a 320
  if e.k.ls.data.le a 2 = bitsOf v.aux 6 0 then (e, acc.2.add (e.k.ls.bytes a 320)) else (e.count 0x062 1, acc.2)

theorem assaySteps_merged (b : Eff) (v : VecOp) (n : Nat) :
    let x := (List.range n).foldl (assayStep v) (b, {})
    LsRead b x.1 ∧ x.2 = mergedRecords v b.k.ls.data n := by
  refine foldl_range_invariant (fun n (x : Eff × Merged) => LsRead b x.1 ∧ x.2 = mergedRecords v b.k.ls.data n) ⟨.refl b, rfl⟩ ?_
  rintro i ⟨e, m⟩ - ⟨hread, rfl⟩
  have touched := hread.touchLs (v.recordAt i) 320
  generalize hm : mergedRecords v b.k.ls.data i = m
  have step : assayStep v (e, m) i = if b.k.ls.data.le (v.recordAt i) 2 = v.aux % 128
      then (e.touchLs (v.recordAt i) 320, m.add (b.k.ls.data.bytes (v.recordAt i) 320))
      else ((e.touchLs (v.recordAt i) 320).count 0x062 1, m) := by
    rw [← touched.data]
    rfl
  rw [step, mergedRecords, hm]
  split_ifs
  · exact ⟨touched, rfl⟩
  · exact ⟨touched.count _ _, rfl⟩

theorem assay_eq (b : Eff) (v : VecOp) : b.assay v =
    let x := (List.range v.assayRecords.rows).foldl (assayStep v) (b, {})
    let w := assaySelect (x.1.k.assay (bitsOf v.aux 6 0)) x.2
    Eff.writeLs { x.1 with k := { x.1.k with assayer := x.1.k.assayer.set (bitsOf v.aux 6 0) w } } v.assayCopy.base.toNat
      (markAll false (natLe 8 w.toNat)) := rfl

/-- The entry that ASSAY selects (R221). -/
def selected (v : VecOp) (k : CoreSt) : Word := assaySelect (k.assay (v.aux % 128)) (mergedRecords v k.ls.data v.assayRecords.rows)

/-- ASSAY changes its entry, and writes it to the local store. -/
theorem assay_spec (b : Eff) (v : VecOp) : ∃ ls feeders g,
    b.assay v = { b with k := { b.k with
      ls := ls, assayer := b.k.assayer.set (v.aux % 128) (selected v b.k), pipe := { b.k.pipe with feeders := feeders },
      gauger := g } } ∧ ls.data = b.k.ls.data.wrLe (wField v.s2 18 0) 8 (selected v b.k).toNat := by
  obtain ⟨hread, hmerged⟩ := assaySteps_merged b v v.assayRecords.rows
  have data := writeLs_data ((List.range v.assayRecords.rows).foldl (assayStep v) (b, {})).1 (wField v.s2 18 0) false
    (natLe 8 (selected v b.k).toNat)
  rw [assay_eq]
  dsimp only
  rw [hmerged]
  obtain ⟨ls, g, he, hdata⟩ := hread
  rw [he] at data ⊢
  exact ⟨_, _, _, rfl, data.trans (congrArg (Mem.wrLe · _ 8 _) hdata)⟩

/-! ### ASSAY_SET (R222) -/

/-- The word that ASSAY_SET writes: the RW fields of `w`, agree 0, the other RO fields of the entry `old`. -/
def assayWritten (w old : Word) : Word := (w &&& 0x8FFFFFFF00000000#64) ||| (old &&& 0x000000000FFFFFFF#64)

theorem assayWritten_fields (w old : Word) :
    (assayWritten w old).extractLsb' 63 1 = w.extractLsb' 63 1 ∧ (assayWritten w old).extractLsb' 32 28 = w.extractLsb' 32 28 ∧
      (assayWritten w old).extractLsb' 60 3 = 0 ∧ (assayWritten w old).extractLsb' 28 4 = 0 ∧
      (assayWritten w old).extractLsb' 0 28 = old.extractLsb' 0 28 := by
  have ones1 : ∀ x : BitVec 1, x &&& 1#1 = x := fun _ => BitVec.and_allOnes
  have ones28 : ∀ x : BitVec 28, x &&& 0xFFFFFFF#28 = x := fun _ => BitVec.and_allOnes
  simp [assayWritten, BitVec.extractLsb'_or, BitVec.extractLsb'_and, ones1, ones28]

end Sys2Proof.Machine
end

section
/-! The lane generators (R228 to R231): RNG_SEED, the image that RNG_SAVE writes, and the lanes that RNG_LOAD takes from one. -/

namespace Sys2Proof.Machine

open Numbers

/-! ### RNG_SEED (R229) -/

theorem Tab.find_set_ne {α : Type} (t : Tab α) {k j : Nat} (a : α) (h : j ≠ k) : Tab.find (Tab.set t k a) j = Tab.find t j := by
  induction t with
  | nil => simp only [Tab.set, Tab.find, if_neg h.symm, ite_self]
  | cons x t ih =>
    obtain ⟨i, b⟩ := x
    rw [Tab.set]
    split_ifs with same less
    · simp only [Tab.find, same, if_neg h.symm]
    · by_cases low : j < k
      · simp only [Tab.find, if_neg h.symm, if_pos low, if_neg (show i ≠ j by omega), if_pos (show j < i by omega)]
      · rw [Tab.find, if_neg h.symm, if_neg low]
    · simp only [Tab.find, ih]

theorem Tab.find_set {α : Type} (t : Tab α) (k j : Nat) (a : α) :
    Tab.find (Tab.set t k a) j = if j = k then some a else Tab.find t j := by
  split_ifs with h
  · rw [h, Tab.find_set_same]
  · exact Tab.find_set_ne t a h

/-- RNG_SEED lists the lanes one after another. -/
theorem rngSeed_lanes (seed stream : Word) (t : Tab (BitVec 128)) (n l : Nat) :
    ((List.range n).foldl (fun (t : Tab (BitVec 128)) l => t.set l (laneSeed seed stream l)) t).find l =
      if l < n then some (laneSeed seed stream l) else t.find l := by
  refine foldl_range_invariant (fun n (t' : Tab (BitVec 128)) =>
    t'.find l = if l < n then some (laneSeed seed stream l) else t.find l) (if_neg (Nat.not_lt_zero l)).symm ?_
  intro i t' _ ih
  rw [Tab.find_set, ih]
  by_cases here : l = i
  · rw [if_pos here, if_pos (by omega), here]
  · rw [if_neg here]
    exact if_congr (by omega) rfl rfl

/-! ### RNG_SAVE (R231) -/

theorem Mem.wrBytes_append (m : Mem) (a : Nat) (bs cs : List Byte) :
    m.wrBytes a (bs ++ cs) = (m.wrBytes a bs).wrBytes (a + bs.length) cs := by
  induction bs generalizing m a with
  | nil => rfl
  | cons b bs ih =>
    rw [List.cons_append, Mem.wrBytes, ih, Mem.wrBytes, List.length_cons, Nat.add_right_comm, Nat.add_assoc]

/-- Records of one length written in one piece are written one after another. -/
theorem rowsWritten_flatMap {m : Mem} (h : Mem.wf m = true) (a : Nat) {len : Nat} {row : Nat → List Byte}
    (hrow : ∀ i, (row i).length = len) (n : Nat) :
    RowsWritten m (m.wrBytes a ((List.range n).flatMap row)) (fun i => a + len * i) len row n := by
  induction n with
  | zero => exact .zero h
  | succ n ih =>
    have before : ((List.range n).flatMap row).length = len * n := by
      simp [List.length_flatMap, hrow, Nat.mul_comm]
    rw [List.range_succ, List.flatMap_append, Mem.wrBytes_append, before, List.flatMap_singleton]
    refine ih.succ (hrow n) fun i hi => .inl ?_
    have next := Nat.mul_le_mul_left len (Nat.succ_le_of_lt hi)
    rw [Nat.mul_succ] at next
    omega

theorem rngSave_rows {b : Eff} (hwf : Mem.wf b.k.ls.data = true) (v : VecOp) :
    RowsWritten b.k.ls.data (b.rngSave v).k.ls.data (fun l => lsWordBase v.s0 + 16 * l) 16 (fun l => natLe 16 (b.k.lane l).toNat) 64 := by
  have data := writeLs_data b (lsWordBase v.s0) false ((List.range 64).flatMap (fun l => natLe 16 (b.k.lane l).toNat))
  have rows := rowsWritten_flatMap hwf (lsWordBase v.s0) (row := fun l => natLe 16 (b.k.lane l).toNat) (fun l => natLe_length 16 _) 64
  rw [← data] at rows
  exact rows

/-! ### RNG_LOAD (R231) -/

/-- Is the state of lane `l` in the image delivered with a mark? -/
def laneMarked (v : VecOp) (st : Store) (l : Nat) : Bool := st.marked (lsWordBase v.s0 + 16 * l) 16

/-- The state that the image gives lane `l`, which is `old` now: a marked one leaves it, and 0 stands for the reset state. -/
def laneLoaded (v : VecOp) (st : Store) (l : Nat) (old : BitVec 128) : BitVec 128 :=
  if laneMarked v st l then old
  else if st.data.le (lsWordBase v.s0 + 16 * l) 16 = 0 then laneSeed 0 0 l
  else BitVec.ofNat 128 (st.data.le (lsWordBase v.s0 + 16 * l) 16)

/-- The event of a lane whose state was delivered with a mark. -/
def laneEvent (c l : Nat) : Occurrence := ⟨0x0E, [wd (c + l * 65536)]⟩

/-- The core's step with other lane states and events. -/
def Eff.withLanes (e : Eff) (lanes : Tab (BitVec 128)) (occ : List Occurrence) : Eff :=
  { e with k := { e.k with lanes := lanes }, occ := occ }

theorem withLanes_lane_set (e : Eff) (lanes : Tab (BitVec 128)) (occ : List Occurrence) (l : Nat) (x : BitVec 128) (m : Nat) :
    (e.withLanes (lanes.set l x) occ).k.lane m = if m = l then x else (e.withLanes lanes occ).k.lane m := by
  simp only [CoreSt.lane, Eff.withLanes, Tab.find_set]
  split_ifs <;> rfl

/-- Lane `l` of RNG_LOAD. -/
def Eff.loadLane (v : VecOp) (e : Eff) (l : Nat) : Eff :=
  let a := v.rngImage.base.toNat
  let w := e.k.ls.data.le (a + 16 * l) 16
  if e.k.ls.marked (a + 16 * l) 16 then e.raise 0x0E [wd (e.id + l * 65536)]
  else
    let st := if w = 0 then laneSeed 0 0 l else BitVec.ofNat 128 w
    { e with k := { e.k with lanes := e.k.lanes.set l st } }

theorem rngLoad_eq (b : Eff) (v : VecOp) :
    b.rngLoad v = (List.range 64).foldl (Eff.loadLane v) (b.touchLs (lsWordBase v.s0) 1024) := rfl

theorem loadLane_of_marked {v : VecOp} {e : Eff} {l : Nat} (h : laneMarked v e.k.ls l = true) :
    e.loadLane v l = e.withLanes e.k.lanes (e.occ ++ [laneEvent e.id l]) := if_pos h

theorem loadLane_of_clean {v : VecOp} {e : Eff} {l : Nat} (h : laneMarked v e.k.ls l = false) :
    e.loadLane v l = e.withLanes (e.k.lanes.set l (laneLoaded v e.k.ls l (e.k.lane l))) e.occ := by
  rw [laneLoaded, h, if_neg Bool.false_ne_true]
  exact if_neg (Bool.eq_false_iff.1 h)

/-- From `b` to `e` the first `n` lanes have been loaded. -/
structure LanesLoaded (v : VecOp) (b : Eff) (n : Nat) (e : Eff) : Prop where
  frame : ∃ lanes, e = b.withLanes lanes (b.occ ++ ((List.range n).filter (laneMarked v b.k.ls)).map (laneEvent b.id))
  lanes : ∀ m, e.k.lane m = if m < n then laneLoaded v b.k.ls m (b.k.lane m) else b.k.lane m

theorem LanesLoaded.succ {v : VecOp} {b e : Eff} {n : Nat} (h : LanesLoaded v b n e) : LanesLoaded v b (n + 1) (e.loadLane v n) := by
  obtain ⟨⟨lanes, he⟩, hlanes⟩ := h
  have ls : e.k.ls = b.k.ls := by
    rw [he]
    rfl
  cases marked : laneMarked v b.k.ls n with
  | true =>
    rw [loadLane_of_marked (ls ▸ marked)]
    refine ⟨⟨lanes, ?_⟩, fun m => (hlanes m).trans ?_⟩
    · rw [List.range_succ, List.filter_append, List.map_append, ← List.append_assoc, List.filter_singleton, marked, he]
      rfl
    · by_cases here : m = n
      · rw [if_neg (by omega), if_pos (by omega), here, laneLoaded, if_pos marked]
      · exact if_congr (by omega) rfl rfl
  | false =>
    rw [loadLane_of_clean (ls ▸ marked), ls]
    refine ⟨⟨e.k.lanes.set n (laneLoaded v b.k.ls n (e.k.lane n)), ?_⟩, fun m => (withLanes_lane_set _ _ _ _ _ _).trans ?_⟩
    · rw [List.range_succ, List.filter_append, List.filter_singleton, marked, cond_false, List.append_nil, he]
      rfl
    · by_cases here : m = n
      · rw [if_pos here, if_pos (by omega), here, hlanes n, if_neg (Nat.lt_irrefl n)]
      · rw [if_neg here]
        exact (hlanes m).trans (if_congr (by omega) rfl rfl)

theorem rngLoad_loaded (b : Eff) (v : VecOp) : LanesLoaded v (b.touchLs (lsWordBase v.s0) 1024) 64 (b.rngLoad v) := by
  rw [rngLoad_eq]
  refine foldl_range_invariant (fun n e => LanesLoaded v (b.touchLs (lsWordBase v.s0) 1024) n e)
    ⟨⟨(b.touchLs (lsWordBase v.s0) 1024).k.lanes, ?_⟩, fun m => ?_⟩ fun _ _ _ h => h.succ
  · rw [List.range_zero, List.filter_nil, List.map_nil, List.append_nil]
    rfl
  · rw [if_neg (Nat.not_lt_zero m)]

end Sys2Proof.Machine
end

section
/-! The weight updates (R235 to R239), SPIKE_CHECK (R241), and the commands of the statistics, the Assayer, the updates and the lane
generators. -/

namespace Sys2Proof.Machine

open Numbers

/-! ### Weight updates (R235 to R239) -/

theorem updElem_results (e : Eff) (v : UpdRule) (j : Nat) (w m vv g : Elem) (h : Nat → Elem) :
    Results false v.sr e (e.updElem v j w m vv g h).2.2 := by
  have drawn := (Results.refl (reduces := false) (draws := v.sr) e).mode (j % 64)
  unfold Eff.updElem
  dsimp only
  split_ifs
  · exact drawn
  · exact drawn.mode _
  · exact (drawn.mode _).mode _

theorem update_results (b : Eff) (o : MicroOp) (v : VecOp) : Results false v.sr b (b.update o v) := by
  have sources : Results false v.sr b (v.updSources.foldl (fun e s => e.touchTrfOp s) b) :=
    Results.foldlOf id (fun e s he => he.trans (.ofRead (touchTrfOp_read e s))) _ (.refl b)
  unfold Eff.update
  dsimp only
  refine Results.foldlOf id (fun e i he => Results.wrote ?_ _ _ _) _ (sources.count _ _)
  refine Results.foldlOf id (fun _ _ hx => Results.writeTrf hx _ _) _ ?_
  refine Results.foldlOf (fun acc : List (List UpdOut) × Nat × Eff => acc.2.2) (fun acc j hacc => ?_) _ he
  exact hacc.trans (updElem_results acc.2.2 v.rule j _ _ _ _ _)

/-! ### SPIKE_CHECK (R241) -/

theorem saturate48_toNat (c limit : BitVec 48) (n : Nat) : (saturate48 c limit n).1.toNat = min (c.toNat + n) (2 ^ 48 - 1) := by
  simp only [saturate48, BitVec.toNat_ofNat]
  omega

theorem saturate48_crosses (c limit : BitVec 48) (n : Nat) :
    (saturate48 c limit n).2 = true ↔ limit ≠ 0 ∧ c < limit ∧ limit ≤ (saturate48 c limit n).1 := by
  rw [BitVec.lt_def, BitVec.le_def, saturate48_toNat]
  simp [saturate48, and_assoc]

/-- Detections of spikes are counted, and set spike_over when they take the count over its limit (R150). -/
theorem addSpike_spec (b : Eff) (n : Nat) : ∃ z p x,
    b.addSpike n = { b with k := { b.k with spikeCount := z, evPending := p, note := x } } ∧
      z.toNat = min (b.k.spikeCount.toNat + n) (2 ^ 48 - 1) ∧
      p = if b.k.spikeLimit ≠ 0 ∧ b.k.spikeCount < b.k.spikeLimit ∧ b.k.spikeLimit ≤ z
        then b.k.evPending ||| 8 else b.k.evPending := by
  have number := saturate48_toNat b.k.spikeCount b.k.spikeLimit n
  have crosses := saturate48_crosses b.k.spikeCount b.k.spikeLimit n
  unfold Eff.addSpike
  dsimp only
  split
  · next crossed => exact ⟨_, _, _, rfl, number, (if_pos (crosses.1 crossed)).symm⟩
  · next below => exact ⟨_, _, _, rfl, number, (if_neg (mt crosses.2 below)).symm⟩

/-- The elements that SPIKE_CHECK counts: poisoned ones, NaNs, and those above its bound. -/
def spikes (v : VecOp) (k : CoreSt) : List Elem :=
  ((List.range v.dst.rows).flatMap (fun i => (List.range v.e).map (fun j => k.trfElem v.dst i j))).filter (fun x =>
    x.2 || x.1.isNan || ltVal false (val32 (v.s1.toNat % 2 ^ 32)) (if v.auxF 48 48 = 1 then absVal x.1 else x.1))

theorem spikeCheck_eq (b : Eff) (v : VecOp) : b.spikeCheck v =
    let e := (b.touchTrfOp v.dst).rows v.dst.rows
    e.addSpike (spikes v e.k).length := rfl

/-- What SPIKE_CHECK leaves, the elements counted those of the TRF as it stays. -/
theorem spikeCheck_spec (b : Eff) (v : VecOp) : ∃ st z p x g,
    b.spikeCheck v = { b with k := { b.k with trf := st, spikeCount := z, evPending := p, note := x, gauger := g } } ∧
      st.data = b.k.trf.data ∧
      z.toNat = min (b.k.spikeCount.toNat + (spikes v (b.spikeCheck v).k).length) (2 ^ 48 - 1) ∧
      p = if b.k.spikeLimit ≠ 0 ∧ b.k.spikeCount < b.k.spikeLimit ∧ b.k.spikeLimit ≤ z
        then b.k.evPending ||| 8 else b.k.evPending := by
  obtain ⟨st, g, hread, hdata⟩ := (touchTrfOp_read b v.dst).trans (rows_read _ v.dst.rows)
  rw [spikeCheck_eq, hread]
  obtain ⟨z, p, x, he, hcount, hpending⟩ :=
    addSpike_spec { b with k := { b.k with trf := st, gauger := g } } (spikes v { b.k with trf := st, gauger := g }).length
  dsimp only
  rw [he]
  exact ⟨st, z, p, x, g, rfl, hdata, hcount, hpending⟩

/-! ### The commands -/

theorem exec_updateRow {row : CoreRow} {code : Nat} (h : (row, code) ∈ [(Instr.updSgd, 0x40), (.updMomentum, 0x41), (.updAdam, 0x42)])
    (c : CoreId) (gap : Nat) (s : State) :
    exec (row c gap) s = .next (s.onCore c (fun e => e.vecRow gap code (fun e o v => e.update o v))) := by
  simp only [List.mem_cons, List.not_mem_nil, or_false, Prod.mk.injEq] at h
  rcases h with ⟨rfl, rfl⟩ | ⟨rfl, rfl⟩ | ⟨rfl, rfl⟩ <;> rfl

/-- Settles O33: each operation changes its core in the part named alone, and what it writes to the local store reads back; ASSAY takes
the bytes of its records, and RNG_LOAD the marks of its image, as the reads leave them. -/
theorem assayUpdateAndGenerators : Obligations.AssayUpdateAndGenerators := by
  rintro s c gap o v b hheads rfl rfl hwf
  refine ⟨fun hcode => congrArg Host.Outcome.next (onCore_vecRow hheads hcode _), fun hcode => ?assay, fun hcode => ?assaySet, ?updates,
    fun hcode => ?seed, fun hcode => ?save, fun hcode => ?load, fun hcode => ?spikes⟩
  case assay =>
    obtain ⟨ls, feeders, g, he, hdata⟩ := assay_spec (begunBy s c gap o) o.vec
    have entry : (Eff.assay (begunBy s c gap o) o.vec).k.assay (o.vec.aux % 128) = selected o.vec (begunBy s c gap o).k := by
      rw [he]
      exact Tab.get_set_same ..
    refine ⟨_, mergedRecords o.vec (begunBy s c gap o).k.ls.data, congrArg Host.Outcome.next (onCore_vecRow hheads hcode _),
      ?_, ?_, rfl, fun _ => rfl, fun n => ?_, ?_, fun x hx => ?_⟩
    · rw [he]
    · rw [he]
      rfl
    · rw [he]
      refine (Tab.get_set ..).trans (if_ctx_congr Iff.rfl (fun here => ?_) fun _ => rfl)
      rw [here]
      rfl
    · rw [entry, he]
      exact (congrArg (Mem.le · _ 8) hdata).trans ((Mem.le_wrLe _ 8 _ hwf).trans (Nat.mod_eq_of_lt (BitVec.isLt _)))
    · rw [he]
      refine (congrArg (Mem.rd · x) hdata).trans (Mem.rd_wrBytes_ne _ _ x hwf ?_)
      rwa [natLe_length]
  case assaySet =>
    exact ⟨_, congrArg Host.Outcome.next (onCore_vecRow hheads hcode _), assayWritten_fields _ _⟩
  case updates =>
    intro row code hrow hcode
    have hresults := update_results (begunBy s c gap o) o o.vec
    have hentries := hresults.entries rfl
    refine ⟨_, (exec_updateRow hrow c gap s).trans (congrArg Host.Outcome.next (onCore_vecRow hheads hcode _)), rfl,
      hresults.core.trans ?_, hresults.lanes⟩
    rw [CoreSt.withResults, hentries]
  case seed =>
    exact ⟨_, congrArg Host.Outcome.next (onCore_vecRow hheads hcode _), rngSeed_lanes _ _ _ 64⟩
  case save =>
    have rows := rngSave_rows hwf o.vec
    refine ⟨_, congrArg Host.Outcome.next (onCore_vecRow hheads hcode _), rfl, rfl, fun l hl => ?_, fun x hx => ?_⟩
    · rw [Mem.le, rows.bytes l hl, leNat_natLe, Nat.mod_eq_of_lt ((begunBy s c gap o).k.lane l).isLt]
    · exact rows.others x fun i hi => by omega
  case load =>
    obtain ⟨⟨lanes, he⟩, hlanes⟩ := rngLoad_loaded (begunBy s c gap o) o.vec
    have data : ((begunBy s c gap o).touchLs (lsWordBase o.vec.s0) 1024).k.ls.data = (begunBy s c gap o).k.ls.data :=
      store_afterRead_data _ _ _
    refine ⟨_, congrArg Host.Outcome.next (onCore_vecRow hheads hcode _), ?_, ?_, fun l hl => ?_, ?_⟩
    · rw [he]
      rfl
    · rw [he]
      exact data
    · rw [hlanes l, if_pos hl, laneLoaded, data, he]
      rfl
    · rw [he]
      rfl
  case spikes =>
    obtain ⟨st, z, p, x, g, he, hdata, hcount, hpending⟩ := spikeCheck_spec (begunBy s c gap o) o.vec
    refine ⟨_, _, congrArg Host.Outcome.next (onCore_vecRow hheads hcode _), ?_, ?_, ?_, rfl, ?_, ?_⟩
    · rw [he]
    · rw [he]
      exact hdata
    · rw [he]
      rfl
    · refine Eq.trans ?_ hcount
      rw [he]
    · rw [he]
      exact hpending

end Sys2Proof.Machine
end

section
/-! What accesses, and what the library sends and commits, leave alone: the library's own records. -/

namespace Sys2Proof.Machine

/-- What every step of a fold leaves alone, the fold leaves alone. -/
theorem foldl_keeps {σ α β : Type} (part : σ → β) {f : σ → α → σ} (h : ∀ x a, part (f x a) = part x) (l : List α) (x : σ) :
    part (l.foldl f x) = part x := by
  induction l generalizing x with
  | nil => rfl
  | cons a l ih => exact (ih _).trans (h x a)

@[simp] theorem State.foldl_coll {α : Type} {f : State → α → State} (h : ∀ s a, (f s a).coll = s.coll) (l : List α) (s : State) :
    (l.foldl f s).coll = s.coll := foldl_keeps State.coll h l s

section
variable (s : State)

@[simp] theorem State.takeBlock_coll : s.takeBlock.2.coll = s.coll := rfl
@[simp] theorem State.refusedEvent_coll (master reason addr : Nat) : (s.refusedEvent master reason addr).coll = s.coll := rfl
@[simp] theorem State.useGuild_coll (g page : Nat) (e : Word) : (s.useGuild g page e).coll = s.coll := rfl
@[simp] theorem State.useWalker_coll (h page : Nat) (e : Word) : (s.useWalker h page e).coll = s.coll := rfl
@[simp] theorem State.needRange_coll (g master dva n : Nat) (write : Bool) : (s.needRange g master dva n write).coll = s.coll := rfl
@[simp] theorem State.atCore_coll (c : Nat) (f : Eff → Eff) : (s.atCore c f).coll = s.coll := rfl
@[simp] theorem State.onDray_coll (g id : Nat) (f : DrayDesc → DrayDesc) : (s.onDray g id f).coll = s.coll := rfl
@[simp] theorem State.hostWrite_coll (a : Nat) (runs : Runs) : (s.hostWrite a runs).coll = s.coll := rfl

@[simp] theorem State.onCore_coll (c : Nat) (f : Eff → Eff) : (s.onCore c f).coll = s.coll := by
  unfold State.onCore
  split <;> rfl

@[simp] theorem State.countCore_coll (c ev n : Nat) : (s.countCore c ev n).coll = s.coll := s.onCore_coll _ _

@[simp] theorem State.countUnit_coll (u i n : Nat) : (s.countUnit u i n).coll = s.coll := by
  simp only [State.countUnit]
  split_ifs <;> rfl

/-! ### Blocks where they lie -/

@[simp] theorem State.shaleRead_coll (g a : Nat) : (s.shaleRead g a).2.coll = s.coll := by
  simp only [State.shaleRead]
  split_ifs <;> simp

@[simp] theorem State.shaleWrite_coll (g a : Nat) (runs : Runs) : (s.shaleWrite g a runs).coll = s.coll := by
  simp only [State.shaleWrite, countUnit_coll]
  split_ifs <;> simp

@[simp] theorem State.bedrockLook_coll (k a : Nat) : (s.bedrockLook k a).2.coll = s.coll := by
  simp only [State.bedrockLook]
  split_ifs <;> rfl

@[simp] theorem State.bedrockRead_coll (k a : Nat) : (s.bedrockRead k a).2.coll = s.coll := by
  simp [State.bedrockRead]

@[simp] theorem State.bedrockWrite_coll (k a : Nat) (runs : Runs) : (s.bedrockWrite k a runs).coll = s.coll := by
  simp only [State.bedrockWrite, countUnit_coll]
  split_ifs <;> simp

@[simp] theorem State.readAt_coll (l : Loc) : (s.readAt l).2.coll = s.coll := by
  cases l with
  | shale g a => exact s.shaleRead_coll g a
  | bedrock k a => exact s.bedrockRead_coll k a
  | host | ls | peer | landing | adder => rfl

@[simp] theorem State.writeAt_coll (runs : Runs) (l : Loc) : (s.writeAt runs l).coll = s.coll := by
  cases l with
  | shale g a => exact s.shaleWrite_coll g a runs
  | bedrock k a => exact s.bedrockWrite_coll k a runs
  | host | ls | peer | landing | adder => rfl

@[simp] theorem State.linkEcc_coll (l : Loc) : (s.linkEcc l).coll = s.coll := by
  cases l with
  | bedrock k a => simp [State.linkEcc]
  | shale | host | ls | peer | landing | adder => rfl

@[simp] theorem State.ferry_coll (hops : List Hop) (addr : Nat) : (s.ferry hops addr).2.coll = s.coll := by
  unfold State.ferry
  split
  · dsimp only
    split_ifs <;> simp
  · rfl

@[simp] theorem State.carried_coll (src : Src) (l : Loc) (dva : Nat) (write : Bool) : (s.carried src l dva write).2.coll = s.coll := by
  simp [State.carried]

/-! ### Translation -/

@[simp] theorem State.tableBlock_coll (g page : Nat) : (s.tableBlock g page).2.coll = s.coll := by
  simp [State.tableBlock]

@[simp] theorem State.walk_coll (g page : Nat) : (s.walk g page).2.coll = s.coll := by
  simp only [State.walk]
  split_ifs
  · exact s.tableBlock_coll g page
  · rw [State.useGuild_coll, State.useWalker_coll, State.foldl_coll fun _ _ => State.useWalker_coll _ _ _ _, tableBlock_coll]

@[simp] theorem State.cached_coll (g page : Nat) : (s.cached g page).2.coll = s.coll := by
  unfold State.cached
  split
  · rfl
  · split <;> rfl

@[simp] theorem State.entryOf_coll (g page : Nat) : (s.entryOf g page).2.coll = s.coll := by
  have found := s.cached_coll g page
  unfold State.entryOf
  split
  · next hit => rw [hit] at found; exact found
  · next miss => rw [miss] at found; rw [walk_coll, ← found]

/-! ### Accesses that set out and come back -/

@[simp] theorem State.portBusy_coll (u i : Nat) : (s.portBusy u i).coll = s.coll := countUnit_coll _ _ _ _

@[simp] theorem State.countPath_coll (g pin h pout bytes : Nat) : (s.countPath g pin h pout bytes).coll = s.coll := by
  simp only [State.countPath]
  split_ifs <;> simp

@[simp] theorem State.depart_coll (t : Txn) (l : Loc) (link : Nat) : (s.depart t l link).2.coll = s.coll := by
  simp [State.depart]

@[simp] theorem State.cameBack_coll (t : Txn) (l : Loc) (code : Nat) : (s.cameBack t l code).coll = s.coll := by
  simp [State.cameBack, State.comeBack]

@[simp] theorem State.fromPort_coll (t : Txn) (code : Nat) : (s.fromPort t code).coll = s.coll := by
  unfold State.fromPort
  split
  · exact s.cameBack_coll _ _ _
  · rfl

@[simp] theorem State.lose_coll (t : Txn) : (s.lose t).coll = s.coll := by
  simp only [State.lose]
  split_ifs <;> simp

@[simp] theorem State.egressRequest_coll (l : Nat) (t : Txn) (peer addr : Nat) : (s.egressRequest l t peer addr).coll = s.coll := by
  simp only [State.egressRequest]
  split_ifs
  · exact s.lose_coll t
  · split <;> rfl
  · rfl

@[simp] theorem State.landed_coll (t : Txn) (g off : Nat) : (s.landed t g off).coll = s.coll := by
  rw [State.landed, State.foldl_coll]
  · rfl
  · exact fun _ _ => rfl

@[simp] theorem State.toAdder_coll (t : Txn) (g off : Nat) : (s.toAdder t g off).coll = s.coll := rfl

@[simp] theorem State.reached_coll (t : Txn) : (s.reached t).coll = s.coll := by
  unfold State.reached
  split
  · exact s.egressRequest_coll _ _ _ _
  · split <;> simp
  · exact s.landed_coll _ _ _
  · rfl
  · rfl

@[simp] theorem State.send_coll (t : Txn) (l : Loc) (link : Nat) : (s.send t l link).coll = s.coll := by
  simp only [State.send]
  split_ifs <;> simp

@[simp] theorem State.spoil_coll (t : Txn) (code : Nat) : (s.spoil t code).coll = s.coll := by
  simp only [State.spoil]
  split_ifs <;> simp

@[simp] theorem State.act_coll (t : Txn) (v : Verdict) : (s.act t v).coll = s.coll := by
  unfold State.act
  split
  · simp
  · rfl
  · split <;> simp
  · simp

@[simp] theorem State.fanOut_coll (t : Txn) (n off : Nat) : (s.fanOut t n off).coll = s.coll := by
  simp only [State.fanOut]
  split_ifs <;> simp

@[simp] theorem State.translate_coll (t : Txn) : (s.translate t).coll = s.coll := by
  unfold State.translate
  split_ifs
  · exact s.act_coll _ _
  · split
    · exact s.act_coll _ _
    · exact s.fanOut_coll _ _ _
    · next a target =>
      have found := s.cached_coll t.src.guild (a / 65536)
      split
      · next hit =>
        rw [hit] at found
        dsimp only
        split
        · split_ifs <;> simp [← found]
        · simp [← found]
      · next miss =>
        rw [miss] at found
        exact found

/-! ### Accesses made within one step -/

@[simp] theorem State.readBlock_coll (src : Src) (master dva : Nat) (window : Bool) : (s.readBlock src master dva window).2.coll = s.coll := by
  simp only [State.readBlock]
  split_ifs
  · rfl
  · split <;> simp

@[simp] theorem State.readPart_coll (src : Src) (master : Nat) (p : Nat × Nat × Nat × Nat) (answers : List PeerAnswer) :
    (s.readPart src master p answers).2.2.coll = s.coll := by
  simp only [State.readPart]
  split
  · simp
  · simp
  · split <;> simp

@[simp] theorem State.readRange_coll (src : Src) (master dva n : Nat) (answers : List PeerAnswer) :
    (s.readRange src master dva n answers).2.2.coll = s.coll :=
  foldl_keeps (fun acc : List (Byte × Bool) × List Nat × State => acc.2.2.coll)
    (fun acc p => acc.2.2.readPart_coll src master p answers) _ _

@[simp] theorem State.writeBlock_coll (src : Src) (master cls dva : Nat) (window : Bool) (runs : Runs) :
    (s.writeBlock src master cls dva window runs).2.coll = s.coll := by
  simp only [State.writeBlock]
  split_ifs
  · rfl
  · split
    · simp
    · simp
    · split <;> simp
    · split_ifs <;> simp

@[simp] theorem State.writeRange_coll (src : Src) (master cls dva : Nat) (bs : List (Byte × Bool)) :
    (s.writeRange src master cls dva bs).2.coll = s.coll :=
  foldl_keeps (fun acc : List Nat × State => acc.2.coll) (fun acc p => acc.2.writeBlock_coll src master cls p.1 false _) _ _

/-! ### The library's accesses -/

@[simp] theorem State.libRead_coll (ans : List PeerAnswer) (c a n : Nat) : (s.libRead ans c a n).2.coll = s.coll := by
  simp [State.libRead]

@[simp] theorem State.libWrite_coll (c cls a : Nat) (bs : List (Byte × Bool)) : (s.libWrite c cls a bs).coll = s.coll := by
  simp [State.libWrite]

@[simp] theorem State.libWrote_coll (c : Nat) (outs : List (OutElem × Bool)) : (s.libWrote c outs).coll = s.coll := by
  rw [State.libWrote, State.foldl_coll]
  · rfl
  · exact fun _ _ => rfl

@[simp] theorem State.sendLine_coll (c : Nat) (dst : Target) (bs : List (Byte × Bool)) (after : List Nat) :
    (s.sendLine c dst bs after).coll = s.coll := by
  simp only [State.sendLine]
  split_ifs <;> simp

@[simp] theorem State.sendTo_coll (p : Plan) (l : Layout) (c peer off : Nat) (m : Message) (after : List Nat) :
    (s.sendTo p l c peer off m after).coll = s.coll := by
  unfold State.sendTo
  split_ifs
  · split <;> simp [State.sendMessage]
  · split <;> simp [State.sendMessage]

@[simp] theorem State.sendParams_coll (p : Plan) (l : Layout) (c first n : Nat) (ws : List (Byte × Bool)) :
    (s.sendParams p l c first n ws).coll = s.coll := by
  simp only [State.sendParams]
  refine (State.foldl_coll (fun t q => ?_) _ _).trans (by split_ifs <;> simp)
  split
  · split_ifs <;> simp
  · rfl

@[simp] theorem State.commitCore_coll (ans : List PeerAnswer) (p : Plan) (l : Layout) (c : Nat) : (s.commitCore ans p l c).coll = s.coll := by
  simp only [State.commitCore, State.sendParams_coll]
  exact foldl_keeps (fun x : List (List (Byte × Bool)) × State => x.2.coll) (fun x a => by simp) _ _

end

end Sys2Proof.Machine
end

section
/-! Votes, the hold of a step and its commit (R368, R369), and the step's boundary (R372). -/

namespace Sys2Proof.Machine

open Numbers

theorem planned_plan? {s : State} {p : Plan} {l : Layout} (h : Planned s p l) : s.plan? = some (p, l) := by
  obtain ⟨running, plan, layout⟩ := h
  simp [State.plan?, running, plan, layout]

/-- A step of the library that needs no answers, or has them all, ends in what its meaning gives (log 45). -/
theorem libDone_withAnswers {s w : State} {f : List PeerAnswer → State → State} (h : f (libAnswers s) s = w) :
    LibDone w (s.withAnswers Src.isLib 2 f) :=
  withAnswers_given h

/-! ### The vote of a module (R368) -/

theorem verdict_eq (s : State) (p : Plan) :
    s.verdict p = if ∃ c ∈ s.ownerCores p, (s.core c).evPending.getLsbD 2 = true then 1
      else if ∃ c ∈ s.ownerCores p, (s.core c).evPending.getLsbD 3 = true then 2 else if s.coll.holdDivergence then 3 else 0 := by
  simp only [State.verdict, List.any_eq_true]

theorem voteSend_eq {s : State} {p : Plan} {l : Layout} {v : Nat} (hplan : Planned s p l) (hcore : s.voteCore = some v)
    (hruns : s.coreRuns v = true) (hrole : p.role = 0) (hvoted : s.coll.voted = false)
    (hstaged : ∀ c ∈ s.liveCores, s.ownsPiece p c = true → s.coll.staged.contains c = true) :
    exec .voteSend s = .next { s.sendVotes p l v with coll := { (s.sendVotes p l v).coll with voted := true } } := by
  have staged : (s.ownerCores p).all s.coll.staged.contains = true :=
    List.all_eq_true.2 fun c hc => by
      obtain ⟨live, owns⟩ := List.mem_filter.1 (show c ∈ s.liveCores.filter (s.ownsPiece p) from hc)
      exact hstaged c live owns
  show execVoteSend s = _
  simp only [execVoteSend, planned_plan? hplan, hcore]
  rw [if_neg (by simp [hruns, hrole, hvoted, staged])]

/-- With plain SGD the masters are the weights alone. -/
theorem mastersOf_rule0 (x : Masters) {rule : Nat} (h : rule = 0) : mastersOf x rule = [x.w.toNat] := by
  subst h
  rfl

/-! ### A vote comes (R369) -/

theorem heldWords_step (s : State) (p : Plan) : (s.heldWords p).1[0]? = some (BitVec.ofNat 64 (s.heldWords p).2.coll.step) := rfl

theorem holdStep_spec (s : State) (p : Plan) (c : Nat) : ∃ x ws,
    (ws, x) = (s.libWrite c 0 (p.coll + 0x401800000) (markAll false s.coll.verdictTable)).heldWords p ∧
      ws[0]? = some (BitVec.ofNat 64 x.coll.step) ∧
      s.holdStep p c = { x with coll := { x.coll with held := true }, occurrences := x.occurrences ++ [⟨0x53, ws⟩] } := by
  have step := heldWords_step (s.libWrite c 0 (p.coll + 0x401800000) (markAll false s.coll.verdictTable)) p
  cases words : (s.libWrite c 0 (p.coll + 0x401800000) (markAll false s.coll.verdictTable)).heldWords p with
  | mk ws x =>
    rw [words] at step
    refine ⟨x, ws, rfl, step, ?_⟩
    rw [State.holdStep, verdictOff, words]
    rfl

/-- The module with the vote of owner `i` recorded. -/
def State.withVote (s : State) (i code : Nat) : State := { s with coll := { s.coll with votes := s.coll.votes.set i code } }

section
variable {s : State} {ans : List PeerAnswer} {p : Plan} {l : Layout} {v i code : Nat}

theorem takeVote_of_held (h : s.coll.held = true) : s.takeVote ans p l v i code = s.withVote i code := if_pos h

theorem takeVote_of_hold (h : s.coll.held = false) (hcode : code ≠ 0) : s.takeVote ans p l v i code = (s.withVote i code).holdStep p v :=
  (if_neg (Bool.eq_false_iff.1 h)).trans (if_pos hcode)

theorem takeVote_of_ok (h : s.coll.held = false) : s.takeVote ans p l v i 0 =
    if p.role = 0 ∧ p.owners.all (fun j => (s.withVote i 0).coll.votes.find j = some 0) = true then (s.withVote i 0).commit ans p l
    else s.withVote i 0 :=
  (if_neg (Bool.eq_false_iff.1 h)).trans (if_neg (not_not.2 rfl))

/-- OK votes of some of the owners, or any at a backup, decide nothing. -/
theorem takeVote_of_undecided (h : s.coll.held = false)
    (hopen : p.role = 1 ∨ ∃ j ∈ p.owners, (s.withVote i 0).coll.votes.find j ≠ some 0) :
    s.takeVote ans p l v i 0 = s.withVote i 0 := by
  rw [takeVote_of_ok h, if_neg]
  rintro ⟨hrole, hall⟩
  obtain backup | ⟨j, hj, hvote⟩ := hopen
  · omega
  · exact hvote (of_decide_eq_true (List.all_eq_true.1 hall j hj))

theorem takeVote_of_all_ok (h : s.coll.held = false) (hrole : p.role = 0)
    (hall : ∀ j ∈ p.owners, (s.withVote i 0).coll.votes.find j = some 0) :
    s.takeVote ans p l v i 0 = (s.withVote i 0).commit ans p l := by
  rw [takeVote_of_ok h, if_pos ⟨hrole, List.all_eq_true.2 fun j hj => decide_eq_true (hall j hj)⟩]

end

theorem voteReceive_takes {s : State} {p : Plan} {l : Layout} {v n : Nat} {a b : Fin 64} {m : Message} (hplan : Planned s p l)
    (hruns : s.coreRuns v = true) (hline : s.lineOf (p.coll + voteOff a b) = some (v, n)) (hm : (s.messageAt v n).1 = m)
    (hclean : (s.messageAt v n).2.2 = false) (hkind : m.kind = 2) (hcode : m.code ≤ 3) (hstep : m.step = s.coll.step)
    (howner : p.owners.contains (64 * a + b) = true) (hpeer : m.peer = p.primary a b) (hslot : m.slot = b.val)
    (hopen : s.coll.committed = false) :
    ∃ t, exec (.voteReceive a b) s = .next t ∧ LibDone ((s.readLine v n).takeVote (libAnswers s) p l v (64 * a + b) m.code) t := by
  subst hm
  refine ⟨_, rfl, libDone_withAnswers ?_⟩
  simp only [planned_plan? hplan, hline, hruns, hclean, hkind, hstep, howner, hpeer, hslot, hopen, Nat.not_lt.2 hcode, Bool.not_true,
    Bool.false_eq_true, ne_eq, not_true, if_false, or_self]

/-! ### The step's end (R372) -/

theorem boundary_of_done {s : State} {p : Plan} (hcommit : s.coll.committed = true ∨ p.role = 1)
    (hwide : p.entries / 64 ≤ s.coll.widened.foldl (fun n y => n + y.2) 0)
    (hthin : p.entries / 64 ≤ s.coll.thinned.foldl (fun n y => n + y.2) 0) :
    s.boundary p = { s with coll := s.coll.fresh (s.coll.step + 1) } :=
  if_pos ⟨hcommit, decide_eq_true hwide, decide_eq_true hthin⟩

theorem boundary_of_not_done {s : State} {p : Plan} (h : s.coll.committed = false ∧ p.role ≠ 1 ∨
    s.coll.widened.foldl (fun n y => n + y.2) 0 < p.entries / 64 ∨ s.coll.thinned.foldl (fun n y => n + y.2) 0 < p.entries / 64) :
    s.boundary p = s := by
  refine if_neg ?_
  rintro ⟨hcommit, hwide, hthin⟩
  have wide : p.entries / 64 ≤ s.coll.widened.foldl (fun n y => n + y.2) 0 := of_decide_eq_true hwide
  have thin : p.entries / 64 ≤ s.coll.thinned.foldl (fun n y => n + y.2) 0 := of_decide_eq_true hthin
  obtain ⟨open_, primary⟩ | narrow | thick := h
  · exact hcommit.elim (Bool.eq_false_iff.1 open_) primary
  · omega
  · omega

/-- A step that goes on has not met its boundary. -/
theorem boundary_of_step {s : State} {p : Plan} (h : (s.boundary p).coll.step = s.coll.step) : s.boundary p = s := by
  unfold State.boundary at h ⊢
  dsimp only at h ⊢
  split at h
  · exact absurd h (Nat.succ_ne_self _)
  · rename_i going
    exact if_neg going

/-! ### Commit, also of a backup's copies (R369, Table 14.9) -/

/-- A commit within which the step does not end. -/
theorem commit_coll_of_step {s : State} {ans : List PeerAnswer} {p : Plan} {l : Layout} (h : (s.commit ans p l).coll.step = s.coll.step) :
    (s.commit ans p l).coll = { s.coll with committed := true, held := false } := by
  have kept : (((s.ownerCores p).filter s.coll.staged.contains).foldl (fun (t : State) c => t.commitCore ans p l c) s).coll = s.coll :=
    State.foldl_coll (fun t c => t.commitCore_coll ans p l c) _ _
  unfold State.commit at h ⊢
  generalize ((s.ownerCores p).filter s.coll.staged.contains).foldl (fun (t : State) c => t.commitCore ans p l c) s = w at h kept ⊢
  dsimp only at h ⊢
  rw [boundary_of_step (h.trans (congrArg Collective.step kept).symm), ← kept]

end Sys2Proof.Machine
end

section
/-! COMMIT_BACKUP (Table 14.9), and the generators as they were before the update (R244). -/

namespace Sys2Proof.Machine

open Numbers

/-- The records with another sum, other generators saved and other updates staged. -/
def Collective.restaged (x : Collective) (sums : Tab (List (Word32 × Bool))) (gens : Tab (Tab (BitVec 128))) (staged : List Nat) : Collective :=
  { x with sums := sums, generators := gens, staged := staged }

theorem State.stageUpdate_coll (s : State) (ans : List PeerAnswer) (p : Plan) (l : Layout) (c : Nat) (ys : List Copy) :
    ∃ sums gens staged, (s.stageUpdate ans p l c ys).coll = s.coll.restaged sums gens staged := by
  refine ⟨_, _, _, Eq.trans (b := (Collective.restaged _ _ _ _)) rfl (congrArg (Collective.restaged · _ _ _) ?_)⟩
  rw [State.foldl_coll fun _ _ => State.libWrite_coll _ _ _ _ _, State.libWrote_coll, State.atCore_coll, State.libRead_coll]
  refine (foldl_keeps (fun x : List (List (Byte × Bool)) × State => x.2.coll) (fun x b => State.libRead_coll _ _ _ _ _) _ _).trans ?_
  exact s.libWrote_coll _ _

/-- Setting every index of a list to one value. -/
theorem find_foldl_set {α : Type} (a : α) {k : Nat} (l : List Nat) {t : Tab α} (h : t.find k = some a ∨ k ∈ l) :
    (l.foldl (fun (t : Tab α) j => t.set j a) t).find k = some a := by
  induction l generalizing t with
  | nil => exact h.resolve_right List.not_mem_nil
  | cons j l ih =>
    refine ih ?_
    rw [Tab.find_set]
    split_ifs with here
    · exact .inl rfl
    · exact h.imp id fun mem => (List.mem_cons.1 mem).resolve_left here

/-- Taking the backup's copy for a list of slots changes what is taken alone. -/
theorem foldl_taken (ks : List Nat) (x : Collective) :
    ks.foldl (fun (x : Collective) k => { x with taken := x.taken.set k 1 }) x =
      { x with taken := ks.foldl (fun (t : Tab Nat) k => t.set k 1) x.taken } := by
  induction ks generalizing x with
  | nil => rfl
  | cons k ks ih => exact ih _

theorem State.restoreGenerators_coll (s : State) (cores : List Nat) : (s.restoreGenerators cores).coll = s.coll := by
  rw [State.restoreGenerators, State.foldl_coll]
  exact fun _ _ => rfl

/-- COMMIT_BACKUP commits the module with the backup's copy taken for every divergent slot. -/
theorem commitBackup_commits (s : State) (ans : List PeerAnswer) (p : Plan) (l : Layout) : ∃ w : State,
    s.commitBackup ans p l = w.commit ans p l ∧ w.coll.step = s.coll.step ∧
      w.coll.taken = s.coll.diverged.foldl (fun (t : Tab Nat) k => t.set k 1) s.coll.taken := by
  refine ⟨_, rfl, Prod.mk.inj ((foldl_keeps (fun t : State => (t.coll.step, t.coll.taken)) (fun t c => ?_) _ _).trans ?_)⟩
  · split
    · next ys _ =>
      obtain ⟨_, _, _, coll⟩ := t.stageUpdate_coll ans p l c ys
      rw [coll]
      rfl
    · rfl
  · rw [State.restoreGenerators_coll, foldl_taken]

/-- COMMIT_BACKUP within which the step does not end. -/
theorem commitBackup_of_step {s : State} {ans : List PeerAnswer} {p : Plan} {l : Layout}
    (h : (s.commitBackup ans p l).coll.step = s.coll.step) : (s.commitBackup ans p l).coll.committed = true ∧
      (s.commitBackup ans p l).coll.held = false ∧ ∀ k ∈ s.coll.diverged, (s.commitBackup ans p l).coll.taken.find k = some 1 := by
  obtain ⟨w, commits, step, taken⟩ := commitBackup_commits s ans p l
  rw [commits] at h ⊢
  rw [commit_coll_of_step (h.trans step.symm)]
  refine ⟨rfl, rfl, fun k hk => ?_⟩
  rw [taken]
  exact find_foldl_set 1 _ (.inr hk)

/-! ### The generators of before the update (R244) -/

theorem atCore_lanes (s : State) (c : Nat) (g : Tab (BitVec 128)) :
    ((s.atCore c (fun e => { e with k := { e.k with lanes := g } })).core c).lanes = g := by
  have landed := (atCore_lands s c (fun e => { e with k := { e.k with lanes := g } })).core
  rw [landed]

theorem Tab.mem_of_find {α : Type} {k : Nat} {a : α} : ∀ {t : Tab α}, Tab.find t k = some a → (k, a) ∈ t
  | (i, b) :: t, h => by
    unfold Tab.find at h
    split_ifs at h with here
    · obtain rfl := Option.some.inj h
      exact here ▸ List.mem_cons_self ..
    · exact List.mem_cons_of_mem _ (Tab.mem_of_find h)

theorem Tab.nodup_of_rising {α : Type} : ∀ {t : Tab α} {lo : Nat}, Tab.risingFrom lo t = true →
    (t.map (·.1)).Nodup ∧ ∀ x ∈ t, lo ≤ x.1
  | [], _, _ => ⟨List.nodup_nil, fun _ h => absurd h List.not_mem_nil⟩
  | (i, b) :: t, lo, h => by
    simp only [Tab.risingFrom, Bool.and_eq_true, decide_eq_true_eq] at h
    obtain ⟨nodup, above⟩ := Tab.nodup_of_rising h.2
    refine ⟨List.nodup_cons.2 ⟨fun mem => ?_, nodup⟩, fun x hx => ?_⟩
    · obtain ⟨x, hx, same⟩ := List.mem_map.1 mem
      exact Nat.lt_irrefl i (Nat.lt_of_lt_of_eq (above x hx) same)
    · obtain rfl | hx := List.mem_cons.1 hx
      · exact h.1
      · exact Nat.le_of_succ_le (Nat.le_trans (Nat.succ_le_succ h.1) (above x hx))

/-- The lanes given to each of a list of different cores are there afterwards. -/
theorem foldl_atCore_lanes {c : Nat} {g : Tab (BitVec 128)} {l : Tab (Tab (BitVec 128))} (hl : (l.map (·.1)).Nodup) {s : State}
    (h : (s.core c).lanes = g ∧ c ∉ l.map (·.1) ∨ (c, g) ∈ l) :
    ((l.foldl (fun (s : State) (x : Nat × Tab (BitVec 128)) => s.atCore x.1 (fun e => { e with k := { e.k with lanes := x.2 } })) s).core
      c).lanes = g := by
  induction l generalizing s with
  | nil => exact (h.resolve_right List.not_mem_nil).1
  | cons x l ih =>
    obtain ⟨first, rest⟩ := List.nodup_cons.1 hl
    refine ih rest ?_
    obtain ⟨lanes, other⟩ | mem := h
    · have here := List.ne_of_not_mem_cons other
      exact .inl ⟨by rw [atCore_core_ne s here, lanes], List.not_mem_of_not_mem_cons other⟩
    · obtain rfl | mem := List.mem_cons.1 mem
      · exact .inl ⟨atCore_lanes s c g, first⟩
      · exact .inr mem

theorem restoreGenerators_lanes {s : State} {cores : List Nat} {c : Nat} {g : Tab (BitVec 128)} (hwf : Tab.wf s.coll.generators = true)
    (hc : cores.contains c = true) (hg : s.coll.generators.find c = some g) : ((s.restoreGenerators cores).core c).lanes = g := by
  have distinct := (Tab.nodup_of_rising hwf).1
  refine foldl_atCore_lanes (distinct.sublist (List.filter_sublist.map _)) (.inr ?_)
  exact List.mem_filter.2 ⟨Tab.mem_of_find hg, hc⟩

end Sys2Proof.Machine
end

section
/-! The host's decision (R369, Table 14.9), the working copy (R371) and the image of the generators (R231). -/

namespace Sys2Proof.Machine

open Numbers

/-! ### The host's decision (Table 14.9) -/

theorem wField_top (w : Word) : wField w 63 56 = w.toNat / 2 ^ 56 := by
  have := w.isLt
  rw [wField, bitsOf_eq_div]
  omega

theorem wField_low (w : Word) : wField w 47 0 = w.toNat % 2 ^ 48 := by
  rw [wField, bitsOf_eq_div, pow_zero, Nat.div_one]

/-- The held step a decision meets: a backup holds it now (log 58). -/
def State.heldNow (s : State) (p : Plan) (v : Nat) : State := if s.coll.held then s else s.holdStep p v

section
variable {s : State} {p : Plan} {l : Layout} {v : Nat}

theorem heldStepDecision_eq {w : Word} (hplan : Planned s p l) (hcore : s.voteCore = some v) (hruns : s.coreRuns v = true)
    (hw : w = (s.core v).mailbox) (hheld : s.coll.held = true ∨ p.role = 1) : ∃ t, exec .heldStepDecision s = .next t ∧
      LibDone (if w.toNat % 2 ^ 48 = s.coll.step % 2 ^ 48 ∧ w.toNat / 2 ^ 56 ≠ 0 ∧ w.toNat / 2 ^ 56 ≤ 4
        then (s.heldNow p v).carryOut (libAnswers s) p l (w.toNat / 2 ^ 56) else s) t := by
  subst hw
  refine ⟨_, rfl, libDone_withAnswers ?_⟩
  simp only [planned_plan? hplan, hcore, hruns, wField_top, wField_low, State.heldNow]
  rw [← ite_not]
  refine if_ctx_congr ?_ (fun _ => rfl) fun _ => rfl
  simp [hheld]

end

/-! ### The working copy (R371) -/

theorem natLe_leNat (bs : List Byte) : natLe bs.length (leNat bs) = bs := by
  induction bs with
  | nil => rfl
  | cons b bs ih =>
    have low : BitVec.ofNat 8 (leNat (b :: bs)) = b := by
      refine BitVec.eq_of_toNat_eq ?_
      have := b.isLt
      simp only [BitVec.toNat_ofNat, leNat]
      omega
    have high : leNat (b :: bs) / 256 = leNat bs := by
      have := b.isLt
      simp only [leNat]
      omega
    rw [List.length_cons, natLe, low, high, ih]

theorem markAll_leNat {xs : List (Byte × Bool)} (h : ∀ x ∈ xs, x.2 = false) :
    markAll (xs.any (·.2)) (natLe xs.length (leNat (xs.map (·.1)))) = xs := by
  have clean : xs.any (·.2) = false := List.any_eq_false.2 fun x hx => Bool.eq_false_iff.1 (h x hx)
  have bytes := natLe_leNat (xs.map (·.1))
  rw [List.length_map] at bytes
  rw [clean, bytes, markAll, List.map_map]
  refine (List.map_congr_left (g := id) fun x hx => ?_).trans (List.map_id xs)
  exact Prod.ext rfl (h x hx).symm

/-- A list cut in pieces of one length, joined again. -/
theorem flatMap_range_pieces {α : Type} (k n : Nat) (xs : List α) :
    (List.range n).flatMap (fun j => (xs.drop (k * j)).take k) = xs.take (k * n) := by
  induction n with
  | zero => simp
  | succ n ih => rw [List.range_succ, List.flatMap_append, ih, List.flatMap_singleton, Nat.mul_succ, List.take_add]

/-- A row's place in the rows of one length joined. -/
theorem flatMap_range_piece {α : Type} {k : Nat} {row : Nat → List α} (hrow : ∀ i, (row i).length = k) {n i : Nat} (hi : i < n) :
    (((List.range n).flatMap row).drop (k * i)).take k = row i := by
  induction n with
  | zero => exact absurd hi (Nat.not_lt_zero i)
  | succ n ih =>
    have before : ((List.range n).flatMap row).length = k * n := by
      simp [List.length_flatMap, hrow, Nat.mul_comm]
    rw [List.range_succ, List.flatMap_append, List.flatMap_singleton]
    obtain earlier | rfl := Nat.lt_succ_iff_lt_or_eq.1 hi
    · have fits : k * i + k ≤ k * n := Nat.mul_succ k i ▸ Nat.mul_le_mul_left k earlier
      rw [List.drop_append_of_le_length (by omega), List.take_append_of_le_length (by rw [List.length_drop]; omega)]
      exact ih earlier
    · rw [List.drop_left' before, ← hrow i, List.take_length]

/-- A working copy in the form of the parameters is what was received (R371). -/
theorem widenParams_same {els : List (Byte × Bool)} (scs : List (Byte × Bool)) {g f : Nat} (hlen : els.length = 128)
    (hclean : ∀ x ∈ els, x.2 = false) (hform : g = 0 ∧ f = 1 ∨ g = 1 ∧ f = 2) :
    (widenParams g f els scs).flatMap (fun o => markAll o.1.2 (natLe 2 o.1.1)) = els ∧ ∀ o ∈ widenParams g f els scs, o.2 = false := by
  have narrow : g < 2 := by omega
  have moved : widenParams g f els scs = (List.range 64).map fun j =>
      ((leNat (((els.drop (2 * j)).take 2).map (·.1)), ((els.drop (2 * j)).take 2).any (·.2)), false) := by
    simp only [widenParams, paramAt, if_pos narrow, if_pos hform]
  refine ⟨?_, fun o ho => ?_⟩
  · have piece (j : Nat) (hj : j ∈ List.range 64) : markAll (((els.drop (2 * j)).take 2).any (·.2))
        (natLe 2 (leNat (((els.drop (2 * j)).take 2).map (·.1)))) = (els.drop (2 * j)).take 2 := by
      have two : ((els.drop (2 * j)).take 2).length = 2 := by
        rw [List.mem_range] at hj
        rw [List.length_take, List.length_drop]
        omega
      have same := markAll_leNat (xs := (els.drop (2 * j)).take 2) fun x hx =>
        hclean x (List.mem_of_mem_drop (List.mem_of_mem_take hx))
      rwa [two] at same
    rw [moved, List.flatMap_map]
    calc _ = (List.range 64).flatMap (fun j => (els.drop (2 * j)).take 2) := List.flatMap_congr piece
      _ = els.take (2 * 64) := flatMap_range_pieces 2 64 els
      _ = els := by rw [List.take_of_length_le (by omega)]
  · rw [moved] at ho
    obtain ⟨j, -, rfl⟩ := List.mem_map.1 ho
    rfl

/-! ### The image of the generators (R231, R375) -/

/-- A lane loaded from an image. -/
def Eff.imageLane (im : List (Byte × Bool)) (e : Eff) (l : Nat) : Eff :=
  let x := (im.drop (16 * l)).take 16
  let v := leNat (x.map (·.1))
  if x.any (·.2) then e.raise 0x0E [wd (e.id + l * 65536)]
  else { e with k := { e.k with lanes := e.k.lanes.set l (if v = 0 then laneSeed 0 0 l else BitVec.ofNat 128 v) } }

theorem loadGenerators_eq (e : Eff) (im : List (Byte × Bool)) : e.loadGenerators im = (List.range 64).foldl (Eff.imageLane im) e := rfl

/-- A lane of the image a core saves. -/
theorem generatorImage_lane (k : CoreSt) {l : Nat} (hl : l < 64) :
    ((markAll false k.generatorImage).drop (16 * l)).take 16 = markAll false (natLe 16 (k.lane l).toNat) := by
  rw [markAll, ← List.map_drop, ← List.map_take, CoreSt.generatorImage, flatMap_range_piece (fun i => natLe_length 16 _) hl, markAll]

theorem imageLane_saved (k : CoreSt) (e : Eff) {l : Nat} (hl : l < 64) (h : k.lane l ≠ 0) :
    e.imageLane (markAll false k.generatorImage) l = e.withLanes (e.k.lanes.set l (k.lane l)) e.occ := by
  have value : leNat (natLe 16 (k.lane l).toNat) = (k.lane l).toNat := by
    rw [leNat_natLe, Nat.mod_eq_of_lt (k.lane l).isLt]
  have nonzero : (k.lane l).toNat ≠ 0 := fun zero => h (BitVec.eq_of_toNat_eq zero)
  have clean : (markAll false (natLe 16 (k.lane l).toNat)).any (·.2) = false := by simp [markAll]
  unfold Eff.imageLane
  dsimp only
  rw [generatorImage_lane k hl, clean, markAll_bytes, value, if_neg Bool.false_ne_true, if_neg nonzero, BitVec.ofNat_toNat,
    BitVec.setWidth_eq]
  rfl

theorem imageLane_other (im : List (Byte × Bool)) (e : Eff) {l m : Nat} (h : m ≠ l) : (e.imageLane im l).k.lane m = e.k.lane m := by
  unfold Eff.imageLane
  dsimp only
  split
  · rfl
  · exact (withLanes_lane_set e e.k.lanes e.occ l _ m).trans (if_neg h)

/-- A core that loads an image has the lanes of the core that saved it. -/
theorem loadGenerators_saved (k : CoreSt) (e : Eff) {l : Nat} (hl : l < 64) (h : k.lane l ≠ 0) :
    (e.loadGenerators (markAll false k.generatorImage)).k.lane l = k.lane l := by
  rw [loadGenerators_eq]
  refine foldl_range_invariant (fun n (x : Eff) => l < n → x.k.lane l = k.lane l) (fun none => absurd none (Nat.not_lt_zero l))
    (fun n x hn ih before => ?_) hl
  by_cases here : l = n
  · subst here
    rw [imageLane_saved k x hl h, withLanes_lane_set, if_pos rfl]
  · rw [imageLane_other _ x here, ih (by omega)]

end Sys2Proof.Machine
end

section
/-! The parameters (R370, R371) and the permute (R373 to R375), and the commands of the family together. -/

namespace Sys2Proof.Machine

open Numbers

/-! ### Parameters sent and received (R370, R371) -/

/-- A piece in the form of the masters goes to its one holder, with a PARAM after it. -/
theorem sendParams_one {s : State} {p : Plan} {l : Layout} {q area : Nat} (c first n : Nat) (ws : List (Byte × Bool))
    (hholders : p.holders = [q]) (hgather : p.gather < 2) (harea : s.areaOf p l q = some area) :
    let u := s.libWrite c 2 (area + (0x800000000 + 128 * first)) ws
    s.sendParams p l c first n ws = u.sendTo p l c q (paramOff p.ownSlot c)
      { kind := 4, peer := s.ownPeer, slot := p.ownSlot, step := s.coll.step, blocks := n, first := first } (u.libSince c s.nextTxn) := by
  simp only [State.sendParams, hholders, List.foldl_cons, List.foldl_nil, if_pos hgather, harea, Plan.paramOffs, Plan.paramBytes]

theorem paramReceive_widens {s : State} {p : Plan} {l : Layout} {k : Fin 64} {q : CoreId} {c n : Nat} {m : Message} (hplan : Planned s p l)
    (hruns : s.coreRuns c = true) (hline : s.lineOf (p.coll + paramOff k q) = some (c, n)) (hm : (s.messageAt c n).1 = m)
    (hclean : (s.messageAt c n).2.2 = false) (hkind : m.kind = 4) (hstep : m.step = s.coll.step) (hslot : m.slot = k.val)
    (hk : k.val < p.slotCount) (hblocks : m.blocks ≤ 14528) (hfit : m.first + m.blocks ≤ p.entries / 64)
    (hnew : (m.first, m.blocks) ∉ s.coll.widened) :
    ∃ t, exec (.paramReceive k q) s = .next t ∧ LibDone ((s.readLine c n).widen (libAnswers s) p l c m.first m.blocks) t := by
  subst hm
  refine ⟨_, rfl, libDone_withAnswers ?_⟩
  simp only [planned_plan? hplan, hline, hruns, Bool.not_true, Bool.false_eq_true, if_false]
  refine if_neg ?_
  simp [hclean, hkind, hstep, hslot, hblocks, hk, Plan.blocks, hfit, hnew]

/-! ### The permute (R373 to R375) -/

theorem permute_goesOn {s : State} {p : Plan} {l : Layout} {x : Permute} (hplan : Planned s p l) (hx : s.coll.permute = some x) :
    ∃ t, exec (.permute none) s = .next t ∧ LibDone (s.movePart (libAnswers s) p l x) t := by
  refine ⟨_, rfl, libDone_withAnswers ?_⟩
  simp only [planned_plan? hplan, hx]

theorem permute_starts {s : State} {p : Plan} {l : Layout} (hplan : Planned s p l) (hquiet : s.quietLib = true) (ms : List Move)
    (as : List Arrival) : ∃ t, exec (.permute (some (ms, as))) s = .next t ∧
      LibDone { s with coll := { s.coll with permute := some ⟨ms, as, []⟩ } } t := by
  refine ⟨_, rfl, libDone_withAnswers ?_⟩
  simp only [planned_plan? hplan, if_pos hquiet]

/-- A move goes over: its blocks, a whole-core move's generators, and the TOKEN after them. -/
theorem moveOver_eq {s u w : State} {ans : List PeerAnswer} (p : Plan) (l : Layout) {m : Move} {bs : List (Byte × Bool)}
    (hcopy : (bs, u) = s.copyRuns ans m.core m.runs) (hplain : m.generators = none → w = u)
    (hwhole : ∀ a, m.generators = some a → w = u.libWrite m.core 2 a.toNat (markAll false (u.core m.core).generatorImage)) :
    s.moveOver ans p l m = w.sendTo p l m.core m.peer.toNat (tokenOff p.ownSlot p.role m.target)
      { kind := 1, code := p.role, peer := s.ownPeer, slot := p.ownSlot, step := s.coll.step, blocks := m.blocks.toNat,
        first := m.first.toNat, digest := thinnedDigest (bs.map Prod.fst) } (w.libSince m.core s.nextTxn) := by
  obtain ⟨rfl, rfl⟩ := Prod.ext_iff.1 hcopy
  cases gens : m.generators with
  | none => simp only [State.moveOver, gens, hplain gens]
  | some a => simp only [State.moveOver, gens, hwhole a gens]

/-- The module with the permute at `x`. -/
def State.permuting (s : State) (x : Permute) : State := { s with coll := { s.coll with permute := some x } }

theorem movePart_leaving {s : State} {m : Move} (h : s.coreRuns m.core = true) (ans : List PeerAnswer) (p : Plan) (l : Layout)
    (rest : List Move) (as here : List Arrival) :
    s.movePart ans p l ⟨m :: rest, as, here⟩ = (s.moveOver ans p l m).permuting ⟨rest, as, here⟩ := if_pos h

theorem movePart_arrived {s : State} {m : Arrival} (h : s.coreRuns m.core = true) (ans : List PeerAnswer) (p : Plan) (l : Layout)
    (rest : List Arrival) : s.movePart ans p l ⟨[], [], m :: rest⟩ = (s.moveHome ans m).permuting ⟨[], [], rest⟩ := if_pos h

/-- Of the arriving moves those go on whose TOKEN has not come. -/
theorem notCame_eq (s : State) (p : Plan) (as : List Arrival) :
    as.filter (fun m => !(as.filter (fun m => (s.moveCame p m).isSome)).contains m) = as.filter (fun m => (s.moveCame p m).isNone) := by
  refine List.filter_congr fun m hm => ?_
  have came : (as.filter (fun m => (s.moveCame p m).isSome)).contains m = (s.moveCame p m).isSome := by
    rw [Bool.eq_iff_iff, List.contains_iff_mem, List.mem_filter]
    exact and_iff_right hm
  rw [came, Option.not_isSome]

theorem movePart_arriving (s : State) (ans : List PeerAnswer) (p : Plan) (l : Layout) (a : Arrival) (as here : List Arrival) :
    (s.movePart ans p l ⟨[], a :: as, here⟩).coll.permute = some ⟨[], (a :: as).filter (fun m => (s.moveCame p m).isNone),
      here ++ (a :: as).filter (fun m => (s.moveCame p m).isSome)⟩ := by
  rw [← notCame_eq]
  rfl

/-- Settles O56, a lemma for each command once its answers are there. That COMMIT_BACKUP commits with the backup's copies rests on
what the library's accesses leave alone: its own records. -/
theorem collectiveVotesAndParameters : Obligations.CollectiveVotesAndParameters := by
  refine ⟨?vote, ?staged, ?voteComes, ?commits, ?sent, ?boundary, ?decision, ?backup, ?received, ?moved, ?permute, ?image⟩
  case vote =>
    intro s p l v m w hplan hcore hruns hrole hvoted hstaged hcode hm hw
    rw [← verdict_eq] at hcode
    rw [hcode] at hm
    have sent : s.sendVotes p l v = w := by rw [hw, hm, State.sendVotes, voteOff]
    rw [voteSend_eq hplan hcore hruns hrole hvoted hstaged, sent]
  case staged =>
    rintro s ans p l c first n _ _ ys _ _ _ ws hy x y _ outs e hpiece hrule rfl rfl rfl rfl rfl hx hy' he rfl
    obtain ⟨rfl, rfl⟩ := Prod.ext_iff.1 hx
    obtain ⟨rfl, rfl⟩ := Prod.ext_iff.1 hy'
    obtain ⟨rfl, rfl⟩ := Prod.ext_iff.1 he
    simp only [State.stageUpdate, ← hpiece, mastersOf_rule0 _ hrule, sumsOf, List.foldl_cons, List.foldl_nil, List.zipIdx_cons,
      List.zipIdx_nil, List.nil_append, nth, List.getD_cons_zero, List.getD_cons_succ, List.getD_nil]
  case voteComes =>
    rintro s p l v n _ a b m _ _ _ hplan hruns hline hm hclean hkind hcode hstep rfl howner hpeer hslot hopen rfl rfl rfl
    have line : s.lineOf (p.coll + voteOff a b) = some (v, n) := by simpa only [voteOff, ← Nat.add_assoc] using hline
    obtain ⟨t, run, done⟩ := voteReceive_takes hplan hruns line hm hclean hkind hcode hstep howner hpeer hslot hopen
    refine ⟨t, run, fun held => ?_, fun free hold => ?_, fun free ok hopen => ?_, fun free ok hrole hall => ?_⟩
    · rwa [takeVote_of_held held] at done
    · rw [takeVote_of_hold free hold] at done
      obtain ⟨x, ws, words, step, holds⟩ := holdStep_spec ((s.readLine v n).withVote (64 * a + b) m.code) p v
      rw [holds] at done
      refine ⟨x, ws, words.trans ?_, step, done⟩
      rw [markAll, Collective.verdictTable, List.map_map]
      rfl
    · rw [ok] at done hopen ⊢
      rwa [takeVote_of_undecided free hopen] at done
    · rw [ok] at done hall ⊢
      rwa [takeVote_of_all_ok free hrole hall] at done
  case commits =>
    rintro s u _ ans p l c first n ws hpiece hrule hread rfl
    obtain ⟨rfl, rfl⟩ := Prod.ext_iff.1 hread
    simp only [State.commitCore, ← hpiece, mastersOf_rule0 _ hrule, List.zip_cons_cons, List.zip_nil_left, List.foldl_cons,
      List.foldl_nil, List.nil_append, nth, List.getD_cons_zero]
  case sent =>
    rintro s _ p l q c area first n ws hholders hgather harea rfl
    exact sendParams_one c first n ws hholders hgather harea
  case boundary =>
    exact fun s p => ⟨boundary_of_done, boundary_of_not_done⟩
  case decision =>
    intro s p l v w hplan hcore hruns hw hheld
    obtain ⟨t, run, done⟩ := heldStepDecision_eq hplan hcore hruns hw hheld
    refine ⟨t, s.heldNow p v, run, fun held => if_pos held, fun free => if_neg (Bool.eq_false_iff.1 free), fun other => ?_, fun none => ?_,
      fun step => ⟨fun code => ?_, fun code => ?_, fun code => ?_, fun code => ?_⟩⟩
    · rwa [if_neg fun h => other h.1] at done
    · rwa [if_neg (by omega)] at done
    · rwa [if_pos (by omega), code] at done
    · rwa [if_pos (by omega), code] at done
    · rw [if_pos (by omega), code] at done
      refine ⟨_, done, ?_, fun hwf c g live saved => restoreGenerators_lanes hwf live saved⟩
      exact congrArg (fun x : Collective => x.fresh x.step) (State.restoreGenerators_coll _ _)
    · rwa [if_pos (by omega), code] at done
  case backup => exact fun s ans p l _ step => commitBackup_of_step step
  case received =>
    rintro s p l k q c line _ _ m els scs _ u w hplan hruns hline hm hclean hkind hstep hslot hk rfl hblocks hfit hnew rfl hels hscs rfl
    obtain ⟨rfl, rfl⟩ := Prod.ext_iff.1 hels
    obtain ⟨rfl, rfl⟩ := Prod.ext_iff.1 hscs
    have its : s.lineOf (p.coll + paramOff k q) = some (c, line) := by simpa only [paramOff, ← Nat.add_assoc] using hline
    obtain ⟨t, run, done⟩ := paramReceive_widens hplan hruns its hm hclean hkind hstep hslot hk hblocks hfit hnew
    exact ⟨t, _, run, rfl, done⟩
  case moved => exact fun els scs g f hlen hclean hform => widenParams_same scs hlen hclean hform
  case permute =>
    intro s p l hplan
    refine ⟨fun ms as hquiet => permute_starts hplan hquiet ms as, ?leaves, ?comes, ?home, ?ends⟩
    case leaves =>
      rintro m rest as here bs u w _ hx hruns hcopy hplain hwhole rfl
      obtain ⟨t, run, done⟩ := permute_goesOn hplan hx
      rw [movePart_leaving hruns, moveOver_eq p l hcopy hplain hwhole] at done
      exact ⟨t, run, done⟩
    case comes =>
      intro a as here hx
      obtain ⟨t, run, done⟩ := permute_goesOn hplan hx
      exact ⟨t, _, run, done, movePart_arriving s _ p l a as here⟩
    case home =>
      rintro m rest _ hx hruns rfl
      obtain ⟨t, run, done⟩ := permute_goesOn hplan hx
      rw [movePart_arrived hruns] at done
      refine ⟨t, s.moveHome (libAnswers s) m, run, done, fun plain => ?_, fun a im y whole hread => ?_⟩
      · rw [State.moveHome, plain]
      · obtain ⟨rfl, rfl⟩ := Prod.ext_iff.1 hread
        rw [State.moveHome, whole]
    case ends =>
      intro hx
      exact permute_goesOn hplan hx
  case image => exact fun k k' n l hl h => loadGenerators_saved k _ hl h

end Sys2Proof.Machine
end

section
/-! Accesses on their way (R245 to R257): what moving them changes, and what it leaves alone. -/

namespace Sys2Proof.Machine

/-! ### What moving accesses changes -/

/-- The module with what moving accesses changes taken from `y`: the pool, the guilds, the tiers, host memory, the links' entries, what
was counted and what was raised. -/
def State.withAccesses (s y : State) : State :=
  { s with
    guilds := y.guilds, tiers := y.tiers, txns := y.txns, nextTxn := y.nextTxn, nextIssue := y.nextIssue, links := y.links,
    occurrences := y.occurrences, hostMem := y.hostMem, hostPoison := y.hostPoison, unitCounters := y.unitCounters,
    bwNow := y.bwNow, free := y.free }

/-- From `s` to `t` accesses have moved, and nothing else has changed. -/
def Afar (s t : State) : Prop := t = s.withAccesses t

namespace Afar

theorem refl (s : State) : Afar s s := rfl

theorem trans {s t u : State} (h : Afar s t) (h' : Afar t u) : Afar s u := by
  unfold Afar at h h' ⊢
  rw [h] at h'
  exact h'

theorem fold {α : Type} {f : State → α → State} (h : ∀ s a, Afar s (f s a)) (l : List α) (s : State) : Afar s (l.foldl f s) :=
  List.foldlRecOn l _ (refl s) fun t ht a _ => ht.trans (h t a)

/-- What no access changes reads as before. -/
theorem read {s t : State} {β : Type} (h : Afar s t) (f : State → β)
    (hf : ∀ s y, f (State.withAccesses s y) = f s := by exact fun _ _ => rfl) : f t = f s :=
  (congrArg f h).trans (hf s t)

end Afar

theorem Counted.afar {s t : State} (h : Counted s t) : Afar s t := by
  unfold Counted at h
  rw [h]
  exact rfl

theorem OnTiers.afar {s t : State} (h : OnTiers s t) : Afar s t := by
  unfold OnTiers at h
  rw [h]
  exact rfl

/-- From `s` to `t` accesses have moved towards their targets: no block of a tier was touched, and no place in the order of issue was
given back. -/
structure Sends (s t : State) : Prop where
  afar : Afar s t
  tiers : t.tiers = s.tiers
  issue : s.nextIssue ≤ t.nextIssue

namespace Sends

theorem refl (s : State) : Sends s s := ⟨.refl s, rfl, Nat.le_refl _⟩

theorem trans {s t u : State} (h : Sends s t) (h' : Sends t u) : Sends s u :=
  ⟨h.afar.trans h'.afar, h'.tiers.trans h.tiers, h.issue.trans h'.issue⟩

theorem ite {s t u : State} {p : Prop} [Decidable p] (h : Sends s t) (h' : Sends s u) : Sends s (if p then t else u) := by
  split <;> assumption

theorem fold {α : Type} {f : State → α → State} (h : ∀ s a, Sends s (f s a)) (l : List α) (s : State) : Sends s (l.foldl f s) :=
  List.foldlRecOn l _ (refl s) fun t ht a _ => ht.trans (h t a)

end Sends

/-! ### Counting along a path (R464) -/

section
variable (s : State)

@[simp] theorem State.countUnit_nextIssue (u i n : Nat) : (s.countUnit u i n).nextIssue = s.nextIssue := by
  simp only [State.countUnit]
  split_ifs <;> rfl

@[simp] theorem State.countUnit_free (u i n : Nat) : (s.countUnit u i n).free = s.free := by
  simp only [State.countUnit]
  split_ifs <;> rfl

@[simp] theorem State.portBusy_nextIssue (u i : Nat) : (s.portBusy u i).nextIssue = s.nextIssue :=
  State.countUnit_nextIssue _ _ _ _

@[simp] theorem State.countPath_nextIssue (g pin h pout bytes : Nat) : (s.countPath g pin h pout bytes).nextIssue = s.nextIssue := by
  have crossed : ((pathOf g pin h pout).foldl (fun (s : State) x =>
      (s.countUnit x.1 (0x301 + 2 * x.2.1) bytes).countUnit x.1 (0x300 + 2 * x.2.2) bytes) s).nextIssue = s.nextIssue :=
    foldl_keeps State.nextIssue (fun _ _ => by simp) _ _
  simp only [State.countPath]
  split_ifs <;> simpa using crossed

theorem Counted.sends {s t : State} (h : Counted s t) (issue : s.nextIssue ≤ t.nextIssue) : Sends s t :=
  ⟨h.afar, h.read (·.tiers), issue⟩

theorem State.depart_sends (x : Txn) (l : Loc) (link : Nat) : Sends s (s.depart x l link).2 := by
  refine (depart_counted s x l link).sends ?_
  simp [State.depart]

theorem State.comeBack_sends (x : Txn) (l : Loc) (code : Nat) : Sends s (s.comeBack x l code).2 := by
  have counted : Counted s (s.comeBack x l code).2 :=
    Counted.trans (t := { s with nextIssue := s.nextIssue + 1 }) rfl (countPath_counted _ _ _ _ _ _)
  refine counted.sends ?_
  simp [State.comeBack]

/-! ### An access in the pool, at the end of its path, or on its way -/

theorem State.putTxn_sends (x : Txn) : Sends s (s.putTxn x) := ⟨rfl, rfl, Nat.le_refl _⟩
theorem State.raise_sends (code : Nat) (ws : List Word) : Sends s (s.raise code ws) := ⟨rfl, rfl, Nat.le_refl _⟩
theorem State.takeBlock_sends : Sends s s.takeBlock.2 := ⟨rfl, rfl, Nat.le_refl _⟩
theorem State.setLink_sends (l : Nat) (k : LinkSt) : Sends s (s.setLink l k) := ⟨rfl, rfl, Nat.le_refl _⟩
theorem State.hostWrite_sends (a : Nat) (runs : Runs) : Sends s (s.hostWrite a runs) := ⟨rfl, rfl, Nat.le_refl _⟩

theorem State.cameBack_sends (x : Txn) (l : Loc) (code : Nat) : Sends s (s.cameBack x l code) :=
  (s.comeBack_sends x l code).trans (State.putTxn_sends _ _)

theorem State.fromPort_sends (x : Txn) (code : Nat) : Sends s (s.fromPort x code) := by
  unfold State.fromPort
  split
  · exact s.cameBack_sends _ _ _
  · exact s.putTxn_sends _

theorem State.lose_sends (x : Txn) : Sends s (s.lose x) := by
  unfold State.lose
  exact .ite (s.fromPort_sends _ _) (s.takeBlock_sends.trans (State.fromPort_sends _ _ _))

theorem State.egressRequest_sends (l : Nat) (x : Txn) (peer addr : Nat) : Sends s (s.egressRequest l x peer addr) := by
  have joins (k : LinkSt) : Sends s ((s.putTxn x).setLink l k) := (s.putTxn_sends x).trans (State.setLink_sends _ _ _)
  unfold State.egressRequest
  dsimp only
  refine .ite (s.lose_sends x) (.ite ?_ (joins _))
  split
  · exact joins _
  · exact joins _

theorem State.landed_sends (x : Txn) (g off : Nat) : Sends s (s.landed x g off) := by
  unfold State.landed
  have dropped : Sends s (s.dropTxn x.id) := ⟨rfl, rfl, Nat.le_refl _⟩
  refine dropped.trans (.fold (fun m c => ?_) _ _)
  exact ⟨rfl, rfl, Nat.le_succ m.nextIssue⟩

theorem State.toAdder_sends (x : Txn) (g off : Nat) : Sends s (s.toAdder x g off) := ⟨rfl, rfl, Nat.le_refl _⟩

theorem State.reached_sends (x : Txn) : Sends s (s.reached x) := by
  unfold State.reached
  split
  · exact s.egressRequest_sends _ _ _ _
  · exact .ite ((s.hostWrite_sends _ _).trans (State.cameBack_sends _ _ _ _)) (s.cameBack_sends _ _ _)
  · exact s.landed_sends _ _ _
  · exact s.toAdder_sends _ _ _
  · exact s.putTxn_sends _

theorem State.send_sends (x : Txn) (l : Loc) (link : Nat) : Sends s (s.send x l link) :=
  (s.depart_sends x l link).trans (.ite (State.reached_sends _ _) (State.putTxn_sends _ _))

theorem State.spoil_sends (x : Txn) (code : Nat) : Sends s (s.spoil x code) := by
  unfold State.spoil
  exact .ite (s.putTxn_sends _) (s.takeBlock_sends.trans (State.putTxn_sends _ _))

theorem State.act_sends (x : Txn) (v : Verdict) : Sends s (s.act x v) := by
  unfold State.act
  split
  · exact (s.raise_sends _ _).trans (State.spoil_sends _ _ _)
  · exact s.putTxn_sends _
  · split
    · exact s.send_sends _ _ _
    · exact s.spoil_sends _ _
  · exact s.send_sends _ _ _

end

/-! ### The placement caches (R252) -/

/-- The entry of a page in the caches of a guild: its own, else its half's. -/
theorem cached_entry (s : State) (g page : Nat) :
    (s.cached g page).1 = (PtCache.find (s.guild g).cache page).or (PtCache.find (s.walker (g / 16)) page) := by
  unfold State.cached
  cases PtCache.find (s.guild g).cache page with
  | some e => rfl
  | none => cases PtCache.find (s.walker (g / 16)) page <;> rfl

/-- From `s` to `t` placement caches have been used, and nothing else has changed. -/
def CachesUsed (s t : State) : Prop := t = { s with guilds := t.guilds, tiers := { s.tiers with walkers := t.tiers.walkers } }

theorem CachesUsed.trans {s t u : State} (h : CachesUsed s t) (h' : CachesUsed t u) : CachesUsed s u := by
  unfold CachesUsed at h h' ⊢
  rw [h] at h'
  exact h'

/-- What no cache changes reads as before. -/
theorem CachesUsed.read {s t : State} {β : Type} (h : CachesUsed s t) (f : State → β)
    (hf : ∀ (s : State) g w, f { s with guilds := g, tiers := { s.tiers with walkers := w } } = f s := by exact fun _ _ _ => rfl) :
    f t = f s :=
  (congrArg f h).trans (hf s _ _)

theorem CachesUsed.afar {s t : State} (h : CachesUsed s t) : Afar s t := by
  unfold CachesUsed at h
  rw [h]
  exact rfl

theorem useGuild_cachesUsed (s : State) (g page : Nat) (e : Word) : CachesUsed s (s.useGuild g page e) := rfl
theorem useWalker_cachesUsed (s : State) (h page : Nat) (e : Word) : CachesUsed s (s.useWalker h page e) := rfl

theorem cached_cachesUsed (s : State) (g page : Nat) : CachesUsed s (s.cached g page).2 := by
  unfold State.cached
  split
  · exact useGuild_cachesUsed ..
  · split
    · exact (useWalker_cachesUsed ..).trans (useGuild_cachesUsed ..)
    · exact rfl

end Sys2Proof.Machine
end

section
/-! An engine's next access takes a tag and is translated (R246, R249 to R255, R289 to R291). -/

namespace Sys2Proof.Machine

/-! ### The pool -/

/-- An access of the pool replaced. -/
theorem moved_putTxn {s m : State} {y : Txn} (hy : ∃ x ∈ s.txns, x.id = y.id) (hm : m.txns = s.txns) : Moved s (m.putTxn y) y := by
  have pool (n : Nat) : m.txn n = s.txn n := congrArg (List.find? _) hm
  refine ⟨?_, fun n hn => (txn_putTxn_of_ne m hn).trans (pool n)⟩
  have same : ((fun u : Txn => decide (u.id = y.id)) ∘ fun u => if u.id = y.id then y else u) = fun u => decide (u.id = y.id) := by
    funext u
    by_cases hu : u.id = y.id <;> simp [hu]
  cases found : s.txn y.id with
  | none =>
    obtain ⟨x, hx, hid⟩ := hy
    exact absurd hid (by simpa using List.find?_eq_none.1 found x hx)
  | some x =>
    have hx : x.id = y.id := by simpa using List.find?_some found
    have here := (pool y.id).trans found
    rw [State.txn] at here ⊢
    rw [State.putTxn, List.find?_map, same, here, Option.map_some, if_pos hx]

/-! ### The first in line takes a tag (R289 to R292) -/

section
variable {s : State} {src : Src} {x : Txn}

theorem pickTag_of_issuable (h : Issuable s src x) : s.pickTag src [] (s.inLine src) = (some x, s) := by
  obtain ⟨first, free, -, cap⟩ := h
  obtain ⟨rest, line⟩ := List.head?_eq_some_iff.1 first
  rw [line, State.pickTag]
  cases bank : (s.headed x).bind Loc.bank with
  | none => simp [free]
  | some b => cases place : s.headed x with
    | none => simp [free]
    | some l => simp [free, cap b bank]

theorem issueTag_of_issuable (h : Issuable s src x) :
    s.issueTag src = { s.chargeIssue x with nextIssue := s.nextIssue + 1 }.translate { x with issue := s.nextIssue } := by
  have tags : ¬ s.tagsHeld src ≥ src.caps.1 := Nat.not_le.2 h.2.2.1
  rw [State.issueTag, if_neg tags, pickTag_of_issuable h]

/-- The access an engine issues is one of its own in the pool. -/
theorem mem_txns_of_issuable (h : Issuable s src x) : x ∈ s.txns ∧ x.src = src := by
  have inLine : x ∈ s.inLine src := List.mem_of_head? h.1
  have waits : x ∈ s.txns.filter (fun t => decide (t.src = src) && decide (t.phase = .waiting)) := by
    unfold State.inLine at inLine
    dsimp only at inLine
    split at inLine
    · obtain ⟨d, -, hx⟩ := List.mem_flatMap.1 inLine
      exact (List.mem_filter.1 hx).1
    · exact inLine
  obtain ⟨mem, own⟩ := List.mem_filter.1 waits
  exact ⟨mem, of_decide_eq_true (Bool.and_eq_true_iff.1 own).1⟩

end

theorem exec_tagIssue {s : State} {engine : Fin 3} {n : CoreId} (h : if engine = 2 then n.val < 32 else s.coreRuns n = true) :
    exec (.tagIssue engine n) s = .next (s.issueTag (issuer engine n)) := by
  show execTagIssue engine n s = _
  unfold execTagIssue issuer
  split_ifs at h ⊢
  · rfl
  · rfl
  · rfl

/-- The engines that take tags are the Carters and the Draymen. -/
theorem issuer_ne_host (engine : Fin 3) (n : Nat) : issuer engine n ≠ .host := by
  unfold issuer
  split_ifs <;> exact Src.noConfusion

/-- Charging an access to its invocation changes cores alone. -/
theorem chargeIssue_cores (s : State) (x : Txn) : s.chargeIssue x = { s with cores := (s.chargeIssue x).cores } := by
  unfold State.chargeIssue
  dsimp only
  split
  · split <;> rfl
  · split <;> rfl
  · rfl

/-! ### A verdict carried out (R249, R250, R255) -/

/-- Link port `k` is the one by which a place is reached: a peer's route, no port elsewhere. -/
def State.linkTo (s : State) (l : Loc) (k : Nat) : Prop :=
  match l with
  | .peer p _ => s.routeOf p = some k
  | _ => k = 0

section
variable {s m : State} {x : Txn} (hx : ∃ y ∈ s.txns, y.id = x.id) (hm : m.txns = s.txns)
include hx hm

theorem act_refuse (r : Nat) : (∃ d, Moved s (m.act x (.refuse r)) { x with phase := .done r, poison := true, data := d }) ∧
    (m.act x (.refuse r)).occurrences = m.occurrences ++ [⟨0x20, [wd (x.master + r * 65536), wd x.addr]⟩] := by
  simp only [State.act, State.spoil]
  split_ifs
  · exact ⟨⟨x.data, moved_putTxn hx hm⟩, rfl⟩
  · exact ⟨⟨_, moved_putTxn hx hm⟩, rfl⟩

/-- An access that has hops to cross sets out. -/
theorem send_of_hops {l : Loc} {k : Nat} (hops : hopsOut x.src l k ≠ []) :
    Moved s (m.send x l k) (departed m x l k) ∧ (m.send x l k).occurrences = m.occurrences := by
  have counted := depart_counted m x l k
  have sent : m.send x l k = (m.depart x l k).2.putTxn (departed m x l k) := if_neg hops
  rw [sent]
  exact ⟨moved_putTxn hx ((counted.read (·.txns)).trans hm), counted.read (·.occurrences)⟩

theorem act_go {l : Loc} {k : Nat} {bad : Bool} (link : m.linkTo l k) (hops : hopsOut x.src l k ≠ []) :
    Moved s (m.act x (.go l bad)) (departed m { x with poison := x.poison || (bad && !x.write) } l k) ∧
      (m.act x (.go l bad)).occurrences = m.occurrences := by
  have sets := send_of_hops (x := { x with poison := x.poison || (bad && !x.write) }) hx hm hops
  cases l with
  | peer p a =>
    have route : m.routeOf p = some k := link
    simpa only [State.act, route] using sets
  | shale | bedrock | host | ls | landing | adder =>
    obtain rfl : k = 0 := link
    exact sets

end

/-! ### Translation (R246, R252, R283) -/

/-- Does a verdict send an access behind an earlier one that it must not pass (R174)? -/
def State.follows (s : State) (x : Txn) : Verdict → Bool
  | .go l _ => s.behind x l
  | _ => false

section
variable {s : State} {x : Txn}

theorem translate_of_malformed (h : x.malformed = true) : s.translate x = s.act x (.refuse 2) := if_pos h

variable (h : x.malformed = false)
include h

theorem translate_of_core {c o : Nat} (target : x.target = .core c o) :
    s.translate x = s.act x (if s.fenced c then .refuse 2 else .go (.ls c o) false) := by
  simp only [State.translate, h, target, Bool.false_eq_true, if_false]

theorem translate_of_miss {a : Nat} (target : x.target = .dva a) (miss : (s.cached x.src.guild (a / 65536)).1 = none) :
    s.translate x = (s.cached x.src.guild (a / 65536)).2.putTxn { x with phase := .walking } := by
  generalize look : s.cached x.src.guild (a / 65536) = y at miss ⊢
  obtain ⟨e, u⟩ := y
  obtain rfl : e = none := miss
  simp only [State.translate, h, target, look, Bool.false_eq_true, if_false]

variable {a : Nat} {e : Word} {u : State} (target : x.target = .dva a) (host : x.src ≠ .host)
  (hit : s.cached x.src.guild (a / 65536) = (some e, u))
include target host hit

theorem translate_of_hit {v : Verdict} (hv : v = s.judge (some e) x.master a x.write false) :
    s.translate x = if u.follows x v then u.putTxn { x with phase := .walking } else u.act x v := by
  have used := cached_cachesUsed s x.src.guild (a / 65536)
  rw [hit] at used
  have judged : u.judge (some e) x.master a x.write false = v := (used.read (·.judge (some e) x.master a x.write false)).trans hv.symm
  simp only [State.translate, h, target, hit, host, decide_false, judged, Bool.false_eq_true, if_false]
  cases v <;> rfl

end

/-- Translation gives no place in the order of issue back. -/
theorem translate_issue (s : State) {x : Txn} (host : x.src ≠ .host) (noSet : ∀ g o, x.target ≠ .set g o) :
    s.nextIssue ≤ (s.translate x).nextIssue := by
  cases formed : x.malformed with
  | true =>
    rw [translate_of_malformed formed]
    exact (s.act_sends _ _).issue
  | false =>
    cases target : x.target with
    | set g o => exact absurd target (noSet g o)
    | core c o =>
      rw [translate_of_core formed target]
      exact (s.act_sends _ _).issue
    | dva a =>
      have used := cached_cachesUsed s x.src.guild (a / 65536)
      have place : (s.cached x.src.guild (a / 65536)).2.nextIssue = s.nextIssue := used.read (·.nextIssue)
      cases miss : (s.cached x.src.guild (a / 65536)).1 with
      | none =>
        rw [translate_of_miss formed target miss]
        exact place.ge
      | some e =>
        rw [translate_of_hit formed target host (Prod.ext miss rfl) rfl]
        split_ifs
        · exact place.ge
        · exact place.ge.trans (State.act_sends _ _ _).issue

/-! ### TAG_ISSUE -/

/-- What is known of the module `w` in which access `y` of module `s` has taken its tag and its place in the order of issue. -/
structure Tagged (s w : State) (y : Txn) : Prop where
  rest : w = { s with cores := w.cores, nextIssue := s.nextIssue + 1 }
  mem : ∃ x ∈ s.txns, x.id = y.id
  host : y.src ≠ .host

theorem tagged_of_issuable {s : State} {engine : Fin 3} {n : CoreId} {x : Txn} (h : Issuable s (issuer engine n) x) :
    Tagged s { s.chargeIssue x with nextIssue := s.nextIssue + 1 } { x with issue := s.nextIssue } := by
  obtain ⟨mem, own⟩ := mem_txns_of_issuable h
  refine ⟨?_, ⟨x, mem, rfl⟩, own ▸ issuer_ne_host engine n⟩
  rw [chargeIssue_cores s x]

namespace Tagged

variable {s w : State} {y : Txn} (h : Tagged s w y)
include h

/-- What a tag does not change reads as before. -/
theorem read {β : Type} (f : State → β) (hf : ∀ (s : State) k i, f { s with cores := k, nextIssue := i } = f s := by exact fun _ _ _ => rfl) :
    f w = f s := (congrArg f h.rest).trans (hf s _ _)

theorem entry (g page : Nat) : (w.cached g page).1 = (s.cached g page).1 := by
  rw [cached_entry, cached_entry]
  exact h.read fun s => (PtCache.find (s.guild g).cache page).or (PtCache.find (s.walker (g / 16)) page)

theorem advances (noSet : ∀ g o, y.target ≠ .set g o) : s.nextIssue < (w.translate y).nextIssue := by
  have next : w.nextIssue = s.nextIssue + 1 := congrArg State.nextIssue h.rest
  exact Nat.lt_of_lt_of_le (next ▸ Nat.lt_succ_self s.nextIssue) (translate_issue w h.host noSet)

theorem refused (r : Nat) : (∃ d, Moved s (w.act y (.refuse r)) { y with phase := .done r, poison := true, data := d }) ∧
    (w.act y (.refuse r)).occurrences = s.occurrences ++ [⟨0x20, [BitVec.ofNat 64 (y.master + r * 65536), BitVec.ofNat 64 y.addr]⟩] := by
  have refuses := act_refuse h.mem (h.read (·.txns)) r
  rwa [h.read (·.occurrences)] at refuses

theorem malformed (hy : y.malformed = true) :
    (∃ d, Moved s (w.translate y) { y with phase := .done 2, poison := true, data := d }) ∧
      (w.translate y).occurrences = s.occurrences ++ [⟨0x20, [BitVec.ofNat 64 (y.master + 2 * 65536), BitVec.ofNat 64 y.addr]⟩] := by
  rw [translate_of_malformed hy]
  exact h.refused 2

variable (hy : y.malformed = false)
include hy

theorem toCore {c o : Nat} (target : y.target = .core c o) :
    (s.fenced c = false → Moved s (w.translate y) (departed w y (.ls c o) 0) ∧ (w.translate y).occurrences = s.occurrences) ∧
      (s.fenced c = true → (∃ d, Moved s (w.translate y) { y with phase := .done 2, poison := true, data := d }) ∧
        (w.translate y).occurrences = s.occurrences ++ [⟨0x20, [BitVec.ofNat 64 (y.master + 2 * 65536), BitVec.ofNat 64 y.addr]⟩]) := by
  rw [translate_of_core hy target, h.read (·.fenced c)]
  refine ⟨fun live => ?_, fun fenced => ?_⟩
  · have sets := act_go (bad := false) (l := .ls c o) h.mem (h.read (·.txns)) (k := 0) rfl (by simp [hopsOut, Loc.hop])
    rw [h.read (·.occurrences)] at sets
    rw [live]
    simpa using sets
  · rw [fenced]
    exact h.refused 2

variable {a : Nat} (target : y.target = .dva a)
include target

theorem misses (miss : (s.cached y.src.guild (a / 65536)).1 = none) :
    Moved s (w.translate y) { y with phase := .walking } ∧ (w.translate y).occurrences = s.occurrences := by
  have used := cached_cachesUsed w y.src.guild (a / 65536)
  rw [translate_of_miss hy target ((h.entry _ _).trans miss)]
  exact ⟨moved_putTxn h.mem ((used.read (·.txns)).trans (h.read (·.txns))), (used.read (·.occurrences)).trans (h.read (·.occurrences))⟩

variable {e : Word} {v : Verdict} (hit : (s.cached y.src.guild (a / 65536)).1 = some e)
  (hv : v = s.judge (some e) y.master a y.write false)
include hit hv

/-- An access whose entry is cached meets its verdict, or waits for the walker behind one that it must not pass. -/
theorem hits : w.translate y = if (w.cached y.src.guild (a / 65536)).2.follows y v
    then (w.cached y.src.guild (a / 65536)).2.putTxn { y with phase := .walking } else (w.cached y.src.guild (a / 65536)).2.act y v :=
  translate_of_hit hy target h.host (Prod.ext ((h.entry _ _).trans hit) rfl)
    (hv.trans (h.read (·.judge (some e) y.master a y.write false)).symm)

theorem held (hold : v = .hold) :
    Moved s (w.translate y) { y with phase := .held } ∧ (w.translate y).occurrences = s.occurrences := by
  have used := cached_cachesUsed w y.src.guild (a / 65536)
  rw [h.hits hy target hit hv, hold]
  exact ⟨moved_putTxn h.mem ((used.read (·.txns)).trans (h.read (·.txns))), (used.read (·.occurrences)).trans (h.read (·.occurrences))⟩

theorem refusedHit {r : Nat} (refuse : v = .refuse r) :
    (∃ d, Moved s (w.translate y) { y with phase := .done r, poison := true, data := d }) ∧
      (w.translate y).occurrences = s.occurrences ++ [⟨0x20, [BitVec.ofNat 64 (y.master + r * 65536), BitVec.ofNat 64 a]⟩] := by
  have used := cached_cachesUsed w y.src.guild (a / 65536)
  have refuses := act_refuse h.mem ((used.read (·.txns)).trans (h.read (·.txns))) r
  have addr : y.addr = a := by simp only [Txn.addr, target, Target.addr]
  rw [(used.read (·.occurrences)).trans (h.read (·.occurrences)), addr] at refuses
  rw [h.hits hy target hit hv, refuse]
  exact refuses

variable {l : Loc} {bad : Bool} (go : v = .go l bad)
include go

theorem waits (follows : (w.cached y.src.guild (a / 65536)).2.behind y l = true) : Moved s (w.translate y) { y with phase := .walking } := by
  have used := cached_cachesUsed w y.src.guild (a / 65536)
  rw [h.hits hy target hit hv, go, State.follows, if_pos follows]
  exact moved_putTxn h.mem ((used.read (·.txns)).trans (h.read (·.txns)))

theorem goes {k : Nat} (first : (w.cached y.src.guild (a / 65536)).2.behind y l = false) (link : s.linkTo l k)
    (hops : hopsOut y.src l k ≠ []) :
    Moved s (w.translate y) (departed w { y with poison := y.poison || (bad && !y.write) } l k) ∧
      (w.translate y).occurrences = s.occurrences := by
  have used := cached_cachesUsed w y.src.guild (a / 65536)
  have route : (w.cached y.src.guild (a / 65536)).2.linkTo l k := by
    rw [(used.read (·.linkTo l k)).trans (h.read (·.linkTo l k))]
    exact link
  have sets := act_go (bad := bad) h.mem ((used.read (·.txns)).trans (h.read (·.txns))) route hops
  rw [(used.read (·.occurrences)).trans (h.read (·.occurrences))] at sets
  rw [h.hits hy target hit hv, go, State.follows, if_neg (by simp [first])]
  exact ⟨by simpa only [departed, used.read (·.nextIssue)] using sets.1, sets.2⟩

end Tagged

end Sys2Proof.Machine
end


section
/-! The walker of a half answers from the table block (R247, R252). -/

namespace Sys2Proof.Machine

/-! ### A quadword of a block -/

theorem leNat_drop (bs : List Byte) : ∀ i, leNat (bs.drop i) = leNat bs / 2 ^ (8 * i) := by
  induction bs with
  | nil => intro i; simp [leNat]
  | cons b bs ih =>
    intro i
    cases i with
    | zero => simp
    | succ i =>
      have high : leNat (b :: bs) / 2 ^ 8 = leNat bs := by
        have := b.isLt
        simp only [leNat]
        omega
      rw [List.drop_succ_cons, ih, ← high, Nat.div_div_eq_div_mul, ← Nat.pow_add, Nat.mul_succ, Nat.add_comm]

theorem leNat_take (bs : List Byte) : ∀ i, leNat (bs.take i) = leNat bs % 2 ^ (8 * i) := by
  induction bs with
  | nil => intro i; simp [leNat]
  | cons b bs ih =>
    intro i
    cases i with
    | zero => simp [leNat, Nat.mod_one]
    | succ i =>
      have low : (b.toNat + 256 * leNat bs) % 256 = b.toNat := by
        have := b.isLt
        omega
      have high : (b.toNat + 256 * leNat bs) / 256 = leNat bs := by
        have := b.isLt
        omega
      rw [List.take_succ_cons, leNat, leNat, ih, Nat.mul_succ, Nat.add_comm (8 * i), Nat.pow_add, Nat.mod_mul, low, high]

/-- Quadword `j` of the block at `a`. -/
theorem blockOf_quadword (m : Mem) (a : Nat) {j : Nat} (hj : j < 8) :
    (blockOf (m.bytes a 64)).extractLsb' (64 * j) 64 = BitVec.ofNat 64 (m.le (a + 8 * j) 8) := by
  have whole : (blockOf (m.bytes a 64)).toNat = leNat (m.bytes a 64) := Nat.mod_eq_of_lt (Mem.le_lt m a 64)
  have quad : m.le (a + 8 * j) 8 = leNat (m.bytes a 64) / 2 ^ (64 * j) % 2 ^ 64 := by
    rw [Mem.le, ← Mem.bytes_drop_take m a (n := 64) (by omega), leNat_take, leNat_drop, ← Nat.mul_assoc]
  refine BitVec.eq_of_toNat_eq ?_
  rw [BitVec.extractLsb'_toNat, whole, BitVec.toNat_ofNat, Nat.shiftRight_eq_div_pow, quad, Nat.mod_mod]

/-! ### A cache after a use (R252) -/

/-- The entry just used is in its cache: it is not the least recently used of its set. -/
theorem find_use (sets : Nat) {ways : Nat} (hways : 0 < ways) (c : PtCache) (page : Nat) (e : Word) :
    PtCache.find (PtCache.use sets ways c page e) page = some e := by
  have found (l : PtCache) : PtCache.find ((page, e) :: l) page = some e := by simp [PtCache.find]
  unfold PtCache.use PtCache.trim
  dsimp only
  split
  · exact found _
  · next full =>
    split
    · next x last =>
      rw [List.filter_cons_of_pos (by simp)] at full last
      obtain ⟨y, ys, others⟩ := List.exists_cons_of_ne_nil (l := List.filter (fun x : Nat × Word => x.1 % sets = page % sets)
        (List.filter (fun y : Nat × Word => y.1 ≠ page) c)) fun none => full (by rw [none]; exact hways)
      have mem : x ∈ List.filter (fun y : Nat × Word => y.1 ≠ page) c := by
        rw [others, List.getLast?_cons_cons] at last
        exact (List.mem_filter.1 (others ▸ List.mem_of_getLast? last)).1
      have other : x.1 ≠ page := by simpa using (List.mem_filter.1 mem).2
      rw [List.filter_cons_of_pos (by simpa using Ne.symm other)]
      exact found _
    · exact found _

/-! ### The table block (R247, R252, R266) -/

section
variable (s : State) (g page : Nat)

theorem bedrockLook_block (k a : Nat) : (s.bedrockLook k a).1.1 = blockOf (s.tiers.bedrock.bytes (bedIdx k (a / 64 * 64)) 64) := by
  simp only [State.bedrockLook]
  split_ifs <;> rfl

/-- A block whose stored check is not that of clean data is delivered marked. -/
theorem bedrockLook_marked {k a : Nat} (h : s.tiers.bedMarked k a = true) : (s.bedrockLook k a).1.2 = true := by
  simp only [State.bedrockLook]
  split_ifs
  · rfl
  · exact h

/-- The table block as it reaches a walker: as it was looked at, or marked on its way. -/
theorem tableBlock_delivered : (s.tableBlock g page).1.1 = (s.bedrockLook 0 (8 * page)).1.1 ∧
    ∃ lost, (s.tableBlock g page).1.2 = ((s.bedrockLook 0 (8 * page)).1.2 || lost) := by
  obtain ⟨⟨⟨d, bad⟩, u⟩, look⟩ : ∃ y, s.bedrockLook 0 (8 * page) = y := ⟨_, rfl⟩
  rw [State.tableBlock, look]
  exact ⟨rfl, _, rfl⟩

/-- The entry of a page in its table block. -/
theorem tableBlock_entry :
    (s.tableBlock g page).1.1.extractLsb' (64 * (page % 8)) 64 = BitVec.ofNat 64 (s.tiers.bedrock.le (8 * page) 8) := by
  have start : bedIdx 0 (8 * page / 64 * 64) + 8 * (page % 8) = 8 * page := by
    unfold bedIdx
    omega
  rw [(tableBlock_delivered s g page).1, bedrockLook_block, blockOf_quadword _ _ (Nat.mod_lt _ (by decide)), start]

theorem tableBlock_marked (h : s.tiers.bedMarked 0 (8 * page) = true) : (s.tableBlock g page).1.2 = true := by
  obtain ⟨-, lost, mark⟩ := tableBlock_delivered s g page
  rw [mark, bedrockLook_marked s h, Bool.true_or]

/-! ### A walk (R252) -/

theorem walk_of_marked (h : (s.tableBlock g page).1.2 = true) : (s.walk g page).1 = none := by
  obtain ⟨⟨⟨d, bad⟩, u⟩, block⟩ : ∃ y, s.tableBlock g page = y := ⟨_, rfl⟩
  rw [block] at h
  rw [State.walk, block]
  exact congrArg Prod.fst (if_pos h)

/-- A walk over an intact table block finds the page's entry and installs it. -/
theorem walk_of_clean (h : (s.tableBlock g page).1.2 = false) : ∃ u : State,
    s.walk g page = (some (BitVec.ofNat 64 (s.tiers.bedrock.le (8 * page) 8)),
      u.useGuild g page (BitVec.ofNat 64 (s.tiers.bedrock.le (8 * page) 8))) := by
  rw [← tableBlock_entry s g page]
  obtain ⟨⟨⟨d, bad⟩, u⟩, block⟩ : ∃ y, s.tableBlock g page = y := ⟨_, rfl⟩
  rw [block] at h
  rw [State.walk, block]
  exact ⟨_, if_neg (ne_true_of_eq_false h)⟩

theorem useGuild_found (g page : Nat) (e : Word) : PtCache.find ((s.useGuild g page e).guild g).cache page = some e := by
  rw [State.useGuild, State.guild_setGuild]
  exact find_use 128 (by decide) _ _ _

end

/-! ### PLACEMENT_WALK -/

/-- Does an access wait for the walker of a half, nothing it must wait for being unperformed (R253)? -/
def State.walks (s : State) (half : Nat) (x : Txn) : Bool :=
  x.phase = .walking && x.src.guild / 16 = half && s.performedAll x.after

theorem serveWalk_of_oldest {s w : State} {half : Nat} {x : Txn} {e : Option Word}
    (oldest : s.txns.find? (fun y => s.walks half y && !(s.headed y).any (s.behind y)) = some x)
    (walk : s.walk x.src.guild (x.target.addr / 65536) = (e, w)) :
    s.serveWalk half = (s.txns.filter (fun y => s.walks half y && y.target.addr / 65536 / 8 = x.target.addr / 65536 / 8)).foldl
      (fun (u : State) y => if e.isNone then u.act y (.refuse 4) else u.translate y) w := by
  unfold State.walks at oldest ⊢
  simp only [State.serveWalk, oldest, walk]

theorem exec_placementWalk (s : State) (half : Fin 2) : exec (.placementWalk half) s = .next (s.serveWalk half) := rfl

end Sys2Proof.Machine
end

section
/-! A block checked as it is received at a hop (R256, R257, R309). -/

namespace Sys2Proof.Machine

/-! ### The checks of a flit -/

/-- The header's lowest bit is the mark, and its mask lies above 19 bits. -/
theorem head_fields (f : FlitWire) : f.head.testBit 0 = f.poison ∧ f.head / 2 ^ 19 % 2 ^ 64 = f.mask % 2 ^ 64 := by
  obtain ⟨upper, head⟩ : ∃ upper, f.head =
    ((((upper * 2 ^ 64 + f.mask % 2 ^ 64) * 2 ^ 8 + f.set % 256) * 2 ^ 5 + f.slot % 32) * 2 ^ 5 + f.nm1 % 32) * 2 + f.poison.toNat := ⟨_, rfl⟩
  have mark : f.poison.toNat < 2 := Bool.toNat_lt f.poison
  refine ⟨?_, by omega⟩
  rw [Nat.testBit_zero, show f.head % 2 = f.poison.toNat by omega]
  cases f.poison <;> rfl

/-- The bytes of a number are those of its low bits. -/
theorem natLe_mod (n v : Nat) : natLe n (v % 2 ^ (8 * n)) = natLe n v := by
  have back := natLe_leNat (natLe n v)
  rwa [natLe_length, leNat_natLe] at back

/-- A flit of which no bit was inverted is received as it was sent. -/
theorem received_of_no_flips (f : FlitWire) : (f.received 0).2 = true := by
  obtain ⟨mark, mask⟩ := head_fields f
  have checked : ({ f with mask := f.mask % 2 ^ 64 } : FlitWire).transit = f.transit := by
    simp only [FlitWire.transit, natLe_mod 8 f.mask]
  simp only [FlitWire.received, Nat.zero_div, Nat.zero_mod, Nat.xor_zero, BitVec.xor_zero, mark, mask, checked,
    FlitWire.hcheck, decide_true, Bool.and_self]

/-! ### A block goes on over a hop, or is sent again (R257) -/

section
variable (s : State) (x : Txn) (h : Hop) (rest : List Hop)

/-- The module in which a hop and its ports have been busy with a block. -/
def State.hopBusy : State := h.busyIndices.foldl (fun (s : State) i => s.portBusy h.unit i) { s with nextIssue := s.nextIssue + 1 }

/-- The access past a hop. -/
def Txn.past (rest : List Hop) (issue : Nat) (x : Txn) : Txn := { x with path := rest, checkFails := 0, entered := issue }

/-- A block that the receiving side of a hop passes on. -/
def State.passOn : State :=
  if rest = [] then (s.hopBusy h).reached (x.past rest s.nextIssue) else (s.hopBusy h).putTxn (x.past rest s.nextIssue)

/-- A hop that is busy counts what its ports hold and takes an issue. -/
theorem hopBusy_eq : ∃ free counters bw,
    s.hopBusy h = { s with nextIssue := s.nextIssue + 1, free := free, unitCounters := counters, bwNow := bw } := by
  have counted : Counted { s with nextIssue := s.nextIssue + 1 } (s.hopBusy h) :=
    List.foldlRecOn _ _ (.refl _) fun _ ht _ _ => ht.trans (portBusy_counted _ _ _)
  have issue : (s.hopBusy h).nextIssue = s.nextIssue + 1 :=
    foldl_keeps State.nextIssue (fun t i => t.portBusy_nextIssue h.unit i) _ _
  rw [Counted, State.withCounts, issue] at counted
  exact ⟨_, _, _, counted⟩

/-- A unit that counts changes its counters and what its bandwidth log gathers. -/
theorem countUnit_eq (u i k : Nat) : ∃ counters bw, s.countUnit u i k = { s with unitCounters := counters, bwNow := bw } := by
  have counted := countUnit_counted s u i k
  rw [Counted, State.withCounts, s.countUnit_nextIssue, s.countUnit_free] at counted
  exact ⟨_, _, counted⟩

theorem reached_of_waiting (hx : (∃ r, x.phase = .done r) ∨ ∃ c o, x.phase = .sent (.ls c o)) : s.reached x = s.putTxn x := by
  obtain ⟨r, phase⟩ | ⟨c, o, phase⟩ := hx <;> simp only [State.reached, phase]

theorem passOn_of_waiting (hx : rest ≠ [] ∨ (∃ r, x.phase = .done r) ∨ ∃ c o, x.phase = .sent (.ls c o)) :
    s.passOn x h rest = (s.hopBusy h).putTxn (x.past rest s.nextIssue) := by
  unfold State.passOn
  split
  · next last => exact reached_of_waiting _ _ (hx.resolve_left (not_not_intro last))
  · rfl

variable (flips behind : Nat)

theorem hop_of_good (good : ((x.wire x.port).received flips).2 = true) :
    s.hop x h rest flips behind = s.passOn (x.taken (x.wire x.port) ((x.wire x.port).received flips).1) h rest := if_pos good

/-- The blocks sent again with one that fails its check: it and those sent after it. -/
def State.resent : Nat :=
  1 + min behind (s.txns.filter (fun u => u.path.head? = some h && decide (x.entered < u.entered))).length

theorem hop_of_bad (bad : ((x.wire x.port).received flips).2 = false) (few : x.checkFails < 3) :
    s.hop x h rest flips behind =
      (s.putTxn { x with checkFails := x.checkFails + 1 }).countUnit h.unit h.resendIndex (s.resent x h behind) :=
  (if_neg (ne_true_of_eq_false bad)).trans (if_pos few)

theorem hop_of_fourth (bad : ((x.wire x.port).received flips).2 = false) (many : 3 ≤ x.checkFails) :
    s.hop x h rest flips behind = (s.raise 0x21 [wd (h.unit + h.port * 4096), wd x.addr]).passOn x.marked h rest :=
  (if_neg (ne_true_of_eq_false bad)).trans (if_neg (Nat.not_lt.2 many))


theorem Txn.taken_kept (sent got : FlitWire) : (x.taken sent got).id = x.id ∧ (x.taken sent got).phase = x.phase := by
  unfold Txn.taken
  split
  · exact ⟨rfl, rfl⟩
  · split
    · exact ⟨rfl, rfl⟩
    · split_ifs <;> exact ⟨rfl, rfl⟩

theorem Txn.marked_kept : x.marked.id = x.id ∧ x.marked.phase = x.phase := by
  unfold Txn.marked
  split <;> exact ⟨rfl, rfl⟩

/-- A block passed on to where it waits again moves there; only issues, tags and counts change beside it. -/
theorem passOn_moved (u : Txn) (hs : ∃ z ∈ s.txns, z.id = x.id) (kept : u.id = x.id ∧ u.phase = x.phase)
    (hx : rest ≠ [] ∨ (∃ r, x.phase = .done r) ∨ ∃ c o, x.phase = .sent (.ls c o)) :
    Moved s (s.passOn u h rest) (u.past rest s.nextIssue) ∧
      s.passOn u h rest = { s with
        txns := (s.passOn u h rest).txns, nextIssue := s.nextIssue + 1, free := (s.passOn u h rest).free,
        unitCounters := (s.passOn u h rest).unitCounters, bwNow := (s.passOn u h rest).bwNow } := by
  obtain ⟨id, phase⟩ := kept
  rw [passOn_of_waiting s u h rest (by rwa [phase])]
  obtain ⟨free, counters, bw, busy⟩ := hopBusy_eq s h
  rw [busy]
  exact ⟨moved_putTxn (by rwa [Txn.past, id]) rfl, rfl⟩

/-- A block sent again counts a failure; only counts change beside it. -/
theorem resent_moved (hs : ∃ z ∈ s.txns, z.id = x.id) (u i k : Nat) (y : Txn) (id : y.id = x.id) :
    Moved s ((s.putTxn y).countUnit u i k) y ∧
      (s.putTxn y).countUnit u i k = { s with
        txns := ((s.putTxn y).countUnit u i k).txns, unitCounters := ((s.putTxn y).countUnit u i k).unitCounters,
        bwNow := ((s.putTxn y).countUnit u i k).bwNow } := by
  obtain ⟨counters, bw, counted⟩ := countUnit_eq (s.putTxn y) u i k
  rw [counted]
  exact ⟨moved_putTxn (by rwa [id]) rfl, rfl⟩

theorem exec_blockHopReceive {n : Nat} {u port : Fin 256} {leaving : Bool} (found : s.txn n = some x)
    (path : x.path = ⟨u, port, leaving⟩ :: rest) (clear : s.hopTaken x ⟨u, port, leaving⟩ = false) :
    exec (.blockHopReceive n u port leaving flips behind) s = .next (s.hop x ⟨u, port, leaving⟩ rest flips behind) := by
  have received : s.hopReceive n ⟨u, port, leaving⟩ flips behind = s.hop x ⟨u, port, leaving⟩ rest flips behind := by
    simp [State.hopReceive, found, path, clear]
  exact congrArg _ received

end

/-- Settles O35, clause by clause: the issue of an access by what `translate` meets, the walk by its table block, and the hop by
whether the flit is good and how often it has failed. -/
theorem accessesAreTranslated : Obligations.AccessesAreTranslated := by
  refine ⟨?_, ?_, ?_⟩
  · rintro s w engine n x y issuable runs rfl rfl noSet
    have tagged := tagged_of_issuable issuable
    refine ⟨_, (exec_tagIssue runs).trans (congrArg _ (issueTag_of_issuable issuable)), tagged.advances noSet, tagged.malformed,
      fun c o formed target => tagged.toCore formed target, fun a formed target => ⟨tagged.misses formed target, fun e v hit hv => ?_⟩⟩
    refine ⟨tagged.held formed target hit hv, fun r => tagged.refusedHit formed target hit hv, fun l bad go =>
      ⟨tagged.waits formed target hit hv go, fun k first link hops => tagged.goes formed target hit hv go first ?_ hops⟩⟩
    cases l <;> exact link
  · rintro s w half x served e page oldest rfl rfl walk
    refine ⟨_, exec_placementWalk s half, serveWalk_of_oldest oldest walk.symm, fun clean => ?_, fun marked => ?_, fun marked => ?_⟩
    · obtain ⟨u, found⟩ := walk_of_clean s _ _ clean
      obtain ⟨rfl, rfl⟩ := Prod.ext_iff.1 (walk.trans found)
      exact ⟨rfl, useGuild_found u _ _ _⟩
    · exact (congrArg Prod.fst walk).trans (walk_of_marked s _ _ marked)
    · exact (congrArg Prod.fst walk).trans (walk_of_marked s _ _ (tableBlock_marked s _ _ marked))
  · rintro s n flips behind u port leaving x h rest got good nx rfl found path clear received rfl
    obtain ⟨rfl, rfl⟩ := Prod.ext_iff.1 received
    have pool : ∃ z ∈ s.txns, z.id = x.id := ⟨x, List.mem_of_find?_eq_some found, rfl⟩
    refine ⟨_, exec_blockHopReceive s x rest flips behind found path clear, ?_, fun good hx => ?_, fun bad few => ?_, fun bad many hx => ?_⟩
    · rintro rfl
      exact received_of_no_flips _
    · rw [hop_of_good s x _ rest flips behind good]
      exact passOn_moved s x _ rest _ pool (x.taken_kept _ _) hx
    · rw [hop_of_bad s x _ rest flips behind bad few]
      exact resent_moved s x pool _ _ _ _ rfl
    · rw [hop_of_fourth s x _ rest flips behind bad many]
      exact passOn_moved (s.raise 0x21 [wd (u + port * 4096), wd x.addr]) x _ rest _ pool x.marked_kept hx

end Sys2Proof.Machine
end

section
/-! A snapshot begins and captures its cores (R380, R382, R390). -/

namespace Sys2Proof.Machine

/-! ### SNAPSHOT -/

theorem scrivenerRuns_of {s : State} (h : Scrivening s) : s.scrivenerRuns = true := by
  obtain ⟨power, untripped, running⟩ := h
  simp [State.scrivenerRuns, power, untripped, running]

section
variable {s : State} {c : Cmd}

/-- What SNAPSHOT makes of its request block. -/
def State.snapshotAsked (s : State) (c : Cmd) (bs : List Byte) (bad : Bool) : State :=
  match s.requestStatus c bad (snapshotFieldsOk bs) (s.house.dev = .ready && s.snapshot.isNone && s.restore.isNone) with
  | some st => s.rejectCmd c st
  | none =>
    let x := snapshotOf c.num bs
    let refuse := fun (r : Nat) => (s.raise 0x61 [wd x.step, wd r, 0]).endCmd c 8 r
    if !s.requestOk x (fieldAt bs 24 8) then refuse 2
    else if !s.linksOk x then refuse 3
    else { s.startCmd c .running with snapshot := some x }.setDev .capture

theorem exec_snapshot (up : s.port.linkUp = true) (runs : Scrivening s) (h : Starts s 0x20 c) :
    exec .snapshot s = .next (s.snapshotAsked c (s.deviceRead (c.q 1 63 0) 1152).1 (s.deviceRead (c.q 1 63 0) 1152).2) := by
  show execSnapshot s = _
  unfold execSnapshot
  simp only [h.1.settleCmds, h.2.1, up, scrivenerRuns_of runs, Bool.not_true, Bool.false_eq_true, or_self, if_false]
  rfl

theorem precheck_of_state {o : Nat} (h : Starts s o c) (state : Bool) :
    s.precheck c true state = if state then none else some 1 := by
  have allowed := h.precheck
  rw [h.2.2.1] at allowed
  unfold State.precheck at allowed ⊢
  split_ifs at allowed ⊢ <;> simp_all

/-- A request with right fields has the status its device state gives. -/
theorem requestStatus_of_fields {o : Nat} (h : Starts s o c) (state : Bool) :
    s.requestStatus c false true state = if state then none else some 1 := by
  have formed : c.fieldsOk = true := h.2.2.1
  rw [State.requestStatus, formed, Bool.or_true, Bool.and_true, precheck_of_state h]
  cases state <;> rfl

/-- A clean block of host memory as the device reads it. -/
theorem deviceRead_of_clean {a n : Nat} (clean : ∀ l ∈ linesOf a n, idxMem s.hostPoison l = false) :
    s.deviceRead a n = (s.hostMem.bytes a n, false) :=
  congrArg (Prod.mk _) (List.any_eq_false.2 fun l hl => by simp [clean l hl])

theorem rejectCmd_ended (hbad : c.bad = false) (h : 1 ∉ s.house.services) : EndedCmd s (s.rejectCmd c 1) c 1 0 :=
  endCmd_ended (u := s.countUnit hifUnit 5 1) 1 0 hbad h

theorem snapshotAsked_busy {bs : List Byte} (h : Starts s 0x20 c) (fields : snapshotFieldsOk bs = true) (busy : s.house.dev ≠ .ready) :
    s.snapshotAsked c bs false = s.rejectCmd c 1 := by
  rw [State.snapshotAsked, fields, requestStatus_of_fields h]
  simp [busy]

/-- READY and idle, a request passes on to the checks of R390. -/
theorem snapshotAsked_ready {bs : List Byte} (h : Starts s 0x20 c) (fields : snapshotFieldsOk bs = true) (ready : s.house.dev = .ready)
    (idle : s.snapshot = none) (unrestored : s.restore = none) :
    s.snapshotAsked c bs false =
      if s.requestOk (snapshotOf c.num bs) (fieldAt bs 24 8) = false then
        (s.raise 0x61 [wd (snapshotOf c.num bs).step, wd 2, 0]).endCmd c 8 2
      else if s.linksOk (snapshotOf c.num bs) = false then (s.raise 0x61 [wd (snapshotOf c.num bs).step, wd 3, 0]).endCmd c 8 3
      else { s.startCmd c .running with snapshot := some (snapshotOf c.num bs) }.setDev .capture := by
  rw [State.snapshotAsked, fields, requestStatus_of_fields h]
  simp [ready, idle, unrestored]

end
end Sys2Proof.Machine
end

section
/-! One-step accesses (R248 to R257): what finding an entry, and writing a range, leave alone. -/

namespace Sys2Proof.Machine

/-! ### Looking an entry up -/

/-- From `s` to `t` accesses have moved, and controller 0's data is as before. -/
structure Looks (s t : State) : Prop where
  afar : Afar s t
  data : Mem.wf s.tiers.bedrock = true →
    Mem.wf t.tiers.bedrock = true ∧ ∀ x < checksAt, t.tiers.bedrock.rd x = s.tiers.bedrock.rd x

namespace Looks

theorem of_bedrock {s t : State} (h : Afar s t) (same : t.tiers.bedrock = s.tiers.bedrock) : Looks s t :=
  ⟨h, fun wf => by rw [same]; exact ⟨wf, fun _ _ => rfl⟩⟩

theorem refl (s : State) : Looks s s := of_bedrock (.refl s) rfl

theorem trans {s t u : State} (h : Looks s t) (h' : Looks t u) : Looks s u :=
  ⟨h.afar.trans h'.afar, fun wf => by
    obtain ⟨wf', same⟩ := h.data wf
    obtain ⟨wf'', same'⟩ := h'.data wf'
    exact ⟨wf'', fun x hx => (same' x hx).trans (same x hx)⟩⟩

theorem fold {α : Type} {f : State → α → State} (h : ∀ s a, Looks s (f s a)) (l : List α) (s : State) : Looks s (l.foldl f s) :=
  List.foldlRecOn l _ (refl s) fun t ht a _ => ht.trans (h t a)

/-- The table reads as before. -/
theorem tableEntry {s t : State} (h : Looks s t) (wf : Mem.wf s.tiers.bedrock = true) {p : Nat} (hp : p < 2 ^ 25) :
    t.tableEntry p = s.tableEntry p := by
  have same : t.tiers.bedrock.bytes (8 * p) 8 = s.tiers.bedrock.bytes (8 * p) 8 :=
    Mem.bytes_congr fun i hi => (h.data wf).2 _ (by unfold checksAt; omega)
  rw [State.tableEntry, State.tableEntry, Mem.le, Mem.le, same]

end Looks

theorem Sends.looks {s t : State} (h : Sends s t) : Looks s t := .of_bedrock h.afar (congrArg Tiers.bedrock h.tiers)
theorem Counted.looks {s t : State} (h : Counted s t) : Looks s t := .of_bedrock h.afar (h.read (·.tiers.bedrock))
theorem CachesUsed.looks {s t : State} (h : CachesUsed s t) : Looks s t := .of_bedrock h.afar (h.read (·.tiers.bedrock))

section
variable (s : State)

theorem State.bedrockLook_looks (a : Nat) : Looks s (s.bedrockLook 0 a).2 := ⟨(bedrockLook_onTiers s 0 a).afar, fun wf => bedrockLook_data wf a⟩

theorem State.linkEcc_counted (l : Loc) : Counted s (s.linkEcc l) := by
  cases l with
  | bedrock k a => exact Counted.trans (t := { s with free := s.free + 1 }) rfl (countUnit_counted _ _ _ _)
  | shale | host | ls | peer | landing | adder => exact .refl s

theorem State.ferry_sends (hops : List Hop) (addr : Nat) : Sends s (s.ferry hops addr).2 := by
  have used : Sends s { s with free := s.free + 1 } := ⟨rfl, rfl, Nat.le_refl _⟩
  have counted (u i n : Nat) : Sends s (({ s with free := s.free + 1 } : State).countUnit u i n) :=
    used.trans ((countUnit_counted _ u i n).sends (Nat.le_of_eq (State.countUnit_nextIssue _ u i n).symm))
  unfold State.ferry
  split
  · dsimp only
    split
    · exact (counted _ _ _).trans (State.raise_sends _ _ _)
    · exact counted _ _ _
  · exact used

theorem State.carried_looks (src : Src) (l : Loc) (dva : Nat) (write : Bool) : Looks s (s.carried src l dva write).2 :=
  (s.linkEcc_counted l).looks.trans (State.ferry_sends _ _ _).looks

theorem State.tableBlock_looks (g page : Nat) : Looks s (s.tableBlock g page).2 := by
  have look := s.bedrockLook_looks (8 * page)
  obtain ⟨⟨⟨d, bad⟩, u⟩, eq⟩ : ∃ y, s.bedrockLook 0 (8 * page) = y := ⟨_, rfl⟩
  rw [eq] at look
  rw [State.tableBlock, eq]
  exact (look.trans (State.linkEcc_counted _ _).looks).trans (State.ferry_sends _ _ _).looks

theorem State.walk_looks (g page : Nat) : Looks s (s.walk g page).2 := by
  have block := s.tableBlock_looks g page
  obtain ⟨⟨⟨d, bad⟩, u⟩, eq⟩ : ∃ y, s.tableBlock g page = y := ⟨_, rfl⟩
  rw [eq] at block
  rw [State.walk, eq]
  cases bad
  · exact ((block.trans (.fold (fun t j => (useWalker_cachesUsed ..).looks) _ _)).trans (useWalker_cachesUsed ..).looks).trans
      (useGuild_cachesUsed ..).looks
  · exact block

theorem State.entryOf_looks (g page : Nat) : Looks s (s.entryOf g page).2 := by
  have found := (cached_cachesUsed s g page).looks
  unfold State.entryOf
  split
  · next e t hit => rw [hit] at found; exact found
  · next t miss => rw [miss] at found; exact found.trans (t.walk_looks g page)

/-! ### Writing a range in one step -/

theorem shaleRead_afar (g a : Nat) : Afar s (s.shaleRead g a).2 := by
  have counted (t : Store) (n m : Nat) : Afar s (({ s with tiers := { s.tiers with shale := t } }.countUnit (shaleUnit g) 1 n).countUnit
      (shaleUnit g) m 64) :=
    (tiers_onTiers s _).afar.trans ((countUnit_counted _ _ _ _).trans (countUnit_counted _ _ _ _)).afar
  unfold State.shaleRead
  dsimp only
  split
  · exact (counted _ _ _).trans (State.raise_sends _ _ _).afar
  · exact counted _ _ _

theorem shaleWrite_afar (g a : Nat) (runs : Runs) : Afar s (s.shaleWrite g a runs) := by
  unfold State.shaleWrite
  dsimp only
  refine .trans ?_ (countUnit_counted _ _ _ _).afar
  split
  · exact (shaleRead_afar s g a).trans (tiers_onTiers _ _).afar
  · exact (tiers_onTiers s _).afar

theorem bedrockWrite_afar (k a : Nat) (runs : Runs) : Afar s (s.bedrockWrite k a runs) := by
  unfold State.bedrockWrite
  dsimp only
  refine .trans ?_ (countUnit_counted _ _ _ _).afar
  split
  · exact (tiers_onTiers s _).afar
  · exact (bedrockLook_onTiers s k a).afar.trans (tiers_onTiers _ _).afar

theorem writeAt_afar (runs : Runs) (l : Loc) : Afar s (s.writeAt runs l) := by
  cases l with
  | shale g a => exact shaleWrite_afar s g a runs
  | bedrock k a => exact bedrockWrite_afar s k a runs
  | host a => exact (s.hostWrite_sends a runs).afar
  | ls | peer | landing | adder => exact .refl s

theorem writeBlock_afar (src : Src) (master cls dva : Nat) (window : Bool) (runs : Runs) :
    Afar s (s.writeBlock src master cls dva window runs).2 := by
  have entry := (s.entryOf_looks src.guild (dva / 65536)).afar
  have joins (t : State) (x : Txn) : Afar t ({ t with nextIssue := t.nextIssue + 1 }.addTxn x) := rfl
  unfold State.writeBlock
  dsimp only
  generalize s.entryOf src.guild (dva / 65536) = y at entry ⊢
  split
  · exact rfl
  · split
    · exact entry.trans rfl
    · exact entry.trans (joins _ _)
    · split
      · exact (entry.trans (joins _ _)).trans (State.send_sends _ _ _ _).afar
      · exact entry
    · split
      · exact entry.trans (joins _ _)
      · exact (entry.trans (State.carried_looks _ _ _ _ _).afar).trans (writeAt_afar _ _ _)

theorem writeRange_afar (src : Src) (master cls dva : Nat) (bs : List (Byte × Bool)) : Afar s (s.writeRange src master cls dva bs).2 :=
  List.foldlRecOn (motive := fun acc : List Nat × State => Afar s acc.2) _ _ (.refl s)
    fun _ ht _ _ => ht.trans (writeBlock_afar _ _ _ _ _ _ _)

end

end Sys2Proof.Machine
end

section
/-! CONTEXT_CAPTURE (R380, R382). -/

namespace Sys2Proof.Machine

section
variable {s : State} {c : CoreId} {x : Snapshot}

/-- A core's image written to the context area, and the core as its stores have been read. -/
def State.imageTaken (s : State) (c : CoreId) (a : Nat) : State :=
  let u := (s.writeRange .house scrivMaster 3 a (if s.fenced c then markAll false (natLe imageBytes 0) else s.contextImage c)).2
  if u.fenced c then u else u.atCore c fun e => { e with k := e.k.captured }

theorem contextCapture_takes (has : s.snapshot = some x) (runs : Scrivening s) (live : x.frozen = false)
    (fresh : x.captured.contains c.val = false) (first : x.captured = [] → s.allQuiescent = true)
    (later : x.captured ≠ [] → s.fenced c = true ∨ s.quiescent c = true)
    (given : (s.recall 11 scrivMaster (x.ctxBase + c * imageBytes) imageBytes true).1 = false) :
    exec (.contextCapture c) s =
      .next { s.imageTaken c (x.ctxBase + c * imageBytes) with snapshot := some { x with captured := x.captured ++ [c.val] } } := by
  have quiet : (if x.captured.isEmpty then s.allQuiescent else s.fenced c || s.quiescent c) = true := by
    split
    · next none => exact first (List.isEmpty_iff.1 none)
    · next some => simpa using later (mt List.isEmpty_iff.2 some)
  show execContextCapture c s = _
  unfold execContextCapture State.imageTaken
  simp only [has]
  simp only [scrivenerRuns_of runs, live, fresh, quiet, given, Bool.not_true, Bool.false_eq_true, or_self, if_false]

theorem imageTaken_captured {a : Nat} {u : State}
    (hu : u = (s.writeRange .house scrivMaster 3 a (if s.fenced c then markAll false (natLe imageBytes 0) else s.contextImage c)).2) :
    (s.fenced c = true → s.imageTaken c a = u) ∧ (s.fenced c = false → CoreAt u (s.imageTaken c a) c (u.core c).captured) := by
  have same : u.fenced c = s.fenced c := hu ▸ (writeRange_afar s ..).read (State.fenced · c)
  unfold State.imageTaken
  simp only [← hu, same]
  refine ⟨fun fenced => if_pos fenced, fun live => ?_⟩
  rw [if_neg (ne_true_of_eq_false live)]
  exact atCore_coreAt u c _ rfl

end

end Sys2Proof.Machine
end

section
/-! Pages freeze, and the cores are released (R253, R384). -/

namespace Sys2Proof.Machine

/-! ### The frozen bit (R247, R384) -/

theorem bedrockLook_wf {s : State} (wf : Mem.wf s.tiers.bedrock = true) (k a : Nat) :
    Mem.wf (s.bedrockLook k a).2.tiers.bedrock = true := by
  simp only [State.bedrockLook]
  split_ifs
  · exact withCheck_wf wf _ _ _
  · exact wf

theorem bedrockWrite_wf {s : State} (wf : Mem.wf s.tiers.bedrock = true) (k a : Nat) (runs : Runs) :
    Mem.wf (s.bedrockWrite k a runs).tiers.bedrock = true := by
  have merged (m : Mem) (hm : Mem.wf m = true) (i : Nat) :
      Mem.wf (runs.foldl (fun (m : Mem) r => m.wrBytes (i + r.1) (r.2.map (·.1))) m) = true :=
    List.foldlRecOn (motive := fun m : Mem => Mem.wf m = true) _ _ hm fun _ ht _ _ => Mem.wf_wrBytes _ _ ht
  have looked := bedrockLook_wf wf k a
  unfold State.bedrockWrite
  dsimp only
  rw [(countUnit_onTiers _ _ _ _).2]
  refine withCheck_wf (merged _ ?_ _) _ _ _
  split <;> assumption

theorem writeEntries_wf {s : State} (wf : Mem.wf s.tiers.bedrock = true) (first : Nat) (es : List Word) :
    Mem.wf (s.writeEntries first es).tiers.bedrock = true :=
  List.foldlRecOn (motive := fun t : State => Mem.wf t.tiers.bedrock = true) _ _ wf fun _ ht _ _ => bedrockWrite_wf ht _ _ _

/-- The frozen bit of an entry, changed. -/
def ptSetFrozen (e : Word) (b : Bool) : Word :=
  if b then e &&& ~~~((1 : Word) <<< 59) ||| ((1 : Word) <<< 59) else e &&& ~~~((1 : Word) <<< 59)

theorem ptSetFrozen_true (e : Word) : ptSetFrozen e true = e ||| 0x0800000000000000 := by
  refine BitVec.eq_of_getLsbD_eq fun i hi => ?_
  have bit : ((1 : Word) <<< 59) = 0x0800000000000000 := by decide
  rw [ptSetFrozen, if_pos rfl, bit, BitVec.getLsbD_or, BitVec.getLsbD_and, BitVec.getLsbD_not, BitVec.getLsbD_or, decide_eq_true hi]
  cases (0x0800000000000000#64).getLsbD i <;> simp

theorem ptSetFrozen_idem (e : Word) : ptSetFrozen (ptSetFrozen e true) true = ptSetFrozen e true := by
  rw [ptSetFrozen_true, ptSetFrozen_true, BitVec.or_assoc, BitVec.or_self]

theorem ptFrozen_ptSetFrozen (e : Word) : ptFrozen (ptSetFrozen e false) = false := by
  rw [ptFrozen, ptSetFrozen, if_neg Bool.false_ne_true, BitVec.getLsbD_and, BitVec.getLsbD_not]
  exact (congrArg (e.getLsbD 59 && ·) (by decide)).trans (Bool.and_false _)

section
variable {s : State}

theorem setFrozen_eq (s : State) (p : Nat) (b : Bool) : s.setFrozen p b = s.writeEntries p [ptSetFrozen (s.tableEntry p) b] := rfl

/-- What a page's frozen bit changes: that page's entry, and what a write to Bedrock counts and raises. -/
theorem setFrozen_wrote (wf : Mem.wf s.tiers.bedrock = true) {p : Nat} (hp : p < 2 ^ 25) (b : Bool) :
    OnTiers s (s.setFrozen p b) ∧ Mem.wf (s.setFrozen p b).tiers.bedrock = true ∧
      (s.setFrozen p b).tableEntry p = ptSetFrozen (s.tableEntry p) b ∧
      ∀ q < 2 ^ 25, q ≠ p → (s.setFrozen p b).tableEntry q = s.tableEntry q := by
  obtain ⟨here, apart⟩ := tableEntry_writeEntries wf (first := p) (es := [ptSetFrozen (s.tableEntry p) b]) hp
  rw [setFrozen_eq]
  exact ⟨(writeEntries_wrote wf _ _).1, writeEntries_wf wf _ _, here 0 Nat.zero_lt_one,
    fun q hq other => apart q hq (Nat.lt_or_gt_of_ne other)⟩

/-- The frozen bits of a list of pages, set. -/
theorem setFrozens_wrote {l : List Nat} (hl : ∀ p ∈ l, p < 2 ^ 25) : ∀ {s : State}, Mem.wf s.tiers.bedrock = true →
    OnTiers s (l.foldl (fun s p => s.setFrozen p true) s) ∧
      (∀ p ∈ l, (l.foldl (fun s p => s.setFrozen p true) s).tableEntry p = ptSetFrozen (s.tableEntry p) true) ∧
      ∀ q < 2 ^ 25, q ∉ l → (l.foldl (fun s p => s.setFrozen p true) s).tableEntry q = s.tableEntry q := by
  induction l with
  | nil => exact fun _ => ⟨rfl, nofun, fun _ _ _ => rfl⟩
  | cons n l ih =>
    intro s wf
    obtain ⟨first, wf', here, apart⟩ := setFrozen_wrote wf (hl n (List.mem_cons_self ..)) true
    obtain ⟨rest, named, others⟩ := ih (fun p hp => hl p (List.mem_cons_of_mem _ hp)) wf'
    rw [List.foldl_cons]
    refine ⟨first.trans rest, fun p hp => ?_, fun q hq out => ?_⟩
    · by_cases later : p ∈ l
      · rw [named p later]
        by_cases same : p = n
        · rw [same, here, ptSetFrozen_idem]
        · rw [apart p (hl p hp) same]
      · obtain rfl := (List.mem_cons.1 hp).resolve_right later
        rw [others p (hl p hp) later, here]
    · rw [others q hq fun h => out (List.mem_cons_of_mem _ h), apart q hq fun h => out (h ▸ List.mem_cons_self ..)]

end

/-! ### SNAPSHOT_FREEZE -/

section
variable (s : State) (x : Snapshot)

/-- The pages of a snapshot frozen in the table, and gone from every cache. -/
def State.freezePages : State :=
  (((List.range x.count).map x.page).foldl (fun (s : State) p => s.setFrozen p true) s).uncache fun _ => true

/-- The cores released once the pages are frozen. -/
def State.release : State :=
  ({ s with snapshot := some { x with released := true, waits := [] } }.releaseCores x.release).proceed .send

/-- What follows the freeze: the release, or the wait for what was translated before. -/
def State.afterFreeze : State := if s.performedAll x.waits then s.release x else { s with snapshot := some x }

variable {s x}

theorem exec_snapshotFreeze (has : s.snapshot = some x) (runs : Scrivening s) (held : x.released = false)
    (all : ∀ c : CoreId, x.captured.contains c.val = true) : exec .snapshotFreeze s = .next (if x.frozen then s.afterFreeze x
      else (s.freezePages x).afterFreeze { x with frozen := true, waits := (s.freezePages x).translated x.has }) := by
  have taken : (List.range 1024).all (fun c => x.captured.contains c) = true :=
    List.all_eq_true.2 fun c hc => all ⟨c, List.mem_range.1 hc⟩
  show execSnapshotFreeze s = _
  unfold execSnapshotFreeze
  simp only [has, scrivenerRuns_of runs, held, taken, Bool.not_true, Bool.false_eq_true, or_self, if_false]
  cases x.frozen <;> rfl

theorem releaseCores_lands (s : State) (w : Word) : s.releaseCores w = { s with cores := (s.releaseCores w).cores } ∧
    ∀ n < 1024, s.fenced n = false → ((s.releaseCores w).core n).mailbox = w := by
  obtain ⟨rest, cores⟩ := mails_land w (l := s.liveCores) (List.nodup_range.filter _) s
  refine ⟨rest, fun n hn live => ?_⟩
  have here := cores n
  rw [if_pos ((mem_liveCores hn).2 live)] at here
  exact here.read CoreSt.mailbox

theorem proceed_eq (s : State) (d : DevState) : s.proceed d =
    { s with house := { s.house with dev := if s.house.dev = .failed ∨ s.house.dev = .zeroise then s.house.dev else d } } := by
  unfold State.proceed
  split <;> rfl

theorem proceed_core (s : State) (d : DevState) (n : Nat) : (s.proceed d).core n = s.core n := by
  unfold State.proceed
  split <;> rfl

/-- The release changes the snapshot, the cores and the device state. -/
theorem release_eq (s : State) (x : Snapshot) : ∃ cores, s.release x = { s with
    snapshot := some { x with released := true, waits := [] }, cores := cores,
    house := { s.house with dev := if s.house.dev = .failed ∨ s.house.dev = .zeroise then s.house.dev else .send } } := by
  have lands := (releaseCores_lands { s with snapshot := some { x with released := true, waits := [] } } x.release).1
  rw [State.release, proceed_eq, lands]
  exact ⟨_, rfl⟩

theorem release_mailbox (s : State) (x : Snapshot) {n : Nat} (hn : n < 1024) (live : s.fenced n = false) :
    ((s.release x).core n).mailbox = x.release := by
  rw [State.release, proceed_core]
  exact (releaseCores_lands { s with snapshot := some { x with released := true, waits := [] } } x.release).2 n hn live

/-- After the freeze, with the cores released or not, the table, the caches and the pool are as it left them. -/
theorem afterFreeze_kept (s : State) (x : Snapshot) (p g : Nat) : (s.afterFreeze x).tableEntry p = s.tableEntry p ∧
    (s.afterFreeze x).guild g = s.guild g ∧ (s.afterFreeze x).walker g = s.walker g := by
  obtain ⟨cores, released⟩ := release_eq s x
  unfold State.afterFreeze
  split
  · rw [released]
    exact ⟨rfl, rfl, rfl⟩
  · exact ⟨rfl, rfl, rfl⟩

theorem performedAll_nil (s : State) : s.performedAll [] = true := by simp [State.performedAll]

/-- An access sent under an old entry of a page is awaited. -/
theorem not_performedAll_translated {p : Nat → Bool} (h : ¬ NoneTranslated s p) :
    s.translated p ≠ [] ∧ s.performedAll (s.translated p) = false := by
  unfold NoneTranslated at h
  push Not at h
  obtain ⟨y, mem, l, sent, a, target, named⟩ := h
  have waits : y.id ∈ s.translated p :=
    List.mem_map_of_mem (List.mem_filter.2 ⟨mem, by simpa [sent, target] using named⟩)
  refine ⟨List.ne_nil_of_mem waits, ?_⟩
  rw [State.performedAll, Bool.not_eq_false']
  exact List.any_eq_true.2 ⟨y, mem, by simp [waits, sent]⟩

theorem freezePages_wrote (pages : ∀ i < x.count, x.page i < 2 ^ 25) (wf : Mem.wf s.tiers.bedrock = true) :
    (∀ i < x.count, (s.freezePages x).tableEntry (x.page i) = s.tableEntry (x.page i) ||| 0x0800000000000000) ∧
      (∀ p < 2 ^ 25, (∀ i < x.count, x.page i ≠ p) → (s.freezePages x).tableEntry p = s.tableEntry p) ∧
      (s.freezePages x).house = s.house ∧ (s.freezePages x).txns = s.txns := by
  have listed (p : Nat) : p ∈ (List.range x.count).map x.page ↔ ∃ i < x.count, x.page i = p := by simp
  obtain ⟨onTiers, named, others⟩ := setFrozens_wrote (l := (List.range x.count).map x.page)
    (fun p hp => by obtain ⟨i, hi, rfl⟩ := (listed p).1 hp; exact pages i hi) wf
  refine ⟨fun i hi => (named _ ((listed _).2 ⟨i, hi, rfl⟩)).trans (ptSetFrozen_true _),
    fun p hp out => others p hp fun mem => ?_, onTiers.afar.read State.house, ?_⟩
  · obtain ⟨i, hi, same⟩ := (listed p).1 mem
    exact out i hi same
  · have pool := congrArg State.txns onTiers
    exact pool

theorem freezePages_uncached (s : State) (x : Snapshot) (g p : Nat) :
    PtCache.find ((s.freezePages x).guild g).cache p = none ∧ PtCache.find ((s.freezePages x).walker g) p = none := by
  rw [State.freezePages, uncache_guild, uncache_walker]
  exact ⟨find_cut rfl _, find_cut rfl _⟩

/-- The release of a module with the Counting House of `s`. -/
theorem release_released {u : State} (x : Snapshot) (house : u.house = s.house) :
    (u.release x).snapshot = some { x with released := true, waits := [] } ∧
      (u.release x).house.dev = (if s.house.dev = .failed ∨ s.house.dev = .zeroise then s.house.dev else .send) ∧
      ∀ n < 1024, s.fenced n = false → ((u.release x).core n).mailbox = x.release := by
  obtain ⟨cores, released⟩ := release_eq u x
  refine ⟨by rw [released], by rw [released, house], fun n hn live => release_mailbox u x hn ?_⟩
  rwa [State.fenced, house]

theorem afterFreeze_of_none (none : NoneTranslated s x.has) :
    s.afterFreeze { x with frozen := true, waits := s.translated x.has } =
      s.release { x with frozen := true, waits := s.translated x.has } := by
  refine if_pos ?_
  show s.performedAll (s.translated x.has) = true
  rw [translated_nil none, performedAll_nil]

theorem afterFreeze_of_sent (sent : ¬ NoneTranslated s x.has) : s.translated x.has ≠ [] ∧
    s.afterFreeze { x with frozen := true, waits := s.translated x.has } =
      { s with snapshot := some { x with frozen := true, waits := s.translated x.has } } := by
  obtain ⟨some, waits⟩ := not_performedAll_translated sent
  exact ⟨some, if_neg (ne_true_of_eq_false waits)⟩

end

end Sys2Proof.Machine
end

section
/-! A snapshot ends by failure: by time-out or cancel (R380, R391). -/

namespace Sys2Proof.Machine

/-! ### A page is preserved (R253, R255, R385) -/

theorem uncache_afar (s : State) (p : Nat → Bool) : Afar s (s.uncache p) := rfl

theorem uncache_bedrock (s : State) (p : Nat → Bool) : (s.uncache p).tiers.bedrock = s.tiers.bedrock := rfl
theorem uncache_tableEntry (s : State) (p : Nat → Bool) (page : Nat) : (s.uncache p).tableEntry page = s.tableEntry page := rfl
theorem withTxns_looks (s : State) (txns : List Txn) : Looks s { s with txns := txns } := .of_bedrock rfl rfl

theorem setFrozen_afar (s : State) (p : Nat) (b : Bool) : Afar s (s.setFrozen p b) := .fold (fun t _ => bedrockWrite_afar t _ _ _) _ s

theorem releaseHeld_looks (s : State) (p : Nat) : Looks s (s.releaseHeld p) := by
  unfold State.releaseHeld
  refine .fold (fun t x => ?_) _ s
  have entry := t.entryOf_looks x.src.guild p
  generalize t.entryOf x.src.guild p = y at entry ⊢
  exact entry.trans (State.act_sends _ _ _).looks

/-- The writes held on a page set out, or wait for the walker. -/
theorem preserve_looks (s : State) (p : Nat) : Looks ((s.setFrozen p false).uncache (· = p)) (s.preserve p) := by
  unfold State.preserve
  dsimp only
  split
  · exact releaseHeld_looks _ p
  · exact withTxns_looks _ _

theorem preserve_afar (s : State) (p : Nat) : Afar s (s.preserve p) :=
  ((setFrozen_afar s p false).trans (uncache_afar _ _)).trans (preserve_looks s p).afar

/-- From `s` to `t` no page of the table froze. -/
def Thaws (s t : State) : Prop :=
  Mem.wf s.tiers.bedrock = true → Mem.wf t.tiers.bedrock = true ∧
    ∀ q < 2 ^ 25, ptFrozen (s.tableEntry q) = false → ptFrozen (t.tableEntry q) = false

/-- Preserving a page changes its frozen bit alone in the table. -/
theorem preserve_tableEntry {s : State} (wf : Mem.wf s.tiers.bedrock = true) {p q : Nat} (hp : p < 2 ^ 25) (hq : q < 2 ^ 25) :
    (s.preserve p).tableEntry q = if q = p then ptSetFrozen (s.tableEntry p) false else s.tableEntry q := by
  obtain ⟨-, wf', here, apart⟩ := setFrozen_wrote wf hp false
  rw [(preserve_looks s p).tableEntry (by rwa [uncache_bedrock]) hq, uncache_tableEntry]
  split
  · next same => rw [same, here]
  · next other => exact apart q hq other

theorem preserve_thaws (s : State) {p : Nat} (hp : p < 2 ^ 25) :
    Thaws s (s.preserve p) ∧ (Mem.wf s.tiers.bedrock = true → ptFrozen ((s.preserve p).tableEntry p) = false) := by
  have thawed (wf : Mem.wf s.tiers.bedrock = true) : ptFrozen ((s.preserve p).tableEntry p) = false := by
    rw [preserve_tableEntry wf hp hp, if_pos rfl, ptFrozen_ptSetFrozen]
  refine ⟨fun wf => ⟨?_, fun q hq before => ?_⟩, thawed⟩
  · have wf' := (setFrozen_wrote wf hp false).2.1
    exact ((preserve_looks s p).data (by rwa [uncache_bedrock])).1
  · by_cases same : q = p
    · rw [same, thawed wf]
    · rw [preserve_tableEntry wf hp hq, if_neg same, before]

/-- A page preserved if it is frozen. -/
def State.thaw (s : State) (p : Nat) : State := if ptFrozen (s.tableEntry p) then s.preserve p else s

theorem thaw_afar (s : State) (p : Nat) : Afar s (s.thaw p) := by
  unfold State.thaw
  split
  · exact preserve_afar s p
  · exact .refl s

theorem thaw_thaws (s : State) {p : Nat} (hp : p < 2 ^ 25) :
    Thaws s (s.thaw p) ∧ (Mem.wf s.tiers.bedrock = true → ptFrozen ((s.thaw p).tableEntry p) = false) := by
  unfold State.thaw
  split
  · exact preserve_thaws s hp
  · next clear => exact ⟨fun wf => ⟨wf, fun _ _ h => h⟩, fun _ => eq_false_of_ne_true clear⟩

theorem thaws_thaw {l : List Nat} (hl : ∀ p ∈ l, p < 2 ^ 25) : ∀ {s : State}, Mem.wf s.tiers.bedrock = true →
    (∀ q < 2 ^ 25, ptFrozen (s.tableEntry q) = false → ptFrozen ((l.foldl State.thaw s).tableEntry q) = false) ∧
      ∀ p ∈ l, ptFrozen ((l.foldl State.thaw s).tableEntry p) = false := by
  induction l with
  | nil => exact fun _ => ⟨fun _ _ h => h, nofun⟩
  | cons n l ih =>
    intro s wf
    have hn := hl n (List.mem_cons_self ..)
    obtain ⟨first, here⟩ := thaw_thaws s hn
    obtain ⟨wf', kept⟩ := first wf
    obtain ⟨later, listed⟩ := ih (fun p hp => hl p (List.mem_cons_of_mem _ hp)) wf'
    rw [List.foldl_cons]
    refine ⟨fun q hq h => later q hq (kept q hq h), fun p hp => ?_⟩
    rcases List.mem_cons.1 hp with rfl | hp
    · exact later p hn (here wf)
    · exact listed p hp

/-! ### The end of the Scrivener's work -/

/-- What no command's end changes reads as before. -/
theorem Closes.read {u t : State} {β : Type} (h : Closes u t) (f : State → β)
    (hf : ∀ (s : State) a b d, f { s with cmds := a, cqs := b, unitCounters := d } = f s := by exact fun _ _ _ _ => rfl) : f t = f u :=
  (congrArg f h.rest).trans (hf u _ _ _)

theorem endScrivener_closes (s : State) (cmd : Nat) (ids : List Nat) (status detail : Nat) :
    Closes s.scrivenerDone (s.endScrivener cmd ids status detail) := by
  unfold State.endScrivener
  split
  · split
    · exact State.endCmd_closes _ _ _ _
    · next c _ _ =>
      have started : Closes s.scrivenerDone (s.scrivenerDone.startCmd c (.waitAccesses ids status detail)) :=
        ⟨rfl, fun _ => rfl, fun _ _ h => h⟩
      exact started.trans (State.settleCmds_closes _)
  · exact .refl _

/-- What neither a command's end nor the device state changes reads as before. -/
theorem endScrivener_read (s : State) (cmd : Nat) (ids : List Nat) (status detail : Nat) {β : Type} (f : State → β)
    (hf : ∀ (s : State) a b d h, f { s with cmds := a, cqs := b, unitCounters := d, house := h } = f s := by exact fun _ _ _ _ _ => rfl) :
    f (s.endScrivener cmd ids status detail) = f s := by
  refine ((endScrivener_closes s cmd ids status detail).read f fun t a b d => hf t a b d t.house).trans ?_
  rw [State.scrivenerDone, proceed_eq]
  exact hf s s.cmds s.cqs s.unitCounters _

theorem endScrivener_house (s : State) (cmd : Nat) (ids : List Nat) (status detail : Nat) :
    (s.endScrivener cmd ids status detail).house = { s.house with dev := devAfter s } := by
  rw [(endScrivener_closes s cmd ids status detail).house, State.scrivenerDone, proceed_eq]
  rfl

theorem endScrivener_cfg (s : State) (cmd : Nat) (ids : List Nat) (status detail j : Nat) :
    ((s.endScrivener cmd ids status detail).cq j).cfg = (s.cq j).cfg := by
  rw [(endScrivener_closes s cmd ids status detail).cfg, State.scrivenerDone, proceed_eq]
  rfl

section
variable (s : State) (x : Snapshot) (reason : Nat)

/-- The module without its snapshot and the writes to its destination. -/
def State.dropSnapshot : State :=
  { s with
    snapshot := none, txns := s.txns.filter (fun t => !(t.src = .house && t.owner = 1)),
    guilds := s.guilds.map (fun g : Nat × GuildSt => (g.1, { g.2 with scrivQueue := [] })) }

theorem dropSnapshot_afar : Afar { s with snapshot := none } s.dropSnapshot := rfl
theorem dropSnapshot_bedrock : s.dropSnapshot.tiers.bedrock = s.tiers.bedrock := rfl

/-- The module without its snapshot, nothing frozen. -/
def State.thawed : State := if x.frozen then ((List.range x.count).map x.page).foldl State.thaw s.dropSnapshot else s.dropSnapshot

theorem thawed_afar : Afar { s with snapshot := none } (s.thawed x) := by
  unfold State.thawed
  split
  · exact (dropSnapshot_afar s).trans (.fold thaw_afar _ _)
  · exact dropSnapshot_afar s

theorem thawed_clear (frozen : x.frozen = true) (pages : ∀ i < x.count, x.page i < 2 ^ 25) (wf : Mem.wf s.tiers.bedrock = true) :
    ∀ i < x.count, ptFrozen ((s.thawed x).tableEntry (x.page i)) = false := by
  intro i hi
  have listed : ∀ p ∈ (List.range x.count).map x.page, p < 2 ^ 25 := by
    intro p hp
    obtain ⟨j, hj, rfl⟩ := List.mem_map.1 hp
    exact pages j (List.mem_range.1 hj)
  have mem : x.page i ∈ (List.range x.count).map x.page := List.mem_map_of_mem (List.mem_range.2 hi)
  rw [State.thawed, if_pos frozen]
  exact (thaws_thaw listed (by rwa [dropSnapshot_bedrock])).2 _ mem

/-- A failed snapshot's event is raised with nothing frozen; then the Scrivener's work ends. -/
theorem failSnapshot_eq : ∃ ids, s.failSnapshot x reason =
    ((s.thawed x).raise 0x61 [wd x.step, wd reason, wd x.next]).endScrivener x.cmd ids 8 (reason + x.next * 256) := ⟨_, rfl⟩

/-- What the failure of a snapshot leaves behind. -/
theorem failSnapshot_ends : (s.failSnapshot x reason).snapshot = none ∧
    (s.failSnapshot x reason).house = { s.house with dev := devAfter s } ∧
    ⟨0x61, [wd x.step, wd reason, wd x.next]⟩ ∈ (s.failSnapshot x reason).occurrences ∧
    (∀ n, (s.failSnapshot x reason).core n = s.core n) ∧ (∀ j, (s.failSnapshot x reason).sq j = s.sq j) ∧
    (∀ j, ((s.failSnapshot x reason).cq j).cfg = (s.cq j).cfg) ∧
    ∀ p, (s.failSnapshot x reason).tableEntry p = (s.thawed x).tableEntry p := by
  obtain ⟨ids, ends⟩ := failSnapshot_eq s x reason
  obtain ⟨u, raised⟩ : ∃ u, (s.thawed x).raise 0x61 [wd x.step, wd reason, wd x.next] = u := ⟨_, rfl⟩
  have afar : Afar { s with snapshot := none } u := raised ▸ (thawed_afar s x).trans (State.raise_sends _ _ _).afar
  have house : u.house = s.house := afar.read State.house
  rw [ends, raised]
  refine ⟨(endScrivener_read u _ _ _ _ State.snapshot).trans (afar.read State.snapshot), ?_, ?_,
    fun n => (endScrivener_read u _ _ _ _ (State.core · n)).trans (afar.read (State.core · n)),
    fun j => (endScrivener_read u _ _ _ _ (State.sq · j)).trans (afar.read (State.sq · j)),
    fun j => (endScrivener_cfg u _ _ _ _ j).trans (afar.read fun t => (t.cq j).cfg),
    fun p => (endScrivener_read u _ _ _ _ (State.tableEntry · p)).trans ?_⟩
  · rw [endScrivener_house, devAfter, devAfter, house]
  · rw [endScrivener_read u _ _ _ _ State.occurrences, ← raised]
    exact List.mem_append_right _ (List.mem_singleton_self _)
  · rw [← raised]
    rfl

end

end Sys2Proof.Machine
end

section
/-! Snapshots begin, capture, freeze, time out and are cancelled (R380 to R391). -/

namespace Sys2Proof.Machine

section
variable {s : State} {c : Cmd} {x : Snapshot}

theorem exec_captureTimeout (has : s.snapshot = some x) (runs : Scrivening s) (none : x.captured = []) (busy : s.allQuiescent = false) :
    exec .captureTimeout s = .next (s.failSnapshot x 1) := by
  show execCaptureTimeout s = _
  unfold execCaptureTimeout
  simp [has, scrivenerRuns_of runs, none, busy]

/-! ### SNAPSHOT_CANCEL (R391) -/

/-- The cores are released, unless they were before. -/
def State.letGo (s : State) (x : Snapshot) : State := if x.released then s else s.releaseCores x.release

theorem letGo_lands (s : State) (x : Snapshot) : s.letGo x = { s with cores := (s.letGo x).cores } ∧
    (x.released = false → ∀ n < 1024, s.fenced n = false → ((s.letGo x).core n).mailbox = x.release) := by
  obtain ⟨rest, mail⟩ := releaseCores_lands s x.release
  unfold State.letGo
  split
  · next before => exact ⟨rfl, fun held => absurd (before.symm.trans held) nofun⟩
  · exact ⟨rest, fun _ => mail⟩

theorem exec_snapshotCancel (h : Starts s 0x21 c) (dev : s.house.dev = .capture ∨ s.house.dev = .send) (has : s.snapshot = some x) :
    exec .snapshotCancel s = .next (((s.letGo x).failSnapshot x 5).endCmd c 0 0) := by
  show execSnapshotCancel s = _
  unfold execSnapshotCancel
  rw [h.runCommand (by simpa [has] using dev)]
  simp only [has]
  rfl

theorem devAfter_of_snapshotting (dev : s.house.dev = .capture ∨ s.house.dev = .send) : devAfter s = .ready := by
  unfold devAfter
  rcases dev with dev | dev <;> simp [dev]

theorem snapshotCancel_ends (h : Starts s 0x21 c) (dev : s.house.dev = .capture ∨ s.house.dev = .send) (has : s.snapshot = some x)
    (pages : ∀ i < x.count, x.page i < 2 ^ 25) (wf : Mem.wf s.tiers.bedrock = true) :
    ∃ t, exec .snapshotCancel s = .next t ∧ t.snapshot = none ∧ t.house.dev = .ready ∧
      ⟨0x61, [wd x.step, 5, wd x.next]⟩ ∈ t.occurrences ∧
      (x.frozen = true → ∀ i < x.count, ptFrozen (t.tableEntry (x.page i)) = false) ∧
      (x.released = false → ∀ n < 1024, s.fenced n = false → (t.core n).mailbox = x.release) ∧
      (ringEnabled (s.cq (s.sq c.sq).cqOf).cfg = true → completion c 0 0 ∈ (t.cq (s.sq c.sq).cqOf).waiting) := by
  obtain ⟨rest, mail⟩ := letGo_lands s x
  obtain ⟨v, gone⟩ : ∃ v, s.letGo x = v := ⟨_, rfl⟩
  rw [gone] at rest mail
  obtain ⟨snapshot, house, event, cores, sqs, cfg, table⟩ := failSnapshot_ends v x 5
  have ready : devAfter v = .ready := by
    rw [rest]
    exact devAfter_of_snapshotting dev
  have clear := fun frozen => thawed_clear v x frozen pages (by rwa [rest])
  refine ⟨_, (exec_snapshotCancel h dev has).trans (by rw [gone]), ?_⟩
  obtain ⟨u, failed⟩ : ∃ u, v.failSnapshot x 5 = u := ⟨_, rfl⟩
  rw [failed] at snapshot house event cores sqs cfg table ⊢
  have closes := u.endCmd_closes c 0 0
  refine ⟨(closes.read State.snapshot).trans snapshot, ?_, (closes.read State.occurrences).symm ▸ event,
    fun frozen i hi => ?_, fun held n hn live => ?_, fun ring => ?_⟩
  · rw [closes.house, house, ready]
  · rw [closes.tableEntry, table, clear frozen i hi]
  · rw [closes.read (State.core · n), cores, mail held n hn live]
  · have ringOf : (u.sq c.sq).cqOf = (s.sq c.sq).cqOf := by
      rw [sqs, rest]
      rfl
    have working : 1 ∉ u.house.services := by
      rw [house, rest]
      exact h.not_failed
    have waits := State.endCmd_waits (u := u) c 0 0 working (by rw [ringOf, cfg, rest]; exact ring)
    rwa [ringOf, closing_of_not_bad h.not_bad] at waits

end

/-- Settles O58: SNAPSHOT by the first check that fails, the capture by what its image leaves alone, the freeze and the release apart,
and both early ends by what the failure of a snapshot leaves behind. -/
theorem snapshotsBeginAndFreeze : Obligations.SnapshotsBeginAndFreeze := by
  refine ⟨?_, ?_, ?_, ?_, fun s c x h dev has pages wf => snapshotCancel_ends h dev has pages wf⟩
  · intro s c bs x failed h up runs idle unrestored hbs clean fields hx hfailed
    have asked := exec_snapshot up runs h
    rw [deviceRead_of_clean clean, ← hbs] at asked
    have ready (dev : s.house.dev = .ready) := snapshotAsked_ready h fields dev idle unrestored
    rw [← hx] at ready
    subst hfailed
    refine ⟨_, asked, fun busy => ?_, fun dev (wrong : s.requestOk x (fieldAt bs 24 8) = false) => ?_,
      fun dev (right : s.requestOk x (fieldAt bs 24 8) = true) bad => ?_,
      fun dev (right : s.requestOk x (fieldAt bs 24 8) = true) good => ?_⟩
    · rw [snapshotAsked_busy h fields busy]
      exact rejectCmd_ended h.not_bad h.not_failed
    · rw [ready dev, if_pos wrong]
      exact endCmd_ended 8 2 h.not_bad h.not_failed
    · rw [ready dev, if_neg (ne_false_of_eq_true right), if_pos bad]
      exact endCmd_ended 8 3 h.not_bad h.not_failed
    · rw [ready dev, if_neg (ne_false_of_eq_true right), if_neg (ne_false_of_eq_true good)]
      rfl
  · intro s c x a u has runs live fresh first later ha given hu
    obtain ⟨fenced, captured⟩ := imageTaken_captured (a := a) hu
    refine ⟨s.imageTaken c a, fenced, captured, ?_⟩
    subst ha
    exact contextCapture_takes has runs live fresh first later given
  · intro s x has runs none busy
    obtain ⟨snapshot, house, event, -⟩ := failSnapshot_ends s x 1
    exact ⟨_, exec_captureTimeout has runs none busy, snapshot, congrArg House.dev house, event⟩
  · rintro s x Released has runs held all pages wf rfl
    refine ⟨_, exec_snapshotFreeze has runs held all, fun new => ?_, fun frozen done => ?_, fun frozen waiting => ?_⟩
    · rw [if_neg (ne_true_of_eq_false new)]
      obtain ⟨bits, others, house, txns⟩ := freezePages_wrote pages wf
      have kept := afterFreeze_kept (s.freezePages x) { x with frozen := true, waits := (s.freezePages x).translated x.has }
      refine ⟨fun i hi => (kept _ 0).1.trans (bits i hi), fun p hp out => (kept p 0).1.trans (others p hp out),
        fun g p => ?_, fun none => ?_, fun sent => ?_⟩
      · rw [(kept p g).2.1, (kept p g).2.2]
        exact freezePages_uncached s x g p
      · rw [afterFreeze_of_none (by rwa [NoneTranslated, txns])]
        exact release_released _ house
      · obtain ⟨ids, after⟩ := afterFreeze_of_sent (x := x) (s := s.freezePages x) (by rwa [NoneTranslated, txns])
        rw [after]
        exact ⟨house, _, ids, rfl⟩
    · rw [if_pos frozen, State.afterFreeze, if_pos done]
      have same : x = { x with frozen := true } := by rw [← frozen]
      rw [same]
      exact release_released { x with frozen := true } rfl
    · rw [if_pos frozen, State.afterFreeze, if_neg (ne_true_of_eq_false waiting), ← has]

end Sys2Proof.Machine
end

section
/-! One-step accesses of the Scrivener (R245 to R257, R345): reads and writes of ranges, and the transfer of a page, change what moving
accesses changes, may ask for blocks of peers, and keep Bedrock's bytes in canonical form. -/

namespace Sys2Proof.Machine

/-- From `s` to `t` one-step accesses were made: accesses have moved, blocks of peers were asked for, and Bedrock's bytes stay canonical. -/
structure Accessed (s t : State) : Prop where
  afar : Afar { s with asks := t.asks } t
  wf : Mem.wf s.tiers.bedrock = true → Mem.wf t.tiers.bedrock = true

namespace Accessed

theorem of_afar {s t : State} (h : Afar s t) (wf : Mem.wf s.tiers.bedrock = true → Mem.wf t.tiers.bedrock = true) : Accessed s t := by
  refine ⟨?_, wf⟩
  rw [h.read State.asks]
  exact h

theorem refl (s : State) : Accessed s s := ⟨.refl s, id⟩

theorem trans {s t u : State} (h : Accessed s t) (h' : Accessed t u) : Accessed s u := by
  refine ⟨?_, h'.wf ∘ h.wf⟩
  have first := h.afar
  have second := h'.afar
  unfold Afar at first second ⊢
  rw [first] at second
  exact second

/-- What no access and no request changes reads as before. -/
theorem read {s t : State} {β : Type} (h : Accessed s t) (f : State → β)
    (hf : ∀ (s : State) y a, f (State.withAccesses { s with asks := a } y) = f s := by exact fun _ _ _ => rfl) : f t = f s :=
  (congrArg f h.afar).trans (hf s t _)

end Accessed

theorem Looks.accessed {s t : State} (h : Looks s t) : Accessed s t := .of_afar h.afar fun wf => (h.data wf).1
theorem Sends.accessed {s t : State} (h : Sends s t) : Accessed s t := h.looks.accessed

section
variable (s : State)

/-! ### Blocks where they lie (R261, R266) -/

theorem shaleRead_bedrock (g a : Nat) : (s.shaleRead g a).2.tiers.bedrock = s.tiers.bedrock := by
  have counted (t : Store) (n m : Nat) : (({ s with tiers := { s.tiers with shale := t } }.countUnit (shaleUnit g) 1 n).countUnit
      (shaleUnit g) m 64).tiers.bedrock = s.tiers.bedrock := by
    rw [(countUnit_onTiers _ _ _ _).2, (countUnit_onTiers _ _ _ _).2]
  unfold State.shaleRead
  dsimp only
  split
  · exact counted _ _ _
  · exact counted _ _ _

theorem shaleWrite_bedrock (g a : Nat) (runs : Runs) : (s.shaleWrite g a runs).tiers.bedrock = s.tiers.bedrock := by
  unfold State.shaleWrite
  dsimp only
  rw [(countUnit_onTiers _ _ _ _).2]
  split
  · exact shaleRead_bedrock s g a
  · rfl

theorem readAt_accessed (l : Loc) : Accessed s (s.readAt l).2 := by
  cases l with
  | shale g a => exact .of_afar (shaleRead_afar s g a) fun wf => (congrArg Mem.wf (shaleRead_bedrock s g a)).trans wf
  | bedrock k a =>
    have looked : Accessed s (s.bedrockLook k a).2 := .of_afar (bedrockLook_onTiers s k a).afar fun wf => bedrockLook_wf wf k a
    unfold State.readAt State.bedrockRead
    exact looked.trans (countUnit_counted _ _ _ _).looks.accessed
  | host | ls | peer | landing | adder => exact .refl s

theorem writeAt_accessed (runs : Runs) (l : Loc) : Accessed s (s.writeAt runs l) := by
  refine .of_afar (writeAt_afar s runs l) fun wf => ?_
  cases l with
  | shale g a => exact (congrArg Mem.wf (shaleWrite_bedrock s g a runs)).trans wf
  | bedrock k a => exact bedrockWrite_wf wf k a runs
  | host | ls | peer | landing | adder => exact wf

/-! ### Reads and writes of ranges -/

theorem readBlock_accessed (src : Src) (master dva : Nat) (window : Bool) : Accessed s (s.readBlock src master dva window).2 := by
  have entry := (s.entryOf_looks src.guild (dva / 65536)).accessed
  have refused (t : State) (r : Nat) : Accessed t (t.refusedEvent master r (dva / 64 * 64)) := (t.raise_sends _ _).accessed
  unfold State.readBlock
  dsimp only
  split
  · exact refused s 1
  · split
    · exact entry.trans (refused _ _)
    · exact entry
    · exact entry
    · exact (entry.trans (readAt_accessed _ _)).trans (State.carried_looks _ _ _ _ _).accessed

theorem readPart_accessed (src : Src) (master : Nat) (p : Nat × Nat × Nat × Nat) (answers : List PeerAnswer) :
    Accessed s (s.readPart src master p answers).2.2 := by
  have block := readBlock_accessed s src master p.1 false
  have asks (t : State) (a : List Ask) : Accessed t { t with asks := a } := ⟨rfl, id⟩
  unfold State.readPart
  dsimp only
  split
  · exact block
  · exact block.trans (State.takeBlock_sends _).accessed
  · split
    · exact block
    · exact block.trans (asks _ _)

theorem readRange_accessed (src : Src) (master dva n : Nat) (answers : List PeerAnswer) :
    Accessed s (s.readRange src master dva n answers).2.2 :=
  List.foldlRecOn (motive := fun acc : List (Byte × Bool) × List Nat × State => Accessed s acc.2.2) _ _ (.refl s)
    fun _ hacc _ _ => hacc.trans (readPart_accessed _ _ _ _ _)

theorem writeBlock_accessed (src : Src) (master cls dva : Nat) (window : Bool) (runs : Runs) :
    Accessed s (s.writeBlock src master cls dva window runs).2 := by
  have entry := (s.entryOf_looks src.guild (dva / 65536)).accessed
  have refused (t : State) (r : Nat) : Accessed t (t.refusedEvent master r (dva / 64 * 64)) := (t.raise_sends _ _).accessed
  have joins (t : State) (x : Txn) : Accessed t ({ t with nextIssue := t.nextIssue + 1 }.addTxn x) := ⟨rfl, id⟩
  unfold State.writeBlock
  dsimp only
  generalize s.entryOf src.guild (dva / 65536) = y at entry ⊢
  split
  · exact refused s 1
  · split
    · exact entry.trans (refused _ _)
    · exact entry.trans (joins _ _)
    · split
      · exact (entry.trans (joins _ _)).trans (State.send_sends _ _ _ _).accessed
      · exact entry
    · split
      · exact entry.trans (joins _ _)
      · exact (entry.trans (State.carried_looks _ _ _ _ _).accessed).trans (writeAt_accessed _ _ _)

theorem writeRange_accessed (src : Src) (master cls dva : Nat) (bs : List (Byte × Bool)) :
    Accessed s (s.writeRange src master cls dva bs).2 :=
  List.foldlRecOn (motive := fun acc : List Nat × State => Accessed s acc.2) _ _ (.refl s)
    fun _ hacc _ _ => hacc.trans (writeBlock_accessed _ _ _ _ _ _ _)

/-! ### The transfer of a page (R387, R390) -/

theorem sendBytes_accessed (x : Snapshot) (p0 idx dva : Nat) (bs : List (Byte × Bool)) : Accessed s (s.sendBytes x p0 idx dva bs).2 := by
  unfold State.sendBytes
  dsimp only
  split
  · exact .refl s
  · refine List.foldlRecOn (motive := fun acc : Bool × State => Accessed s acc.2) _ _ (.refl s) fun acc hacc p _ => hacc.trans ?_
    have direct (t : State) (runs : Runs) : Accessed t (t.writeBlock .house scrivMaster 3 p.1 false runs).2 :=
      writeBlock_accessed t .house scrivMaster 3 p.1 false runs
    have entry := (acc.2.entryOf_looks 11 (p.1 / pageBytes)).accessed
    have joins (t : State) (x : Txn) : Accessed t (t.addTxn x) := ⟨rfl, id⟩
    split
    · split
      · exact (entry.trans (joins _ _)).trans (State.send_sends _ _ _ _).accessed
      · exact entry.trans (direct _ _)
    · exact direct _ _

end

end Sys2Proof.Machine
end

section
/-! The pages of a snapshot are sent or copied, and its manifest ends it (R292, R385 to R391). -/

namespace Sys2Proof.Machine

section
variable {s : State} {x : Snapshot} {p : Nat}

/-! ### SNAPSHOT_PAGE_SEND (R385 to R387) -/

theorem exec_snapshotPageSend (has : s.snapshot = some x) (runs : Scrivening s) (released : x.released = true) (more : x.next < x.count) :
    ∃ t, exec .snapshotPageSend s = .next t ∧ HouseDone (s.sendPage x (s.peerAnswers (· = .house))) t :=
  ⟨_, rfl, withAnswers_given (by simp [has, scrivenerRuns_of runs, released, more])⟩

/-- Without room in the queue of its Drayman the page stays where it is (R292). -/
theorem sendPage_of_full (answers : List PeerAnswer) (full : 16 ≤ (s.guild (s.scrivGuild (x.page x.next))).scrivQueue.length) :
    s.sendPage x answers = s :=
  if_pos full

theorem exec_snapshotPageSend_full (has : s.snapshot = some x)
    (full : 16 ≤ (s.guild (s.scrivGuild (x.page x.next))).scrivQueue.length) :
    ∃ t, exec .snapshotPageSend s = .next t ∧ HouseDone s t := by
  refine ⟨_, rfl, withAnswers_given ?_⟩
  simp only [has, sendPage_of_full _ full, ite_self]

/-- With room, and nothing of it to recall from the host, the page goes out as it or its copy reads. -/
theorem sendPage_of_room {copy : Option Nat} {answers : List PeerAnswer} {r : List (Byte × Bool) × List Nat × State}
    (room : (s.guild (s.scrivGuild (x.page x.next))).scrivQueue.length < 16)
    (hcopy : copy = (x.copies.find? (fun y => y.1 = x.page x.next)).map (·.2))
    (given : (s.recall 11 scrivMaster (copy.getD (x.page x.next) * pageBytes) pageBytes false).1 = false)
    (read : r = s.readRange .house scrivMaster (copy.getD (x.page x.next) * pageBytes) pageBytes answers) :
    s.sendPage x answers = r.2.2.sendOut x (x.page x.next) copy (blanked r.1) := by
  subst hcopy read
  exact (if_neg (Nat.not_le.2 room)).trans (if_neg (ne_true_of_eq_false given))

theorem taken_eq (x : Snapshot) (p : Nat) (copy : Option Nat) (y : PageEntry) : x.taken p copy y = { x with
    next := x.next + 1, entries := x.entries ++ [y], copies := x.copies.filter (fun z => z.1 ≠ p), pool := x.pool ++ copy.toList } := by
  cases copy with
  | none => simp [Snapshot.taken]
  | some f => rfl

/-- While writes of page `p` are on their way, it is in the queue of the Drayman of guild `g` (R292). -/
def State.carries (s : State) (g p : Nat) : State :=
  if s.txns.any (fun t => t.src = .house && t.owner = 1 && t.spot = p) then
    s.setGuild g { s.guild g with scrivQueue := (s.guild g).scrivQueue ++ [p] }
  else s

theorem carries_accessed (s : State) (g p : Nat) : Accessed s (s.carries g p) := by
  unfold State.carries
  split
  · exact ⟨rfl, id⟩
  · exact .refl s

section
variable {copy : Option Nat} {out : List (Byte × Bool)} {w : Bool × State}
  (hw : w = { s with snapshot := some (x.taken p copy (pageEntryOf p out)) }.sendBytes (x.taken p copy (pageEntryOf p out)) p x.next
    (dataBase x.destBase x.count x.sign + x.next * pageBytes) out)
include hw

theorem sendOut_of_failed (failed : w.1 = false) : s.sendOut x p copy out = w.2.failSnapshot x 4 := by
  subst hw
  exact if_pos (by rw [failed]; rfl)

/-- A page sent joins its Drayman's queue, and is frozen no longer. -/
theorem sendOut_of_sent (sent : w.1 = true) : s.sendOut x p copy out = (w.2.carries (s.scrivGuild p) p).thaw p := by
  subst hw
  exact if_neg (by rw [sent]; decide)

/-- What a page that went out leaves behind. -/
theorem sendOut_ends (wf : Mem.wf s.tiers.bedrock = true) (hp : p < 2 ^ 25) :
    (w.1 = true → (s.sendOut x p copy out).snapshot = some (x.taken p copy (pageEntryOf p out)) ∧
      ptFrozen ((s.sendOut x p copy out).tableEntry p) = false) ∧
    (w.1 = false → (s.sendOut x p copy out).snapshot = none ∧ (s.sendOut x p copy out).house.dev = devAfter s ∧
      ⟨0x61, [wd x.step, 4, wd x.next]⟩ ∈ (s.sendOut x p copy out).occurrences) := by
  have went : Accessed { s with snapshot := some (x.taken p copy (pageEntryOf p out)) } w.2 := hw ▸ sendBytes_accessed _ _ _ _ _ _
  refine ⟨fun sent => ?_, fun failed => ?_⟩
  · have carried := went.trans (carries_accessed w.2 (s.scrivGuild p) p)
    rw [sendOut_of_sent hw sent]
    exact ⟨((thaw_afar _ p).read State.snapshot).trans (carried.read State.snapshot), (thaw_thaws _ hp).2 (carried.wf wf)⟩
  · obtain ⟨snapshot, house, event, -⟩ := failSnapshot_ends w.2 x 4
    rw [sendOut_of_failed hw failed]
    refine ⟨snapshot, ?_, event⟩
    rw [house, devAfter, devAfter, went.read State.house]

end

/-! ### COPY_ON_WRITE (R385, R386, Table 15.3) -/

theorem exec_copyOnWrite {page : BitVec 25} (has : s.snapshot = some x) (runs : Scrivening s) (frozen : x.frozen = true)
    (hp : p = page.toNat) (mine : x.has p = true) (cold : ptFrozen (s.tableEntry p) = true) (unsent : x.unsent p = true)
    (held : ∃ y ∈ s.txns, y.heldOn p = true) :
    ∃ t, exec (.copyOnWrite page) s = .next t ∧ HouseDone (s.copyPage x p (s.peerAnswers (· = .house))) t := by
  subst hp
  have waits : s.txns.any (fun y => y.heldOn page.toNat) = true := List.any_eq_true.2 held
  exact ⟨_, rfl, withAnswers_given (by simp [has, scrivenerRuns_of runs, frozen, mine, cold, unsent, waits])⟩

/-- Nothing recalled leaves the module as it was. -/
theorem recall_of_none {g m d n : Nat} {write : Bool} (none : (s.recall g m d n write).1 = false) : (s.recall g m d n write).2 = s := by
  have empty : s.snoopedOf g m d n write = [] := by simpa [State.recall] using none
  simp [State.recall, empty]

/-- The first element with a property, or the first of all where none has it. -/
theorem find?_or_head? {α : Type} [DecidableEq α] {l : List α} {q : α → Bool} {f : α} (mem : f ∈ l)
    (best : q f = true ∨ ∀ g ∈ l, q g = false) (first : ∀ y ∈ l.takeWhile (· ≠ f), q f = true ∧ q y = false) :
    (l.find? q <|> l.head?) = some f := by
  obtain ⟨before, after, rfl, fresh⟩ := List.eq_append_cons_of_mem mem
  have ahead : (before ++ f :: after).takeWhile (· ≠ f) = before := by
    have passed : ∀ a ∈ before, decide (a ≠ f) = true := fun a ha => decide_eq_true fun same => fresh (same ▸ ha)
    rw [List.takeWhile_append_of_pos passed]
    simp
  rw [ahead] at first
  cases hf : q f with
  | true =>
    have found : (before ++ f :: after).find? q = some f :=
      List.find?_eq_some_iff_append.2 ⟨hf, before, after, rfl, fun y hy => by simp [(first y hy).2]⟩
    rw [found]
    rfl
  | false =>
    have alone : before = [] := List.eq_nil_iff_forall_not_mem.2 fun y hy => Bool.false_ne_true (hf.symm.trans (first y hy).1)
    have none : (before ++ f :: after).find? q = none :=
      List.find?_eq_none.2 fun g hg => ne_true_of_eq_false (best.resolve_left (by simp [hf]) g hg)
    rw [none, alone]
    rfl

/-- A page is copied into the first frame of the pool in its own stack, or the first of all where its stack has none. -/
theorem copyPage_of_frame {f : Nat} (answers : List PeerAnswer) (mem : f ∈ x.pool)
    (best : s.stackOf f = s.stackOf p ∨ ∀ g ∈ x.pool, s.stackOf g ≠ s.stackOf p)
    (first : ∀ y ∈ x.pool.takeWhile (· ≠ f), s.stackOf f = s.stackOf p ∧ s.stackOf y ≠ s.stackOf p)
    (given : (s.recall 11 scrivMaster (p * pageBytes) pageBytes false).1 = false)
    (given' : (s.recall 11 scrivMaster (f * pageBytes) pageBytes true).1 = false) :
    s.copyPage x p answers = s.copyInto x p f answers := by
  have frame : (x.pool.find? (fun g => s.stackOf g = s.stackOf p) <|> x.pool.head?) = some f :=
    find?_or_head? mem (by simpa using best) (by simpa using first)
  unfold State.copyPage
  rw [frame]
  dsimp only
  rw [recall_of_none given, given, given', if_neg (by simp)]

theorem copyInto_thawed (answers : List PeerAnswer) (f : Nat) (wf : Mem.wf s.tiers.bedrock = true) (hp : p < 2 ^ 25) :
    ptFrozen ((s.copyInto x p f answers).tableEntry p) = false := by
  have read := readRange_accessed s .house scrivMaster (p * pageBytes) pageBytes answers
  unfold State.copyInto
  generalize s.readRange .house scrivMaster (p * pageBytes) pageBytes answers = y at read ⊢
  have written := read.trans (writeRange_accessed y.2.2 .house scrivMaster 3 (f * pageBytes) y.1)
  exact (preserve_thaws _ hp).2 (written.wf wf)

/-- With no frame free the page counts once (Table 15.3). -/
theorem copyPage_of_empty (answers : List PeerAnswer) (empty : x.pool = []) (fresh : x.counted.contains p = false) :
    s.copyPage x p answers = { s with snapshot := some { x with counted := x.counted ++ [p] } }.countUnit houseUnit 1 1 := by
  have none : (x.pool.find? (fun f => s.stackOf f = s.stackOf p) <|> x.pool.head?) = none := by
    rw [empty]
    rfl
  unfold State.copyPage
  rw [none]
  exact if_neg (ne_true_of_eq_false fresh)

/-- One event counted on a counter that counts no bytes. -/
theorem countUnit_countedOne (s : State) {u i : Nat} (counts : unitIndex u i = true) (events : i < 0x300) :
    CountedOne s (s.countUnit u i 1) u i := by
  have counted : s.countUnit u i 1 = { s with unitCounters := s.unitCounters.set (1024 * u + i) ((s.unitCounter u i).add 1) } := by
    simp [State.countUnit, counts, Nat.not_le.2 events]
  have read (v j : Nat) : (s.countUnit u i 1).unitCounter v j =
      if 1024 * v + j = 1024 * u + i then (s.unitCounter u i).add 1 else s.unitCounter v j := by
    rw [counted]
    exact Tab.get_set _ _ _ _ _
  refine ⟨by rw [counted], by rw [read, if_pos rfl]; rfl, fun v j hj other => ?_⟩
  rw [read, if_neg]
  intro same
  exact other (Prod.ext_iff.2 ⟨show v = u by omega, show j = i by omega⟩)

/-! ### MANIFEST_WRITE (R388, R389) -/

theorem exec_manifestWrite (has : s.snapshot = some x) (runs : Scrivening s) (released : x.released = true) (all : x.count ≤ x.next)
    (acked : s.unacked = false) : exec .manifestWrite s = .next (if x.manifest then s.finishSnapshot x else s.sendManifest x) := by
  show execManifestWrite s = _
  simp [execManifestWrite, has, scrivenerRuns_of runs, released, Nat.not_lt.2 all, acked]

/-- What the end of a snapshot leaves behind. -/
theorem finishSnapshot_ends (s : State) (x : Snapshot) : (s.finishSnapshot x).snapshot = none ∧
    (s.finishSnapshot x).house = { s.house with lastSnapshot := x.step, dev := devAfter s } ∧
    (s.finishSnapshot x).occurrences = s.occurrences ++ [⟨0x60, [wd x.step, wd x.kind, wd x.entries.length,
      wd (x.entries.filter (·.poisoned)).length]⟩] :=
  ⟨endScrivener_read _ _ _ _ _ State.snapshot, endScrivener_house _ _ _ _ _, endScrivener_read _ _ _ _ _ State.occurrences⟩

/-- The manifest's writes are on their way, or the snapshot has ended. -/
theorem sendManifest_snapshot (s : State) (x : Snapshot) :
    (s.sendManifest x).snapshot = none ∨ (s.sendManifest x).snapshot = some { x with manifest := true } := by
  unfold State.sendManifest
  dsimp only
  split
  · exact .inl (failSnapshot_ends _ x 4).1
  · split
    · exact .inr (List.foldlRecOn (motive := fun acc : Bool × State => acc.2.snapshot = some { x with manifest := true }) _ _ rfl
        fun _ hacc _ _ => ((sendBytes_accessed _ _ _ _ _ _).read State.snapshot).trans hacc)
    · exact .inl (finishSnapshot_ends _ x).1

end

/-- Settles O59: the page sent by what its transfer leaves alone and the thaw that follows it, the copy by the choice of its frame, and
the manifest by the end of the Scrivener's work. -/
theorem snapshotPagesAndManifest : Obligations.SnapshotPagesAndManifest := by
  refine ⟨?_, fun s x has full => exec_snapshotPageSend_full has full, ?_, ?_⟩
  · intro s u x x' answers p a copy out w has runs released more hp bound room hanswers hcopy ha given hout hu hx' hw wf
    subst hp hanswers ha hout hu
    obtain ⟨t, steps, done⟩ := exec_snapshotPageSend has runs released more
    rw [sendPage_of_room room hcopy given rfl] at done
    have next := hx'.trans (taken_eq x _ copy (pageEntryOf (x.page x.next) _)).symm
    have read := readRange_accessed s .house scrivMaster (copy.getD (x.page x.next) * pageBytes) pageBytes (s.peerAnswers (· = .house))
    rw [next] at hw
    obtain ⟨sent, failed⟩ := sendOut_ends hw (read.wf wf) bound
    refine ⟨t, _, steps, done, fun went => next ▸ sent went, fun lost => ?_⟩
    obtain ⟨snapshot, dev, event⟩ := failed lost
    exact ⟨snapshot, dev.trans (by rw [devAfter, devAfter, read.read State.house]), event⟩
  · intro s x page answers p has runs frozen hp mine cold unsent held hanswers
    subst hanswers
    obtain ⟨t, steps, done⟩ := exec_copyOnWrite has runs frozen hp mine cold unsent held
    refine ⟨fun f u mem best first given given' wf hu => ?_, fun empty fresh => ?_⟩
    · subst hu
      rw [copyPage_of_frame _ mem best first given given'] at done
      exact ⟨t, _, _, steps, done, rfl, rfl, copyInto_thawed _ f wf (hp ▸ page.isLt)⟩
    · rw [copyPage_of_empty _ empty fresh] at done
      exact ⟨t, _, steps, done, countUnit_countedOne _ (by decide) (by decide)⟩
  · intro s x has runs released all acked
    have steps := exec_manifestWrite has runs released all acked
    refine ⟨fun written => ⟨_, steps.trans (by rw [if_pos written]), finishSnapshot_ends s x⟩, fun fresh => ?_⟩
    exact ⟨_, steps.trans (by rw [if_neg (ne_true_of_eq_false fresh)]), rfl, sendManifest_snapshot s x⟩

end Sys2Proof.Machine
end

section
/-! The machine as a whole: a step is its front command's meaning (logs 11, 26), no command stops, touches the queue, or changes what
SEC_LOCK locks (R448); and the registers and units after a cold reset (R428). -/

namespace Sys2Proof.Machine

/-- A bit error arises in a store of a core or of a tier, and nowhere else. -/
theorem strike_stores (s : State) (x : Config.Upset) : s.strike x = { s with cores := (s.strike x).cores, tiers := (s.strike x).tiers } := by
  cases x <;> rfl

/-- Settles O1: on an empty queue the only change is the bit error drawn from the number that the idle step uses up. -/
theorem stepRunsTheFrontCommand : Obligations.StepRunsTheFrontCommand := by
  refine ⟨fun s i rest front => by rw [step, front], fun s empty => ⟨s.idle, by rw [step, empty], ?_⟩⟩
  cases drawn : Config.upset s.free with
  | none =>
    have idles : s.idle = { s with free := s.free + 1 } := by rw [State.idle, drawn]
    rw [idles]
    exact ⟨rfl, fun _ => ⟨rfl, rfl⟩, fun x hx => nomatch hx⟩
  | some x =>
    have struck : s.idle = State.strike { s with free := s.free + 1 } x := by rw [State.idle, drawn]
    rw [struck]
    refine ⟨strike_stores _ x, nofun, fun y hy => ?_⟩
    rw [Option.some.inj hy]

/-- Settles O2: every meaning answers `.next`. -/
theorem everyCommandAnswers : Obligations.EveryCommandAnswers := by
  intro i s
  cases i <;> exact ⟨_, rfl⟩

/-- Settles O3: the queue is part of what every command keeps. -/
theorem queueLeftAlone : Obligations.QueueLeftAlone :=
  fun _ s t answered => (exec_keeps (lk := false) (fun h => nomatch h) (Keeps.refl s.held) t answered).pending

/-- Settles O6: a command other than a cold reset or a zeroisation keeps what the lock holds. -/
theorem lockHolds : Obligations.LockHolds := by
  intro s t i rest front keeps answered
  rw [step, front] at answered
  exact (exec_keeps (lk := true) (fun _ => keeps) (Keeps.refl _) t answered).lock rfl

/-- Settles O49: all four commands answer the same reset state, the rails up or down. -/
theorem coldResets : Obligations.ColdResets := by
  rintro s ns after rfl
  refine ⟨rfl, rfl, fun power => ?_, fun power link => ?_⟩
  · show Host.Outcome.next (if s.house.power = true ∧ 1000 ≤ ns then s.coldReset true else s) = _
    rw [power]
    simp only [true_and]
    rfl
  · show Host.Outcome.next (if s.house.power = true ∧ s.port.linkUp = true then s.coldReset true else s) = _
    rw [if_pos ⟨power, link⟩]
    rfl

/-- Settles O11, register by register. -/
theorem resetRegisters : Obligations.ResetRegisters := by
  intro r hdm svn
  cases r with
  | hdm i => exact absurd rfl (hdm i)
  | svn => exact absurd rfl svn
  | acl i =>
    show (if i % 64 = 0 then (3 : Word32) else 0).setWidth 64 = _
    dsimp only
    split <;> rfl
  | gauSel c j =>
    show (if j < 8 then BitVec.ofNat 32 (0x80000010 + j) else (0 : Word32)).setWidth 64 = _
    dsimp only
    split
    · bv_omega
    · rfl
  | msix v p => match p with
    | 0 => exact BitVec.zero_and
    | 1 => exact BitVec.zero_ushiftRight
    | 2 => rfl
    | _ + 3 => exact (if_pos (by omega)).symm
  | unit u i =>
    show (if unitIndex u i = true then GauCounter.word {} else 0) = _
    split <;> rfl
  | coreCfg c =>
    show wd (0 * 256 + 0) = 0#64
    rw [Nat.zero_mul]
    rfl
  | _ => rfl

end Sys2Proof.Machine
end

section
/-! The link header, the slot header and the slots of a body read back as they were written (Tables 13.2 to 13.4). -/

namespace Sys2Proof.Machine

/-! ### Headers -/

theorem testBit_eq_mod (v i : Nat) : v.testBit i = decide (v / 2 ^ i % 2 = 1) := Nat.testBit_eq_decide_div_mod_eq

/-- Table 13.2: the fields of a link header lie side by side. -/
theorem FlitHeader.ofNat_toNat (h : FlitHeader) (fits : HeaderFits h) : FlitHeader.ofNat h.toNat = h := by
  obtain ⟨seq, ack, ftype, nak, vc, hop, creditVc, creditHop, creditCnt, dst⟩ := h
  obtain ⟨hseq, hack, hftype, hvc, hhop, hcvc, hchop, hcnt, hdst⟩ := fits
  simp only at hseq hack hftype hvc hhop hcvc hchop hcnt hdst
  simp only [FlitHeader.ofNat, FlitHeader.toNat, bitsOf_eq_div, bitOf, testBit_eq_mod, FlitHeader.mk.injEq]
  cases nak <;> simp only [Bool.false_eq_true, if_true, if_false, decide_eq_false_iff_not, decide_eq_true_eq] <;> omega

/-- The fields of a slot header fit their widths (Table 13.4). -/
def SlotHeader.Fits (h : SlotHeader) : Prop :=
  h.kind < 2 ^ 4 ∧ h.addr < 2 ^ 35 ∧ h.tag < 2 ^ 12 ∧ h.master < 2 ^ 16 ∧ h.burst < 2 ^ 8 ∧ h.status < 2 ^ 4

/-- Table 13.4: the fields of a slot header lie side by side. -/
theorem SlotHeader.ofBits_toBits (h : SlotHeader) (fits : h.Fits) : SlotHeader.ofBits h.toBits = h := by
  obtain ⟨kind, poison, addr, tag, master, burst, status⟩ := h
  obtain ⟨hkind, haddr, htag, hmaster, hburst, hstatus⟩ := fits
  simp only at hkind haddr htag hmaster hburst hstatus
  simp only [SlotHeader.ofBits, SlotHeader.toBits, BitVec.toNat_ofNat, bitsOf_eq_div, bitOf, testBit_eq_mod, SlotHeader.mk.injEq]
  cases poison <;> simp only [Bool.false_eq_true, if_true, if_false, decide_eq_false_iff_not, decide_eq_true_eq] <;> omega

/-! ### Bodies -/

/-- A digit in front of a number is its remainder, and the number its quotient. -/
theorem digit_div {x p : Nat} (r : Nat) (hx : x < p) : (x + p * r) / p = r := by
  rw [Nat.add_mul_div_left _ _ (Nat.zero_lt_of_lt hx), Nat.div_eq_of_lt hx, Nat.zero_add]
theorem digit_mod {x p : Nat} (r : Nat) (hx : x < p) : (x + p * r) % p = x := by
  rw [Nat.add_mul_mod_self_left, Nat.mod_eq_of_lt hx]
theorem digit_lt {x p r q : Nat} (hx : x < p) (hr : r < q) : x + p * r < p * q :=
  calc x + p * r < p + p * r := Nat.add_lt_add_right hx _
    _ = p * (r + 1) := by rw [Nat.mul_succ, Nat.add_comm]
    _ ≤ p * q := Nat.mul_le_mul_left p hr

theorem two_pow_split (a b : Nat) {c : Nat} (h : a + b = c) : 2 ^ c = 2 ^ a * 2 ^ b := h ▸ Nat.pow_add 2 a b

/-- A slot as a number of 608 bits; 0 where there is none. -/
def slotValue : Option LinkSlot → Nat
  | some x => x.header.toNat + x.data.toNat * 2 ^ 96
  | none => 0

theorem slotValue_lt (o : Option LinkSlot) : slotValue o < 2 ^ 608 := by
  cases o with
  | none => exact Nat.two_pow_pos 608
  | some x =>
    rw [slotValue, Nat.mul_comm, two_pow_split 96 512 (rfl : _ = 608)]
    exact digit_lt x.header.isLt x.data.isLt

/-- The mask a body carries: that of its last masked slot. -/
def bodyMask (xs : List LinkSlot) : Nat := xs.foldl (fun m x => if (SlotHeader.ofBits x.header).kind = 2 then x.mask else m) 0

theorem bodyMask_lt {xs : List LinkSlot} (fits : ∀ y ∈ xs, y.mask < 2 ^ 64) : bodyMask xs < 2 ^ 64 :=
  List.foldlRecOn xs _ (motive := fun m => m < 2 ^ 64) (Nat.two_pow_pos _) fun m hm x hx => by
    split
    · exact fits x hx
    · exact hm

theorem slotsBody_eq (src : Nat) (xs : List LinkSlot) : slotsBody src xs = BitVec.ofNat 1952 (src + bodyMask xs * 2 ^ 64 +
    slotValue xs[0]? * 2 ^ 128 + slotValue xs[1]? * 2 ^ 736 + slotValue xs[2]? * 2 ^ 1344) := rfl

/-- Table 13.3: the source and the mask of 64 bits each, then three slots of 608. -/
theorem slotsBody_toNat {src : Nat} {xs : List LinkSlot} (hsrc : src < 2 ^ 12) (fits : ∀ y ∈ xs, y.mask < 2 ^ 64) :
    (slotsBody src xs).toNat = src + 2 ^ 64 * (bodyMask xs + 2 ^ 64 * (slotValue xs[0]? + 2 ^ 608 *
      (slotValue xs[1]? + 2 ^ 608 * slotValue xs[2]?))) := by
  have at736 : (2 : Nat) ^ 736 = 2 ^ 128 * 2 ^ 608 := two_pow_split 128 608 rfl
  have at1344 : (2 : Nat) ^ 1344 = 2 ^ 736 * 2 ^ 608 := two_pow_split 736 608 rfl
  have width : (2 : Nat) ^ 1952 = 2 ^ 1344 * 2 ^ 608 := two_pow_split 1344 608 rfl
  have src64 : src < 2 ^ 64 := hsrc.trans (by decide)
  have bound := digit_lt src64 (digit_lt (bodyMask_lt fits)
    (digit_lt (slotValue_lt xs[0]?) (digit_lt (slotValue_lt xs[1]?) (slotValue_lt xs[2]?))))
  have shape : src + bodyMask xs * 2 ^ 64 + slotValue xs[0]? * 2 ^ 128 + slotValue xs[1]? * 2 ^ 736 + slotValue xs[2]? * 2 ^ 1344 =
      src + 2 ^ 64 * (bodyMask xs + 2 ^ 64 * (slotValue xs[0]? + 2 ^ 608 * (slotValue xs[1]? + 2 ^ 608 * slotValue xs[2]?))) := by
    rw [at1344, at736, two_pow_split 64 64 (rfl : _ = 128)]
    generalize (2 : Nat) ^ 64 = p, (2 : Nat) ^ 608 = q
    ring
  have small : src + 2 ^ 64 * (bodyMask xs + 2 ^ 64 * (slotValue xs[0]? + 2 ^ 608 * (slotValue xs[1]? + 2 ^ 608 * slotValue xs[2]?))) <
      2 ^ 1952 := by
    rw [width, at1344, at736, two_pow_split 64 64 (rfl : _ = 128), Nat.mul_assoc, Nat.mul_assoc, Nat.mul_assoc]
    exact bound
  rw [slotsBody_eq, shape, BitVec.toNat_ofNat, Nat.mod_eq_of_lt small]

/-- Behind the source, the mask and `i` slots stands slot `i`, and what follows it. -/
theorem slotsBody_div {src : Nat} {xs : List LinkSlot} (hsrc : src < 2 ^ 12) (fits : ∀ y ∈ xs, y.mask < 2 ^ 64) {i : Nat} (hi : i < 3) :
    ∃ r, (slotsBody src xs).toNat / 2 ^ (128 + 608 * i) = slotValue xs[i]? + 2 ^ 608 * r := by
  have low := slotsBody_toNat hsrc fits
  have at0 : (slotsBody src xs).toNat / 2 ^ 128 = slotValue xs[0]? + 2 ^ 608 * (slotValue xs[1]? + 2 ^ 608 * slotValue xs[2]?) := by
    rw [low, two_pow_split 64 64 (rfl : _ = 128), ← Nat.div_div_eq_div_mul,
      digit_div _ (hsrc.trans (Nat.pow_lt_pow_right one_lt_two (by decide : 12 < 64))), digit_div _ (bodyMask_lt fits)]
  rw [Nat.pow_add, ← Nat.div_div_eq_div_mul, at0]
  match i, hi with
  | 0, _ => exact ⟨_, Nat.div_one _⟩
  | 1, _ => exact ⟨_, digit_div _ (slotValue_lt _)⟩
  | 2, _ =>
    refine ⟨0, ?_⟩
    rw [two_pow_split 608 608 (rfl : _ = 608 * 2), ← Nat.div_div_eq_div_mul,
      digit_div _ (slotValue_lt _), digit_div _ (slotValue_lt _), Nat.mul_zero, Nat.add_zero]

/-- Table 13.3: a slot of a body reads back as it was written. -/
theorem slotsOf_slotsBody {src : Nat} {xs : List LinkSlot} {i : Nat} {x : LinkSlot} (hsrc : src < 2 ^ 12) (three : xs.length ≤ 3)
    (fits : ∀ y ∈ xs, y.mask < 2 ^ 64) (given : xs[i]? = some x) :
    ∃ y, (slotsOf (slotsBody src xs))[i]? = some y ∧ y.header = x.header ∧ y.data = x.data := by
  have hi : i < 3 := ((List.getElem?_eq_some_iff.1 given).1).trans_le three
  obtain ⟨r, at_⟩ := slotsBody_div hsrc fits hi
  rw [given, slotValue, Nat.mul_comm _ (2 ^ 96), Nat.add_assoc, two_pow_split 96 512 (rfl : _ = 608), Nat.mul_assoc, ← Nat.mul_add] at at_
  refine ⟨_, by rw [slotsOf, List.getElem?_map, List.getElem?_range hi]; rfl, BitVec.eq_of_toNat_eq ?_, BitVec.eq_of_toNat_eq ?_⟩
  · rw [BitVec.extractLsb'_toNat, Nat.shiftRight_eq_div_pow, at_, digit_mod _ x.header.isLt]
  · rw [BitVec.extractLsb'_toNat, Nat.shiftRight_eq_div_pow, show 224 + 608 * i = 128 + 608 * i + 96 by omega, Nat.pow_add,
      ← Nat.div_div_eq_div_mul, at_, digit_div _ x.header.isLt, digit_mod _ x.data.isLt]

theorem bodySrc_slotsBody {src : Nat} {xs : List LinkSlot} (hsrc : src < 2 ^ 12) (fits : ∀ y ∈ xs, y.mask < 2 ^ 64) :
    bodySrc (slotsBody src xs) = src := by
  rw [bodySrc, bitsOf_eq_div, slotsBody_toNat hsrc fits, Nat.pow_zero, Nat.div_one, two_pow_split 12 52 (rfl : _ = 64),
    Nat.mul_assoc]
  exact digit_mod _ hsrc

/-- Settles O8, layout by layout. -/
theorem linkHeadersReadBack : Obligations.LinkHeadersReadBack :=
  ⟨fun h h1 h2 h3 h4 h5 h6 h7 h8 h9 => h.ofNat_toNat ⟨h1, h2, h3, h4, h5, h6, h7, h8, h9⟩,
    fun h h1 h2 h3 h4 h5 h6 => h.ofBits_toBits ⟨h1, h2, h3, h4, h5, h6⟩,
    fun _ _ _ _ hsrc three given fits => ⟨bodySrc_slotsBody hsrc fits, slotsOf_slotsBody hsrc three fits given⟩⟩

end Sys2Proof.Machine
end

section
/-! The registers of BAR0 (R402, R429, R482, R483): where each lies, what a write that reaches one leaves, and that every other word reads
as before. -/

namespace Sys2Proof.Machine

/-! ### The address map -/

/-- Where a register of BAR0 lies (Tables 21.2, 21.3). -/
def Reg.addr : Reg → Nat
  | .energyCfg => 0x100 | .erepBase => 0x108 | .hdmMap => 0x10000
  | .sqBase i => 0x10800 + 32 * i | .sqCfg i => 0x10808 + 32 * i | .cqBase i => 0x10810 + 32 * i | .cqCfg i => 0x10818 + 32 * i
  | .evqBase => 0x11000 | .evqCfg => 0x11008 | .evqHead => 0x1100C | .evPending w => 0x11040 + 8 * w
  | .hdm i => 0x21200 + 4 * i | .msix v p => 0x30000 + 16 * v + 4 * p
  | .self => 0x40000 | .linkCtrl l => 0x40100 + 8 * l | .route p => 0x44000 + 4 * p | .land k => 0x48000 + 8 * k
  | .acl i => 0x80000 + 4 * i | .domCore w => 0x84000 + 8 * w | .domPeer w => 0x84800 + 8 * w | .domHost => 0x85000
  | .lock => 0x85008 | .svn => 0x85010 | .lsClass w => 0x85400 + 8 * w | .restoreKey k m => 0x86000 + 64 * k + 8 * m
  | .setCtrl n => 0x90000 + 8 * n | .setMask i => 0x98000 + 8 * i | .coreCfg c => 0xA0000 + 16 * c | .stalemate c => 0xA0008 + 16 * c
  | .bwCfg => 0x100000 | .gauCfg c => 0x110000 + 32 * c | .smpBase c => 0x110008 + 32 * c | .dumpBase c => 0x110010 + 32 * c
  | .gauSel c j => 0x200000 + 1024 * c + 4 * j | .unit u i => 0x800000 + 8192 * u + 8 * i

/-- The words of a SEC_RESTORE_KEY are five. -/
def Reg.Placed : Reg → Prop
  | .restoreKey _ m => m < 5
  | _ => True

/-- One line of the address map: what is found is found under the line's condition, or further down. -/
theorem found_ite {p : Prop} [Decidable p] {x y : Option Reg} {r : Reg} {goal : Prop} (below : y = some r → goal)
    (here : p → x = some r → goal) (found : (if p then x else y) = some r) : goal := by
  split at found
  · exact here ‹_› found
  · exact below found

/-- A register is found at its own address, and nowhere else. -/
theorem regAt_addr {a : Nat} {r : Reg} (found : regAt a = some r) : a = r.addr ∧ r.Placed := by
  unfold regAt at found
  dsimp only at found
  revert found
  iterate 28 refine @found_ite _ _ _ _ _ _ ?_ ?_
  · exact nofun
  all_goals
    intro inside found
    try split at found
    all_goals simp only [Option.some.injEq, reduceCtorEq] at found
    all_goals subst found
    all_goals simp only [Reg.addr, Reg.Placed, and_true]
    all_goals omega

/-- At one address lies one register. -/
theorem regAt_ne {a b : Nat} {q r : Reg} (atA : regAt a = some r) (atB : regAt b = some q) (apart : b ≠ a) : q ≠ r := by
  rintro rfl
  exact apart ((regAt_addr atB).1.trans (regAt_addr atA).1.symm)

/-! ### Where the rows of set-up registers and of the access tables lie -/

/-- The stretches of BAR0 with the rows of `plainRows`, `lockRows` and LNK_SELF. -/
def SetUpSpace (a : Nat) : Prop :=
  a = 0x10000 ∨ a = 0x40000 ∨ (0x44000 ≤ a ∧ a < 0x48800) ∨ (0x80000 ≤ a ∧ a < 0x87000) ∨ (0x90000 ≤ a ∧ a < 0xA0000) ∨ a = 0x100000

/-- None of its registers is read-only. -/
theorem readOnly_setUp (s : State) {a : Nat} (space : SetUpSpace a) : s.readOnly a = none := by
  unfold SetUpSpace at space
  unfold State.readOnly
  iterate 15 rw [if_neg (by omega)]

/-! ### What a write leaves -/

/-- The bits of a set-up register that hold what is written (Tables 12.7, 12.8, 13.9, 13.10, 16.3, 18.3, 19.5, 21.7). -/
def Reg.mask : Reg → Word
  | .hdmMap => 0x1FFF0000000
  | .self => 0xFFF
  | .route _ => 0x8000003F
  | .land _ => 0x80FFFFFC01FFFFFF
  | .setCtrl _ => 0x803FF8FC00000000
  | .bwCfg => 0x3F
  | .acl _ => 0xFFFFFFFF
  | .domHost => 0xF
  | .lsClass _ => 0x3F3F3F3F3F3F3F3F
  | .restoreKey _ m => if m = 4 then 0x8000000000000FFF else 0xFFFFFFFFFFFFFFFF
  | _ => 0xFFFFFFFFFFFFFFFF

/-- A write reaches the register: those of the access tables while SEC_LOCK is clear (R448), LNK_SELF while every port is DISABLED
(R343); registers of other kinds do not hold what is written to them alone. -/
def Reg.Takes (s : State) : Reg → Prop
  | .hdmMap | .route _ | .land _ | .setCtrl _ | .setMask _ | .bwCfg => True
  | .self => (List.range 36).all (fun l => (s.link l).state = .disabled) = true
  | .acl _ | .domCore _ | .domPeer _ | .domHost | .lsClass _ | .restoreKey _ _ => s.sec.locked = false
  | _ => False

theorem setWidth_and_setWidth (w : Word) (m : Word32) : (w.setWidth 32 &&& m).setWidth 64 = w &&& m.setWidth 64 := by
  ext i hi
  simp only [BitVec.getElem_setWidth, BitVec.getElem_and, BitVec.getLsbD_and, BitVec.getLsbD_setWidth]
  by_cases low : i < 32
  · simp [low, BitVec.getLsbD_eq_getElem hi]
  · simp [low, BitVec.getLsbD_of_ge m i (Nat.not_lt.1 low)]

theorem lockable_of_unlocked {s : State} (open_ : s.sec.locked = false) (f : Security → Security) :
    s.lockable f = { s with sec := f s.sec } := if_neg (ne_true_of_eq_false open_)

section
variable {s : State}

theorem writeReg_self (takes : Reg.self.Takes s) (w : Word) : s.writeReg .self w = { s with self := w.setWidth 32 &&& 0xFFF } := if_pos takes

/-- A set-up register holds the writable bits of what is written. -/
theorem readReg_writeReg {q : Reg} (takes : q.Takes s) (w : Word) : (s.writeReg q w).readReg q = w &&& q.mask := by
  cases q with
  | hdmMap => rfl
  | self =>
    rw [writeReg_self takes]
    exact setWidth_and_setWidth w 0xFFF
  | route p =>
    show (Tab.get 0 (Tab.set s.routes p (w.setWidth 32 &&& 0x8000003F)) p).setWidth 64 = _
    rw [Tab.get_set_same]
    exact setWidth_and_setWidth w 0x8000003F
  | land k => exact Tab.get_set_same _ _ _ _
  | setCtrl n => exact Tab.get_set_same _ _ _ _
  | setMask i => exact (Tab.get_set_same _ _ _ _).trans BitVec.and_allOnes.symm
  | bwCfg => exact setWidth_and_setWidth w 0x3F
  | acl i =>
    rw [State.writeReg, lockable_of_unlocked takes]
    show ((Tab.find (Tab.set s.sec.acl i (w.setWidth 32)) (64 * (i / 64) + i % 64)).getD (if i % 64 = 0 then 3 else 0)).setWidth 64 = _
    rw [Nat.div_add_mod, Tab.find_set_same]
    exact (congrArg _ BitVec.and_allOnes.symm).trans (setWidth_and_setWidth w (BitVec.allOnes 32))
  | domCore k =>
    rw [State.writeReg, lockable_of_unlocked takes]
    exact (Tab.get_set_same _ _ _ _).trans BitVec.and_allOnes.symm
  | domPeer k =>
    rw [State.writeReg, lockable_of_unlocked takes]
    exact (Tab.get_set_same _ _ _ _).trans BitVec.and_allOnes.symm
  | domHost =>
    rw [State.writeReg, lockable_of_unlocked takes]
    rfl
  | lsClass k =>
    rw [State.writeReg, lockable_of_unlocked takes]
    exact Tab.get_set_same _ _ _ _
  | restoreKey k m =>
    rw [State.writeReg, lockable_of_unlocked takes]
    refine (Tab.get_set_same _ _ _ _).trans ?_
    show (if m = 4 then w &&& 0x8000000000000FFF#64 else w) = w &&& if m = 4 then 0x8000000000000FFF#64 else BitVec.allOnes 64
    split
    · rfl
    · exact BitVec.and_allOnes.symm
  | _ => exact takes.elim

/-- Every other register reads as before. -/
theorem readReg_writeReg_ne {p q : Reg} (takes : q.Takes s) (placed : q.Placed) (placed' : p.Placed) (apart : p ≠ q) (w : Word) :
    (s.writeReg q w).readReg p = s.readReg p := by
  have same {n m : Nat} {f : Nat → Reg} (h : f n ≠ f m) : n ≠ m := fun e => h (congrArg f e)
  cases q with
  | hdmMap =>
    cases p with
    | hdmMap => exact absurd rfl apart
    | _ => rfl
  | self =>
    rw [writeReg_self takes]
    cases p with
    | self => exact absurd rfl apart
    | _ => rfl
  | route =>
    cases p with
    | route => exact congrArg (BitVec.setWidth 64) (Tab.get_set_ne _ _ _ (same apart))
    | _ => rfl
  | land =>
    cases p with
    | land => exact Tab.get_set_ne _ _ _ (same apart)
    | _ => rfl
  | setCtrl =>
    cases p with
    | setCtrl => exact Tab.get_set_ne _ _ _ (same apart)
    | _ => rfl
  | setMask =>
    cases p with
    | setMask => exact Tab.get_set_ne _ _ _ (same apart)
    | _ => rfl
  | bwCfg =>
    cases p with
    | bwCfg => exact absurd rfl apart
    | _ => rfl
  | acl =>
    rw [State.writeReg, lockable_of_unlocked takes]
    cases p with
    | acl i =>
      refine congrArg (BitVec.setWidth 64) (congrArg (Option.getD · _) ?_)
      rw [Nat.div_add_mod]
      exact Tab.find_set_ne _ _ (same apart)
    | _ => rfl
  | domCore =>
    rw [State.writeReg, lockable_of_unlocked takes]
    cases p with
    | domCore => exact Tab.get_set_ne _ _ _ (same apart)
    | _ => rfl
  | domPeer =>
    rw [State.writeReg, lockable_of_unlocked takes]
    cases p with
    | domPeer => exact Tab.get_set_ne _ _ _ (same apart)
    | _ => rfl
  | domHost =>
    rw [State.writeReg, lockable_of_unlocked takes]
    cases p with
    | domHost => exact absurd rfl apart
    | _ => rfl
  | lsClass =>
    rw [State.writeReg, lockable_of_unlocked takes]
    cases p with
    | lsClass => exact Tab.get_set_ne _ _ _ (same apart)
    | _ => rfl
  | restoreKey k m =>
    rw [State.writeReg, lockable_of_unlocked takes]
    cases p with
    | restoreKey k' m' =>
      refine Tab.get_set_ne _ _ _ fun e => apart ?_
      simp only [Reg.Placed] at placed placed'
      rw [show k' = k by omega, show m' = m by omega]
    | _ => rfl
  | _ => exact takes.elim

/-! ### BAR0 writes and reads -/

theorem served_of_serving (serving : Serving s) : s.served = true := by
  obtain ⟨power, link, booted, alive⟩ := serving
  unfold State.served
  rw [power, link]
  cases dev : s.house.dev <;> first | rfl | exact absurd dev booted | exact absurd dev alive

/-- The value of a register's width that a write carries. -/
def Reg.carried (q : Reg) (v : Word) : Word := if q.bytes = 8 then v else v &&& 0xFFFFFFFF

/-- Every register has four bytes or eight. -/
theorem Reg.bytes_cases (q : Reg) : q.bytes = 4 ∨ q.bytes = 8 := by
  cases q <;> first | exact .inl rfl | exact .inr rfl

/-- A BAR0 write of a register's width, aligned, reaches that register while BAR0 is served (R402, R483). -/
theorem writeBar_reg {a : Nat} {q : Reg} (serving : Serving s) (found : regAt a = some q) (aligned : a % q.bytes = 0) (v : Word) :
    s.writeBar a (q.bytes = 8) v = s.writeReg q (q.carried v) := by
  have served := served_of_serving serving
  obtain ⟨power, link, -⟩ := serving
  unfold State.writeBar State.writeAtAddr Reg.carried
  rcases q.bytes_cases with four | eight
  · rw [four] at aligned
    simp [power, link, four, aligned, found, served]
  · rw [eight] at aligned
    simp [power, link, eight, aligned, found, served]

/-- What the upper half of a 64-bit register shows; 0 where none begins. -/
def upperHalf : Option (Nat × Word) → Word
  | some (8, w) => w >>> 32
  | _ => 0

theorem readHalf_of_some {a n : Nat} {w : Word} (h : s.readAtAddr a = some (n, w)) : s.readHalf a = w &&& 0xFFFFFFFF#64 := by
  unfold State.readHalf
  rw [h]
theorem readHalf_of_none {a : Nat} (h : s.readAtAddr a = none) :
    s.readHalf a = if a % 8 = 4 then upperHalf (s.readAtAddr (a - 4)) else 0 := by
  unfold State.readHalf
  rw [h]
  rfl

/-- What a register of the set-up space reads, while it is served. -/
theorem readAtAddr_reg {a : Nat} {q : Reg} (found : regAt a = some q) (space : SetUpSpace a) :
    s.readAtAddr a = if s.served = true ∨ q.early = true then some (q.bytes, s.readReg q) else none := by
  unfold State.readAtAddr
  rw [readOnly_setUp s space, found]

/-- From `s` to `t` what decides whether BAR0 is served, its read-only registers, and every register but the one at `a` are the same. -/
structure SameBut (s t : State) (a : Nat) : Prop where
  power : t.house.power = s.house.power
  link : t.port.linkUp = s.port.linkUp
  served : t.served = s.served
  readOnly (b : Nat) : t.readOnly b = s.readOnly b
  readReg {b : Nat} {p : Reg} (found : regAt b = some p) (apart : b ≠ a) : t.readReg p = s.readReg p

namespace SameBut
variable {t : State} {a b : Nat}

theorem readAtAddr (same : SameBut s t a) (apart : b ≠ a) : t.readAtAddr b = s.readAtAddr b := by
  unfold State.readAtAddr
  rw [same.readOnly, same.served]
  cases s.readOnly b with
  | some x => rfl
  | none =>
    cases found : regAt b with
    | none => rfl
    | some p => dsimp only; rw [same.readReg found apart]

/-- What lies at an address whose register is 4 bytes wide says nothing of the word behind it. -/
theorem readHalf (same : SameBut s t a) {q : Reg} (found : regAt a = some q) (space : SetUpSpace a) (hb : b % 4 = 0)
    (apart : b + 4 ≤ a ∨ a + q.bytes ≤ b) : t.readHalf b = s.readHalf b := by
  have wide := q.bytes_cases
  have here := same.readAtAddr (b := b) (by omega)
  cases look : s.readAtAddr b with
  | some x => rw [readHalf_of_some look, readHalf_of_some (here.trans look)]
  | none =>
    rw [readHalf_of_none look, readHalf_of_none (here.trans look)]
    by_cases behind : b - 4 = a
    · have four (u : State) : upperHalf (u.readAtAddr a) = 0 := by
        rw [readAtAddr_reg found space, show q.bytes = 4 by omega]
        split <;> rfl
      rw [behind, four, four]
    · rw [same.readAtAddr behind]

theorem readsElsewhere (same : SameBut s t a) {q : Reg} (found : regAt a = some q) (space : SetUpSpace a) :
    ReadsElsewhere s t a q.bytes := by
  intro b hb apart
  unfold State.readBar
  rw [same.power, same.link]
  simp only [same.readHalf found space hb apart, Bool.not_false, if_true]

end SameBut

/-- A write that a register takes leaves every other as it was. -/
theorem writeReg_sameBut {a : Nat} {q : Reg} (found : regAt a = some q) (takes : q.Takes s) (w : Word) : SameBut s (s.writeReg q w) a := by
  have others {b : Nat} {p : Reg} (found' : regAt b = some p) (apart : b ≠ a) : (s.writeReg q w).readReg p = s.readReg p :=
    readReg_writeReg_ne takes (regAt_addr found).2 (regAt_addr found').2 (regAt_ne found found' apart) w
  cases q with
  | hdmMap | route | land | setCtrl | setMask | bwCfg => exact ⟨rfl, rfl, rfl, fun _ => rfl, others⟩
  | self =>
    rw [writeReg_self takes] at others ⊢
    exact ⟨rfl, rfl, rfl, fun _ => rfl, others⟩
  | acl | domCore | domPeer | domHost | lsClass | restoreKey =>
    rw [State.writeReg, lockable_of_unlocked takes] at others ⊢
    exact ⟨rfl, rfl, rfl, fun _ => rfl, others⟩
  | _ => exact takes.elim

/-- A 4-byte register has no writable bit above its width. -/
theorem mask_of_four {q : Reg} (takes : q.Takes s) (four : q.bytes = 4) : q.mask &&& 0xFFFFFFFF#64 = q.mask := by
  cases q with
  | self | bwCfg => rfl
  | route => exact (by decide : 0x8000003F#64 &&& 0xFFFFFFFF#64 = 0x8000003F#64)
  | acl => exact (by decide : 0xFFFFFFFF#64 &&& 0xFFFFFFFF#64 = 0xFFFFFFFF#64)
  | hdmMap | land | setCtrl | setMask | domCore | domPeer | domHost | lsClass | restoreKey => exact nomatch four
  | _ => exact takes.elim

/-- A register takes a write over BAR0: it reads as its writable bits, and every other word as before. -/
theorem registerWrite_takes {a : BitVec 26} {q : Reg} (serving : Serving s) (found : regAt a.toNat = some q) (space : SetUpSpace a.toNat)
    (aligned : a.toNat % q.bytes = 0) (takes : q.Takes s) (v : Word) :
    exec (.registerWrite a (q.bytes = 8) v) s = .next (s.writeReg q (q.carried v)) ∧
      (s.writeReg q (q.carried v)).readBar a.toNat (q.bytes = 8) = some (v &&& q.mask) ∧
      ReadsElsewhere s (s.writeReg q (q.carried v)) a.toNat q.bytes := by
  have same := writeReg_sameBut found takes (q.carried v)
  refine ⟨congrArg Host.Outcome.next (writeBar_reg serving found aligned v), ?_, same.readsElsewhere found space⟩
  have served := same.served.trans (served_of_serving serving)
  obtain ⟨power, link, -⟩ := serving
  have look := readAtAddr_reg (s := s.writeReg q (q.carried v)) found space
  rw [if_pos (.inl served), readReg_writeReg takes] at look
  unfold State.readBar
  rw [same.power, same.link, power, link]
  rcases q.bytes_cases with four | eight
  · rw [four] at aligned
    have carried : q.carried v = v &&& 0xFFFFFFFF#64 := if_neg (by omega)
    have read : (q.carried v &&& q.mask) &&& 0xFFFFFFFF#64 = v &&& q.mask := by
      rw [carried, BitVec.and_assoc, mask_of_four takes four, BitVec.and_assoc, BitVec.and_comm _ q.mask, mask_of_four takes four]
    simp [four, aligned, readHalf_of_some look, read]
  · have carried : q.carried v = v := if_pos eight
    rw [eight] at aligned look
    rw [carried] at look ⊢
    simp [eight, aligned, look]

/-! ### The rows of the statements -/

/-- The registers of `plainRows`. -/
def Reg.Plain : Reg → Prop
  | .hdmMap | .route _ | .land _ | .setCtrl _ | .setMask _ | .bwCfg => True
  | _ => False
/-- The registers of `lockRows`. -/
def Reg.Lockable : Reg → Prop
  | .acl _ | .domCore _ | .domPeer _ | .domHost | .lsClass _ | .restoreKey _ _ => True
  | _ => False

/-- `q` is the register of row `r` at address `a`. -/
structure OfRow (r : RegRow) (a : Nat) (q : Reg) : Prop where
  found : regAt a = some q
  bytes : q.bytes = r.bytes
  mask : q.mask = r.mask
  aligned : a % q.bytes = 0
  space : SetUpSpace a

/-- The index of a register of these rows is one that BAR0 has. -/
def Reg.Within : Reg → Prop
  | .hdmMap | .bwCfg | .domHost => True
  | .route p => p < 4096
  | .land k => k < 256
  | .setCtrl n => n < 256
  | .setMask i => i < 4096
  | .acl i => i < 3072
  | .domCore w => w < 64
  | .domPeer w => w < 256
  | .lsClass w => w < 128
  | .restoreKey k m => k < 64 ∧ m < 5
  | _ => False

/-- Such a register is found at its own address, which is aligned. -/
theorem regAt_within {q : Reg} (within : q.Within) : regAt q.addr = some q ∧ q.addr % q.bytes = 0 ∧ SetUpSpace q.addr := by
  cases q with
  | hdmMap | bwCfg | domHost => exact ⟨rfl, rfl, by simp [SetUpSpace, Reg.addr]⟩
  | route | land | setCtrl | setMask | acl | domCore | domPeer | lsClass =>
    simp only [Reg.Within] at within
    simp only [Reg.addr, Reg.bytes, SetUpSpace]
    refine ⟨?_, by omega, by omega⟩
    unfold regAt
    repeat rw [if_neg (by omega)]
    rw [if_pos (by omega), if_pos (by omega)]
    congr
    omega
  | restoreKey k m =>
    simp only [Reg.Within] at within
    simp only [Reg.addr, Reg.bytes, SetUpSpace]
    refine ⟨?_, by omega, by omega⟩
    unfold regAt
    repeat rw [if_neg (by omega)]
    rw [if_pos (by omega), if_pos (by omega)]
    congr <;> omega
  | _ => exact within.elim

theorem OfRow.of_within {r : RegRow} {a : Nat} {q : Reg} (within : q.Within) (ha : a = q.addr) (bytes : q.bytes = r.bytes) (mask : q.mask = r.mask) :
    OfRow r a q := by
  obtain ⟨found, aligned, space⟩ := regAt_within within
  subst ha
  exact ⟨found, bytes, mask, aligned, space⟩

theorem plainRow_reg {r : RegRow} {i a : Nat} (row : r ∈ plainRows) (hi : i < r.count) (ha : a = r.base + i * r.stride) :
    ∃ q, OfRow r a q ∧ q.Plain := by
  simp only [plainRows, List.mem_cons, List.mem_nil_iff, or_false] at row
  rcases row with rfl | rfl | rfl | rfl | rfl | rfl <;> dsimp only at hi ha
  · exact ⟨.hdmMap, .of_within trivial (by simp only [Reg.addr]; omega) rfl rfl, trivial⟩
  · exact ⟨.route i, .of_within hi (by simp only [Reg.addr]; omega) rfl rfl, trivial⟩
  · exact ⟨.land i, .of_within hi (by simp only [Reg.addr]; omega) rfl rfl, trivial⟩
  · exact ⟨.setCtrl i, .of_within hi (by simp only [Reg.addr]; omega) rfl rfl, trivial⟩
  · exact ⟨.setMask i, .of_within hi (by simp only [Reg.addr]; omega) rfl rfl, trivial⟩
  · exact ⟨.bwCfg, .of_within trivial (by simp only [Reg.addr]; omega) rfl rfl, trivial⟩

theorem lockRow_reg {r : RegRow} {i a : Nat} (row : r ∈ lockRows) (hi : i < r.count) (ha : a = r.base + i * r.stride) :
    ∃ q, OfRow r a q ∧ q.Lockable := by
  simp only [lockRows, List.mem_cons, List.mem_nil_iff, or_false] at row
  rcases row with rfl | rfl | rfl | rfl | rfl | rfl | rfl | rfl | rfl | rfl <;> dsimp only at hi ha
  · exact ⟨.acl i, .of_within hi (by simp only [Reg.addr]; omega) rfl rfl, trivial⟩
  · exact ⟨.domCore i, .of_within hi (by simp only [Reg.addr]; omega) rfl rfl, trivial⟩
  · exact ⟨.domPeer i, .of_within hi (by simp only [Reg.addr]; omega) rfl rfl, trivial⟩
  · exact ⟨.domHost, .of_within trivial (by simp only [Reg.addr]; omega) rfl rfl, trivial⟩
  · exact ⟨.lsClass i, .of_within hi (by simp only [Reg.addr]; omega) rfl rfl, trivial⟩
  · exact ⟨.restoreKey i 0, .of_within ⟨hi, by decide⟩ (by simp only [Reg.addr]; omega) rfl rfl, trivial⟩
  · exact ⟨.restoreKey i 1, .of_within ⟨hi, by decide⟩ (by simp only [Reg.addr]; omega) rfl rfl, trivial⟩
  · exact ⟨.restoreKey i 2, .of_within ⟨hi, by decide⟩ (by simp only [Reg.addr]; omega) rfl rfl, trivial⟩
  · exact ⟨.restoreKey i 3, .of_within ⟨hi, by decide⟩ (by simp only [Reg.addr]; omega) rfl rfl, trivial⟩
  · exact ⟨.restoreKey i 4, .of_within ⟨hi, by decide⟩ (by simp only [Reg.addr]; omega) rfl rfl, trivial⟩

/-! ### The statements -/

theorem takes_of_plain {q : Reg} (plain : q.Plain) : q.Takes s := by
  cases q <;> first | exact trivial | exact plain.elim

theorem takes_of_unlocked {q : Reg} (lockable : q.Lockable) (unlocked : s.sec.locked = false) : q.Takes s := by
  cases q <;> first | exact unlocked | exact lockable.elim

/-- What a write to a plain set-up register leaves alone. -/
theorem writeReg_plain {q : Reg} (plain : q.Plain) (w : Word) : s.writeReg q w = { s with
      port := (s.writeReg q w).port, routes := (s.writeReg q w).routes, landing := (s.writeReg q w).landing,
      sets := (s.writeReg q w).sets, setMasks := (s.writeReg q w).setMasks, bwCfg := (s.writeReg q w).bwCfg } ∧
    (s.writeReg q w).port = { s.port with hdmMap := (s.writeReg q w).port.hdmMap } := by
  cases q with
  | hdmMap | route | land | setCtrl | setMask | bwCfg => exact ⟨rfl, rfl⟩
  | _ => exact plain.elim

/-- A write to a lockable register changes the security state or is counted (R448). -/
theorem writeReg_lockable {q : Reg} (lockable : q.Lockable) (w : Word) : ∃ f, s.writeReg q w = s.lockable f := by
  cases q with
  | acl | domCore | domPeer | domHost | lsClass | restoreKey =>
    unfold State.writeReg
    exact ⟨_, rfl⟩
  | _ => exact lockable.elim

/-- LNK_SELF is written only while every port is DISABLED (R343). -/
theorem writeBar_self (serving : Serving s) (v : Word) :
    s.writeBar 0x40000 false v = s.writeReg .self (v &&& 0xFFFFFFFF) :=
  writeBar_reg serving (q := .self) rfl rfl v

end

/-- Settles O43: LNK_SELF by its own condition, the rows register by register. -/
theorem registersHoldWrites : Obligations.RegistersHoldWrites := by
  have disabled (s : State) : Reg.self.Takes s ↔ ∀ l < 36, (s.link l).state = .disabled := by simp [Reg.Takes]
  refine ⟨fun s v serving => ⟨fun all => ?_, fun ⟨l, hl, other⟩ => ?_⟩, fun s a v r i serving row hi ha => ?_⟩
  · obtain ⟨done, read, elsewhere⟩ := registerWrite_takes (a := 0x40000) (q := .self) serving rfl (.inr (.inl rfl)) rfl ((disabled s).2 all) v
    refine ⟨_, done, read, elsewhere, ?_⟩
    rw [writeReg_self ((disabled s).2 all)]
  · have refused : ¬ Reg.self.Takes s := fun takes => other ((disabled s).1 takes l hl)
    exact congrArg _ ((writeBar_self serving v).trans (if_neg refused))
  · obtain ⟨q, ⟨found, bytes, mask, aligned, space⟩, plain⟩ := plainRow_reg row hi ha
    obtain ⟨done, read, elsewhere⟩ := registerWrite_takes serving found space aligned (takes_of_plain plain) v
    rw [← bytes, ← mask]
    exact ⟨_, done, read, elsewhere, writeReg_plain plain _⟩

/-- Settles O44: a lockable register takes the write or counts it, and a write that reaches no register does nothing. -/
theorem accessTableAndIgnoredWrites : Obligations.AccessTableAndIgnoredWrites := by
  refine ⟨fun s a v r i serving row hi ha => ?_, fun s a wide v ignored => congrArg Host.Outcome.next (?_ : s.writeBar a.toNat wide v = s)⟩
  · obtain ⟨q, ⟨found, bytes, mask, aligned, space⟩, lockable⟩ := lockRow_reg row hi ha
    rw [← bytes, ← mask]
    refine ⟨_, congrArg Host.Outcome.next (writeBar_reg serving found aligned v), fun unlocked => ?_, fun locked => ?_⟩
    · obtain ⟨-, read, elsewhere⟩ := registerWrite_takes serving found space aligned (takes_of_unlocked lockable unlocked) v
      obtain ⟨f, done⟩ := writeReg_lockable (s := s) lockable (q.carried v)
      refine ⟨read, elsewhere, ?_⟩
      rw [done, lockable_of_unlocked unlocked]
    · obtain ⟨f, done⟩ := writeReg_lockable (s := s) lockable (q.carried v)
      rw [done, State.lockable, if_pos locked]
      exact countUnit_countedOne s (by decide) (by decide)
  · unfold State.writeBar State.writeAtAddr
    rcases ignored with misaligned | down | off | ⟨nothing, narrow⟩ | ⟨q, found, eight, narrow | boot⟩
    · simp [misaligned]
    · simp [down]
    · simp [off]
    · simp [nothing, narrow]
    · simp [found, eight, narrow]
    · have early : q.early = false := by cases q <;> first | rfl | exact nomatch eight
      have served : s.served = false := by simp [State.served, boot]
      simp [found, eight, early, served]

end Sys2Proof.Machine
end

section
/-! SEC_LOCK and the security version (R448, R452, R490), the set-up of a core (R462, R463, R489), unit counters and bandwidth windows
(R464, R470). -/

namespace Sys2Proof.Machine

/-- The digest is no part of what it covers. -/
theorem lockedBytes_digest (s : State) (d : Nat) : State.lockedBytes { s with sec := { s.sec with digest := d } } = s.lockedBytes := by
  simp only [State.lockedBytes, State.acl]

/-- SEC_LOCK set: the digest is that of the registers as they then are (R448). -/
theorem writeLock_sets {s : State} {v : Word} (set : v.getLsbD 0 = true) (unlocked : s.sec.locked = false) :
    s.writeLock v = { s with sec := { s.sec with
      locked := true, digest := digest (State.lockedBytes { s with sec := { s.sec with locked := true } }) } } := by
  simp [State.writeLock, set, unlocked]

/-- Settles O45: what the lock writes is the digest of the state it leaves, since the digest is no part of what is digested. -/
theorem lockAndSecurityVersion : Obligations.LockAndSecurityVersion := by
  refine ⟨fun s v serving => ?_, fun s => ⟨fun serving => ?_, fun power busy => ?_⟩⟩
  · refine ⟨s.writeLock v, congrArg Host.Outcome.next (if_pos (served_of_serving serving)), fun set unlocked => ?_, fun kept => ?_⟩
    · rw [writeLock_sets set unlocked]
      exact ⟨rfl, congrArg digest (lockedBytes_digest _ _).symm⟩
    · refine if_neg ?_
      rcases kept with clear | locked
      · simp only [clear, Bool.false_eq_true, false_and, not_false_eq_true]
      · simp only [locked, Bool.not_true, Bool.false_eq_true, and_false, not_false_eq_true]
  · refine ⟨s.commitSvn, congrArg Host.Outcome.next (if_pos (served_of_serving serving)), fun idle newer => ?_, fun kept => if_pos kept⟩
    exact if_neg (by simp [idle, newer])
  · exact congrArg Host.Outcome.next (if_pos ⟨power, busy⟩)

section
variable {s : State} {c : Nat}

theorem setUpCore_live (f : CoreSt → CoreSt) (live : s.house.fencedCores.contains c = false) :
    s.setUpCore c f = { s with cores := s.cores.set c (f (s.core c)) } := if_neg (ne_true_of_eq_false live)
theorem setUpCore_fenced (f : CoreSt → CoreSt) (fenced : s.house.fencedCores.contains c = true) : s.setUpCore c f = s := if_pos fenced

/-- A Gauger whose counter `j` has a new selection: the counter is clear (R463). -/
def Gauger.selected (g : Gauger) (j : Nat) (w : Word32) : Gauger := { g with sel := g.sel.set j w, counters := g.counters.set j {} }

theorem Gauger.selected_selOf (g : Gauger) (j i : Nat) (w : Word32) : (g.selected j w).selOf i = if i = j then w else g.selOf i := by
  unfold Gauger.selOf Gauger.selected
  rw [Tab.find_set]
  split <;> rfl
theorem Gauger.selected_counter (g : Gauger) (j i : Nat) (w : Word32) :
    (g.selected j w).counters.get {} i = if i = j then {} else g.counters.get {} i := Tab.get_set _ _ _ _ _

end

/-- Settles O46: a live core takes the write, a fenced one ignores it (R485). -/
theorem coreSetUpWrites : Obligations.CoreSetUpWrites := by
  intro s c j v serving
  have served := served_of_serving serving
  refine ⟨fun live => ⟨⟨_, congrArg Host.Outcome.next (if_pos served), setUpCore_live _ live⟩, ?_⟩, fun fenced => ⟨?_, ?_⟩⟩
  · refine ⟨_, (s.core c).gauger.selected j (v &&& 0xB0FFFFFF), congrArg Host.Outcome.next (if_pos served), setUpCore_live _ live, ?_, ?_,
      fun i other => ⟨?_, ?_⟩⟩
    · rw [Gauger.selected_selOf, if_pos rfl]
    · rw [Gauger.selected_counter, if_pos rfl]
    · rw [Gauger.selected_selOf, if_neg other]
    · rw [Gauger.selected_counter, if_neg other]
  · exact congrArg Host.Outcome.next ((if_pos served).trans (setUpCore_fenced _ fenced))
  · exact congrArg Host.Outcome.next ((if_pos served).trans (setUpCore_fenced _ fenced))

/-! ### Unit counters and bandwidth windows -/

/-- The figures of one bytes counter at the end of its unit's window (R470). -/
def State.closeWindow (s : State) (k : Nat) : State :=
  let b := s.bwNow.get 0 k % 2 ^ 48
  { s with bwLast := s.bwLast.set k (wd (2 ^ 63 + b)), bwPeak := s.bwPeak.upd 0 k (max b), bwNow := s.bwNow.erase k }

/-- The bytes counters of a unit. -/
def bytesKeys (u : Nat) : List Nat := ((List.range 256).filter (fun i => unitIndex u (0x300 + i))).map (fun i => 1024 * u + 0x300 + i)

theorem bytesKeys_nodup (u : Nat) : (bytesKeys u).Nodup :=
  (List.nodup_range.filter _).map fun _ _ h => Nat.add_left_cancel h

theorem mem_bytesKeys {u i : Nat} (low : 0x300 ≤ i) (high : i < 0x400) (counts : unitIndex u i = true) : 1024 * u + i ∈ bytesKeys u := by
  have back : 0x300 + (i - 0x300) = i := by omega
  refine List.mem_map.2 ⟨i - 0x300, List.mem_filter.2 ⟨List.mem_range.2 (by omega), by rw [back]; exact counts⟩, by omega⟩

/-- A unit as its island's cycles go on for `n`. -/
def State.unitTick (s : State) (u n : Nat) : State := if 0x80 ≤ u ∧ u < 0xA4 then s.linkTick (u - 0x80) n else s.countUnit u 0 n

/-- The cycles to the next multiple of the window of a unit. -/
def State.bwLeft (s : State) (u : Nat) : Nat := 2 ^ s.bwWindow u - (s.unitCounter u 0).count % 2 ^ s.bwWindow u

theorem exec_bwWindowEnd {s : State} {u : Fin 256} (runs : s.bwRuns u = true) : exec (.bwWindowEnd u) s =
    .next (let t := (bytesKeys u).foldl State.closeWindow (s.unitTick u (s.bwLeft u))
      { t with bwLog := t.bwLog.set u (min 30 (max 10 (bitsOf t.bwCfg.toNat 5 0))) }) := by
  show execBwWindowEnd u s = _
  unfold execBwWindowEnd
  rw [runs]
  rfl

section
variable {s : State} {k : Nat}

/-- The windows of other counters stay open. -/
theorem closeWindows_other (ks : List Nat) (s : State) (wf : Tab.wf s.bwNow = true) {i : Nat} (other : i ∉ ks) :
    let t := ks.foldl State.closeWindow s
    t.bwLast.get 0 i = s.bwLast.get 0 i ∧ t.bwPeak.get 0 i = s.bwPeak.get 0 i ∧ t.bwNow.get 0 i = s.bwNow.get 0 i := by
  induction ks generalizing s with
  | nil => exact ⟨rfl, rfl, rfl⟩
  | cons k ks ih =>
    obtain ⟨hk, hks⟩ := not_or.1 fun h => other (List.mem_cons.2 h)
    obtain ⟨last, peak, now⟩ := ih (s.closeWindow k) (Tab.wf_erase k wf) hks
    exact ⟨last.trans (Tab.get_set_ne _ _ _ hk), peak.trans (Tab.get_upd_ne _ _ _ _ hk),
      now.trans ((Tab.get_erase _ _ _ wf).trans (if_neg hk))⟩

/-- The window of each counter closes once. -/
theorem closeWindows_get (ks : List Nat) (s : State) (wf : Tab.wf s.bwNow = true) (once : ks.Nodup) {i : Nat} (mem : i ∈ ks) :
    let t := ks.foldl State.closeWindow s
    t.bwLast.get 0 i = wd (2 ^ 63 + s.bwNow.get 0 i % 2 ^ 48) ∧ t.bwPeak.get 0 i = max (s.bwNow.get 0 i % 2 ^ 48) (s.bwPeak.get 0 i) ∧
      t.bwNow.get 0 i = 0 := by
  induction ks generalizing s with
  | nil => exact nomatch mem
  | cons k ks ih =>
    obtain ⟨hk, hks⟩ := List.nodup_cons.1 once
    have wf' := Tab.wf_erase k wf
    by_cases here : i = k
    · subst here
      obtain ⟨last, peak, now⟩ := closeWindows_other ks (s.closeWindow i) wf' hk
      exact ⟨last.trans (Tab.get_set_same _ _ _ _), peak.trans (Tab.get_upd_same _ _ _ _),
        now.trans ((Tab.get_erase _ _ _ wf).trans (if_pos rfl))⟩
    · obtain ⟨last, peak, now⟩ := ih (s.closeWindow k) wf' hks (List.mem_of_ne_of_mem here mem)
      have same : (s.closeWindow k).bwNow.get 0 i = s.bwNow.get 0 i := (Tab.get_erase _ _ _ wf).trans (if_neg here)
      rw [same] at last peak
      exact ⟨last, peak.trans (congrArg (max _) (Tab.get_upd_ne _ _ _ _ here)), now⟩

theorem closeWindows_frame (ks : List Nat) (s : State) : ∃ last peak now,
    ks.foldl State.closeWindow s = { s with bwLast := last, bwPeak := peak, bwNow := now } := by
  induction ks generalizing s with
  | nil => exact ⟨_, _, _, rfl⟩
  | cons k ks ih =>
    obtain ⟨last, peak, now, h⟩ := ih (s.closeWindow k)
    exact ⟨last, peak, now, h⟩

/-- An event counted on a counter that counts no bytes. -/
theorem countUnit_event (u n : Nat) {i : Nat} (events : i < 0x300) : ∃ counters,
    s.countUnit u i n = { s with unitCounters := counters } := by
  unfold State.countUnit
  split
  · exact ⟨_, rfl⟩
  · exact ⟨_, if_neg (Nat.not_le.2 events)⟩

theorem countUnit_same {u i n : Nat} (counts : unitIndex u i = true) (some_ : n ≠ 0) :
    (s.countUnit u i n).unitCounter u i = (s.unitCounter u i).add n := by
  unfold State.countUnit
  rw [if_neg (by simp [counts, some_])]
  dsimp only
  split <;> exact Tab.get_set_same _ _ _ _

theorem countUnit_other {u i n v j : Nat} (other : 1024 * v + j ≠ 1024 * u + i) : (s.countUnit u i n).unitCounter v j = s.unitCounter v j := by
  unfold State.countUnit
  split
  · rfl
  · dsimp only
    split <;> exact Tab.get_set_ne _ _ _ other

/-- Link cycles count on the port's own counters. -/
theorem linkTick_eq (l gap : Nat) : ∃ full, s.linkTick l gap =
    ((s.setLink l (tickedLink s l gap)).countUnit (linkUnit l) 0 gap).countUnit (linkUnit l) 4 full := ⟨_, rfl⟩

theorem linkTick_frame (l gap : Nat) : ∃ counters, s.linkTick l gap = { s with
    links := s.links.set l (tickedLink s l gap), unitCounters := counters } := by
  obtain ⟨full, ticks⟩ := linkTick_eq (s := s) l gap
  obtain ⟨a, ha⟩ := countUnit_event (s := s.setLink l (tickedLink s l gap)) (linkUnit l) gap (i := 0) (by decide)
  obtain ⟨b, hb⟩ := countUnit_event (s := { s.setLink l (tickedLink s l gap) with unitCounters := a }) (linkUnit l) full (i := 4) (by decide)
  exact ⟨b, ticks.trans ((congrArg (fun t : State => t.countUnit (linkUnit l) 4 full) ha).trans hb)⟩

/-- A unit whose cycles go on keeps all but its counters and its port's cycle. -/
theorem unitTick_frame (u n : Nat) : ∃ links counters, s.unitTick u n = { s with links := links, unitCounters := counters } := by
  unfold State.unitTick
  split
  · obtain ⟨a, ha⟩ := linkTick_frame (s := s) (u - 0x80) n
    exact ⟨_, a, ha⟩
  · obtain ⟨a, ha⟩ := countUnit_event (s := s) u n (i := 0) (by decide)
    exact ⟨_, a, ha⟩

theorem unitTick_cycles {u n : Nat} (counts : unitIndex u 0 = true) (some_ : n ≠ 0) :
    (s.unitTick u n).unitCounter u 0 = (s.unitCounter u 0).add n := by
  unfold State.unitTick
  split
  · obtain ⟨full, ticks⟩ := linkTick_eq (s := s) (u - 0x80) n
    have own : linkUnit (u - 0x80) = u := by unfold linkUnit; omega
    rw [ticks, own, countUnit_other (by omega), countUnit_same counts some_]
    rfl
  · exact countUnit_same counts some_

/-- The cycles left bring the unit's cycle counter to a multiple of its window. -/
theorem bwLeft_pos (u : Nat) : s.bwLeft u ≠ 0 :=
  Nat.sub_ne_zero_of_lt (Nat.mod_lt _ (Nat.two_pow_pos _))
theorem add_bwLeft (u : Nat) (fits : s.bwWindow u ≤ 48) : ((s.unitCounter u 0).add (s.bwLeft u)).count % 2 ^ s.bwWindow u = 0 := by
  show ((s.unitCounter u 0).count + s.bwLeft u) % 2 ^ 48 % 2 ^ s.bwWindow u = 0
  have below := Nat.mod_lt (s.unitCounter u 0).count (Nat.two_pow_pos (s.bwWindow u))
  rw [Nat.mod_mod_of_dvd _ (Nat.pow_dvd_pow 2 fits), State.bwLeft]
  generalize (s.unitCounter u 0).count = c, 2 ^ s.bwWindow u = m at below ⊢
  have whole : c + (m - c % m) = m * (c / m) + m := by
    have split := Nat.div_add_mod c m
    generalize m * (c / m) = q, c % m = r at *
    omega
  rw [whole, Nat.mul_add_mod_self_left, Nat.mod_self]

end

/-- Settles O47: a clear and a read of one counter, and the end of a window as one fold over the unit's bytes counters. -/
theorem unitCounters : Obligations.UnitCounters := by
  refine ⟨fun s u i n serving => ⟨fun counts => ?_, fun wf => ?_⟩, fun s u i runs wf low high counts => ?_⟩
  · refine ⟨_, congrArg Host.Outcome.next ((if_pos (served_of_serving serving)).trans (if_pos counts)), rfl, Tab.get_set_same _ _ _ _,
      fun v j hj other => Tab.get_set_ne _ _ _ fun same => other (Prod.ext_iff.2 ⟨show v = u by omega, show j = n by omega⟩)⟩
  · refine ⟨_, congrArg Host.Outcome.next (if_neg (by simp [served_of_serving serving])), rfl, ?_, fun k other => ?_⟩
    · exact (Tab.get_erase _ _ _ wf).trans (if_pos rfl)
    · exact (Tab.get_erase _ _ _ wf).trans (if_neg other)
  · obtain ⟨links, counters, ticked⟩ := unitTick_frame (s := s) u (s.bwLeft u)
    obtain ⟨last, peak, now, closed⟩ := closeWindows_frame (bytesKeys u) (s.unitTick u (s.bwLeft u))
    have cycles := unitTick_cycles (s := s) (u := u) (n := s.bwLeft u) 
    have figures := closeWindows_get (bytesKeys u) (s.unitTick u (s.bwLeft u)) (by rw [ticked]; exact wf) (bytesKeys_nodup u)
      (mem_bytesKeys low high counts)
    obtain ⟨hlast, hpeak, hnow⟩ := figures
    refine ⟨_, exec_bwWindowEnd runs, ?_, ?_, ?_, ?_, ?_, ?_⟩
    · refine hlast.trans ?_
      rw [ticked]
      rfl
    · refine hpeak.trans ?_
      rw [ticked]
    · exact hnow
    · intro counts0 fits
      dsimp only
      rw [closed]
      exact (congrArg (fun c : GauCounter => c.count % 2 ^ s.bwWindow u) (cycles counts0 (bwLeft_pos _))).trans (add_bwLeft _ fits)
    · rw [closed, ticked]
      exact (Tab.get_set_same _ _ _ _).trans (by rw [bitsOf_eq_div, Nat.pow_zero, Nat.div_one]; rfl)
    · rw [closed, ticked]

end Sys2Proof.Machine
end

section
/-! The Counting House: the thermal trip, the brake and the firmware watchdog (R424, R435, R436), and the idle states (R440, R441). -/

namespace Sys2Proof.Machine

/-! ### Failures -/

/-- The brake fell during an invocation in progress (Table 17.7). -/
def Account.brakes (a : Account) : Account := if a.ended = none then { a with braked := true } else a
/-- A core whose invocations in progress the brake met. -/
def CoreSt.brakes (k : CoreSt) : CoreSt := { k with gauger := { k.gauger with accounts := k.gauger.accounts.map Account.brakes } }

theorem braked_eq (s : State) : s.braked = { s with cores := s.cores.map fun x => (x.1, x.2.brakes) } := by
  have each (k : CoreSt) : k.gauger.accounts.map (fun a => if a.ended.isNone = true then { a with braked := true } else a) =
      k.gauger.accounts.map Account.brakes := by
    refine List.map_congr_left fun a _ => ?_
    cases h : a.ended <;> simp [Account.brakes, h]
  unfold State.braked State.onAccounts
  simp only [each]
  rfl

theorem braked_core (s : State) (n : Nat) : s.braked.core n = (s.core n).brakes := by
  rw [braked_eq]
  exact Tab.get_map rfl s.cores n

/-- The clerk core named for a service is one of its own (Table 17.1). -/
theorem clerk_mem (service : Fin 6) (two : Nat) (h : two < 2) :
    (match service.val with | 0 => 0 | 1 => 1 + two | 2 => 3 + two | 3 => 5 | 4 => 6 | _ => 7) ∈
      nth [] [[0], [1, 2], [3, 4], [5], [6], [7]] service.val := by
  revert service two
  decide

/-- Settles O51, failure by failure. -/
theorem houseFailures : Obligations.HouseFailures := by
  intro s power
  refine ⟨fun sensor r running hot => ?_, fun current free above => ?_, fun service runs => ?_⟩
  · refine congrArg Host.Outcome.next (if_neg ?_)
    simp only [power, running, Bool.not_true, Bool.false_eq_true, false_or]
    omega
  · have falls : exec (.brake current) s =
        .next (({ s with house := { s.house with brake := true } } : State).braked.countUnit houseUnit 2 1) := by
      refine congrArg Host.Outcome.next (if_neg ?_)
      simp only [power, free, Bool.not_true, Bool.false_eq_true, false_or]
      omega
    obtain ⟨frame, counts⟩ := countUnit_countedOne ({ s with house := { s.house with brake := true } } : State).braked
      (u := houseUnit) (i := 2) (by decide) (by decide)
    generalize State.countUnit _ houseUnit 2 1 = t at falls frame counts
    have cores : t.cores = (State.braked { s with house := { s.house with brake := true } }).cores := by rw [frame]
    have core (n : Nat) : t.core n = (s.core n).brakes := by
      rw [State.core, cores]
      exact braked_core _ n
    refine ⟨t, falls, ?_, fun n => ⟨by rw [core]; rfl, by rw [core]; rfl⟩⟩
    rw [braked_eq] at frame counts cores
    rw [cores]
    exact ⟨frame, counts⟩
  · refine ⟨_, _, congrArg Host.Outcome.next (if_neg (by simp [runs])), clerk_mem service _ (Bool.toNat_lt _), rfl⟩

/-! ### Idle states -/

/-- A port as the module enters depth `d` (Table 17.9). -/
def LinkSt.rests (d : Nat) (k : LinkSt) : LinkSt := if 2 ≤ d ∧ k.state = .active ∧ k.ctrl.getLsbD 1 then { k with state := .standby } else k

/-- The module as it enters depth `d`. -/
def State.rests (s : State) (d : Nat) : State := { s with
  house := { s.house with idle := d, saved := (s.house.points, s.house.fabric), fabric := 2, points := (List.range 32).map fun g => (g, 6) }
  links := s.links.map fun x => (x.1, x.2.rests d) }

theorem exec_idleEntry {s : State} {d : Nat} (runs : s.firmwareRuns = true) (planner : 3 ∉ s.house.services) (running : s.house.tripped = false)
    (awake : s.house.idle = 0) (idle : s.isIdle = true) (depth : idleDepth s.house.wakeLatency = d) (deep : d ≠ 0) :
    exec .idleEntry s = .next (s.rests d) := by
  show execIdleEntry s = _
  unfold execIdleEntry
  simp only [depth]
  rw [if_neg (by simp [runs, planner, running, awake, idle, deep])]
  unfold State.rests
  split
  · next standby => simp only [LinkSt.rests, standby, true_and]
  · next shallow =>
    have stays : (fun x : Nat × LinkSt => (x.1, x.2.rests d)) = id := funext fun x => by simp only [LinkSt.rests, shallow, false_and, if_false, id]
    rw [stays, List.map_id]

/-- Settles O53: entry by its depth, the wake by what the entry saved. -/
theorem idleStates : Obligations.IdleStates := by
  refine fun s d => ⟨fun runs planner running awake idle hd deep => ?_, fun asleep => ?_⟩
  · refine ⟨s.rests d, exec_idleEntry runs planner running awake idle hd.symm deep, rfl, rfl, ?_, rfl, ?_, rfl⟩
    · exact (by decide : ∀ g < 32, Tab.get 0 ((List.range 32).map fun g => (g, 6)) g = 6)
    · exact fun l k mem => List.mem_map.2 ⟨(l, k), mem, rfl⟩
  · exact ⟨_, congrArg Host.Outcome.next (if_neg asleep), rfl, fun l k mem => List.mem_map.2 ⟨(l, k), mem, rfl⟩, rfl⟩

end Sys2Proof.Machine
end

section
/-! Thinning, thinned pieces, messages, digests and exact sums read back as Tables 14.3 to 14.6 have them. -/

namespace Sys2Proof.Machine

open Numbers

/-! ### Pieces of equal length -/

theorem length_flatMap_pieces {α β : Type} {k : Nat} {f : α → List β} : ∀ {xs : List α}, (∀ x ∈ xs, (f x).length = k) →
    (xs.flatMap f).length = xs.length * k
  | [], _ => (Nat.zero_mul k).symm
  | x :: xs, hf => by
    rw [List.flatMap_cons, List.length_append, hf x List.mem_cons_self,
      length_flatMap_pieces fun y hy => hf y (List.mem_cons_of_mem x hy), List.length_cons, Nat.succ_mul, Nat.add_comm]

/-- Element r of piece i of pieces of k elements. -/
theorem getElem?_flatMap_pieces {α β : Type} {k r : Nat} {f : α → List β} (hr : r < k) : ∀ {xs : List α} {i : Nat},
    (∀ x ∈ xs, (f x).length = k) → (xs.flatMap f)[k * i + r]? = xs[i]?.bind fun x => (f x)[r]?
  | [], _, _ => rfl
  | x :: xs, 0, hf => by
    rw [List.flatMap_cons, List.getElem?_append_left (by rw [hf x List.mem_cons_self]; omega), Nat.mul_zero, Nat.zero_add]
    rfl
  | x :: xs, i + 1, hf => by
    have past : k * (i + 1) + r = k + (k * i + r) := by rw [Nat.mul_succ]; omega
    rw [List.flatMap_cons, List.getElem?_append_right (by rw [hf x List.mem_cons_self]; omega), hf x List.mem_cons_self, past,
      Nat.add_sub_cancel_left, getElem?_flatMap_pieces hr fun y hy => hf y (List.mem_cons_of_mem x hy)]
    rfl

/-- The chunks of a list are its pieces in order. -/
theorem chunks_eq_map {α : Type} {n : Nat} (hn : 0 < n) : ∀ {fuel : Nat} {l : List α}, l.length ≤ fuel →
    chunks n fuel l = (List.range ((l.length + n - 1) / n)).map fun i => (l.drop (n * i)).take n
  | 0, l, h => by
    rw [List.eq_nil_of_length_eq_zero (Nat.le_zero.1 h), List.length_nil, Nat.zero_add, Nat.div_eq_of_lt (Nat.sub_lt hn Nat.one_pos)]
    rfl
  | fuel + 1, [], _ => by
    rw [List.length_nil, Nat.zero_add, Nat.div_eq_of_lt (Nat.sub_lt hn Nat.one_pos)]
    rfl
  | fuel + 1, x :: l, h => by
    have shorter : ((x :: l).drop n).length ≤ fuel := by rw [List.length_drop]; omega
    have count : ((x :: l).length + n - 1) / n = (((x :: l).drop n).length + n - 1) / n + 1 := by
      have ahead : (x :: l).length + n - 1 = l.length + n := by rw [List.length_cons]; omega
      rw [ahead, Nat.add_div_right _ hn, List.length_drop, List.length_cons]
      obtain short | long := Nat.lt_or_ge l.length n
      · rw [Nat.div_eq_of_lt short, Nat.div_eq_of_lt (by omega)]
      · rw [show l.length + 1 - n + n - 1 = l.length by omega]
    rw [count, List.range_succ_eq_map, List.map_cons, List.map_map]
    refine congrArg₂ List.cons (by rw [Nat.mul_zero, List.drop_zero]) ((chunks_eq_map hn shorter).trans (List.map_congr_left fun i _ => ?_))
    rw [Function.comp_apply, List.drop_drop, Nat.mul_succ, Nat.add_comm]

/-! ### The digest of a piece (R362) -/

/-- One more word is one more chunk. -/
theorem chunks_append_word {bs w : List Byte} (whole : bs.length % 8 = 0) (hw : w.length = 8) :
    chunks 8 (bs ++ w).length (bs ++ w) = chunks 8 bs.length bs ++ [w] := by
  have count : ((bs ++ w).length + 8 - 1) / 8 = (bs.length + 8 - 1) / 8 + 1 := by rw [List.length_append, hw]; omega
  have last : 8 * ((bs.length + 8 - 1) / 8) = bs.length := by omega
  rw [chunks_eq_map (by decide) (Nat.le_refl _), chunks_eq_map (by decide) (Nat.le_refl _), count, List.range_succ, List.map_append]
  refine congrArg₂ _ (List.map_congr_left fun i hi => ?_) ?_
  · have inside : 8 * i + 8 ≤ bs.length := by have := List.mem_range.1 hi; omega
    rw [List.drop_append_of_le_length (by omega), List.take_append_of_le_length (by rw [List.length_drop]; omega)]
  · rw [List.map_singleton, last, List.drop_left, List.take_of_length_le (Nat.le_of_eq hw)]

/-! ### Messages (Table 14.6) -/

theorem fieldAt_append_right {xs ys : List Byte} {o n : Nat} (h : xs.length ≤ o) : fieldAt (xs ++ ys) o n = fieldAt ys (o - xs.length) n := by
  rw [fieldAt, List.drop_append, List.drop_eq_nil_of_le h, List.nil_append, fieldAt]

theorem fieldAt_natLe_append (n v : Nat) (ys : List Byte) : fieldAt (natLe n v ++ ys) 0 n = v % 2 ^ (8 * n) := by
  rw [fieldAt, List.drop_zero, List.take_append_of_le_length (Nat.le_of_eq (natLe_length n v).symm),
    List.take_of_length_le (Nat.le_of_eq (natLe_length n v)), leNat_natLe]

theorem Message.bytes_length (m : Message) : m.bytes.length = 64 := by
  simp only [Message.bytes, List.length_append, natLe_length, List.length_singleton]

theorem Message.ofBytes_bytes {m : Message} (hkind : m.kind < 2 ^ 8) (hcode : m.code < 2 ^ 8) (hattempt : m.attempt < 2 ^ 8)
    (hpeer : m.peer < 2 ^ 12) (hslot : m.slot < 2 ^ 16) (hstep : m.step < 2 ^ 64) (hblocks : m.blocks < 2 ^ 32)
    (hfirst : m.first < 2 ^ 32) (hdigest : m.digest < 2 ^ 64) : Message.ofBytes m.bytes = m := by
  obtain ⟨kind, code, attempt, peer, slot, step, blocks, first, digest⟩ := m
  simp only at hkind hcode hattempt hpeer hslot hstep hblocks hfirst hdigest
  simp only [Message.ofBytes, Message.bytes, List.append_assoc, fieldAt_append_right, natLe_length, List.length_singleton,
    fieldAt_natLe_append, Nat.reduceLeDiff, Nat.reduceSub, Nat.reduceMul, Message.mk.injEq]
  omega

/-! ### The thinning of a block (Table 14.3) -/

theorem thinBlock_eq (g e : List Fp) : thinBlock g e =
    if (thinInputs g e).any (fun x => x.2 || (val32 x.1).isNonFinite) then ⟨0xFF, 0, e⟩
    else if scaleCode (meanMagnitude (thinInputs g e)) = 0 then ⟨0, 0, thinInputs g e⟩
    else ⟨scaleCode (meanMagnitude (thinInputs g e)), signsOf (thinInputs g e), (thinInputs g e).map fun x =>
      (fsub x.1 (signedScale (bitOf x.1 31) (scaleCode (meanMagnitude (thinInputs g e)))), false)⟩ := rfl

/-- The bits of a fold that sets bit n + j for the j-th sign. -/
theorem testBit_signs_fold : ∀ (xs : List Fp) {n v : Nat}, v < 2 ^ n → ∀ i,
    ((xs.zipIdx n).foldl (fun v x => if bitOf x.1.1 31 then v + 2 ^ x.2 else v) v).testBit i =
      if i < n then v.testBit i else xs[i - n]?.any fun x => x.1.testBit 31
  | [], n, v, hv, i => by
    split
    · rfl
    · rename_i past
      exact Nat.testBit_lt_two_pow (Nat.lt_of_lt_of_le hv (Nat.pow_le_pow_right (by decide) (Nat.le_of_not_lt past)))
  | x :: xs, n, v, hv, i => by
    have grown : (if bitOf x.1 31 then v + 2 ^ n else v) < 2 ^ (n + 1) := by rw [Nat.pow_succ]; split <;> omega
    rw [List.zipIdx_cons, List.foldl_cons, testBit_signs_fold xs grown]
    obtain below | rfl | above := Nat.lt_trichotomy i n
    · rw [if_pos (Nat.lt_succ_of_lt below), if_pos below]
      split
      · rw [Nat.add_comm, Nat.testBit_two_pow_add_gt below]
      · rfl
    · rw [if_pos (Nat.lt_succ_self i), if_neg (Nat.lt_irrefl i), Nat.sub_self]
      show Nat.testBit (if bitOf x.1 31 then _ else _) i = bitOf x.1 31
      split
      · rename_i set
        rw [Nat.add_comm, Nat.testBit_two_pow_add_eq, Nat.testBit_lt_two_pow hv, set]
        rfl
      · rename_i clear
        rw [Nat.testBit_lt_two_pow hv, Bool.eq_false_of_not_eq_true clear]
    · rw [if_neg (by omega), if_neg (by omega), show i - n = (i - (n + 1)) + 1 by omega, List.getElem?_cons_succ]

theorem testBit_signsOf {xs : List Fp} {j : Nat} {x : Fp} (hx : xs[j]? = some x) : (signsOf xs).testBit j = x.1.testBit 31 := by
  rw [signsOf, testBit_signs_fold xs (Nat.two_pow_pos 0), if_neg (Nat.not_lt_zero j), Nat.sub_zero, hx]
  rfl

/-- Table 14.3, steps 4 and 5. -/
theorem scaleCode_of_ne {a : Nat} (h : a % 2 ^ 31 ≠ 0) :
    scaleCode a = max 1 (min 254 (a / 2 ^ 23 % 256 + (if 0x3504F3 ≤ a % 2 ^ 23 then 1 else 0))) := by
  have exponent : bitsOf a 30 23 = a / 2 ^ 23 % 256 := bitsOf_eq_div a 30 23
  have fraction : bitsOf a 22 0 = a % 2 ^ 23 := by rw [bitsOf_eq_div, Nat.pow_zero, Nat.div_one]
  rw [scaleCode, if_neg h, exponent, fraction]

theorem signedScale_eq (v c : Nat) : signedScale (bitOf v 31) c = c * 2 ^ 23 + (if v.testBit 31 then 2 ^ 31 else 0) := Nat.add_comm _ _

/-! ### Thinned pieces (R358) -/

/-- A group of at most 64 blocks, the entries past its last one zero. -/
def paddedGroup (g : List Thinned) : List Thinned := g ++ List.replicate (64 - g.length) ⟨0, 0, []⟩

/-- The bytes of a group. -/
def groupBytes (g : List Thinned) : List Byte :=
  (paddedGroup g).map (fun t => BitVec.ofNat 8 t.code) ++ (paddedGroup g).flatMap fun t => natLe 8 t.signs

theorem paddedGroup_length {g : List Thinned} (h : g.length ≤ 64) : (paddedGroup g).length = 64 := by
  rw [paddedGroup, List.length_append, List.length_replicate]; omega

theorem groupBytes_length {g : List Thinned} (h : g.length ≤ 64) : (groupBytes g).length = 576 := by
  rw [groupBytes, List.length_append, List.length_map, length_flatMap_pieces fun t _ => natLe_length 8 t.signs, paddedGroup_length h]

theorem groupBytes_code {g : List Thinned} (h : g.length ≤ 64) {i : Nat} (hi : i < 64) :
    (groupBytes g)[i]? = (paddedGroup g)[i]?.map fun t => BitVec.ofNat 8 t.code := by
  rw [groupBytes, List.getElem?_append_left (by rw [List.length_map, paddedGroup_length h]; exact hi), List.getElem?_map]

theorem groupBytes_signs {g : List Thinned} (h : g.length ≤ 64) (i : Nat) {r : Nat} (hr : r < 8) :
    (groupBytes g)[64 + 8 * i + r]? = (paddedGroup g)[i]?.bind fun t => (natLe 8 t.signs)[r]? := by
  rw [groupBytes, List.getElem?_append_right (by rw [List.length_map, paddedGroup_length h]; omega), List.length_map,
    paddedGroup_length h, show 64 + 8 * i + r - 64 = 8 * i + r by omega, getElem?_flatMap_pieces hr fun t _ => natLe_length 8 t.signs]

/-- The bytes a piece holds for a group are those of the padded group. -/
theorem groupBytes_eq (g : List Thinned) : g.map (fun t => BitVec.ofNat 8 t.code) ++ List.replicate (64 - g.length) 0 ++
    g.flatMap (fun t => natLe 8 t.signs) ++ List.replicate (8 * (64 - g.length)) 0 = groupBytes g := by
  have zeros : natLe 8 0 = List.replicate 8 (0 : Byte) := by decide
  simp only [groupBytes, paddedGroup, List.map_append, List.map_replicate, List.flatMap_append, List.flatMap_replicate, zeros,
    List.flatten_replicate_replicate, List.append_assoc, Nat.mul_comm 8]
  rfl

/-- A thinned piece is the bytes of its groups of 64 blocks. -/
theorem thinnedBytes_eq (ts : List Thinned) : thinnedBytes ts =
    (List.range ((ts.length + 63) / 64)).flatMap fun k => groupBytes ((ts.drop (64 * k)).take 64) := by
  rw [thinnedBytes, chunks_eq_map (by decide) (Nat.le_refl _), List.flatMap_map]
  exact List.flatMap_congr fun k _ => groupBytes_eq _

theorem groupBytes_take_length (ts : List Thinned) : (groupBytes (ts.take 64)).length = 576 :=
  groupBytes_length (List.length_take_le 64 ts)

theorem thinnedBytes_length (ts : List Thinned) : (thinnedBytes ts).length = (ts.length + 63) / 64 * 576 := by
  rw [thinnedBytes_eq, length_flatMap_pieces fun k _ => groupBytes_take_length _, List.length_range]

/-- Byte r of the group that block b is in. -/
theorem thinnedBytes_getElem? {ts : List Thinned} {b r : Nat} (hb : b < (ts.length + 63) / 64 * 64) (hr : r < 576) :
    (thinnedBytes ts)[576 * (b / 64) + r]? = (groupBytes ((ts.drop (64 * (b / 64))).take 64))[r]? := by
  rw [thinnedBytes_eq, getElem?_flatMap_pieces hr fun k _ => groupBytes_take_length _, List.getElem?_range (by omega)]
  rfl

/-- Block b in its padded group. -/
theorem paddedGroup_block (ts : List Thinned) (b : Nat) :
    (paddedGroup ((ts.drop (64 * (b / 64))).take 64))[b % 64]? = some (ts[b]?.getD ⟨0, 0, []⟩) := by
  have within := Nat.mod_lt b (show 0 < 64 by decide)
  have place : 64 * (b / 64) + b % 64 = b := Nat.div_add_mod b 64
  have group : ((ts.drop (64 * (b / 64))).take 64).length = min 64 (ts.length - 64 * (b / 64)) := by rw [List.length_take, List.length_drop]
  obtain there | past := Nat.lt_or_ge b ts.length
  · rw [paddedGroup, List.getElem?_append_left (by rw [group]; omega), List.getElem?_take_of_lt within, List.getElem?_drop, place,
      List.getElem?_eq_getElem there]
    rfl
  · rw [paddedGroup, List.getElem?_append_right (by rw [group]; omega), List.getElem?_eq_none past,
      List.getElem?_replicate_of_lt (by rw [group]; omega)]
    rfl

/-- The scale code of block b. -/
theorem thinnedBytes_code {ts : List Thinned} {b : Nat} (hb : b < (ts.length + 63) / 64 * 64) :
    (thinnedBytes ts)[576 * (b / 64) + b % 64]? = some (BitVec.ofNat 8 (ts[b]?.getD ⟨0, 0, []⟩).code) := by
  rw [thinnedBytes_getElem? hb (by omega), groupBytes_code (List.length_take_le 64 _) (by omega), paddedGroup_block]
  rfl

/-- Sign byte i of block b. -/
theorem thinnedBytes_signs {ts : List Thinned} {b i : Nat} (hb : b < (ts.length + 63) / 64 * 64) (hi : i < 8) :
    (thinnedBytes ts)[576 * (b / 64) + 64 + 8 * (b % 64) + i]? = (natLe 8 (ts[b]?.getD ⟨0, 0, []⟩).signs)[i]? := by
  rw [show 576 * (b / 64) + 64 + 8 * (b % 64) + i = 576 * (b / 64) + (64 + 8 * (b % 64) + i) by omega,
    thinnedBytes_getElem? hb (by omega), groupBytes_signs (List.length_take_le 64 _) _ hi, paddedGroup_block]
  rfl

theorem natLe_bit {v j : Nat} (hj : j < 64) : ((natLe 8 v)[j / 8]?).map (·.getLsbD (j % 8)) = some (v.testBit j) := by
  have inside : j / 8 < (natLe 8 v).length := by rw [natLe_length]; omega
  have small : j % 8 < 8 := Nat.mod_lt j (by decide)
  rw [List.getElem?_eq_getElem inside, natLe_getElem, Option.map_some, BitVec.getLsbD_ofNat, Nat.testBit_shiftRight, Nat.div_add_mod,
    decide_eq_true small, Bool.true_and]

/-! ### The exact sum (R364) -/

theorem sumOf_perm {ys zs : List Copy} (h : ys.Perm zs) (b j : Nat) : sumOf ys b j = sumOf zs b j := by
  have fold := h.foldl_eq' (f := fun l (y : Copy) => LedgerOps.combine l (y.term b j))
    (fun x _ y _ l => LedgerOps.combine_right_comm l (x.term b j) (y.term b j)) LedgerOps.zero
  simp only [sumOf, fold]

/-- The three cases of a block whose inputs are xs. -/
theorem thinBlock_special {g e : List Fp} {x : Fp} (mem : x ∈ thinInputs g e) (hx : x.2 = true ∨ (val32 x.1).isNonFinite = true) :
    thinBlock g e = ⟨0xFF, 0, e⟩ := by
  rw [thinBlock_eq, if_pos (List.any_eq_true.2 ⟨x, mem, Bool.or_eq_true_iff.2 hx⟩)]

theorem not_special {xs : List Fp} (plain : ∀ x ∈ xs, x.2 = false ∧ (val32 x.1).isNonFinite = false) :
    ¬ xs.any (fun x => x.2 || (val32 x.1).isNonFinite) = true := by
  rw [List.any_eq_true]
  rintro ⟨x, mem, hx⟩
  obtain ⟨unmarked, ordinary⟩ := plain x mem
  rw [unmarked, ordinary] at hx
  exact Bool.noConfusion hx

theorem thinBlock_zero {g e : List Fp} (plain : ∀ x ∈ thinInputs g e, x.2 = false ∧ (val32 x.1).isNonFinite = false)
    (zero : scaleCode (meanMagnitude (thinInputs g e)) = 0) : thinBlock g e = ⟨0, 0, thinInputs g e⟩ := by
  rw [thinBlock_eq, if_neg (not_special plain), if_pos zero]

theorem thinBlock_coded {g e : List Fp} (plain : ∀ x ∈ thinInputs g e, x.2 = false ∧ (val32 x.1).isNonFinite = false) {c : Nat}
    (coded : scaleCode (meanMagnitude (thinInputs g e)) = c) (nonzero : c ≠ 0) :
    thinBlock g e = ⟨c, signsOf (thinInputs g e), (thinInputs g e).map fun x => (fsub x.1 (signedScale (bitOf x.1 31) c), false)⟩ := by
  rw [thinBlock_eq, if_neg (not_special plain), coded, if_neg nonzero]

/-- What a block with a scale code leaves of each of its inputs. -/
theorem thinBlock_entries {g e : List Fp} (hg : g.length = 64) (he : e.length = 64)
    (plain : ∀ x ∈ thinInputs g e, x.2 = false ∧ (val32 x.1).isNonFinite = false) {c : Nat}
    (coded : scaleCode (meanMagnitude (thinInputs g e)) = c) (nonzero : c ≠ 0) :
    ∃ k y, y = thinBlock g e ∧ y.code = k ∧ k = c ∧ y.err.length = 64 ∧
      ∀ j x, (thinInputs g e)[j]? = some x → y.signs.testBit j = x.1.testBit 31 ∧
        y.err[j]? = some (fp32 (addVal (val32 x.1) (negVal (val32 (k * 2 ^ 23 + (if x.1.testBit 31 then 2 ^ 31 else 0))))), false) := by
  refine ⟨c, _, (thinBlock_coded plain coded nonzero).symm, rfl, rfl, ?_, fun j x hx => ⟨testBit_signsOf hx, ?_⟩⟩
  · rw [List.length_map, thinInputs, List.length_map, List.length_zip, hg, he, Nat.min_self]
  · rw [List.getElem?_map, hx, Option.map_some, signedScale_eq, fsub]

theorem thinnedDigest_append {bs w : List Byte} (whole : bs.length % 8 = 0) (hw : w.length = 8) :
    thinnedDigest (bs ++ w) = ((thinnedDigest bs ^^^ leNat w) * 0x9E3779B97F4A7C15) % 2 ^ 64 := by
  rw [thinnedDigest, chunks_append_word whole hw, List.foldl_append, List.foldl_cons, List.foldl_nil, ← thinnedDigest]

theorem thinnedDigest_nil : thinnedDigest [] = 0 := by
  rw [thinnedDigest, List.length_nil, chunks, List.foldl_nil]

/-- Settles O54: Table 14.3's cases, the pieces of a group, the fields of a message, a word more of a digest, and the sum by the
commutation of the ledger. -/
theorem thinningAndMessages : Obligations.ThinningAndMessages := by
  refine ⟨?thin, ?piece, ?message, ?empty, ?digest, fun ys zs b j h => sumOf_perm h b j⟩
  case thin =>
    rintro g e xs a hg he rfl rfl
    exact ⟨fun ⟨x, mem, hx⟩ => thinBlock_special mem hx, fun plain => ⟨fun zero => thinBlock_zero plain (if_pos zero),
      fun nonzero => thinBlock_entries hg he plain (scaleCode_of_ne nonzero) (Nat.ne_of_gt (Nat.le_max_left 1 _))⟩⟩
  case piece =>
    intro ts b j _ hj
    have sign : j / 8 < 8 := by omega
    refine ⟨thinnedBytes_length ts, fun y hy => ?_, fun past inside => ?_⟩
    · have there : b < ts.length := (List.getElem?_eq_some_iff.1 hy).1
      have inside : b < (ts.length + 63) / 64 * 64 := by omega
      rw [thinnedBytes_code inside, thinnedBytes_signs inside sign, hy]
      exact ⟨rfl, natLe_bit hj⟩
    · rw [thinnedBytes_code inside, thinnedBytes_signs inside sign, List.getElem?_eq_none past]
      exact ⟨rfl, (by decide : ∀ i < 8, (natLe 8 0)[i]? = some 0) _ sign⟩
  case message =>
    intro m hkind hcode hattempt hpeer hslot hstep hblocks hfirst hdigest
    exact ⟨m.bytes_length, Message.ofBytes_bytes hkind hcode hattempt hpeer hslot hstep hblocks hfirst hdigest⟩
  case empty => exact thinnedDigest_nil
  case digest => exact fun bs w whole hw => thinnedDigest_append whole hw

end Sys2Proof.Machine
end

section
/-! Context images and manifests: their sizes, and what the bytes of a thread and of a manifest say when they are read
(Tables 15.2, 15.4). -/

namespace Sys2Proof.Machine

open Numbers

/-! ### Fields of pieces of equal length -/

theorem fieldAt_append_left {xs ys : List Byte} {o n : Nat} (h : o + n ≤ xs.length) : fieldAt (xs ++ ys) o n = fieldAt xs o n := by
  rw [fieldAt, List.drop_append_of_le_length (by omega), List.take_append_of_le_length (by rw [List.length_drop]; omega), fieldAt]

/-- The first m bytes of a number of n bytes. -/
theorem fieldAt_natLe_part {m n : Nat} (h : m ≤ n) (v : Nat) (ys : List Byte) : fieldAt (natLe n v ++ ys) 0 m = v % 2 ^ (8 * m) := by
  rw [fieldAt, List.drop_zero, List.take_append_of_le_length (by rw [natLe_length]; exact h), leNat_take, leNat_natLe,
    Nat.mod_mod_of_dvd v (pow_dvd_pow 2 (Nat.mul_le_mul_left 8 h))]

/-- A field of piece i of pieces of k bytes. -/
theorem fieldAt_flatMap_piece {α : Type} {k i o n : Nat} {f : α → List Byte} {xs : List α} {a : α} (hf : ∀ x ∈ xs, (f x).length = k)
    (ha : xs[i]? = some a) (inside : o + n ≤ k) : fieldAt (xs.flatMap f) (k * i + o) n = fieldAt (f a) o n := by
  refine congrArg leNat (List.ext_getElem? fun j => ?_)
  rw [List.getElem?_take, List.getElem?_take]
  split
  · rw [List.getElem?_drop, List.getElem?_drop, Nat.add_assoc, getElem?_flatMap_pieces (by omega) hf, ha]
    rfl
  · rfl

theorem length_flatMap_range {β : Type} {k : Nat} {f : Nat → List β} (n : Nat) (hf : ∀ i, (f i).length = k) :
    ((List.range n).flatMap f).length = n * k := by
  rw [length_flatMap_pieces fun i _ => hf i, List.length_range]

/-! ### The image of a context (Table 15.2) -/

theorem ledgerImage_length (k : CoreSt) (tile : Nat) : (k.ledgerImage tile).length = 167936 := by
  rw [CoreSt.ledgerImage, length_flatMap_range (k := 2624) 64 fun r => ?_]
  rw [List.length_append, natLe_length, length_flatMap_pieces fun f _ => slotBytes_length f, List.length_map, List.length_range]

theorem Thread.image_length (t : Thread) : t.image.length = 512 := by
  simp only [Thread.image, List.length_append, natLe_length, length_flatMap_range 31 fun r => natLe_length 8 (t.reg (r + 1)).toNat,
    List.flatMap_cons, List.flatMap_nil, List.length_nil]

theorem Reducer.image_length (r : Reducer) : r.image.length = 128 := by
  simp only [Reducer.image, List.length_append, natLe_length]

theorem Histogram.recordBytes_length (h : Histogram) (tag : Nat) : (h.recordBytes tag).length = 320 := by
  simp only [Histogram.recordBytes, List.length_append, natLe_length, length_flatMap_range 64 fun b => natLe_length 4 (h.bins.get 0 b)]

theorem wordsOf_length (n : Nat) (f : Nat → Word) : (wordsOf n f).length = n * 8 := length_flatMap_range n fun i => natLe_length 8 (f i).toNat

theorem readMarked_length (st : Store) (a n : Nat) : (st.readMarked a n).length = n := (List.length_map _).trans List.length_range

theorem imageBody_length (s : State) (c : Nat) : (s.imageBody c).length = 1310656 := by
  unfold State.imageBody
  generalize (s.core c).performShadow ((s.core c).cycle + 2) = k
  simp only [List.length_append, markAll_length, natLe_length, wordsOf_length, readMarked_length, ledgerImage_length,
    Histogram.recordBytes_length, Store.imemMarked, List.length_map, List.length_range,
    length_flatMap_range 32 fun j => natLe_length 4 (tileOf k.tiles j).toNat, length_flatMap_range 4 fun t => (k.thread t).image_length,
    length_flatMap_range 64 fun j => natLe_length 64 (k.descs.get 0 j).toNat, length_flatMap_range 64 fun l => natLe_length 16 (k.lane l).toNat,
    length_flatMap_range 64 fun n => (k.red n).image_length, List.flatMap_cons, List.flatMap_nil, List.length_nil]

theorem contextImage_length (s : State) (c : Nat) : (s.contextImage c).length = imageBytes := by
  simp only [State.contextImage, List.length_append, markAll_length, natLe_length, imageBody_length, imageBytes]

/-! ### The image of a thread -/

/-- Filling indexes 1 to n of a table. -/
theorem get_foldl_set_range (w : Nat → Word) {n r : Nat} (hr : r < n) :
    Tab.get 0 ((List.range n).foldl (fun (t : Tab Word) r => t.set (r + 1) (w r)) []) (r + 1) = w r := by
  induction n with
  | zero => exact absurd hr (Nat.not_lt_zero r)
  | succ n ih =>
    rw [List.range_succ, List.foldl_append, List.foldl_cons, List.foldl_nil]
    obtain earlier | rfl := Nat.lt_succ_iff_lt_or_eq.1 hr
    · rw [Tab.get_set_ne _ _ _ (by omega), ih earlier]
    · exact Tab.get_set_same _ _ _ _

theorem word_readBack (w : Word) : wd (w.toNat % 2 ^ (8 * 8)) = w := BitVec.eq_of_toNat_eq (by
  have := w.isLt
  rw [wd, BitVec.toNat_ofNat]
  omega)

/-- A register of a thread's image. -/
theorem Thread.image_reg (t : Thread) {r : Nat} (hr : r < 31) : wd (fieldAt t.image (8 * r) 8) = t.reg (r + 1) := by
  have regs := length_flatMap_range 31 fun r => natLe_length 8 (t.reg (r + 1)).toNat
  have place := fieldAt_flatMap_piece (f := fun r => natLe 8 (t.reg (r + 1)).toNat) (o := 0) (n := 8)
    (fun r _ => natLe_length 8 (t.reg (r + 1)).toNat) (List.getElem?_range hr) (Nat.le_refl 8)
  have read := fieldAt_natLe_append 8 (t.reg (r + 1)).toNat []
  rw [List.append_nil] at read
  simp only [Thread.image, List.append_assoc]
  rw [fieldAt_append_left (by rw [regs]; omega), ← Nat.add_zero (8 * r), place, read, word_readBack]

/-- The words of a thread's image past its registers: the program counter, the state, and the exception registers. -/
theorem Thread.image_tail (t : Thread) {o : Nat} (n : Nat) (ho : 248 ≤ o) : fieldAt t.image o n =
    fieldAt (natLe 8 t.pc.toNat ++ (natLe 8 (t.state.code + (if t.handler then 8 else 0)) ++ (natLe 8 t.excVector.toNat ++
      (natLe 8 t.excCause.toNat ++ (natLe 8 t.excPc.toNat ++ (natLe 8 t.excAddr.toNat ++ natLe 216 0)))))) (o - 248) n := by
  have regs := length_flatMap_range 31 fun r => natLe_length 8 (t.reg (r + 1)).toNat
  simp only [Thread.image, List.append_assoc, List.flatMap_cons, List.flatMap_nil, List.nil_append]
  rw [fieldAt_append_right (by rw [regs]; exact ho), regs]

theorem ThreadState.code_lt (x : ThreadState) : x.code < 7 := by cases x <;> decide
theorem ThreadState.ofCode_code (x : ThreadState) : ThreadState.ofCode x.code = x := by cases x <;> rfl

theorem Thread.image_state (t : Thread) : fieldAt t.image 256 1 = t.state.code + (if t.handler then 8 else 0) := by
  have small := t.state.code_lt
  rw [t.image_tail 1 (by decide), fieldAt_append_right (by rw [natLe_length]), natLe_length, fieldAt_natLe_part (by decide)]
  cases t.handler <;> simp only [Bool.false_eq_true, if_true, if_false] <;> omega

theorem Thread.reg_zero (t : Thread) : t.reg 0 = 0 := if_pos rfl
theorem Thread.reg_succ (t : Thread) (r : Nat) : t.reg (r + 1) = t.regs.get 0 (r + 1) := if_neg (Nat.succ_ne_zero r)

theorem Thread.ofImage_regs (old : Thread) (bs : List Byte) : (Thread.ofImage old bs).regs =
    (List.range 31).foldl (fun (t : Tab Word) r => t.set (r + 1) (wd (fieldAt bs (8 * r) 8))) [] := by
  simp only [Thread.ofImage]

theorem Thread.ofImage_reg (old x : Thread) {r : Nat} (hr : r < 31) : (Thread.ofImage old x.image).reg (r + 1) = x.reg (r + 1) := by
  rw [Thread.reg_succ (Thread.ofImage old x.image), Thread.ofImage_regs, get_foldl_set_range (fun i => wd (fieldAt x.image (8 * i) 8)) hr,
    x.image_reg hr]

theorem Thread.ofImage_image (old x : Thread) (y : Thread) (hy : y = Thread.ofImage old x.image) : (∀ r < 32, y.reg r = x.reg r) ∧
    y.pc = x.pc ∧ y.state = x.state ∧ y.handler = x.handler ∧ y.excVector = x.excVector ∧ y.excCause = x.excCause ∧ y.excPc = x.excPc ∧
    y.excAddr = x.excAddr := by
  subst hy
  have small := x.state.code_lt
  have word (i : Nat) (hi : 31 ≤ i) := x.image_tail (o := 8 * i) 8 (by omega)
  refine ⟨fun r hr => ?_, ?pc, ?state, ?handler, ?vector, ?cause, ?excPc, ?addr⟩
  · cases r with
    | zero => rw [Thread.reg_zero, Thread.reg_zero]
    | succ r => exact Thread.ofImage_reg old x (Nat.lt_of_succ_lt_succ hr)
  case state =>
    refine Eq.trans ?_ (ThreadState.ofCode_code x.state)
    simp only [Thread.ofImage, x.image_state]
    exact congrArg ThreadState.ofCode (by split <;> omega)
  case handler =>
    simp only [Thread.ofImage, x.image_state, bitOf, testBit_eq_mod]
    cases x.handler <;> simp only [Bool.false_eq_true, if_true, if_false, decide_eq_false_iff_not, decide_eq_true_eq] <;> omega
  all_goals
    simp only [Thread.ofImage]
    rw [word _ (by decide)]
    simp only [fieldAt_append_right, natLe_length, fieldAt_natLe_append, Nat.reduceLeDiff, Nat.reduceSub, Nat.reduceMul]
    exact word_readBack _

/-! ### Manifests (Table 15.4) -/

theorem Sha256.primes_ge : 8 ≤ Sha256.primes.length := by decide +kernel

/-- Both histories of the working words keep four values. -/
theorem Sha256.round_length {x : Sha256.Chains} (ha : x.as.length = 4) (he : x.es.length = 4) (kw : BitVec 32) :
    (x.round kw).as.length = 4 ∧ (x.round kw).es.length = 4 := by
  simp only [Sha256.Chains.round, List.length_cons, List.length_take, ha, he]
  decide

theorem Sha256.rounds_length (kws : List (BitVec 32)) {x : Sha256.Chains} (ha : x.as.length = 4) (he : x.es.length = 4) :
    (kws.foldl Sha256.Chains.round x).as.length = 4 ∧ (kws.foldl Sha256.Chains.round x).es.length = 4 := by
  induction kws generalizing x with
  | nil => exact ⟨ha, he⟩
  | cons kw kws ih =>
    obtain ⟨ha, he⟩ := Sha256.round_length ha he kw
    exact ih ha he

theorem Sha256.absorb_length {ks : List (BitVec 32)} {x : Sha256.Chains} (ha : x.as.length = 4) (he : x.es.length = 4) (bs : List Byte) :
    (x.absorb ks bs).as.length = 4 ∧ (x.absorb ks bs).es.length = 4 := by
  obtain ⟨ha', he'⟩ := Sha256.rounds_length ((ks.zip (Sha256.schedule 48 (Sha256.wordsOf bs).reverse).reverse).map fun p => p.1 + p.2) ha he
  simp only [Sha256.Chains.absorb, Sha256.Chains.add, List.length_map, List.length_zip, ha, he, ha', he', Nat.min_self, and_self]

theorem Sha256.blocks_length {ks : List (BitVec 32)} (p : List Byte) (is : List Nat) {x : Sha256.Chains} (ha : x.as.length = 4)
    (he : x.es.length = 4) :
    (is.foldl (fun (x : Sha256.Chains) i => x.absorb ks ((p.drop (64 * i)).take 64)) x).as.length = 4 ∧
    (is.foldl (fun (x : Sha256.Chains) i => x.absorb ks ((p.drop (64 * i)).take 64)) x).es.length = 4 := by
  induction is generalizing x with
  | nil => exact ⟨ha, he⟩
  | cons i is ih =>
    obtain ⟨ha, he⟩ := Sha256.absorb_length ha he ((p.drop (64 * i)).take 64)
    exact ih ha he

theorem Sha256.hash_length (bs : List Byte) : (Sha256.hash bs).length = 32 := by
  have first : ((Sha256.primes.take 8).map (Sha256.fraction 2)).length = 8 := by
    rw [List.length_map, List.length_take, Nat.min_eq_left Sha256.primes_ge]
  obtain ⟨ha, he⟩ := Sha256.blocks_length (ks := Sha256.constants) (Sha256.pad bs) (List.range ((Sha256.pad bs).length / 64)) (x := Sha256.start)
    (by rw [Sha256.start, List.length_take, first]; rfl) (by rw [Sha256.start, List.length_drop, first])
  rw [Sha256.hash, length_flatMap_pieces fun w _ => by rw [List.length_reverse, natLe_length], List.length_append, ha, he]

/-- The 40 bytes of an entry. -/
def entryOf (y : PageEntry) : List Byte := natLe 4 (y.page + (if y.poisoned then 2 ^ 25 else 0)) ++ (natLe 4 0 ++ natLe 32 y.digest)

theorem entryOf_length (y : PageEntry) : (entryOf y).length = 40 := by simp only [entryOf, List.length_append, natLe_length]

theorem entryBytes_eq (es : List PageEntry) : entryBytes es = es.flatMap entryOf :=
  List.flatMap_congr fun _ _ => List.append_assoc _ _ _

theorem entryBytes_length (es : List PageEntry) : (entryBytes es).length = 40 * es.length := by
  rw [entryBytes_eq, length_flatMap_pieces fun y _ => entryOf_length y, Nat.mul_comm]

/-- An entry read from a manifest's bytes. -/
def entryRead (es : List Byte) (i : Nat) : PageEntry :=
  { page := bitsOf (fieldAt es (40 * i) 4) 24 0, poisoned := bitOf (fieldAt es (40 * i) 4) 25, digest := fieldAt es (40 * i + 8) 32 }

theorem entryRead_entryBytes {es : List PageEntry} {i : Nat} {y : PageEntry} (hy : es[i]? = some y) (hp : y.page < 2 ^ 25)
    (hd : y.digest < 2 ^ 256) : entryRead (entryBytes es) i = y := by
  have word : fieldAt (entryBytes es) (40 * i) 4 = y.page + (if y.poisoned then 2 ^ 25 else 0) := by
    have at0 := fieldAt_flatMap_piece (o := 0) (n := 4) (fun y _ => entryOf_length y) hy (by decide)
    rw [entryBytes_eq, ← Nat.add_zero (40 * i), at0, entryOf, fieldAt_natLe_append]
    split <;> omega
  have body : fieldAt (entryBytes es) (40 * i + 8) 32 = y.digest := by
    have read := fieldAt_natLe_append 32 y.digest []
    rw [List.append_nil] at read
    rw [entryBytes_eq, fieldAt_flatMap_piece (fun y _ => entryOf_length y) hy (by decide), entryOf,
      fieldAt_append_right (by rw [natLe_length]; decide), fieldAt_append_right (by rw [natLe_length, natLe_length])]
    simp only [natLe_length, Nat.reduceSub, read]
    exact Nat.mod_eq_of_lt hd
  obtain ⟨page, poisoned, d⟩ := y
  replace hp : page < 2 ^ 25 := hp
  replace word : fieldAt (entryBytes es) (40 * i) 4 = page + (if poisoned then 2 ^ 25 else 0) := word
  replace body : fieldAt (entryBytes es) (40 * i + 8) 32 = d := body
  simp only [entryRead, word, body, bitsOf_eq_div, bitOf, testBit_eq_mod, Nat.reduceAdd, Nat.reduceSub, PageEntry.mk.injEq]
  cases poisoned <;> simp only [Bool.false_eq_true, if_true, if_false, decide_eq_false_iff_not, decide_eq_true_eq, and_true] <;> omega

/-- The entries of a manifest read back as written. -/
theorem entries_readBack {es : List PageEntry} (fits : ∀ y ∈ es, y.page < 2 ^ 25 ∧ y.digest < 2 ^ 256) :
    (List.range es.length).map (entryRead (entryBytes es)) = es := by
  refine List.ext_getElem (by rw [List.length_map, List.length_range]) fun i _ hi => ?_
  obtain ⟨hp, hd⟩ := fits _ (List.getElem_mem hi)
  rw [List.getElem_map, List.getElem_range, entryRead_entryBytes (List.getElem?_eq_getElem hi) hp hd]

/-- The release field of a manifest. -/
def State.manifestRelease (s : State) : Nat :=
  if s.house.image = 0 then 0 else s.flash.le ((if s.house.image = 2 then 0x2100000 else 0x100000) + 8) 8

/-- The 256 bytes before a manifest's entries. -/
def State.manifestHead (s : State) (x : Snapshot) : List Byte :=
  natLe 2 1 ++ natLe 2 s.ownPeer ++ natLe 2 ((if x.sign then 1 else 0) + (if x.entries.any (·.poisoned) then 2 else 0)) ++ natLe 2 0 ++
    natLe 8 x.step ++ natLe 8 s.manifestRelease ++ natLe 4 x.entries.length ++ natLe 4 0 ++ Sha256.hash (entryBytes x.entries) ++
    natLe 128 s.absentCores ++ natLe 8 x.ctxBase ++ natLe 56 0

/-- What follows the entries: the signature of a signed manifest. -/
def State.manifestSign (s : State) (x : Snapshot) : List Byte :=
  let sig := Config.slhSign s.fuses.secret (digest (s.manifestHead x ++ entryBytes x.entries))
  if x.sign then sig.take 17088 ++ List.replicate (17088 - sig.length) 0 else []

theorem manifest_eq (s : State) (x : Snapshot) : s.manifest x = s.manifestHead x ++ (entryBytes x.entries ++ s.manifestSign x) := by
  have parts : s.manifest x = if x.sign then
      s.manifestHead x ++ entryBytes x.entries ++
        (Config.slhSign s.fuses.secret (digest (s.manifestHead x ++ entryBytes x.entries))).take 17088 ++
        List.replicate (17088 - (Config.slhSign s.fuses.secret (digest (s.manifestHead x ++ entryBytes x.entries))).length) 0
      else s.manifestHead x ++ entryBytes x.entries := rfl
  rw [parts, State.manifestSign]
  split
  · simp only [List.append_assoc]
  · rw [List.append_nil]

theorem manifestHead_length (s : State) (x : Snapshot) : (s.manifestHead x).length = 256 := by
  simp only [State.manifestHead, List.length_append, natLe_length, Sha256.hash_length]

theorem manifestSign_length (s : State) (x : Snapshot) : (s.manifestSign x).length = if x.sign then 17088 else 0 := by
  rw [State.manifestSign]
  split
  · rw [List.length_append, List.length_take, List.length_replicate]; omega
  · rfl

/-- What a manifest's header says. -/
theorem manifestHead_fields {s : State} {x : Snapshot} (hstep : x.step < 2 ^ 64) (hcount : x.entries.length < 2 ^ 32)
    (habsent : s.absentCores < 2 ^ 1024) :
    fieldAt (s.manifestHead x) 24 4 = x.entries.length ∧ bitOf (fieldAt (s.manifestHead x) 4 2) 0 = x.sign ∧
    fieldAt (s.manifestHead x) 32 32 = digest (entryBytes x.entries) ∧ fieldAt (s.manifestHead x) 8 8 = x.step ∧
    fieldAt (s.manifestHead x) 64 128 = s.absentCores := by
  have hash (ys : List Byte) : fieldAt (Sha256.hash (entryBytes x.entries) ++ ys) 0 32 = digest (entryBytes x.entries) := by
    have long := Sha256.hash_length (entryBytes x.entries)
    rw [fieldAt_append_left (Nat.le_of_eq long.symm), fieldAt, List.drop_zero, List.take_of_length_le (Nat.le_of_eq long), digest]
  simp only [State.manifestHead, List.append_assoc, fieldAt_append_right, natLe_length, Sha256.hash_length, fieldAt_natLe_append, hash, Nat.reduceLeDiff,
    Nat.reduceSub, Nat.reduceMul]
  refine ⟨Nat.mod_eq_of_lt hcount, ?_, trivial, Nat.mod_eq_of_lt hstep, Nat.mod_eq_of_lt habsent⟩
  rw [bitOf, testBit_eq_mod]
  cases x.sign <;> simp only [Bool.false_eq_true, if_true, if_false, decide_eq_false_iff_not, decide_eq_true_eq] <;> split <;> decide

theorem markAll_append (m : Bool) (xs ys : List Byte) : markAll m (xs ++ ys) = markAll m xs ++ markAll m ys := List.map_append

theorem markAll_false_any (xs : List Byte) : (markAll false xs).any (·.2) = false := by
  rw [markAll, List.any_map]
  exact List.any_eq_false.2 fun _ _ => Bool.false_ne_true

/-- A manifest whose signature is not asked for is judged good, and says what it was written with. -/
theorem judgeManifest_manifest {s : State} {x : Snapshot} (hstep : x.step < 2 ^ 64) (hcount : x.entries.length < 2 ^ 32)
    (fits : ∀ y ∈ x.entries, y.page < 2 ^ 25 ∧ y.digest < 2 ^ 256) (habsent : s.absentCores < 2 ^ 1024) :
    s.judgeManifest x.step false (markAll false (s.manifestHead x)) (markAll false (entryBytes x.entries ++ s.manifestSign x)) =
      .inr ⟨s.absentCores, x.entries, x.sign⟩ := by
  obtain ⟨count, signed, entries, step, absent⟩ := manifestHead_fields hstep hcount habsent
  have cut : (entryBytes x.entries ++ s.manifestSign x).take (40 * x.entries.length) = entryBytes x.entries :=
    List.take_left' (entryBytes_length x.entries)
  have unmarked : ((markAll false (entryBytes x.entries ++ s.manifestSign x)).take (40 * x.entries.length)).any (·.2) = false := by
    rw [markAll, ← List.map_take, ← markAll, markAll_false_any]
  simp only [State.judgeManifest, markAll_bytes, count, signed, entries, step, absent, cut, unmarked, ne_eq, not_true_eq_false,
    Bool.false_eq_true, false_and, or_self, if_false]
  exact congrArg (fun es => Sum.inr (ReadManifest.mk s.absentCores es x.sign)) (entries_readBack fits)

/-- Settles O57: the lengths of the parts, and the fields of a thread, of an entry and of a header read back. -/
theorem imagesAndManifests : Obligations.ImagesAndManifests := by
  refine ⟨contextImage_length, fun old x y hy => ⟨x.image_length, Thread.ofImage_image old x y hy⟩, ?_⟩
  rintro s x bs rfl
  have head := (markAll_length false (s.manifestHead x)).trans (manifestHead_length s x)
  rw [manifest_eq, markAll_append, List.take_left' head, List.drop_left' head]
  refine ⟨?_, fun hstep hcount fits habsent => judgeManifest_manifest hstep hcount fits habsent⟩
  rw [List.length_append, head, markAll_length, List.length_append, entryBytes_length, manifestSign_length, Nat.add_assoc]

end Sys2Proof.Machine
end

section
/-! Flits received with their checks right, and a table in which a port stands twice. -/

namespace Sys2Proof.Machine

/-! ### The bytes of a flit (Tables 13.1, 13.2) -/

/-- The bytes that the CRC covers. -/
def flitFront (h : FlitHeader) (body : BitVec 1952) : List Byte := natLe 8 h.toNat ++ natLe 244 body.toNat

theorem flitBytes_eq (h : FlitHeader) (body : BitVec 1952) :
    flitBytes h body = flitFront h body ++ natLe 4 (crc32 (flitFront h body)).toNat := rfl

theorem flitFront_length (h : FlitHeader) (body : BitVec 1952) : (flitFront h body).length = 252 := by
  rw [flitFront, List.length_append, natLe_length, natLe_length]

theorem flitBytes_length (h : FlitHeader) (body : BitVec 1952) : (flitBytes h body).length = 256 := by
  rw [flitBytes_eq, List.length_append, flitFront_length, natLe_length]

theorem goodFlit_toNat (h : FlitHeader) (body : BitVec 1952) : (goodFlit h body).toNat = leNat (flitBytes h body) := by
  have small := leNat_lt (flitBytes h body)
  rw [flitBytes_length] at small
  rw [goodFlit, BitVec.toNat_ofNat]
  exact Nat.mod_eq_of_lt small

theorem goodFlit_bytes (h : FlitHeader) (body : BitVec 1952) : natLe 256 (goodFlit h body).toNat = flitBytes h body := by
  have back := natLe_leNat (flitBytes h body)
  rw [flitBytes_length] at back
  rw [goodFlit_toNat, back]

/-- The CRC of a good flit is that of its bytes. -/
theorem goodFlit_crc (h : FlitHeader) (body : BitVec 1952) :
    (crc32 ((flitBytes h body).take 252)).toNat = leNat ((flitBytes h body).drop 252) := by
  rw [flitBytes_eq, List.take_left' (flitFront_length h body), List.drop_left' (flitFront_length h body), leNat_natLe]
  exact (Nat.mod_eq_of_lt (crc32 (flitFront h body)).isLt).symm

theorem FlitHeader.toNat_lt {h : FlitHeader} (fits : HeaderFits h) : h.toNat < 2 ^ 64 := by
  obtain ⟨seq, ack, ftype, nak, vc, hop, creditVc, creditHop, creditCnt, dst⟩ := h
  obtain ⟨hseq, hack, hftype, hvc, hhop, hcvc, hchop, hcnt, hdst⟩ := fits
  simp only at hseq hack hftype hvc hhop hcvc hchop hcnt hdst
  simp only [FlitHeader.toNat]
  cases nak <;> simp only [Bool.false_eq_true, if_true, if_false] <;> omega

theorem goodFlit_header {h : FlitHeader} (fits : HeaderFits h) (body : BitVec 1952) :
    FlitHeader.ofNat (leNat ((flitBytes h body).take 8)) = h := by
  have front : (flitBytes h body).take 8 = natLe 8 h.toNat := by
    rw [flitBytes_eq, flitFront, List.append_assoc, List.take_left' (natLe_length 8 _)]
  rw [front, leNat_natLe, Nat.mod_eq_of_lt (FlitHeader.toNat_lt fits), FlitHeader.ofNat_toNat h fits]

theorem goodFlit_body (h : FlitHeader) (body : BitVec 1952) : (goodFlit h body).extractLsb' 64 1952 = body := by
  have middle : ((flitBytes h body).drop 8).take 244 = natLe 244 body.toNat := by
    rw [flitBytes_eq, flitFront, List.append_assoc, List.drop_left' (natLe_length 8 _), List.take_left' (natLe_length 244 _)]
  have value : leNat (flitBytes h body) / 2 ^ (8 * 8) % 2 ^ (8 * 244) = body.toNat := by
    rw [← leNat_drop, ← leNat_take, middle, leNat_natLe]
    exact Nat.mod_eq_of_lt body.isLt
  refine BitVec.eq_of_toNat_eq ?_
  rw [BitVec.extractLsb'_toNat, goodFlit_toNat, Nat.shiftRight_eq_div_pow]
  exact value

/-! ### A good flit (R328 to R334) -/

/-- A port before it looks into a flit: its cycles, symbols, codewords and bytes are counted. -/
def State.flitCame (s : State) (l gap corrected : Nat) : State :=
  (((((s.linkTick l gap).setLink l { (s.linkTick l gap).link l with state := ((s.linkTick l gap).link l).state.exchanging }).countUnit
    (linkUnit l) 1 corrected).countUnit (linkUnit l) 2 0).countUnit (linkUnit l) 0x301 256)

/-- What a port does with a flit whose checks hold. -/
def State.flitTaken (s : State) (l : Nat) (k : LinkSt) (h : FlitHeader) (body : BitVec 1952) : State :=
  let s := ((s.setLink l (k.take h).1).countUnit (linkUnit l) 3 (k.take h).2).forwards l
  let k := s.link l
  if h.ftype = 0 then s
  else if h.seq ≠ k.expected then s.setLink l (afterLoss k)
  else
    let k := k.takeControl h.ftype body
    let s := s.setLink l { k with expected := (k.expected + 1) % 4096, nakSent := false }
    if k.state = .active then s.acceptFlit l h body else s

/-- The port whose flit is looked into. -/
def State.flowing (s : State) (l gap : Nat) : LinkSt :=
  { (s.linkTick l gap).link l with state := ((s.linkTick l gap).link l).state.exchanging }

theorem receive_checked {s : State} {l : LinkId} (gap corrected : Nat) {flit : BitVec 2048} {bs : List Byte}
    (flows : (s.link l).state.flows = true) (bytes : natLe 256 flit.toNat = bs) (crc : (crc32 (bs.take 252)).toNat = leNat (bs.drop 252)) :
    exec (.linkFlitReceive l gap flit corrected 0 false) s = .next ((s.flitCame l gap corrected).flitTaken l (s.flowing l gap)
      (FlitHeader.ofNat (leNat (bs.take 8))) (flit.extractLsb' 64 1952)) := by
  show execLinkFlitReceive l gap flit corrected 0 false s = _
  unfold execLinkFlitReceive
  simp only [flows, bytes, crc, Bool.not_false, Bool.not_true, Bool.and_self, decide_true, Bool.false_eq_true, if_false]
  rfl

theorem receive_good {s : State} {l : LinkId} (gap corrected : Nat) {h : FlitHeader} (body : BitVec 1952) (flows : (s.link l).state.flows = true)
    (fits : HeaderFits h) : exec (.linkFlitReceive l gap (goodFlit h body) corrected 0 false) s =
      .next ((s.flitCame l gap corrected).flitTaken l (s.flowing l gap) h body) := by
  rw [receive_checked gap corrected flows (goodFlit_bytes h body) (goodFlit_crc h body), goodFlit_header fits, goodFlit_body]

/-! ### A port that stands twice in the table -/

/-- Port 0 twice: ACTIVE and expecting flit 0; and waiting for the response of peer 0 with tag 0, expecting flit 5. -/
def portTwice : State :=
  { State.reset with links := [(0, { state := .active }), (0, { expected := 5, outstanding := [⟨0, 0, [], 0, none⟩] })] }

/-- A SLOTS flit with sequence number 0 for peer 0, and the acknowledgement with tag 0 from peer 0 that it brings. -/
def ackHeader : FlitHeader :=
  { seq := 0, ack := 0, ftype := 1, nak := false, vc := 1, hop := 0, creditVc := 0, creditHop := 0, creditCnt := 0, dst := 0 }
def ackBody : BitVec 1952 := slotsBody 0 [⟨SlotHeader.toBits { kind := 5 }, 0, 0⟩]

theorem ackHeader_fits : HeaderFits ackHeader := by unfold HeaderFits; decide

/-- The response puts the second entry in place of the first. -/
theorem portTwice_expects :
    (((portTwice.flitCame (0 : LinkId) 0 0).flitTaken (0 : LinkId) (portTwice.flowing (0 : LinkId) 0) ackHeader ackBody).link (0 : LinkId)).expected = 5 := by
  decide +kernel

/-- Refutes O38: nothing says that the table of ports is in canonical form, and where a port stands in it twice, a response puts the
later entry in place of the earlier (`portTwice`): the port then expects flit 5 after it accepted flit 0. -/
theorem not_linkFlits : ¬ Obligations.LinkFlits := by
  rintro ⟨-, receives⟩
  obtain ⟨-, -, good⟩ := receives portTwice 0 0 0 0 (goodFlit ackHeader ackBody) false _ rfl
  obtain ⟨t, run, -, -, -, next, -⟩ := good ackHeader ackBody rfl rfl rfl rfl ackHeader_fits
  obtain ⟨expected, -, -⟩ := next (by decide) rfl
  rw [receive_good 0 0 ackBody rfl ackHeader_fits] at run
  have five := portTwice_expects
  rw [Host.Outcome.next.inj run] at five
  exact absurd (five.symm.trans expected) (by decide)

end Sys2Proof.Machine
end

section
/-! What a port loses with its link (R339), and the steps between its states (R335 to R340, R495). -/

namespace Sys2Proof.Machine

/-! ### Steps at one port -/

theorem Tab.set_set {α : Type} (k : Nat) (a b : α) : ∀ t : Tab α, Tab.set (Tab.set t k a) k b = Tab.set t k b
  | [] => if_pos rfl
  | (i, c) :: t => by
    simp only [Tab.set]
    split
    · next here => rw [Tab.set, if_pos rfl]
    · next other =>
      split
      · next before => rw [Tab.set, if_pos rfl]
      · next after => rw [Tab.set, if_neg other, if_neg after, Tab.set_set k a b t]

section
variable {s t : State} {l : Nat} {k : LinkSt}

theorem linkOnly_link (h : LinkOnly s t l k) : t.link l = k := by
  have links : t.links = s.links.set l k := congrArg State.links h
  rw [State.link, links, Tab.get_set_same]

/-- What neither a port nor a counter holds reads as before. -/
theorem linkOnly_read {β : Type} (h : LinkOnly s t l k) (f : State → β)
    (hf : ∀ (s : State) ls c b, f { s with links := ls, unitCounters := c, bwNow := b } = f s := by exact fun _ _ _ _ => rfl) : f t = f s :=
  (congrArg f h).trans (hf _ _ _ _)

theorem linkOnly_setLink (h : LinkOnly s t l k) (x : LinkSt) : LinkOnly s (t.setLink l x) l x := by
  have links : t.links = s.links.set l k := congrArg State.links h
  have replaced : (t.setLink l x).links = s.links.set l x := (congrArg (Tab.set · l x) links).trans (Tab.set_set l k x s.links)
  unfold LinkOnly at h ⊢
  rw [State.setLink] at replaced ⊢
  rw [← replaced, h]

theorem linkOnly_ticked (s : State) (l gap : Nat) : LinkOnly s (s.linkTick l gap) l (tickedLink s l gap) := by
  obtain ⟨counters, ticks⟩ := linkTick_frame (s := s) l gap
  unfold LinkOnly
  rw [ticks]

end

/-! ### The accesses that are lost -/

/-- An access that has ended as LINK_LOST: a read comes back poisoned. -/
def Txn.gone (y : Txn) : Prop := y.phase = .done 8 ∧ (y.write = false → y.poison = true)

theorem fromPort_moved {s m : State} {x : Txn} (hx : (s.txn x.id).isSome) (hm : m.txns = s.txns) (clean : x.write = false → x.poison = true) :
    ∃ y, y.id = x.id ∧ y.gone ∧ Moved s (m.fromPort x 8) y := by
  obtain ⟨u, found⟩ := Option.isSome_iff_exists.1 hx
  have pool : ∃ u ∈ s.txns, u.id = x.id := ⟨u, List.mem_of_find?_eq_some found, by simpa using List.find?_some found⟩
  unfold State.fromPort
  split
  · next l sent =>
    have counted := countPath_counted { m with nextIssue := m.nextIssue + 1 } (l.port x.link).1 (l.port x.link).2 x.src.guild x.src.port
      (payloadBytes (m.comeBack x l 8).1.kind)
    exact ⟨(m.comeBack x l 8).1, rfl, ⟨rfl, clean⟩, moved_putTxn (y := (m.comeBack x l 8).1) pool ((counted.read State.txns).trans hm)⟩
  · exact ⟨{ x with phase := .done 8 }, rfl, ⟨rfl, clean⟩, moved_putTxn (y := { x with phase := .done 8 }) pool hm⟩

theorem lose_moved {s : State} {x : Txn} (hx : (s.txn x.id).isSome) : ∃ y, y.id = x.id ∧ y.gone ∧ Moved s (s.lose x) y := by
  unfold State.lose
  split
  · next write => exact fromPort_moved hx rfl fun read => absurd (write.symm.trans read) (by decide)
  · exact fromPort_moved (x := { x with data := s.takeBlock.1, poison := true }) hx rfl fun _ => rfl

/-- Every access of the list is lost, and no other has changed. -/
theorem loseAll_txns : ∀ (xs : List Txn) {s : State}, (∀ x ∈ xs, (s.txn x.id).isSome) → ∀ m,
    ((∀ x ∈ xs, x.id ≠ m) → (xs.foldl State.lose s).txn m = s.txn m) ∧
    ((∃ x ∈ xs, x.id = m) → ∃ y, (xs.foldl State.lose s).txn m = some y ∧ y.gone)
  | [], _, _, _ => ⟨fun _ => rfl, fun ⟨_, mem, _⟩ => absurd mem List.not_mem_nil⟩
  | x :: xs, s, hs, m => by
    obtain ⟨y, hy, lost, here, others⟩ := lose_moved (hs x List.mem_cons_self)
    have pool : ∀ u ∈ xs, ((s.lose x).txn u.id).isSome := fun u hu => by
      by_cases same : u.id = y.id
      · rw [same, here]; rfl
      · rw [others _ same]; exact hs u (List.mem_cons_of_mem x hu)
    obtain ⟨kept, gone⟩ := loseAll_txns xs pool m
    rw [List.foldl_cons]
    refine ⟨fun none => (kept fun u hu => none u (List.mem_cons_of_mem x hu)).trans (others m fun eq => none x List.mem_cons_self (hy ▸ eq.symm)), ?_⟩
    rintro ⟨u, hu, rfl⟩
    by_cases later : ∃ v ∈ xs, v.id = u.id
    · exact gone later
    · obtain rfl | hu := List.mem_cons.1 hu
      · exact ⟨y, (kept fun v hv same => later ⟨v, hv, same⟩).trans (hy ▸ here), lost⟩
      · exact absurd ⟨u, hu, rfl⟩ later

theorem lost_txn {s : State} {ids : List Nat} {m : Nat} : (m ∉ ids → (s.lost ids).txn m = s.txn m) ∧
    (m ∈ ids → ∀ x, s.txn m = some x → ∃ y, (s.lost ids).txn m = some y ∧ y.gone) := by
  have pool : ∀ x ∈ s.txns.filter (fun t => ids.contains t.id), (s.txn x.id).isSome := fun x hx =>
    List.find?_isSome.2 ⟨x, (List.mem_filter.1 hx).1, decide_eq_true rfl⟩
  obtain ⟨kept, gone⟩ := loseAll_txns _ pool m
  refine ⟨fun other => kept fun x hx same => ?_, fun mem x found => gone ⟨x, ?_, ?_⟩⟩
  · exact other (same ▸ List.contains_iff_mem.1 (List.mem_filter.1 hx).2)
  · have id : x.id = m := by simpa using List.find?_some found
    exact List.mem_filter.2 ⟨List.mem_of_find?_eq_some found, List.contains_iff_mem.2 (id ▸ mem)⟩
  · simpa using List.find?_some found

/-- Losing accesses touches the pool, and what counts. -/
theorem lose_frame (s : State) (x : Txn) : (s.lose x).links = s.links ∧ (s.lose x).occurrences = s.occurrences := by
  have ends (m : State) (x : Txn) : (m.fromPort x 8).links = m.links ∧ (m.fromPort x 8).occurrences = m.occurrences := by
    unfold State.fromPort
    split
    · have counted := fun (p : Nat × Nat) b => countPath_counted { m with nextIssue := m.nextIssue + 1 } p.1 p.2 x.src.guild x.src.port b
      exact ⟨(counted _ _).read State.links, (counted _ _).read State.occurrences⟩
    · exact ⟨rfl, rfl⟩
  unfold State.lose
  split
  · exact ends s x
  · exact ends s.takeBlock.2 _

theorem lost_links (s : State) (ids : List Nat) : (s.lost ids).links = s.links := foldl_keeps State.links (fun t x => (lose_frame t x).1) _ s
theorem lost_occurrences (s : State) (ids : List Nat) : (s.lost ids).occurrences = s.occurrences :=
  foldl_keeps State.occurrences (fun t x => (lose_frame t x).2) _ s

/-! ### The answers to what a port held for others -/

/-- A response touches the ports alone. -/
theorem respond_frame (s : State) (peer : Nat) (h : SlotHeader) (data : BitVec 512) : ∃ links, s.respond peer h data = { s with links := links } := by
  unfold State.respond
  split
  · dsimp only
    split
    · exact ⟨_, rfl⟩
    · exact ⟨s.links, rfl⟩
  · exact ⟨s.links, rfl⟩

theorem answerSlot_frame (s : State) (status : Nat) (q : Nat × LinkSlot) :
    ∃ links free, s.answerSlot status q = { s with links := links, free := free } := by
  have respond (t : State) (peer : Nat) (h : SlotHeader) (data : BitVec 512) :
      ∃ links free, t.respond peer h data = { t with links := links, free := free } := by
    obtain ⟨links, eq⟩ := respond_frame t peer h data
    exact ⟨links, t.free, eq⟩
  unfold State.answerSlot
  dsimp only
  split
  · exact respond s.takeBlock.2 _ _ _
  · exact respond s _ _ _
  · exact respond s _ _ _
  · exact respond s _ _ _
  · exact ⟨s.links, s.free, rfl⟩

theorem answerAll_read {β : Type} (s : State) (status : Nat) (qs : List (Nat × LinkSlot)) (f : State → β)
    (hf : ∀ (s : State) links free, f { s with links := links, free := free } = f s := by exact fun _ _ _ => rfl) :
    f (s.answerAll status qs) = f s :=
  foldl_keeps f (fun t q => by obtain ⟨links, free, eq⟩ := answerSlot_frame t status q; rw [eq]; exact hf _ _ _) _ s

/-- A port that carries nothing takes no response. -/
theorem respond_closed {s : State} {l : Nat} (closed : (s.link l).state.carries = false) (peer : Nat) (h : SlotHeader) (data : BitVec 512) :
    (s.respond peer h data).link l = s.link l := by
  unfold State.respond
  split
  · next out route =>
    dsimp only
    split
    · next carries => exact s.link_setLink_ne _ fun same => absurd (same ▸ carries) (by simp [closed])
    · rfl
  · rfl

theorem answerSlot_closed {s : State} {l : Nat} (closed : (s.link l).state.carries = false) (status : Nat) (q : Nat × LinkSlot) :
    (s.answerSlot status q).link l = s.link l := by
  unfold State.answerSlot
  dsimp only
  split
  · exact respond_closed (s := s.takeBlock.2) closed _ _ _
  · exact respond_closed closed _ _ _
  · exact respond_closed closed _ _ _
  · exact respond_closed closed _ _ _
  · rfl

theorem answerAll_closed {s : State} {l : Nat} (closed : (s.link l).state.carries = false) (status : Nat) (qs : List (Nat × LinkSlot)) :
    (s.answerAll status qs).link l = s.link l :=
  List.foldlRecOn (motive := fun t : State => t.link l = s.link l) _ _ rfl fun t ht q _ =>
    (answerSlot_closed (by rw [ht]; exact closed) status q).trans ht

/-! ### A port that loses its link -/

theorem LinkSt.without_held (l : Nat) (k : LinkSt) : (k.without l).egress = k.egress ∧ (k.without l).retry = k.retry ∧
    (k.without l).outstanding = k.outstanding := by
  have freed {β : Type} (f : LinkSt → β) (hf : ∀ (k : LinkSt) x, f { k with freed := x } = f k) (fs : List HeldFlit) (y : LinkSt) :
      f (fs.foldl (fun (y : LinkSt) f => if f.owed then y.free f.vc f.hop else y) y) = f y :=
    foldl_keeps f (fun y x => by split; exacts [hf _ _, rfl]) fs y
  exact ⟨freed LinkSt.egress (fun _ _ => rfl) _ _, freed LinkSt.retry (fun _ _ => rfl) _ _, freed LinkSt.outstanding (fun _ _ => rfl) _ _⟩

/-- A port whose buffers are empty. -/
def LinkSt.emptied (k : LinkSt) : LinkSt :=
  { k with egress := [], retry := [], resend := none, resends := 0, outstanding := [], bursts := [], forwardOpen := [], nakDue := false,
           nakSent := false }

/-- The module before it answers what port `l` held for others. -/
def State.portEmptied (s : State) (l : Nat) : State :=
  { (s.lost ((s.link l).outstanding.flatMap (·.txns))).setLink l (s.link l).emptied with
    links := ((s.lost ((s.link l).outstanding.flatMap (·.txns))).setLink l (s.link l).emptied).links.map fun x => (x.1, x.2.without l) }

theorem loseLink_eq (s : State) (l : Nat) : s.loseLink l = (s.portEmptied l).answerAll 8 (s.forwardedBy l) := rfl

theorem portEmptied_link (s : State) (l : Nat) : (s.portEmptied l).link l = (s.link l).emptied.without l := by
  show Tab.get ({} : LinkSt) (List.map _ _) l = _
  rw [Tab.get_map rfl]
  exact congrArg (LinkSt.without l) (State.link_setLink _ _ _)

theorem loseLink_occurrences (s : State) (l : Nat) : (s.loseLink l).occurrences = s.occurrences :=
  (answerAll_read _ _ _ State.occurrences).trans (lost_occurrences s _)

/-- R339: what waited at a port that carries nothing any more has ended as LINK_LOST, and its buffers are empty. -/
theorem loseLink_lost {s : State} {l : Nat} (closed : (s.link l).state.carries = false) : Lost s (s.loseLink l) l := by
  have shut : ((s.portEmptied l).link l).state.carries = false := by
    rw [portEmptied_link, ((s.link l).emptied.without_port l).2]
    exact closed
  obtain ⟨egress, retry, outstanding⟩ := (s.link l).emptied.without_held l
  rw [← portEmptied_link, ← answerAll_closed shut 8 (s.forwardedBy l), ← loseLink_eq] at egress retry outstanding
  refine ⟨egress, retry, outstanding, fun o ho m hm x found => ?_⟩
  have pool : (s.loseLink l).txn m = (s.lost ((s.link l).outstanding.flatMap (·.txns))).txn m := answerAll_read _ _ _ (State.txn · m)
  obtain ⟨y, gone, ends⟩ := lost_txn.2 (List.mem_flatMap.2 ⟨o, ho, hm⟩) x found
  exact ⟨y, pool.trans gone, ends⟩

/-- A port closed in state `k` loses what it held. -/
theorem lost_of_closed {s u : State} {l : Nat} (pool : u.txns = s.txns) (outstanding : (u.link l).outstanding = (s.link l).outstanding)
    (closed : (u.link l).state.carries = false) : Lost s (u.loseLink l) l := by
  obtain ⟨egress, retry, out, ends⟩ := loseLink_lost closed
  refine ⟨egress, retry, out, fun o ho m hm x found => ends o (outstanding ▸ ho) m hm x ?_⟩
  rw [State.txn, pool]
  exact found

/-! ### Flits forwarded by a port (R342, R346) -/

/-- Port `k` with the entries, the buffers and the credits of `y`. -/
def LinkSt.forwarding (k y : LinkSt) : LinkSt := { k with egress := y.egress, waiting := y.waiting, freed := y.freed, credits := y.credits }

/-- From `s` to `t` flits have been forwarded. -/
def Forwards (s t : State) : Prop := ∀ l, t.link l = (s.link l).forwarding (t.link l)

theorem Forwards.refl (s : State) : Forwards s s := fun _ => rfl

theorem Forwards.trans {s t u : State} (h : Forwards s t) (h' : Forwards t u) : Forwards s u := fun l => by
  have first := h l
  have second := h' l
  rw [first] at second
  exact second

/-- What forwarding leaves alone reads as before. -/
theorem Forwards.read {s t : State} {β : Type} (h : Forwards s t) (l : Nat) (f : LinkSt → β)
    (hf : ∀ k y, f (LinkSt.forwarding k y) = f k := by exact fun _ _ => rfl) : f (t.link l) = f (s.link l) :=
  (congrArg f (h l)).trans (hf _ _)

theorem setLink_forwards (s : State) (l : Nat) (x : LinkSt) (hx : x = (s.link l).forwarding x) : Forwards s (s.setLink l x) := fun j => by
  by_cases same : l = j
  · subst same
    rw [State.link_setLink]
    exact hx
  · rw [State.link_setLink_ne s x same]
    exact rfl

theorem forwardOne_forwards {s t : State} {out : Nat} (h : s.forwardOne out = some t) : Forwards s t := by
  unfold State.forwardOne at h
  dsimp only at h
  split at h
  · exact nomatch h
  · obtain ⟨x, -, rfl⟩ := Option.map_eq_some_iff.1 h
    have took := fun k (hk : k = (s.link out).forwarding k) => setLink_forwards s out k hk
    intro l
    have counted (m : State) (g pin h pout bytes : Nat) : (m.countPath g pin h pout bytes).link l = m.link l :=
      (countPath_counted m g pin h pout bytes).read (State.link · l)
    rw [counted]
    refine ((took _ rfl).trans (setLink_forwards _ x.1 _ ?_)) l
    split <;> rfl

theorem forwardFrom_forwards : ∀ (n : Nat) (s : State) (out : Nat), Forwards s (State.forwardFrom n s out)
  | 0, s, _ => .refl s
  | n + 1, s, out => by
    unfold State.forwardFrom
    split
    · next t one => exact (forwardOne_forwards one).trans (forwardFrom_forwards n t out)
    · exact .refl s

theorem forwards_forwards (s : State) (out : Nat) : Forwards s (s.forwards out) := forwardFrom_forwards _ _ _

theorem Tab.get_eq_or_mem {α : Type} (d : α) : ∀ (t : Tab α) (k : Nat), Tab.get d t k = d ∨ (k, Tab.get d t k) ∈ t
  | [], _ => .inl rfl
  | (i, a) :: t, k => by
    simp only [Tab.get]
    split
    · next here => exact .inr (here ▸ List.mem_cons_self)
    · split
      · exact .inl rfl
      · exact (Tab.get_eq_or_mem d t k).imp_right (List.mem_cons_of_mem _)

/-- Where no flit waits for a port, nothing is forwarded. -/
theorem forwards_of_none {s : State} {l : Nat} (none : NoneWaits s l) : s.forwards l = s := by
  have zero (xs : List (Nat × LinkSt)) (hxs : ∀ x ∈ xs, ∀ f ∈ x.2.waiting, f.out ≠ l) :
      (xs.map fun x => (x.2.waiting.filter fun f => f.out = l).length).foldl (· + ·) 0 = 0 := by
    induction xs with
    | nil => rfl
    | cons x xs ih =>
      have here : x.2.waiting.filter (fun f => f.out = l) = [] :=
        List.filter_eq_nil_iff.2 fun f hf => by simpa using hxs x List.mem_cons_self f hf
      rw [List.map_cons, List.foldl_cons, here]
      exact ih fun y hy => hxs y (List.mem_cons_of_mem x hy)
  rw [State.forwards, zero s.links none]
  rfl

/-- Nothing waits for port `l` after a change of a port that keeps where its flits go. -/
theorem noneWaits_only {s t : State} {l : Nat} {k : LinkSt} (none : NoneWaits s l) (h : LinkOnly s t l k)
    (out : ∀ f ∈ k.waiting, ∃ g ∈ (s.link l).waiting, g.out = f.out) : NoneWaits t l := by
  have links : t.links = s.links.set l k := congrArg State.links h
  intro x hx f hf
  rw [links] at hx
  obtain rfl | old := Tab.eq_or_mem_of_mem_set hx
  · obtain ⟨g, hg, same⟩ := out f hf
    rw [← same]
    obtain empty | mem := Tab.get_eq_or_mem ({} : LinkSt) s.links l
    · rw [State.link, empty] at hg
      exact absurd hg List.not_mem_nil
    · exact none _ mem g hg
  · exact none x old f hf

/-! ### The states of a port (R335 to R340, R495) -/

section
variable {s : State} (l : LinkId)

theorem enable_open (live : s.house.fencedLinks.contains l.val = false) (off : (s.link l).ctrl.getLsbD 0 = false) :
    s.enableLink l = s.setLink l { s.link l with
      ctrl := (s.link l).ctrl ||| 1, state := .training, control := none, retrains := 0, retrainAt := [], nextSeq := 0, expected := 0 } :=
  if_neg (not_or.2 ⟨by rw [live]; decide, by rw [off]; decide⟩)

theorem disable_open (live : s.house.fencedLinks.contains l.val = false) : (s.disableLink l) =
    (s.setLink l { s.link l with ctrl := (s.link l).ctrl &&& ~~~1, state := .disabled }).loseLink l :=
  if_neg (by rw [live]; decide)

/-- R339: what a disabled port leaves. -/
theorem disable_lost (live : s.house.fencedLinks.contains l.val = false) : ((s.disableLink l).link l).state = .disabled ∧
    ((s.disableLink l).link l).ctrl = (s.link l).ctrl &&& ~~~1 ∧ Lost s (s.disableLink l) l := by
  rw [disable_open l live]
  obtain ⟨ctrl, state⟩ := (State.loseLink_steady (s.setLink l { s.link l with ctrl := (s.link l).ctrl &&& ~~~1, state := .disabled }) l).port l
  rw [State.link_setLink] at ctrl state
  exact ⟨state, ctrl, lost_of_closed rfl (by rw [State.link_setLink]) (by rw [State.link_setLink]; rfl)⟩

/-- The two ends agree (R338). -/
theorem compatible_iff (s : State) (f : Nat) : compatible s.controlBody f = true ↔ f / 2 ^ 16 % 2 ^ 8 = 1 ∧
    f / 2 ^ 32 % 2 ^ 8 ≤ s.controlBody / 2 ^ 24 % 2 ^ 8 ∧ s.controlBody / 2 ^ 32 % 2 ^ 8 ≤ f / 2 ^ 24 % 2 ^ 8 ∧ f % 2 ^ 12 ≠ s.ownPeer := by
  have peer : s.ownPeer < 2 ^ 12 := Nat.mod_lt _ (by decide)
  have fields : s.controlBody % 2 ^ 12 = s.ownPeer ∧ s.controlBody / 2 ^ 16 % 2 ^ 8 = 1 := by
    unfold State.controlBody
    dsimp only
    omega
  obtain ⟨own, major⟩ := fields
  simp only [compatible, bitsOf_eq_div, Bool.and_eq_true, decide_eq_true_eq, Nat.reduceAdd, Nat.reduceSub, Nat.pow_zero, Nat.div_one, and_assoc,
    own, major, ne_eq]

/-- The port as it becomes ACTIVE (R337). -/
def LinkSt.activated (k : LinkSt) : LinkSt :=
  { k with state := .active, nextSeq := 0, expected := 0, credits := [], freedSeen := [], freed := [], retry := [], resend := none,
           resends := 0, nakDue := false, nakSent := false, rotate := 0, waiting := k.waiting.map (fun f => { f with owed := false }) }

theorem trainingDone_active {gap : Nat} {far : BitVec 1952} (config : (s.link l).state = .config) (control : (s.link l).control = some far)
    (agree : compatible s.controlBody far.toNat = true) : exec (.linkTrainingDone l gap) s =
      .next (((s.linkTick l gap).setLink l (tickedLink s l gap).activated).forwards l) := by
  have ticks := linkOnly_ticked s l gap
  have own : (s.linkTick l gap).controlBody = s.controlBody := linkOnly_read ticks State.controlBody
  show execLinkTrainingDone l gap s = _
  unfold execLinkTrainingDone
  simp only [linkOnly_link ticks, tickedLink, config, control, own, agree, if_true]
  rfl

theorem trainingDone_incompatible {gap : Nat} {far : BitVec 1952} (config : (s.link l).state = .config)
    (control : (s.link l).control = some far) (differ : compatible s.controlBody far.toNat = false) : exec (.linkTrainingDone l gap) s =
      .next ((((s.linkTick l gap).setLink l { tickedLink s l gap with state := .incompatible }).loseLink l).raise 0x41
        [wd l, wd (bitsOf s.controlBody 47 0), 0, wd (bitsOf far.toNat 47 0), 0]) := by
  have ticks := linkOnly_ticked s l gap
  have own : (s.linkTick l gap).controlBody = s.controlBody := linkOnly_read ticks State.controlBody
  show execLinkTrainingDone l gap s = _
  unfold execLinkTrainingDone
  simp only [linkOnly_link ticks, tickedLink, config, control, own, differ, Bool.false_eq_true, if_false]

theorem retrainDone {gap : Nat} (retrain : (s.link l).state = .retrain) : exec (.linkRetrainDone l gap) s =
    .next ((s.linkTick l gap).setLink l { tickedLink s l gap with
      state := .active, resend := if (s.link l).retry = [] then none else some 0 }) := by
  have empty : (s.link l).retry.isEmpty = true ↔ (s.link l).retry = [] := List.isEmpty_iff
  show execLinkRetrainDone l gap s = _
  unfold execLinkRetrainDone
  simp only [linkOnly_link (linkOnly_ticked s l gap), tickedLink, retrain, ne_eq, not_true_eq_false, if_false, empty]

theorem standbyExit {gap : Nat} {far : Bool} (standby : (s.link l).state = .standby) : exec (.linkStandbyExit l gap far) s =
    .next (if far = true ∨ (s.link l).egress ≠ [] ∨ (s.link l).retry ≠ [] then
      (s.linkTick l gap).setLink l { tickedLink s l gap with state := .active } else s) := by
  show execLinkStandbyExit l gap far s = _
  unfold execLinkStandbyExit
  simp only [linkOnly_link (linkOnly_ticked s l gap), tickedLink, standby, true_and]

theorem responseTimeout {gap : Nat} {o : Outstanding} (late : (s.link l).outstanding.find? (fun o => o.since.any fun c =>
      decide (c + (s.link l).ctrl.toNat / 4 % 2 ^ 24 * 1024 ≤ ((s.link l).cycle + gap) % 2 ^ 64)) = some o) :
    exec (.linkResponseTimeout l gap) s = .next ((((s.linkTick l gap).setLink l { tickedLink s l gap with
      outstanding := (s.link l).outstanding.filter fun x => x ≠ o }).lost o.txns).raise 0x43 [wd (l + o.tag * 65536), wd o.dva]) := by
  show execLinkResponseTimeout l gap s = _
  unfold execLinkResponseTimeout
  have window : bitsOf (s.link l).ctrl.toNat 25 2 = (s.link l).ctrl.toNat / 4 % 2 ^ 24 := bitsOf_eq_div _ _ _
  simp only [linkOnly_link (linkOnly_ticked s l gap), tickedLink, window, late]

/-- The times of a port's retrains that still count (R335). -/
def LinkSt.retrainsNow (k : LinkSt) : List Nat := (k.retrainAt ++ [k.cycle]).filter fun c => decide (k.cycle < c + 2 ^ 30)
/-- A port that retrains, or fails. -/
def LinkSt.retraining (k : LinkSt) (x : LinkState) : LinkSt :=
  { k with state := x, retrains := min 255 (k.retrains + 1), retrainAt := k.retrainsNow, resend := none, resends := 0 }

theorem enterRetrain_few {u : State} (few : (u.link l).retrainsNow.length < 3) :
    u.enterRetrain l = u.setLink l ((u.link l).retraining .retrain) := if_neg (Nat.not_le.2 few)

theorem enterRetrain_fault {u : State} (many : 3 ≤ (u.link l).retrainsNow.length) : u.enterRetrain l =
    ((u.takeFree.2.setLink l ((u.link l).retraining .fault)).loseLink l).raise 0x40
      [wd (l + bitsOf u.takeFree.1.toNat 7 0 * 256), wd (u.link l).retry.length] := if_pos many

end

/-- The words of an occurrence that name a port. -/
theorem port_of_word (l : LinkId) (c : Nat) : (wd (l + bitsOf c 7 0 * 256)).toNat % 256 = l.val := by
  have port := l.isLt
  have byte : bitsOf c 7 0 < 256 := Nat.mod_lt _ (by decide)
  rw [wd, BitVec.toNat_ofNat]
  omega

/-- Losing a link after a change of its port. -/
theorem closed_port {s u : State} {l : LinkId} {k : LinkSt} (pool : u.txns = s.txns) (outstanding : k.outstanding = (s.link l).outstanding)
    (closed : k.state.carries = false) :
    (((u.setLink l k).loseLink l).link l).state = k.state ∧ Lost s ((u.setLink l k).loseLink l) l := by
  refine ⟨?_, lost_of_closed pool (by rw [State.link_setLink, outstanding]) (by rw [State.link_setLink, closed])⟩
  rw [((State.loseLink_steady (u.setLink l k) l).port l).2, State.link_setLink]

theorem lost_raise {s t : State} {l : Nat} (h : Lost s t l) (code : Nat) (ws : List Word) : Lost s (t.raise code ws) l := h

/-- An event after a port has lost its link. -/
theorem raise_after {s u : State} {l : Nat} {x : LinkState} (state : ((u.loseLink l).link l).state = x) (lost : Lost s (u.loseLink l) l)
    (seen : u.occurrences = s.occurrences) (code : Nat) (ws : List Word) : (((u.loseLink l).raise code ws).link l).state = x ∧
    Lost s ((u.loseLink l).raise code ws) l ∧ ((u.loseLink l).raise code ws).occurrences = s.occurrences ++ [⟨code, ws⟩] :=
  ⟨state, lost_raise lost code ws, congrArg (fun os : List Occurrence => os ++ [⟨code, ws⟩]) ((loseLink_occurrences u l).trans seen)⟩

/-- The end of the accesses of a request without a response (R340). -/
theorem timedOut {s u : State} {l : Nat} {k : LinkSt} (h : LinkOnly s u l k) (ids : List Nat) (code : Nat) (ws : List Word) :
    ((u.lost ids).raise code ws).link l = k ∧
    (∀ m ∈ ids, ∀ x, s.txn m = some x → ∃ y, ((u.lost ids).raise code ws).txn m = some y ∧ y.gone) ∧
    (∀ m, m ∉ ids → ((u.lost ids).raise code ws).txn m = s.txn m) ∧
    ((u.lost ids).raise code ws).occurrences = s.occurrences ++ [⟨code, ws⟩] := by
  have pool (m : Nat) : u.txn m = s.txn m := linkOnly_read h (State.txn · m)
  refine ⟨?_, fun m mem x found => ?_, fun m other => ?_, ?_⟩
  · exact (congrArg (fun ls : Tab LinkSt => Tab.get ({} : LinkSt) ls l) (lost_links u ids)).trans (linkOnly_link h)
  · exact lost_txn.2 mem x ((pool m).trans found)
  · exact (lost_txn.1 other).trans (pool m)
  · exact congrArg (fun os : List Occurrence => os ++ [⟨code, ws⟩]) ((lost_occurrences u ids).trans (linkOnly_read h State.occurrences))

/-- Settles O39: each row by the port it leaves (`linkOnly_setLink`); a port that closes by what it loses (`loseLink_lost`). -/
theorem linkStates : Obligations.LinkStates := by
  rintro s l gap k rfl
  have ticks := linkOnly_ticked s l gap
  refine ⟨fun served live => ⟨fun off => ?_, fun on => ?_, ?_⟩, fun far own f config control hown hf => ⟨fun major lower upper differ => ?_, fun apart => ?_⟩,
    fun retrain => ⟨_, retrainDone l retrain, linkOnly_setLink ticks _⟩, fun far standby => ⟨fun held => ?_, fun quiet egress retry => ?_⟩,
    fun o late => ?_, fun k' times state hk' htimes => ?_⟩
  · exact congrArg Host.Outcome.next ((if_pos served).trans (enable_open l live off))
  · exact congrArg Host.Outcome.next ((if_pos served).trans (if_pos (.inr on)))
  · exact ⟨s.disableLink l, congrArg Host.Outcome.next (if_pos served), disable_lost l live⟩
  · subst hown hf
    have active := trainingDone_active (gap := gap) l config control ((compatible_iff s _).2 ⟨major, lower, upper, differ⟩)
    have only := linkOnly_setLink ticks (tickedLink s l gap).activated
    refine ⟨_, active, ?_⟩
    generalize (s.linkTick l gap).setLink l (tickedLink s l gap).activated = u at only ⊢
    have forwarded := forwards_forwards u l
    have port := linkOnly_link only
    refine ⟨(forwarded.read l LinkSt.state).trans (congrArg LinkSt.state port), (forwarded.read l LinkSt.nextSeq).trans (congrArg LinkSt.nextSeq port),
      (forwarded.read l LinkSt.expected).trans (congrArg LinkSt.expected port), (forwarded.read l LinkSt.retry).trans (congrArg LinkSt.retry port),
      fun none => ?_⟩
    rw [forwards_of_none (noneWaits_only none only fun f hf => ?_)]
    · exact only
    · obtain ⟨g, hg, rfl⟩ := List.mem_map.1 hf
      exact ⟨g, hg, rfl⟩
  · subst hown hf
    have differ : compatible s.controlBody far.toNat = false := Bool.eq_false_of_not_eq_true fun agree => by
      obtain ⟨major, lower, upper, peer⟩ := (compatible_iff s _).1 agree
      omega
    obtain ⟨state, lost⟩ := closed_port (s := s) (u := s.linkTick l gap) (l := l) (k := { tickedLink s l gap with state := .incompatible })
      (linkOnly_read ticks State.txns) rfl rfl
    obtain ⟨state, lost, seen⟩ := raise_after state lost (linkOnly_read ticks State.occurrences) 0x41
      [wd l, wd (bitsOf s.controlBody 47 0), 0, wd (bitsOf far.toNat 47 0), 0]
    refine ⟨_, trainingDone_incompatible l config control differ, state, lost, seen.trans ?_⟩
    simp only [bitsOf_eq_div, Nat.reduceAdd, Nat.reduceSub, Nat.pow_zero, Nat.div_one, wd]
  · exact ⟨_, (standbyExit l standby).trans (congrArg Host.Outcome.next (if_pos held)), linkOnly_setLink ticks _⟩
  · exact (standbyExit l standby).trans (congrArg Host.Outcome.next (if_neg (by simp [quiet, egress, retry])))
  · have closed := linkOnly_setLink ticks { tickedLink s l gap with outstanding := (s.link l).outstanding.filter fun x => x ≠ o }
    obtain ⟨port, gone, others, seen⟩ := timedOut closed o.txns 0x43 [wd (l + o.tag * 65536), wd o.dva]
    exact ⟨_, responseTimeout l late, congrArg LinkSt.outstanding port, gone, others, seen⟩
  · subst hk' htimes
    have entered : exec (.fibreUnmated l gap) s = .next ((s.linkTick l gap).enterRetrain l) := congrArg Host.Outcome.next (if_pos state)
    have port := linkOnly_link ticks
    refine ⟨_, entered, fun few => ?_, fun many => ?_⟩
    · rw [enterRetrain_few l (by rw [port]; exact few), port]
      exact linkOnly_setLink ticks _
    · rw [enterRetrain_fault l (by rw [port]; exact many), port]
      obtain ⟨fault, lost⟩ := closed_port (s := s) (u := (s.linkTick l gap).takeFree.2) (l := l) (k := (tickedLink s l gap).retraining .fault)
        (linkOnly_read ticks State.txns) rfl rfl
      obtain ⟨state, lost, seen⟩ := raise_after fault lost (linkOnly_read ticks State.occurrences) 0x40
        [wd (l + bitsOf (s.linkTick l gap).takeFree.1.toNat 7 0 * 256), wd (tickedLink s l gap).retry.length]
      exact ⟨state, lost, _, seen, port_of_word l _⟩

end Sys2Proof.Machine
end

section
/-! A ring whose command service has failed: entries are still fetched, and none of them is ever answered (R412, R424). -/

namespace Sys2Proof.Machine

/-- The module after the watchdog of the command service has expired: both rings 0 enabled, and a poisoned entry to fetch. -/
def commandServiceFailed : State :=
  { State.reset with
    port := { State.reset.port with linkUp := true }, house := { State.reset.house with power := true, dev := .failed, services := [1] },
    sqs := [(0, { cfg := 0x80040000, tail := 1 })], cqs := [(0, { cfg := 0x80040000 })], hostPoison := [0] }

/-- The number of completions that wait for ring 0 after a step. -/
def waitingThen : Out → Option Nat
  | .next t => some (t.cq 0).waiting.length
  | _ => none

theorem commandServiceFailed_answers : waitingThen (exec (.sqEntryFetch 0) commandServiceFailed) = some 0 := by decide +kernel

/-- The entry at the head of ring 0. -/
def poisonedEntry : Cmd :=
  { num := commandServiceFailed.nextCmd, sq := 0, index := 0, entry := BitVec.ofNat 512 (commandServiceFailed.hostMem.le 0 64), bad := true,
    phase := .fetched }

/-- Refutes O40: a poisoned entry is fetched while the command service has failed (`commandServiceFailed`), and no command completes then
(R424): its ring gets no completion of status 7. -/
theorem not_ringsAndEvents : ¬ Obligations.RingsAndEvents := by
  rintro ⟨-, -, fetches, -⟩
  obtain ⟨t, run, -, -, -, answered⟩ := fetches commandServiceFailed 0 _ poisonedEntry 0 (by decide) (fun _ none => absurd none List.not_mem_nil)
    rfl (by decide) (by decide) rfl rfl
  have one := congrArg List.length (answered (.inl rfl) rfl (by decide))
  have zero := commandServiceFailed_answers
  rw [run] at zero
  rw [List.length_append] at one
  have none : (t.cq 0).waiting.length = 0 := Option.some.inj zero
  exact absurd (none.symm.trans one) (by simp)

end Sys2Proof.Machine
end

section
/-! The host's window on the tiers (R404, R405): what a one-step access finds, reads and writes. -/

namespace Sys2Proof.Machine

/-! ### Finding the entry of a page -/

/-- A hop that fails four times loses its block (R257). -/
def ferryLost (free : Nat) (hops : List Hop) : Bool :=
  match Config.hopTrouble free, hops with
  | some (_, n), _ :: _ => decide (n ≥ 4)
  | _, _ => false

theorem ferry_fst (s : State) (hops : List Hop) (addr : Nat) : (s.ferry hops addr).1 = ferryLost s.free hops := by
  unfold State.ferry ferryLost
  cases Config.hopTrouble s.free with
  | none => cases hops <;> rfl
  | some trouble =>
    obtain ⟨i, n⟩ := trouble
    cases hops with
    | nil => rfl
    | cons h0 hs =>
      dsimp only
      split
      · next four => exact (decide_eq_true four).symm
      · next fewer => exact (decide_eq_false fewer).symm

section
variable (s : State)

theorem linkEcc_bedrock_free (k a : Nat) : (s.linkEcc (.bedrock k a)).free = s.free + 1 := by
  rw [State.linkEcc, State.countUnit_free]

theorem bedrockLook_free (k a : Nat) : (s.bedrockLook k a).2.free = s.free := by
  have looked := bedrockLook_onTiers s k a
  unfold OnTiers at looked
  rw [looked]

/-- What the walker finds in the table, and whether the block is lost on its way. -/
theorem tableBlock_fst (g page : Nat) : (s.tableBlock g page).1 = ((s.bedrockLook 0 (8 * page)).1.1,
    (s.bedrockLook 0 (8 * page)).1.2 || ferryLost (s.free + 1) (⟨0x60, 0, true⟩ :: meshHops 0 (g / 16 * 16))) := by
  have free := bedrockLook_free s 0 (8 * page)
  obtain ⟨⟨⟨d, bad⟩, u⟩, eq⟩ : ∃ y, s.bedrockLook 0 (8 * page) = y := ⟨_, rfl⟩
  rw [eq] at free
  rw [State.tableBlock, eq]
  dsimp only
  rw [ferry_fst, linkEcc_bedrock_free, free]

theorem walk_fst (g page : Nat) : (s.walk g page).1 =
    if (s.tableBlock g page).1.2 then none else some ((s.tableBlock g page).1.1.extractLsb' (64 * (page % 8)) 64) := by
  obtain ⟨⟨⟨d, bad⟩, u⟩, eq⟩ : ∃ y, s.tableBlock g page = y := ⟨_, rfl⟩
  rw [State.walk, eq]
  cases bad <;> rfl

theorem bedrockLook_fst (k a : Nat) : (s.bedrockLook k a).1 =
    (blockOf (s.tiers.bedrock.bytes (bedIdx k (a / 64 * 64)) 64), s.tiers.bedBad k a || s.tiers.bedMarked k a) := by
  unfold State.bedrockLook
  cases bad : s.tiers.bedBad k a <;> simp only [Bool.false_eq_true, if_true, if_false, Bool.true_or, Bool.false_or]

theorem cached_none (g page : Nat) (miss : (s.cached g page).1 = none) : (s.cached g page).2 = s := by
  unfold State.cached at miss ⊢
  split
  · next e hit => rw [hit] at miss; exact nomatch miss
  · next none =>
    split
    · next e hit => rw [none, hit] at miss; exact nomatch miss
    · rfl

theorem entryOf_eq (g page : Nat) : s.entryOf g page = if (s.cached g page).1 = none then s.walk g page else s.cached g page := by
  have missed := cached_none s g page
  unfold State.entryOf
  split
  · next e t hit => rw [hit, if_neg nofun]
  · next t miss =>
    rw [miss] at missed
    obtain rfl : t = s := missed rfl
    rw [miss, if_pos rfl]

/-- What was counted does not change what is found. -/
theorem entryOf_counted (g page : Nat) (counters : Tab GauCounter) (bw : Tab Nat) :
    (({ s with unitCounters := counters, bwNow := bw } : State).entryOf g page).1 = (s.entryOf g page).1 := by
  rw [entryOf_eq, entryOf_eq]
  have cached : (({ s with unitCounters := counters, bwNow := bw } : State).cached g page).1 = (s.cached g page).1 := by
    rw [cached_entry, cached_entry]; rfl
  have look : (({ s with unitCounters := counters, bwNow := bw } : State).bedrockLook 0 (8 * page)).1 = (s.bedrockLook 0 (8 * page)).1 := by
    rw [bedrockLook_fst, bedrockLook_fst]
  have block : (({ s with unitCounters := counters, bwNow := bw } : State).tableBlock g page).1 = (s.tableBlock g page).1 := by
    rw [tableBlock_fst, tableBlock_fst, look]
  rw [cached]
  split
  · rw [walk_fst, walk_fst, block]
  · exact cached

theorem bedrockLook_sound (k a : Nat) (sound : s.tiers.bedBad k a = false) :
    s.bedrockLook k a = ((blockOf (s.tiers.bedrock.bytes (bedIdx k (a / 64 * 64)) 64), s.tiers.bedMarked k a), s) := by
  unfold State.bedrockLook
  simp only [sound, Bool.false_eq_true, if_false]

theorem ferry_txns (hops : List Hop) (addr : Nat) : (s.ferry hops addr).2.txns = s.txns := by
  have counted (u i n : Nat) : (({ s with free := s.free + 1 } : State).countUnit u i n).txns = s.txns :=
    (countUnit_counted _ u i n).read State.txns
  unfold State.ferry
  split
  · dsimp only
    split
    · exact counted _ _ _
    · exact counted _ _ _
  · rfl

/-- A table block that is not delivered poisoned leaves the tiers and the pool as they are. -/
theorem tableBlock_tiers (g page : Nat) (good : (s.tableBlock g page).1.2 = false) :
    (s.tableBlock g page).2.tiers = s.tiers ∧ (s.tableBlock g page).2.txns = s.txns := by
  rw [tableBlock_fst, Bool.or_eq_false_iff] at good
  have looked := bedrockLook_sound s 0 (8 * page) (by
    have sound := good.1
    rw [bedrockLook_fst, Bool.or_eq_false_iff] at sound
    exact sound.1)
  rw [State.tableBlock, looked]
  exact ⟨(State.ferry_sends _ _ _).tiers.trans ((s.linkEcc_counted _).read State.tiers),
    (ferry_txns _ _ _).trans ((s.linkEcc_counted _).read State.txns)⟩

/-- An entry that is found leaves the data of the tiers and the pool as they were. -/
theorem entryOf_stores (g page : Nat) (found : (s.entryOf g page).1 ≠ none) :
    (s.entryOf g page).2.tiers.shale = s.tiers.shale ∧ (s.entryOf g page).2.tiers.bedrock = s.tiers.bedrock ∧
    (s.entryOf g page).2.txns = s.txns := by
  rw [entryOf_eq] at found ⊢
  split at found
  · next miss =>
    rw [if_pos miss]
    rw [walk_fst] at found
    have good : (s.tableBlock g page).1.2 = false := by
      cases bad : (s.tableBlock g page).1.2
      · rfl
      · exact absurd (by rw [bad]; rfl) found
    obtain ⟨tiers, pool⟩ := tableBlock_tiers s g page good
    have filled : CachesUsed (s.tableBlock g page).2 (s.walk g page).2 := by
      obtain ⟨⟨⟨d, bad⟩, u⟩, eq⟩ : ∃ y, s.tableBlock g page = y := ⟨_, rfl⟩
      rw [eq] at good
      obtain rfl : bad = false := good
      rw [State.walk, eq]
      refine (CachesUsed.trans ?_ (useWalker_cachesUsed ..)).trans (useGuild_cachesUsed ..)
      exact List.foldlRecOn _ _ rfl fun _ ht _ _ => CachesUsed.trans ht (useWalker_cachesUsed ..)
    exact ⟨(filled.read (·.tiers.shale)).trans (congrArg Tiers.shale tiers), (filled.read (·.tiers.bedrock)).trans (congrArg Tiers.bedrock tiers),
      (filled.read State.txns).trans pool⟩
  · next hit =>
    rw [if_neg hit]
    have used := cached_cachesUsed s g page
    exact ⟨used.read (·.tiers.shale), used.read (·.tiers.bedrock), used.read State.txns⟩

end

/-! ### A block of a tier read through the window -/

theorem inTier_counted {s : State} {g master dva : Nat} {write window : Bool} {l : Loc} {bad : Bool} (h : InTier s g master dva write window l bad)
    (u i n : Nat) : InTier (s.countUnit u i n) g master dva write window l bad := by
  obtain ⟨small, aligned, judged, tier⟩ := h
  obtain ⟨counters, bw, eq⟩ := countUnit_eq (s := s) u i n
  rw [eq]
  refine ⟨small, aligned, ?_, tier⟩
  rw [entryOf_counted]
  exact judged

section
variable {s : State} {src : Src} {master dva : Nat} {write window : Bool} {l : Loc} {bad : Bool}

/-- The verdict of an access to a tier, after its entry has been looked up. -/
theorem judge_after (h : InTier s src.guild master dva write window l bad) :
    (s.entryOf src.guild (dva / 65536)).2.judge (s.entryOf src.guild (dva / 65536)).1 master dva write window = .go l bad := by
  obtain ⟨-, -, judged, -⟩ := h
  rw [← judged]
  exact (s.entryOf_looks src.guild (dva / 65536)).afar.read fun t => t.judge _ master dva write window

theorem inTier_found (h : InTier s src.guild master dva write window l bad) : (s.entryOf src.guild (dva / 65536)).1 ≠ none := fun none => by
  obtain ⟨-, -, judged, -⟩ := h
  rw [none] at judged
  exact nomatch judged

/-- A read of a tier's block in one step: the block as it lies there, and what its way adds (R249 to R257). -/
theorem readBlock_tier (h : InTier s src.guild master dva false window l bad) : ∃ u m, s.readBlock src master dva window =
      (.data ((s.entryOf src.guild (dva / 65536)).2.readAt l).1.1 m, u) ∧
    (bad = true → m = true) ∧ (((s.entryOf src.guild (dva / 65536)).2.readAt l).1.2 = true → m = true) ∧
    Looks ((s.entryOf src.guild (dva / 65536)).2.readAt l).2 u ∧
    u.tiers = ((s.entryOf src.guild (dva / 65536)).2.readAt l).2.tiers := by
  have judged := judge_after h
  obtain ⟨small, aligned, -, tier⟩ := h
  have block : dva / 64 * 64 = dva := by omega
  obtain ⟨e, v, look⟩ : ∃ e v, s.entryOf src.guild (dva / 65536) = (e, v) := ⟨_, _, rfl⟩
  rw [look] at judged ⊢
  obtain ⟨⟨d, m⟩, w, eq⟩ : ∃ dm w, v.readAt l = (dm, w) := ⟨_, _, rfl⟩
  rw [eq]
  refine ⟨(w.carried src l dva false).2, m || bad || (w.carried src l dva false).1, ?_, fun hb => by rw [hb, Bool.or_true, Bool.true_or],
    fun (hm : m = true) => by rw [hm, Bool.true_or, Bool.true_or], w.carried_looks src l dva false,
    (State.ferry_sends _ _ _).tiers.trans ((w.linkEcc_counted l).read State.tiers)⟩
  rw [State.readBlock, block, if_neg (Nat.not_le.2 small), look]
  obtain ⟨k, a, rfl⟩ | ⟨k, a, rfl⟩ := tier
  · simp only [judged, eq]
  · simp only [judged, eq]

/-- A write of a tier's block in one step, when no earlier access of its source is on its way there. -/
theorem writeBlock_tier (h : InTier s src.guild master dva true window l bad) (first : ∀ u ∈ s.txns, u.src ≠ src) (cls : Nat) (runs : Runs) :
    ∃ v, Looks (s.entryOf src.guild (dva / 65536)).2 v ∧ v.tiers = (s.entryOf src.guild (dva / 65536)).2.tiers ∧
      ((s.writeBlock src master cls dva window runs).2 = v.writeAt runs l ∨
       (s.writeBlock src master cls dva window runs).2 = v.writeAt (runs.map fun r => (r.1, r.2.map fun x => (x.1, true))) l) := by
  have judged := judge_after h
  have found := inTier_found h
  obtain ⟨small, aligned, -, tier⟩ := h
  have block : dva / 64 * 64 = dva := by omega
  obtain ⟨-, -, pool⟩ := entryOf_stores s src.guild (dva / 65536) found
  obtain ⟨e, v, look⟩ : ∃ e v, s.entryOf src.guild (dva / 65536) = (e, v) := ⟨_, _, rfl⟩
  rw [look] at judged pool ⊢
  have none (l : Loc) : v.passes src cls l = false := List.any_eq_false.2 fun u hu => by
    have other : u.src ≠ src := first u ((congrArg (u ∈ ·) pool).mp hu)
    simp only [other, decide_false, Bool.false_and, Bool.false_eq_true, not_false_eq_true]
  refine ⟨(v.carried src l dva true).2, v.carried_looks src l dva true,
    (State.ferry_sends _ _ _).tiers.trans ((v.linkEcc_counted l).read State.tiers), ?_⟩
  obtain ⟨lost, w, carried⟩ : ∃ lost w, v.carried src l dva true = (lost, w) := ⟨_, _, rfl⟩
  rw [State.writeBlock, block, if_neg (Nat.not_le.2 small), look]
  obtain ⟨k, a, rfl⟩ | ⟨k, a, rfl⟩ := tier
  all_goals
    simp only [judged, none, carried, Bool.false_eq_true, if_false]
    cases lost
    · exact .inl rfl
    · exact .inr rfl

end

end Sys2Proof.Machine
end

section
/-! Masked writes of a block (R404): the runs of a byte mask, and what they leave in the tiers. -/

namespace Sys2Proof.Machine

/-! ### Runs of a byte mask -/

/-- Every byte of the runs is the byte `f` gives for its offset, an offset below `n` that `p` has. -/
def RunsGive (runs : Runs) (n : Nat) (p : Nat → Bool) (f : Nat → Byte) : Prop :=
  ∀ r ∈ runs, ∀ i x, r.2[i]? = some x → r.1 + i < n ∧ p (r.1 + i) = true ∧ x.1 = f (r.1 + i)
/-- Offset `j` lies in one of the runs. -/
def RunsCover (runs : Runs) (j : Nat) : Prop := ∃ r ∈ runs, r.1 ≤ j ∧ j < r.1 + r.2.length

theorem withRuns_wf {m : Mem} (h : Mem.wf m = true) (a : Nat) (runs : Runs) : Mem.wf (withRuns m a runs) = true :=
  List.foldlRecOn (motive := fun m : Mem => Mem.wf m = true) _ _ h fun _ hm _ _ => Mem.wf_wrBytes _ _ hm

theorem withRuns_apart {a y : Nat} : ∀ {runs : Runs} {m : Mem}, Mem.wf m = true → (∀ j, y = a + j → ¬ RunsCover runs j) →
    (withRuns m a runs).rd y = m.rd y
  | [], _, _, _ => rfl
  | r :: rs, m, wf, apart => by
    have later : ∀ j, y = a + j → ¬ RunsCover rs j := fun j hj ⟨x, hx, inside⟩ => apart j hj ⟨x, List.mem_cons_of_mem r hx, inside⟩
    have out : y < a + r.1 ∨ a + r.1 + (r.2.map (·.1)).length ≤ y := by
      by_contra inside
      rw [List.length_map, not_or, Nat.not_lt, Nat.not_le] at inside
      exact apart (y - a) (by omega) ⟨r, List.mem_cons_self, by omega, by omega⟩
    exact (withRuns_apart (Mem.wf_wrBytes _ _ wf) later).trans (Mem.rd_wrBytes_ne _ _ _ wf out)

theorem withRuns_at {a j n : Nat} {p : Nat → Bool} {f : Nat → Byte} : ∀ {runs : Runs} {m : Mem}, Mem.wf m = true → RunsGive runs n p f →
    RunsCover runs j → (withRuns m a runs).rd (a + j) = f j
  | [], _, _, _, ⟨_, mem, _⟩ => absurd mem List.not_mem_nil
  | r :: rs, m, wf, give, cover => by
    have rest : RunsGive rs n p f := fun x hx => give x (List.mem_cons_of_mem r hx)
    have next : Mem.wf (m.wrBytes (a + r.1) (r.2.map (·.1))) = true := Mem.wf_wrBytes _ _ wf
    by_cases later : RunsCover rs j
    · exact withRuns_at (m := m.wrBytes (a + r.1) (r.2.map (·.1))) next rest later
    · obtain ⟨x, hx, low, high⟩ := cover
      obtain rfl | hx := List.mem_cons.1 hx
      · obtain ⟨i, rfl⟩ := Nat.exists_eq_add_of_le low
        have hi : i < x.2.length := by omega
        obtain ⟨-, -, byte⟩ := give x List.mem_cons_self i _ (List.getElem?_eq_getElem hi)
        refine (withRuns_apart next fun k hk => ?_).trans ?_
        · obtain rfl : x.1 + i = k := by omega
          exact later
        · rw [← Nat.add_assoc, Mem.rd_wrBytes_at _ _ i wf (by rw [List.length_map]; exact hi), List.getElem_map, byte]
      · exact absurd ⟨x, hx, low, high⟩ later

/-- One offset of a mask. -/
def maskStep (mask : Nat) (data : BitVec 512) (mark : Bool) (acc : Runs) (i : Nat) : Runs :=
  if !mask.testBit i then acc
  else match acc with
    | (o, l) :: t => if o + l.length = i then (o, l ++ [(data.extractLsb' (8 * i) 8, mark)]) :: t else (i, [(data.extractLsb' (8 * i) 8, mark)]) :: acc
    | [] => [(i, [(data.extractLsb' (8 * i) 8, mark)])]

theorem maskRuns_eq (mask : Nat) (data : BitVec 512) (mark : Bool) :
    maskRuns mask data mark = ((List.range 64).foldl (maskStep mask data mark) []).reverse := rfl

section
variable (mask : Nat) (data : BitVec 512) (mark : Bool)

theorem give_single (n : Nat) (h : mask.testBit n = true) :
    RunsGive [(n, [(data.extractLsb' (8 * n) 8, mark)])] (n + 1) mask.testBit fun j => data.extractLsb' (8 * j) 8 := by
  intro r hr i x hx
  obtain rfl := List.mem_singleton.1 hr
  cases i with
  | zero =>
    obtain rfl := Option.some.inj hx
    exact ⟨Nat.lt_succ_self n, h, rfl⟩
  | succ i => exact nomatch hx

theorem RunsGive.mono {runs : Runs} {n m : Nat} {p : Nat → Bool} {f : Nat → Byte} (h : RunsGive runs n p f) (le : n ≤ m) : RunsGive runs m p f :=
  fun r hr i x hx => ⟨Nat.lt_of_lt_of_le (h r hr i x hx).1 le, (h r hr i x hx).2⟩

theorem RunsGive.cons {r : Nat × List (Byte × Bool)} {rs : Runs} {n : Nat} {p : Nat → Bool} {f : Nat → Byte} (h : RunsGive [r] n p f)
    (h' : RunsGive rs n p f) : RunsGive (r :: rs) n p f := fun x hx => by
  obtain rfl | hx := List.mem_cons.1 hx
  · exact h x List.mem_cons_self
  · exact h' x hx

theorem maskStep_gives {n : Nat} {acc : Runs} (give : RunsGive acc n mask.testBit fun j => data.extractLsb' (8 * j) 8)
    (cover : ∀ j < n, mask.testBit j = true → RunsCover acc j) :
    RunsGive (maskStep mask data mark acc n) (n + 1) mask.testBit (fun j => data.extractLsb' (8 * j) 8) ∧
      ∀ j < n + 1, mask.testBit j = true → RunsCover (maskStep mask data mark acc n) j := by
  have old {j : Nat} (hj : j < n + 1) (other : j ≠ n) (bit : mask.testBit j = true) : RunsCover acc j := cover j (by omega) bit
  unfold maskStep
  cases bit : mask.testBit n
  · refine ⟨give.mono (Nat.le_succ n), fun j hj hbit => old hj (fun same => ?_) hbit⟩
    rw [same, bit] at hbit
    exact nomatch hbit
  · have single := give_single mask data mark n bit
    have fresh : RunsCover [(n, [(data.extractLsb' (8 * n) 8, mark)])] n := ⟨_, List.mem_singleton_self _, Nat.le_refl n, Nat.lt_succ_self n⟩
    rw [if_neg (by decide)]
    cases acc with
    | nil =>
      refine ⟨single, fun j hj hbit => ?_⟩
      by_cases same : j = n
      · exact same ▸ fresh
      · obtain ⟨r, hr, -⟩ := old hj same hbit
        exact absurd hr List.not_mem_nil
    | cons r rs =>
      obtain ⟨o, l⟩ := r
      dsimp only
      split
      · next joins =>
        refine ⟨.cons (fun x hx i y hy => ?_) fun x hx => give.mono (Nat.le_succ n) x (List.mem_cons_of_mem _ hx), fun j hj hbit => ?_⟩
        · obtain rfl := List.mem_singleton.1 hx
          rw [List.getElem?_append] at hy
          split at hy
          · exact give.mono (Nat.le_succ n) _ List.mem_cons_self i y hy
          · next past =>
            have last : i = l.length := by
              have := (List.getElem?_eq_some_iff.1 hy).1
              simp only [List.length_singleton] at this
              omega
            subst last
            rw [Nat.sub_self] at hy
            have place : o + l.length = n := joins
            obtain rfl := Option.some.inj hy
            show o + l.length < n + 1 ∧ mask.testBit (o + l.length) = true ∧ _ = data.extractLsb' (8 * (o + l.length)) 8
            rw [place]
            exact ⟨Nat.lt_succ_self n, bit, rfl⟩
        · by_cases same : j = n
          · exact ⟨_, List.mem_cons_self, by dsimp only; omega, by dsimp only; rw [List.length_append, List.length_singleton]; omega⟩
          · obtain ⟨x, hx, low, high⟩ := old hj same hbit
            obtain rfl | hx := List.mem_cons.1 hx
            · exact ⟨_, List.mem_cons_self, low, by dsimp only at high ⊢; rw [List.length_append]; omega⟩
            · exact ⟨x, List.mem_cons_of_mem _ hx, low, high⟩
      · refine ⟨single.cons (give.mono (Nat.le_succ n)), fun j hj hbit => ?_⟩
        by_cases same : j = n
        · exact ⟨_, List.mem_cons_self, Nat.le_of_eq same.symm, by rw [same]; exact Nat.lt_succ_self n⟩
        · obtain ⟨x, hx, inside⟩ := old hj same hbit
          exact ⟨x, List.mem_cons_of_mem _ hx, inside⟩

/-- The runs of a mask write the masked bytes, and no others. -/
theorem maskRuns_gives : RunsGive (maskRuns mask data mark) 64 mask.testBit (fun j => data.extractLsb' (8 * j) 8) ∧
    ∀ j < 64, mask.testBit j = true → RunsCover (maskRuns mask data mark) j := by
  have all (n : Nat) : RunsGive ((List.range n).foldl (maskStep mask data mark) []) n mask.testBit (fun j => data.extractLsb' (8 * j) 8) ∧
      ∀ j < n, mask.testBit j = true → RunsCover ((List.range n).foldl (maskStep mask data mark) []) j := by
    induction n with
    | zero => exact ⟨fun r hr => absurd hr List.not_mem_nil, fun j hj => absurd hj (Nat.not_lt_zero j)⟩
    | succ n ih =>
      rw [List.range_succ, List.foldl_append]
      exact maskStep_gives mask data mark ih.1 ih.2
  rw [maskRuns_eq]
  refine ⟨fun r hr => (all 64).1 r (List.mem_reverse.1 hr), fun j hj bit => ?_⟩
  obtain ⟨r, hr, inside⟩ := (all 64).2 j hj bit
  exact ⟨r, List.mem_reverse.2 hr, inside⟩

theorem withRuns_mask {m : Mem} (wf : Mem.wf m = true) (a y : Nat) : (withRuns m a (maskRuns mask data mark)).rd y =
    if a ≤ y ∧ y - a < 64 ∧ mask.testBit (y - a) = true then data.extractLsb' (8 * (y - a)) 8 else m.rd y := by
  obtain ⟨give, cover⟩ := maskRuns_gives mask data mark
  split
  · next inside =>
    obtain ⟨j, rfl⟩ := Nat.exists_eq_add_of_le inside.1
    rw [Nat.add_sub_cancel_left] at inside ⊢
    exact withRuns_at wf give (cover j inside.2.1 inside.2.2)
  · next outside =>
    refine withRuns_apart wf fun j hj ⟨r, hr, low, high⟩ => outside ?_
    obtain ⟨i, rfl⟩ := Nat.exists_eq_add_of_le low
    obtain ⟨small, bit, -⟩ := give r hr i _ (List.getElem?_eq_getElem (show i < r.2.length by omega))
    subst hj
    rw [Nat.add_sub_cancel_left]
    exact ⟨Nat.le_add_right _ _, small, bit⟩

end

/-- Marks do not change the bytes that are written. -/
theorem withRuns_marked (a : Nat) : ∀ (runs : Runs) (m : Mem),
    withRuns m a (runs.map fun r => (r.1, r.2.map fun x => (x.1, true))) = withRuns m a runs
  | [], _ => rfl
  | r :: rs, m => by
    have bytes : (r.2.map fun x => (x.1, true)).map (·.1) = r.2.map (·.1) := by
      rw [List.map_map]; rfl
    show withRuns (m.wrBytes (a + r.1) ((r.2.map fun x => (x.1, true)).map (·.1))) a _ = withRuns (m.wrBytes (a + r.1) (r.2.map (·.1))) a rs
    rw [bytes]
    exact withRuns_marked a rs _

/-! ### Writes of a block (R261, R266) -/

theorem store_writes_data (i : Nat) : ∀ (runs : Runs) (st : Store),
    (runs.foldl (fun (st : Store) r => st.write (i + r.1) r.2) st).data = withRuns st.data i runs
  | [], _ => rfl
  | r :: rs, st => (store_writes_data i rs (st.write (i + r.1) r.2)).trans (congrArg (withRuns · i rs) (Store.write_data st _ _))

theorem countUnit_tiers (s : State) (u i n : Nat) : (s.countUnit u i n).tiers = s.tiers := (countUnit_onTiers s u i n).2

theorem shaleRead_shale (s : State) (g a : Nat) :
    (s.shaleRead g a).2.tiers.shale = (s.tiers.shale.afterRead (g * 2 ^ 29 + a / 64 * 64) 64).1 := by
  have counted (u : State) (v i n w j k : Nat) : ((u.countUnit v i n).countUnit w j k).tiers = u.tiers := by
    rw [countUnit_tiers, countUnit_tiers]
  unfold State.shaleRead
  dsimp only
  split
  · exact congrArg Tiers.shale (counted _ _ _ _ _ _ _)
  · exact congrArg Tiers.shale (counted _ _ _ _ _ _ _)

theorem shaleWrite_shale (s : State) (g a : Nat) (runs : Runs) :
    (s.shaleWrite g a runs).tiers.shale.data = withRuns s.tiers.shale.data (g * 2 ^ 29 + a / 64 * 64) runs := by
  unfold State.shaleWrite
  dsimp only
  rw [countUnit_tiers]
  refine (store_writes_data _ runs _).trans (congrArg (withRuns · _ runs) ?_)
  split
  · rw [shaleRead_shale, store_afterRead_data]
  · rfl

/-- A block write to Bedrock: its bytes, and a check. -/
theorem bedrockWrite_bedrock (s : State) (k a : Nat) (runs : Runs) : ∃ m bad, (m = s.tiers.bedrock ∨ m = withCheck s.tiers.bedrock k a true) ∧
    (s.bedrockWrite k a runs).tiers.bedrock = withCheck (withRuns m (bedIdx k (a / 64 * 64)) runs) k a bad := by
  have looked : (s.bedrockLook k a).2.tiers.bedrock = s.tiers.bedrock ∨
      (s.bedrockLook k a).2.tiers.bedrock = withCheck s.tiers.bedrock k a true := by
    unfold State.bedrockLook
    dsimp only
    split
    · exact .inr rfl
    · exact .inl rfl
  obtain ⟨y, u, look⟩ : ∃ y u, s.bedrockLook k a = (y, u) := ⟨_, _, rfl⟩
  rw [look] at looked
  unfold State.bedrockWrite
  dsimp only
  rw [countUnit_tiers, look]
  split
  · exact ⟨s.tiers.bedrock, _, .inl rfl, rfl⟩
  · exact ⟨u.tiers.bedrock, _, looked, rfl⟩

theorem withCheck_apart {m : Mem} (wf : Mem.wf m = true) {k a y : Nat} (bad : Bool) (apart : y < checkIdx k a ∨ checkIdx k a + 2 ≤ y) :
    (withCheck m k a bad).rd y = m.rd y := Mem.rd_wrBytes_ne _ _ _ wf (by rw [natLe_length]; exact apart)

theorem bedrockWrite_mask {s : State} (wf : Mem.wf s.tiers.bedrock = true) (k a : Nat) {mask : Nat} {data : BitVec 512} {mark : Bool} {runs : Runs}
    (hruns : ∀ m i, withRuns m i runs = withRuns m i (maskRuns mask data mark)) {y : Nat}
    (apart : y < checkIdx k a ∨ checkIdx k a + 2 ≤ y) : (s.bedrockWrite k a runs).tiers.bedrock.rd y =
      if bedIdx k (a / 64 * 64) ≤ y ∧ y - bedIdx k (a / 64 * 64) < 64 ∧ mask.testBit (y - bedIdx k (a / 64 * 64)) = true
      then data.extractLsb' (8 * (y - bedIdx k (a / 64 * 64))) 8 else s.tiers.bedrock.rd y := by
  obtain ⟨m, bad, hm, written⟩ := bedrockWrite_bedrock s k a runs
  have canonical : Mem.wf m = true := by
    obtain rfl | rfl := hm
    · exact wf
    · exact withCheck_wf wf k a true
  have same : m.rd y = s.tiers.bedrock.rd y := by
    obtain rfl | rfl := hm
    · rfl
    · exact withCheck_apart wf true apart
  rw [written, withCheck_apart (withRuns_wf canonical _ _) bad apart, hruns, withRuns_mask _ _ _ canonical, same]

end Sys2Proof.Machine
end

section
/-! Reads and writes of the host's window (R404, R405). -/

namespace Sys2Proof.Machine

/-! ### The snoop filter (R405) -/

theorem backInvalidate_frame (s : State) (k : Nat) : ∃ snoop back counters, s.backInvalidate k =
    { s with port := { s.port with snoop := snoop, backInval := back }, unitCounters := counters } := by
  unfold State.backInvalidate
  split
  · obtain ⟨counters, eq⟩ := countUnit_event (s := { s with
      port := { s.port with snoop := s.port.snoop.filter (· ≠ k), backInval := s.port.backInval ++ [k] } }) hifUnit 1 (i := 1) (by decide)
    exact ⟨_, _, counters, eq⟩
  · exact ⟨_, _, _, rfl⟩

theorem recordSnoop_frame (s : State) (k : Nat) : ∃ snoop back counters, s.recordSnoop k =
    { s with port := { s.port with snoop := snoop, backInval := back }, unitCounters := counters } ∧ k ∈ snoop := by
  unfold State.recordSnoop
  dsimp only
  split
  · split
    · next j _ _ =>
      obtain ⟨snoop, back, counters, eq⟩ := backInvalidate_frame { s with port := { s.port with snoop := s.port.snoop.filter (· ≠ k) } } j
      rw [eq]
      exact ⟨snoop ++ [k], back, counters, rfl, List.mem_append_right _ (List.mem_singleton_self k)⟩
    · exact ⟨_, _, _, rfl, List.mem_append_right _ (List.mem_singleton_self k)⟩
  · exact ⟨_, _, _, rfl, List.mem_append_right _ (List.mem_singleton_self k)⟩

theorem snoopAfter_frame (s : State) (l : Loc) (cached : Bool) : ∃ snoop back counters, s.snoopAfter (some l) cached =
      { s with port := { s.port with snoop := snoop, backInval := back }, unitCounters := counters } ∧
    (cached = true → ∀ k, l.snoopKey = some k → k ∈ snoop) ∧ (cached = false → snoop = s.port.snoop) := by
  unfold State.snoopAfter
  cases key : (some l).bind Loc.snoopKey with
  | none => exact ⟨_, _, _, rfl, fun _ k hk => absurd (key.symm.trans hk) nofun, fun _ => rfl⟩
  | some k =>
    cases cached
    · exact ⟨_, _, _, rfl, nofun, fun _ => rfl⟩
    · obtain ⟨snoop, back, counters, eq, mem⟩ := recordSnoop_frame s k
      refine ⟨snoop, back, counters, eq, fun _ j hj => ?_, nofun⟩
      obtain rfl : k = j := Option.some.inj (key.symm.trans hj)
      exact mem

/-! ### Window reads (R404) -/

theorem readAt_shale (s : State) (g b : Nat) : (s.readAt (.shale g b)).1 =
    (blockOf (s.tiers.shale.data.bytes (g * 2 ^ 29 + b / 64 * 64) 64),
     (s.readAt (.shale g b)).2.tiers.shale.marked (g * 2 ^ 29 + b / 64 * 64) 64) := by
  have store : (s.readAt (.shale g b)).2.tiers.shale = _ := shaleRead_shale s g b
  rw [store, ← store_afterRead_data s.tiers.shale (g * 2 ^ 29 + b / 64 * 64) 64]
  rfl

theorem readAt_bedrock (s : State) (k b : Nat) : (s.readAt (.bedrock k b)).1 =
    (blockOf (s.tiers.bedrock.bytes (bedIdx k (b / 64 * 64)) 64), s.tiers.bedBad k b || s.tiers.bedMarked k b) := bedrockLook_fst s k b

theorem readAt_shale_data (s : State) (l : Loc) : (s.readAt l).2.tiers.shale.data = s.tiers.shale.data := by
  cases l with
  | shale g b => exact (congrArg Store.data (shaleRead_shale s g b)).trans (store_afterRead_data _ _ _)
  | bedrock k b =>
    have looked : (s.bedrockLook k b).2.tiers.shale = s.tiers.shale := by
      unfold State.bedrockLook
      dsimp only
      split <;> rfl
    show ((s.bedrockLook k b).2.countUnit (bedrockUnit k) 0x300 64).tiers.shale.data = _
    rw [countUnit_tiers, looked]
  | _ => rfl

theorem readAt_bedrock_data (s : State) (l : Loc) (sound : ∀ k b, l = .bedrock k b → s.tiers.bedBad k b = false) :
    (s.readAt l).2.tiers.bedrock = s.tiers.bedrock := by
  cases l with
  | shale g b => exact shaleRead_bedrock s g b
  | bedrock k b =>
    show ((s.bedrockLook k b).2.countUnit (bedrockUnit k) 0x300 64).tiers.bedrock = _
    rw [countUnit_tiers, bedrockLook_sound s k b (sound k b rfl)]
  | _ => rfl

/-- A window read whose entry allows it. -/
theorem windowData_tier {s : State} {dva : Nat} {l : Loc} {bad : Bool} (h : InTier s 7 windowMaster dva false true l bad) (cached : Bool) :
    ∃ d m, (s.windowData dva cached).port.answer = .block d m ∧ (bad = true → m = true) ∧
      (∀ g b, l = .shale g b → (s.windowData dva cached).tiers.shale.marked (g * 2 ^ 29 + b / 64 * 64) 64 = true → m = true) ∧
      (∀ k b, l = .bedrock k b → s.tiers.bedMarked k b = true → m = true) ∧
      (∀ g b, l = .shale g b → d = BitVec.ofNat 512 (s.tiers.shale.data.le (g * 2 ^ 29 + b / 64 * 64) 64)) ∧
      (∀ k b, l = .bedrock k b → d = BitVec.ofNat 512 (s.tiers.bedrock.le (k * 2 ^ 37 + b / 64 * 64) 64)) ∧
      (s.windowData dva cached).tiers.shale.data = s.tiers.shale.data ∧
      ((∀ k b, l = .bedrock k b → s.tiers.bedBad k b = false) → (s.windowData dva cached).tiers.bedrock = s.tiers.bedrock) ∧
      (s.windowData dva cached).cores = s.cores ∧
      (cached = true → ∀ k, l.snoopKey = some k → k ∈ (s.windowData dva cached).port.snoop) ∧
      (cached = false → (s.windowData dva cached).port.snoop = s.port.snoop) := by
  obtain ⟨shale, bedrock, -⟩ := entryOf_stores s 7 (dva / 65536) (inTier_found (src := .host) h)
  have place : s.windowLoc dva = some l := by
    obtain ⟨-, -, judged, -⟩ := h
    rw [State.windowLoc, judged]
  have entry : Accessed s (s.entryOf 7 (dva / 65536)).2 := (s.entryOf_looks 7 (dva / 65536)).accessed
  obtain ⟨u, m, read, fromEntry, fromBlock, looks, tiers⟩ := readBlock_tier (src := .host) h
  obtain ⟨v, hv⟩ : ∃ v, v = (s.entryOf 7 (dva / 65536)).2 := ⟨_, rfl⟩
  change s.readBlock .host windowMaster dva true = (.data ((s.entryOf 7 (dva / 65536)).2.readAt l).1.1 m, u) at read
  change ((s.entryOf 7 (dva / 65536)).2.readAt l).1.2 = true → m = true at fromBlock
  change Looks ((s.entryOf 7 (dva / 65536)).2.readAt l).2 u at looks
  change u.tiers = ((s.entryOf 7 (dva / 65536)).2.readAt l).2.tiers at tiers
  rw [← hv] at shale bedrock entry read fromBlock looks tiers
  have path : Accessed s u := entry.trans ((readAt_accessed v l).trans looks.accessed)
  obtain ⟨snoop, back, counters, after, recorded, kept⟩ := snoopAfter_frame (u.answered (.block (v.readAt l).1.1 m)) l cached
  have data : s.windowData dva cached = (u.answered (.block (v.readAt l).1.1 m)).snoopAfter (some l) cached := by
    rw [State.windowData, read, place]
  rw [data, after]
  have judgedMark {k b : Nat} : v.tiers.bedMarked k b = s.tiers.bedMarked k b := by
    unfold Tiers.bedMarked Tiers.storedCheck Tiers.blockCrc
    rw [bedrock]
  have judgedBad {k b : Nat} : v.tiers.bedBad k b = s.tiers.bedBad k b := by
    unfold Tiers.bedBad Tiers.storedCheck Tiers.blockCrc
    rw [bedrock]
  refine ⟨(v.readAt l).1.1, m, rfl, fromEntry, ?_, ?_, ?_, ?_, ?_, ?_, path.read State.cores, recorded,
    fun h => (kept h).trans (path.read (·.port.snoop))⟩
  · rintro g b rfl (marked : u.tiers.shale.marked _ 64 = true)
    refine fromBlock ?_
    rw [readAt_shale, ← tiers]
    exact marked
  · rintro k b rfl marked
    refine fromBlock ?_
    rw [readAt_bedrock, judgedMark, marked, Bool.or_true]
  · rintro g b rfl
    rw [readAt_shale, shale]
    rfl
  · rintro k b rfl
    rw [readAt_bedrock, bedrock]
    rfl
  · exact (congrArg (·.shale.data) tiers).trans ((readAt_shale_data v l).trans (congrArg Store.data shale))
  · intro sound
    exact (congrArg Tiers.bedrock tiers).trans ((readAt_bedrock_data v l fun k b hl => judgedBad.trans (sound k b hl)).trans bedrock)

end Sys2Proof.Machine
end

section
/-! The window's commands, the snoop filter's answers and the status mirror (R404, R405, R407). -/

namespace Sys2Proof.Machine

/-- A masked write of a block where it lies. -/
theorem writeAt_mask {v : State} {mask : Nat} {data : BitVec 512} {mark : Bool} {runs : Runs}
    (hruns : ∀ m i, withRuns m i runs = withRuns m i (maskRuns mask data mark)) (l : Loc) :
    (∀ g b y, l = .shale g b → Mem.wf v.tiers.shale.data = true → (v.writeAt runs l).tiers.shale.data.rd y =
      if g * 2 ^ 29 + b / 64 * 64 ≤ y ∧ y - (g * 2 ^ 29 + b / 64 * 64) < 64 ∧ mask.testBit (y - (g * 2 ^ 29 + b / 64 * 64)) = true
      then data.extractLsb' (8 * (y - (g * 2 ^ 29 + b / 64 * 64))) 8 else v.tiers.shale.data.rd y) ∧
    (∀ k b y, l = .bedrock k b → Mem.wf v.tiers.bedrock = true → (y < checkIdx k b ∨ checkIdx k b + 2 ≤ y) →
      (v.writeAt runs l).tiers.bedrock.rd y =
      if k * 2 ^ 37 + b / 64 * 64 ≤ y ∧ y - (k * 2 ^ 37 + b / 64 * 64) < 64 ∧ mask.testBit (y - (k * 2 ^ 37 + b / 64 * 64)) = true
      then data.extractLsb' (8 * (y - (k * 2 ^ 37 + b / 64 * 64))) 8 else v.tiers.bedrock.rd y) := by
  constructor
  · rintro g b y rfl wf
    refine (congrArg (Mem.rd · y) (shaleWrite_shale v g b runs)).trans ?_
    rw [hruns]
    exact withRuns_mask mask data mark wf _ y
  · rintro k b y rfl wf apart
    exact bedrockWrite_mask wf k b hruns apart

/-- A window write whose entry allows it. -/
theorem windowWrite_tier {s : State} {dva : Nat} {l : Loc} {bad : Bool} (h : InTier s 7 windowMaster dva true true l bad)
    (first : ∀ u ∈ s.txns, u.src ≠ .host) (mask : Nat) (data : BitVec 512) (mark : Bool) :
    ∃ (t v : State) (runs : Runs), (s.writeBlock .host windowMaster 0 dva true (maskRuns mask data mark)).2 = t ∧ Accessed s t ∧ t = v.writeAt runs l ∧
      v.tiers.shale = s.tiers.shale ∧ v.tiers.bedrock = s.tiers.bedrock ∧
      ∀ m i, withRuns m i runs = withRuns m i (maskRuns mask data mark) := by
  obtain ⟨shale, bedrock, -⟩ := entryOf_stores s 7 (dva / 65536) (inTier_found (src := .host) h)
  obtain ⟨v, looks, tiers, written⟩ := writeBlock_tier (src := .host) h first 0 (maskRuns mask data mark)
  have path : Accessed s v := (s.entryOf_looks 7 (dva / 65536)).accessed.trans looks.accessed
  obtain written | written := written
  · exact ⟨_, v, _, rfl, written ▸ path.trans (writeAt_accessed v _ l), written, (congrArg Tiers.shale tiers).trans shale,
      (congrArg Tiers.bedrock tiers).trans bedrock, fun _ _ => rfl⟩
  · exact ⟨_, v, _, rfl, written ▸ path.trans (writeAt_accessed v _ l), written, (congrArg Tiers.shale tiers).trans shale,
      (congrArg Tiers.bedrock tiers).trans bedrock, fun m i => withRuns_marked i _ m⟩

section
variable {s : State}

theorem hdmWindowRead_answers {x : BitVec 40} {cached : Bool} {a dva : Nat} {l : Loc} {bad : Bool} (opened : s.windowOpen a = true)
    (ha : a = x.toNat / 64 * 64) (hdva : dva = s.windowDva a) (dev : s.house.dev ≠ .zeroise)
    (h : InTier s 7 windowMaster dva false true l bad) (first : s.passes .host 0 l = false) :
    ∃ u, exec (.hdmWindowRead x cached) s = .next (u.windowData dva cached) ∧ Counted s u ∧ InTier u 7 windowMaster dva false true l bad := by
  have counted := countUnit_counted s hifUnit 0x300 64
  refine ⟨s.countUnit hifUnit 0x300 64, ?_, counted, inTier_counted h _ _ _⟩
  have place : s.windowLoc dva = some l := by
    obtain ⟨-, -, judged, -⟩ := h
    rw [State.windowLoc, judged]
  show execHdmWindowRead x cached s = _
  have devAfter : (s.countUnit hifUnit 0x300 64).house.dev ≠ .zeroise := by
    rw [counted.read (·.house.dev)]; exact dev
  have same : (s.countUnit hifUnit 0x300 64).windowDva a = s.windowDva a := counted.read (·.windowDva a)
  subst ha
  subst hdva
  unfold execHdmWindowRead
  dsimp only
  rw [if_neg, if_neg devAfter, same]
  rw [opened, place, Option.any_some, first]
  decide

theorem hdmWindowWrite_writes {x : BitVec 40} {mask : BitVec 64} {data : BitVec 512} {mark : Bool} {a dva : Nat} {l : Loc} {bad : Bool}
    (opened : s.windowOpen a = true) (ha : a = x.toNat / 64 * 64) (hdva : dva = s.windowDva a) (dev : s.house.dev ≠ .zeroise)
    (h : InTier s 7 windowMaster dva true true l bad) :
    ∃ u, exec (.hdmWindowWrite x mask data mark) s = .next (u.writeBlock .host windowMaster 0 dva true (maskRuns mask.toNat data mark)).2 ∧
      Counted s u ∧ InTier u 7 windowMaster dva true true l bad := by
  have counted := countUnit_counted s hifUnit 0x301 64
  refine ⟨s.countUnit hifUnit 0x301 64, ?_, counted, inTier_counted h _ _ _⟩
  show execHdmWindowWrite x mask data mark s = _
  have devAfter : (s.countUnit hifUnit 0x301 64).house.dev ≠ .zeroise := by
    rw [counted.read (·.house.dev)]; exact dev
  have same : (s.countUnit hifUnit 0x301 64).windowDva a = s.windowDva a := counted.read (·.windowDva a)
  subst ha
  subst hdva
  unfold execHdmWindowWrite
  dsimp only
  rw [if_neg (by rw [opened]; decide), if_neg devAfter, same]

/-! ### The status mirror (R407) -/

theorem mirrorQuad_dev : s.mirrorQuad 0 = BitVec.ofNat 64 s.house.dev.code := if_pos rfl

theorem mirrorQuad_notch {c n : Nat} (hc : c < 1024) (hn : n < 32) :
    s.mirrorQuad (0x10000 + 512 * c + 8 * n) = ((s.core c).notch n).setWidth 64 := by
  have core : (0x10000 + 512 * c + 8 * n - 0x10000) / 512 = c := by omega
  have offset : (0x10000 + 512 * c + 8 * n - 0x10000) % 512 = 8 * n := by omega
  have notch : 8 * n / 8 = n := by omega
  unfold State.mirrorQuad
  rw [if_neg (by omega), if_neg (by omega), if_neg (by omega), if_neg (by omega), if_neg (by omega), if_neg (by omega), if_neg (by omega),
    if_pos (by omega)]
  dsimp only
  rw [core, offset, notch, if_pos (by omega)]

/-! ### What the host writes back (R405) -/

/-- A whole clean block written to Bedrock. -/
theorem bedrockWrite_whole (k a : Nat) {bs : List Byte} (whole : bs.length = 64) :
    (s.bedrockWrite k a [(0, markAll false bs)]).tiers.bedrock =
      withCheck (withRuns s.tiers.bedrock (bedIdx k (a / 64 * 64)) [(0, markAll false bs)]) k a false := by
  have len : runsLen [(0, markAll false bs)] = 64 := by simp [runsLen, markAll, whole]
  have clean : runsMarked [(0, markAll false bs)] = false := by
    simp only [runsMarked, List.any_cons, List.any_nil, Bool.or_false]
    exact markAll_false_any bs
  unfold State.bedrockWrite
  dsimp only
  rw [countUnit_tiers, if_pos len, clean]
  rfl

theorem birsp_writes {key : Nat} {d : BitVec 512} :
    (∀ k b, key * 64 = k * 2 ^ 37 + b → k < 12 → b < 2 ^ 37 → (s.writeAt [(0, markAll false (blockBytes d))] (snoopLoc key)).tiers.bedrock =
      withCheck (withRuns s.tiers.bedrock (64 * key) [(0, markAll false (natLe 64 d.toNat))]) k b false) ∧
    (∀ g b, key * 64 = 2 ^ 44 + g * 2 ^ 29 + b → b < 2 ^ 29 → (s.writeAt [(0, markAll false (blockBytes d))] (snoopLoc key)).tiers.shale.data =
      withRuns s.tiers.shale.data (g * 2 ^ 29 + b) [(0, markAll false (natLe 64 d.toNat))]) := by
  constructor
  · intro k b hkey hk hb
    have low : 64 * key < 2 ^ 44 := by omega
    have ctl : 64 * key / 2 ^ 37 = k := by omega
    have off : 64 * key % 2 ^ 37 = b := by omega
    have place : bedIdx k (b / 64 * 64) = 64 * key := by unfold bedIdx; omega
    have loc : snoopLoc key = .bedrock k b := by
      unfold snoopLoc
      dsimp only
      rw [if_pos low, ctl, off]
    rw [loc]
    refine (bedrockWrite_whole k b (natLe_length 64 d.toNat)).trans ?_
    rw [place]
  · intro g b hkey hb
    have high : ¬ 64 * key < 2 ^ 44 := by omega
    have guild : (64 * key - 2 ^ 44) / 2 ^ 29 = g := by omega
    have off : 64 * key % 2 ^ 29 = b := by omega
    have place : g * 2 ^ 29 + b / 64 * 64 = g * 2 ^ 29 + b := by omega
    have loc : snoopLoc key = .shale g b := by
      unfold snoopLoc
      dsimp only
      rw [if_neg high, guild, off]
    rw [loc]
    refine (shaleWrite_shale s g b _).trans ?_
    rw [place]
    rfl

end

end Sys2Proof.Machine
end

section
/-! The loss and the return of the host link (R400, R455, R497). -/

namespace Sys2Proof.Machine

/-- From `s` to `t` the rings, the commands and their counts have changed, and nothing else. -/
def RingsOnly (s t : State) : Prop := t = { s with sqs := t.sqs, cqs := t.cqs, cmds := t.cmds, unitCounters := t.unitCounters }

theorem RingsOnly.refl (s : State) : RingsOnly s s := rfl

theorem RingsOnly.trans {s t u : State} (h : RingsOnly s t) (h' : RingsOnly t u) : RingsOnly s u := by
  unfold RingsOnly at h h'
  generalize t.sqs = a, t.cqs = b, t.cmds = c, t.unitCounters = d at h
  subst h
  exact h'

theorem Closes.ringsOnly {s t : State} (h : Closes s t) : RingsOnly s t := by
  have rest := h.rest
  generalize t.cmds = a, t.cqs = b, t.unitCounters = c at rest
  subst rest
  exact rfl

theorem ringEnabled_cleared (cfg : Word32) : ringEnabled (cfg &&& 0x7FFFFFFF) = false := by
  unfold ringEnabled
  rw [BitVec.getLsbD_and]
  exact Bool.and_false _

theorem abortRing_closes (s : State) (q : Nat) : Closes s (s.abortRing q) :=
  List.foldlRecOn _ _ (.refl s) fun t ht c _ => ht.trans (State.finishCmd_closes 9 0 t c)

/-- A submission ring is disabled (R416). -/
theorem disableSq_disables (s : State) (q : Nat) : RingsOnly s (s.disableSq q) ∧ (∀ j, ((s.disableSq q).cq j).cfg = (s.cq j).cfg) ∧
    ∀ j, (s.disableSq q).sq j = if j = q ∧ ringEnabled (s.sq q).cfg = true
      then { s.sq q with cfg := (s.sq q).cfg &&& 0x7FFFFFFF } else s.sq j := by
  unfold State.disableSq
  dsimp only
  split
  · next enabled =>
    have aborted := abortRing_closes (s.setSq q { s.sq q with cfg := (s.sq q).cfg &&& 0x7FFFFFFF }) q
    have set : RingsOnly s (s.setSq q { s.sq q with cfg := (s.sq q).cfg &&& 0x7FFFFFFF }) := rfl
    refine ⟨set.trans aborted.ringsOnly, aborted.cfg, fun j => (aborted.sq j).trans ((Tab.get_set _ _ _ _ _).trans ?_)⟩
    by_cases same : j = q
    · rw [if_pos same, if_pos ⟨same, enabled⟩]
    · rw [if_neg same, if_neg fun h => same h.1]
      rfl
  · next disabled =>
    exact ⟨.refl s, fun _ => rfl, fun j => (if_neg fun h => disabled h.2).symm⟩

/-- A completion ring is disabled, and what is bound for it discarded (R416). -/
theorem disableCq_disables (s : State) (q : Nat) : RingsOnly s (s.disableCq q) ∧ (∀ j, (s.disableCq q).sq j = s.sq j) ∧
    ∀ j, (s.disableCq q).cq j = if j = q ∧ ringEnabled (s.cq q).cfg = true
      then { s.cq q with cfg := (s.cq q).cfg &&& 0x7FFFFFFF, waiting := [], full := false } else s.cq j := by
  unfold State.disableCq
  dsimp only
  split
  · next enabled =>
    obtain ⟨cmds, dropped⟩ : ∃ cmds, (s.cq q).waiting.foldl (fun (s : State) x => s.dropCmd x.cmd) s = { s with cmds := cmds } :=
      List.foldlRecOn (motive := fun t : State => ∃ cmds, t = { s with cmds := cmds }) _ _ ⟨_, rfl⟩ fun t ht x _ => by
        obtain ⟨cmds, rfl⟩ := ht
        exact ⟨_, rfl⟩
    rw [dropped]
    obtain ⟨counters, counted⟩ := countUnit_event (s := ({ s with cmds := cmds } : State).setCq q
      { s.cq q with cfg := (s.cq q).cfg &&& 0x7FFFFFFF, waiting := [], full := false }) hifUnit (s.cq q).waiting.length (i := 4) (by decide)
    rw [counted]
    refine ⟨rfl, fun _ => rfl, fun j => (Tab.get_set _ _ _ _ _).trans ?_⟩
    by_cases same : j = q
    · rw [if_pos same, if_pos ⟨same, enabled⟩]
    · rw [if_neg same, if_neg fun h => same h.1]
      rfl
  · next disabled =>
    exact ⟨.refl s, fun _ => rfl, fun j => (if_neg fun h => disabled h.2).symm⟩

theorem disableSqs_disable (s : State) (n : Nat) : RingsOnly s ((List.range n).foldl (fun (s : State) q => s.disableSq q) s) ∧
    (∀ j, (((List.range n).foldl (fun (s : State) q => s.disableSq q) s).cq j).cfg = (s.cq j).cfg) ∧
    ∀ j < n, ringEnabled (((List.range n).foldl (fun (s : State) q => s.disableSq q) s).sq j).cfg = false := by
  induction n with
  | zero => exact ⟨.refl s, fun _ => rfl, fun j hj => absurd hj (Nat.not_lt_zero j)⟩
  | succ n ih =>
    rw [List.range_succ, List.foldl_append]
    obtain ⟨rings, cfg, off⟩ := ih
    obtain ⟨u, hu⟩ : ∃ u, u = (List.range n).foldl (fun (s : State) q => s.disableSq q) s := ⟨_, rfl⟩
    rw [← hu] at rings cfg off ⊢
    obtain ⟨ring, keeps, now⟩ := disableSq_disables u n
    refine ⟨rings.trans ring, fun j => (keeps j).trans (cfg j), fun j hj => ?_⟩
    show ringEnabled ((u.disableSq n).sq j).cfg = false
    rw [now]
    split
    · exact ringEnabled_cleared _
    · next other =>
      by_cases same : j = n
      · subst same
        exact Bool.eq_false_iff.2 fun enabled => other ⟨rfl, enabled⟩
      · exact off j (by omega)

theorem disableCqs_disable (s : State) (n : Nat) : RingsOnly s ((List.range n).foldl (fun (s : State) q => s.disableCq q) s) ∧
    (∀ j, ((List.range n).foldl (fun (s : State) q => s.disableCq q) s).sq j = s.sq j) ∧
    (∀ j, n ≤ j → ((List.range n).foldl (fun (s : State) q => s.disableCq q) s).cq j = s.cq j) ∧
    ∀ j < n, ringEnabled (((List.range n).foldl (fun (s : State) q => s.disableCq q) s).cq j).cfg = false ∧
      (ringEnabled (s.cq j).cfg = true → (((List.range n).foldl (fun (s : State) q => s.disableCq q) s).cq j).waiting = []) := by
  induction n with
  | zero => exact ⟨.refl s, fun _ => rfl, fun _ _ => rfl, fun j hj => absurd hj (Nat.not_lt_zero j)⟩
  | succ n ih =>
    rw [List.range_succ, List.foldl_append]
    obtain ⟨rings, sqs, later, off⟩ := ih
    obtain ⟨u, hu⟩ : ∃ u, u = (List.range n).foldl (fun (s : State) q => s.disableCq q) s := ⟨_, rfl⟩
    rw [← hu] at rings sqs later off ⊢
    obtain ⟨ring, keeps, now⟩ := disableCq_disables u n
    refine ⟨rings.trans ring, fun j => (keeps j).trans (sqs j), fun j hj => ?_, fun j hj => ?_⟩
    · show (u.disableCq n).cq j = s.cq j
      rw [now, if_neg fun h => absurd h.1 (by omega), later j (by omega)]
    · show ringEnabled ((u.disableCq n).cq j).cfg = false ∧ (_ → ((u.disableCq n).cq j).waiting = [])
      rw [now]
      split
      · exact ⟨ringEnabled_cleared _, fun _ => rfl⟩
      · next other =>
        by_cases same : j = n
        · subst same
          have disabled : ringEnabled (u.cq j).cfg = false := Bool.eq_false_iff.2 fun enabled => other ⟨rfl, enabled⟩
          refine ⟨disabled, fun enabled => ?_⟩
          rw [later j (Nat.le_refl j), enabled] at disabled
          exact nomatch disabled
        · exact off j (by omega)

/-- The host link is lost (R400). -/
theorem hostLinkDown_disables {s : State} (up : s.port.linkUp = true) (code : Nat) : ∃ sqs cqs cmds counters,
    s.hostLinkDown code = { s with
      port := { s.port with linkUp := false }, sqs := sqs, cqs := cqs, cmds := cmds, unitCounters := counters,
      occurrences := s.occurrences ++ [⟨0x70, [wd code]⟩] } ∧
    ∀ q, q < 64 → ringEnabled ((s.hostLinkDown code).sq q).cfg = false ∧ ringEnabled ((s.hostLinkDown code).cq q).cfg = false ∧
      (ringEnabled (s.cq q).cfg = true → ((s.hostLinkDown code).cq q).waiting = []) := by
  obtain ⟨subRings, cfg, subOff⟩ := disableSqs_disable s 64
  unfold State.hostLinkDown
  rw [if_neg (by rw [up]; decide)]
  dsimp only
  obtain ⟨u, hu⟩ : ∃ u, u = (List.range 64).foldl (fun (s : State) q => s.disableSq q) s := ⟨_, rfl⟩
  rw [← hu] at subRings cfg subOff ⊢
  obtain ⟨compRings, sqs, -, compOff⟩ := disableCqs_disable u 64
  obtain ⟨v, hv⟩ : ∃ v, v = (List.range 64).foldl (fun (s : State) q => s.disableCq q) u := ⟨_, rfl⟩
  rw [← hv] at compRings sqs compOff ⊢
  have rings : RingsOnly s v := subRings.trans compRings
  refine ⟨v.sqs, v.cqs, v.cmds, v.unitCounters, ?_, fun q hq => ⟨?_, (compOff q hq).1, fun enabled => (compOff q hq).2 ?_⟩⟩
  · unfold RingsOnly at rings
    generalize v.sqs = a, v.cqs = b, v.cmds = c, v.unitCounters = d at rings ⊢
    subst rings
    rfl
  · show ringEnabled (v.sq q).cfg = false
    rw [sqs]
    exact subOff q hq
  · rw [cfg, enabled]

theorem sendVector_port (s : State) (n : Nat) (up : s.port.linkUp = true) : ∃ p, s.sendVector n = { s with port := p } ∧ p.linkUp = true ∧
    p.refclk = s.port.refclk ∧ p.heldWrites = s.port.heldWrites ∧ p.heldVectors = s.port.heldVectors := by
  unfold State.sendVector
  rw [if_neg (by rw [up]; decide)]
  split
  · exact ⟨_, rfl, up, rfl, rfl, rfl⟩
  · exact ⟨_, rfl, up, rfl, rfl, rfl⟩

theorem sendVectors_port (vs : List Nat) (s : State) (up : s.port.linkUp = true) : ∃ p, vs.foldl (fun (s : State) v => s.sendVector v) s =
    { s with port := p } ∧ p.linkUp = true ∧ p.refclk = s.port.refclk ∧ p.heldWrites = s.port.heldWrites ∧ p.heldVectors = s.port.heldVectors := by
  induction vs generalizing s with
  | nil => exact ⟨s.port, rfl, up, rfl, rfl, rfl⟩
  | cons v vs ih =>
    obtain ⟨p, eq, up', clock, writes, vectors⟩ := sendVector_port s v up
    obtain ⟨p', eq', up'', clock', writes', vectors'⟩ := ih { s with port := p } up'
    refine ⟨p', ?_, up'', clock'.trans clock, writes'.trans writes, vectors'.trans vectors⟩
    rw [List.foldl_cons, eq, eq']

theorem deviceWrite_onHost {s : State} (up : s.port.linkUp = true) (a : Nat) (bs : List Byte) : OnHost s (s.deviceWrite a bs) := by
  rw [State.deviceWrite, if_pos up]
  exact hostWrites_onHost _ _ _ s

theorem deviceWrites_onHost (ws : List (Nat × List Byte)) (s : State) (up : s.port.linkUp = true) :
    OnHost s (ws.foldl (fun (s : State) w => s.deviceWrite w.1 w.2) s) := by
  induction ws generalizing s with
  | nil => exact rfl
  | cons w ws ih =>
    have first := deviceWrite_onHost up w.1 w.2
    have port : (s.deviceWrite w.1 w.2).port = s.port := by
      unfold OnHost at first
      rw [first]
    exact first.trans (ih _ (by rw [port]; exact up))

/-- The host link returns: what waited for it is performed (R400). -/
theorem hostLinkUp_performs (s : State) : ∃ p m marks, s.hostLinkUp = { s with port := p, hostMem := m, hostPoison := marks } ∧
    p.linkUp = true ∧ p.refclk = s.port.refclk ∧ p.heldWrites = [] ∧ p.heldVectors = [] ∧
    ∀ a bs, s.port.heldWrites = [(a, bs)] → Mem.wf s.hostMem = true → m.bytes a bs.length = bs := by
  unfold State.hostLinkUp
  dsimp only
  obtain ⟨u, hu⟩ : ∃ u : State, u = { s with port := { s.port with linkUp := true, heldWrites := [], heldVectors := [] } } := ⟨_, rfl⟩
  have up : u.port.linkUp = true := by rw [hu]
  have written := deviceWrites_onHost s.port.heldWrites u up
  have bytes (a : Nat) (bs : List Byte) (one : s.port.heldWrites = [(a, bs)]) (wf : Mem.wf s.hostMem = true) :
      (s.port.heldWrites.foldl (fun (s : State) w => s.deviceWrite w.1 w.2) u).hostMem.bytes a bs.length = bs := by
    rw [one]
    have wf' : Mem.wf u.hostMem = true := by rw [hu]; exact wf
    obtain ⟨-, wrote⟩ := deviceWrite_wrote up wf' (a + bs.length) a bs
    have back := wrote.bytes (Nat.le_refl _) (i := 0) (n := bs.length) (by omega)
    rwa [Nat.add_zero, List.drop_zero, List.take_length] at back
  rw [← hu]
  obtain ⟨v, hv⟩ : ∃ v, v = s.port.heldWrites.foldl (fun (s : State) w => s.deviceWrite w.1 w.2) u := ⟨_, rfl⟩
  rw [← hv] at written bytes ⊢
  unfold OnHost at written
  have vport : v.port = u.port := by rw [written]
  obtain ⟨p, eq, linkUp, clock, writes, vectors⟩ := sendVectors_port s.port.heldVectors v (by rw [vport]; exact up)
  refine ⟨p, v.hostMem, v.hostPoison, ?_, linkUp, ?_, ?_, ?_, bytes⟩
  · rw [eq]
    generalize v.hostMem = a, v.hostPoison = b at written ⊢
    subst written
    subst hu
    rfl
  · rw [clock, vport, hu]
  · rw [writes, vport, hu]
  · rw [vectors, vport, hu]

end Sys2Proof.Machine
end

section
/-! The host interface, settled (R397 to R409, R449 to R455, R497, R498). -/

namespace Sys2Proof.Machine

section
variable {s : State}

theorem cxlLinkDown_disables (power : s.house.power = true) (up : s.port.linkUp = true) (hot : Bool) :
    ∃ t, exec (.cxlLinkDown hot) s = .next t ∧ t.port = { s.port with linkUp := false } ∧
      (∀ q, q < 64 → ringEnabled (t.sq q).cfg = false ∧ ringEnabled (t.cq q).cfg = false ∧
        (ringEnabled (s.cq q).cfg = true → (t.cq q).waiting = [])) ∧
      t = { s with
        port := t.port, sqs := t.sqs, cqs := t.cqs, cmds := t.cmds, unitCounters := t.unitCounters,
        occurrences := s.occurrences ++ [⟨0x70, [if hot then 0 else 1]⟩] } := by
  obtain ⟨sqs, cqs, cmds, counters, eq, off⟩ := hostLinkDown_disables up (if hot then 0 else 1)
  have word : wd (if hot then 0 else 1) = if hot then 0 else 1 := by cases hot <;> rfl
  rw [eq, word] at off
  refine ⟨_, (congrArg Host.Outcome.next (if_pos power)).trans (congrArg Host.Outcome.next (eq.trans (by rw [word]))), rfl, off, rfl⟩

theorem refclkLoss_drops (power : s.house.power = true) (up : s.port.linkUp = true) :
    ∃ t, exec .refclkLoss s = .next t ∧ t.port = { s.port with refclk := false, linkUp := false } ∧
      t.occurrences = s.occurrences ++ [⟨0x70, [1]⟩] := by
  obtain ⟨sqs, cqs, cmds, counters, eq, -⟩ := hostLinkDown_disables (s := { s with port := { s.port with refclk := false } }) up 1
  exact ⟨_, (congrArg Host.Outcome.next (if_pos power)).trans (congrArg Host.Outcome.next eq), rfl, rfl⟩

theorem cxlLinkUp_performs (power : s.house.power = true) (dev : s.house.dev ≠ .boot) (down : s.port.linkUp = false) :
    ∃ t, exec .cxlLinkUp s = .next t ∧ t.port.linkUp = true ∧ t.port.refclk = true ∧ t.port.heldWrites = [] ∧ t.port.heldVectors = [] ∧
      t = { s with port := t.port, hostMem := t.hostMem, hostPoison := t.hostPoison } ∧
      ∀ a bs, s.port.heldWrites = [(a, bs)] → Mem.wf s.hostMem = true → t.hostMem.bytes a bs.length = bs := by
  obtain ⟨p, m, marks, eq, up, clock, writes, vectors, bytes⟩ := hostLinkUp_performs { s with port := { s.port with refclk := true } }
  have runs : s.house.power = true ∧ s.house.dev ≠ .boot ∧ (!s.port.linkUp) = true := ⟨power, dev, by rw [down]; rfl⟩
  exact ⟨_, (congrArg Host.Outcome.next (if_pos runs)).trans (congrArg Host.Outcome.next eq), up, clock, writes, vectors, rfl, bytes⟩

theorem ideCheckFail_drops {io mem a b : Bool} (up : s.port.linkUp = true) (ha : a = (io && s.port.ideIo)) (hb : b = (mem && s.port.ideMem))
    (fails : (a || b) = true) :
    ∃ t, exec (.ideCheckFail io mem) s = .next t ∧ t.port.linkUp = false ∧ t.port.ideIo = (s.port.ideIo && !a) ∧
      t.port.ideMem = (s.port.ideMem && !b) ∧
      t.occurrences = s.occurrences ++ [⟨0x70, [1]⟩, ⟨0x71, [BitVec.ofNat 64 ((if a then 1 else 0) + (if b then 2 else 0))]⟩] := by
  subst ha
  subst hb
  obtain ⟨sqs, cqs, cmds, counters, eq, -⟩ := hostLinkDown_disables (s := { s with port := { s.port with
    ideIo := s.port.ideIo && !(io && s.port.ideIo), ideMem := s.port.ideMem && !(mem && s.port.ideMem) } }) up 1
  refine ⟨_, congrArg Host.Outcome.next ((if_pos ⟨up, Bool.or_eq_true_iff.1 fails⟩).trans (congrArg (State.raise · 0x71 _) eq)), rfl, rfl, rfl, ?_⟩
  exact List.append_assoc _ [_] [_]

theorem spdmRequest_answers {req : SpdmMessage} (runs : s.firmwareRuns = true) (serves : 5 ∉ s.house.services)
    (path : s.port.linkUp = true ∨ s.port.i3cAddress.isSome = true) : ∃ a, exec (.spdmRequest req) s = .next { s with port := { s.port with
        answer := a, ideIo := req.ioKeys.getD s.port.ideIo, ideMem := req.memKeys.getD s.port.ideMem } } ∧
      ∀ i, req.measurement = some i → a = .bytes (s.measurement i) := by
  have open_ : ¬ ((!s.firmwareRuns) = true ∨ s.house.services.contains 5 = true ∨ (!s.port.linkUp) = true ∧ s.port.i3cAddress.isNone = true) := by
    rintro (off | failed | ⟨down, none⟩)
    · rw [runs] at off
      exact nomatch off
    · exact serves (List.contains_iff_mem.1 failed)
    · obtain up | address := path
      · rw [up] at down
        exact nomatch down
      · rw [Option.isNone_eq_false_iff.2 address] at none
        exact nomatch none
  refine ⟨_, congrArg Host.Outcome.next (if_neg open_), fun i hi => ?_⟩
  rw [hi]

theorem pldmFirmwareUpdate_writes {slotB : Bool} {image : List Byte} (runs : s.firmwareRuns = true) (address : s.port.i3cAddress.isSome = true)
    (serves : 5 ∉ s.house.services) (other : s.house.image ≠ (if slotB then 2 else 1)) (fits : image.length ≤ 31 * 2 ^ 20) :
    ∃ t u, exec (.pldmFirmwareUpdate slotB image) s = .next t ∧ t = { s with flash := t.flash } ∧
      u = { s with flash := s.flash.wrBytes (slotBase slotB) image } ∧ (u.imageOk slotB = false → t = u) ∧
      (u.imageOk slotB = true → t = u.preferSlot slotB) := by
  have open_ : ¬ ((!s.firmwareRuns) = true ∨ s.port.i3cAddress.isNone = true ∨ s.house.services.contains 5 = true ∨
      (s.house.image = if slotB then 2 else 1) ∨ image.length > 31 * 2 ^ 20) := by
    rintro (off | none | failed | same | long)
    · rw [runs] at off
      exact nomatch off
    · rw [Option.isNone_eq_false_iff.2 address] at none
      exact nomatch none
    · exact serves (List.contains_iff_mem.1 failed)
    · exact other same
    · omega
  obtain ⟨u, hu⟩ : ∃ u : State, u = { s with flash := s.flash.wrBytes (slotBase slotB) image } := ⟨_, rfl⟩
  have ran : exec (.pldmFirmwareUpdate slotB image) s = .next (if u.imageOk slotB then u.preferSlot slotB else u) := by
    show execPldmFirmwareUpdate slotB image s = _
    rw [execPldmFirmwareUpdate, if_neg open_, hu]
  refine ⟨_, u, ran, ?_, hu, fun bad => if_neg (by rw [bad]; decide), fun ok => if_pos ok⟩
  split
  · rw [State.preferSlot, hu]
  · rw [hu]

end

/-- Settles O42: a one-step access through the window finds its entry without touching the tiers' data, and every other row is its
definition on the states it names. -/
theorem hostLinkAndManagement : Obligations.HostLinkAndManagement := by
  unfold Obligations.HostLinkAndManagement
  refine ⟨?_, ?_, ?_, ?_, ?_, ?_, ?_, ?_, ?_, ?_, ?_, ?_⟩
  case refine_1 =>
    intro s x cached a dva l bad opened ha hdva dev tier first
    obtain ⟨u, ran, counted, tier'⟩ := hdmWindowRead_answers (cached := cached) opened ha hdva dev tier first
    obtain ⟨d, m, h⟩ := windowData_tier tier' cached
    rw [show u.tiers = s.tiers from counted.read State.tiers, show u.cores = s.cores from counted.read State.cores,
      show u.port = s.port from counted.read State.port] at h
    exact ⟨_, d, m, ran, h⟩
  case refine_2 =>
    intro s x mask data mark a dva l bad opened ha hdva dev tier first shaleWf bedrockWf
    obtain ⟨u, ran, counted, tier'⟩ := hdmWindowWrite_writes (mask := mask) (data := data) (mark := mark) opened ha hdva dev tier
    have pool : u.txns = s.txns := counted.read State.txns
    have tiers : u.tiers = s.tiers := counted.read State.tiers
    obtain ⟨t, v, runs, written, path, at_, shale, bedrock, bytes⟩ := windowWrite_tier tier' (by rw [pool]; exact first) mask.toNat data mark
    rw [tiers] at shale bedrock
    obtain ⟨inShale, inBedrock⟩ := writeAt_mask (v := v) bytes l
    rw [← at_, shale] at inShale
    rw [← at_, bedrock] at inBedrock
    refine ⟨t, ran.trans (congrArg Host.Outcome.next written), (path.read State.cores).trans (counted.read State.cores),
      (path.read State.port).trans (counted.read State.port), fun g b y hl => inShale g b y hl shaleWf, fun k b y hl => inBedrock k b y hl bedrockWf⟩
  case refine_3 =>
    intro s x power up decoder
    exact ⟨congrArg Host.Outcome.next (if_pos ⟨power, up, decoder⟩), mirrorQuad_dev, fun c n => mirrorQuad_notch⟩
  case refine_4 => exact fun s up => congrArg Host.Outcome.next (if_pos up)
  case refine_5 =>
    intro s key d power up awaited
    have runs : s.house.power = true ∧ s.port.linkUp = true ∧ s.port.backInval.contains key = true :=
      ⟨power, up, List.contains_iff_mem.2 awaited⟩
    have port : (s.writeAt [(0, markAll false (blockBytes d))] (snoopLoc key)).port = s.port := (writeAt_afar s _ _).read State.port
    refine ⟨congrArg Host.Outcome.next (if_pos runs), _, congrArg Host.Outcome.next (if_pos runs), ?_, birsp_writes⟩
    exact congrArg (fun p : HostPort => p.backInval.filter (· ≠ key)) port
  case refine_6 => exact fun s hot power up => cxlLinkDown_disables power up hot
  case refine_7 => exact fun s power up => refclkLoss_drops power up
  case refine_8 => exact fun s power dev down => cxlLinkUp_performs power dev down
  case refine_9 => exact fun s io mem a b up ha hb fails => ideCheckFail_drops up ha hb fails
  case refine_10 =>
    intro s req runs serves path
    obtain ⟨a, ran, answer⟩ := spdmRequest_answers (req := req) runs serves path
    refine ⟨_, ran, rfl, answer 2, fun h4 locked => (answer 4 h4).trans ?_, answer 6⟩
    exact congrArg Answer.bytes (if_pos locked)
  case refine_11 => exact fun s slotB image runs address serves other fits => pldmFirmwareUpdate_writes runs address serves other fits
  case refine_12 => exact fun s addr power => congrArg Host.Outcome.next (if_pos power)

end Sys2Proof.Machine
end

section
/-! What accesses, and what the library does on its cores, never take back: the house, the module's own identifier, and every event
that was raised. -/

namespace Sys2Proof.Machine

/-- From `s` to `t` the house and the module's identifier are as they were, and every event of `s` is there. -/
structure Onward (s t : State) : Prop where
  house : t.house = s.house
  self : t.self = s.self
  events : ∀ o ∈ s.occurrences, o ∈ t.occurrences

namespace Onward

theorem refl (s : State) : Onward s s := ⟨rfl, rfl, fun _ h => h⟩

theorem same {s t : State} (house : t.house = s.house) (self : t.self = s.self) (events : t.occurrences = s.occurrences) : Onward s t :=
  ⟨house, self, fun _ ho => events ▸ ho⟩

theorem trans {s t u : State} (h : Onward s t) (h' : Onward t u) : Onward s u :=
  ⟨h'.house.trans h.house, h'.self.trans h.self, fun o ho => h'.events o (h.events o ho)⟩

theorem ite {s t u : State} {p : Prop} [Decidable p] (h : Onward s t) (h' : Onward s u) : Onward s (if p then t else u) := by
  split <;> assumption

theorem fold {α : Type} {f : State → α → State} (h : ∀ s a, Onward s (f s a)) (l : List α) (s : State) : Onward s (l.foldl f s) :=
  List.foldlRecOn l _ (refl s) fun t ht a _ => ht.trans (h t a)

theorem of_counted {s t : State} (h : Counted s t) : Onward s t :=
  ⟨h.read State.house, h.read State.self, fun o ho => (h.read State.occurrences).symm ▸ ho⟩

theorem of_cachesUsed {s t : State} (h : CachesUsed s t) : Onward s t :=
  ⟨h.read State.house, h.read State.self, fun o ho => (h.read State.occurrences).symm ▸ ho⟩

theorem liveCores {s t : State} (h : Onward s t) : t.liveCores = s.liveCores := by
  unfold State.liveCores State.fenced
  rw [h.house]

theorem ownPeer {s t : State} (h : Onward s t) : t.ownPeer = s.ownPeer := by
  unfold State.ownPeer
  rw [h.self]

end Onward

section
variable (s : State)

theorem raise_onward (code : Nat) (ws : List Word) : Onward s (s.raise code ws) := ⟨rfl, rfl, fun _ h => List.mem_append_left _ h⟩
theorem putTxn_onward (x : Txn) : Onward s (s.putTxn x) := .same rfl rfl rfl
theorem atCore_onward (c : Nat) (f : Eff → Eff) : Onward s (s.atCore c f) := ⟨rfl, rfl, fun _ h => List.mem_append_left _ h⟩
theorem countUnit_onward (u i n : Nat) : Onward s (s.countUnit u i n) := .of_counted (countUnit_counted s u i n)

theorem countCore_onward (c ev n : Nat) : Onward s (s.countCore c ev n) := .ite (atCore_onward s c _) (.refl s)

/-! ### Blocks where they lie -/

theorem shaleRead_onward (g a : Nat) : Onward s (s.shaleRead g a).2 := by
  have counted (st : Store) (n m : Nat) : Onward s (({ s with tiers := { s.tiers with shale := st } }.countUnit (shaleUnit g) 1 n).countUnit
      (shaleUnit g) m 64) := .trans (t := { s with tiers := { s.tiers with shale := st } }) (.same rfl rfl rfl)
    ((countUnit_onward _ _ _ _).trans (countUnit_onward _ _ _ _))
  unfold State.shaleRead
  dsimp only
  exact .ite ((counted _ _ _).trans (raise_onward _ _ _)) (counted _ _ _)

theorem shaleWrite_onward (g a : Nat) (runs : Runs) : Onward s (s.shaleWrite g a runs) := by
  unfold State.shaleWrite
  dsimp only
  refine .trans (t := if (runs.any fun r => r.1 % 8 ≠ 0 || r.2.length % 8 ≠ 0) = true then (s.shaleRead g a).2 else s)
    (.ite (shaleRead_onward s g a) (.refl s)) (.trans ?_ (countUnit_onward _ _ _ _))
  exact .same rfl rfl rfl

theorem bedrockLook_onward (k a : Nat) : Onward s (s.bedrockLook k a).2 := by
  unfold State.bedrockLook
  dsimp only
  split
  · exact ⟨rfl, rfl, fun _ h => List.mem_append_left _ h⟩
  · exact .refl s

theorem bedrockWrite_onward (k a : Nat) (runs : Runs) : Onward s (s.bedrockWrite k a runs) := by
  have looked := bedrockLook_onward s k a
  obtain ⟨⟨d, old⟩, u, look⟩ : ∃ d u, s.bedrockLook k a = (d, u) := ⟨_, _, rfl⟩
  rw [look] at looked
  have wrote (v : State) (x : Tiers) : Onward v { v with tiers := x } := .same rfl rfl rfl
  unfold State.bedrockWrite
  rw [look]
  dsimp only
  split
  · exact .trans (wrote s _) (countUnit_onward _ _ _ _)
  · exact looked.trans (.trans (wrote u _) (countUnit_onward _ _ _ _))

theorem readAt_onward (l : Loc) : Onward s (s.readAt l).2 := by
  cases l with
  | shale g a => exact shaleRead_onward s g a
  | bedrock k a => exact (bedrockLook_onward s k a).trans (countUnit_onward _ _ _ _)
  | host | ls | peer | landing | adder => exact .refl s

theorem writeAt_onward (runs : Runs) (l : Loc) : Onward s (s.writeAt runs l) := by
  cases l with
  | shale g a => exact shaleWrite_onward s g a runs
  | bedrock k a => exact bedrockWrite_onward s k a runs
  | host | ls | peer | landing | adder => exact .same rfl rfl rfl

theorem ferry_onward (hops : List Hop) (addr : Nat) : Onward s (s.ferry hops addr).2 := by
  have counted (u i n : Nat) : Onward s (({ s with free := s.free + 1 } : State).countUnit u i n) :=
    .trans (t := { s with free := s.free + 1 }) (.same rfl rfl rfl) (countUnit_onward _ _ _ _)
  unfold State.ferry
  split
  · dsimp only
    split
    · exact (counted _ _ _).trans (raise_onward _ _ _)
    · exact counted _ _ _
  · exact .same rfl rfl rfl

theorem carried_onward (src : Src) (l : Loc) (dva : Nat) (write : Bool) : Onward s (s.carried src l dva write).2 :=
  (Onward.of_counted (s.linkEcc_counted l)).trans (ferry_onward _ _ _)

/-! ### Translation -/

theorem tableBlock_onward (g page : Nat) : Onward s (s.tableBlock g page).2 := by
  have looked := bedrockLook_onward s 0 (8 * page)
  obtain ⟨⟨⟨d, bad⟩, u⟩, look⟩ : ∃ y, s.bedrockLook 0 (8 * page) = y := ⟨_, rfl⟩
  rw [look] at looked
  rw [State.tableBlock, look]
  exact (looked.trans (.of_counted (State.linkEcc_counted _ _))).trans (ferry_onward _ _ _)

theorem walk_onward (g page : Nat) : Onward s (s.walk g page).2 := by
  have block := tableBlock_onward s g page
  obtain ⟨⟨⟨d, bad⟩, u⟩, eq⟩ : ∃ y, s.tableBlock g page = y := ⟨_, rfl⟩
  rw [eq] at block
  rw [State.walk, eq]
  cases bad
  · exact ((block.trans (.fold (fun _ _ => .of_cachesUsed (useWalker_cachesUsed ..)) _ _)).trans
      (.of_cachesUsed (useWalker_cachesUsed ..))).trans (.of_cachesUsed (useGuild_cachesUsed ..))
  · exact block

theorem entryOf_onward (g page : Nat) : Onward s (s.entryOf g page).2 := by
  have found := Onward.of_cachesUsed (cached_cachesUsed s g page)
  unfold State.entryOf
  split
  · next e t hit => rw [hit] at found; exact found
  · next t miss => rw [miss] at found; exact found.trans (walk_onward t g page)

/-! ### Accesses that set out and come back -/

theorem depart_onward (x : Txn) (l : Loc) (link : Nat) : Onward s (s.depart x l link).2 := .of_counted (depart_counted s x l link)

theorem cameBack_onward (x : Txn) (l : Loc) (code : Nat) : Onward s (s.cameBack x l code) :=
  .trans (.of_counted (Counted.trans (t := { s with nextIssue := s.nextIssue + 1 }) rfl (countPath_counted _ _ _ _ _ _))) (putTxn_onward _ _)

theorem fromPort_onward (x : Txn) (code : Nat) : Onward s (s.fromPort x code) := by
  unfold State.fromPort
  split
  · exact cameBack_onward s _ _ _
  · exact putTxn_onward s _

theorem takeBlock_onward : Onward s s.takeBlock.2 := .same rfl rfl rfl

theorem lose_onward (x : Txn) : Onward s (s.lose x) :=
  .ite (fromPort_onward s _ _) ((takeBlock_onward s).trans (fromPort_onward _ _ _))

theorem egressRequest_onward (l : Nat) (x : Txn) (peer addr : Nat) : Onward s (s.egressRequest l x peer addr) := by
  have joins (k : LinkSt) : Onward s ((s.putTxn x).setLink l k) := .same rfl rfl rfl
  unfold State.egressRequest
  dsimp only
  refine .ite (lose_onward s x) (.ite ?_ (joins _))
  split
  · exact joins _
  · exact joins _

theorem landed_onward (x : Txn) (g off : Nat) : Onward s (s.landed x g off) := by
  unfold State.landed
  refine .trans (t := s.dropTxn x.id) (.same rfl rfl rfl) (.fold (fun m c => ?_) _ _)
  exact .same rfl rfl rfl

theorem reached_onward (x : Txn) : Onward s (s.reached x) := by
  unfold State.reached
  split
  · exact egressRequest_onward s _ _ _ _
  · exact .ite (.trans (t := s.hostWrite _ _) (.same rfl rfl rfl) (cameBack_onward _ _ _ _)) (cameBack_onward s _ _ _)
  · exact landed_onward s _ _ _
  · exact .same rfl rfl rfl
  · exact putTxn_onward s _

theorem send_onward (x : Txn) (l : Loc) (link : Nat) : Onward s (s.send x l link) :=
  (depart_onward s x l link).trans (.ite (reached_onward _ _) (putTxn_onward _ _))

theorem spoil_onward (x : Txn) (code : Nat) : Onward s (s.spoil x code) :=
  .ite (putTxn_onward s _) ((takeBlock_onward s).trans (putTxn_onward _ _))

theorem act_onward (x : Txn) (v : Verdict) : Onward s (s.act x v) := by
  unfold State.act
  split
  · exact (raise_onward s _ _).trans (spoil_onward _ _ _)
  · exact putTxn_onward s _
  · split
    · exact send_onward s _ _ _
    · exact spoil_onward s _ _
  · exact send_onward s _ _ _

theorem fanOut_onward (x : Txn) (n off : Nat) : Onward s (s.fanOut x n off) := by
  have copies (u : State) (gs : List Nat) (f : State → Nat → State) (h : ∀ m g, Onward m (f m g)) (hu : Onward s u) :
      Onward s (gs.foldl f (u.dropTxn x.id)) := hu.trans (.trans (t := u.dropTxn x.id) (.same rfl rfl rfl) (.fold h gs _))
  have onDray (g id : Nat) (f : DrayDesc → DrayDesc) : Onward s (s.onDray g id f) := .same rfl rfl rfl
  unfold State.fanOut
  dsimp only
  refine .ite ((takeBlock_onward s).trans (putTxn_onward _ _)) (.ite (.trans (.ite (onDray _ _ _) (.refl s)) (putTxn_onward _ _)) ?_)
  exact copies _ _ _ (fun m _ => .trans (t := m.addTxn _) (.same rfl rfl rfl) (send_onward _ _ _ _)) (.ite (onDray _ _ _) (.refl s))

theorem translate_onward (x : Txn) : Onward s (s.translate x) := by
  unfold State.translate
  refine .ite (act_onward s _ _) ?_
  split
  · exact act_onward s _ _
  · exact fanOut_onward s _ _ _
  · next a _ =>
    have found := Onward.of_cachesUsed (cached_cachesUsed s x.src.guild (a / 65536))
    split
    · next e t hit =>
      rw [hit] at found
      dsimp only
      split
      · exact .ite (found.trans (putTxn_onward t _)) (found.trans (act_onward t _ _))
      · exact found.trans (act_onward t _ _)
    · next t miss =>
      rw [miss] at found
      exact found.trans (putTxn_onward t _)

/-! ### Accesses made within one step -/

theorem readBlock_onward (src : Src) (master dva : Nat) (window : Bool) : Onward s (s.readBlock src master dva window).2 := by
  have entry := entryOf_onward s src.guild (dva / 65536)
  unfold State.readBlock
  dsimp only
  split
  · exact raise_onward s _ _
  · obtain ⟨e, u, look⟩ : ∃ e u, s.entryOf src.guild (dva / 65536) = (e, u) := ⟨_, _, rfl⟩
    rw [look] at entry ⊢
    dsimp only
    split
    · exact entry.trans (raise_onward u _ _)
    · exact entry
    · exact entry
    · exact (entry.trans (readAt_onward u _)).trans (carried_onward _ _ _ _ _)

theorem readPart_onward (src : Src) (master : Nat) (p : Nat × Nat × Nat × Nat) (answers : List PeerAnswer) :
    Onward s (s.readPart src master p answers).2.2 := by
  have read := readBlock_onward s src master p.1 false
  unfold State.readPart
  obtain ⟨got, u, eq⟩ : ∃ got u, s.readBlock src master p.1 false = (got, u) := ⟨_, _, rfl⟩
  rw [eq] at read
  rw [eq]
  dsimp only
  split
  · exact read
  · exact read.trans (takeBlock_onward u)
  · split
    · exact read
    · exact read.trans (.same rfl rfl rfl)

theorem readRange_onward (src : Src) (master dva n : Nat) (answers : List PeerAnswer) :
    Onward s (s.readRange src master dva n answers).2.2 :=
  List.foldlRecOn (motive := fun acc : List (Byte × Bool) × List Nat × State => Onward s acc.2.2) _ _ (.refl s)
    fun acc hacc p _ => hacc.trans (readPart_onward acc.2.2 src master p answers)

theorem writeBlock_onward (src : Src) (master cls dva : Nat) (window : Bool) (runs : Runs) :
    Onward s (s.writeBlock src master cls dva window runs).2 := by
  have entry := entryOf_onward s src.guild (dva / 65536)
  have added (u : State) (x : Txn) : Onward u (({ u with nextIssue := u.nextIssue + 1 } : State).addTxn x) := .same rfl rfl rfl
  unfold State.writeBlock
  dsimp only
  split
  · exact raise_onward s _ _
  · obtain ⟨e, u, look⟩ : ∃ e u, s.entryOf src.guild (dva / 65536) = (e, u) := ⟨_, _, rfl⟩
    rw [look] at entry ⊢
    dsimp only
    split
    · exact entry.trans (raise_onward u _ _)
    · exact entry.trans (added u _)
    · split
      · exact (entry.trans (added u _)).trans (send_onward _ _ _ _)
      · exact entry
    · split
      · exact entry.trans (added u _)
      · exact (entry.trans (carried_onward u _ _ _ _)).trans (writeAt_onward _ _ _)

theorem writeRange_onward (src : Src) (master cls dva : Nat) (bs : List (Byte × Bool)) :
    Onward s (s.writeRange src master cls dva bs).2 :=
  List.foldlRecOn (motive := fun acc : List Nat × State => Onward s acc.2) _ _ (.refl s)
    fun acc hacc p _ => hacc.trans (writeBlock_onward acc.2 src master cls p.1 false _)

/-! ### The library's accesses -/

theorem needRange_onward (g master dva n : Nat) (write : Bool) : Onward s (s.needRange g master dva n write) := .same rfl rfl rfl

theorem libRead_onward (ans : List PeerAnswer) (c a n : Nat) : Onward s (s.libRead ans c a n).2 :=
  (needRange_onward s _ _ _ _ _).trans (readRange_onward _ _ _ _ _ _)

theorem libWrite_onward (c cls a : Nat) (bs : List (Byte × Bool)) : Onward s (s.libWrite c cls a bs) :=
  ((needRange_onward s _ _ _ _ _).trans (writeRange_onward _ _ _ _ _ _)).trans (countCore_onward _ _ _ _)

theorem libWrote_onward (c : Nat) (outs : List (OutElem × Bool)) : Onward s (s.libWrote c outs) :=
  (atCore_onward s c _).trans (.fold (fun t _ => .trans (t := t.takeFree.2.takeFree.2) (.same rfl rfl rfl) (atCore_onward _ _ _)) _ _)

theorem sendLine_onward (c : Nat) (dst : Target) (bs : List (Byte × Bool)) (after : List Nat) : Onward s (s.sendLine c dst bs after) := by
  unfold State.sendLine
  dsimp only
  exact .ite (.same rfl rfl rfl) (.trans (t := s.addTxn _) (.same rfl rfl rfl) (translate_onward _ _))

theorem sendTo_onward (p : Plan) (l : Layout) (c peer off : Nat) (m : Message) (after : List Nat) :
    Onward s (s.sendTo p l c peer off m after) := by
  unfold State.sendTo
  split
  · split
    · exact sendLine_onward s _ _ _ _
    · exact .refl s
  · split
    · exact sendLine_onward s _ _ _ _
    · exact .refl s

theorem askAgain_onward (p : Plan) (l : Layout) (c k : Nat) : Onward s (s.askAgain p l c k) := .fold (fun t _ => sendTo_onward t _ _ _ _ _ _ _) _ s

theorem stageUpdate_onward (ans : List PeerAnswer) (p : Plan) (l : Layout) (c : Nat) (ys : List Copy) :
    Onward s (s.stageUpdate ans p l c ys) := by
  have reads (u : State) (as : List Nat) (f : List (List (Byte × Bool)) × State → Nat → List (List (Byte × Bool)) × State)
      (h : ∀ x a, Onward x.2 (f x a).2) : Onward u (as.foldl f ([], u)).2 :=
    List.foldlRecOn (motive := fun x : List (List (Byte × Bool)) × State => Onward u x.2) _ _ (.refl u) fun x hx a _ => hx.trans (h x a)
  have out (u : State) (x : Collective) : Onward u { u with coll := x } := .same rfl rfl rfl
  unfold State.stageUpdate
  dsimp only
  refine .trans ?_ (out _ _)
  refine .trans ?_ (.fold (fun t _ => libWrite_onward t _ _ _ _) _ _)
  refine .trans ?_ (libWrote_onward _ _ _)
  refine .trans ?_ (atCore_onward _ _ _)
  refine .trans ?_ (libRead_onward _ _ _ _ _)
  refine .trans ?_ (reads _ _ _ fun x a => libRead_onward x.2 _ _ _ _)
  exact (libWrote_onward s _ _).trans (atCore_onward _ _ _)

end

end Sys2Proof.Machine
end

section
/-! The owner core's side of a collective step (R363, R366, R367): comparing the copies of a slot, and taking them. -/

namespace Sys2Proof.Machine

/-! ### Tables and sets of indices -/

theorem Tab.find_of_lt {α : Type} {k : Nat} : ∀ {t : Tab α} {lo : Nat}, Tab.risingFrom lo t = true → k < lo → Tab.find t k = none
  | [], _, _, _ => rfl
  | (i, b) :: t, lo, rising, low => by
    simp only [Tab.risingFrom, Bool.and_eq_true, decide_eq_true_eq] at rising
    rw [Tab.find, if_neg (by omega), if_pos (by omega)]

/-- A removed index is not listed, every other as before. -/
theorem Tab.find_erase {α : Type} (k j : Nat) : ∀ {t : Tab α} {lo : Nat}, Tab.risingFrom lo t = true →
    Tab.find (Tab.erase t k) j = if j = k then none else Tab.find t j
  | [], _, _ => (ite_self _).symm
  | (i, b) :: t, lo, rising => by
    simp only [Tab.risingFrom, Bool.and_eq_true, decide_eq_true_eq] at rising
    rw [Tab.erase]
    by_cases here : i = k
    · rw [if_pos here]
      subst here
      by_cases hj : j = i
      · rw [if_pos hj, hj, Tab.find_of_lt rising.2 (Nat.lt_succ_self i)]
      · rw [if_neg hj, Tab.find, if_neg (Ne.symm hj)]
        split
        · exact Tab.find_of_lt rising.2 (by omega)
        · rfl
    · rw [if_neg here]
      by_cases low : k < i
      · rw [if_pos low]
        split
        · next hj => rw [hj, Tab.find, if_neg here, if_pos low]
        · rfl
      · rw [if_neg low, Tab.find, Tab.find, Tab.find_erase k j rising.2]
        by_cases hj : j = k
        · rw [hj, if_pos rfl, if_pos rfl, if_neg here, if_neg low]
        · rw [if_neg hj, if_neg hj]

/-- Setting each index of a list to a value of its own. -/
theorem find_foldl_set_of {α : Type} (f : Nat → α) {k : Nat} : ∀ (l : List Nat) (t : Tab α), k ∈ l ∨ Tab.find t k = some (f k) →
    Tab.find (l.foldl (fun (t : Tab α) c => t.set c (f c)) t) k = some (f k)
  | [], _, h => h.resolve_left List.not_mem_nil
  | c :: l, t, h => by
    refine find_foldl_set_of f l _ ?_
    rw [Tab.find_set]
    by_cases here : k = c
    · exact .inr (by rw [if_pos here, here])
    · rw [if_neg here]
      exact h.imp_left fun mem => (List.mem_cons.1 mem).resolve_left here

theorem mem_idxAdd : ∀ (l : List Nat) (k : Nat), k ∈ idxAdd l k
  | [], k => List.mem_singleton_self k
  | i :: t, k => by
    rw [idxAdd]
    split
    · next same => exact same ▸ List.mem_cons_self
    · split
      · exact List.mem_cons_self
      · exact List.mem_cons_of_mem _ (mem_idxAdd t k)

theorem contains_idxAdd (l : List Nat) (k : Nat) : (idxAdd l k).contains k = true := List.contains_iff_mem.2 (mem_idxAdd l k)

theorem mem_of_mem_idxDel {j k : Nat} : ∀ {l : List Nat}, j ∈ idxDel l k → j ∈ l
  | [], h => h
  | i :: t, h => by
    rw [idxDel] at h
    split at h
    · exact List.mem_cons_of_mem _ h
    · split at h
      · exact h
      · obtain rfl | h := List.mem_cons.1 h
        · exact List.mem_cons_self
        · exact List.mem_cons_of_mem _ (mem_of_mem_idxDel h)

theorem contains_idxDel {l : List Nat} {j : Nat} (k : Nat) (h : l.contains j = false) : (idxDel l k).contains j = false :=
  Bool.eq_false_iff.2 fun inside => Bool.eq_false_iff.1 h (List.contains_iff_mem.2 (mem_of_mem_idxDel (List.contains_iff_mem.1 inside)))

/-! ### Comparing the copies of a slot (R367) -/

/-- Copies have been compared: only what is known of divergence has changed. -/
def Compared (x y : Collective) : Prop :=
  y = { x with recomputing := y.recomputing, diverged := y.diverged, holdDivergence := y.holdDivergence }

theorem Compared.trans {x y z : Collective} (h : Compared x y) (h' : Compared y z) : Compared x z := by
  unfold Compared at h h'
  generalize y.recomputing = a, y.diverged = b, y.holdDivergence = c at h
  subst h
  exact h'

section
variable (s : State) (p : Plan) (l : Layout) (c k : Nat)

theorem askAgain_coll : (s.askAgain p l c k).coll = s.coll := State.foldl_coll (fun t _ => t.sendTo_coll _ _ _ _ _ _ _) _ s

theorem withColl_onward (x : Collective) : Onward s { s with coll := x } := .same rfl rfl rfl

theorem compareCopies_compared : Compared s.coll (s.compareCopies p l c k).coll ∧ Onward s (s.compareCopies p l c k) := by
  have told (a b : Copy) : Onward s (s.divergence p c k a b) := raise_onward s _ _
  unfold State.compareCopies
  dsimp only
  split
  · next a b _ _ =>
    split
    · exact ⟨rfl, .refl s⟩
    · split
      · exact ⟨rfl, withColl_onward s _⟩
      · split
        · exact ⟨rfl, told a b⟩
        · split
          · refine ⟨?_, (told a b).trans ((withColl_onward _ _).trans (askAgain_onward _ _ _ _ _))⟩
            rw [askAgain_coll]
            exact rfl
          · exact ⟨rfl, (told a b).trans (withColl_onward _ _)⟩
  · exact ⟨rfl, .refl s⟩

variable {s k} {a b : Copy}

theorem compareCopies_of_absent {r : Nat} (hr : r < 2) (absent : s.coll.copy c k r = none) : s.compareCopies p l c k = s := by
  unfold State.compareCopies
  dsimp only
  split
  · next h0 h1 =>
    obtain rfl | rfl : r = 0 ∨ r = 1 := by omega
    · exact nomatch absent.symm.trans h0
    · exact nomatch absent.symm.trans h1
  · rfl

variable {c} (first : s.coll.copy c k 0 = some a) (second : s.coll.copy c k 1 = some b) (calm : s.coll.recomputing.contains (pairKey c k) = false)
include first second calm

theorem compareCopies_agree (agree : a.agrees b = true) : s.compareCopies p l c k =
    { s with coll := { s.coll with recomputing := idxDel s.coll.recomputing (pairKey c k) } } := by
  unfold State.compareCopies
  simp only [first, second, calm, agree, Bool.false_eq_true, false_and, if_false, if_true]

theorem compareCopies_differ (differ : a.agrees b = false) :
    s.compareCopies p l c k = if s.coll.voted = true then s.divergence p c k a b
      else if p.policy = 2 ∧ a.attempt = 0 ∧ b.attempt = 0 then
        ({ s.divergence p c k a b with coll := { s.coll with recomputing := idxAdd s.coll.recomputing (pairKey c k) } } : State).askAgain p l c k
      else { s.divergence p c k a b with coll := { s.coll with
        recomputing := idxDel s.coll.recomputing (pairKey c k), diverged := idxAdd s.coll.diverged (pairKey c k),
        holdDivergence := s.coll.holdDivergence || decide (p.policy ≠ 1) } } := by
  unfold State.compareCopies
  simp only [first, second, calm, differ, Bool.false_eq_true, false_and, if_false, Bool.not_false, true_and]

end

/-! ### Taking the copies of a core (R363, R366) -/

/-- Copies have been taken and updates staged: only what is taken, its sums, generators and what is staged have changed. -/
def Resettled (x y : Collective) : Prop :=
  y = { x with taken := y.taken, sums := y.sums, generators := y.generators, staged := y.staged }

theorem Resettled.refl (x : Collective) : Resettled x x := rfl

theorem Resettled.trans {x y z : Collective} (h : Resettled x y) (h' : Resettled y z) : Resettled x z := by
  unfold Resettled at h h'
  generalize y.taken = a, y.sums = b, y.generators = c, y.staged = d at h
  subst h
  exact h'

/-- What no settling changes reads as before. -/
theorem Resettled.read {x y : Collective} {β : Type} (h : Resettled x y) (f : Collective → β)
    (hf : ∀ (x : Collective) a b c d, f { x with taken := a, sums := b, generators := c, staged := d } = f x := by exact fun _ _ _ _ _ => rfl) :
    f y = f x := (congrArg f h).trans (hf x _ _ _ _)

theorem choose_congr {x y : Collective} (h : Resettled x y) {c k : Nat} (same : y.taken.find (pairKey c k) = x.taken.find (pairKey c k))
    (hasBackup : Bool) : y.choose c k hasBackup = x.choose c k hasBackup := by
  unfold Resettled at h
  generalize y.taken = a, y.sums = b, y.generators = d, y.staged = e at h same
  subst h
  unfold Collective.choose
  simp only [same]
  rfl

section
variable (s : State) (ans : List PeerAnswer) (p : Plan) (l : Layout) (c k : Nat)

theorem stageUpdate_resettled (ys : List Copy) : Resettled s.coll (s.stageUpdate ans p l c ys).coll ∧
    (s.stageUpdate ans p l c ys).coll.taken = s.coll.taken := by
  obtain ⟨sums, gens, staged, eq⟩ := s.stageUpdate_coll ans p l c ys
  rw [eq]
  exact ⟨rfl, rfl⟩

/-- A slot is settled: its key holds the role chosen, or nothing. -/
theorem settleSlot_resettled : Resettled s.coll (s.settleSlot ans p l c k).coll ∧ Onward s (s.settleSlot ans p l c k) ∧
    (Tab.wf s.coll.taken = true → Tab.wf (s.settleSlot ans p l c k).coll.taken = true ∧
      ∀ j, (s.settleSlot ans p l c k).coll.taken.find j =
        if j = pairKey c k then s.coll.choose c k (p.backup p.ownStage k).isSome else s.coll.taken.find j) := by
  unfold State.settleSlot
  dsimp only
  cases chosen : s.coll.choose c k (p.backup p.ownStage k).isSome with
  | none =>
    refine ⟨rfl, withColl_onward s _, fun wf => ⟨Tab.wf_erase _ wf, fun j => ?_⟩⟩
    exact Tab.find_erase _ _ wf
  | some r =>
    dsimp only
    split
    · next done =>
      refine ⟨rfl, .refl s, fun wf => ⟨wf, fun j => ?_⟩⟩
      split
      · next same => rw [same, done.1]
      · rfl
    · have took : Resettled s.coll { s.coll with taken := s.coll.taken.set (pairKey c k) r } := rfl
      have find (wf : Tab.wf s.coll.taken = true) : Tab.wf (s.coll.taken.set (pairKey c k) r) = true ∧
          ∀ j, (s.coll.taken.set (pairKey c k) r).find j = if j = pairKey c k then some r else s.coll.taken.find j :=
        ⟨Tab.wf_set _ _ wf, fun j => Tab.find_set _ _ _ _⟩
      have on : Onward s { s with coll := { s.coll with taken := s.coll.taken.set (pairKey c k) r } } := withColl_onward s _
      split
      · next ys _ =>
        obtain ⟨staged, taken⟩ := stageUpdate_resettled { s with coll := { s.coll with taken := s.coll.taken.set (pairKey c k) r } } ans p l c ys
        exact ⟨took.trans staged, on.trans (stageUpdate_onward _ _ _ _ _ _), fun wf => taken.symm ▸ find wf⟩
      · exact ⟨took, on, find⟩

/-- The first `n` slots of a core are settled. -/
theorem settleSlots_resettled (n : Nat) :
    Resettled s.coll ((List.range n).foldl (fun (s : State) k => s.settleSlot ans p l c k) s).coll ∧
    Onward s ((List.range n).foldl (fun (s : State) k => s.settleSlot ans p l c k) s) ∧
    (Tab.wf s.coll.taken = true →
      Tab.wf ((List.range n).foldl (fun (s : State) k => s.settleSlot ans p l c k) s).coll.taken = true ∧
      (∀ j < n, ((List.range n).foldl (fun (s : State) k => s.settleSlot ans p l c k) s).coll.taken.find (pairKey c j) =
        s.coll.choose c j (p.backup p.ownStage j).isSome) ∧
      ∀ j, n ≤ j → ((List.range n).foldl (fun (s : State) k => s.settleSlot ans p l c k) s).coll.taken.find (pairKey c j) =
        s.coll.taken.find (pairKey c j)) := by
  induction n with
  | zero => exact ⟨.refl _, .refl s, fun wf => ⟨wf, fun j hj => absurd hj (Nat.not_lt_zero j), fun _ _ => rfl⟩⟩
  | succ n ih =>
    rw [List.range_succ, List.foldl_append]
    obtain ⟨settled, on, found⟩ := ih
    obtain ⟨u, hu⟩ : ∃ u, u = (List.range n).foldl (fun (s : State) k => s.settleSlot ans p l c k) s := ⟨_, rfl⟩
    rw [← hu] at settled on found ⊢
    obtain ⟨settled', on', found'⟩ := settleSlot_resettled u ans p l c n
    refine ⟨settled.trans settled', on.trans on', fun wf => ?_⟩
    obtain ⟨wfU, done, left⟩ := found wf
    obtain ⟨wfV, find⟩ := found' wfU
    refine ⟨wfV, fun j hj => ?_, fun j hj => ?_⟩
    · show (u.settleSlot ans p l c n).coll.taken.find (pairKey c j) = _
      rw [find]
      by_cases same : j = n
      · subst same
        rw [if_pos rfl, choose_congr settled (left j (Nat.le_refl j))]
      · rw [if_neg (by unfold pairKey; omega), done j (by omega)]
    · show (u.settleSlot ans p l c n).coll.taken.find (pairKey c j) = _
      rw [find, if_neg (by unfold pairKey; omega), left j (by omega)]

theorem settleCore_resettled : Resettled s.coll (s.settleCore ans p l c).coll ∧ Onward s (s.settleCore ans p l c) := by
  unfold State.settleCore
  split
  · exact ⟨.refl _, .refl s⟩
  · exact ⟨(settleSlots_resettled s ans p l c _).1, (settleSlots_resettled s ans p l c _).2.1⟩

/-- Each slot of a core whose phase has begun is settled as things stand. -/
theorem settleCore_taken {s : State} {p : Plan} {c k : Nat} (voted : s.coll.voted = false) (began : (s.coll.began.find c).isSome = true)
    (wf : Tab.wf s.coll.taken = true) (hk : k < p.slotCount) : (s.settleCore ans p l c).coll.taken.find (pairKey c k) =
      s.coll.choose c k (p.backup p.ownStage k).isSome := by
  obtain ⟨-, -, settled⟩ := settleSlots_resettled s ans p l c p.slotCount
  obtain ⟨-, done, -⟩ := settled wf
  unfold State.settleCore
  rw [if_neg]
  · exact done k hk
  · rw [voted, Option.isNone_eq_false_iff.2 began]
    decide

end

end Sys2Proof.Machine
end

section
/-! The plan and the contributions of a module (R351, R354 to R361). -/

namespace Sys2Proof.Machine

/-! ### The plan (R351) -/

theorem leastOf_zero : ∀ {os : List Nat}, 0 ∈ os → leastOf os = some 0
  | o :: os, mem => by
    have least (l : List Nat) (a : Nat) (h : a = 0 ∨ 0 ∈ l) : l.foldl min a = 0 := by
      induction l generalizing a with
      | nil => exact h.resolve_right List.not_mem_nil
      | cons b l ih =>
        refine ih _ ?_
        obtain rfl | mem := h
        · exact .inl (Nat.zero_min b)
        · obtain rfl | mem := List.mem_cons.1 mem
          · exact .inl (Nat.min_zero a)
          · exact .inr mem
    exact congrArg some (least os o ((List.mem_cons.1 mem).imp_left Eq.symm))

theorem leastOf_some : ∀ {os : List Nat}, os ≠ [] → ∃ o, leastOf os = some o
  | _ :: _, _ => ⟨_, rfl⟩

section
variable {s : State} {lay : Layout} {bs : List (Byte × Bool)}

/-- A plan of another version is at fault at its byte 0. -/
theorem planFault_version (other : leNat ((bs.map (·.1)).take 2) ≠ 1) : s.planFault bs = some 0 := by
  have fault : decide (fieldAt (bs.map (·.1)) 0 2 ≠ 1) = true := decide_eq_true other
  unfold State.planFault
  dsimp only
  refine leastOf_zero (List.mem_append_left _ ?_)
  unfold planFaults
  dsimp only
  iterate 14 apply List.mem_append_left
  apply List.mem_append_right
  rw [fault]
  exact List.mem_singleton_self 0

theorem planFault_unreadable (closed : ∃ d ∈ s.liveCores, (s.core d).gauger.permits 255 = false) : ∃ o, s.planFault bs = some o := by
  obtain ⟨d, live, shut⟩ := closed
  have noRead : (s.liveCores.any fun d => !(s.core d).gauger.permits 255) = true :=
    List.any_eq_true.2 ⟨d, live, by rw [shut]; rfl⟩
  unfold State.planFault
  dsimp only
  rw [noRead]
  refine leastOf_some ?_
  exact List.append_ne_nil_of_right_ne_nil _ (List.cons_ne_nil _ _)

theorem takePlan_takes (sound : s.planFault bs = none) : s.takePlan lay bs = { s with coll :=
    { plan := some (planOf (bs.map (·.1))), layout := some lay, step := leNat (((bs.map (·.1)).drop 24).take 8) } } := by
  rw [State.takePlan, sound]
  rfl

theorem takePlan_refuses {o : Nat} (fault : s.planFault bs = some o) :
    s.takePlan lay bs = { s with occurrences := s.occurrences ++ [⟨0x50, [BitVec.ofNat 64 o]⟩] } := by
  rw [State.takePlan, fault]
  rfl

end

theorem planStart_takes {s u : State} {c : CoreId} {dva : BitVec 41} {lay : Layout} {bs : List (Byte × Bool)} (runs : s.coreRuns c = true)
    (read : (bs, u) = s.libRead (libAnswers s) c dva.toNat 33024) :
    ∃ t, exec (.planStart c dva lay) s = .next t ∧ LibDone (u.takePlan lay bs) t := by
  refine ⟨_, rfl, libDone_withAnswers ?_⟩
  rw [if_neg (by rw [runs]; decide), ← read]

/-- R351: a plan takes effect, or its first fault is named. -/
theorem planStart_settled {s u : State} {c : CoreId} {dva : BitVec 41} {lay : Layout} {bs : List (Byte × Bool)} (runs : s.coreRuns c = true)
    (read : (bs, u) = s.libRead (libAnswers s) c dva.toNat 33024) (given : u.asks = []) :
    ∃ t, exec (.planStart c dva lay) s = .next t ∧
      (u.planFault bs = none → LibDone { u with coll :=
        { plan := some (planOf (bs.map (·.1))), layout := some lay, step := leNat (((bs.map (·.1)).drop 24).take 8) } } t) ∧
      (∀ o, u.planFault bs = some o → LibDone { u with occurrences := u.occurrences ++ [⟨0x50, [BitVec.ofNat 64 o]⟩] } t) ∧
      (leNat ((bs.map (·.1)).take 2) ≠ 1 → LibDone { u with occurrences := u.occurrences ++ [⟨0x50, [0]⟩] } t) ∧
      ((∃ d ∈ u.liveCores, (u.core d).gauger.permits 255 = false) → t.coll = u.coll) := by
  obtain ⟨t, ran, done⟩ := planStart_takes (lay := lay) runs read
  have refused (o : Nat) (fault : u.planFault bs = some o) :
      LibDone { u with occurrences := u.occurrences ++ [⟨0x50, [BitVec.ofNat 64 o]⟩] } t := takePlan_refuses fault ▸ done
  refine ⟨t, ran, fun sound => takePlan_takes sound ▸ done, refused, fun other => refused 0 (planFault_version other), fun closed => ?_⟩
  obtain ⟨o, fault⟩ := planFault_unreadable (bs := bs) closed
  rw [refused o fault given]

/-! ### The reduction phase (R366) -/

theorem beginPhase_begun {s : State} {p : Plan} (h : s.coll.began ≠ [] ∨ s.ownerCores p = []) : s.beginPhase p = s := by
  unfold State.beginPhase
  split
  · rfl
  · next none =>
    have empty : s.coll.began = [] := not_not.1 none
    rw [h.resolve_left none, List.foldl_nil, ← empty]

theorem ownerCores_onward {s t : State} (h : Onward s t) (p : Plan) : t.ownerCores p = s.ownerCores p := by
  unfold State.ownerCores State.ownsPiece State.ownPiece
  rw [h.liveCores]

theorem slotCores_onward {s t : State} (h : Onward s t) (p : Plan) (l : Layout) (k : Nat) : t.slotCores p l k = s.slotCores p l k := by
  unfold State.slotCores
  rw [h.ownPeer, h.liveCores]

theorem areaOf_onward {s t : State} (h : Onward s t) (p : Plan) (l : Layout) (peer : Nat) : t.areaOf p l peer = s.areaOf p l peer := by
  unfold State.areaOf
  rw [h.ownPeer]

/-- Copies compared and taken leave the copies themselves, the step and the start of its phase. -/
def Collective.phase (x : Collective) : Tab Nat × List Copy × Nat := (x.began, x.copies, x.step)

theorem Compared.phase {x y : Collective} (h : Compared x y) : y.phase = x.phase := by
  unfold Compared at h
  rw [h]
  rfl

theorem phaseCores_phase (ans : List PeerAnswer) (p : Plan) (l : Layout) (cs : List Nat) (s : State) :
    (cs.foldl (fun (s : State) c =>
      ((List.range p.slotCount).foldl (fun (s : State) k => s.compareCopies p l c k) s).settleCore ans p l c) s).coll.phase = s.coll.phase ∧
    Onward s (cs.foldl (fun (s : State) c =>
      ((List.range p.slotCount).foldl (fun (s : State) k => s.compareCopies p l c k) s).settleCore ans p l c) s) := by
  have compared (t : State) (c : Nat) : ((List.range p.slotCount).foldl (fun (s : State) k => s.compareCopies p l c k) t).coll.phase = t.coll.phase :=
    foldl_keeps (fun u : State => u.coll.phase) (fun u k => (compareCopies_compared u p l c k).1.phase) _ t
  refine ⟨foldl_keeps (fun u : State => u.coll.phase) (fun u c => ?_) cs s, .fold (fun u c => ?_) cs s⟩
  · exact ((settleCore_resettled _ ans p l c).1.read Collective.phase).trans (compared u c)
  · exact (Onward.fold (fun t k => (compareCopies_compared t p l c k).2) _ u).trans (settleCore_resettled _ ans p l c).2

/-- The reduction phase begins: each owner core has its C0, and the copies stay. -/
theorem startPhase_begins {s : State} {ans : List PeerAnswer} {p : Plan} {l : Layout} (fresh : s.coll.began = []) :
    Onward s (s.startPhase ans p l) ∧
    (∀ d ∈ s.ownerCores p, (s.startPhase ans p l).coll.began.find d = some ((s.counterWord d 255).toNat % 2 ^ 48)) ∧
    (s.startPhase ans p l).coll.copies = s.coll.copies ∧ (s.startPhase ans p l).coll.step = s.coll.step := by
  obtain ⟨u, hu⟩ : ∃ u, u = s.beginPhase p := ⟨_, rfl⟩
  have begun : u = { s with coll := { s.coll with
      began := (s.ownerCores p).foldl (fun (t : Tab Nat) c => t.set c ((s.counterWord c 255).toNat % 2 ^ 48)) [] } } :=
    hu.trans (if_neg (not_not.2 fresh))
  have started : s.startPhase ans p l = (u.ownerCores p).foldl (fun (s : State) c =>
      ((List.range p.slotCount).foldl (fun (s : State) k => s.compareCopies p l c k) s).settleCore ans p l c) u := by
    rw [hu]
    exact if_neg (not_not.2 fresh)
  obtain ⟨phase, on⟩ := phaseCores_phase ans p l (u.ownerCores p) u
  rw [← started] at phase on
  obtain ⟨began, copies, step⟩ : _ ∧ _ ∧ _ := ⟨congrArg (·.1) phase, congrArg (·.2.1) phase, congrArg (·.2.2) phase⟩
  refine ⟨.trans (begun ▸ withColl_onward s _) on, fun d hd => ?_, copies.trans (by rw [begun]; rfl), step.trans (by rw [begun]; rfl)⟩
  have set : u.coll.began = (s.ownerCores p).foldl (fun (t : Tab Nat) c => t.set c ((s.counterWord c 255).toNat % 2 ^ 48)) [] := by
    rw [begun]
  have find := find_foldl_set_of (fun c => (s.counterWord c 255).toNat % 2 ^ 48) (s.ownerCores p) [] (.inl hd)
  rw [← set] at find
  exact (congrArg (Tab.find · d) began).trans find

/-- The phase that has been started is begun, or the module has no owner core. -/
theorem startPhase_begun {s : State} {ans : List PeerAnswer} {p : Plan} {l : Layout} (fresh : s.coll.began = []) :
    (s.startPhase ans p l).coll.began ≠ [] ∨ (s.startPhase ans p l).ownerCores p = [] := by
  obtain ⟨on, find, -, -⟩ := startPhase_begins (ans := ans) (p := p) (l := l) fresh
  rw [ownerCores_onward on]
  cases owners : s.ownerCores p with
  | nil => exact .inr rfl
  | cons d ds =>
    refine .inl fun empty => ?_
    have found := find d (owners ▸ List.mem_cons_self)
    rw [empty] at found
    exact nomatch found

/-! ### Contributions (R356 to R362) -/

theorem sendPiece_contributed {s : State} (ans : List PeerAnswer) {p : Plan} {l : Layout} (c : Nat) {k q area first n : Nat} (attempt : Nat)
    (piece : (first, n) = p.piece k (s.slotCores p l k) q) (there : s.areaOf p l (p.primary p.ownStage k) = some area) :
    Contributed s (s.sendPiece ans p l c k q area first n attempt) ans p l c k q attempt := by
  refine ⟨first, n, area, _, ((s.libRead ans c (l.gradient.toNat + 256 * first) (256 * n)).2.readError ans p c s.coll.step first n).1, _, _, _,
    ((s.libRead ans c (l.gradient.toNat + 256 * first) (256 * n)).2.readError ans p c s.coll.step first n).2, _, _,
    piece, there, rfl, fun first_ => ?_, fun later => ?_, rfl, rfl, rfl, rfl, _, rfl, rfl⟩
  · rw [State.readError, if_pos first_]
    exact ⟨rfl, rfl⟩
  · rw [State.readError, if_neg later]
    rfl

theorem contribute_contributed {s : State} (ans : List PeerAnswer) {p : Plan} {l : Layout} (c : Nat) {k q : Nat} (attempt : Nat)
    (begun : s.coll.began ≠ [] ∨ s.ownerCores p = []) (slot : k < p.slotCount) (some_ : 0 < (p.piece k (s.slotCores p l k) q).2)
    (there : (s.areaOf p l (p.primary p.ownStage k)).isSome = true) :
    Contributed s (s.contribute ans p l c k q attempt) ans p l c k q attempt := by
  obtain ⟨area, harea⟩ := Option.isSome_iff_exists.1 there
  have sends : s.contribute ans p l c k q attempt = s.sendPiece ans p l c k q area (p.piece k (s.slotCores p l k) q).1
      (p.piece k (s.slotCores p l k) q).2 attempt := by
    unfold State.contribute
    dsimp only
    rw [harea]
    dsimp only
    rw [if_pos ⟨slot, some_⟩, beginPhase_begun begun]
  rw [sends]
  exact sendPiece_contributed ans c attempt rfl harea

section
variable {s : State} {p : Plan} {l : Layout} {c : CoreId} {k : Fin 64} {q : CoreId}

/-- A piece is thinned once every core has completed its schedule (R354, R360). -/
theorem contributionSend_sends (planned : Planned s p l) (runs : s.coreRuns c = true) (held : s.coll.held = false) (slot : k.val < p.slotCount)
    (done : ∀ d ∈ s.liveCores, (s.core d).scheduleDone = true) : ∃ t, exec (.contributionSend c k q) s = .next t ∧
      LibDone ((s.startPhase (libAnswers s) p l).contribute (libAnswers s) p l c k q 0) t := by
  refine ⟨_, rfl, libDone_withAnswers ?_⟩
  rw [planned_plan? planned]
  exact if_pos ⟨runs, by rw [held]; rfl, List.all_eq_true.2 done, slot⟩

theorem contributionSend_waits (planned : Planned s p l) (busy : ∃ d ∈ s.liveCores, (s.core d).scheduleDone = false) :
    ∃ t, exec (.contributionSend c k q) s = .next t ∧ LibDone s t := by
  obtain ⟨d, live, works⟩ := busy
  refine ⟨_, rfl, libDone_withAnswers ?_⟩
  rw [planned_plan? planned]
  refine if_neg ?_
  rintro ⟨-, -, all, -⟩
  have ended := List.all_eq_true.1 all d live
  rw [works] at ended
  exact nomatch ended

/-- A contributor asked again thins its piece with attempt 1 (R367). -/
theorem recompute_sends {d n : Nat} {m : Message} (planned : Planned s p l) (runs : s.coreRuns c = true) (held : s.coll.held = false)
    (line : s.lineOf (p.coll + 0x400C00000 + k * 64) = some (d, n)) (message : (s.messageAt d n).1 = m) (clean : (s.messageAt d n).2.2 = false)
    (kind : m.kind = 3) (step : m.step = s.coll.step) (slot : m.slot = k.val) :
    ∃ t, exec (.recompute c k q) s = .next t ∧ LibDone ((s.readLine d n).contribute (libAnswers s) p l c k q 1) t := by
  subst message
  have place : s.lineOf (p.coll + recomputeOff k) = some (d, n) := (congrArg s.lineOf (Nat.add_assoc _ _ _).symm).trans line
  refine ⟨_, rfl, libDone_withAnswers ?_⟩
  rw [planned_plan? planned]
  dsimp only
  rw [place]
  exact if_pos ⟨runs, by rw [clean]; rfl, kind, step, slot, by rw [held]; rfl⟩

/-- A TOKEN in a lead core's line is relayed to its owner core (R360). -/
theorem tokenReceive_relays {r : Fin 2} {d n : Nat} (planned : Planned s p l)
    (line : s.lineOf (p.coll + 0x400000000 + q / 32 * 262144 + ((2 * k + r) * 32 + q % 32) * 64) = some (d, n)) (other : d ≠ q.val)
    (runs : s.coreRuns d = true) : ∃ t, exec (.tokenReceive q k r false) s = .next t ∧
      LibDone ((s.readLine d n).sendLine d (.core q (64 * ((l.relay + 2 * k + r) % 8192))) (s.messageAt d n).2.1 []) t := by
  have place : s.lineOf (p.coll + tokenOff k r q) = some (d, n) :=
    (congrArg s.lineOf (by unfold tokenOff; omega)).trans line
  refine ⟨_, rfl, libDone_withAnswers ?_⟩
  rw [planned_plan? planned]
  dsimp only
  rw [if_neg (by decide), place]
  dsimp only
  rw [if_neg other, if_pos runs]

end

end Sys2Proof.Machine
end

section
/-! TOKENs and lateness (R363, R366, R367), and the statement about contributions settled. -/

namespace Sys2Proof.Machine

/-! ### The role chosen for a slot (R363, R366, Table 14.8) -/

section
variable {x : Collective} {c k : Nat} {y : Copy}

theorem choose_of_recomputing (again : x.recomputing.contains (pairKey c k) = true) (b : Bool) : x.choose c k b = none := by
  unfold Collective.choose
  simp only [again, if_true]

theorem choose_of_diverged (calm : x.recomputing.contains (pairKey c k) = false) (diverged : x.diverged.contains (pairKey c k) = true) (b : Bool) :
    x.choose c k b = some 0 := by
  unfold Collective.choose
  simp only [calm, diverged, Bool.false_eq_true, if_false, if_true]

variable (calm : x.recomputing.contains (pairKey c k) = false) (one : x.diverged.contains (pairKey c k) = false)
  (open_ : x.taken.find (pairKey c k) = none)
include calm one open_

/-- A clean copy of the primary is taken when it is there alone, late or not. -/
theorem choose_of_primary (there : x.present c k 0 = some y) (clean : y.poison = false) (alone : x.present c k 1 = none) (b : Bool) :
    x.choose c k b = some 0 := by
  unfold Collective.choose
  simp only [calm, one, open_, there, alone, clean, Option.any_some, Option.any_none, Option.isSome_some, Option.isSome_none,
    Bool.false_eq_true, if_false, if_true, Bool.not_false]
  cases b <;> cases x.late.contains (pairKey c k) <;> rfl

/-- A clean copy of the backup is taken for a primary that is late and has sent no clean one. -/
theorem choose_of_late (late : x.late.contains (pairKey c k) = true) (there : x.present c k 1 = some y) (clean : y.poison = false) :
    x.choose c k true = some 1 := by
  unfold Collective.choose
  simp only [calm, one, open_, late, there, clean, Option.any_some, Bool.false_eq_true, if_false, if_true, Bool.not_false, Bool.not_true,
    and_false, true_or]

end

/-! ### A copy joins those present (R363) -/

/-- The records with a copy in place of the one of its core, slot and role, of the step or of a later one. -/
def Collective.withToken (x : Collective) (y : Copy) : Collective :=
  { x with copies := x.copies.filter (fun z => !(z.core = y.core && z.slot = y.slot && z.role = y.role &&
      decide (x.step < z.step) = decide (x.step < y.step))) ++ [y] }

theorem takeToken_copy (s : State) (ans : List PeerAnswer) (p : Plan) (c : Nat) (m : Message) (mark : Bool) : ∃ y : Copy,
    (s.takeToken ans p c m mark).coll = s.coll.withToken y ∧ y.core = c ∧ y.slot = m.slot ∧ y.role = m.code ∧ y.attempt = m.attempt ∧
      y.step = m.step ∧ y.digest = m.digest ∧ y.first = m.first ∧ y.blocks = m.blocks ∧ (mark = true → y.poison = true) ∧
      (y.poison = false → ∀ b ∈ y.data, b.2 = false) := by
  refine ⟨⟨c, m.slot, m.code, m.attempt, m.step, m.blocks, m.first, m.digest, _, _⟩, rfl, rfl, rfl, rfl, rfl, rfl, rfl, rfl, rfl,
    fun marked => ?_, fun clean => ?_⟩
  · dsimp only
    rw [marked, Bool.true_or]
  · obtain ⟨unmarked, none⟩ := Bool.or_eq_false_iff.1 clean
    dsimp only
    rw [unmarked, if_neg (by decide)]
    exact fun b hb => Bool.eq_false_iff.2 (List.any_eq_false.1 none b hb)

section
variable {x : Collective} {y : Copy}

theorem copy_withToken_same (due : y.step ≤ x.step) : (x.withToken y).copy y.core y.slot y.role = some y := by
  unfold Collective.copy Collective.withToken
  dsimp only
  rw [List.find?_append, List.find?_filter, List.find?_eq_none.2, Option.none_or]
  · exact List.find?_cons_of_pos (by simp [due])
  · intro z _
    simp only [Bool.and_eq_true, decide_eq_true_eq, not_and, Bool.not_eq_eq_eq_not, Bool.not_true, Bool.and_eq_false_imp]
    intro keeps mine early
    refine absurd (keeps mine) (by simp [Nat.not_lt.2 early, Nat.not_lt.2 due])

theorem copy_withToken_other {c k r : Nat} (other : r ≠ y.role) : (x.withToken y).copy c k r = x.copy c k r := by
  unfold Collective.copy Collective.withToken
  dsimp only
  rw [List.find?_append, List.find?_filter]
  have last : [y].find? (fun z => z.core = c && z.slot = k && z.role = r && decide (z.step ≤ x.step)) = none :=
    List.find?_cons_of_neg (by simp [Ne.symm other])
  rw [last, Option.or_none]
  congr 1
  funext z
  by_cases hrole : z.role = r
  · simp [hrole, other]
  · simp [hrole]

theorem present_withToken (now : y.step = x.step) : (x.withToken y).present y.core y.slot y.role = some y := by
  unfold Collective.present Collective.withToken
  dsimp only
  rw [List.find?_append, List.find?_filter, List.find?_eq_none.2, Option.none_or]
  · exact List.find?_cons_of_pos (by simp [now])
  · intro z _
    simp only [Bool.and_eq_true, decide_eq_true_eq, not_and, Bool.not_eq_eq_eq_not, Bool.not_true, Bool.and_eq_false_imp]
    intro keeps mine same
    exact absurd (keeps mine) (by simp [now, same])

theorem present_of_copy_none {c k r : Nat} (absent : x.copy c k r = none) : x.present c k r = none := by
  unfold Collective.copy at absent
  unfold Collective.present
  rw [List.find?_eq_none] at absent ⊢
  intro z hz there
  refine absent z hz ?_
  simp only [Bool.and_eq_true, decide_eq_true_eq] at there ⊢
  exact ⟨there.1, Nat.le_of_eq there.2⟩

end

/-! ### TOKEN_RECEIVE (R360, R363, R367) -/

section
variable {s : State} {p : Plan} {l : Layout} {c : CoreId} {k : Fin 64} {r : Fin 2} {n : Nat} {relayed : Bool} {m : Message} {mark : Bool}

theorem receiveToken_takes (ans : List PeerAnswer) (token : TokenFor s p c n k r m mark) : s.receiveToken ans p l c n k r =
    if (((s.readLine c n).takeToken ans p c m mark).coll.began.find c).isNone = true ∨ ((s.readLine c n).takeToken ans p c m mark).coll.step < m.step
    then (s.readLine c n).takeToken ans p c m mark
    else (((s.readLine c n).takeToken ans p c m mark).compareCopies p l c k).settleCore ans p l c := by
  obtain ⟨runs, role, slot, message, marked, kind, code, mslot, attempt⟩ := token
  subst message
  subst marked
  unfold State.receiveToken
  dsimp only
  rw [if_neg]
  rw [runs, role, kind, code, mslot]
  rintro (h | h | h | h | h | h | h)
  · exact nomatch h
  · exact h rfl
  · exact h rfl
  · exact h rfl
  · exact h rfl
  · omega
  · omega

theorem tokenReceive_takes (planned : Planned s p l) (byRelay : relayed = true → n = (l.relay + 2 * k + r) % 8192)
    (direct : relayed = false → s.lineOf (p.coll + 0x400000000 + c / 32 * 262144 + ((2 * k + r) * 32 + c % 32) * 64) = some (c.val, n)) :
    ∃ t, exec (.tokenReceive c k r relayed) s = .next t ∧ LibDone (s.receiveToken (libAnswers s) p l c n k r) t := by
  refine ⟨_, rfl, libDone_withAnswers ?_⟩
  rw [planned_plan? planned]
  dsimp only
  cases relayed with
  | true => rw [if_pos rfl, byRelay rfl]
  | false =>
    have place : s.lineOf (p.coll + tokenOff k r c) = some (c.val, n) := (congrArg s.lineOf (by unfold tokenOff; omega)).trans (direct rfl)
    rw [if_neg (by decide), place]
    exact if_pos rfl

/-- The two copies of a slot once one of them has come: in the order of their roles. -/
theorem copies_in_order {x : Collective} {c k : Nat} {r : Fin 2} {y z : Copy} (mine : x.copy c k r = some y)
    (other : x.copy c k (1 - r) = some z) : ∃ a b, x.copy c k 0 = some a ∧ x.copy c k 1 = some b ∧ a.agrees b = z.agrees y ∧
      a.digest = (if r.val = 0 then y.digest else z.digest) ∧ b.digest = (if r.val = 0 then z.digest else y.digest) ∧
      (y.attempt = 0 → z.attempt = 0 → a.attempt = 0 ∧ b.attempt = 0) := by
  match r with
  | 0 =>
    refine ⟨y, z, mine, other, ?_, rfl, rfl, fun hy hz => ⟨hy, hz⟩⟩
    unfold Copy.agrees
    simp only [eq_comm]
  | 1 => exact ⟨z, y, other, mine, rfl, rfl, rfl, fun hy hz => ⟨hz, hy⟩⟩

end

/-- What the two copies of a slot, compared and settled, leave (R367, Table 14.8). -/
theorem compared_and_settled {u v : State} (ans : List PeerAnswer) {p : Plan} {l : Layout} {c k : Nat} {a b : Copy}
    (hv : v = (u.compareCopies p l c k).settleCore ans p l c) (first : u.coll.copy c k 0 = some a) (second : u.coll.copy c k 1 = some b)
    (calm : u.coll.recomputing.contains (pairKey c k) = false) (began : (u.coll.began.find c).isSome = true)
    (wf : Tab.wf u.coll.taken = true) (slot : k < p.slotCount) :
    (a.agrees b = true → v.coll.diverged = u.coll.diverged ∧ v.coll.holdDivergence = u.coll.holdDivergence) ∧
    (a.agrees b = false →
      ⟨0x52, [wd u.coll.step, wd (k + p.policy * 256 + (if u.coll.voted then 65536 else 0) + c * 2 ^ 32), wd a.digest, wd b.digest]⟩ ∈ v.occurrences ∧
      (u.coll.voted = true → v.coll.diverged = u.coll.diverged) ∧
      (u.coll.voted = false → p.policy < 2 → v.coll.diverged.contains (pairKey c k) = true ∧ v.coll.taken.find (pairKey c k) = some 0 ∧
        v.coll.holdDivergence = (u.coll.holdDivergence || decide (p.policy = 0))) ∧
      (u.coll.voted = false → p.policy = 2 → a.attempt = 0 → b.attempt = 0 →
        v.coll.recomputing.contains (pairKey c k) = true ∧ v.coll.taken.find (pairKey c k) = none)) := by
  subst hv
  obtain ⟨settled, on⟩ := settleCore_resettled (u.compareCopies p l c k) ans p l c
  have taken (w : State) (hw : u.compareCopies p l c k = w) (open_ : w.coll.voted = false) (begun : w.coll.began = u.coll.began)
      (same : w.coll.taken = u.coll.taken) : ((u.compareCopies p l c k).settleCore ans p l c).coll.taken.find (pairKey c k) =
        w.coll.choose c k (p.backup p.ownStage k).isSome := by
    rw [hw]
    exact settleCore_taken ans l open_ (by rw [begun]; exact began) (by rw [same]; exact wf) slot
  refine ⟨fun agree => ?_, fun differ => ?_⟩
  · rw [settled.read Collective.diverged, settled.read Collective.holdDivergence, compareCopies_agree p l first second calm agree]
    exact ⟨rfl, rfl⟩
  · have diff := compareCopies_differ p l first second calm differ
    have event (o : Occurrence) (told : o ∈ (u.divergence p c k a b).occurrences) : o ∈ (u.compareCopies p l c k).occurrences := by
      rw [diff]
      split
      · exact told
      · split
        · exact (askAgain_onward _ p l c k).events o told
        · exact told
    refine ⟨on.events _ ?_, fun voted => ?_, fun open_ policy => ?_, fun open_ policy ha hb => ?_⟩
    · exact event _ (List.mem_append_right _ (List.mem_singleton_self _))
    · rw [settled.read Collective.diverged, diff, if_pos voted]
      rfl
    · rw [if_neg (by rw [open_]; decide), if_neg (fun h => by omega)] at diff
      have keys : decide (p.policy ≠ 1) = decide (p.policy = 0) := decide_eq_decide.2 (by omega)
      refine ⟨?_, ?_, ?_⟩
      · rw [settled.read Collective.diverged, diff]
        exact contains_idxAdd _ _
      · rw [taken _ diff open_ rfl rfl]
        exact choose_of_diverged (contains_idxDel _ calm) (contains_idxAdd _ _) _
      · rw [settled.read Collective.holdDivergence, diff, ← keys]
    · rw [if_neg (by rw [open_]; decide), if_pos ⟨policy, ha, hb⟩] at diff
      have asked := askAgain_coll ({ u.divergence p c k a b with coll := { u.coll with
        recomputing := idxAdd u.coll.recomputing (pairKey c k) } } : State) p l c k
      have again : (u.compareCopies p l c k).coll.recomputing.contains (pairKey c k) = true := by
        rw [diff, asked]
        exact contains_idxAdd _ _
      refine ⟨by rw [settled.read Collective.recomputing]; exact again, ?_⟩
      have coll : (u.compareCopies p l c k).coll = { u.coll with recomputing := idxAdd u.coll.recomputing (pairKey c k) } := by
        rw [diff, asked]
      rw [taken _ rfl (by rw [coll]; exact open_) (by rw [coll]) (by rw [coll])]
      exact choose_of_recomputing again _

end Sys2Proof.Machine
end

section
/-! The statement about contributions, TOKENs and lateness, settled. -/

namespace Sys2Proof.Machine

theorem libDone_given {w t : State} (h : LibDone w t) (given : w.asks = []) : t.coll = w.coll ∧ t.occurrences = w.occurrences := by
  rw [h given]
  exact ⟨rfl, rfl⟩

section
variable {s v : State} {p : Plan} {l : Layout} {c : CoreId} {k : Fin 64} {r : Fin 2} {n : Nat} {m : Message} {mark : Bool}

/-- What a TOKEN that has been received leaves (R363, R366, R367): `y` is its copy. -/
theorem receiveToken_settles (ans : List PeerAnswer) (token : TokenFor s p c n k r m mark) (wf : Tab.wf s.coll.taken = true)
    (hv : v = s.receiveToken ans p l c n k r) : ∃ y,
      v.coll.copies = s.coll.copies.filter (fun z => !(z.core = c.val && z.slot = k.val && z.role = r.val &&
        decide (s.coll.step < z.step) = decide (s.coll.step < m.step))) ++ [y] ∧
      y.core = c.val ∧ y.slot = k.val ∧ y.role = r.val ∧ y.attempt = m.attempt ∧ y.step = m.step ∧ y.digest = m.digest ∧ y.first = m.first ∧
      y.blocks = m.blocks ∧ (mark = true → y.poison = true) ∧ (y.poison = false → ∀ b ∈ y.data, b.2 = false) ∧
      ((s.coll.began.find c = none ∨ s.coll.step < m.step) → v.coll.taken = s.coll.taken ∧ v.coll.diverged = s.coll.diverged) ∧
      ((s.coll.began.find c).isSome = true → m.step ≤ s.coll.step →
        (y.poison = false → r.val = 0 → m.step = s.coll.step → s.coll.voted = false → s.coll.copy c k 1 = none →
          s.coll.recomputing.contains (pairKey c k) = false → s.coll.diverged.contains (pairKey c k) = false →
          s.coll.taken.find (pairKey c k) = none → v.coll.taken.find (pairKey c k) = some 0) ∧
        (∀ z, s.coll.copy c k (1 - r) = some z → s.coll.recomputing.contains (pairKey c k) = false →
          (z.agrees y = true → v.coll.diverged = s.coll.diverged ∧ v.coll.holdDivergence = s.coll.holdDivergence) ∧
          (z.agrees y = false →
            ⟨0x52, [wd s.coll.step, wd (k + p.policy * 256 + (if s.coll.voted then 65536 else 0) + c * 2 ^ 32),
              wd (if r.val = 0 then y.digest else z.digest), wd (if r.val = 0 then z.digest else y.digest)]⟩ ∈ v.occurrences ∧
            (s.coll.voted = true → v.coll.diverged = s.coll.diverged) ∧
            (s.coll.voted = false → p.policy < 2 → v.coll.diverged.contains (pairKey c k) = true ∧ v.coll.taken.find (pairKey c k) = some 0 ∧
              v.coll.holdDivergence = (s.coll.holdDivergence || decide (p.policy = 0))) ∧
            (s.coll.voted = false → p.policy = 2 → y.attempt = 0 → z.attempt = 0 →
              v.coll.recomputing.contains (pairKey c k) = true ∧ v.coll.taken.find (pairKey c k) = none)))) := by
  have receives := receiveToken_takes (l := l) ans token
  obtain ⟨-, -, slot, -, -, -, code, mslot, -⟩ := token
  obtain ⟨u, hu⟩ : ∃ u, u = (s.readLine c n).takeToken ans p c m mark := ⟨_, rfl⟩
  obtain ⟨y, joined, core, hslot, role, attempt, step, digest, first, blocks, marked, clean⟩ :=
    takeToken_copy (s.readLine c n) ans p c m mark
  rw [← hu] at joined receives
  change u.coll = s.coll.withToken y at joined
  rw [← hv] at receives
  rw [code] at role
  rw [mslot] at hslot
  have copies : u.coll.copies = s.coll.copies.filter (fun z => !(z.core = c.val && z.slot = k.val && z.role = r.val &&
      decide (s.coll.step < z.step) = decide (s.coll.step < m.step))) ++ [y] := by
    rw [joined, ← core, ← hslot, ← role, ← step]
    rfl
  have began : u.coll.began = s.coll.began := by rw [joined]; rfl
  have ustep : u.coll.step = s.coll.step := by rw [joined]; rfl
  have same {β : Type} (f : Collective → β) (hf : f (s.coll.withToken y) = f s.coll) : f u.coll = f s.coll := by rw [joined, hf]
  obtain ⟨compared, -⟩ := compareCopies_compared u p l c k
  obtain ⟨settled, -⟩ := settleCore_resettled (u.compareCopies p l c k) ans p l c
  have late : (s.coll.began.find c = none ∨ s.coll.step < m.step) → v = u := fun h => by
    rw [receives, began, ustep]
    exact if_pos (h.imp_left fun none => by rw [none]; rfl)
  have due (hb : (s.coll.began.find c).isSome = true) (hs : m.step ≤ s.coll.step) :
      v = (u.compareCopies p l c k).settleCore ans p l c := by
    rw [receives, began, ustep]
    refine if_neg ?_
    rintro (none | after)
    · rw [Option.isNone_eq_false_iff.2 hb] at none
      exact nomatch none
    · omega
  refine ⟨y, ?_, core, hslot, role, attempt, step, digest, first, blocks, marked, clean, fun h => ?_, fun hb hs => ⟨?_, ?_⟩⟩
  · rw [← copies]
    by_cases h : s.coll.began.find c = none ∨ s.coll.step < m.step
    · rw [late h]
    · obtain ⟨hb, hs⟩ := not_or.1 h
      rw [due (Option.isSome_iff_ne_none.2 hb) (Nat.not_lt.1 hs), settled.read Collective.copies]
      exact congrArg (·.2.1) compared.phase
  · rw [late h]
    exact ⟨same Collective.taken rfl, same Collective.diverged rfl⟩
  · intro hclean hr now open_ alone calm one free
    have other : u.coll.copy c k 1 = none := by
      rw [joined, copy_withToken_other (by rw [role, hr]; decide)]
      exact alone
    have here : u.coll.present c k 0 = some y := by
      have present := present_withToken (x := s.coll) (y := y) (step.trans now)
      rwa [core, hslot, role, hr, ← joined] at present
    rw [due hb hs, compareCopies_of_absent p l (r := 1) c (by decide) other,
      settleCore_taken ans l ((same Collective.voted rfl).trans open_) (by rw [began]; exact hb)
        (by rw [same Collective.taken rfl]; exact wf) slot]
    exact choose_of_primary ((same (·.recomputing.contains (pairKey c k)) rfl).trans calm)
      ((same (·.diverged.contains (pairKey c k)) rfl).trans one) ((same (·.taken.find (pairKey c k)) rfl).trans free) here hclean
      (present_of_copy_none other) _
  · intro z hz calm
    have mine : u.coll.copy c k r = some y := by
      have copy := copy_withToken_same (x := s.coll) (y := y) (by omega)
      rwa [core, hslot, role, ← joined] at copy
    have others : u.coll.copy c k (1 - r) = some z := by
      rw [joined, copy_withToken_other (by rw [role]; omega)]
      exact hz
    obtain ⟨a, b, first, second, agrees, digestA, digestB, attempts⟩ := copies_in_order mine others
    have after := compared_and_settled ans (due hb hs) first second ((same (·.recomputing.contains (pairKey c k)) rfl).trans calm)
      (by rw [began]; exact hb) (by rw [same Collective.taken rfl]; exact wf) slot
    rw [agrees, digestA, digestB, same Collective.diverged rfl, same Collective.holdDivergence rfl, same Collective.voted rfl, ustep] at after
    obtain ⟨agree, differ⟩ := after
    refine ⟨agree, fun apart => ?_⟩
    obtain ⟨told, voted, diverges, again⟩ := differ apart
    exact ⟨told, voted, diverges, fun open_ policy hy hz => again open_ policy (attempts hy hz).1 (attempts hy hz).2⟩

end

/-! ### SLOT_LATE (R366) -/

section
variable {s w : State} {p : Plan} {l : Layout} {c : CoreId} {k : Fin 64} {c0 : Nat}

theorem slotLate_settles (planned : Planned s p l) (runs : s.coreRuns c = true) (role : p.role = 0) (deadline : p.lateCycles ≠ 0)
    (slot : k.val < p.slotCount) (backup : (p.backup p.ownStage k).isSome = true) (open_ : s.coll.voted = false)
    (fresh : s.coll.late.contains (64 * c + k) = false) (began : s.coll.began.find c = some c0)
    (passed : p.lateCycles ≤ ((s.counterWord c 255).toNat % 2 ^ 48 + 2 ^ 48 - c0) % 2 ^ 48)
    (absent : ∀ y, s.coll.present c k 0 = some y → y.poison = true)
    (hw : w = { s with
      coll := { s.coll with late := idxAdd s.coll.late (64 * c.val + k.val) },
      occurrences := s.occurrences ++ [⟨0x51, [BitVec.ofNat 64 s.coll.step, BitVec.ofNat 64 (k + c * 65536)]⟩] }) :
    ∃ t, exec (.slotLate c k) s = .next t ∧ LibDone (w.settleCore (libAnswers s) p l c) t := by
  refine ⟨_, rfl, libDone_withAnswers ?_⟩
  rw [planned_plan? planned, began]
  dsimp only
  have there : ((s.coll.present c k 0).any fun y => !y.poison) = false := by
    cases present : s.coll.present c k 0 with
    | none => rfl
    | some y => rw [Option.any_some, absent y present]; rfl
  subst hw
  refine if_neg ?_
  rw [runs, open_, there, Option.isNone_eq_false_iff.2 backup, show s.coll.late.contains (pairKey c k) = false from fresh]
  rintro (h | h | h | h | h | h | h | h | h)
  · exact nomatch h
  · exact h role
  · exact deadline h
  · omega
  · exact nomatch h
  · exact nomatch h
  · exact nomatch h
  · exact nomatch h
  · omega

theorem late_settled (ans : List PeerAnswer) (slot : k.val < p.slotCount) (backup : (p.backup p.ownStage k).isSome = true)
    (open_ : s.coll.voted = false) (began : (s.coll.began.find c).isSome = true) (wf : Tab.wf s.coll.taken = true)
    (hw : w.coll = { s.coll with late := idxAdd s.coll.late (pairKey c k) }) {y : Copy} (there : s.coll.present c k 1 = some y)
    (clean : y.poison = false) (calm : s.coll.recomputing.contains (pairKey c k) = false)
    (one : s.coll.diverged.contains (pairKey c k) = false) (free : s.coll.taken.find (pairKey c k) = none) :
    (w.settleCore ans p l c).coll.taken.find (pairKey c k) = some 1 := by
  rw [settleCore_taken ans l (by rw [hw]; exact open_) (by rw [hw]; exact began) (by rw [hw]; exact wf) slot, backup]
  refine choose_of_late (by rw [hw]; exact calm) (by rw [hw]; exact one) (by rw [hw]; exact free) (by rw [hw]; exact contains_idxAdd _ _) ?_ clean
  rw [hw]
  exact there

end

/-- Settles O55: a contribution is what thinning and its accesses make of it, and the two roles' copies of a slot are compared and taken
by what the owner core knows of that slot alone. -/
theorem collectiveContributions : Obligations.CollectiveContributions := by
  unfold Obligations.CollectiveContributions
  refine ⟨?_, ?_, ?_, ?_, ?_⟩
  case refine_1 => exact fun s c dva lay bs u runs read given => planStart_settled runs read given
  case refine_2 =>
    intro s p l c k q planned runs held slot piece there
    refine ⟨fun done begun => ?_, fun done fresh => ?_, fun busy => contributionSend_waits planned busy, ?_⟩
    · obtain ⟨t, ran, ends⟩ := contributionSend_sends (q := q) planned runs held slot done
      have started : s.startPhase (libAnswers s) p l = s := if_pos begun
      rw [started] at ends
      exact ⟨t, _, ran, ends, contribute_contributed _ c 0 (.inl begun) slot piece there⟩
    · obtain ⟨t, ran, ends⟩ := contributionSend_sends (q := q) planned runs held slot done
      obtain ⟨on, counts, copies, step⟩ := startPhase_begins (ans := libAnswers s) (p := p) (l := l) fresh
      exact ⟨t, _, _, ran, ends, contribute_contributed _ c 0 (startPhase_begun fresh) slot (by rw [slotCores_onward on]; exact piece)
        (by rw [areaOf_onward on]; exact there), counts, copies, step⟩
    · intro d n m line message clean kind step mslot begun
      obtain ⟨t, ran, ends⟩ := recompute_sends (q := q) planned runs held line message clean kind step mslot
      have on : Onward s (s.readLine d n) := atCore_onward s d _
      exact ⟨t, _, ran, ends, contribute_contributed _ c 1 (begun.imp id fun none => (ownerCores_onward on p).trans none) slot
        (by rw [slotCores_onward on]; exact piece) (by rw [areaOf_onward on]; exact there)⟩
  case refine_3 => exact fun s p l q k r d n planned line other runs => tokenReceive_relays planned line other runs
  case refine_4 =>
    intro s p l c k r n relayed m mark key planned token byRelay direct wf hkey given
    subst hkey
    obtain ⟨t, ran, ends⟩ := tokenReceive_takes planned byRelay direct
    obtain ⟨y, settled⟩ := receiveToken_settles (l := l) (libAnswers s) token wf rfl
    obtain ⟨coll, events⟩ := libDone_given ends given
    rw [← coll, ← events] at settled
    exact ⟨t, y, ran, settled⟩
  case refine_5 =>
    intro s p l c k c0 w planned runs role deadline slot backup open_ fresh began passed absent wf hw
    obtain ⟨t, ran, ends⟩ := slotLate_settles planned runs role deadline slot backup open_ fresh began passed absent hw
    obtain ⟨settled, on⟩ := settleCore_resettled w (libAnswers s) p l c
    refine ⟨t, _, ran, rfl, ends, fun given => ?_⟩
    obtain ⟨coll, events⟩ := libDone_given ends given
    rw [coll, events]
    refine ⟨settled.read Collective.late, on.events _ ?_, fun y there clean calm one free => ?_⟩
    · rw [hw]
      exact List.mem_append_right _ (List.mem_singleton_self _)
    · exact late_settled (libAnswers s) slot backup open_ (by rw [began]; rfl) wf (by rw [hw]; rfl) there clean calm one free

end Sys2Proof.Machine
end

section
/-! A restore is asked for, and its pages are loaded (R392 to R395, R397). -/

namespace Sys2Proof.Machine

/-- A step of the Scrivener that needs no answers, or has them all, ends in what its meaning gives (log 45). -/
theorem houseDone_withAnswers {s w : State} {f : List PeerAnswer → State → State} (h : f (s.peerAnswers (· = .house)) s = w) :
    HouseDone w (s.withAnswers (· = .house) 3 f) :=
  withAnswers_given h

/-! ### RESTORE (R392 to R395) -/

section
variable (s : State) (answers : List PeerAnswer)

theorem readManifest_onward (base step : Nat) (needSig : Bool) : Onward s (s.readManifest base step needSig answers).2 := by
  have reads (u : State) (a n : Nat) : Onward u ((u.needRange 11 scrivMaster a n false).readRange .house scrivMaster a n answers).2.2 :=
    (needRange_onward u _ _ _ _ _).trans (readRange_onward _ _ _ _ _ _)
  unfold State.readManifest
  dsimp only
  split
  · exact reads s _ _
  · exact (reads s _ _).trans (reads _ _ _)

theorem checkRestore_onward (cmd : Nat) (bs : List Byte) : Onward s (s.checkRestore cmd bs answers).2 := by
  unfold State.checkRestore
  dsimp only
  rw [apply_ite Prod.snd]
  refine .ite (.refl s) ?_
  have first := readManifest_onward s answers (fieldAt bs 8 8) (fieldAt bs 0 8) (bitOf (fieldAt bs 56 8) 5)
  obtain ⟨m, u, eq⟩ : ∃ m u, s.readManifest (fieldAt bs 8 8) (fieldAt bs 0 8) (bitOf (fieldAt bs 56 8) 5) answers = (m, u) := ⟨_, _, rfl⟩
  rw [eq] at first ⊢
  cases m with
  | inl why => exact first
  | inr m =>
    dsimp only
    obtain ⟨⟨m', v⟩, eq'⟩ : ∃ y, (if bitOf (fieldAt bs 56 8) 4 = true then
      u.readManifest (fieldAt bs 16 8) (fieldAt bs 0 8) (bitOf (fieldAt bs 56 8) 5) answers else (.inr m, u)) = y := ⟨_, rfl⟩
    have both : Onward s v := by
      rw [show v = (if bitOf (fieldAt bs 56 8) 4 = true then
        u.readManifest (fieldAt bs 16 8) (fieldAt bs 0 8) (bitOf (fieldAt bs 56 8) 5) answers else (.inr m, u)).2 from
        (congrArg Prod.snd eq').symm, apply_ite Prod.snd]
      exact .ite (first.trans (readManifest_onward u answers _ _ _)) first
    rw [eq']
    cases m' with
    | inl why => exact both
    | inr m' =>
      dsimp only
      rw [apply_ite Prod.snd, apply_ite Prod.snd]
      refine .ite both (.ite both ?_)
      cases m.entries.find? _ with
      | none => exact both
      | some y => exact both

end

/-- A context area that is not page-aligned is a bad request (R394). -/
theorem checkRestore_misaligned {s : State} {cmd : Nat} {bs : List Byte} (answers : List PeerAnswer) (odd : fieldAt bs 40 8 % pageBytes ≠ 0) :
    s.checkRestore cmd bs answers = (.inl (2, none), s) := by
  unfold State.checkRestore
  dsimp only
  rw [if_pos (.inl odd)]

/-- What a restore request comes to once it is checked. -/
def restoreAsked (c : Cmd) (bs : List Byte) : ((Nat × Option Nat) ⊕ Restore) × State → State
  | (.inl (why, page), u) =>
    ({ u with free := u.free + 1 }.raise 0x63 [wd (fieldAt bs 0 8), wd why, wd (page.getD ((Config.freeWord u.free).toNat % 2 ^ 25))]).endCmd c 8
      (why + page.getD ((Config.freeWord u.free).toNat % 2 ^ 25) * 256)
  | (.inr r, u) => { u.startCmd c .running with restore := some r }.setDev .restore

theorem restore_checks {s : State} {c : Cmd} {bs : List Byte} {a n : Nat} (h : Starts s 0x22 c) (up : s.port.linkUp = true)
    (runs : Scrivening s) (idle : s.snapshot = none) (fresh : s.restore = none) (ready : s.house.dev = .ready) (quiet : s.allQuiescent = true)
    (halted : ∀ d < 1024, s.fenced d = false → (s.core d).allHalted = true) (ha : a = c.q 1 63 0)
    (hn : n = if (leNat (((s.hostMem.bytes a 1152).drop 56).take 8)).testBit 6 then 3200 else 1152) (hbs : bs = s.hostMem.bytes a n)
    (clean : ∀ l, l ∈ linesOf a 1152 ∨ l ∈ linesOf a n → idxMem s.hostPoison l = false) (fields : restoreFieldsOk bs a n = true) :
    ∃ t, exec .restore s = .next t ∧
      HouseDone (restoreAsked c bs (s.checkRestore c.num bs (s.peerAnswers (· = .house)))) t := by
  have head : s.deviceRead (c.q 1 63 0) 1152 = (s.hostMem.bytes a 1152, false) := by
    rw [← ha]
    exact deviceRead_of_clean fun l hl => clean l (.inl hl)
  have whole : s.deviceRead a n = (bs, false) := by
    rw [hbs]
    exact deviceRead_of_clean fun l hl => clean l (.inr hl)
  have all : (s.liveCores.all fun c => (s.core c).allHalted) = true := List.all_eq_true.2 fun d hd => by
    obtain ⟨small, live⟩ := List.mem_filter.1 (show d ∈ (List.range 1024).filter (fun c => !s.fenced c) from hd)
    exact halted d (List.mem_range.1 small) (by simpa using live)
  refine ⟨_, rfl, houseDone_withAnswers ?_⟩
  simp only [h.1.settleCmds, h.2.1, up, scrivenerRuns_of runs, Bool.not_true, Bool.false_eq_true, or_self, if_false, head]
  rw [← ha]
  have size : (if bitOf (fieldAt (s.hostMem.bytes a 1152) 56 8) 6 = true then 3200 else 1152) = n := hn.symm
  rw [size, whole]
  dsimp only
  rw [fields, Bool.or_self, requestStatus_of_fields h, ready, idle, fresh, quiet, all]
  obtain ⟨y, hy⟩ : ∃ y, y = s.checkRestore c.num bs (s.peerAnswers (· = .house)) := ⟨_, rfl⟩
  rw [← hy]
  obtain ⟨⟨why, page⟩ | r, u⟩ := y
  · rfl
  · rfl

/-- A refusal's event is raised, and its command ends (R397). -/
theorem restoreAsked_refused {u : State} {c : Cmd} (bs : List Byte) {why : Nat} {page : Option Nat} (bad : c.bad = false)
    (serves : 1 ∉ u.house.services) : ∃ p, (∀ q, page = some q → p = q) ∧ EndedCmd { u with
        free := u.free + 1, occurrences := u.occurrences ++ [⟨0x63, [wd (leNat (bs.take 8)), wd why, wd p]⟩] }
      (restoreAsked c bs (.inl (why, page), u)) c 8 (why + p * 256) := by
  refine ⟨page.getD ((Config.freeWord u.free).toNat % 2 ^ 25), fun q hq => by rw [hq]; rfl, ?_⟩
  exact endCmd_ended (u := { u with free := u.free + 1, occurrences := u.occurrences ++ [⟨0x63, [wd (leNat (bs.take 8)), wd why, _]⟩] })
    8 _ bad serves

/-! ### RESTORE_PAGE_LOAD (R394, R395, R397) -/

section
variable (s : State) (r : Restore)

theorem readSource_onward (src : RestoreSource) (answers : List PeerAnswer) : Onward s (s.readSource r src answers).2 :=
  (needRange_onward s _ _ _ _ _).trans (readRange_onward _ _ _ _ _ _)

theorem undefineBlock_onward (dva : Nat) : Onward s (s.undefineBlock dva) := by
  unfold State.undefineBlock
  split
  · exact .refl s
  · exact .trans (t := s.takeBlock.2.takeFree.2) (.same rfl rfl rfl) (writeAt_onward _ _ _)
  · exact .refl s

theorem undefinePages_onward : Onward s (s.undefinePages r) :=
  .fold (fun u _ => .fold (fun v _ => undefineBlock_onward v _) _ u) _ s

theorem devAfter_onward {s t : State} (h : Onward s t) : devAfter t = devAfter s := by
  unfold devAfter
  rw [h.house]

theorem refuseRestore_ends (cmd step reason page : Nat) : (s.refuseRestore cmd step reason page).restore = none ∧
    (s.refuseRestore cmd step reason page).house.dev = devAfter s ∧
    ⟨0x63, [wd step, wd reason, wd page]⟩ ∈ (s.refuseRestore cmd step reason page).occurrences := by
  unfold State.refuseRestore
  refine ⟨endScrivener_read _ _ _ _ _ State.restore, ?_, ?_⟩
  · rw [endScrivener_house]
    rfl
  · rw [endScrivener_read _ _ _ _ _ State.occurrences]
    exact List.mem_append_right _ (List.mem_singleton_self _)

/-- A page with no good copy ends the restore (R394, R397). -/
theorem refusePage_ends {s u : State} (h : Onward s u) (y : PageEntry) : (u.refusePage r y).restore = none ∧
    (u.refusePage r y).house.dev = devAfter s ∧ ⟨0x63, [wd r.step, 0x0A, wd y.page]⟩ ∈ (u.refusePage r y).occurrences := by
  obtain ⟨gone, dev, told⟩ := refuseRestore_ends (u.undefinePages r) r.cmd r.step 0x0A y.page
  exact ⟨gone, dev.trans (devAfter_onward (h.trans (undefinePages_onward u r))), told⟩

variable {s r} {y : PageEntry} {answers : List PeerAnswer} {src : RestoreSource} {rest : List RestoreSource}

theorem exec_restorePageLoad (has : s.restore = some r) (next : r.entries[r.next]? = some y) (runs : Scrivening s) :
    ∃ t, exec .restorePageLoad s = .next t ∧ HouseDone (s.loadPage r y (s.peerAnswers (· = .house))) t := by
  refine ⟨_, rfl, houseDone_withAnswers ?_⟩
  rw [has]
  dsimp only
  rw [next]
  exact if_pos (scrivenerRuns_of runs)

section
variable (given : (s.recall 11 scrivMaster (mapPage r.pageMap y.page * pageBytes) pageBytes true).1 = false)
include given

theorem loadPage_first (sources : r.sources = src :: rest) (fits : y.fits (s.readSource r src answers).1 = true) : s.loadPage r y answers =
    (s.readSource r src answers).2.putPage r (mapPage r.pageMap y.page * pageBytes) (s.readSource r src answers).1 0 := by
  unfold State.loadPage
  simp only [given, sources, fits, Bool.false_eq_true, if_false, if_true]

theorem loadPage_alone (sources : r.sources = [src]) (differs : y.fits (s.readSource r src answers).1 = false) :
    s.loadPage r y answers = (s.readSource r src answers).2.refusePage r y := by
  unfold State.loadPage
  simp only [given, sources, differs, Bool.false_eq_true, if_false]

theorem loadPage_second {other : RestoreSource} (sources : r.sources = src :: other :: rest)
    (differs : y.fits (s.readSource r src answers).1 = false) : s.loadPage r y answers =
      if y.fits ((s.readSource r src answers).2.readSource r other answers).1 = true
      then ((s.readSource r src answers).2.readSource r other answers).2.putPage r (mapPage r.pageMap y.page * pageBytes)
        ((s.readSource r src answers).2.readSource r other answers).1 1
      else ((s.readSource r src answers).2.readSource r other answers).2.refusePage r y := by
  unfold State.loadPage
  simp only [given, sources, differs, Bool.false_eq_true, if_false]

end

end

end Sys2Proof.Machine
end

section
/-! A core is restored from its image (R396, R398). -/

namespace Sys2Proof.Machine

/-! ### Tables filled in order -/

theorem get_map_range {α : Type} (d : α) (f : Nat → α) (j : Nat) : ∀ n i, i ≤ j → j < i + n →
    Tab.get d ((List.range' i n).map fun i => (i, f i)) j = f j
  | 0, i, low, high => absurd high (by omega)
  | n + 1, i, low, high => by
    rw [List.range'_succ, List.map_cons, Tab.get]
    by_cases here : i = j
    · rw [if_pos here, here]
    · rw [if_neg here, if_neg (by omega)]
      exact get_map_range d f j n (i + 1) (by omega) (by omega)

theorem tabOf_get {α : Type} (d : α) {n j : Nat} (f : Nat → α) (hj : j < n) : (tabOf n f).get d j = f j := by
  rw [tabOf, List.range_eq_range']
  exact get_map_range d f j n 0 (Nat.zero_le j) (by omega)

/-! ### What the context port writes, and the rest of the restore keeps (R396) -/

/-- What a core has from the port: notches, threads, stationary formats, far cache, and whether its feeders are empty. -/
def CoreSt.ported (k : CoreSt) := (k.notches, k.threads, k.prevFmts, k.farCache, k.pipe.feeders.isEmpty)

section
variable (e : Eff)

theorem writeLs_ported (a : Nat) (bs : List (Byte × Bool)) : (e.writeLs a bs).k.ported = e.k.ported := by
  unfold CoreSt.ported Eff.writeLs CoreSt.writeLs
  dsimp only
  rw [List.isEmpty_map]

theorem mergeImage_ported (tile : Nat) (base : Int) : (e.mergeImage (mergeOp tile base)).k.ported = e.k.ported := by
  obtain ⟨ls, led, g, eq, -⟩ := (mergeImage_merged (d := mergeOp tile base) (by show 64 ≤ 64; omega) (by show 32 ≤ 32; omega) e).frame
  rw [eq]
  rfl

theorem restoreContext_ported (im : List (Byte × Bool)) (release : Word) :
    (e.restoreContext im release).k.ported = (e.k.loadPort im).ported := by
  obtain ⟨x, hx⟩ : ∃ x : Eff, x = { e with k := e.k.loadPort im } := ⟨_, rfl⟩
  have last (y : Eff) (a b : List (Byte × Bool)) : (((y.writeTrf 0 a).writeLs 0 b).mail release).k.ported = y.k.ported :=
    writeLs_ported (y.writeTrf 0 a) 0 b
  unfold Eff.restoreContext
  dsimp only
  rw [last, mergeImage_ported, mergeImage_ported, writeLs_ported, writeLs_ported]

theorem restoreContext_mail (im : List (Byte × Bool)) (release : Word) : (e.restoreContext im release).k.mailbox = release ∧
    (e.restoreContext im release).k.evPending.getLsbD 4 = true := by
  have mailed (y : Eff) : (y.mail release).k.mailbox = release ∧ (y.mail release).k.evPending.getLsbD 4 = true := by
    refine ⟨rfl, ?_⟩
    show (y.k.evPending ||| (1 <<< 4)).getLsbD 4 = true
    rw [BitVec.getLsbD_or]
    exact Bool.or_eq_true_iff.2 (.inr (by decide))
  exact mailed _

end

/-! ### The port itself -/

/-- A thread set for each index of a list, to one whose pc that index gives. -/
theorem foldl_setThread_pc {f : CoreSt → Nat → CoreSt} {pc : Nat → Word}
    (sets : ∀ k t, ∃ th, f k t = k.setThread t th ∧ th.pc = pc t) {n : Nat} : ∀ (l : List Nat) (k : CoreSt), n ∈ l ∨ (k.thread n).pc = pc n →
    ((l.foldl f k).thread n).pc = pc n
  | [], _, h => h.resolve_left List.not_mem_nil
  | t :: l, k, h => by
    refine foldl_setThread_pc sets l _ ?_
    obtain ⟨th, eq, hpc⟩ := sets k t
    by_cases here : n = t
    · right
      rw [eq, CoreSt.thread, CoreSt.setThread, here, Tab.get_set_same, hpc]
    · refine h.imp (fun mem => (List.mem_cons.1 mem).resolve_left here) fun same => ?_
      rw [eq, CoreSt.thread, CoreSt.setThread, Tab.get_set_ne _ _ _ here]
      exact same

/-- The thread of an image, as a restored core takes it: an `nwait` is looked up again. -/
def CoreSt.imageThread (k : CoreSt) (bs : List Byte) (t : Nat) : Thread :=
  let th := Thread.ofImage (k.thread t) ((bs.drop (0x400 + 512 * t)).take 512)
  if th.state = .waitNotch then { th with wait := k.nwaitOf th } else th

theorem imageThread_pc (k : CoreSt) (bs : List Byte) (t : Nat) :
    (k.imageThread bs t).pc = BitVec.ofNat 64 (leNat ((bs.drop (0x400 + 512 * t + 248)).take 8)) := by
  have word : (Thread.ofImage (k.thread t) ((bs.drop (0x400 + 512 * t)).take 512)).pc =
      BitVec.ofNat 64 (leNat ((bs.drop (0x400 + 512 * t + 248)).take 8)) := by
    show wd (fieldAt ((bs.drop (0x400 + 512 * t)).take 512) 248 8) = _
    rw [fieldAt, List.drop_take, List.take_take, List.drop_drop]
    rfl
  unfold CoreSt.imageThread
  dsimp only
  split
  · exact word
  · exact word

/-- What the port loads: the notches' words, empty caches, and the threads of the image. -/
theorem loadPort_ported (k : CoreSt) (im : List (Byte × Bool)) : ∃ k' : CoreSt, k.loadPort im =
      (List.range 4).foldl (fun k t => k.setThread t (k.imageThread (im.map (·.1)) t)) k' ∧
    k'.notches = tabOf 32 (fun j => BitVec.ofNat 48 (fieldAt (im.map (·.1)) (0x40 + 8 * j) 6)) ∧ k'.prevFmts = none ∧ k'.farCache = [] ∧
    k'.pipe.feeders = [] := ⟨_, rfl, rfl, rfl, rfl, rfl⟩

section
variable (k : CoreSt) (im : List (Byte × Bool))

theorem loadPort_notch {j : Nat} (hj : j < 32) : (k.loadPort im).notches.get 0 j =
    BitVec.ofNat 48 (leNat (((im.map (·.1)).drop (0x40 + 8 * j)).take 6)) := by
  obtain ⟨k', eq, notches, -⟩ := loadPort_ported k im
  have kept : (k.loadPort im).notches = k'.notches := by
    rw [eq]
    refine foldl_keeps CoreSt.notches (fun _ _ => ?_) _ k'
    rfl
  rw [kept, notches, tabOf_get _ _ hj]
  rfl

theorem loadPort_pc {n : Nat} (hn : n < 4) : ((k.loadPort im).thread n).pc =
    BitVec.ofNat 64 (leNat (((im.map (·.1)).drop (0x400 + 512 * n + 248)).take 8)) := by
  obtain ⟨k', eq, -⟩ := loadPort_ported k im
  rw [eq]
  exact foldl_setThread_pc (pc := fun t => BitVec.ofNat 64 (leNat (((im.map (·.1)).drop (0x400 + 512 * t + 248)).take 8)))
    (fun k t => ⟨_, rfl, imageThread_pc k _ t⟩) _ _ (.inl (List.mem_range.2 hn))

theorem loadPort_empty : (k.loadPort im).prevFmts = none ∧ (k.loadPort im).farCache = [] ∧ (k.loadPort im).pipe.feeders = [] := by
  obtain ⟨k', eq, -, fmts, far, feeders⟩ := loadPort_ported k im
  rw [eq]
  refine ⟨.trans ?_ fmts, .trans ?_ far, .trans ?_ feeders⟩
  · refine foldl_keeps CoreSt.prevFmts (fun _ _ => ?_) _ k'
    rfl
  · refine foldl_keeps CoreSt.farCache (fun _ _ => ?_) _ k'
    rfl
  · refine foldl_keeps (fun k : CoreSt => k.pipe.feeders) (fun _ _ => ?_) _ k'
    rfl

end

/-- A core as its image gives it (R396), the passing of cycles apart. -/
theorem restored_core {e : Eff} {im : List (Byte × Bool)} {release : Word} {k : CoreSt} (h : Aside (e.restoreContext im release).k k) :
    k.mailbox = release ∧ k.evPending.getLsbD 4 = true ∧
    (∀ j < 32, k.notch j = BitVec.ofNat 48 (leNat (((im.map (·.1)).drop (0x40 + 8 * j)).take 6))) ∧
    (∀ n < 4, (k.thread n).pc = BitVec.ofNat 64 (leNat (((im.map (·.1)).drop (0x400 + 512 * n + 248)).take 8))) ∧
    k.prevFmts = none ∧ k.farCache = [] ∧ k.pipe.feeders = [] := by
  obtain ⟨mail, pending⟩ := restoreContext_mail e im release
  have ported : k.ported = (e.k.loadPort im).ported := (h.read CoreSt.ported).trans (restoreContext_ported e im release)
  obtain ⟨notches, threads, fmts, far, feeders⟩ : k.notches = (e.k.loadPort im).notches ∧ k.threads = (e.k.loadPort im).threads ∧
      k.prevFmts = (e.k.loadPort im).prevFmts ∧ k.farCache = (e.k.loadPort im).farCache ∧
      k.pipe.feeders.isEmpty = (e.k.loadPort im).pipe.feeders.isEmpty :=
    ⟨congrArg (·.1) ported, congrArg (·.2.1) ported, congrArg (·.2.2.1) ported, congrArg (·.2.2.2.1) ported, congrArg (·.2.2.2.2) ported⟩
  obtain ⟨noFmts, noFar, noFeeders⟩ := loadPort_empty e.k im
  refine ⟨(h.read CoreSt.mailbox).trans mail, (congrArg (BitVec.getLsbD · 4) (h.read CoreSt.evPending)).trans pending, fun j hj => ?_,
    fun n hn => ?_, fmts.trans noFmts, far.trans noFar, ?_⟩
  · rw [CoreSt.notch, notches, loadPort_notch e.k im hj]
  · rw [CoreSt.thread, threads]
    exact loadPort_pc e.k im hn
  · rw [noFeeders] at feeders
    exact List.isEmpty_iff.1 feeders

/-! ### CONTEXT_RESTORE (R396, R398) -/

section
variable {s : State} {r : Restore} {c : CoreId} {home : Nat}

theorem exec_contextRestore (has : s.restore = some r) (runs : Scrivening s) (loaded : r.entries.length ≤ r.next)
    (mine : r.cores.contains c.val = true) (given : (s.recall 11 scrivMaster (r.ctxBase + c * imageBytes) imageBytes false).1 = false)
    (map : r.coreMap.find? (fun x => x.1 = c.val) = some (c.val, home)) :
    ∃ t, exec (.contextRestore c) s = .next t ∧ HouseDone (s.loadImage r c home (s.peerAnswers (· = .house))) t := by
  refine ⟨_, rfl, houseDone_withAnswers ?_⟩
  simp only [has, scrivenerRuns_of runs, mine, given, map, Nat.not_lt.2 loaded, Bool.not_true, Bool.false_eq_true, or_self, if_false]

theorem restoreDone_ends (u : State) (r : Restore) : (u.restoreDone r).cores = u.cores ∧ (u.restoreDone r).restore = none ∧
    (u.restoreDone r).house.lastRestore = r.step ∧ (u.restoreDone r).house.dev = devAfter u ∧
    ⟨0x62, [wd r.step, wd r.second]⟩ ∈ (u.restoreDone r).occurrences := by
  unfold State.restoreDone
  refine ⟨endScrivener_read _ _ _ _ _ State.cores, endScrivener_read _ _ _ _ _ State.restore, ?_, ?_, ?_⟩
  · rw [endScrivener_house]
    rfl
  · rw [endScrivener_house]
    rfl
  · rw [endScrivener_read _ _ _ _ _ State.occurrences]
    exact List.mem_append_right _ (List.mem_singleton_self _)

/-- One core restored: it has its image, and the restore goes on or is done (R398). -/
theorem restoredCore_ends (u : State) (r : Restore) (left : List Nat) : (u.restoredCore r left).cores = u.cores ∧
    (left ≠ [] → (u.restoredCore r left).restore = some { r with cores := left }) ∧
    (left = [] → (u.restoredCore r left).restore = none ∧ (u.restoredCore r left).house.lastRestore = r.step ∧
      (u.restoredCore r left).house.dev = devAfter u ∧ ⟨0x62, [wd r.step, wd r.second]⟩ ∈ (u.restoredCore r left).occurrences) := by
  unfold State.restoredCore
  cases left with
  | nil =>
    obtain ⟨cores, ends⟩ := restoreDone_ends u r
    exact ⟨cores, fun some_ => absurd rfl some_, fun _ => ends⟩
  | cons d ds => exact ⟨rfl, fun _ => rfl, nofun⟩

theorem loadImage_ends {u : State} {answers : List PeerAnswer} {im : List (Byte × Bool)} {left : List Nat}
    (him : im = (s.readRange .house scrivMaster (r.ctxBase + c * imageBytes) imageBytes answers).1)
    (hu : u = (s.readRange .house scrivMaster (r.ctxBase + c * imageBytes) imageBytes answers).2.2)
    (hleft : left = r.cores.filter (· ≠ c.val)) : ∃ k, (s.loadImage r c home answers).cores = u.cores.set home k ∧
      k.mailbox = r.release ∧ k.evPending.getLsbD 4 = true ∧
      (∀ j < 32, k.notch j = BitVec.ofNat 48 (leNat (((im.map (·.1)).drop (0x40 + 8 * j)).take 6))) ∧
      (∀ n < 4, (k.thread n).pc = BitVec.ofNat 64 (leNat (((im.map (·.1)).drop (0x400 + 512 * n + 248)).take 8))) ∧
      k.prevFmts = none ∧ k.farCache = [] ∧ k.pipe.feeders = [] ∧
      (left ≠ [] → (s.loadImage r c home answers).restore = some { r with cores := left }) ∧
      (left = [] → (s.loadImage r c home answers).restore = none ∧ (s.loadImage r c home answers).house.lastRestore = r.step ∧
        (s.loadImage r c home answers).house.dev = devAfter s ∧
        ⟨0x62, [wd r.step, wd r.second]⟩ ∈ (s.loadImage r c home answers).occurrences) := by
  have path : Onward s u := hu ▸ readRange_onward s _ _ _ _ _
  have eq : s.loadImage r c home answers = (u.atCore home fun e => e.restoreContext im r.release).restoredCore r left := by
    rw [him, hu, hleft]
    rfl
  rw [eq]
  obtain ⟨k, aside, -, landed⟩ := landCore_lands u home ((u.coreEff home).restoreContext im r.release)
  obtain ⟨cores, more, last⟩ := restoredCore_ends (u.atCore home fun e => e.restoreContext im r.release) r left
  obtain ⟨mail, pending, notch, pc, fmts, far, feeders⟩ := restored_core aside
  refine ⟨k, cores.trans (congrArg State.cores landed), mail, pending, notch, pc, fmts, far, feeders, more, fun none => ?_⟩
  obtain ⟨gone, step, dev, told⟩ := last none
  exact ⟨gone, step, dev.trans (devAfter_onward (path.trans (atCore_onward u _ _))), told⟩

end

/-- Settles O60: a request's checks change nothing the refusal names, a page is written only from bytes with its entry's digest, and the
stores that pass through the local store leave what the port wrote. -/
theorem restores : Obligations.Restores := by
  unfold Obligations.Restores
  refine ⟨?_, ?_, ?_⟩
  case refine_1 =>
    intro s c answers bs a n told h up runs idle fresh ready quiet halted ha hn hbs clean fields hanswers htold
    obtain ⟨t, ran, done⟩ := restore_checks h up runs idle fresh ready quiet halted ha hn hbs clean fields
    rw [← hanswers] at done
    have house := (checkRestore_onward s answers c.num bs).house
    have refused (why : Nat) (page : Option Nat) (u : State) (eq : s.checkRestore c.num bs answers = (.inl (why, page), u)) :
        ∃ p, (∀ q, page = some q → p = q) ∧ EndedCmd (told u why p) (restoreAsked c bs (s.checkRestore c.num bs answers)) c 8 (why + p * 256) := by
      rw [eq] at house ⊢
      subst htold
      exact restoreAsked_refused bs h.not_bad (by rw [show u.house = s.house from house]; exact h.not_failed)
    refine ⟨t, _, ran, done, fun r u eq => by rw [eq]; rfl, refused, fun odd => ?_⟩
    obtain ⟨p, -, ended⟩ := refused 2 none s (checkRestore_misaligned answers odd)
    exact ⟨p, ended⟩
  case refine_2 =>
    intro s u r y answers home src rest bs Refused has next runs hanswers hhome given sources read hRefused
    subst hanswers
    subst hhome
    obtain ⟨t, ran, done⟩ := exec_restorePageLoad has next runs
    have first : (s.readSource r src (s.peerAnswers (· = .house))) = (bs, u) := read.symm
    have path : Onward s u := (show (s.readSource r src _).2 = u from congrArg Prod.snd first) ▸ readSource_onward s r src _
    have differs {x : List (Byte × Bool)} (h : digest (x.map (·.1)) ≠ y.digest) : y.fits x = false := decide_eq_false h
    refine ⟨t, _, ran, done, fun good => ?_, fun bad alone => ?_, fun bad other more bs' u' hrest read' => ⟨fun good => ?_, fun bad' => ?_⟩⟩
    · rw [loadPage_first given sources (by rw [first]; exact decide_eq_true good), first]
      rfl
    · rw [loadPage_alone given (by rw [sources, alone]) (by rw [first]; exact differs bad), first, hRefused]
      exact refusePage_ends r path y
    · rw [loadPage_second given (by rw [sources, hrest]) (by rw [first]; exact differs bad), first, ← read',
        if_pos (show y.fits bs' = true from decide_eq_true good)]
      rfl
    · have path' : Onward s u' := path.trans ((show (u.readSource r other _).2 = u' from congrArg Prod.snd read'.symm) ▸ readSource_onward u r other _)
      rw [loadPage_second given (by rw [sources, hrest]) (by rw [first]; exact differs bad), first, ← read', hRefused,
        if_neg (by rw [differs bad']; decide)]
      exact refusePage_ends r path' y
  case refine_3 =>
    intro s u c r home answers im left has runs loaded mine given hanswers map him hu hleft
    subst hanswers
    obtain ⟨t, ran, done⟩ := exec_contextRestore has runs loaded mine given map
    obtain ⟨k, ends⟩ := loadImage_ends (home := home) him hu hleft
    exact ⟨t, _, k, ran, done, ends⟩

end Sys2Proof.Machine
end
